-- ==== Sys2Proof/Word.lean ====
section
/-! DEFINITION. The word types of the block: a register word (R10), a byte, and a byte string. -/
namespace Sys2Proof

/-- A register word: 32 bits, bit 0 least significant (R10). -/
abbrev Word := BitVec 32

/-- One byte. -/
abbrev Byte := BitVec 8

/-- A byte string, first byte first. -/
abbrev Bytes := List Byte

end Sys2Proof
end

