-- ==== Sys2Proof/Syntax.lean ====
section
/-! DEFINITION. The commands of the block: one constructor per row of spec/opcode_table.json, in the table's
order, with what the outside supplies as operands: who writes which register with which value, what a
neighbour's beat carries, what the memory, a bus, a sensor or a clock answered. -/
namespace Sys2Proof

/-- What the memory behind the initiator port answers during one command: the strings it answers reads with,
by address, and the addresses whose write it answers with BUSERR. A read of any other address answers BUSERR. -/
structure Dram where
  reads : List (Nat × Bytes) := []
  bad : List Nat := []
  deriving DecidableEq, Repr

/-- What BUSERR on the initiator port answers for the queues: a queue pair's descriptor fetch, or a request of the
descriptor with a Cellar entry. -/
inductive BusOp where
  | fetch (q : Fin 32)
  | desc (e : BitVec 11)
  deriving DecidableEq, Repr

/-- What the DRAM controller says of a read (R45, R340). -/
inductive DramErr where
  | ok | uncorrectable | buserr
  deriving DecidableEq, Repr

/-- What DRAM answers on the memory downstream port during one command: the lines it holds, each with what the controller
says of its read, and the addresses of the lines whose write it answers with BUSERR. Every other line reads as zeros. -/
structure MemView where
  lines : List (Nat × DramErr × List Byte) := []
  bad : List Nat := []
  deriving DecidableEq, Repr

/-- A record of the key park image that does not verify as it is read back: a node's or a slot's, its index, and whether
the DRAM controller reported it uncorrectable (R455). -/
structure ParkFault where
  node : Bool
  index : Nat
  uncorrectable : Bool
  deriving DecidableEq, Repr

/-- What DRAM answers when the images of R453 and R522 are read back: `none` is an image as it was written; `some u` a
header, or a lookup image, that does not verify, `u` with an uncorrectable report. -/
structure ImageReads where
  header : Option Bool := none
  records : List ParkFault := []
  lookup : Option Bool := none
  deriving DecidableEq, Repr

/-- The outcomes of the power-up tests that the release of OT_PORESET_N brings: the entropy source's known-answer test, the staging
macros that fail theirs (R179), and what the self-check at the end of the start-up that it begins finds (R544). -/
structure PowerUp where
  katOk : Bool
  staging : BitVec 24 := 0
  fails : BitVec 16 := 0
  deriving DecidableEq, Repr

/-- What the release of OT_RESET_N brings: the answers of DRAM for the images, and what the self-check at the end of the start-up that
it begins finds (R544). -/
structure WarmStart where
  images : ImageReads := {}
  fails : BitVec 16 := 0
  deriving DecidableEq, Repr

/-- The item that a block of a cipher lane belongs to: a Cellar entry's, the encrypting half of a Bridle item (R224), a Loose
context's, or the lane's known-answer test. -/
inductive BlockOwner where
  | entry (e : Nat)
  | half (e : Nat)
  | loose (c : Nat)
  | known
  deriving DecidableEq, Repr

/-- The block whose drain ends: a page, a queue pair, a stream port, a Bridle pair or a memory region. -/
inductive DrainOf where
  | page (n : BitVec 6)
  | queue (n : Fin 32)
  | port (n : Fin 32)
  | pair (n : Fin 128)
  | region (n : Fin 16)
  deriving DecidableEq, Repr

/-- The commands of the block. -/
inductive Instr where
  /-- REGISTER_WRITE (R78). A host write to a register that has no row of its own is checked, accepted or rejected with an outcome code, applied by field type and recorded in the chronicle. -/
  | registerWrite (rid : BitVec 12) (strb : BitVec 4) (addr : BitVec 18) (value : Word) (dram : Dram) (mem : MemView) (tests : BitVec 64) (record : List Byte)
  /-- READ_CLEAR_REGISTER (R7). A read of an RC field returns its value and then clears the field. -/
  | readClearRegister (addr : BitVec 18) (raw : Word)
  /-- REG64_LOW_READ (R75). A read of the low word of a 64-bit register latches the high word into a shadow for the next high-word read. -/
  | reg64LowRead (addr : BitVec 18)
  /-- REG64_HIGH_WRITE (R75). A write of the high word of a 64-bit register commits the held low word and the high word together. -/
  | reg64HighWrite (rid : BitVec 12) (addr : BitVec 18) (value : Word)
  /-- EVENT_CLEAR (R91). A W1C write to PG_EVT_RAW or PG_EVT_STICKY clears the written bits unless a condition holds or an event sets the bit in the same clock. -/
  | eventClear (rid : BitVec 12) (page : BitVec 6) (sticky : Bool) (value : Word)
  /-- PAGE_ENABLE (R86). Writing PG_CTL.ENABLE 0 to 1 takes an OFF page to ACTIVE, or sets REARM on a DRAINING page, or is stored on a FAULT page. -/
  | pageEnable (rid : BitVec 12) (page : BitVec 6) (mem : MemView)
  /-- PAGE_DISABLE (R86). Writing PG_CTL.ENABLE 1 to 0 takes an ACTIVE page to DRAINING, closing its entry and starting the 1 ms drain timer, or clears REARM. -/
  | pageDisable (rid : BitVec 12) (page : BitVec 6)
  /-- SOFT_RESET (R98). A soft reset of an OFF or FAULT page returns its fields to reset values within 16 register clocks and leaves it OFF. -/
  | softReset (rid : BitVec 12) (page : BitVec 6) (en : Bool)
  /-- SEAL (R82). Setting PG_CTL.SEAL applies the write's other fields and seals the page from the next register clock. -/
  | seal (rid : BitVec 12) (page : BitVec 6) (soft en : Bool) (mem : MemView)
  /-- GLOBAL_SEAL_ALL (R85). Writing GLOBAL_SEAL_ALL.SEAL seals every carried page in one register clock and records one SEAL notice per page. -/
  | globalSealAll (rid : BitVec 12)
  /-- DRAIN_SLOW (R86). The drain timer of a DRAINING page reaches 1 ms and DRAIN_SLOW is set once for that drain. -/
  | drainSlow (page : BitVec 6)
  /-- DRAIN_COMPLETE (R86). A DRAINING page's drain condition is met and it goes to OFF, or with REARM set to ACTIVE in the same register clock. -/
  | drainComplete (d : DrainOf) (mem : MemView)
  /-- HOST_ACCESS_ASLEEP (R37). A host access while asleep raises the register clock request and takes HOST out of retention to serve it within 4 µs. -/
  | hostAccessAsleep
  /-- HOST_RETENTION_TIMEOUT (R37). 100 µs after the last host access during sleep, HOST returns to retention. -/
  | hostRetentionTimeout
  /-- HANDSHAKE_VIOLATION (R33). A neighbour lowers VALID or changes the payload before the beat passes; Otist drops the beat, counts it in GLOBAL_BND_ERR and raises a grade 0 alarm. -/
  | handshakeViolation (group : BitVec 4) (port : BitVec 8)
  /-- MEM_READ_REQUEST (R306). A read request on the memory upstream port is matched to a region, journalled and served under the region's mode. -/
  | memReadRequest (addr : BitVec 40) (two : Bool) (tid : BitVec 10) (rid : BitVec 12) (attr : BitVec 8)
  /-- MEM_WRITE_REQUEST (R342). A write request with its data is accepted, journalled in two entries and written as a full-line or partial write under the region's mode. -/
  | memWriteRequest (addr : BitVec 40) (two : Bool) (tid : BitVec 10) (rid : BitVec 12) (attr : BitVec 8) (data : List Byte) (strb : BitVec 64) (mem : MemView)
  /-- DOWNSTREAM_READ_RESPONSE (R334). A DRAM read returns and the line is verified and released, poisoned or answered with BUSERR. -/
  | downstreamReadResponse (txn : BitVec 12) (mem : MemView)
  /-- DOWNSTREAM_WRITE_RESPONSE (R345). Every downstream write of a line has answered, and the upstream write response is returned. -/
  | downstreamWriteResponse (txn : BitVec 12) (ok : Bool) (mem : MemView)
  /-- DOWNSTREAM_READ_TIMEOUT (R44). A downstream read unanswered after 10 µs raises a grade 0 alarm while Otist keeps waiting. -/
  | downstreamReadTimeout
  /-- DERR_REPORT (R45). A DRAM error sideband report is applied to its read as corrected or uncorrectable, or counted as a boundary error outside its window. -/
  | derrReport (txn : BitVec 12) (kind : BitVec 2) (late : Bool)
  /-- OVERFLOW_REENCRYPT (R323). A line of an open overflow entry is re-read, checked, re-encrypted under the new major and written, closing the entry when all 64 are done. -/
  | overflowReencrypt (mem : MemView)
  /-- CACHE_WRITEBACK (R329). A cache's dirty count goes above HIGH and Otist writes back dirty entries least recently used first until LOW. -/
  | cacheWriteback (tag : Bool) (mem : MemView)
  /-- CACHE_PARITY_ERROR (R330). A cache word parity error refetches a clean entry or uses the other bank's copy, counting toward fencing the bank. -/
  | cacheParityError (tag : Bool) (place : BitVec 13) (bankB rewriteBad : Bool) (mem : MemView)
  /-- WRITEBACK (R329). MEMCACHE_CMD.WRITEBACK writes back every dirty entry of both caches. -/
  | writeback (rid : BitVec 12)
  /-- CHECKPOINT (R350). MEM_CMD CHECKPOINT makes a TREE region RESTING, flushes it, writes the root shadow and requests a CLOSED ROOT record. -/
  | checkpoint (rid : BitVec 12) (region : Fin 16)
  /-- OPEN (R351). MEM_CMD OPEN writes an OPEN ROOT record for a RESTING region and clears RESTING once it is read back. -/
  | openRegion (rid : BitVec 12) (region : Fin 16)
  /-- SPEC_RESUME (R337). Writing MEMRGN_CTL.SPEC_RESUME clears SPEC_SUSP so the region speculates again. -/
  | specResume (rid : BitVec 12) (region : Fin 16)
  /-- REGION_EN (R305). Writing MEMRGN_CTL.EN changes a region's state; entering ACTIVE checks it and applies SRC KEEP, FORMAT or RESTORE. -/
  | regionEn (rid : BitVec 12) (region : Fin 16) (en : Bool) (mem : MemView)
  /-- STORAGE_HEADER (R394). A storage unit's header beat passes and Otist reads the unit's version table entry if it lies in a sealed partition. -/
  | storageHeader (kslot : BitVec 6) (dus4k dir : Bool) (lbn : BitVec 64) (dram : Dram)
  /-- STORAGE_UNIT_ACCEPT (R389). A storage unit's last input beat passes; it is accepted, journalled and transformed, or refused. -/
  | storageUnitAccept (data : List Byte) (dram : Dram)
  /-- STORAGE_ENTRY_WRITTEN (R395). A DIR 0 unit's table entry and bitmap writes answer OKAY and its output is released. -/
  | storageEntryWritten (buffer ok : Bool)
  /-- MOUNT (R405). STOR_CMD MOUNT checks the partition and image, decides OK, ABANDONED, ROLLED_FORWARD or ROLLBACK and loads the live table. -/
  | mount (rid : BitVec 12) (part : Fin 8) (dram : Dram)
  /-- FORMAT (R406). STOR_CMD FORMAT writes an intent record, zeroes the live table and seals every TU. -/
  | format (rid : BitVec 12) (part : Fin 8)
  /-- STOR_COMMIT (R404). STOR_CMD COMMIT holds writes, writes an intent record and seals the dirty TUs and header at a new epoch. -/
  | storCommit (rid : BitVec 12) (part : Fin 8)
  /-- CONFIRM (R402). STOR_CMD CONFIRM writes a record committing the sealed image's epoch and digest. -/
  | confirm (rid : BitVec 12) (part : Fin 8)
  /-- UNMOUNT (R402). STOR_CMD UNMOUNT unmounts a partition once all its accepted units have completed. -/
  | unmount (rid : BitVec 12) (part : Fin 8)
  /-- PART_DROP (R407). A mounted partition is dropped to UNMOUNTED when its table region, configuration or keys fail. -/
  | partDrop (part : Fin 8)
  /-- SOF_ADMIT (R182). An SOF beat on TXI or RXI is admitted when the filling bank has room, allocating the item's first unit and length word. -/
  | sofAdmit (port : Fin 32) (tx : Bool) (frame : List Byte)
  /-- ITEM_END (R180). An item's EOF beat passes and its length word is written back. -/
  | itemEnd (port : Fin 32) (tx : Bool) (rest : List Byte)
  /-- PRODUCER_ERR (R50). A producer raises ERR or breaks the KEEP rule, and the frame is voided and counted. -/
  | producerErr (port : Fin 32) (tx eof : Bool)
  /-- MACRO_GUST (R178). A staging read finds a parity error in one half and rebuilds it from the triple, fencing the macro when the fault is lasting. -/
  | macroGust (m : Fin 24) (port : Fin 32) (bankB : Bool) (unit : BitVec 9) (bad : Bool)
  /-- ASSOC_LOOKUP (R251). A frame's header arrives and its association probes are issued and answered with a copy of the entry. -/
  | assocLookup (port : Fin 32) (tx : Bool)
  /-- EGRESS_ACCEPT (R571). An egress item obtains a stream Cellar entry, reserves its packet number and is accepted and sent cut-through. -/
  | egressAccept (port : Fin 32)
  /-- INGRESS_VERIFY_DONE (R207). An ingress frame's tag comparison ends; it updates the window and is queued for release or completes with its failure outcome. -/
  | ingressVerifyDone (port : Fin 32)
  /-- INGRESS_ACCEPT (R568). The last byte of an ingress item is staged and, when a Cellar entry is free, the item is journalled and accepted. -/
  | ingressAccept (port : Fin 32)
  /-- STREAM_RELEASE (R184). A complete verified item is released from the draining bank to RXO or TXO and its units freed. -/
  | streamRelease (port : Fin 32) (tx : Bool)
  /-- TX_UNDERRUN (R199). A transmit producer stalls for EGR_GAP_NS mid-item and the item is ended truncated. -/
  | txUnderrun (port : Fin 32)
  /-- FLUSH_RX (R193). STRM_P_CTL.FLUSH_RX stops receive admission until open and staged receive items have been released. -/
  | flushRx (rid : BitVec 12) (port : Fin 32)
  /-- FLUSH_TX (R193). STRM_P_CTL.FLUSH_TX stops transmit admission until open and staged transmit items have been sent. -/
  | flushTx (rid : BitVec 12) (port : Fin 32)
  /-- FLUSH_NOW_RX (R193). STRM_P_CTL.FLUSH_NOW_RX voids the open receive item truncated and flushes the receive direction. -/
  | flushNowRx (rid : BitVec 12) (port : Fin 32)
  /-- FLUSH_NOW_TX (R195). STRM_P_CTL.FLUSH_NOW_TX ends the open transmit item with an ERR beat, truncated, and flushes the transmit direction. -/
  | flushNowTx (rid : BitVec 12) (port : Fin 32)
  /-- FLUSH_END (R193). A flush finds no item open or staged in its direction, sets its DONE bit and resumes admission. -/
  | flushEnd (port : Fin 32) (tx : Bool)
  /-- PORT_EN (R214). Writing STRM_P_CTL.EN changes a port's state; disabling starts both flushes. -/
  | portEn (rid : BitVec 12) (port : Fin 32) (en : Bool)
  /-- STRM_P_WM (R192). A write to a port's watermarks applies at the next clock to the current XOFF state without an event. -/
  | strmPWm (rid : BitVec 12) (port : Fin 32) (value : Word)
  /-- PAIR_EN (R218). Writing BRIDLE_PAIR_CTL.EN changes a pair's state; entering ACTIVE checks the pair and sets BAD on failure. -/
  | pairEn (rid : BitVec 12) (k : Fin 128) (en : Bool)
  /-- BRIDLE_HOLD_ACCEPT (R228). A HOLD Bridle frame's last byte is staged and, with egress ready, it reserves the outbound value and is journalled. -/
  | bridleHoldAccept (port : Fin 32)
  /-- BRIDLE_CUT_ACCEPT (R229). A CUT Bridle frame reaches CUT_LEAD units and is accepted with egress starting cut-through. -/
  | bridleCutAccept (port : Fin 32)
  /-- BRIDLE_UNDERRUN (R232). A CUT frame's egress outruns its ingress for EGR_GAP_NS and is ended truncated. -/
  | bridleUnderrun (port : Fin 32)
  /-- OUT_HELD_RELEASE (R233). A Bridle frame held because its egress side was not ready is accepted once the conditions hold. -/
  | outHeldRelease (port : Fin 32)
  /-- BRIDLE_LOOP (R240). A write to BRIDLE_LOOP checks the ports and activates or refuses a loopback tunnel. -/
  | bridleLoop (rid : BitVec 12) (j : Fin 4) (value : Word)
  /-- LANE_BLOCK_DONE (R100). A block leaves O2 of a lane 32 clocks after entry and its result is handed to its path and tag unit. -/
  | laneBlockDone (l : Fin 4) (owner : BlockOwner) (order index : Nat)
  /-- LANE_FAULT (R121). A parity mismatch closes the lane, voids its blocks, records the cause and runs its known-answer test. -/
  | laneFault (l : Fin 4) (stage : BitVec 6) (flips : BitVec 128) (keyPipe : Bool)
  /-- KAT_COMPLETE (R124). A lane's known-answer test ends; a pass after a fault is a gust, a failure makes the fault lasting and fences the lane. -/
  | katComplete (l : Fin 4) (pass : Bool)
  /-- KAT_PERIOD (R120). KAT_PERIOD_US expires and the lane runs its six known-answer blocks. -/
  | katPeriod (l : Fin 4)
  /-- KAT_NOW (R120). LANE_CMD.KAT_NOW runs the known-answer set within 1 µs. -/
  | katNow (rid : BitVec 12) (l : Fin 4)
  /-- FENCE (R125). LANE_CMD.FENCE fences the lane as a lasting fault with cause 0x6. -/
  | fence (rid : BitVec 12) (l : Fin 4)
  /-- INJECT (R134). LANE_CMD.INJECT injects one parity error at S1 outside FIELD, or records a notice in FIELD. -/
  | inject (rid : BitVec 12) (l : Fin 4)
  /-- LANE_POWER_UP (R117). A lane's domain powers up and its entry known-answer test completes before it takes work. -/
  | lanePowerUp (l : Fin 4)
  /-- SCHED_WINDOW (R622). A 256-clock window boundary refills class credits and applies any waiting committed share set. -/
  | schedWindow
  /-- COMMIT (R116). SCHED_CMD.COMMIT copies and validates the staged shares, caps and priorities for the next window boundary. -/
  | commit (rid : BitVec 12)
  /-- DOORBELL (R139). A write to QUEUE_Q_CTAIL advances CTAIL or is counted as DB_BAD if it breaks the ring limits. -/
  | doorbell (rid : BitVec 12) (q : Fin 32) (value : Word)
  /-- RHEAD_RETURN (R139). A write to QUEUE_Q_RHEAD returns completion space or is counted as DB_BAD. -/
  | rheadReturn (rid : BitVec 12) (q : Fin 32) (value : Word)
  /-- QUEUE_PAIR_EN (R152). Writing QUEUE_Q_CTL.EN changes a queue pair's state; entering ACTIVE negotiates the version. -/
  | queuePairEn (rid : BitVec 12) (q : Fin 32) (en : Bool)
  /-- RESUME (R167). QUEUE_Q_CTL.RESUME clears HALT_FETCH and HALT_CMPL, writes held records and resumes fetch. -/
  | resume (rid : BitVec 12) (q : Fin 32) (dram : Dram)
  /-- DESCRIPTOR_FETCH (R142). A queue pair meeting every fetch condition has its next descriptor fetched over the initiator port. -/
  | descriptorFetch (dram : Dram)
  /-- DESCRIPTOR_ACCEPT (R144). A fetched descriptor is checked, journalled in the Cellar and an ACCEPTED record written. -/
  | descriptorAccept (q : Fin 32) (dram : Dram)
  /-- DESCRIPTOR_DISPATCH (R150). An accepted descriptor meeting the dispatch conditions is sent to the lanes, key core or entropy source. -/
  | descriptorDispatch (e : BitVec 11)
  /-- DONE_RECORD (R145). A descriptor's operation ends and, after its output writes and earlier DONEs, its DONE record is written. -/
  | doneRecord (q : Fin 32)
  /-- DONE_WRITE_ACK (R145). A DONE record write receives OKAY and the descriptor's Cellar entry is released. -/
  | doneWriteAck (q : Fin 32) (ok : Bool)
  /-- INITIATOR_BUSERR (R39). A BUSERR on the initiator port is reported, stops further requests of the operation and fails or holds it. -/
  | initiatorBuserr (op : BusOp)
  /-- TOKEN_REFILL (R170). At each 1 ms boundary each tenant gains CHRON_RATE chronicle tokens up to its limit. -/
  | tokenRefill
  /-- AEAD_SEAL (R156). Opcode 0x01 encrypts and tags AAD and plaintext under GCM. -/
  | aeadSeal (e : BitVec 11) (dram again : Dram)
  /-- AEAD_OPEN (R159). Opcode 0x02 verifies the tag and then decrypts, writing nothing on a mismatch. -/
  | aeadOpen (e : BitVec 11) (dram again : Dram)
  /-- XTS_ENC (R156). Opcode 0x03 encrypts one XTS data unit. -/
  | xtsEnc (e : BitVec 11) (dram again : Dram)
  /-- XTS_DEC (R156). Opcode 0x04 decrypts one XTS data unit. -/
  | xtsDec (e : BitVec 11) (dram again : Dram)
  /-- CMAC_GEN (R156). Opcode 0x05 computes a truncated CMAC tag. -/
  | cmacGen (e : BitVec 11) (dram again : Dram)
  /-- CMAC_VERIFY (R156). Opcode 0x06 verifies a CMAC tag against the expected value. -/
  | cmacVerify (e : BitVec 11) (dram again : Dram)
  /-- BRIDLE (R159). Opcode 0x07 transciphers a frame from memory to memory under two keys after verifying the inbound tag. -/
  | bridle (e : BitVec 11) (dram again : Dram)
  /-- KEY_DERIVE (R423). Opcode 0x10 defines a derivation node from the parent and materialises it into the target slot. -/
  | keyDerive (e : BitVec 11) (dram again : Dram)
  /-- KEY_GENERATE (R156). Opcode 0x11 generates an AES or ECC key into the target slot from the DRBG. -/
  | keyGenerate (e : BitVec 11) (dram : Dram)
  /-- KEY_WRAP (R445). Opcode 0x12 exports an exportable key as a GCM blob. -/
  | keyWrap (e : BitVec 11) (dram : Dram)
  /-- KEY_UNWRAP (R446). Opcode 0x13 checks and unwraps a blob into the target slot as an imported key. -/
  | keyUnwrap (e : BitVec 11) (dram again : Dram)
  /-- ECDSA_SIGN (R457). Opcode 0x20 signs a digest under a private key with a fresh secret. -/
  | ecdsaSign (e : BitVec 11) (dram again : Dram)
  /-- ECDSA_VERIFY (R457). Opcode 0x21 verifies a signature under a slot or supplied public key. -/
  | ecdsaVerify (e : BitVec 11) (dram again : Dram)
  /-- ECDH_AGREE (R457). Opcode 0x22 computes a shared secret into the target slot. -/
  | ecdhAgree (e : BitVec 11) (dram again : Dram)
  /-- HASH (R457). Opcode 0x28 computes SHA-256 or SHA-384 of a message. -/
  | hash (e : BitVec 11) (dram again : Dram)
  /-- RANDOM_FILL (R496). Opcode 0x30 fills DST with DRBG output in 128-byte requests. -/
  | randomFill (e : BitVec 11) (dram : Dram)
  /-- SEARCH (R256). ASSOC_CMD SEARCH copies the live entry for a key block into ASSOC_ENTRY. -/
  | search (rid : BitVec 12)
  /-- NEXT (R256). ASSOC_CMD NEXT copies the installed entry with the next higher handle. -/
  | nextEntry (rid : BitVec 12) (h : BitVec 13)
  /-- INSERT (R253). ASSOC_CMD INSERT checks and installs or replaces an entry, relocating entries along a cuckoo path. -/
  | insert (rid : BitVec 12) (replace : Bool)
  /-- DELETE (R256). ASSOC_CMD DELETE removes an entry, its window blocks and any learned entries of a template. -/
  | delete (rid : BitVec 12) (h : BitVec 13)
  /-- FLUSH_PORT (R256). ASSOC_CMD FLUSH_PORT removes every entry, or every learned entry, of a port. -/
  | flushPort (rid : BitVec 12) (port : Fin 32) (learnedOnly : Bool)
  /-- AGE (R263). ASSOC_CMD AGE runs one aging pass removing stale unpinned learned contexts. -/
  | age (rid : BitVec 12)
  /-- AUTO_AGING_PASS (R263). Every PERIOD_S seconds with LEARN_AGE.AUTO set, an aging pass runs. -/
  | autoAgingPass
  /-- STASH_RETRY (R255). Each 1 ms, or when a location frees, the engine retries inserting stash entries into the tables. -/
  | stashRetry
  /-- SALT_DERIVED (R249). The association salts are derived when ASSOC first enters ACTIVE, ending INIT. -/
  | saltDerived
  /-- LEARN_READ (R260). LEARN_CMD READ loads a peer context into LEARN_CTX. -/
  | learnRead (rid : BitVec 12) (peer : BitVec 12)
  /-- UNPIN (R262). LEARN_CMD UNPIN clears PINNED and CONTESTED and restarts SINCE. -/
  | unpin (rid : BitVec 12) (peer : BitVec 12)
  /-- LEARN_DELETE (R256). LEARN_CMD DELETE removes a learned context and its entry. -/
  | learnDelete (rid : BitVec 12) (peer : BitVec 12)
  /-- RULE_SET (R267). TRIE_CMD RULE_SET makes a FREE rule PENDING_ADD after checking it. -/
  | ruleSet (rid : BitVec 12) (i : BitVec 11)
  /-- RULE_DEL (R267). TRIE_CMD RULE_DEL makes a LIVE rule PENDING_DEL or a PENDING_ADD rule FREE. -/
  | ruleDel (rid : BitVec 12) (i : BitVec 11)
  /-- RULE_READ (R267). TRIE_CMD RULE_READ loads a rule into the rule registers. -/
  | ruleRead (rid : BitVec 12) (i : BitVec 11)
  /-- BUILD (R268). TRIE_CMD BUILD builds the shadow bank from live and pending rules or fails. -/
  | build (rid : BitVec 12)
  /-- SWAP (R269). TRIE_CMD SWAP makes the built shadow bank active at one clock edge. -/
  | swap (rid : BitVec 12)
  /-- ANCHOR_WRITE_START (R282). A requested anchor record within the rate budget is written into the next usable slot. -/
  | anchorWriteStart
  /-- ANCHOR_READBACK (R52). An anchor record's write is acknowledged and read back; on a match its ceiling, root or storage commit takes effect. -/
  | anchorReadback (err : Bool) (read : List Byte) (us : BitVec 16) (dram : Dram)
  /-- START_UP_SCAN (R286). After the anchor key is derived all 64 slots are read and verified to find live records and the next slot. -/
  | startUpScan (store : List (Nat × Bytes))
  /-- LEASE_EXP_ADJUST (R277). At each 1 s boundary the lease exponent k is raised or lowered. -/
  | leaseExpAdjust
  /-- SWITCH_NOW (R294). FRESH_CMD SWITCH_NOW triggers a transmit switch record. -/
  | switchNow (rid : BitVec 12) (sw : Fin 32)
  /-- RESYNC (R302). FRESH_CMD RESYNC raises a CAN receive association's H and clears its window. -/
  | resync (rid : BitVec 12) (h : BitVec 13)
  /-- SWITCH_ARM (R295). Writing ARM of a switch record checks and arms it, or disarms and frees it. -/
  | switchArm (rid : BitVec 12) (sw : Fin 32) (value : Word)
  /-- OVERLAP_EXPIRE (R295). A receive switch's overlap timer expires and the old entry is retired or the CAN slots scheduled for rewrite. -/
  | overlapExpire (sw : Fin 32)
  /-- CAN_RX_SLOT_REWRITE (R297). Once no accepted item carries the CAN_RX handle, its slots are rewritten and GEN incremented. -/
  | canRxSlotRewrite (h : BitVec 13)
  /-- ANCHOR_READ (R282). ANCHOR_CMD READ loads an anchor slot into ANCHOR_REC with live and verified status. -/
  | anchorRead (rid : BitVec 12) (slot : BitVec 6) (words : Bytes)
  /-- START (R360). KILN_CMD START checks and latches a REKEY, GROW or REKEY_GROW pass. -/
  | start (rid : BitVec 12)
  /-- PAUSE (R374). KILN_CMD PAUSE stops the walker after commits in progress. -/
  | pause (rid : BitVec 12)
  /-- KILN_RESUME (R374). KILN_CMD RESUME restarts a paused walker. -/
  | kilnResume (rid : BitVec 12)
  /-- DISCARD (R374). KILN_CMD DISCARD drops a pass whose region is OFF. -/
  | discard (rid : BitVec 12)
  /-- KILN_CHUNK_START (R372). After PACE_US and with no old overflow open, the walker starts the next chunk. -/
  | kilnChunkStart (mem : MemView)
  /-- KILN_PREPARE_DONE (R366). A line's prepare ends and its result is committed or discarded by its done bit. -/
  | kilnPrepareDone (line : Fin 64) (mem : MemView)
  /-- KILN_COMMIT_DONE (R366). A Kiln commit write answers OKAY, sets the line's done bit and ends the hold. -/
  | kilnCommitDone (line : Fin 64) (ok : Bool) (waited : BitVec 16) (mem : MemView)
  /-- KILN_PASS_COMPLETE (R373). The walk passes the last chunk and the region's keys, size and metadata are replaced. -/
  | kilnPassComplete (mem : MemView)
  /-- TREE_READ (R381). TREE_CMD READ loads a quarantine entry. -/
  | treeRead (rid : BitVec 12) (index : Fin 32)
  /-- ROOT_GEN (R418). KEYS_CMD ROOT_GEN draws and stores a new VBAT root share. -/
  | rootGen (rid : BitVec 12)
  /-- LC_TRANSITION (R451). KEYS_CMD LC_TRANSITION erases keys and drives the fuse burn of a new life-cycle state. -/
  | lcTransition (rid : BitVec 12) (target : BitVec 8)
  /-- LC_PROG_ACK (R451). OT_LC_PROG_ACK arrives; with OK the new state takes effect, otherwise LC_FAIL is set. -/
  | lcProgAck (ok : Bool)
  /-- LC_PROG_TIMEOUT (R56). No OT_LC_PROG_ACK after 100 ms raises a grade 1 alarm while Otist keeps waiting. -/
  | lcProgTimeout
  /-- DEFINE (R423). DERIVE_CMD DEFINE defines a derivation node. -/
  | define (rid : BitVec 12) (tenant : BitVec 3)
  /-- MATERIALISE (R424). DERIVE_CMD MATERIALISE derives a valid node's chain into a slot. -/
  | materialise (rid : BitVec 12) (tenant : BitVec 3) (slot : BitVec 9) (node : BitVec 10)
  /-- INVALIDATE (R441). DERIVE_CMD INVALIDATE orphans a node and every descendant node and slot. -/
  | invalidate (rid : BitVec 12) (force : Bool) (node : BitVec 10)
  /-- DERIVE_READ (R423). DERIVE_CMD READ loads a node's values into the DERIVE registers. -/
  | deriveRead (rid : BitVec 12) (node : BitVec 10)
  /-- SLOTS_READ (R433). SLOTS_CMD READ loads a slot's attributes into the SLOTS_INFO registers. -/
  | slotsRead (rid : BitVec 12) (slot : BitVec 9)
  /-- SLOT_SWAP (R435). SLOTS_CMD SWAP makes the loaded bank active when its KCV matches SLOTS_EXPECT. -/
  | slotSwap (rid : BitVec 12) (force : Bool) (slot : BitVec 9)
  /-- ERASE (R440). SLOTS_CMD ERASE clears both banks of a slot and aborts items holding them. -/
  | erase (rid : BitVec 12) (force : Bool) (slot : BitVec 9)
  /-- DROP_PENDING (R435). SLOTS_CMD DROP_PENDING clears a loaded bank. -/
  | dropPending (rid : BitVec 12) (slot : BitVec 9)
  /-- BANK_RETIRE (R436). The last item holding a retiring bank completes and the bank is zeroed and freed. -/
  | bankRetire (n : BitVec 9)
  /-- SLOT_CLEARING (R442). An orphaned slot with no item holding it goes to CLEARING and then EMPTY, releasing its counter binding. -/
  | slotClearing (n : BitVec 9)
  /-- ROOT_REMASK (R416). Each second the VBAT share words are re-masked with fresh random bits. -/
  | rootRemask
  /-- ATTEST_GEN (R460). PKE_CMD ATTEST_GEN generates the attestation key and writes its blob and public point. -/
  | attestGen (rid : BitVec 12)
  /-- ATTEST_LOAD (R460). PKE_CMD ATTEST_LOAD unwraps the attestation blob into slot 511. -/
  | attestLoad (rid : BitVec 12) (dram : Dram)
  /-- ATTEST (R461). PKE_CMD ATTEST writes a signed statement about a generated key. -/
  | attest (rid : BitVec 12) (slot : BitVec 9)
  /-- LOOSE_CTX_KEY (R467). A write to LOOSE_CTX_KEY binds the context to a slot and latches its KCV. -/
  | looseCtxKey (rid : BitVec 12) (c : Fin 4) (value : Word)
  /-- GO (R470). LOOSE_CTX_GO.GO checks and accepts one block operation, or sets OVERRUN while BUSY. -/
  | go (rid : BitVec 12) (c : Fin 4)
  /-- LOOSE_DONE (R470). A Loose operation completes, writing OUT, the chaining words and status together. -/
  | looseDone (c : Fin 4) (dram : Dram)
  /-- SAVE_CLEAR (R476). LOOSE_CTX_CMD SAVE_CLEAR writes a clear context record. -/
  | saveClear (rid : BitVec 12) (c : Fin 4) (dram : Dram)
  /-- SAVE_WRAP (R478). LOOSE_CTX_CMD SAVE_WRAP writes a GCM-wrapped context record. -/
  | saveWrap (rid : BitVec 12) (c : Fin 4) (dram : Dram)
  /-- RESTORE (R480). LOOSE_CTX_CMD RESTORE checks a record and loads it into the context. -/
  | restore (rid : BitVec 12) (c : Fin 4) (dram : Dram)
  /-- ENTROPY_POWER_UP (R491). ENTROPY powers up and runs its known-answer test, settling and health-test start-up sequence. -/
  | entropyPowerUp (katOk : Bool)
  /-- SEED_READY (R487). Three conditioned blocks complete a seed, which enters the seed buffer. -/
  | seedReady (raw : BitVec 6144)
  /-- DRBG_INSTANTIATE (R493). The first seed is ready and the CTR_DRBG is instantiated, raising SEEDED. -/
  | drbgInstantiate
  /-- HEALTH_FAIL (R489). A health test fails; buffered entropy is discarded and the source restarts, faulting when lasting. -/
  | healthFail (apt : Bool)
  /-- RESTART_DISCARD_END (R489). The 4096-sample discard after a gust ends and the source returns to RUNNING. -/
  | restartDiscardEnd
  /-- DRBG_GENERATE (R494). The DRBG core serves the next waiting request by class, reseeding, stretching or blocking as the interval requires. -/
  | drbgGenerate (dram : Dram)
  /-- RNG_RESTART (R490). RNG_CMD.RESTART clears a faulted source's window and reruns the start-up sequence. -/
  | rngRestart (rid : BitVec 12) (katOk : Bool)
  /-- RESEED (R494). RNG_CMD.RESEED makes the next generate request reseed first. -/
  | reseed (rid : BitVec 12)
  /-- RNG_DATA_READ (R501). A read of RNG_DATA returns and removes the FIFO head word or sets UNDERRUN. -/
  | rngDataRead
  /-- RNG_RAW_READ (R503). In BLANK a read of RNG_RAW returns 32 raw samples. -/
  | rngRawRead (raw : Word)
  /-- TEST_EN (R502). A write of RNG_TEST_CTL.TEST_EN enters or leaves the factory test pattern, or is refused outside BLANK. -/
  | testEn (rid : BitVec 12) (en : Bool)
  /-- TIME_TICK (R505). Each OT_CLK_32K tick adds the slewed increment to the time base. -/
  | timeTick (rc : BitVec 16)
  /-- HOLDOVER (R508). The supervisor reports OT_CLK_32K failed and the time base advances on the RC, suspending discipline. -/
  | holdover (cycles : BitVec 16)
  /-- PTP_STROBE (R511). An OT_PTP_STROBE samples gPTP time and updates the discipline rate. -/
  | ptpStrobe (seconds : BitVec 48) (nanos : Word)
  /-- PTP_STROBE_GAP (R54). A strobe gap over 2 s or a malformed time suspends discipline and raises a grade 0 alarm. -/
  | ptpStrobeGap
  /-- SET (R513). TIME_CMD SET loads an absolute time into an invalid time base where allowed. -/
  | setTime (rid : BitVec 12)
  /-- STEP (R514). TIME_CMD STEP adds a signed value to the time base where the life-cycle state allows. -/
  | step (rid : BitVec 12)
  /-- CHALLENGE (R515). TIME_CMD CHALLENGE draws a live 32-byte nonce into TIME_NONCE. -/
  | challenge (rid : BitVec 12)
  /-- AUTH (R515). TIME_CMD AUTH reads and verifies a signed step or set statement and applies it. -/
  | auth (rid : BitVec 12) (dram : Dram)
  /-- NONCE_EXPIRE (R515). A time nonce expires 60 s after it was drawn. -/
  | nonceExpire
  /-- ALARM (R516). The time base reaches TIME_ALARM with EN set, clearing EN and raising ALARM, and waking if enabled. -/
  | alarm
  /-- SLEEP (R518). POWER_CMD SLEEP starts a descent, or queues sleep during an ascent. -/
  | sleep (rid : BitVec 12)
  /-- WAKE (R517). POWER_CMD WAKE counts as a wake during descent, sleep or ascent. -/
  | wake (rid : BitVec 12)
  /-- DESCENT_ABORT (R519). A wake before step 3 of descent reopens the entries and returns to AWAKE. -/
  | descentAbort (code : BitVec 4) (chan : BitVec 2) (detail : Word)
  /-- ANCHOR_COMMIT_POINT (R518). Descent's anchor commit ends and the domains are switched off. -/
  | anchorCommitPoint (mem : MemView)
  /-- DESCENT_COMPLETE (R517). A descent completes and Otist becomes ASLEEP, or starts ascent at once with LATE_WAKE. -/
  | descentComplete
  /-- HOST_REQUEST_WAKE (R68). A VALID on a memory, storage or stream input while asleep is logged and starts an ascent. -/
  | hostRequestWake (group : BitVec 4) (port : BitVec 5)
  /-- ASCENT_COMPLETE (R523). An ascent completes after restoring keys, lookup image and Cellar replay, and Otist becomes AWAKE or descends again. -/
  | ascentComplete (images : ImageReads) (mem : MemView)
  /-- POWER_SEG_CTL (R524). A write of POWER_SEG_CTL.PARK requests segments parked or unparked. -/
  | powerSegCtl (rid : BitVec 12) (park : BitVec 8)
  /-- SEG_PARKED (R524). No item holds a handle of a PARKING segment; its records are sealed, written and marked PARKED. -/
  | segParked (g : Fin 8)
  /-- PARKED_FRAME (R526). A frame meets a parked segment and is held while the segment unparks. -/
  | parkedFrame (g : Fin 8)
  /-- SEG_UNPARKED (R524). Every record of an UNPARKING segment is restored and held frames are released. -/
  | segUnparked (g : Fin 8) (mem : MemView)
  /-- WAKE_TRIG (R529). A rising OT_WAKE_TRIG starts the guard's oscillator and opens a listen window. -/
  | wakeTrig (n : Fin 4)
  /-- WAKE_FRAME (R530). A frame in the listen window is checked; a match confirms the wake, a bad MAC or stale counter is reported. -/
  | wakeFrame (n : Fin 4) (ide fd crcOk : Bool) (id : BitVec 29) (data : Bytes)
  /-- LISTEN_WINDOW_END (R530). A listen window ends unconfirmed and counts a false wake, starting backoff at FALSE_LIMIT. -/
  | listenWindowEnd (n : Fin 4)
  /-- BACKOFF_END (R532). BACKOFF_S expires and the channel's trigger is heard again. -/
  | backoffEnd (n : Fin 4)
  /-- WAKE_CLEAR (R534). WAKE_CLEAR.CLEAR lowers OT_WAKE_REQ. -/
  | wakeClear (rid : BitVec 12)
  /-- WAKE_FILT_WCTR (R533). A write to LAST_WCTR takes the maximum of the old and written values. -/
  | wakeFiltWctr (rid : BitVec 12) (f : Fin 8) (value : Word)
  /-- VBAT_RESTORE (R517). OT_VBAT returns into range and, when enabled, wakes Otist. -/
  | vbatRestore
  /-- TAMPER_EVENT (R540). A sensor or reported source raises an event that is counted in its window, graded and acted on. -/
  | tamperEvent (src : BitVec 8) (osc : Word)
  /-- TLOOP_STEP (R543). Each loop step drives the next LFSR bit and samples the return, detecting a loop mismatch. -/
  | tloopStep (returned : BitVec 4) (osc : Word)
  /-- SELF_CHECK (R544). Once per second the loops, shields and detectors are self-checked. -/
  | selfCheck (fails : BitVec 16)
  /-- CLEAR_LASTING (R541). TAMPER_CMD CLEAR_LASTING clears a source's LASTING bit. -/
  | clearLasting (rid : BitVec 12) (src : BitVec 8)
  /-- CLEAR_LOG (R553). TAMPER_CMD CLEAR_LOG empties the VBAT log outside FIELD and RETIRED. -/
  | clearLog (rid : BitVec 12)
  /-- SELFCHECK_NOW (R544). TAMPER_CMD SELFCHECK_NOW runs the self-check at once. -/
  | selfcheckNow (rid : BitVec 12) (fails : BitVec 16)
  /-- TRIP (R539). TAMPER_CMD TRIP raises a grade 3 TRIP event. -/
  | trip (rid : BitVec 12)
  /-- DEBUG_ACTIVE (R57). A rising OT_DBG_ACTIVE is a debug-intrusion event in FIELD without authentication, otherwise a notice. -/
  | debugActive (auth : Bool)
  /-- FUSE_VALID (R55). OT_FUSE_VALID rises and the fuse inputs are latched, parity-checked and OT_FUSE_TAKEN raised. -/
  | fuseValid (share : BitVec 256) (lc : Word) (par : BitVec 9)
  /-- FUSE_TIMEOUT (R55). The fuse share is still non-zero 64 clocks after TAKEN, or VALID is low 1 ms after reset, raising a start-up alarm. -/
  | fuseTimeout
  /-- STARTUP_END (R550). Fuse, life-cycle, fixed derivations, scan and park restore are done and start-up ends. -/
  | startupEnd
  /-- PRESENCE_CHANGE (R560). A debounced presence input change starts a record read or suspends bound slots. -/
  | presenceChange (i : Fin 6) (present : Bool)
  /-- SCL_HELD_TIMEOUT (R60). SCL held low over 25 ms releases the lines, raises a grade 0 alarm and fails the read. -/
  | sclHeldTimeout (i : Fin 6)
  /-- MODULE_READ_DONE (R557). A module's identity record has been read and is verified, leading to challenge, VERIFIED or FAILED. -/
  | moduleReadDone (i : Fin 6) (got : Option Bytes)
  /-- CHALLENGE_POLL (R559). Every 2 ms the challenge status byte is read and on 0x01 the signature is read and verified. -/
  | challengePoll (i : Fin 6) (got : Option (Byte × Bytes))
  /-- CHAL_TIMEOUT (R559). CHAL_TIMEOUT_MS passes without status 0x01 and the challenge fails. -/
  | chalTimeout (i : Fin 6)
  /-- CHAL_PERIOD (R560). CHAL_PERIOD_S elapses and a present module's record is read again. -/
  | chalPeriod (i : Fin 6)
  /-- REREAD (R560). MODID_CMD REREAD reads and verifies an input's module again. -/
  | reread (rid : BitVec 12) (i : BitVec 3)
  /-- READ_REC (R563). MODID_CMD READ_REC loads an input's record into MODID_REC. -/
  | readRec (rid : BitVec 12) (i : BitVec 3)
  /-- CLOCK_ACK (R62). A clock request's ACK arrives and the requested clock may be used. -/
  | clockAck (c : Fin 3)
  /-- OT_PORESET (R64). OT_PORESET_N resets every domain except VBAT at once without a drain. -/
  | otPoreset
  /-- OT_RESET_ASSERT (R65). OT_RESET_N asserts and a warm reset closes entries and drains within 50 µs. -/
  | otResetAssert
  /-- RESET_DRAIN_DONE (R65). The warm-reset drain ends, OT_RESET_DONE rises and all but the kept domains reset. -/
  | resetDrainDone (start : WarmStart) (mem : MemView)
  /-- OT_RESET_RELEASE (R66). OT_RESET_N is released and Otist restarts, restores keys and replays the Cellar. -/
  | otResetRelease (start : WarmStart)
  /-- CELLAR_REPLAY (R581). A journalled entry is replayed in acceptance order, completing, aborting or ending with INPUT_CHANGED. -/
  | cellarReplay (mem : MemView) (dram : Dram)
  /-- CELLAR_PARITY_ERROR (R577). A Cellar copy fails parity and the other copy is used, fencing the macro when lasting. -/
  | cellarParityError (entry : BitVec 11) (copyB rewriteBad : Bool)
  /-- ENGINE_PARITY_FAULT (R586). A queue execution engine's state fails parity; its descriptors are voided and replayed. -/
  | engineParityFault (g : Fin 2)
  /-- LOOKUP_PARITY_FAULT (R585). An association or peer-context word fails parity and the entry is removed. -/
  | lookupParityFault (peer : Bool) (n : BitVec 14)
  /-- CELLAR_READ (R605). CELLAR_CMD READ loads an entry into CELLAR_ENTRY with both copies compared. -/
  | cellarRead (rid : BitVec 12) (entry : BitVec 11)
  /-- CHRON_ENTRY (R592). A chronicle entry is written to the AUDIT ring or a TRACE bank, or held. -/
  | chronEntry
  /-- CHRON_AUDIT_HEAD (R592). A write to CHRON_AUDIT_HEAD returns ring space, or raises AUDIT_BAD, and releases the hold. -/
  | chronAuditHead (rid : BitVec 12) (value : Word)
  /-- HOLD_DRAIN (R597). The AUDIT sink can take entries again and held, summary and waiting entries are written in order. -/
  | holdDrain
  /-- AUDIT_BUSERR (R592). A BUSERR on an AUDIT ring write stops the ring. -/
  | auditBuserr
  /-- SEAL_NOW (R594). CHRON_CMD SEAL_NOW writes a SEAL entry. -/
  | sealNow (rid : BitVec 12)
  /-- CHECK (R594). CHRON_CMD CHECK compares a CMAC of an index and chain value against CHECK_MAC. -/
  | check (rid : BitVec 12)
  /-- SIGN (R596). CHRON_CMD SIGN writes a signed audit checkpoint. -/
  | sign (rid : BitVec 12)
  /-- FLUSH (R601). CHRON_TRACE_CTL.FLUSH waits for the open trace item to close and switches banks. -/
  | flush (rid : BitVec 12)
  /-- FLUSH_NOW (R601). CHRON_TRACE_CTL.FLUSH_NOW splits the open trace item and switches banks. -/
  | flushNow (rid : BitVec 12)
  /-- CHRON_TRACE_DATA (R602). A read of CHRON_TRACE_DATA returns the next unread word of the draining bank. -/
  | chronTraceData
  /-- MBIST (R609). FACTORY_CMD MBIST runs March C- on the selected SRAM groups. -/
  | mbist (rid : BitVec 12) (fails : BitVec 9)
  /-- LOOP_SCAN (R610). FACTORY_CMD LOOP_SCAN drives a walking pattern on each loop and records mismatches. -/
  | loopScan (rid : BitVec 12) (differs : BitVec 64)
  /-- SENSOR_TRIP (R610). FACTORY_CMD SENSOR_TRIP trips one detector and records whether it reported. -/
  | sensorTrip (rid : BitVec 12) (arg : BitVec 8) (reported : Bool)
  /-- FUSE_KCV (R611). FACTORY_CMD FUSE_KCV computes a check value of the fuse share in BLANK. -/
  | fuseKcv (rid : BitVec 12)
  /-- PORESET_RELEASE (R510). Release of OT_PORESET_N raises the core and register clock requests, powers ENTROPY, starts the scheduler windows and the fuse wait, and begins start-up with the open-work check. -/
  | poresetRelease (tests : PowerUp)
  /-- TETHER_POWER_LOSS (R566). Loss of the TETHER supply destroys the root blocks, Kiln passes, partition states, PARK_EPOCH and the floor, leaving VBAT to run alone. -/
  | tetherPowerLoss
  /-- CLK32_HEALTHY (R508). The tamper supervisor reports OT_CLK_32K healthy again, and the time base leaves holdover at the next tick and may resume discipline. -/
  | clk32Healthy
  /-- DBG_AUTH_LOW (R57). OT_DBG_AUTH falls while OT_DBG_ACTIVE is high in FIELD, which is a debug-intrusion event of source DEBUG. -/
  | dbgAuthLow
  deriving DecidableEq, Repr

end Sys2Proof
end

