-- ==== Sys2Proof/Decode.lean ====
section
/-! DEFINITION. The command that a word spells by the bits of spec/opcode_table.json. Every row of that table has an
empty list of fields: the block's commands are register accesses, beats and events at its boundary, and no row
gives them bits. So no word spells a command. -/
namespace Sys2Proof

/-- The command spelled by the low `nbits` bits of `w`: none, since no row of the table gives bits. -/
def decodeTableWord (_nbits _w : Nat) : Option Instr := none

end Sys2Proof
end

