-- ==== Sys2Proof/Machine/Bits.lean ====
section
/-! DEFINITION. Byte order and bit-field helpers: little-endian structures (R11), big-endian cryptographic
encodings (R12), padding and splitting of byte strings. -/
namespace Sys2Proof.Machine
open Sys2Proof

/-- The number `v` as `n` bytes, most significant first (R12). -/
def beBytes : Nat → Nat → Bytes
  | 0, _ => []
  | n + 1, v => beBytes n (v / 256) ++ [BitVec.ofNat 8 v]

/-- The number `v` as `n` bytes, least significant first (R11). -/
def leBytes : Nat → Nat → Bytes
  | 0, _ => []
  | n + 1, v => BitVec.ofNat 8 v :: leBytes n (v / 256)

/-- Bytes read as a number, most significant first. -/
def beNat (b : Bytes) : Nat := b.foldl (fun a x => a * 256 + x.toNat) 0

/-- Bytes read as a number, least significant first. -/
def leNat : Bytes → Nat
  | [] => 0
  | x :: xs => x.toNat + 256 * leNat xs

/-- Bytes `i` to `i + n - 1` of a string; bytes past its end are zero. -/
def slice (b : Bytes) (i n : Nat) : Bytes :=
  let r := (b.drop i).take n
  r ++ List.replicate (n - r.length) 0

/-- A big-endian field of a byte string. -/
def beAt (b : Bytes) (i n : Nat) : Nat := beNat (slice b i n)

/-- A little-endian field of a byte string. -/
def leAt (b : Bytes) (i n : Nat) : Nat := leNat (slice b i n)

/-- `n` zero bytes. -/
def zeros (n : Nat) : Bytes := List.replicate n 0

/-- A string padded with zeros to `n` bytes, or cut to them. -/
def padTo (n : Nat) (b : Bytes) : Bytes := slice b 0 n

/-- Byte by byte exclusive or, as long as the shorter string. -/
def xorBytes : Bytes → Bytes → Bytes
  | x :: xs, y :: ys => (x ^^^ y) :: xorBytes xs ys
  | _, _ => []

/-- A string cut into pieces of `n` bytes; the last may be shorter. The first argument bounds the number of
pieces. -/
def chunks : Nat → Nat → Bytes → List Bytes
  | 0, _, _ => []
  | _, _, [] => []
  | f + 1, n, b => b.take n :: chunks f n (b.drop n)

/-- A string as 16-byte blocks; the last may be shorter. -/
def blocks16 (b : Bytes) : List Bytes := chunks (b.length / 16 + 1) 16 b

/-- A string as 16-byte blocks, the last padded with zeros. -/
def blocks16z (b : Bytes) : List Bytes := (blocks16 b).map (padTo 16)

/-- ASCII text as bytes. -/
def ascii (t : String) : Bytes := t.toList.map fun c => BitVec.ofNat 8 c.toNat

/-- Bits `hi` to `lo` of a number. -/
def bits (v hi lo : Nat) : Nat := v / 2 ^ lo % 2 ^ (hi - lo + 1)

/-- A truth value as a bit. -/
def b2n (b : Bool) : Nat := if b then 1 else 0

/-- Ceiling of a quotient. -/
def ceilDiv (a b : Nat) : Nat := (a + b - 1) / b

/-- The number of bits of a mask that are set, of its low `n` bits. -/
def popCount : Nat → Nat → Nat
  | 0, _ => 0
  | n + 1, v => v % 2 + popCount n (v / 2)

/-- A list in rising order of a key; what has the same key keeps its order. -/
def insertOn {α : Type} (key : α → Nat) (x : α) : List α → List α
  | [] => [x]
  | y :: r => if key x ≤ key y then x :: y :: r else y :: insertOn key x r

def sortOn {α : Type} (key : α → Nat) (l : List α) : List α := l.foldr (insertOn key) []

end Sys2Proof.Machine
end

