-- ==== Sys2Proof/Machine/Aes.lean ====
section
/-! DEFINITION. The published standards the rules name (R15), transcribed from the standards: FIPS 197 (AES), and
on it CTR, CBC-MAC, CMAC (SP 800-38B), GHASH and GCM (SP 800-38D), XTS (IEEE 1619). PRESUMED: the spec cites the
standards and does not restate them. -/
namespace Sys2Proof.Machine
open Sys2Proof

/-! ### AES -/

/-- Multiplication by x in GF(2^8) modulo 0x11B. -/
def gf8x (a : Nat) : Nat := if a < 128 then 2 * a else (2 * a) ^^^ 0x11B

/-- Multiplication in GF(2^8); the first argument counts the bits of `b` left. -/
def gf8mulGo : Nat → Nat → Nat → Nat
  | 0, _, _ => 0
  | n + 1, a, b => (if b % 2 = 1 then a else 0) ^^^ gf8mulGo n (gf8x a) (b / 2)

/-- Multiplication in GF(2^8). -/
def gf8mul (a b : Nat) : Nat := gf8mulGo 8 a b

/-- The inverse in GF(2^8), 0 for 0: the 254th power. -/
def gf8inv (a : Nat) : Nat :=
  let a2 := gf8mul a a
  let a3 := gf8mul a2 a
  let a6 := gf8mul a3 a3
  let a12 := gf8mul a6 a6
  let a15 := gf8mul a12 a3
  let a30 := gf8mul a15 a15
  let a60 := gf8mul a30 a30
  let a120 := gf8mul a60 a60
  let a126 := gf8mul a120 a6
  let a127 := gf8mul a126 a
  gf8mul a127 a127

/-- Rotation of a byte to the left. -/
def rotl8 (a n : Nat) : Nat := (a * 2 ^ n % 256) ^^^ (a / 2 ^ (8 - n))

/-- The S-box of FIPS 197. -/
def aesSub (x : Byte) : Byte :=
  let b := gf8inv x.toNat
  BitVec.ofNat 8 (b ^^^ rotl8 b 1 ^^^ rotl8 b 2 ^^^ rotl8 b 3 ^^^ rotl8 b 4 ^^^ 0x63)

/-- The inverse S-box of FIPS 197. -/
def aesInvSub (x : Byte) : Byte :=
  let b := x.toNat
  BitVec.ofNat 8 (gf8inv (rotl8 b 1 ^^^ rotl8 b 3 ^^^ rotl8 b 6 ^^^ 0x05))

/-- Key expansion, word by word: the first argument bounds the words still to make, `nk` is the key's length in
words, `i` the index of the next word, `w` the words so far, last first. -/
def aesExpandGo : Nat → Nat → Nat → Nat → List Bytes → List Bytes
  | 0, _, _, _, w => w
  | f + 1, nk, i, rc, w =>
    let prev := w.headD []
    let t :=
      if i % nk = 0 then
        match (prev.drop 1 ++ prev.take 1).map aesSub with
        | a :: r => (a ^^^ BitVec.ofNat 8 rc) :: r
        | [] => []
      else if 6 < nk ∧ i % nk = 4 then prev.map aesSub
      else prev
    let rc' := if i % nk = 0 then gf8x rc else rc
    aesExpandGo f nk (i + 1) rc' (xorBytes (w.getD (nk - 1) []) t :: w)

/-- The round keys of a 16- or 32-byte key, 16 bytes each, in order. -/
def aesRoundKeys (key : Bytes) : List Bytes :=
  let nk := if 16 < key.length then 8 else 4
  let k := padTo (4 * nk) key
  let ws := (aesExpandGo (4 * (nk + 7) - nk) nk nk 1 (chunks nk 4 k).reverse).reverse
  chunks (nk + 7) 16 ws.flatten

/-- ShiftRows on a block stored column by column. -/
def aesShiftRows (s : Bytes) : Bytes :=
  (List.range 16).map fun i => s.getD ((i + 4 * (i % 4)) % 16) 0

/-- Inverse ShiftRows. -/
def aesInvShiftRows (s : Bytes) : Bytes :=
  (List.range 16).map fun i => s.getD ((i + 12 * (i % 4)) % 16) 0

/-- One column times the circulant matrix whose first row is `m0 m1 m2 m3`. -/
def aesMixCol (m0 m1 m2 m3 : Nat) (c : Bytes) : Bytes :=
  match c with
  | [a, b, d, e] =>
    let x := a.toNat
    let y := b.toNat
    let z := d.toNat
    let w := e.toNat
    [BitVec.ofNat 8 (gf8mul x m0 ^^^ gf8mul y m1 ^^^ gf8mul z m2 ^^^ gf8mul w m3),
     BitVec.ofNat 8 (gf8mul x m3 ^^^ gf8mul y m0 ^^^ gf8mul z m1 ^^^ gf8mul w m2),
     BitVec.ofNat 8 (gf8mul x m2 ^^^ gf8mul y m3 ^^^ gf8mul z m0 ^^^ gf8mul w m1),
     BitVec.ofNat 8 (gf8mul x m1 ^^^ gf8mul y m2 ^^^ gf8mul z m3 ^^^ gf8mul w m0)]
  | _ => c

/-- MixColumns. -/
def aesMixColumns (s : Bytes) : Bytes := ((chunks 4 4 s).map (aesMixCol 2 3 1 1)).flatten

/-- Inverse MixColumns. -/
def aesInvMixColumns (s : Bytes) : Bytes := ((chunks 4 4 s).map (aesMixCol 14 11 13 9)).flatten

/-- The rounds after the first key addition. -/
def aesEncRounds : List Bytes → Bytes → Bytes
  | [], s => s
  | [k], s => xorBytes (aesShiftRows (s.map aesSub)) k
  | k :: ks, s => aesEncRounds ks (xorBytes (aesMixColumns (aesShiftRows (s.map aesSub))) k)

/-- The forward cipher of one 16-byte block. -/
def aesEnc (key block : Bytes) : Bytes :=
  match aesRoundKeys key with
  | k :: ks => aesEncRounds ks (xorBytes (padTo 16 block) k)
  | [] => []

/-- The rounds of the inverse cipher, round keys last first. -/
def aesDecRounds : List Bytes → Bytes → Bytes
  | [], s => s
  | [k], s => xorBytes ((aesInvShiftRows s).map aesInvSub) k
  | k :: ks, s => aesDecRounds ks (aesInvMixColumns (xorBytes ((aesInvShiftRows s).map aesInvSub) k))

/-- The inverse cipher of one 16-byte block. -/
def aesDec (key block : Bytes) : Bytes :=
  match (aesRoundKeys key).reverse with
  | k :: ks => aesDecRounds ks (xorBytes (padTo 16 block) k)
  | [] => []

/-! ### CTR, CBC-MAC, CMAC -/

/-- Increment the last 4 bytes of a counter block, modulo 2^32. -/
def inc32 (c : Bytes) : Bytes := c.take 12 ++ beBytes 4 ((beAt c 12 4 + 1) % 2 ^ 32)

/-- CTR over a list of blocks, counter block first. -/
def ctrBlocks (key : Bytes) : Bytes → List Bytes → Bytes
  | _, [] => []
  | c, b :: bs => xorBytes b (aesEnc key c) ++ ctrBlocks key (inc32 c) bs

/-- CTR encryption, which is its own inverse. -/
def aesCtr (key ctr data : Bytes) : Bytes := ctrBlocks key ctr (blocks16 data)

/-- CBC-MAC over whole blocks from a starting value. -/
def cbcMac (key : Bytes) (iv : Bytes) (bs : List Bytes) : Bytes :=
  bs.foldl (fun h b => aesEnc key (xorBytes h b)) iv

/-- Doubling in GF(2^128) as CMAC and XTS number bits: `v` is the block read big-endian. -/
def dbl128 (v : Nat) : Nat :=
  if v < 2 ^ 127 then 2 * v else (2 * v % 2 ^ 128) ^^^ 0x87

/-- CMAC of SP 800-38B, all 16 bytes. -/
def cmac (key msg : Bytes) : Bytes :=
  let k1 := dbl128 (beNat (aesEnc key (zeros 16)))
  let k2 := dbl128 k1
  let bs := blocks16 msg
  let last := bs.getLastD []
  let fin :=
    if last.length = 16 then xorBytes last (beBytes 16 k1)
    else xorBytes (padTo 16 (last ++ [0x80])) (beBytes 16 k2)
  cbcMac key (zeros 16) (bs.dropLast ++ [fin])

/-! ### GHASH and GCM -/

/-- Multiplication in GF(2^128) as GCM numbers bits, both factors read big-endian: the first argument counts the
bits of `x` left, most significant first. -/
def gf128Go : Nat → Nat → Nat → Nat → Nat
  | 0, _, _, z => z
  | n + 1, x, v, z =>
    let z' := if x.testBit n then z ^^^ v else z
    let v' := if v % 2 = 1 then (v / 2) ^^^ 0xE1000000000000000000000000000000 else v / 2
    gf128Go n x v' z'

/-- Multiplication in GF(2^128) of GCM. -/
def gf128mul (x y : Nat) : Nat := gf128Go 128 x y 0

/-- GHASH under `h` of whole blocks, from a starting value. -/
def ghashFrom (h : Nat) (y : Nat) (bs : List Bytes) : Nat :=
  bs.foldl (fun y b => gf128mul (y ^^^ beNat b) h) y

/-- GHASH of whole blocks. -/
def ghash (h : Bytes) (bs : List Bytes) : Bytes := beBytes 16 (ghashFrom (beNat h) 0 bs)

/-- The GHASH blocks of GCM: AAD and text each padded, then their lengths in bits. -/
def gcmBlocks (aad ct : Bytes) : List Bytes :=
  blocks16z aad ++ blocks16z ct ++ [beBytes 8 (8 * aad.length) ++ beBytes 8 (8 * ct.length)]

/-- The GCM tag of a ciphertext, for a 96-bit IV. -/
def gcmTag (key iv aad ct : Bytes) : Bytes :=
  let h := aesEnc key (zeros 16)
  xorBytes (ghash h (gcmBlocks aad ct)) (aesEnc key (iv ++ beBytes 4 1))

/-- GCM encryption with a 96-bit IV: ciphertext and tag. -/
def gcmSeal (key iv aad pt : Bytes) : Bytes × Bytes :=
  let ct := aesCtr key (iv ++ beBytes 4 2) pt
  (ct, gcmTag key iv aad ct)

/-- GCM decryption without the check. -/
def gcmOpen (key iv ct : Bytes) : Bytes := aesCtr key (iv ++ beBytes 4 2) ct

/-! ### XTS -/

/-- Multiplication of a tweak by α (IEEE 1619): the block read little-endian, doubled modulo 0x87. -/
def xtsNext (t : Bytes) : Bytes := leBytes 16 (dbl128 (leNat t))

/-- One XTS block. -/
def xtsBlock (k1 : Bytes) (enc : Bool) (t b : Bytes) : Bytes :=
  let x := xorBytes b t
  xorBytes (if enc then aesEnc k1 x else aesDec k1 x) t

/-- XTS over whole blocks; answers the output and the next tweak. -/
def xtsBlocks (k1 : Bytes) (enc : Bool) : Bytes → List Bytes → Bytes × Bytes
  | t, [] => ([], t)
  | t, b :: bs =>
    let r := xtsBlocks k1 enc (xtsNext t) bs
    (xtsBlock k1 enc t b ++ r.1, r.2)

/-- XTS of a data unit of 16 bytes or more, with ciphertext stealing for a length that is not a multiple of 16.
The tweak is the 16-byte block that K2 encrypts. -/
def xts (k1 k2 : Bytes) (enc : Bool) (tweak data : Bytes) : Bytes :=
  let t0 := aesEnc k2 tweak
  let rest := data.length % 16
  if rest = 0 then (xtsBlocks k1 enc t0 (blocks16 data)).1
  else
    let whole := data.length / 16
    let head := (blocks16 (data.take (16 * (whole - 1))))
    let lastFull := slice data (16 * (whole - 1)) 16
    let tail := data.drop (16 * whole)
    let r := xtsBlocks k1 enc t0 head
    let tA := r.2
    let tB := xtsNext tA
    let first := xtsBlock k1 enc (if enc then tA else tB) lastFull
    let mixed := tail ++ first.drop rest
    r.1 ++ xtsBlock k1 enc (if enc then tB else tA) mixed ++ first.take rest

end Sys2Proof.Machine
end

