-- ==== Sys2Proof/Machine/Sha2.lean ====
section
/-! DEFINITION. SHA-256 and SHA-384 of FIPS 180-4, and CRC-32C. PRESUMED: the spec cites the standards (R15) and
does not restate them. -/
namespace Sys2Proof.Machine
open Sys2Proof

/-- The round constants of SHA-256. -/
def sha256K : List Nat :=
  [0x428a2f98, 0x71374491, 0xb5c0fbcf, 0xe9b5dba5, 0x3956c25b, 0x59f111f1, 0x923f82a4, 0xab1c5ed5] ++
  [0xd807aa98, 0x12835b01, 0x243185be, 0x550c7dc3, 0x72be5d74, 0x80deb1fe, 0x9bdc06a7, 0xc19bf174] ++
  [0xe49b69c1, 0xefbe4786, 0x0fc19dc6, 0x240ca1cc, 0x2de92c6f, 0x4a7484aa, 0x5cb0a9dc, 0x76f988da] ++
  [0x983e5152, 0xa831c66d, 0xb00327c8, 0xbf597fc7, 0xc6e00bf3, 0xd5a79147, 0x06ca6351, 0x14292967] ++
  [0x27b70a85, 0x2e1b2138, 0x4d2c6dfc, 0x53380d13, 0x650a7354, 0x766a0abb, 0x81c2c92e, 0x92722c85] ++
  [0xa2bfe8a1, 0xa81a664b, 0xc24b8b70, 0xc76c51a3, 0xd192e819, 0xd6990624, 0xf40e3585, 0x106aa070] ++
  [0x19a4c116, 0x1e376c08, 0x2748774c, 0x34b0bcb5, 0x391c0cb3, 0x4ed8aa4a, 0x5b9cca4f, 0x682e6ff3] ++
  [0x748f82ee, 0x78a5636f, 0x84c87814, 0x8cc70208, 0x90befffa, 0xa4506ceb, 0xbef9a3f7, 0xc67178f2]

/-- The round constants of SHA-384. -/
def sha512K : List Nat :=
  [0x428a2f98d728ae22, 0x7137449123ef65cd, 0xb5c0fbcfec4d3b2f, 0xe9b5dba58189dbbc, 0x3956c25bf348b538] ++
  [0x59f111f1b605d019, 0x923f82a4af194f9b, 0xab1c5ed5da6d8118, 0xd807aa98a3030242, 0x12835b0145706fbe] ++
  [0x243185be4ee4b28c, 0x550c7dc3d5ffb4e2, 0x72be5d74f27b896f, 0x80deb1fe3b1696b1, 0x9bdc06a725c71235] ++
  [0xc19bf174cf692694, 0xe49b69c19ef14ad2, 0xefbe4786384f25e3, 0x0fc19dc68b8cd5b5, 0x240ca1cc77ac9c65] ++
  [0x2de92c6f592b0275, 0x4a7484aa6ea6e483, 0x5cb0a9dcbd41fbd4, 0x76f988da831153b5, 0x983e5152ee66dfab] ++
  [0xa831c66d2db43210, 0xb00327c898fb213f, 0xbf597fc7beef0ee4, 0xc6e00bf33da88fc2, 0xd5a79147930aa725] ++
  [0x06ca6351e003826f, 0x142929670a0e6e70, 0x27b70a8546d22ffc, 0x2e1b21385c26c926, 0x4d2c6dfc5ac42aed] ++
  [0x53380d139d95b3df, 0x650a73548baf63de, 0x766a0abb3c77b2a8, 0x81c2c92e47edaee6, 0x92722c851482353b] ++
  [0xa2bfe8a14cf10364, 0xa81a664bbc423001, 0xc24b8b70d0f89791, 0xc76c51a30654be30, 0xd192e819d6ef5218] ++
  [0xd69906245565a910, 0xf40e35855771202a, 0x106aa07032bbd1b8, 0x19a4c116b8d2d0c8, 0x1e376c085141ab53] ++
  [0x2748774cdf8eeb99, 0x34b0bcb5e19b48a8, 0x391c0cb3c5c95a63, 0x4ed8aa4ae3418acb, 0x5b9cca4f7763e373] ++
  [0x682e6ff3d6b2b8a3, 0x748f82ee5defb2fc, 0x78a5636f43172f60, 0x84c87814a1f0ab72, 0x8cc702081a6439ec] ++
  [0x90befffa23631e28, 0xa4506cebde82bde9, 0xbef9a3f7b2c67915, 0xc67178f2e372532b, 0xca273eceea26619c] ++
  [0xd186b8c721c0c207, 0xeada7dd6cde0eb1e, 0xf57d4f7fee6ed178, 0x06f067aa72176fba, 0x0a637dc5a2c898a6] ++
  [0x113f9804bef90dae, 0x1b710b35131c471b, 0x28db77f523047d84, 0x32caab7b40c72493, 0x3c9ebe0a15c9bebc] ++
  [0x431d67c49c100d4c, 0x4cc5d4becb3e42b6, 0x597f299cfc657e2a, 0x5fcb6fab3ad6faec, 0x6c44198c4a475817]

/-- The initial value of SHA-256. -/
def sha256H : List Nat :=
  [0x6a09e667, 0xbb67ae85, 0x3c6ef372, 0xa54ff53a, 0x510e527f, 0x9b05688c, 0x1f83d9ab, 0x5be0cd19]

/-- The initial value of SHA-384. -/
def sha384H : List Nat :=
  [0xcbbb9d5dc1059ed8, 0x629a292a367cd507, 0x9159015a3070dd17, 0x152fecd8f70e5939] ++
  [0x67332667ffc00b31, 0x8eb44a8768581511, 0xdb0c2e0d64f98fa7, 0x47b5481dbefa4fa4]

/-- Rotation of a `w`-bit word to the right. -/
def rotr (w x n : Nat) : Nat := (x / 2 ^ n) ||| (x * 2 ^ (w - n) % 2 ^ w)

/-- The rotation amounts that tell SHA-256 and SHA-384 apart: word width, the two Σ, the two σ (the third of each a
shift). -/
structure ShaPar where
  w : Nat
  s0 : Nat × Nat × Nat
  s1 : Nat × Nat × Nat
  g0 : Nat × Nat × Nat
  g1 : Nat × Nat × Nat

/-- SHA-256's amounts. -/
def sha256Par : ShaPar := ⟨32, (2, 13, 22), (6, 11, 25), (7, 18, 3), (17, 19, 10)⟩

/-- SHA-384's amounts. -/
def sha512Par : ShaPar := ⟨64, (28, 34, 39), (14, 18, 41), (1, 8, 7), (19, 61, 6)⟩

/-- Σ. -/
def shaSum (p : ShaPar) (r : Nat × Nat × Nat) (x : Nat) : Nat :=
  rotr p.w x r.1 ^^^ rotr p.w x r.2.1 ^^^ rotr p.w x r.2.2

/-- σ. -/
def shaSig (p : ShaPar) (r : Nat × Nat × Nat) (x : Nat) : Nat :=
  rotr p.w x r.1 ^^^ rotr p.w x r.2.1 ^^^ (x / 2 ^ r.2.2)

/-- The message schedule: the first argument counts the words still to make, the last 16 words come last first. -/
def shaSchedule (p : ShaPar) : Nat → List Nat → List Nat
  | 0, w => w
  | n + 1, w =>
    let x := (shaSig p p.g1 (w.getD 1 0) + w.getD 6 0 + shaSig p p.g0 (w.getD 14 0) + w.getD 15 0) % 2 ^ p.w
    shaSchedule p n (x :: w)

/-- The rounds over pairs of constant and schedule word. -/
def shaRounds (p : ShaPar) : List (Nat × Nat) → List Nat → List Nat
  | [], v => v
  | (k, w) :: r, v =>
    match v with
    | [a, b, c, d, e, f, g, h] =>
      let m := 2 ^ p.w
      let t1 := (h + shaSum p p.s1 e + ((e &&& f) ^^^ ((m - 1 - e) &&& g)) + k + w) % m
      let t2 := (shaSum p p.s0 a + ((a &&& b) ^^^ (a &&& c) ^^^ (b &&& c))) % m
      shaRounds p r [(t1 + t2) % m, a, b, c, (d + t1) % m, e, f, g]
    | _ => v

/-- One block. -/
def shaBlock (p : ShaPar) (ks : List Nat) (h : List Nat) (b : Bytes) : List Nat :=
  let w0 := ((chunks 16 (p.w / 8) b).map beNat).reverse
  let ws := (shaSchedule p (ks.length - 16) w0).reverse
  (h.zip (shaRounds p (ks.zip ws) h)).map fun x => (x.1 + x.2) % 2 ^ p.w

/-- The padded message: 0x80, zeros, then the length in bits in the last `l` bytes of a block of `n`. -/
def shaPad (n l : Nat) (m : Bytes) : Bytes :=
  m ++ [0x80] ++ zeros ((n - (m.length + 1 + l) % n) % n) ++ beBytes l (8 * m.length)

/-- SHA-256. -/
def sha256 (m : Bytes) : Bytes :=
  let q := shaPad 64 8 m
  (((chunks (q.length / 64 + 1) 64 q).foldl (shaBlock sha256Par sha256K) sha256H).map (beBytes 4)).flatten

/-- SHA-384. -/
def sha384 (m : Bytes) : Bytes :=
  let q := shaPad 128 16 m
  ((((chunks (q.length / 128 + 1) 128 q).foldl (shaBlock sha512Par sha512K) sha384H).map (beBytes 8)).flatten).take 48

/-- One byte through CRC-32C, least significant bit first (reflected polynomial of 0x1EDC_6F41). -/
def crc32cBits : Nat → Nat → Nat
  | 0, c => c
  | n + 1, c => crc32cBits n (if c % 2 = 1 then (c / 2) ^^^ 0x82F63B78 else c / 2)

/-- The CRC-32C register over a byte string, from a starting value, without final inversion. -/
def crc32cFrom (init : Nat) (b : Bytes) : Nat :=
  b.foldl (fun c x => crc32cBits 8 (c ^^^ x.toNat)) init

end Sys2Proof.Machine
end

