-- ==== Sys2Proof/Machine/Ecc.lean ====
section
/-! DEFINITION. The public-key engine's arithmetic (R457): ECDSA and ECDH on P-256, P-384, brainpoolP256r1 and
brainpoolP384r1 over exact integers. PRESUMED: curve parameters and algorithms are those of FIPS 186-5, SP 800-56A and
RFC 5639, which the spec cites (R15) and does not restate. -/
namespace Sys2Proof.Machine
open Sys2Proof

/-- A curve y² = x³ + ax + b over the field of `p` elements, with base point `g` of order `n`, whose order takes
`width` bytes. -/
structure Curve where
  p : Nat
  a : Nat
  b : Nat
  gx : Nat
  gy : Nat
  n : Nat
  width : Nat
  deriving DecidableEq, Repr

/-- P-256. -/
def p256 : Curve := ⟨0xffffffff00000001000000000000000000000000ffffffffffffffffffffffff,
  0xffffffff00000001000000000000000000000000fffffffffffffffffffffffc,
  0x5ac635d8aa3a93e7b3ebbd55769886bc651d06b0cc53b0f63bce3c3e27d2604b,
  0x6b17d1f2e12c4247f8bce6e563a440f277037d812deb33a0f4a13945d898c296,
  0x4fe342e2fe1a7f9b8ee7eb4a7c0f9e162bce33576b315ececbb6406837bf51f5,
  0xffffffff00000000ffffffffffffffffbce6faada7179e84f3b9cac2fc632551, 32⟩

/-- P-384. -/
def p384 : Curve := ⟨2 ^ 384 - 2 ^ 128 - 2 ^ 96 + 2 ^ 32 - 1,
  2 ^ 384 - 2 ^ 128 - 2 ^ 96 + 2 ^ 32 - 4,
  0xb3312fa7e23ee7e4988e056be3f82d19181d9c6efe8141120314088f5013875ac656398d8a2ed19d2a85c8edd3ec2aef,
  0xaa87ca22be8b05378eb1c71ef320ad746e1d3b628ba79b9859f741e082542a385502f25dbf55296c3a545e3872760ab7,
  0x3617de4a96262c6f5d9e98bf9292dc29f8f41dbd289a147ce9da3113b5f0b8c00a60b1ce1d7e819d7a431d7c90ea0e5f,
  0xffffffffffffffffffffffffffffffffffffffffffffffffc7634d81f4372ddf581a0db248b0a77aecec196accc52973, 48⟩

/-- brainpoolP256r1. -/
def bp256 : Curve := ⟨0xA9FB57DBA1EEA9BC3E660A909D838D726E3BF623D52620282013481D1F6E5377,
  0x7D5A0975FC2C3057EEF67530417AFFE7FB8055C126DC5C6CE94A4B44F330B5D9,
  0x26DC5C6CE94A4B44F330B5D9BBD77CBF958416295CF7E1CE6BCCDC18FF8C07B6,
  0x8BD2AEB9CB7E57CB2C4B482FFC81B7AFB9DE27E1E3BD23C23A4453BD9ACE3262,
  0x547EF835C3DAC4FD97F8461A14611DC9C27745132DED8E545C1D54C72F046997,
  0xA9FB57DBA1EEA9BC3E660A909D838D718C397AA3B561A6F7901E0E82974856A7, 32⟩

/-- brainpoolP384r1. -/
def bp384 : Curve := ⟨0x8CB91E82A3386D280F5D6F7E50E641DF152F7109ED5456B412B1DA197FB71123ACD3A729901D1A71874700133107EC53,
  0x7BC382C63D8C150C3C72080ACE05AFA0C2BEA28E4FB22787139165EFBA91F90F8AA5814A503AD4EB04A8C7DD22CE2826,
  0x04A8C7DD22CE28268B39B55416F0447C2FB77DE107DCD2A62E880EA53EEB62D57CB4390295DBC9943AB78696FA504C11,
  0x1D1C64F068CF45FFA2A63A81B7C13F6B8847A3E77EF14FE3DB7FCAFE0CBD10E8E826E03436D646AAEF87B2E247D4AF1E,
  0x8ABE1D7520F9C2A45CB1EB8E95CFD55262B70B29FEEC5864E19C054FF99129280E4646217791811142820341263C5315,
  0x8CB91E82A3386D280F5D6F7E50E641DF152F7109ED5456B31F166E6CAC0425A7CF3AB6AF6B7FC3103B883202E9046565, 48⟩

/-- The curve of a private or public key type code of R426 (its two low bits). -/
def curveOf (type : Nat) : Curve :=
  if type % 4 = 0 then p256 else if type % 4 = 1 then p384 else if type % 4 = 2 then bp256 else bp384

/-- A power modulo `m`, the first argument counting the exponent's bits left. -/
def powModGo : Nat → Nat → Nat → Nat → Nat → Nat
  | 0, _, _, _, r => r
  | f + 1, b, e, m, r => powModGo f (b * b % m) (e / 2) m (if e % 2 = 1 then r * b % m else r)

/-- The inverse modulo a prime below 2^384. -/
def invMod (x m : Nat) : Nat := powModGo 384 (x % m) (m - 2) m 1

/-- Subtraction modulo `m` of reduced numbers. -/
def subMod (a b m : Nat) : Nat := (a + m - b % m) % m

/-- A point in Jacobian coordinates (X, Y, Z); Z = 0 is the point at infinity. -/
abbrev JPoint := Nat × Nat × Nat

/-- Doubling. -/
def jDouble (c : Curve) (q : JPoint) : JPoint :=
  let (x, y, z) := q
  if z = 0 ∨ y = 0 then (1, 1, 0)
  else
    let ysq := y * y % c.p
    let s := 4 * x * ysq % c.p
    let m := (3 * x * x + c.a * (z * z % c.p) * (z * z % c.p)) % c.p
    let nx := subMod (m * m % c.p) (2 * s) c.p
    let ny := subMod (m * subMod s nx c.p % c.p) (8 * ysq * ysq) c.p
    (nx, ny, 2 * y * z % c.p)

/-- Addition. -/
def jAdd (c : Curve) (q r : JPoint) : JPoint :=
  let (x1, y1, z1) := q
  let (x2, y2, z2) := r
  if z1 = 0 then r else if z2 = 0 then q
  else
    let u1 := x1 * z2 * z2 % c.p
    let u2 := x2 * z1 * z1 % c.p
    let s1 := y1 * z2 * z2 % c.p * z2 % c.p
    let s2 := y2 * z1 * z1 % c.p * z1 % c.p
    if u1 = u2 then (if s1 = s2 then jDouble c q else (1, 1, 0))
    else
      let h := subMod u2 u1 c.p
      let rr := subMod s2 s1 c.p
      let h2 := h * h % c.p
      let h3 := h * h2 % c.p
      let v := u1 * h2 % c.p
      let nx := subMod (subMod (rr * rr % c.p) h3 c.p) (2 * v) c.p
      let ny := subMod (rr * subMod v nx c.p % c.p) (s1 * h3) c.p
      (nx, ny, h * z1 % c.p * z2 % c.p)

/-- Scalar multiplication, the first argument counting the bits of `k` left, most significant first. -/
def jMulGo (c : Curve) : Nat → Nat → JPoint → JPoint → JPoint
  | 0, _, _, r => r
  | f + 1, k, q, r =>
    let d := jDouble c r
    jMulGo c f k q (if k.testBit f then jAdd c d q else d)

/-- An affine point, or infinity. -/
abbrev Point := Option (Nat × Nat)

/-- The affine point of a Jacobian one. -/
def jAffine (c : Curve) (q : JPoint) : Point :=
  let (x, y, z) := q
  if z = 0 then none
  else
    let zi := invMod z c.p
    let zi2 := zi * zi % c.p
    some (x * zi2 % c.p, y * zi2 % c.p * zi % c.p)

/-- The Jacobian point of an affine one. -/
def jOf : Point → JPoint
  | none => (1, 1, 0)
  | some (x, y) => (x, y, 1)

/-- `k` times a point. -/
def ecMul (c : Curve) (k : Nat) (q : Point) : Point := jAffine c (jMulGo c (8 * c.width) k (jOf q) (1, 1, 0))

/-- The base point. -/
def ecBase (c : Curve) : Point := some (c.gx, c.gy)

/-- Does (x, y) lie on the curve? -/
def onCurve (c : Curve) (x y : Nat) : Bool :=
  decide (x < c.p) && decide (y < c.p) && decide (y * y % c.p = (x * x * x + c.a * x + c.b) % c.p)

/-- The x ‖ y encoding of a point. -/
def pointBytes (c : Curve) : Point → Bytes
  | none => zeros (2 * c.width)
  | some (x, y) => beBytes c.width x ++ beBytes c.width y

/-- The point of an x ‖ y encoding. -/
def bytesPoint (c : Curve) (b : Bytes) : Nat × Nat := (beAt b 0 c.width, beAt b c.width c.width)

/-- The digest the curve's signatures are over: SHA-256 or SHA-384 by width. -/
def curveHash (c : Curve) (m : Bytes) : Bytes := if c.width = 32 then sha256 m else sha384 m

/-- An ECDSA signature r ‖ s with per-message secret `k`; `none` when `k` gives r = 0 or s = 0. -/
def ecdsaSign (c : Curve) (d k : Nat) (digest : Bytes) : Option Bytes :=
  match ecMul c k (ecBase c) with
  | none => none
  | some (x, _) =>
    let r := x % c.n
    let s := invMod k c.n * ((beNat digest + r * d) % c.n) % c.n
    if r = 0 ∨ s = 0 then none else some (beBytes c.width r ++ beBytes c.width s)

/-- ECDSA verification of r ‖ s under the public point (x, y). -/
def ecdsaVerify (c : Curve) (x y : Nat) (digest sig : Bytes) : Bool :=
  let r := beAt sig 0 c.width
  let s := beAt sig c.width c.width
  if r = 0 ∨ c.n ≤ r ∨ s = 0 ∨ c.n ≤ s then false
  else
    let w := invMod s c.n
    let u1 := beNat digest * w % c.n
    let u2 := r * w % c.n
    let q := jAdd c (jMulGo c (8 * c.width) u1 (jOf (ecBase c)) (1, 1, 0)) (jMulGo c (8 * c.width) u2 (x, y, 1) (1, 1, 0))
    match jAffine c q with
    | none => false
    | some (vx, _) => decide (vx % c.n = r)

end Sys2Proof.Machine
end

