-- ==== Sys2Proof/Machine/Kdf.lean ====
section
/-! DEFINITION. Key types and lengths (R422, R426), the derivation function (R420, R421), key check values
(R428), the random-bit generator CTR_DRBG (R493) and the entropy compressor and conditioner (R485, R486). -/
namespace Sys2Proof.Machine
open Sys2Proof

/-! ### Key types (R426) -/

/-- Length of the material of a key type, in bytes; 0 for a code that names no type. -/
def keyLen (t : Nat) : Nat :=
  if t = 0x01 then 16
  else if t = 0x02 then 32
  else if t = 0x03 then 32
  else if t = 0x04 then 64
  else if t = 0x10 ∨ t = 0x12 then 32
  else if t = 0x11 ∨ t = 0x13 then 48
  else if t = 0x18 ∨ t = 0x1A then 64
  else if t = 0x19 ∨ t = 0x1B then 96
  else if t = 0x20 then 32
  else if t = 0x21 then 48
  else 0

/-- A key of this type takes an even slot and its tail (R427). -/
def keyWide (t : Nat) : Bool := t = 0x04 ∨ t = 0x19 ∨ t = 0x1B

/-- An ECC private key type. -/
def isPriv (t : Nat) : Bool := decide (0x10 ≤ t ∧ t ≤ 0x13)

/-- An ECC public key type. -/
def isPub (t : Nat) : Bool := decide (0x18 ≤ t ∧ t ≤ 0x1B)

/-- The four ECDH and ECDSA types in the order of R426. -/
def curveCode (t : Nat) : Nat := t % 4

/-- L in bits by the type of the child (R422); 0 for a type that cannot be derived. -/
def derivedBits (t : Nat) : Nat :=
  if t = 0x01 then 128
  else if t = 0x02 ∨ t = 0x03 then 256
  else if t = 0x04 then 512
  else if t = 0x10 ∨ t = 0x12 then 320
  else if t = 0x11 ∨ t = 0x13 then 448
  else 0

/-! ### Derivation (R420 to R422) -/

/-- The 48-byte context of R421. -/
def kdfContext (policy : Nat) (lc depth type epoch : Nat) (digest : Bytes) : Bytes :=
  beBytes 4 policy ++ beBytes 1 lc ++ beBytes 1 depth ++ beBytes 1 type ++ [0] ++ beBytes 8 epoch ++ padTo 32 digest

/-- Input i of R420. -/
def kdfInput (label ctx : Bytes) (l i : Nat) : Bytes := beBytes 4 i ++ padTo 32 label ++ [0] ++ ctx ++ beBytes 4 l

/-- The counter-mode KDF of R420, `l` bits. -/
def kdf (parent label ctx : Bytes) (l : Nat) : Bytes :=
  (((List.range (ceilDiv l 128)).map fun i => cmac parent (kdfInput label ctx l (i + 1))).flatten).take (l / 8)

/-- The material of a derived key: an ECC scalar is (c mod (n − 1)) + 1 (R422). -/
def derivedMaterial (t : Nat) (out : Bytes) : Bytes :=
  if isPriv t then
    let c := curveOf (curveCode t)
    beBytes c.width (beNat out % (c.n - 1) + 1)
  else out

/-- The label of a fixed derivation (R425). -/
def fixedLabel (text : String) (type : Nat) : Bytes := BitVec.ofNat 8 type :: (padTo 32 (ascii text)).drop 1

/-- A fixed derivation from the root, at depth 1 under policy zero (R425). -/
def fixedKey (root : Bytes) (text : String) (type lc epoch : Nat) : Bytes :=
  kdf root (fixedLabel text type) (kdfContext 0 lc 1 type epoch (zeros 32)) (derivedBits type)

/-! ### Check values (R428) -/

/-- The block Q: 0x4B and fifteen zero bytes. -/
def kcvBlock : Bytes := 0x4B :: zeros 15

/-- The public point of an ECC key's material. -/
def publicPoint (t : Nat) (m : Bytes) : Bytes :=
  if isPriv t then
    let c := curveOf (curveCode t)
    pointBytes c (ecMul c (beNat m) (ecBase c))
  else m

/-- The key check value of R428. -/
def kcvOf (t : Nat) (m : Bytes) : Word :=
  BitVec.ofNat 32 (beAt (
    if t = 0x01 ∨ t = 0x02 then aesEnc m kcvBlock
    else if t = 0x03 then xorBytes (aesEnc (m.take 16) kcvBlock) (aesEnc (m.drop 16) kcvBlock)
    else if t = 0x04 then xorBytes (aesEnc (m.take 32) kcvBlock) (aesEnc (m.drop 32) kcvBlock)
    else if isPriv t ∨ isPub t then sha256 (0x04 :: publicPoint t m)
    else sha256 (0x4B :: m)) 0 4)

/-! ### CTR_DRBG (R493) -/

/-- The state of the generator: key and V. -/
structure Drbg where
  key : Bytes
  v : Bytes
  deriving DecidableEq, Repr

/-- V + 1 modulo 2^128. -/
def drbgInc (v : Bytes) : Bytes := beBytes 16 ((beNat v + 1) % 2 ^ 128)

/-- `n` blocks of output, and V after them. -/
def drbgBlocks (key : Bytes) : Nat → Bytes → Bytes × Bytes
  | 0, v => ([], v)
  | n + 1, v =>
    let v1 := drbgInc v
    let r := drbgBlocks key n v1
    (aesEnc key v1 ++ r.1, r.2)

/-- The update function of SP 800-90A with 48 bytes of provided data. -/
def drbgUpdate (d : Drbg) (data : Bytes) : Drbg :=
  let t := xorBytes (drbgBlocks d.key 3 d.v).1 (padTo 48 data)
  ⟨t.take 32, t.drop 32⟩

/-- Instantiation and reseeding: key and V zero, or the state so far, updated with the entropy input. -/
def drbgInit (entropy : Bytes) : Drbg := drbgUpdate ⟨zeros 32, zeros 16⟩ entropy

/-- One generate request of `n` bytes. -/
def drbgGenerate (d : Drbg) (n : Nat) : Bytes × Drbg :=
  let r := drbgBlocks d.key (ceilDiv n 16) d.v
  (r.1.take n, drbgUpdate ⟨d.key, r.2⟩ (zeros 48))

/-! ### Compressor and conditioner (R485, R486) -/

/-- One raw sample into the compressor. -/
def compressBit (r : BitVec 64) (b : Bool) : BitVec 64 :=
  (r <<< 1) ^^^ (if b then 1 else 0) ^^^ (if r.getLsbD 63 then 0x1B else 0)

/-- Raw samples into the compressor: a word after every 256. Answers the words and r. -/
def compress : Nat → BitVec 64 → List Bool → List (BitVec 64) × BitVec 64
  | 0, r, _ => ([], r)
  | n + 1, r, bs =>
    let r1 := (bs.take 256).foldl compressBit r
    let w := compress n r1 (bs.drop 256)
    (r1 :: w.1, w.2)

/-- The conditioner's fixed key K_C. -/
def condKey : Bytes := (List.range 32).map fun k => BitVec.ofNat 8 k

/-- A conditioned block of eight compressor words. -/
def condBlock (ws : List (BitVec 64)) : Bytes :=
  cbcMac condKey (zeros 16) (blocks16 ((ws.map fun w => beBytes 8 w.toNat).flatten))

/-- A seed of three conditioned blocks (R487), from 24 compressor words. -/
def seedOf (ws : List (BitVec 64)) : Bytes :=
  condBlock (ws.take 8) ++ condBlock ((ws.drop 8).take 8) ++ condBlock ((ws.drop 16).take 8)

end Sys2Proof.Machine
end

