-- ==== Sys2Proof/Config.lean ====
section
/-! DEFINITION. What an integrator or a member fixes (R71, R606), and the free values: constants with no
body, of which nothing can be proved but that they are the same constant. -/
namespace Sys2Proof

/-- OT_BASE[39:18], the place of the register window (R71, R606). -/
opaque Config.otBase : BitVec 22

/-- OT_SELF_RID, the requester ID of Otist's own traffic (R38, R606). -/
opaque Config.selfRid : BitVec 12

/-- Silicon stepping, major part ("member value", IDENT_MEMBER). -/
opaque Config.stepMajor : BitVec 8

/-- Silicon stepping, minor part ("member value", IDENT_MEMBER). -/
opaque Config.stepMinor : BitVec 8

/-- The requester field of a chronicle entry that no host access and no client request caused: R590 names
the field and gives it no value for such an entry. Argument: the entry's code. -/
opaque Config.entryReq : BitVec 16 → BitVec 16

/-- The grade recorded for an event of a start-up source (FUSE, LC_WORD, ROOT_ABSENT): R539 gives none. Argument:
the source code. -/
opaque Config.startupGrade : BitVec 8 → Bool

/-- ANCHOR_STAT.USABLE while all 64 slots are usable: six bits do not hold the count. -/
opaque Config.anchorAllUsable : BitVec 6

/-- The key of the next noise-fill block of a lane, from the previous filled block's result if there is one: R132 names no
derivation. -/
opaque Config.fillKey : Option (BitVec 128) → BitVec 128

/-- The input of a noise-fill block: R132 gives none. -/
opaque Config.fillBlock : BitVec 128

/-- The set of 512 that holds a line of a cache: R328 gives the sets and ways and no index function. Arguments: the tag cache
(else the counter cache), then the line's region, side, level and index. -/
opaque Config.cacheSet : Bool → Nat → Bool → Nat → Nat → BitVec 9

/-- The next state of a tamper loop's 15-bit maximal-length LFSR: R543 names no polynomial. -/
opaque Config.loopNext : BitVec 15 → BitVec 15

/-- The fixed seed of a tamper loop before the first seed of the CTR_DRBG exists: R543 gives none. -/
opaque Config.loopSeed : Nat → BitVec 15

/-- The next state of the 64-bit mask LFSR in VBAT: R416 names no polynomial. -/
opaque Config.maskNext : BitVec 64 → BitVec 64

/-- The code under which a waiting action that a reset abandons is counted (R597): the spec does not say which code of the
events that its action would have raised. -/
opaque Config.waitCode : Instr → BitVec 16

/-- A fresh free value: the step reads and advances the counter in State that is its argument. -/
opaque Config.freeValue : Nat → BitVec 64

end Sys2Proof
end

