-- ==== Sys2Proof/Machine/RegTypes.lean ====
section
/-! DEFINITION. The types the register tables are written in: field types (R7), the layout of a
register, a field's place in the window, page events (R91) and pages (R72). -/
namespace Sys2Proof.Machine

/-- The register field types of R7. -/
inductive FieldType where
  | ro | rw | rws | w1c | w1s | wo | rc
  deriving DecidableEq, Repr

/-- Which writes a register takes only while something is OFF (R78 outcome 0x6). -/
inductive OffRule where
  /-- no restriction -/
  | none
  /-- only while the page is OFF -/
  | page
  /-- only while the Bridle pair is OFF (R219) -/
  | pair
  /-- only while both ports of the loop are OFF (R240) -/
  | loop
  /-- only while the memory region is OFF (R304) -/
  | region
  /-- CHRON_CFG: the AUDIT_LOG2 field only while the page is OFF (R604) -/
  | chronCfg
  deriving DecidableEq, Repr

/-- One field of a register: bits, type, whether OT_RESET_N keeps it, and its reset value by array index. -/
structure FieldSpec where
  hi : Nat
  lo : Nat
  ty : FieldType
  kept : Bool
  reset : Nat → Nat

/-- One register of a page: its offset, the stride and length of its (up to two) array dimensions, its
width in words, the writes it takes only when OFF, and its fields. -/
structure RegSpec where
  off : Nat
  stride : Nat
  count : Nat
  stride2 : Nat
  count2 : Nat
  words : Nat
  offRule : OffRule
  fields : List FieldSpec

/-- A field's place in the register window: address of the register's first word, and bits. -/
structure RegField where
  addr : Nat
  hi : Nat
  lo : Nat
  deriving DecidableEq, Repr

/-- An event bit: page and bit index in its event registers (R91). -/
structure PageEvent where
  page : Nat
  bit : Nat
  deriving DecidableEq, Repr

/-- The event bits of a page by property: always enabled (R84), condition events (R91), and the bits that
drive each interrupt output (R94). -/
structure EventMasks where
  always : Nat
  cond : Nat
  svc : Nat
  err : Nat
  sec : Nat
  wake : Nat
  deriving DecidableEq, Repr

/-- A page of the window as R72 lists it: type code, instance, domain number (R29) and whether its sink
is AUDIT. -/
structure PageSpec where
  type : Nat
  inst : Nat
  domain : Nat
  audit : Bool
  cap : Nat
  deriving DecidableEq, Repr

end Sys2Proof.Machine
end

