-- ==== Sys2Proof/Machine/Events.lean ====
section
/-! DEFINITION. Every page event under the spec's own name, transcribed from the event tables of the
page chapters: `E.PAGE.EVENT` is the page and the bit in its four event registers (R91); then, per
page, the bits that are always enabled (R84), the bits of condition events (R91) and the interrupt
output each bit drives (R94). -/
namespace Sys2Proof.Machine

def E.LANE.MULTI_LANE (p : Nat) : PageEvent := ⟨0x8 + p % 4, 13⟩
def E.LANE.REPLAY_OUT (p : Nat) : PageEvent := ⟨0x8 + p % 4, 12⟩
def E.LANE.FENCED (p : Nat) : PageEvent := ⟨0x8 + p % 4, 11⟩
def E.LANE.GUST (p : Nat) : PageEvent := ⟨0x8 + p % 4, 10⟩
def E.LANE.KAT_FAIL (p : Nat) : PageEvent := ⟨0x8 + p % 4, 9⟩
def E.LANE.PARITY (p : Nat) : PageEvent := ⟨0x8 + p % 4, 8⟩
def E.SCHED.COMMIT_DONE : PageEvent := ⟨0xc, 11⟩
def E.SCHED.BRIDLE_HELD : PageEvent := ⟨0xc, 10⟩
def E.SCHED.NO_LANE : PageEvent := ⟨0xc, 9⟩
def E.SCHED.SHARE_BAD : PageEvent := ⟨0xc, 8⟩
def E.QUEUE.QUOTA_REFUSED (p : Nat) : PageEvent := ⟨0x10 + p % 8, 25⟩
def E.QUEUE.QUOTA_OVER (p : Nat) : PageEvent := ⟨0x10 + p % 8, 24⟩
def E.QUEUE.QSTATE (n : Nat) : PageEvent := ⟨0x10 + n % 32 / 4, 20 + n % 4⟩
def E.QUEUE.QERR (n : Nat) : PageEvent := ⟨0x10 + n % 32 / 4, 16 + n % 4⟩
def E.QUEUE.ACC (n : Nat) : PageEvent := ⟨0x10 + n % 32 / 4, 12 + n % 4⟩
def E.QUEUE.DONE (n : Nat) : PageEvent := ⟨0x10 + n % 32 / 4, 8 + n % 4⟩
def E.STREAM.TRIPLE_LOST : PageEvent := ⟨0x18, 10⟩
def E.STREAM.MACRO_FENCED : PageEvent := ⟨0x18, 9⟩
def E.STREAM.MACRO_GUST : PageEvent := ⟨0x18, 8⟩
def E.STRMP.PORT (n : Nat) : PageEvent := ⟨0x19 + n % 32 / 8, 24 + n % 8⟩
def E.STRMP.HIGH (n : Nat) : PageEvent := ⟨0x19 + n % 32 / 8, 16 + n % 8⟩
def E.STRMP.LOW (n : Nat) : PageEvent := ⟨0x19 + n % 32 / 8, 8 + n % 8⟩
def E.BRIDLE.PAIR_CHG : PageEvent := ⟨0x1d, 14⟩
def E.BRIDLE.OUT_HELD : PageEvent := ⟨0x1d, 13⟩
def E.BRIDLE.SINGLE_LANE : PageEvent := ⟨0x1d, 12⟩
def E.BRIDLE.UNDERRUN : PageEvent := ⟨0x1d, 11⟩
def E.BRIDLE.CUT_ABORT : PageEvent := ⟨0x1d, 10⟩
def E.BRIDLE.LOOP_BAD : PageEvent := ⟨0x1d, 9⟩
def E.BRIDLE.PAIR_BAD : PageEvent := ⟨0x1d, 8⟩
def E.ASSOC.STASH_LOW : PageEvent := ⟨0x20, 10⟩
def E.ASSOC.INSERT_FULL : PageEvent := ⟨0x20, 9⟩
def E.ASSOC.CMD_DONE : PageEvent := ⟨0x20, 8⟩
def E.LEARN.AGED : PageEvent := ⟨0x21, 12⟩
def E.LEARN.REFUSED : PageEvent := ⟨0x21, 11⟩
def E.LEARN.CONTESTED : PageEvent := ⟨0x21, 10⟩
def E.LEARN.MOVED : PageEvent := ⟨0x21, 9⟩
def E.LEARN.LEARNED : PageEvent := ⟨0x21, 8⟩
def E.TRIE.MISMATCH : PageEvent := ⟨0x22, 11⟩
def E.TRIE.SWAPPED : PageEvent := ⟨0x22, 10⟩
def E.TRIE.BUILD_FAIL : PageEvent := ⟨0x22, 9⟩
def E.TRIE.BUILD_DONE : PageEvent := ⟨0x22, 8⟩
def E.FRESH.CEIL_WAIT : PageEvent := ⟨0x24, 15⟩
def E.FRESH.JUMP : PageEvent := ⟨0x24, 14⟩
def E.FRESH.OVERLAP_END : PageEvent := ⟨0x24, 13⟩
def E.FRESH.SW_BAD : PageEvent := ⟨0x24, 12⟩
def E.FRESH.SWITCHED : PageEvent := ⟨0x24, 11⟩
def E.FRESH.EXH_ANY : PageEvent := ⟨0x24, 10⟩
def E.FRESH.LOST_MODE : PageEvent := ⟨0x24, 9⟩
def E.FRESH.EXHAUSTED : PageEvent := ⟨0x24, 8⟩
def E.ANCHOR.WEAR : PageEvent := ⟨0x25, 13⟩
def E.ANCHOR.LOST : PageEvent := ⟨0x25, 12⟩
def E.ANCHOR.BUDGET : PageEvent := ⟨0x25, 11⟩
def E.ANCHOR.STORE_FAULT : PageEvent := ⟨0x25, 10⟩
def E.ANCHOR.SLOT_RETIRED : PageEvent := ⟨0x25, 9⟩
def E.ANCHOR.WRITE_FAIL : PageEvent := ⟨0x25, 8⟩
def E.MEM.RESTORE_FAIL : PageEvent := ⟨0x28, 19⟩
def E.MEM.CKPT_DONE : PageEvent := ⟨0x28, 18⟩
def E.MEM.MAJOR_HIGH : PageEvent := ⟨0x28, 17⟩
def E.MEM.OVF_FULL : PageEvent := ⟨0x28, 16⟩
def E.MEM.MEDIA_FULL : PageEvent := ⟨0x28, 15⟩
def E.MEM.RIGHTS : PageEvent := ⟨0x28, 14⟩
def E.MEM.META_ACCESS : PageEvent := ⟨0x28, 13⟩
def E.MEM.WR_REFUSED : PageEvent := ⟨0x28, 12⟩
def E.MEM.MEDIA : PageEvent := ⟨0x28, 11⟩
def E.MEM.POISONED : PageEvent := ⟨0x28, 10⟩
def E.MEM.LATE_POISON : PageEvent := ⟨0x28, 9⟩
def E.MEM.INTEG : PageEvent := ⟨0x28, 8⟩
def E.MEMRGN.RGN_CHG (n : Nat) : PageEvent := ⟨0x29 + n % 16 / 8, 16 + n % 8⟩
def E.MEMRGN.RGN_BAD (n : Nat) : PageEvent := ⟨0x29 + n % 16 / 8, 8 + n % 8⟩
def E.MEMCACHE.BANK_FENCED : PageEvent := ⟨0x2b, 10⟩
def E.MEMCACHE.BANK_GUST : PageEvent := ⟨0x2b, 9⟩
def E.MEMCACHE.DIRTY_HIGH : PageEvent := ⟨0x2b, 8⟩
def E.KILN.EARLY : PageEvent := ⟨0x2c, 14⟩
def E.KILN.LINE_FAILED : PageEvent := ⟨0x2c, 13⟩
def E.KILN.PASS_END : PageEvent := ⟨0x2c, 12⟩
def E.KILN.WAITING : PageEvent := ⟨0x2c, 11⟩
def E.KILN.START_BAD : PageEvent := ⟨0x2c, 10⟩
def E.KILN.PAUSED : PageEvent := ⟨0x2c, 9⟩
def E.KILN.PASS_DONE : PageEvent := ⟨0x2c, 8⟩
def E.TREE.QUAR_FULL : PageEvent := ⟨0x2d, 11⟩
def E.TREE.MIRROR_BAD : PageEvent := ⟨0x2d, 10⟩
def E.TREE.QUARANTINE : PageEvent := ⟨0x2d, 9⟩
def E.TREE.REPAIRED : PageEvent := ⟨0x2d, 8⟩
def E.STOR.PART_DROP : PageEvent := ⟨0x30, 15⟩
def E.STOR.ROLLED_FWD : PageEvent := ⟨0x30, 14⟩
def E.STOR.ROLLBACK : PageEvent := ⟨0x30, 13⟩
def E.STOR.SEALED : PageEvent := ⟨0x30, 12⟩
def E.STOR.REFUSED : PageEvent := ⟨0x30, 11⟩
def E.STOR.VER_FAIL : PageEvent := ⟨0x30, 10⟩
def E.STOR.TAG_FAIL : PageEvent := ⟨0x30, 9⟩
def E.STOR.CMD_DONE : PageEvent := ⟨0x30, 8⟩
def E.KEYS.PARK_FAIL : PageEvent := ⟨0x34, 12⟩
def E.KEYS.LC_FAIL : PageEvent := ⟨0x34, 11⟩
def E.KEYS.LC_DONE : PageEvent := ⟨0x34, 10⟩
def E.KEYS.ROOT_ABSENT : PageEvent := ⟨0x34, 9⟩
def E.KEYS.CMD_DONE : PageEvent := ⟨0x34, 8⟩
def E.DERIVE.FORCED : PageEvent := ⟨0x35, 10⟩
def E.DERIVE.ORPHANED : PageEvent := ⟨0x35, 9⟩
def E.DERIVE.CMD_DONE : PageEvent := ⟨0x35, 8⟩
def E.SLOTS.FORCED : PageEvent := ⟨0x36, 13⟩
def E.SLOTS.SUSPENDED : PageEvent := ⟨0x36, 12⟩
def E.SLOTS.SWAP_WAIT : PageEvent := ⟨0x36, 11⟩
def E.SLOTS.CLEARED : PageEvent := ⟨0x36, 10⟩
def E.SLOTS.SWAPPED : PageEvent := ⟨0x36, 9⟩
def E.SLOTS.CMD_DONE : PageEvent := ⟨0x36, 8⟩
def E.PKE.LOAD_FAIL : PageEvent := ⟨0x37, 10⟩
def E.PKE.ATTESTED : PageEvent := ⟨0x37, 9⟩
def E.PKE.CMD_DONE : PageEvent := ⟨0x37, 8⟩
def E.LOOSE.OVERRUN : PageEvent := ⟨0x38, 17⟩
def E.LOOSE.AUTH_FAIL : PageEvent := ⟨0x38, 16⟩
def E.LOOSE.FAIL (i : Nat) : PageEvent := ⟨0x38, 12 + i % 4⟩
def E.LOOSE.DONE (i : Nat) : PageEvent := ⟨0x38, 8 + i % 4⟩
def E.RNG.SRC_FAULT : PageEvent := ⟨0x3a, 15⟩
def E.RNG.GUST : PageEvent := ⟨0x3a, 14⟩
def E.RNG.BLOCKED : PageEvent := ⟨0x3a, 13⟩
def E.RNG.STRETCH : PageEvent := ⟨0x3a, 12⟩
def E.RNG.UNDERRUN : PageEvent := ⟨0x3a, 11⟩
def E.RNG.TEST_REFUSED : PageEvent := ⟨0x3a, 10⟩
def E.RNG.SEEDED : PageEvent := ⟨0x3a, 9⟩
def E.RNG.DATA_VALID : PageEvent := ⟨0x3a, 8⟩
def E.TIME.STEP_REFUSED : PageEvent := ⟨0x2, 15⟩
def E.TIME.STEPPED : PageEvent := ⟨0x2, 14⟩
def E.TIME.HOLDOVER : PageEvent := ⟨0x2, 13⟩
def E.TIME.DISC_FAR : PageEvent := ⟨0x2, 12⟩
def E.TIME.ALARM : PageEvent := ⟨0x2, 11⟩
def E.TIME.INVALID : PageEvent := ⟨0x2, 10⟩
def E.TIME.NONCE_READY : PageEvent := ⟨0x2, 9⟩
def E.TIME.CMD_DONE : PageEvent := ⟨0x2, 8⟩
def E.POWER.PARK_FAIL : PageEvent := ⟨0x5, 15⟩
def E.POWER.SEG_UNPARKED : PageEvent := ⟨0x5, 14⟩
def E.POWER.SEG_PARKED : PageEvent := ⟨0x5, 13⟩
def E.POWER.LATE_WAKE : PageEvent := ⟨0x5, 12⟩
def E.POWER.ABORTED : PageEvent := ⟨0x5, 11⟩
def E.POWER.AWAKE : PageEvent := ⟨0x5, 10⟩
def E.POWER.OVER_BUDGET : PageEvent := ⟨0x5, 9⟩
def E.WAKE.FALSE_WAKE : PageEvent := ⟨0x3c, 15⟩
def E.WAKE.BACKOFF : PageEvent := ⟨0x3c, 14⟩
def E.WAKE.CONFIRMED : PageEvent := ⟨0x3c, 13⟩
def E.WAKE.WOKEN : PageEvent := ⟨0x3c, 12⟩
def E.WAKE.MAC_FAIL : PageEvent := ⟨0x3c, 11⟩
def E.WAKE.REPLAY : PageEvent := ⟨0x3c, 10⟩
def E.WAKE.KEY_ABSENT : PageEvent := ⟨0x3c, 9⟩
def E.TAMPER.RIPCORD : PageEvent := ⟨0x6, 15⟩
def E.TAMPER.GROUNDED : PageEvent := ⟨0x6, 14⟩
def E.TAMPER.LASTING : PageEvent := ⟨0x6, 13⟩
def E.TAMPER.GUST : PageEvent := ⟨0x6, 12⟩
def E.TAMPER.SELFCHECK_FAIL : PageEvent := ⟨0x6, 11⟩
def E.TAMPER.LOG_FULL : PageEvent := ⟨0x6, 10⟩
def E.TAMPER.NOTICE : PageEvent := ⟨0x6, 9⟩
def E.TAMPER.CMD_DONE : PageEvent := ⟨0x6, 8⟩
def E.MODID.SWAPPED : PageEvent := ⟨0x3d, 14⟩
def E.MODID.SIG_FAIL : PageEvent := ⟨0x3d, 13⟩
def E.MODID.CHAL_FAIL : PageEvent := ⟨0x3d, 12⟩
def E.MODID.BUS_FAIL : PageEvent := ⟨0x3d, 11⟩
def E.MODID.VERIFIED : PageEvent := ⟨0x3d, 10⟩
def E.MODID.ABSENT : PageEvent := ⟨0x3d, 9⟩
def E.MODID.CMD_DONE : PageEvent := ⟨0x3d, 8⟩
def E.CHRON.CMD_DONE : PageEvent := ⟨0x3, 17⟩
def E.CHRON.FLUSH_DONE : PageEvent := ⟨0x3, 16⟩
def E.CHRON.TRACE_LOST : PageEvent := ⟨0x3, 15⟩
def E.CHRON.TRACE_LOW : PageEvent := ⟨0x3, 14⟩
def E.CHRON.TRACE_HIGH : PageEvent := ⟨0x3, 13⟩
def E.CHRON.AUDIT_BAD : PageEvent := ⟨0x3, 12⟩
def E.CHRON.DEFERRED : PageEvent := ⟨0x3, 11⟩
def E.CHRON.AUDIT_BUSERR : PageEvent := ⟨0x3, 10⟩
def E.CHRON.AUDIT_FULL : PageEvent := ⟨0x3, 9⟩
def E.CHRON.SEALED : PageEvent := ⟨0x3, 8⟩
def E.CELLAR.LOOKUP_LOSS : PageEvent := ⟨0x4, 15⟩
def E.CELLAR.ENGINE_GUST : PageEvent := ⟨0x4, 14⟩
def E.CELLAR.ITEM_LOST : PageEvent := ⟨0x4, 13⟩
def E.CELLAR.LOST_POSSIBLE : PageEvent := ⟨0x4, 12⟩
def E.CELLAR.MACRO_FENCED : PageEvent := ⟨0x4, 11⟩
def E.CELLAR.MACRO_GUST : PageEvent := ⟨0x4, 10⟩
def E.CELLAR.INPUT_CHANGED : PageEvent := ⟨0x4, 9⟩
def E.CELLAR.REPLAY_DONE : PageEvent := ⟨0x4, 8⟩
def E.FACTORY.REFUSED : PageEvent := ⟨0x3e, 10⟩
def E.FACTORY.MBIST_FAIL : PageEvent := ⟨0x3e, 9⟩
def E.FACTORY.CMD_DONE : PageEvent := ⟨0x3e, 8⟩

def E.PG.STATE_CHG (p : Nat) : PageEvent := ⟨p % 64, 0⟩
def E.PG.WRREJ (p : Nat) : PageEvent := ⟨p % 64, 1⟩
def E.PG.FAULT (p : Nat) : PageEvent := ⟨p % 64, 2⟩
def E.PG.DRAIN_SLOW (p : Nat) : PageEvent := ⟨p % 64, 3⟩

/-- The event bits of page `n`: always-enabled mask, condition mask, and the masks driving OT_IRQ_SVC,
OT_IRQ_ERR, OT_IRQ_SEC and OT_IRQ_WAKE, page-specific bits only. -/
def pageEvents (n : Nat) : EventMasks :=
  if n = 0x2 then ⟨0x8000, 0x3400, 0x4300, 0x3400, 0x8000, 0x800⟩
  else if n = 0x3 then ⟨0xe00, 0x200, 0x36100, 0x9400, 0xa00, 0x0⟩
  else if n = 0x4 then ⟨0x3a00, 0x0, 0x100, 0xcc00, 0x3200, 0x0⟩
  else if n = 0x5 then ⟨0x8000, 0x0, 0x7800, 0x200, 0x8000, 0x400⟩
  else if n = 0x6 then ⟨0xe800, 0x6400, 0x300, 0x1c00, 0xe000, 0x0⟩
  else if 0x8 ≤ n ∧ n ≤ 0xb then ⟨0x2800, 0x800, 0x1000, 0xf00, 0x2000, 0x0⟩
  else if n = 0xc then ⟨0x200, 0x600, 0x800, 0x500, 0x200, 0x0⟩
  else if 0x10 ≤ n ∧ n ≤ 0x17 then ⟨0x0, 0x1000000, 0x3f0ff00, 0xf0000, 0x0, 0x0⟩
  else if n = 0x18 then ⟨0x600, 0x0, 0x0, 0x700, 0x0, 0x0⟩
  else if 0x19 ≤ n ∧ n ≤ 0x1c then ⟨0x0, 0x0, 0xffffff00, 0x0, 0x0, 0x0⟩
  else if n = 0x1d then ⟨0x400, 0x2000, 0x6000, 0x1b00, 0x400, 0x0⟩
  else if n = 0x20 then ⟨0x0, 0x400, 0x100, 0x600, 0x0, 0x0⟩
  else if n = 0x21 then ⟨0x400, 0x0, 0x1300, 0x800, 0x400, 0x0⟩
  else if n = 0x22 then ⟨0x0, 0x0, 0x500, 0xa00, 0x0, 0x0⟩
  else if n = 0x24 then ⟨0x300, 0x8600, 0x6800, 0x9500, 0x200, 0x0⟩
  else if n = 0x25 then ⟨0x1600, 0x2c00, 0x0, 0x2b00, 0x1400, 0x0⟩
  else if n = 0x28 then ⟨0x82300, 0x30000, 0x40000, 0x3dc00, 0x82300, 0x0⟩
  else if 0x29 ≤ n ∧ n ≤ 0x2a then ⟨0x0, 0x0, 0xff0000, 0xff00, 0x0, 0x0⟩
  else if n = 0x2b then ⟨0x400, 0x100, 0x100, 0x600, 0x0, 0x0⟩
  else if n = 0x2c then ⟨0x3000, 0xa00, 0x300, 0x7c00, 0x0, 0x0⟩
  else if n = 0x2d then ⟨0xe00, 0x0, 0x100, 0xa00, 0x400, 0x0⟩
  else if n = 0x30 then ⟨0xa000, 0x0, 0x5100, 0x8e00, 0x2000, 0x0⟩
  else if n = 0x34 then ⟨0x1a00, 0xa00, 0x500, 0x0, 0x1a00, 0x0⟩
  else if n = 0x35 then ⟨0x400, 0x0, 0x300, 0x0, 0x400, 0x0⟩
  else if n = 0x36 then ⟨0x2000, 0x800, 0xf00, 0x1000, 0x2000, 0x0⟩
  else if n = 0x37 then ⟨0x400, 0x0, 0x300, 0x0, 0x400, 0x0⟩
  else if n = 0x38 then ⟨0x10000, 0x0, 0xf00, 0x2f000, 0x10000, 0x0⟩
  else if n = 0x3a then ⟨0x8400, 0xa100, 0x1300, 0x6800, 0x8400, 0x0⟩
  else if n = 0x3c then ⟨0xc00, 0x4200, 0x8000, 0x4200, 0xc00, 0x3000⟩
  else if n = 0x3d then ⟨0x7000, 0x0, 0x700, 0x800, 0x7000, 0x0⟩
  else if n = 0x3e then ⟨0x400, 0x0, 0x100, 0x200, 0x400, 0x0⟩
  else ⟨0, 0, 0, 0, 0, 0⟩

end Sys2Proof.Machine
end

