-- ==== Sys2Proof/Machine/Fields.lean ====
section
/-! DEFINITION. Every register field of the page chapters under the spec's own name:
`R.REGISTER.FIELD` is the field's place in the register window (its word address and its bits); an array
register takes its index, a register of a page that stands several times takes the page's instance,
and a 64-bit register's field counts its bits from the low word. An index is taken modulo the number of registers, so that no
index leads out of its array. -/
namespace Sys2Proof.Machine

def R.IDENT_BLOCK.VENDOR : RegField := ⟨0x40, 31, 16⟩
def R.IDENT_BLOCK.BLOCK : RegField := ⟨0x40, 15, 0⟩
def R.IDENT_MEMBER.MEMBER : RegField := ⟨0x44, 31, 16⟩
def R.IDENT_MEMBER.STEP_MAJOR : RegField := ⟨0x44, 15, 8⟩
def R.IDENT_MEMBER.STEP_MINOR : RegField := ⟨0x44, 7, 0⟩
def R.IDENT_PAGES.CARRIED : RegField := ⟨0x48, 63, 0⟩
def R.IDENT_BASE.BASE : RegField := ⟨0x50, 21, 0⟩
def R.IDENT_SELF_RID.RID : RegField := ⟨0x54, 11, 0⟩
def R.IDENT_PARAM_A.ADDR_WIDTH : RegField := ⟨0x58, 31, 24⟩
def R.IDENT_PARAM_A.C_PORTS : RegField := ⟨0x58, 20, 16⟩
def R.IDENT_PARAM_A.L_PORTS : RegField := ⟨0x58, 12, 8⟩
def R.IDENT_PARAM_A.M_PORTS : RegField := ⟨0x58, 7, 4⟩
def R.IDENT_PARAM_A.T_PORTS : RegField := ⟨0x58, 3, 0⟩
def R.IDENT_PARAM_B.ANCHOR_KIB : RegField := ⟨0x5c, 31, 24⟩
def R.IDENT_PARAM_B.WAKE_CH : RegField := ⟨0x5c, 19, 16⟩
def R.IDENT_PARAM_B.MID_BUSES : RegField := ⟨0x5c, 15, 12⟩
def R.IDENT_PARAM_B.PRES_IN : RegField := ⟨0x5c, 11, 8⟩
def R.IDENT_PARAM_B.LOOPS : RegField := ⟨0x5c, 7, 4⟩
def R.IDENT_PARAM_B.SHIELDS : RegField := ⟨0x5c, 3, 0⟩
def R.IDENT_PROTO.NDOLEY : RegField := ⟨0x60, 9, 8⟩
def R.IDENT_PROTO.PONTILAR : RegField := ⟨0x60, 2, 0⟩
def R.GLOBAL_IRQ_EN.WAKE_EN : RegField := ⟨0x1040, 3, 3⟩
def R.GLOBAL_IRQ_EN.SEC_EN : RegField := ⟨0x1040, 2, 2⟩
def R.GLOBAL_IRQ_EN.ERR_EN : RegField := ⟨0x1040, 1, 1⟩
def R.GLOBAL_IRQ_EN.SVC_EN : RegField := ⟨0x1040, 0, 0⟩
def R.GLOBAL_IRQ_STAT.GROUNDED_HOLD : RegField := ⟨0x1044, 4, 4⟩
def R.GLOBAL_IRQ_STAT.WAKE : RegField := ⟨0x1044, 3, 3⟩
def R.GLOBAL_IRQ_STAT.SEC : RegField := ⟨0x1044, 2, 2⟩
def R.GLOBAL_IRQ_STAT.ERR : RegField := ⟨0x1044, 1, 1⟩
def R.GLOBAL_IRQ_STAT.SVC : RegField := ⟨0x1044, 0, 0⟩
def R.GLOBAL_SVC_PAGES.PAGES : RegField := ⟨0x1048, 63, 0⟩
def R.GLOBAL_ERR_PAGES.PAGES : RegField := ⟨0x1050, 63, 0⟩
def R.GLOBAL_SEC_PAGES.PAGES : RegField := ⟨0x1058, 63, 0⟩
def R.GLOBAL_WAKE_PAGES.PAGES : RegField := ⟨0x1060, 63, 0⟩
def R.GLOBAL_BND_ERR.GROUP : RegField := ⟨0x1068, 31, 28⟩
def R.GLOBAL_BND_ERR.PORT : RegField := ⟨0x1068, 27, 20⟩
def R.GLOBAL_BND_ERR.COUNT : RegField := ⟨0x1068, 15, 0⟩
def R.GLOBAL_RSVD_WR.COUNT : RegField := ⟨0x106c, 31, 0⟩
def R.GLOBAL_SEAL_ALL.SEAL : RegField := ⟨0x1070, 0, 0⟩
def R.TIME_NOW.TIME : RegField := ⟨0x2040, 63, 0⟩
def R.TIME_STAT.VALID : RegField := ⟨0x2048, 31, 31⟩
def R.TIME_STAT.HOLDOVER : RegField := ⟨0x2048, 30, 30⟩
def R.TIME_STAT.DISCIPLINED : RegField := ⟨0x2048, 29, 29⟩
def R.TIME_STAT.SUSPENDED : RegField := ⟨0x2048, 28, 28⟩
def R.TIME_RATE.R_PPB : RegField := ⟨0x204c, 31, 0⟩
def R.TIME_DISC.EN : RegField := ⟨0x2050, 31, 31⟩
def R.TIME_DISC.TAU_S : RegField := ⟨0x2050, 30, 16⟩
def R.TIME_DISC.SLEW_MS_PER_H : RegField := ⟨0x2050, 15, 0⟩
def R.TIME_FAR.FAR_MS : RegField := ⟨0x2054, 15, 0⟩
def R.TIME_OFFSET.OFF : RegField := ⟨0x2058, 63, 0⟩
def R.TIME_EPOCH_PTP_S.SECONDS : RegField := ⟨0x2060, 31, 0⟩
def R.TIME_CMD.OP : RegField := ⟨0x2064, 31, 28⟩
def R.TIME_CMD_STAT.BUSY : RegField := ⟨0x2068, 31, 31⟩
def R.TIME_CMD_STAT.RESULT : RegField := ⟨0x2068, 23, 16⟩
def R.TIME_VALUE.VALUE : RegField := ⟨0x2070, 63, 0⟩
def R.TIME_AUTH_BUF.ADDR : RegField := ⟨0x2078, 39, 4⟩
def R.TIME_AUTH_KEY.SLOT : RegField := ⟨0x2080, 8, 0⟩
def R.TIME_STEPS.COUNT : RegField := ⟨0x2084, 31, 0⟩
def R.TIME_RC.RATIO : RegField := ⟨0x2088, 15, 0⟩
def R.TIME_NONCE.WORD (i : Nat) : RegField := ⟨0x20a0 + 4 * (i % 8), 31, 0⟩
def R.TIME_ALARM.AT : RegField := ⟨0x20c0, 63, 0⟩
def R.TIME_ALARM_CTL.EN : RegField := ⟨0x20c8, 0, 0⟩
def R.CHRON_CFG.SEAL_EVERY : RegField := ⟨0x3040, 15, 8⟩
def R.CHRON_CFG.AUDIT_LOG2 : RegField := ⟨0x3040, 4, 0⟩
def R.CHRON_AUDIT_BASE.ADDR : RegField := ⟨0x3048, 39, 5⟩
def R.CHRON_AUDIT_HEAD.INDEX : RegField := ⟨0x3050, 31, 0⟩
def R.CHRON_AUDIT_TAIL.INDEX : RegField := ⟨0x3054, 31, 0⟩
def R.CHRON_AUDIT_STAT.FULL : RegField := ⟨0x3058, 31, 31⟩
def R.CHRON_AUDIT_STAT.STOPPED : RegField := ⟨0x3058, 30, 30⟩
def R.CHRON_AUDIT_STAT.UNSEALED : RegField := ⟨0x3058, 29, 29⟩
def R.CHRON_AUDIT_STAT.HOLD : RegField := ⟨0x3058, 22, 16⟩
def R.CHRON_AUDIT_STAT.DEFERRED : RegField := ⟨0x3058, 15, 0⟩
def R.CHRON_CHAIN.WORD (i : Nat) : RegField := ⟨0x3060 + 4 * (i % 8), 31, 0⟩
def R.CHRON_CMD.OP : RegField := ⟨0x3080, 31, 28⟩
def R.CHRON_CMD_STAT.BUSY : RegField := ⟨0x3084, 31, 31⟩
def R.CHRON_CMD_STAT.RESULT : RegField := ⟨0x3084, 23, 16⟩
def R.CHRON_CHECK_INDEX.INDEX : RegField := ⟨0x3088, 31, 0⟩
def R.CHRON_CHECK_CHAIN.WORD (i : Nat) : RegField := ⟨0x3090 + 4 * (i % 8), 31, 0⟩
def R.CHRON_CHECK_MAC.WORD (i : Nat) : RegField := ⟨0x30b0 + 4 * (i % 3), 31, 0⟩
def R.CHRON_SIGN_BUF.ADDR : RegField := ⟨0x30c0, 39, 6⟩
def R.CHRON_TRACE_CTL.FLUSH_NOW : RegField := ⟨0x30d0, 1, 1⟩
def R.CHRON_TRACE_CTL.FLUSH : RegField := ⟨0x30d0, 0, 0⟩
def R.CHRON_TRACE_WM.HIGH : RegField := ⟨0x30d4, 25, 16⟩
def R.CHRON_TRACE_WM.LOW : RegField := ⟨0x30d4, 9, 0⟩
def R.CHRON_TRACE_LEVEL.MAX : RegField := ⟨0x30d8, 25, 16⟩
def R.CHRON_TRACE_LEVEL.LEVEL : RegField := ⟨0x30d8, 9, 0⟩
def R.CHRON_TRACE_STAT.FILL_BANK : RegField := ⟨0x30dc, 31, 31⟩
def R.CHRON_TRACE_STAT.OPEN : RegField := ⟨0x30dc, 30, 30⟩
def R.CHRON_TRACE_STAT.FLUSHING : RegField := ⟨0x30dc, 29, 29⟩
def R.CHRON_TRACE_STAT.READ_CUT : RegField := ⟨0x30dc, 28, 28⟩
def R.CHRON_TRACE_STAT.REMAIN : RegField := ⟨0x30dc, 12, 0⟩
def R.CHRON_TRACE_DATA.WORD : RegField := ⟨0x30e0, 31, 0⟩
def R.CHRON_TRACE_LOST.COUNT : RegField := ⟨0x30e4, 31, 0⟩
def R.CHRON_TRACE_SPLIT.COUNT : RegField := ⟨0x30e8, 31, 0⟩
def R.CELLAR_CFG.GUST_LIMIT : RegField := ⟨0x4040, 23, 16⟩
def R.CELLAR_CFG.GUST_WIN_MS : RegField := ⟨0x4040, 15, 0⟩
def R.CELLAR_OCC.QUEUE : RegField := ⟨0x4044, 31, 21⟩
def R.CELLAR_OCC.MEM : RegField := ⟨0x4044, 20, 11⟩
def R.CELLAR_OCC.STREAM : RegField := ⟨0x4044, 10, 4⟩
def R.CELLAR_OCC.STOR : RegField := ⟨0x4044, 1, 0⟩
def R.CELLAR_SHARE.QUEUE : RegField := ⟨0x4048, 10, 0⟩
def R.CELLAR_STAT.FAULT : RegField := ⟨0x404c, 31, 31⟩
def R.CELLAR_STAT.LOST_UNKNOWN : RegField := ⟨0x404c, 30, 30⟩
def R.CELLAR_STAT.ENGINES_FENCED : RegField := ⟨0x404c, 29, 28⟩
def R.CELLAR_STAT.LOST_MAX : RegField := ⟨0x404c, 11, 0⟩
def R.CELLAR_FENCED.MACROS : RegField := ⟨0x4050, 7, 0⟩
def R.CELLAR_VBAT_OPEN.COUNT : RegField := ⟨0x4054, 11, 0⟩
def R.CELLAR_REPLAYS.COUNT : RegField := ⟨0x4058, 31, 0⟩
def R.CELLAR_CHANGED.COUNT : RegField := ⟨0x405c, 31, 0⟩
def R.CELLAR_LOST.COUNT : RegField := ⟨0x4060, 31, 0⟩
def R.CELLAR_CMD.OP : RegField := ⟨0x4064, 31, 28⟩
def R.CELLAR_CMD.ENTRY : RegField := ⟨0x4064, 10, 0⟩
def R.CELLAR_CMD_STAT.BUSY : RegField := ⟨0x4068, 31, 31⟩
def R.CELLAR_CMD_STAT.RESULT : RegField := ⟨0x4068, 23, 16⟩
def R.CELLAR_ENTRY.WORD (i : Nat) : RegField := ⟨0x4080 + 4 * (i % 16), 31, 0⟩
def R.POWER_CMD.OP : RegField := ⟨0x5040, 31, 28⟩
def R.POWER_STAT.STATE : RegField := ⟨0x5044, 31, 30⟩
def R.POWER_STAT.LATE_WAKE : RegField := ⟨0x5044, 29, 29⟩
def R.POWER_STAT.SLEEP_QUEUED : RegField := ⟨0x5044, 28, 28⟩
def R.POWER_STAT.STEP : RegField := ⟨0x5044, 27, 24⟩
def R.POWER_STAT.DOMAINS_ON : RegField := ⟨0x5044, 15, 0⟩
def R.POWER_SEG_CTL.PARK : RegField := ⟨0x5048, 7, 0⟩
def R.POWER_SEG_STAT.STATE : RegField := ⟨0x504c, 15, 0⟩
def R.POWER_PARK_BASE.ADDR : RegField := ⟨0x5050, 27, 0⟩
def R.POWER_PARK_LEN.UNITS : RegField := ⟨0x5054, 31, 0⟩
def R.POWER_TIMES.DESC_MAX_US : RegField := ⟨0x5058, 31, 16⟩
def R.POWER_TIMES.ASC_MAX_US : RegField := ⟨0x5058, 15, 0⟩
def R.POWER_COUNTS.ABORTS : RegField := ⟨0x505c, 31, 16⟩
def R.POWER_COUNTS.LATE_WAKES : RegField := ⟨0x505c, 15, 0⟩
def R.POWER_SLEEPS.COUNT : RegField := ⟨0x5060, 31, 0⟩
def R.POWER_SEG_HOLD.MAX_NS : RegField := ⟨0x5064, 31, 16⟩
def R.POWER_SEG_HOLD.UNPARKS : RegField := ⟨0x5064, 15, 0⟩
def R.POWER_EXCESS.KIB : RegField := ⟨0x5068, 31, 0⟩
def R.POWER_PARK_FAILS.COUNT : RegField := ⟨0x506c, 31, 0⟩
def R.SEG_EPOCH.EPOCH (i : Nat) : RegField := ⟨0x5080 + 8 * (i % 8), 47, 0⟩
def R.SEG_KEY_EPOCH.EPOCH (i : Nat) : RegField := ⟨0x50c0 + 8 * (i % 8), 63, 0⟩
def R.TAMPER_STAT.GROUNDED : RegField := ⟨0x6040, 31, 31⟩
def R.TAMPER_STAT.STARTUP : RegField := ⟨0x6040, 30, 30⟩
def R.TAMPER_STAT.GROUND_CAUSE : RegField := ⟨0x6040, 23, 16⟩
def R.TAMPER_STAT.LAST_SRC : RegField := ⟨0x6040, 15, 8⟩
def R.TAMPER_STAT.LAST_GRADE : RegField := ⟨0x6040, 7, 6⟩
def R.TAMPER_CMD.OP : RegField := ⟨0x6044, 31, 28⟩
def R.TAMPER_CMD.SRC : RegField := ⟨0x6044, 7, 0⟩
def R.TAMPER_CMD_STAT.BUSY : RegField := ⟨0x6048, 31, 31⟩
def R.TAMPER_CMD_STAT.RESULT : RegField := ⟨0x6048, 23, 16⟩
def R.TAMPER_LAST_TS.TS : RegField := ⟨0x6050, 63, 0⟩
def R.TAMPER_SELFCHECK.FAILED : RegField := ⟨0x6058, 15, 0⟩
def R.TAMPER_LOG_PTR.OVERFLOW : RegField := ⟨0x605c, 31, 24⟩
def R.TAMPER_LOG_PTR.COUNT : RegField := ⟨0x605c, 15, 8⟩
def R.TAMPER_LOG_PTR.NEXT : RegField := ⟨0x605c, 3, 0⟩
def R.TAMPER_SRC_CFG.LASTING_GRADE (i : Nat) : RegField := ⟨0x6080 + 4 * (i % 32), 29, 28⟩
def R.TAMPER_SRC_CFG.EVENT_GRADE (i : Nat) : RegField := ⟨0x6080 + 4 * (i % 32), 27, 26⟩
def R.TAMPER_SRC_CFG.LIMIT (i : Nat) : RegField := ⟨0x6080 + 4 * (i % 32), 23, 16⟩
def R.TAMPER_SRC_CFG.WIN_MS (i : Nat) : RegField := ⟨0x6080 + 4 * (i % 32), 15, 0⟩
def R.TAMPER_SRC_STAT.LASTING (i : Nat) : RegField := ⟨0x6100 + 4 * (i % 32), 31, 31⟩
def R.TAMPER_SRC_STAT.ACTIVE (i : Nat) : RegField := ⟨0x6100 + 4 * (i % 32), 30, 30⟩
def R.TAMPER_SRC_STAT.WIN_COUNT (i : Nat) : RegField := ⟨0x6100 + 4 * (i % 32), 23, 16⟩
def R.TAMPER_SRC_STAT.EVENTS (i : Nat) : RegField := ⟨0x6100 + 4 * (i % 32), 15, 0⟩
def R.TAMPER_LOG_A.CODE (i : Nat) : RegField := ⟨0x6200 + 16 * (i % 16), 31, 24⟩
def R.TAMPER_LOG_A.GRADE (i : Nat) : RegField := ⟨0x6200 + 16 * (i % 16), 23, 22⟩
def R.TAMPER_LOG_A.LC (i : Nat) : RegField := ⟨0x6200 + 16 * (i % 16), 21, 19⟩
def R.TAMPER_LOG_A.VBAT_ONLY (i : Nat) : RegField := ⟨0x6200 + 16 * (i % 16), 18, 18⟩
def R.TAMPER_LOG_A.STARTUP (i : Nat) : RegField := ⟨0x6200 + 16 * (i % 16), 17, 17⟩
def R.TAMPER_LOG_A.VALID (i : Nat) : RegField := ⟨0x6200 + 16 * (i % 16), 16, 16⟩
def R.TAMPER_LOG_TS.TS (i : Nat) : RegField := ⟨0x6204 + 16 * (i % 16), 63, 0⟩
def R.TAMPER_LOG_B.STAMP_SEQ (i : Nat) : RegField := ⟨0x620c + 16 * (i % 16), 15, 0⟩
def R.LANE_CFG.NOISE_FILL (p : Nat) : RegField := ⟨0x8040 + 0x1000 * (p % 4), 31, 31⟩
def R.LANE_CFG.GUST_LIMIT (p : Nat) : RegField := ⟨0x8040 + 0x1000 * (p % 4), 23, 16⟩
def R.LANE_CFG.GUST_WIN_MS (p : Nat) : RegField := ⟨0x8040 + 0x1000 * (p % 4), 15, 0⟩
def R.LANE_KAT_CFG.KAT_PERIOD_US (p : Nat) : RegField := ⟨0x8044 + 0x1000 * (p % 4), 19, 0⟩
def R.LANE_CMD.INJECT (p : Nat) : RegField := ⟨0x8048 + 0x1000 * (p % 4), 2, 2⟩
def R.LANE_CMD.FENCE (p : Nat) : RegField := ⟨0x8048 + 0x1000 * (p % 4), 1, 1⟩
def R.LANE_CMD.KAT_NOW (p : Nat) : RegField := ⟨0x8048 + 0x1000 * (p % 4), 0, 0⟩
def R.LANE_FAULT_STAT.GUST_COUNT (p : Nat) : RegField := ⟨0x804c + 0x1000 * (p % 4), 31, 24⟩
def R.LANE_FAULT_STAT.STAGE (p : Nat) : RegField := ⟨0x804c + 0x1000 * (p % 4), 23, 16⟩
def R.LANE_FAULT_STAT.LAST_CAUSE (p : Nat) : RegField := ⟨0x804c + 0x1000 * (p % 4), 15, 8⟩
def R.LANE_FAULT_STAT.FENCE_COUNT (p : Nat) : RegField := ⟨0x804c + 0x1000 * (p % 4), 7, 0⟩
def R.LANE_BLOCKS.COUNT (p : Nat) : RegField := ⟨0x8050 + 0x1000 * (p % 4), 63, 0⟩
def R.LANE_GUSTS.COUNT (p : Nat) : RegField := ⟨0x8058 + 0x1000 * (p % 4), 31, 0⟩
def R.LANE_REPLAYS.COUNT (p : Nat) : RegField := ⟨0x805c + 0x1000 * (p % 4), 31, 0⟩
def R.LANE_LAST_FAULT_TS.TS (p : Nat) : RegField := ⟨0x8060 + 0x1000 * (p % 4), 63, 0⟩
def R.LANE_OCC.CONTEXTS (p : Nat) : RegField := ⟨0x8068 + 0x1000 * (p % 4), 14, 8⟩
def R.LANE_OCC.BLOCKS (p : Nat) : RegField := ⟨0x8068 + 0x1000 * (p % 4), 5, 0⟩
def R.SCHED_CLASS.CAP (i : Nat) : RegField := ⟨0xc040 + 4 * (i % 8), 23, 16⟩
def R.SCHED_CLASS.SHARE (i : Nat) : RegField := ⟨0xc040 + 4 * (i % 8), 15, 8⟩
def R.SCHED_CLASS.PRIO (i : Nat) : RegField := ⟨0xc040 + 4 * (i % 8), 1, 0⟩
def R.SCHED_CMD.COMMIT : RegField := ⟨0xc060, 0, 0⟩
def R.SCHED_STAT.NO_LANE : RegField := ⟨0xc064, 18, 18⟩
def R.SCHED_STAT.BRIDLE_HELD : RegField := ⟨0xc064, 17, 17⟩
def R.SCHED_STAT.PROGRAMMED : RegField := ⟨0xc064, 16, 16⟩
def R.SCHED_STAT.POWERED : RegField := ⟨0xc064, 11, 8⟩
def R.SCHED_STAT.IN_SERVICE : RegField := ⟨0xc064, 7, 4⟩
def R.SCHED_STAT.COUNT : RegField := ⟨0xc064, 2, 0⟩
def R.SCHED_WAIT.MAX_WAIT_NS (i : Nat) : RegField := ⟨0xc080 + 4 * (i % 8), 31, 16⟩
def R.SCHED_WAIT.WAITING (i : Nat) : RegField := ⟨0xc080 + 4 * (i % 8), 15, 0⟩
def R.SCHED_SLOTS.COUNT (i : Nat) : RegField := ⟨0xc0a0 + 8 * (i % 8), 63, 0⟩
def R.QUEUE_TNT_QUOTA_A.CELLAR (p : Nat) : RegField := ⟨0x10040 + 0x1000 * (p % 8), 27, 16⟩
def R.QUEUE_TNT_QUOTA_A.EXEC (p : Nat) : RegField := ⟨0x10040 + 0x1000 * (p % 8), 6, 0⟩
def R.QUEUE_TNT_QUOTA_B.SLOTS (p : Nat) : RegField := ⟨0x10044 + 0x1000 * (p % 8), 25, 16⟩
def R.QUEUE_TNT_QUOTA_B.ASSOC (p : Nat) : RegField := ⟨0x10044 + 0x1000 * (p % 8), 13, 0⟩
def R.QUEUE_TNT_QUOTA_C.LANE_WEIGHT (p : Nat) : RegField := ⟨0x10048 + 0x1000 * (p % 8), 31, 24⟩
def R.QUEUE_TNT_QUOTA_C.CHRON_RATE (p : Nat) : RegField := ⟨0x10048 + 0x1000 * (p % 8), 15, 0⟩
def R.QUEUE_TNT_USE_A.CELLAR (p : Nat) : RegField := ⟨0x1004c + 0x1000 * (p % 8), 27, 16⟩
def R.QUEUE_TNT_USE_A.EXEC (p : Nat) : RegField := ⟨0x1004c + 0x1000 * (p % 8), 6, 0⟩
def R.QUEUE_TNT_USE_B.SLOTS (p : Nat) : RegField := ⟨0x10050 + 0x1000 * (p % 8), 25, 16⟩
def R.QUEUE_TNT_USE_B.ASSOC (p : Nat) : RegField := ⟨0x10050 + 0x1000 * (p % 8), 13, 0⟩
def R.QUEUE_TNT_STAT.TOKENS (p : Nat) : RegField := ⟨0x10054 + 0x1000 * (p % 8), 31, 16⟩
def R.QUEUE_TNT_STAT.CHRON_PAUSED (p : Nat) : RegField := ⟨0x10054 + 0x1000 * (p % 8), 5, 5⟩
def R.QUEUE_TNT_STAT.ASSOC_OVER (p : Nat) : RegField := ⟨0x10054 + 0x1000 * (p % 8), 3, 3⟩
def R.QUEUE_TNT_STAT.SLOTS_OVER (p : Nat) : RegField := ⟨0x10054 + 0x1000 * (p % 8), 2, 2⟩
def R.QUEUE_TNT_STAT.CELLAR_OVER (p : Nat) : RegField := ⟨0x10054 + 0x1000 * (p % 8), 1, 1⟩
def R.QUEUE_TNT_STAT.EXEC_OVER (p : Nat) : RegField := ⟨0x10054 + 0x1000 * (p % 8), 0, 0⟩
def R.QUEUE_TNT_REFUSED.COUNT (p : Nat) : RegField := ⟨0x10058 + 0x1000 * (p % 8), 31, 0⟩
def R.QUEUE_Q_CFG.RID (q : Nat) : RegField := ⟨0x10080 + 0x1000 * (q % 32 / 4) + 0x40 * (q % 4), 31, 20⟩
def R.QUEUE_Q_CFG.TENANT (q : Nat) : RegField := ⟨0x10080 + 0x1000 * (q % 32 / 4) + 0x40 * (q % 4), 18, 16⟩
def R.QUEUE_Q_CFG.RLOG (q : Nat) : RegField := ⟨0x10080 + 0x1000 * (q % 32 / 4) + 0x40 * (q % 4), 15, 12⟩
def R.QUEUE_Q_CFG.CLOG (q : Nat) : RegField := ⟨0x10080 + 0x1000 * (q % 32 / 4) + 0x40 * (q % 4), 11, 8⟩
def R.QUEUE_Q_VER.GRANT (q : Nat) : RegField := ⟨0x10084 + 0x1000 * (q % 32 / 4) + 0x40 * (q % 4), 18, 16⟩
def R.QUEUE_Q_VER.PROPOSE (q : Nat) : RegField := ⟨0x10084 + 0x1000 * (q % 32 / 4) + 0x40 * (q % 4), 2, 0⟩
def R.QUEUE_Q_CBASE.ADDR (q : Nat) : RegField := ⟨0x10088 + 0x1000 * (q % 32 / 4) + 0x40 * (q % 4), 39, 0⟩
def R.QUEUE_Q_RBASE.ADDR (q : Nat) : RegField := ⟨0x10090 + 0x1000 * (q % 32 / 4) + 0x40 * (q % 4), 39, 0⟩
def R.QUEUE_Q_CTAIL.INDEX (q : Nat) : RegField := ⟨0x10098 + 0x1000 * (q % 32 / 4) + 0x40 * (q % 4), 15, 0⟩
def R.QUEUE_Q_RHEAD.INDEX (q : Nat) : RegField := ⟨0x100a0 + 0x1000 * (q % 32 / 4) + 0x40 * (q % 4), 15, 0⟩
def R.QUEUE_Q_CHEAD.INDEX (q : Nat) : RegField := ⟨0x1009c + 0x1000 * (q % 32 / 4) + 0x40 * (q % 4), 15, 0⟩
def R.QUEUE_Q_RTAIL.INDEX (q : Nat) : RegField := ⟨0x100a4 + 0x1000 * (q % 32 / 4) + 0x40 * (q % 4), 15, 0⟩
def R.QUEUE_Q_CTL.RESUME (q : Nat) : RegField := ⟨0x100a8 + 0x1000 * (q % 32 / 4) + 0x40 * (q % 4), 2, 2⟩
def R.QUEUE_Q_CTL.EN (q : Nat) : RegField := ⟨0x100a8 + 0x1000 * (q % 32 / 4) + 0x40 * (q % 4), 0, 0⟩
def R.QUEUE_Q_STAT.EXEC (q : Nat) : RegField := ⟨0x100ac + 0x1000 * (q % 32 / 4) + 0x40 * (q % 4), 31, 24⟩
def R.QUEUE_Q_STAT.HELD (q : Nat) : RegField := ⟨0x100ac + 0x1000 * (q % 32 / 4) + 0x40 * (q % 4), 23, 12⟩
def R.QUEUE_Q_STAT.WAIT_RING (q : Nat) : RegField := ⟨0x100ac + 0x1000 * (q % 32 / 4) + 0x40 * (q % 4), 8, 8⟩
def R.QUEUE_Q_STAT.WAIT_CELLAR (q : Nat) : RegField := ⟨0x100ac + 0x1000 * (q % 32 / 4) + 0x40 * (q % 4), 7, 7⟩
def R.QUEUE_Q_STAT.WAIT_QUOTA (q : Nat) : RegField := ⟨0x100ac + 0x1000 * (q % 32 / 4) + 0x40 * (q % 4), 6, 6⟩
def R.QUEUE_Q_STAT.NO_VER (q : Nat) : RegField := ⟨0x100ac + 0x1000 * (q % 32 / 4) + 0x40 * (q % 4), 5, 5⟩
def R.QUEUE_Q_STAT.HALT_FETCH (q : Nat) : RegField := ⟨0x100ac + 0x1000 * (q % 32 / 4) + 0x40 * (q % 4), 4, 4⟩
def R.QUEUE_Q_STAT.HALT_CMPL (q : Nat) : RegField := ⟨0x100ac + 0x1000 * (q % 32 / 4) + 0x40 * (q % 4), 3, 3⟩
def R.QUEUE_Q_STAT.REARM (q : Nat) : RegField := ⟨0x100ac + 0x1000 * (q % 32 / 4) + 0x40 * (q % 4), 2, 2⟩
def R.QUEUE_Q_STAT.STATE (q : Nat) : RegField := ⟨0x100ac + 0x1000 * (q % 32 / 4) + 0x40 * (q % 4), 1, 0⟩
def R.QUEUE_Q_ERR.DB_BAD (q : Nat) : RegField := ⟨0x100b0 + 0x1000 * (q % 32 / 4) + 0x40 * (q % 4), 31, 24⟩
def R.QUEUE_Q_ERR.LAST_OP (q : Nat) : RegField := ⟨0x100b0 + 0x1000 * (q % 32 / 4) + 0x40 * (q % 4), 23, 16⟩
def R.QUEUE_Q_ERR.LAST_STATUS (q : Nat) : RegField := ⟨0x100b0 + 0x1000 * (q % 32 / 4) + 0x40 * (q % 4), 15, 0⟩
def R.QUEUE_Q_SEQ.NEXT (q : Nat) : RegField := ⟨0x100b4 + 0x1000 * (q % 32 / 4) + 0x40 * (q % 4), 31, 0⟩
def R.STRM_GCFG.MKA_PASS : RegField := ⟨0x18040, 31, 31⟩
def R.STRM_GCFG.EGR_GAP_NS : RegField := ⟨0x18040, 15, 0⟩
def R.STRM_MACRO_CFG.GUST_LIMIT : RegField := ⟨0x18044, 23, 16⟩
def R.STRM_MACRO_CFG.GUST_WIN_MS : RegField := ⟨0x18044, 15, 0⟩
def R.STRM_MACRO_FENCED.FENCED : RegField := ⟨0x18048, 23, 0⟩
def R.STRM_MACRO_RECON.COUNT : RegField := ⟨0x1804c, 31, 0⟩
def R.STRM_SEG_PARKED.PARKED : RegField := ⟨0x18050, 7, 0⟩
def R.STRM_P_CFG.SEG (n : Nat) : RegField := ⟨0x19080 + 0x1000 * (n % 32 / 8) + 0x40 * (n % 8), 31, 29⟩
def R.STRM_P_CFG.MAX_ITEM (n : Nat) : RegField := ⟨0x19080 + 0x1000 * (n % 32 / 8) + 0x40 * (n % 8), 25, 16⟩
def R.STRM_P_CFG.PROFILE (n : Nat) : RegField := ⟨0x19080 + 0x1000 * (n % 32 / 8) + 0x40 * (n % 8), 3, 2⟩
def R.STRM_P_CFG.EGR_NOSA (n : Nat) : RegField := ⟨0x19080 + 0x1000 * (n % 32 / 8) + 0x40 * (n % 8), 1, 1⟩
def R.STRM_P_CFG.UNTAGGED (n : Nat) : RegField := ⟨0x19080 + 0x1000 * (n % 32 / 8) + 0x40 * (n % 8), 0, 0⟩
def R.STRM_P_WM.HIGH (n : Nat) : RegField := ⟨0x19084 + 0x1000 * (n % 32 / 8) + 0x40 * (n % 8), 26, 16⟩
def R.STRM_P_WM.LOW (n : Nat) : RegField := ⟨0x19084 + 0x1000 * (n % 32 / 8) + 0x40 * (n % 8), 10, 0⟩
def R.STRM_P_CTL.FLUSH_NOW_TX (n : Nat) : RegField := ⟨0x19088 + 0x1000 * (n % 32 / 8) + 0x40 * (n % 8), 4, 4⟩
def R.STRM_P_CTL.FLUSH_NOW_RX (n : Nat) : RegField := ⟨0x19088 + 0x1000 * (n % 32 / 8) + 0x40 * (n % 8), 3, 3⟩
def R.STRM_P_CTL.FLUSH_TX (n : Nat) : RegField := ⟨0x19088 + 0x1000 * (n % 32 / 8) + 0x40 * (n % 8), 2, 2⟩
def R.STRM_P_CTL.FLUSH_RX (n : Nat) : RegField := ⟨0x19088 + 0x1000 * (n % 32 / 8) + 0x40 * (n % 8), 1, 1⟩
def R.STRM_P_CTL.EN (n : Nat) : RegField := ⟨0x19088 + 0x1000 * (n % 32 / 8) + 0x40 * (n % 8), 0, 0⟩
def R.STRM_P_STAT.WAIT_ADMIT (n : Nat) : RegField := ⟨0x1908c + 0x1000 * (n % 32 / 8) + 0x40 * (n % 8), 11, 11⟩
def R.STRM_P_STAT.FILL_BANK (n : Nat) : RegField := ⟨0x1908c + 0x1000 * (n % 32 / 8) + 0x40 * (n % 8), 10, 10⟩
def R.STRM_P_STAT.OPEN_TX (n : Nat) : RegField := ⟨0x1908c + 0x1000 * (n % 32 / 8) + 0x40 * (n % 8), 9, 9⟩
def R.STRM_P_STAT.OPEN_RX (n : Nat) : RegField := ⟨0x1908c + 0x1000 * (n % 32 / 8) + 0x40 * (n % 8), 8, 8⟩
def R.STRM_P_STAT.FLUSH_TX (n : Nat) : RegField := ⟨0x1908c + 0x1000 * (n % 32 / 8) + 0x40 * (n % 8), 7, 7⟩
def R.STRM_P_STAT.FLUSH_RX (n : Nat) : RegField := ⟨0x1908c + 0x1000 * (n % 32 / 8) + 0x40 * (n % 8), 6, 6⟩
def R.STRM_P_STAT.XOFF (n : Nat) : RegField := ⟨0x1908c + 0x1000 * (n % 32 / 8) + 0x40 * (n % 8), 5, 5⟩
def R.STRM_P_STAT.REARM (n : Nat) : RegField := ⟨0x1908c + 0x1000 * (n % 32 / 8) + 0x40 * (n % 8), 2, 2⟩
def R.STRM_P_STAT.STATE (n : Nat) : RegField := ⟨0x1908c + 0x1000 * (n % 32 / 8) + 0x40 * (n % 8), 1, 0⟩
def R.STRM_P_EVT.DEGRADED (n : Nat) : RegField := ⟨0x19090 + 0x1000 * (n % 32 / 8) + 0x40 * (n % 8), 5, 5⟩
def R.STRM_P_EVT.UNDERRUN (n : Nat) : RegField := ⟨0x19090 + 0x1000 * (n % 32 / 8) + 0x40 * (n % 8), 4, 4⟩
def R.STRM_P_EVT.TRUNC (n : Nat) : RegField := ⟨0x19090 + 0x1000 * (n % 32 / 8) + 0x40 * (n % 8), 3, 3⟩
def R.STRM_P_EVT.VOID (n : Nat) : RegField := ⟨0x19090 + 0x1000 * (n % 32 / 8) + 0x40 * (n % 8), 2, 2⟩
def R.STRM_P_EVT.FLUSH_TX_DONE (n : Nat) : RegField := ⟨0x19090 + 0x1000 * (n % 32 / 8) + 0x40 * (n % 8), 1, 1⟩
def R.STRM_P_EVT.FLUSH_RX_DONE (n : Nat) : RegField := ⟨0x19090 + 0x1000 * (n % 32 / 8) + 0x40 * (n % 8), 0, 0⟩
def R.STRM_P_LEVEL.MAX (n : Nat) : RegField := ⟨0x19094 + 0x1000 * (n % 32 / 8) + 0x40 * (n % 8), 26, 16⟩
def R.STRM_P_LEVEL.LEVEL (n : Nat) : RegField := ⟨0x19094 + 0x1000 * (n % 32 / 8) + 0x40 * (n % 8), 10, 0⟩
def R.STRM_P_RX_OK.COUNT (n : Nat) : RegField := ⟨0x19098 + 0x1000 * (n % 32 / 8) + 0x40 * (n % 8), 31, 0⟩
def R.STRM_P_RX_AUTH_FAIL.COUNT (n : Nat) : RegField := ⟨0x1909c + 0x1000 * (n % 32 / 8) + 0x40 * (n % 8), 31, 0⟩
def R.STRM_P_RX_LATE.COUNT (n : Nat) : RegField := ⟨0x190a0 + 0x1000 * (n % 32 / 8) + 0x40 * (n % 8), 31, 0⟩
def R.STRM_P_RX_NOSA.COUNT (n : Nat) : RegField := ⟨0x190a4 + 0x1000 * (n % 32 / 8) + 0x40 * (n % 8), 31, 0⟩
def R.STRM_P_RX_BADTAG.COUNT (n : Nat) : RegField := ⟨0x190a8 + 0x1000 * (n % 32 / 8) + 0x40 * (n % 8), 31, 0⟩
def R.STRM_P_RX_UNTAGGED.COUNT (n : Nat) : RegField := ⟨0x190ac + 0x1000 * (n % 32 / 8) + 0x40 * (n % 8), 31, 0⟩
def R.STRM_P_TX_PROTECTED.COUNT (n : Nat) : RegField := ⟨0x190b0 + 0x1000 * (n % 32 / 8) + 0x40 * (n % 8), 31, 0⟩
def R.STRM_P_TX_CLEAR.COUNT (n : Nat) : RegField := ⟨0x190b4 + 0x1000 * (n % 32 / 8) + 0x40 * (n % 8), 31, 0⟩
def R.STRM_P_VOIDED.COUNT (n : Nat) : RegField := ⟨0x190b8 + 0x1000 * (n % 32 / 8) + 0x40 * (n % 8), 31, 0⟩
def R.STRM_P_TRUNCATED.COUNT (n : Nat) : RegField := ⟨0x190bc + 0x1000 * (n % 32 / 8) + 0x40 * (n % 8), 31, 0⟩
def R.BRIDLE_CFG.CUT_EN : RegField := ⟨0x1d040, 0, 0⟩
def R.BRIDLE_STAT.HELD : RegField := ⟨0x1d044, 23, 16⟩
def R.BRIDLE_STAT.ACTIVE : RegField := ⟨0x1d044, 7, 0⟩
def R.BRIDLE_CUT_ABORTS.COUNT : RegField := ⟨0x1d048, 31, 0⟩
def R.BRIDLE_UNDERRUNS.COUNT : RegField := ⟨0x1d04c, 31, 0⟩
def R.BRIDLE_SINGLE_LANE.COUNT : RegField := ⟨0x1d050, 31, 0⟩
def R.BRIDLE_LOOP.ACTIVE (i : Nat) : RegField := ⟨0x1d100 + 4 * (i % 4), 16, 16⟩
def R.BRIDLE_LOOP.EN (i : Nat) : RegField := ⟨0x1d100 + 4 * (i % 4), 15, 15⟩
def R.BRIDLE_LOOP.PORT_B (i : Nat) : RegField := ⟨0x1d100 + 4 * (i % 4), 12, 8⟩
def R.BRIDLE_LOOP.PORT_A (i : Nat) : RegField := ⟨0x1d100 + 4 * (i % 4), 4, 0⟩
def R.BRIDLE_TMPL_A.DA_HI (i : Nat) : RegField := ⟨0x1d400 + 16 * (i % 16), 31, 0⟩
def R.BRIDLE_TMPL_B.DA_LO (i : Nat) : RegField := ⟨0x1d404 + 16 * (i % 16), 31, 16⟩
def R.BRIDLE_TMPL_B.SA_HI (i : Nat) : RegField := ⟨0x1d404 + 16 * (i % 16), 15, 0⟩
def R.BRIDLE_TMPL_C.SA_LO (i : Nat) : RegField := ⟨0x1d408 + 16 * (i % 16), 31, 0⟩
def R.BRIDLE_TMPL_D.ETYPE (i : Nat) : RegField := ⟨0x1d40c + 16 * (i % 16), 31, 16⟩
def R.BRIDLE_PAIR_CFG.FORMAT (i : Nat) : RegField := ⟨0x1d800 + 16 * (i % 128), 31, 30⟩
def R.BRIDLE_PAIR_CFG.TMPL (i : Nat) : RegField := ⟨0x1d800 + 16 * (i % 128), 29, 26⟩
def R.BRIDLE_PAIR_CFG.POLICY (i : Nat) : RegField := ⟨0x1d800 + 16 * (i % 128), 25, 25⟩
def R.BRIDLE_PAIR_CFG.OUT_PORT (i : Nat) : RegField := ⟨0x1d800 + 16 * (i % 128), 20, 16⟩
def R.BRIDLE_PAIR_CFG.CUT_LEAD (i : Nat) : RegField := ⟨0x1d800 + 16 * (i % 128), 9, 0⟩
def R.BRIDLE_PAIR_SA.OUT_SA (i : Nat) : RegField := ⟨0x1d804 + 16 * (i % 128), 28, 16⟩
def R.BRIDLE_PAIR_SA.IN_SA (i : Nat) : RegField := ⟨0x1d804 + 16 * (i % 128), 12, 0⟩
def R.BRIDLE_PAIR_CTL.FAILED (i : Nat) : RegField := ⟨0x1d808 + 16 * (i % 128), 31, 16⟩
def R.BRIDLE_PAIR_CTL.CUT_EFF (i : Nat) : RegField := ⟨0x1d808 + 16 * (i % 128), 6, 6⟩
def R.BRIDLE_PAIR_CTL.BAD (i : Nat) : RegField := ⟨0x1d808 + 16 * (i % 128), 5, 5⟩
def R.BRIDLE_PAIR_CTL.REARM (i : Nat) : RegField := ⟨0x1d808 + 16 * (i % 128), 4, 4⟩
def R.BRIDLE_PAIR_CTL.STATE (i : Nat) : RegField := ⟨0x1d808 + 16 * (i % 128), 3, 2⟩
def R.BRIDLE_PAIR_CTL.EN (i : Nat) : RegField := ⟨0x1d808 + 16 * (i % 128), 0, 0⟩
def R.BRIDLE_PAIR_FRAMES.COUNT (i : Nat) : RegField := ⟨0x1d80c + 16 * (i % 128), 31, 0⟩
def R.ASSOC_CFG.LEARN_RESERVE : RegField := ⟨0x20040, 4, 0⟩
def R.ASSOC_CMD.OP : RegField := ⟨0x20044, 31, 28⟩
def R.ASSOC_CMD.OPT : RegField := ⟨0x20044, 27, 27⟩
def R.ASSOC_CMD.PORT : RegField := ⟨0x20044, 20, 16⟩
def R.ASSOC_CMD.HANDLE : RegField := ⟨0x20044, 12, 0⟩
def R.ASSOC_CMD_STAT.BUSY : RegField := ⟨0x20048, 31, 31⟩
def R.ASSOC_CMD_STAT.RESULT : RegField := ⟨0x20048, 23, 16⟩
def R.ASSOC_CMD_STAT.COUNT : RegField := ⟨0x20048, 13, 0⟩
def R.ASSOC_LOC.HANDLE : RegField := ⟨0x2004c, 28, 16⟩
def R.ASSOC_LOC.STASH : RegField := ⟨0x2004c, 15, 15⟩
def R.ASSOC_LOC.TABLE : RegField := ⟨0x2004c, 14, 14⟩
def R.ASSOC_LOC.BUCKET : RegField := ⟨0x2004c, 13, 4⟩
def R.ASSOC_LOC.WAY : RegField := ⟨0x2004c, 3, 0⟩
def R.ASSOC_OCC.STASH : RegField := ⟨0x20050, 20, 16⟩
def R.ASSOC_OCC.VALID : RegField := ⟨0x20050, 13, 0⟩
def R.ASSOC_MOVES.MAX : RegField := ⟨0x20054, 21, 16⟩
def R.ASSOC_MOVES.LAST : RegField := ⟨0x20054, 5, 0⟩
def R.ASSOC_FULL.COUNT : RegField := ⟨0x20058, 31, 0⟩
def R.ASSOC_ENTRY.WORD (i : Nat) : RegField := ⟨0x20080 + 4 * (i % 16), 31, 0⟩
def R.LEARN_PORTS.EN : RegField := ⟨0x21040, 31, 0⟩
def R.LEARN_HOLD.MOVE_HOLD_US : RegField := ⟨0x21044, 15, 0⟩
def R.LEARN_AGE.AUTO : RegField := ⟨0x21048, 31, 31⟩
def R.LEARN_AGE.PERIOD_S : RegField := ⟨0x21048, 23, 16⟩
def R.LEARN_AGE.LIMIT : RegField := ⟨0x21048, 15, 0⟩
def R.LEARN_GRP.GRP_3 (i : Nat) : RegField := ⟨0x21050 + 4 * (i % 4), 31, 24⟩
def R.LEARN_GRP.GRP_2 (i : Nat) : RegField := ⟨0x21050 + 4 * (i % 4), 23, 16⟩
def R.LEARN_GRP.GRP_1 (i : Nat) : RegField := ⟨0x21050 + 4 * (i % 4), 15, 8⟩
def R.LEARN_GRP.GRP_0 (i : Nat) : RegField := ⟨0x21050 + 4 * (i % 4), 7, 0⟩
def R.LEARN_CMD.OP : RegField := ⟨0x21060, 31, 28⟩
def R.LEARN_CMD.PEER : RegField := ⟨0x21060, 11, 0⟩
def R.LEARN_CMD_STAT.BUSY : RegField := ⟨0x21064, 31, 31⟩
def R.LEARN_CMD_STAT.RESULT : RegField := ⟨0x21064, 23, 16⟩
def R.LEARN_OCC.WINBLK : RegField := ⟨0x21068, 28, 16⟩
def R.LEARN_OCC.CONTEXTS : RegField := ⟨0x21068, 12, 0⟩
def R.LEARN_REFUSED.LAST_CAUSE : RegField := ⟨0x2106c, 31, 24⟩
def R.LEARN_REFUSED.COUNT : RegField := ⟨0x2106c, 15, 0⟩
def R.LEARN_MOVES.CONTESTED : RegField := ⟨0x21070, 31, 16⟩
def R.LEARN_MOVES.MOVED : RegField := ⟨0x21070, 15, 0⟩
def R.LEARN_CTX.WORD (i : Nat) : RegField := ⟨0x21080 + 4 * (i % 16), 31, 0⟩
def R.TRIE_PORTS.EN : RegField := ⟨0x22040, 31, 0⟩
def R.TRIE_CMD.OP : RegField := ⟨0x22044, 31, 28⟩
def R.TRIE_CMD.INDEX : RegField := ⟨0x22044, 10, 0⟩
def R.TRIE_CMD_STAT.BUSY : RegField := ⟨0x22048, 31, 31⟩
def R.TRIE_CMD_STAT.RESULT : RegField := ⟨0x22048, 23, 16⟩
def R.TRIE_CMD_STAT.NODES : RegField := ⟨0x22048, 11, 0⟩
def R.TRIE_RULE_CTL.STATE : RegField := ⟨0x2204c, 31, 30⟩
def R.TRIE_RULE_CTL.FAMILY : RegField := ⟨0x2204c, 29, 29⟩
def R.TRIE_RULE_CTL.LEN : RegField := ⟨0x2204c, 22, 16⟩
def R.TRIE_RULE_CTL.HANDLE : RegField := ⟨0x2204c, 12, 0⟩
def R.TRIE_RULE_PREFIX.PREFIX : RegField := ⟨0x22050, 63, 0⟩
def R.TRIE_COUNT.PENDING : RegField := ⟨0x22058, 27, 16⟩
def R.TRIE_COUNT.LIVE : RegField := ⟨0x22058, 11, 0⟩
def R.TRIE_MISMATCH.COUNT : RegField := ⟨0x2205c, 31, 0⟩
def R.FRESH_CFG.EXP_MAX : RegField := ⟨0x24040, 28, 24⟩
def R.FRESH_CFG.EXP_MIN : RegField := ⟨0x24040, 20, 16⟩
def R.FRESH_CFG.TARGET : RegField := ⟨0x24040, 15, 8⟩
def R.FRESH_STAT.EXP : RegField := ⟨0x24044, 28, 24⟩
def R.FRESH_STAT.LOST : RegField := ⟨0x24044, 17, 17⟩
def R.FRESH_STAT.CEIL_WAIT : RegField := ⟨0x24044, 16, 16⟩
def R.FRESH_STAT.EXH_COUNT : RegField := ⟨0x24044, 13, 0⟩
def R.FRESH_CEILING.C : RegField := ⟨0x24048, 63, 0⟩
def R.FRESH_FLOOR.F : RegField := ⟨0x24050, 63, 0⟩
def R.FRESH_EXH_LAST.SRC : RegField := ⟨0x24058, 31, 31⟩
def R.FRESH_EXH_LAST.CAUSE : RegField := ⟨0x24058, 19, 16⟩
def R.FRESH_EXH_LAST.INDEX : RegField := ⟨0x24058, 12, 0⟩
def R.FRESH_CMD.OP : RegField := ⟨0x2405c, 31, 28⟩
def R.FRESH_CMD.SW : RegField := ⟨0x2405c, 20, 16⟩
def R.FRESH_CMD.HANDLE : RegField := ⟨0x2405c, 12, 0⟩
def R.FRESH_VALUE.VALUE : RegField := ⟨0x24060, 63, 0⟩
def R.FRESH_CMD_STAT.BUSY : RegField := ⟨0x24068, 31, 31⟩
def R.FRESH_CMD_STAT.RESULT : RegField := ⟨0x24068, 23, 16⟩
def R.FRESH_JUMP_LAST.HANDLE : RegField := ⟨0x2406c, 12, 0⟩
def R.FRESH_CEIL_WAITS.COUNT : RegField := ⟨0x24070, 31, 0⟩
def R.FRESH_SW_CTL.STATE (i : Nat) : RegField := ⟨0x24400 + 64 * (i % 32), 31, 30⟩
def R.FRESH_SW_CTL.MODE (i : Nat) : RegField := ⟨0x24400 + 64 * (i % 32), 29, 28⟩
def R.FRESH_SW_CTL.BAD (i : Nat) : RegField := ⟨0x24400 + 64 * (i % 32), 27, 27⟩
def R.FRESH_SW_CTL.ARM (i : Nat) : RegField := ⟨0x24400 + 64 * (i % 32), 17, 17⟩
def R.FRESH_SW_CTL.DIR (i : Nat) : RegField := ⟨0x24400 + 64 * (i % 32), 16, 16⟩
def R.FRESH_SW_CTL.HANDLE (i : Nat) : RegField := ⟨0x24400 + 64 * (i % 32), 12, 0⟩
def R.FRESH_SW_SLOTS.NEW_SLOT_A (i : Nat) : RegField := ⟨0x24404 + 64 * (i % 32), 24, 16⟩
def R.FRESH_SW_SLOTS.NEW_SLOT_B (i : Nat) : RegField := ⟨0x24404 + 64 * (i % 32), 8, 0⟩
def R.FRESH_SW_AUX.NEW_AN (i : Nat) : RegField := ⟨0x24408 + 64 * (i % 32), 31, 30⟩
def R.FRESH_SW_AUX.NEW_HANDLE (i : Nat) : RegField := ⟨0x24408 + 64 * (i % 32), 28, 16⟩
def R.FRESH_SW_AUX.OVERLAP_MS (i : Nat) : RegField := ⟨0x24408 + 64 * (i % 32), 15, 0⟩
def R.FRESH_SW_SSCI.SSCI (i : Nat) : RegField := ⟨0x2440c + 64 * (i % 32), 31, 0⟩
def R.FRESH_SW_AT.AT (i : Nat) : RegField := ⟨0x24410 + 64 * (i % 32), 63, 0⟩
def R.FRESH_SW_START.START (i : Nat) : RegField := ⟨0x24418 + 64 * (i % 32), 63, 0⟩
def R.FRESH_SW_SALT.SALT (i : Nat) : RegField := ⟨0x24420 + 64 * (i % 32), 95, 0⟩
def R.FRESH_SW_TS.TS (i : Nat) : RegField := ⟨0x24430 + 64 * (i % 32), 63, 0⟩
def R.FRESH_SW_SEQ.STAMP_SEQ (i : Nat) : RegField := ⟨0x24438 + 64 * (i % 32), 15, 0⟩
def R.ANCHOR_STAT.NEXT_SLOT : RegField := ⟨0x25040, 29, 24⟩
def R.ANCHOR_STAT.USABLE : RegField := ⟨0x25040, 21, 16⟩
def R.ANCHOR_STAT.LIVE : RegField := ⟨0x25040, 12, 8⟩
def R.ANCHOR_RATE.WRITES_1S : RegField := ⟨0x25044, 24, 16⟩
def R.ANCHOR_RATE.BALLAST_1S : RegField := ⟨0x25044, 8, 0⟩
def R.ANCHOR_SEQ.SEQ : RegField := ⟨0x25048, 63, 0⟩
def R.ANCHOR_BAD.BAD : RegField := ⟨0x25050, 63, 0⟩
def R.ANCHOR_RESETS.COUNT : RegField := ⟨0x25058, 31, 0⟩
def R.ANCHOR_FAILS.COUNT : RegField := ⟨0x2505c, 31, 0⟩
def R.ANCHOR_CMD.OP : RegField := ⟨0x25060, 31, 28⟩
def R.ANCHOR_CMD.SLOT : RegField := ⟨0x25060, 5, 0⟩
def R.ANCHOR_CMD_STAT.BUSY : RegField := ⟨0x25064, 31, 31⟩
def R.ANCHOR_CMD_STAT.LIVE : RegField := ⟨0x25064, 17, 17⟩
def R.ANCHOR_CMD_STAT.VERIFIED : RegField := ⟨0x25064, 16, 16⟩
def R.ANCHOR_CMD_STAT.SLOT : RegField := ⟨0x25064, 5, 0⟩
def R.ANCHOR_REC.WORD (i : Nat) : RegField := ⟨0x25080 + 4 * (i % 16), 31, 0⟩
def R.MEM_CFG.DEFAULT : RegField := ⟨0x28040, 31, 31⟩
def R.MEM_CMD.OP : RegField := ⟨0x28044, 31, 28⟩
def R.MEM_CMD.REGION : RegField := ⟨0x28044, 3, 0⟩
def R.MEM_CMD_STAT.BUSY : RegField := ⟨0x28048, 31, 31⟩
def R.MEM_CMD_STAT.RESULT : RegField := ⟨0x28048, 23, 16⟩
def R.MEM_CMD_STAT.REGION : RegField := ⟨0x28048, 3, 0⟩
def R.MEM_OVF.MAX : RegField := ⟨0x2804c, 21, 16⟩
def R.MEM_OVF.COUNT : RegField := ⟨0x2804c, 15, 0⟩
def R.MEM_INTEG.COUNT : RegField := ⟨0x28050, 31, 0⟩
def R.MEM_LATE.COUNT : RegField := ⟨0x28054, 31, 0⟩
def R.MEM_POISONED.COUNT : RegField := ⟨0x28058, 31, 0⟩
def R.MEM_MEDIA.COUNT : RegField := ⟨0x2805c, 31, 0⟩
def R.MEM_REFUSED_WR.PARTIAL : RegField := ⟨0x28060, 31, 16⟩
def R.MEM_REFUSED_WR.RESTING : RegField := ⟨0x28060, 15, 0⟩
def R.MEM_REFUSED_RIGHTS.COUNT : RegField := ⟨0x28064, 31, 0⟩
def R.MEM_FAIL_INFO.KIND : RegField := ⟨0x28068, 31, 28⟩
def R.MEM_FAIL_INFO.REGION : RegField := ⟨0x28068, 27, 24⟩
def R.MEM_FAIL_INFO.CLASS : RegField := ⟨0x28068, 23, 22⟩
def R.MEM_FAIL_INFO.LEVEL : RegField := ⟨0x28068, 21, 20⟩
def R.MEM_FAIL_INFO.BLOCK : RegField := ⟨0x28068, 19, 19⟩
def R.MEM_FAIL_INFO.RID : RegField := ⟨0x28068, 11, 0⟩
def R.MEM_FAIL_TID.TID : RegField := ⟨0x2806c, 9, 0⟩
def R.MEM_FAIL_ADDR.ADDR : RegField := ⟨0x28070, 39, 0⟩
def R.MEM_FAIL_TS.TS : RegField := ⟨0x28078, 63, 0⟩
def R.MEM_MEDIA_TBL.USED : RegField := ⟨0x28080, 6, 0⟩
def R.MEMRGN_CTL.SPEC_RESUME (n : Nat) : RegField := ⟨0x29080 + 0x1000 * (n % 16 / 8) + 0x40 * (n % 8), 10, 10⟩
def R.MEMRGN_CTL.POISONED (n : Nat) : RegField := ⟨0x29080 + 0x1000 * (n % 16 / 8) + 0x40 * (n % 8), 9, 9⟩
def R.MEMRGN_CTL.INIT (n : Nat) : RegField := ⟨0x29080 + 0x1000 * (n % 16 / 8) + 0x40 * (n % 8), 8, 8⟩
def R.MEMRGN_CTL.SPEC_SUSP (n : Nat) : RegField := ⟨0x29080 + 0x1000 * (n % 16 / 8) + 0x40 * (n % 8), 7, 7⟩
def R.MEMRGN_CTL.RESTING (n : Nat) : RegField := ⟨0x29080 + 0x1000 * (n % 16 / 8) + 0x40 * (n % 8), 6, 6⟩
def R.MEMRGN_CTL.BAD (n : Nat) : RegField := ⟨0x29080 + 0x1000 * (n % 16 / 8) + 0x40 * (n % 8), 5, 5⟩
def R.MEMRGN_CTL.REARM (n : Nat) : RegField := ⟨0x29080 + 0x1000 * (n % 16 / 8) + 0x40 * (n % 8), 4, 4⟩
def R.MEMRGN_CTL.STATE (n : Nat) : RegField := ⟨0x29080 + 0x1000 * (n % 16 / 8) + 0x40 * (n % 8), 3, 2⟩
def R.MEMRGN_CTL.EN (n : Nat) : RegField := ⟨0x29080 + 0x1000 * (n % 16 / 8) + 0x40 * (n % 8), 0, 0⟩
def R.MEMRGN_CFG.MODE (n : Nat) : RegField := ⟨0x29084 + 0x1000 * (n % 16 / 8) + 0x40 * (n % 8), 31, 30⟩
def R.MEMRGN_CFG.PRIV (n : Nat) : RegField := ⟨0x29084 + 0x1000 * (n % 16 / 8) + 0x40 * (n % 8), 29, 29⟩
def R.MEMRGN_CFG.SPEC (n : Nat) : RegField := ⟨0x29084 + 0x1000 * (n % 16 / 8) + 0x40 * (n % 8), 28, 28⟩
def R.MEMRGN_CFG.MIRROR (n : Nat) : RegField := ⟨0x29084 + 0x1000 * (n % 16 / 8) + 0x40 * (n % 8), 27, 27⟩
def R.MEMRGN_CFG.SRC (n : Nat) : RegField := ⟨0x29084 + 0x1000 * (n % 16 / 8) + 0x40 * (n % 8), 26, 25⟩
def R.MEMRGN_CFG.DBG_RIGHT (n : Nat) : RegField := ⟨0x29084 + 0x1000 * (n % 16 / 8) + 0x40 * (n % 8), 23, 22⟩
def R.MEMRGN_CFG.DMA_RIGHT (n : Nat) : RegField := ⟨0x29084 + 0x1000 * (n % 16 / 8) + 0x40 * (n % 8), 21, 20⟩
def R.MEMRGN_BASE.ADDR (n : Nat) : RegField := ⟨0x29088 + 0x1000 * (n % 16 / 8) + 0x40 * (n % 8), 27, 0⟩
def R.MEMRGN_META.ADDR (n : Nat) : RegField := ⟨0x29094 + 0x1000 * (n % 16 / 8) + 0x40 * (n % 8), 27, 0⟩
def R.MEMRGN_MIRROR.ADDR (n : Nat) : RegField := ⟨0x29098 + 0x1000 * (n % 16 / 8) + 0x40 * (n % 8), 27, 0⟩
def R.MEMRGN_SIZE.UNITS (n : Nat) : RegField := ⟨0x2908c + 0x1000 * (n % 16 / 8) + 0x40 * (n % 8), 20, 0⟩
def R.MEMRGN_KEY.MSLOT (n : Nat) : RegField := ⟨0x29090 + 0x1000 * (n % 16 / 8) + 0x40 * (n % 8), 24, 16⟩
def R.MEMRGN_KEY.KSLOT (n : Nat) : RegField := ⟨0x29090 + 0x1000 * (n % 16 / 8) + 0x40 * (n % 8), 8, 0⟩
def R.MEMRGN_STAT.TOP (n : Nat) : RegField := ⟨0x2909c + 0x1000 * (n % 16 / 8) + 0x40 * (n % 8), 31, 30⟩
def R.MEMRGN_STAT.MAJOR_HIGH (n : Nat) : RegField := ⟨0x2909c + 0x1000 * (n % 16 / 8) + 0x40 * (n % 8), 29, 29⟩
def R.MEMRGN_STAT.ROOT_VALID (n : Nat) : RegField := ⟨0x2909c + 0x1000 * (n % 16 / 8) + 0x40 * (n % 8), 28, 28⟩
def R.MEMRGN_STAT.RESTORE_CAUSE (n : Nat) : RegField := ⟨0x2909c + 0x1000 * (n % 16 / 8) + 0x40 * (n % 8), 27, 24⟩
def R.MEMRGN_METALEN.UNITS (n : Nat) : RegField := ⟨0x290a0 + 0x1000 * (n % 16 / 8) + 0x40 * (n % 8), 20, 0⟩
def R.MEMRGN_FAILS.INTEG (n : Nat) : RegField := ⟨0x290a4 + 0x1000 * (n % 16 / 8) + 0x40 * (n % 8), 31, 16⟩
def R.MEMRGN_FAILS.MEDIA (n : Nat) : RegField := ⟨0x290a4 + 0x1000 * (n % 16 / 8) + 0x40 * (n % 8), 15, 0⟩
def R.MEMCACHE_CFG.GUST_LIMIT : RegField := ⟨0x2b040, 23, 16⟩
def R.MEMCACHE_CFG.GUST_WIN_MS : RegField := ⟨0x2b040, 15, 0⟩
def R.MEMCACHE_CDIRTY.HIGH : RegField := ⟨0x2b044, 27, 16⟩
def R.MEMCACHE_CDIRTY.LOW : RegField := ⟨0x2b044, 11, 0⟩
def R.MEMCACHE_TDIRTY.HIGH : RegField := ⟨0x2b048, 26, 16⟩
def R.MEMCACHE_TDIRTY.LOW : RegField := ⟨0x2b048, 10, 0⟩
def R.MEMCACHE_CMD.WRITEBACK : RegField := ⟨0x2b04c, 0, 0⟩
def R.MEMCACHE_OCC.CDIRTY : RegField := ⟨0x2b050, 27, 16⟩
def R.MEMCACHE_OCC.TDIRTY : RegField := ⟨0x2b050, 10, 0⟩
def R.MEMCACHE_CTR_HIT.COUNT : RegField := ⟨0x2b054, 31, 0⟩
def R.MEMCACHE_CTR_MISS.COUNT : RegField := ⟨0x2b058, 31, 0⟩
def R.MEMCACHE_TAG_HIT.COUNT : RegField := ⟨0x2b05c, 31, 0⟩
def R.MEMCACHE_TAG_MISS.COUNT : RegField := ⟨0x2b060, 31, 0⟩
def R.MEMCACHE_RECON.COUNT : RegField := ⟨0x2b064, 31, 0⟩
def R.KILN_CFG.LINES : RegField := ⟨0x2c040, 19, 16⟩
def R.KILN_CFG.PACE_US : RegField := ⟨0x2c040, 15, 0⟩
def R.KILN_PASS.REGION : RegField := ⟨0x2c044, 3, 0⟩
def R.KILN_NEW_KEY.MSLOT : RegField := ⟨0x2c048, 24, 16⟩
def R.KILN_NEW_KEY.KSLOT : RegField := ⟨0x2c048, 8, 0⟩
def R.KILN_NEW_SIZE.UNITS : RegField := ⟨0x2c04c, 20, 0⟩
def R.KILN_NEW_META.ADDR : RegField := ⟨0x2c050, 27, 0⟩
def R.KILN_NEW_MIRROR.ADDR : RegField := ⟨0x2c054, 27, 0⟩
def R.KILN_NEW_METALEN.UNITS : RegField := ⟨0x2c058, 20, 0⟩
def R.KILN_CMD.OP : RegField := ⟨0x2c05c, 31, 28⟩
def R.KILN_CMD_STAT.BUSY : RegField := ⟨0x2c060, 31, 31⟩
def R.KILN_CMD_STAT.RESULT : RegField := ⟨0x2c060, 23, 16⟩
def R.KILN_STAT.FMT_PENDING : RegField := ⟨0x2c064, 31, 16⟩
def R.KILN_STAT.REGION : RegField := ⟨0x2c064, 15, 12⟩
def R.KILN_STAT.WAIT : RegField := ⟨0x2c064, 11, 8⟩
def R.KILN_STAT.STEP : RegField := ⟨0x2c064, 7, 6⟩
def R.KILN_STAT.STATE : RegField := ⟨0x2c064, 1, 0⟩
def R.KILN_BOUND.BOUND : RegField := ⟨0x2c068, 20, 0⟩
def R.KILN_OLD_SIZE.UNITS : RegField := ⟨0x2c06c, 20, 0⟩
def R.KILN_DONE.DONE : RegField := ⟨0x2c070, 63, 0⟩
def R.KILN_CHUNKS.COUNT : RegField := ⟨0x2c078, 31, 0⟩
def R.KILN_STALL.MAX_NS : RegField := ⟨0x2c07c, 31, 16⟩
def R.KILN_STALL.EARLY : RegField := ⟨0x2c07c, 15, 0⟩
def R.KILN_LINES_FAILED.COUNT : RegField := ⟨0x2c080, 31, 0⟩
def R.TREE_REPAIRS.COUNT : RegField := ⟨0x2d040, 31, 0⟩
def R.TREE_MIRROR_FAILS.COUNT : RegField := ⟨0x2d044, 31, 0⟩
def R.TREE_CMD.OP : RegField := ⟨0x2d048, 31, 28⟩
def R.TREE_CMD.INDEX : RegField := ⟨0x2d048, 4, 0⟩
def R.TREE_CMD_STAT.BUSY : RegField := ⟨0x2d04c, 31, 31⟩
def R.TREE_CMD_STAT.RESULT : RegField := ⟨0x2d04c, 23, 16⟩
def R.TREE_QUAR_ENTRY.VALID : RegField := ⟨0x2d050, 31, 31⟩
def R.TREE_QUAR_ENTRY.REGION : RegField := ⟨0x2d050, 27, 24⟩
def R.TREE_QUAR_ENTRY.LEVEL : RegField := ⟨0x2d050, 21, 20⟩
def R.TREE_QUAR_ENTRY.INDEX : RegField := ⟨0x2d050, 19, 0⟩
def R.TREE_QUAR_TS.TS : RegField := ⟨0x2d058, 63, 0⟩
def R.STOR_CFG.REFORMAT : RegField := ⟨0x30040, 31, 31⟩
def R.STOR_CMD.OP : RegField := ⟨0x30044, 31, 28⟩
def R.STOR_CMD.PART : RegField := ⟨0x30044, 2, 0⟩
def R.STOR_CMD_STAT.BUSY : RegField := ⟨0x30048, 31, 31⟩
def R.STOR_CMD_STAT.RESULT : RegField := ⟨0x30048, 23, 16⟩
def R.STOR_CMD_STAT.PART : RegField := ⟨0x30048, 2, 0⟩
def R.STOR_UNITS.COUNT : RegField := ⟨0x3004c, 63, 0⟩
def R.STOR_TAG_FAILS.COUNT : RegField := ⟨0x30054, 31, 0⟩
def R.STOR_VER_FAILS.COUNT : RegField := ⟨0x30058, 31, 0⟩
def R.STOR_REFUSED.COUNT : RegField := ⟨0x3005c, 31, 0⟩
def R.STOR_SLOT.VALID (i : Nat) : RegField := ⟨0x30100 + 4 * (i % 64), 31, 31⟩
def R.STOR_SLOT.KEYSLOT (i : Nat) : RegField := ⟨0x30100 + 4 * (i % 64), 8, 0⟩
def R.STOR_PART_CTL.INTENT (i : Nat) : RegField := ⟨0x30400 + 64 * (i % 8), 16, 16⟩
def R.STOR_PART_CTL.OUTCOME (i : Nat) : RegField := ⟨0x30400 + 64 * (i % 8), 11, 8⟩
def R.STOR_PART_CTL.STATE (i : Nat) : RegField := ⟨0x30400 + 64 * (i % 8), 2, 0⟩
def R.STOR_PART_CFG.DEFINED (i : Nat) : RegField := ⟨0x30404 + 64 * (i % 8), 31, 31⟩
def R.STOR_PART_CFG.DUS (i : Nat) : RegField := ⟨0x30404 + 64 * (i % 8), 30, 30⟩
def R.STOR_PART_CFG.SSLOT (i : Nat) : RegField := ⟨0x30404 + 64 * (i % 8), 5, 0⟩
def R.STOR_PART_KEY.TSLOT (i : Nat) : RegField := ⟨0x30408 + 64 * (i % 8), 24, 16⟩
def R.STOR_PART_KEY.MSLOT (i : Nat) : RegField := ⟨0x30408 + 64 * (i % 8), 8, 0⟩
def R.STOR_PART_FIRST.LBN (i : Nat) : RegField := ⟨0x3040c + 64 * (i % 8), 47, 0⟩
def R.STOR_PART_COUNT.UNITS (i : Nat) : RegField := ⟨0x30414 + 64 * (i % 8), 24, 0⟩
def R.STOR_PART_TBL.ADDR (i : Nat) : RegField := ⟨0x30418 + 64 * (i % 8), 27, 0⟩
def R.STOR_PART_IMG.ADDR (i : Nat) : RegField := ⟨0x3041c + 64 * (i % 8), 27, 0⟩
def R.STOR_PART_TBLLEN.UNITS (i : Nat) : RegField := ⟨0x30420 + 64 * (i % 8), 20, 0⟩
def R.STOR_PART_IMGLEN.UNITS (i : Nat) : RegField := ⟨0x30424 + 64 * (i % 8), 20, 0⟩
def R.STOR_PART_EPOCH.EPOCH (i : Nat) : RegField := ⟨0x30428 + 64 * (i % 8), 47, 0⟩
def R.STOR_PART_SEAL_EPOCH.EPOCH (i : Nat) : RegField := ⟨0x30430 + 64 * (i % 8), 47, 0⟩
def R.STOR_PART_DIRTY.TUS (i : Nat) : RegField := ⟨0x30438 + 64 * (i % 8), 16, 0⟩
def R.STOR_PART_FAILS.TAG (i : Nat) : RegField := ⟨0x3043c + 64 * (i % 8), 31, 16⟩
def R.STOR_PART_FAILS.VER (i : Nat) : RegField := ⟨0x3043c + 64 * (i % 8), 15, 0⟩
def R.KEYS_ROOT_STAT.FUSE_HELD : RegField := ⟨0x34040, 3, 3⟩
def R.KEYS_ROOT_STAT.VBAT_PRESENT : RegField := ⟨0x34040, 2, 2⟩
def R.KEYS_ROOT_STAT.SCRAMBLED : RegField := ⟨0x34040, 1, 1⟩
def R.KEYS_ROOT_STAT.ROOT_OK : RegField := ⟨0x34040, 0, 0⟩
def R.KEYS_LC.FUSE_CODE : RegField := ⟨0x34044, 23, 16⟩
def R.KEYS_LC.TARGET : RegField := ⟨0x34044, 15, 8⟩
def R.KEYS_LC.LC_FAIL : RegField := ⟨0x34044, 3, 3⟩
def R.KEYS_LC.STATE : RegField := ⟨0x34044, 2, 0⟩
def R.KEYS_CMD.OP : RegField := ⟨0x34048, 31, 28⟩
def R.KEYS_CMD.TARGET : RegField := ⟨0x34048, 7, 0⟩
def R.KEYS_CMD_STAT.BUSY : RegField := ⟨0x3404c, 31, 31⟩
def R.KEYS_CMD_STAT.RESULT : RegField := ⟨0x3404c, 23, 16⟩
def R.KEYS_PARK_BASE.ADDR : RegField := ⟨0x34050, 27, 0⟩
def R.KEYS_PARK_LEN.UNITS : RegField := ⟨0x34054, 31, 0⟩
def R.KEYS_PARK_EPOCH.EPOCH : RegField := ⟨0x34058, 63, 0⟩
def R.KEYS_PARK_STAT.OUTCOME : RegField := ⟨0x34060, 31, 24⟩
def R.KEYS_PARK_STAT.FAILED : RegField := ⟨0x34060, 9, 0⟩
def R.DERIVE_CMD.OP : RegField := ⟨0x35040, 31, 28⟩
def R.DERIVE_CMD.FORCE : RegField := ⟨0x35040, 27, 27⟩
def R.DERIVE_CMD.TENANT : RegField := ⟨0x35040, 26, 24⟩
def R.DERIVE_CMD.SLOT : RegField := ⟨0x35040, 20, 12⟩
def R.DERIVE_CMD.NODE : RegField := ⟨0x35040, 9, 0⟩
def R.DERIVE_CMD_STAT.BUSY : RegField := ⟨0x35044, 31, 31⟩
def R.DERIVE_CMD_STAT.RESULT : RegField := ⟨0x35044, 23, 16⟩
def R.DERIVE_CMD_STAT.NODE : RegField := ⟨0x35044, 9, 0⟩
def R.DERIVE_PARENT.KIND : RegField := ⟨0x35048, 31, 30⟩
def R.DERIVE_PARENT.INDEX : RegField := ⟨0x35048, 9, 0⟩
def R.DERIVE_POLICY.POLICY : RegField := ⟨0x3504c, 31, 0⟩
def R.DERIVE_LABEL.WORD (i : Nat) : RegField := ⟨0x35050 + 4 * (i % 8), 31, 0⟩
def R.DERIVE_NODE_INFO.STATE : RegField := ⟨0x35070, 31, 30⟩
def R.DERIVE_NODE_INFO.DEPTH : RegField := ⟨0x35070, 29, 26⟩
def R.DERIVE_NODE_INFO.SLOT : RegField := ⟨0x35070, 24, 16⟩
def R.DERIVE_NODE_INFO.CHILDREN : RegField := ⟨0x35070, 15, 0⟩
def R.DERIVE_NODE_USES.COUNT : RegField := ⟨0x35074, 31, 0⟩
def R.DERIVE_OCC.ORPHANED : RegField := ⟨0x35078, 26, 16⟩
def R.DERIVE_OCC.VALID : RegField := ⟨0x35078, 10, 0⟩
def R.SLOTS_CMD.OP : RegField := ⟨0x36040, 31, 28⟩
def R.SLOTS_CMD.FORCE : RegField := ⟨0x36040, 27, 27⟩
def R.SLOTS_CMD.SLOT : RegField := ⟨0x36040, 8, 0⟩
def R.SLOTS_CMD_STAT.BUSY : RegField := ⟨0x36044, 31, 31⟩
def R.SLOTS_CMD_STAT.RESULT : RegField := ⟨0x36044, 23, 16⟩
def R.SLOTS_EXPECT.KCV : RegField := ⟨0x36048, 31, 0⟩
def R.SLOTS_INFO.STATE : RegField := ⟨0x3604c, 31, 29⟩
def R.SLOTS_INFO.ACTIVE_BANK : RegField := ⟨0x3604c, 28, 28⟩
def R.SLOTS_INFO.OTHER : RegField := ⟨0x3604c, 27, 26⟩
def R.SLOTS_INFO.PROV : RegField := ⟨0x3604c, 25, 23⟩
def R.SLOTS_INFO.TENANT : RegField := ⟨0x3604c, 22, 20⟩
def R.SLOTS_INFO.TYPE : RegField := ⟨0x3604c, 15, 8⟩
def R.SLOTS_INFO.INFLIGHT : RegField := ⟨0x3604c, 7, 0⟩
def R.SLOTS_INFO_POLICY.POLICY : RegField := ⟨0x36050, 31, 0⟩
def R.SLOTS_INFO_KCV.KCV : RegField := ⟨0x36054, 31, 0⟩
def R.SLOTS_INFO_PKCV.KCV : RegField := ⟨0x36058, 31, 0⟩
def R.SLOTS_INFO_GEN.GEN : RegField := ⟨0x3605c, 31, 0⟩
def R.SLOTS_INFO_PGEN.GEN : RegField := ⟨0x36060, 31, 0⟩
def R.SLOTS_INFO_NODE.DERIVED : RegField := ⟨0x36064, 31, 31⟩
def R.SLOTS_INFO_NODE.NODE : RegField := ⟨0x36064, 9, 0⟩
def R.SLOTS_INFO_USES.COUNT : RegField := ⟨0x36068, 31, 0⟩
def R.SLOTS_OCC.LOADED : RegField := ⟨0x3606c, 25, 16⟩
def R.SLOTS_OCC.LIVE : RegField := ⟨0x3606c, 9, 0⟩
def R.PKE_CMD.OP : RegField := ⟨0x37040, 31, 28⟩
def R.PKE_CMD.SLOT : RegField := ⟨0x37040, 8, 0⟩
def R.PKE_CMD_STAT.BUSY : RegField := ⟨0x37044, 31, 31⟩
def R.PKE_CMD_STAT.RESULT : RegField := ⟨0x37044, 23, 16⟩
def R.PKE_BUF.ADDR : RegField := ⟨0x37048, 39, 6⟩
def R.PKE_NONCE.WORD (i : Nat) : RegField := ⟨0x37050 + 4 * (i % 8), 31, 0⟩
def R.PKE_OPS.COUNT : RegField := ⟨0x37070, 31, 0⟩
def R.PKE_FAILS.COUNT : RegField := ⟨0x37074, 31, 0⟩
def R.LOOSE_CFG.PRIVATE : RegField := ⟨0x38040, 7, 4⟩
def R.LOOSE_CFG.COMPAT : RegField := ⟨0x38040, 3, 0⟩
def R.LOOSE_OPS.COUNT : RegField := ⟨0x38044, 31, 0⟩
def R.LOOSE_FAILS.COUNT : RegField := ⟨0x38048, 31, 0⟩
def R.LOOSE_CTX_KEY.BOUND (i : Nat) : RegField := ⟨0x38100 + 128 * (i % 4), 31, 31⟩
def R.LOOSE_CTX_KEY.WSLOT (i : Nat) : RegField := ⟨0x38100 + 128 * (i % 4), 24, 16⟩
def R.LOOSE_CTX_KEY.SLOT (i : Nat) : RegField := ⟨0x38100 + 128 * (i % 4), 8, 0⟩
def R.LOOSE_CTX_KCV.KCV (i : Nat) : RegField := ⟨0x38104 + 128 * (i % 4), 31, 0⟩
def R.LOOSE_CTX_MODE.MODE (i : Nat) : RegField := ⟨0x38108 + 128 * (i % 4), 31, 0⟩
def R.LOOSE_CTX_GO.GO (i : Nat) : RegField := ⟨0x3810c + 128 * (i % 4), 0, 0⟩
def R.LOOSE_CTX_STAT.BUSY (i : Nat) : RegField := ⟨0x38110 + 128 * (i % 4), 31, 31⟩
def R.LOOSE_CTX_STAT.OVERRUN (i : Nat) : RegField := ⟨0x38110 + 128 * (i % 4), 30, 30⟩
def R.LOOSE_CTX_STAT.STATUS (i : Nat) : RegField := ⟨0x38110 + 128 * (i % 4), 15, 0⟩
def R.LOOSE_CTX_CMD.OP (i : Nat) : RegField := ⟨0x38114 + 128 * (i % 4), 31, 28⟩
def R.LOOSE_CTX_SAVE.ADDR (i : Nat) : RegField := ⟨0x38118 + 128 * (i % 4), 39, 0⟩
def R.LOOSE_CTX_IN.WORD (i j : Nat) : RegField := ⟨0x38120 + 128 * (i % 4) + 4 * (j % 4), 31, 0⟩
def R.LOOSE_CTX_OUT.WORD (i j : Nat) : RegField := ⟨0x38130 + 128 * (i % 4) + 4 * (j % 4), 31, 0⟩
def R.LOOSE_CTX_STATE.WORD (i j : Nat) : RegField := ⟨0x38140 + 128 * (i % 4) + 4 * (j % 16), 31, 0⟩
def R.RNG_CFG.GUST_LIMIT : RegField := ⟨0x3a040, 31, 24⟩
def R.RNG_CFG.DEPTH_HI : RegField := ⟨0x3a040, 23, 16⟩
def R.RNG_CFG.GUST_WIN_MS : RegField := ⟨0x3a040, 15, 0⟩
def R.RNG_CUTOFF.APT_C : RegField := ⟨0x3a044, 26, 16⟩
def R.RNG_CUTOFF.RCT_C : RegField := ⟨0x3a044, 5, 0⟩
def R.RNG_STAT.VALID : RegField := ⟨0x3a048, 31, 31⟩
def R.RNG_STAT.UNDERRUN : RegField := ⟨0x3a048, 30, 30⟩
def R.RNG_STAT.SRC : RegField := ⟨0x3a048, 29, 27⟩
def R.RNG_STAT.INSTANTIATED : RegField := ⟨0x3a048, 26, 26⟩
def R.RNG_STAT.BLOCKED : RegField := ⟨0x3a048, 25, 25⟩
def R.RNG_STAT.KEY_WAIT : RegField := ⟨0x3a048, 24, 24⟩
def R.RNG_STAT.SEEDS : RegField := ⟨0x3a048, 23, 22⟩
def R.RNG_STAT.FIFO : RegField := ⟨0x3a048, 20, 16⟩
def R.RNG_DATA.WORD : RegField := ⟨0x3a04c, 31, 0⟩
def R.RNG_CMD.RESTART : RegField := ⟨0x3a050, 1, 1⟩
def R.RNG_CMD.RESEED : RegField := ⟨0x3a050, 0, 0⟩
def R.RNG_RESEED.INTERVAL : RegField := ⟨0x3a054, 28, 24⟩
def R.RNG_RESEED.COUNT : RegField := ⟨0x3a054, 16, 0⟩
def R.RNG_HEALTH.GUST_COUNT : RegField := ⟨0x3a058, 31, 24⟩
def R.RNG_HEALTH.LAST_TEST : RegField := ⟨0x3a058, 23, 16⟩
def R.RNG_HEALTH.FAILURES : RegField := ⟨0x3a058, 15, 0⟩
def R.RNG_WAITS.KEY_WAIT_MAX_US : RegField := ⟨0x3a05c, 31, 16⟩
def R.RNG_WAITS.BLOCKED : RegField := ⟨0x3a05c, 15, 0⟩
def R.RNG_BYTES.COUNT : RegField := ⟨0x3a060, 63, 0⟩
def R.RNG_TEST_CTL.TEST_ACTIVE : RegField := ⟨0x3a068, 1, 1⟩
def R.RNG_TEST_CTL.TEST_EN : RegField := ⟨0x3a068, 0, 0⟩
def R.RNG_TEST_PAT.PATTERN : RegField := ⟨0x3a06c, 31, 0⟩
def R.RNG_RAW.WORD : RegField := ⟨0x3a070, 31, 0⟩
def R.RNG_FALLBACK.COUNT : RegField := ⟨0x3a074, 31, 0⟩
def R.WAKE_CFG.GUARD_EN : RegField := ⟨0x3c040, 31, 31⟩
def R.WAKE_CFG.CHAN_EN : RegField := ⟨0x3c040, 27, 24⟩
def R.WAKE_CFG.WIN_MS : RegField := ⟨0x3c040, 23, 16⟩
def R.WAKE_CFG.FALSE_LIMIT : RegField := ⟨0x3c040, 15, 8⟩
def R.WAKE_CFG.BACKOFF_S : RegField := ⟨0x3c040, 7, 0⟩
def R.WAKE_SRC_EN.MODULE : RegField := ⟨0x3c044, 13, 8⟩
def R.WAKE_SRC_EN.VBAT : RegField := ⟨0x3c044, 2, 2⟩
def R.WAKE_SRC_EN.ALARM : RegField := ⟨0x3c044, 1, 1⟩
def R.WAKE_KEY.SLOT : RegField := ⟨0x3c048, 8, 0⟩
def R.WAKE_FALSE.COUNT : RegField := ⟨0x3c04c, 31, 0⟩
def R.WAKE_CLEAR.CLEAR : RegField := ⟨0x3c050, 0, 0⟩
def R.WAKE_LOG_PTR.LOST : RegField := ⟨0x3c054, 31, 16⟩
def R.WAKE_LOG_PTR.COUNT : RegField := ⟨0x3c054, 15, 8⟩
def R.WAKE_LOG_PTR.NEXT : RegField := ⟨0x3c054, 3, 0⟩
def R.WAKE_FILT_CTL.VALID (i : Nat) : RegField := ⟨0x3c080 + 16 * (i % 8), 31, 31⟩
def R.WAKE_FILT_CTL.IDE (i : Nat) : RegField := ⟨0x3c080 + 16 * (i % 8), 30, 30⟩
def R.WAKE_FILT_CTL.ID (i : Nat) : RegField := ⟨0x3c080 + 16 * (i % 8), 28, 0⟩
def R.WAKE_FILT_AUTH.DATA_ID (i : Nat) : RegField := ⟨0x3c084 + 16 * (i % 8), 31, 16⟩
def R.WAKE_FILT_AUTH.CHAN (i : Nat) : RegField := ⟨0x3c084 + 16 * (i % 8), 15, 12⟩
def R.WAKE_FILT_AUTH.D (i : Nat) : RegField := ⟨0x3c084 + 16 * (i % 8), 11, 8⟩
def R.WAKE_FILT_AUTH.MAC_BYTES (i : Nat) : RegField := ⟨0x3c084 + 16 * (i % 8), 3, 0⟩
def R.WAKE_FILT_WCTR.LAST_WCTR (i : Nat) : RegField := ⟨0x3c088 + 16 * (i % 8), 31, 0⟩
def R.WAKE_SRC.CODE (i : Nat) : RegField := ⟨0x3c400 + 16 * (i % 16), 31, 28⟩
def R.WAKE_SRC.CHAN (i : Nat) : RegField := ⟨0x3c400 + 16 * (i % 16), 27, 26⟩
def R.WAKE_SRC.LATE (i : Nat) : RegField := ⟨0x3c400 + 16 * (i % 16), 25, 25⟩
def R.WAKE_SRC.ABORT (i : Nat) : RegField := ⟨0x3c400 + 16 * (i % 16), 24, 24⟩
def R.WAKE_SRC.STAMP_SEQ (i : Nat) : RegField := ⟨0x3c400 + 16 * (i % 16), 15, 0⟩
def R.WAKE_SRC_DETAIL.DETAIL (i : Nat) : RegField := ⟨0x3c404 + 16 * (i % 16), 31, 0⟩
def R.WAKE_SRC_TS.TS (i : Nat) : RegField := ⟨0x3c408 + 16 * (i % 16), 63, 0⟩
def R.MODID_CFG.CHAL_TIMEOUT_MS : RegField := ⟨0x3d040, 31, 16⟩
def R.MODID_CFG.CHAL_PERIOD_S : RegField := ⟨0x3d040, 15, 0⟩
def R.MODID_CMD.OP : RegField := ⟨0x3d044, 31, 28⟩
def R.MODID_CMD.INPUT : RegField := ⟨0x3d044, 2, 0⟩
def R.MODID_CMD_STAT.BUSY : RegField := ⟨0x3d048, 31, 31⟩
def R.MODID_CMD_STAT.RESULT : RegField := ⟨0x3d048, 23, 16⟩
def R.MODID_COUNTS.CHAL_FAILS : RegField := ⟨0x3d04c, 31, 16⟩
def R.MODID_COUNTS.SWAPS : RegField := ⟨0x3d04c, 15, 0⟩
def R.MODID_PRES_CFG.EN (i : Nat) : RegField := ⟨0x3d080 + 4 * (i % 6), 31, 31⟩
def R.MODID_PRES_CFG.CHAL_REQ (i : Nat) : RegField := ⟨0x3d080 + 4 * (i % 6), 30, 30⟩
def R.MODID_PRES_CFG.VER_MIN (i : Nat) : RegField := ⟨0x3d080 + 4 * (i % 6), 29, 28⟩
def R.MODID_PRES_CFG.BUS (i : Nat) : RegField := ⟨0x3d080 + 4 * (i % 6), 25, 25⟩
def R.MODID_PRES_CFG.ADDR (i : Nat) : RegField := ⟨0x3d080 + 4 * (i % 6), 22, 16⟩
def R.MODID_PRES_CFG.CLASS (i : Nat) : RegField := ⟨0x3d080 + 4 * (i % 6), 15, 8⟩
def R.MODID_IN_STAT.STATE (i : Nat) : RegField := ⟨0x3d0a0 + 4 * (i % 6), 31, 29⟩
def R.MODID_IN_STAT.CAUSE (i : Nat) : RegField := ⟨0x3d0a0 + 4 * (i % 6), 23, 16⟩
def R.MODID_IN_STAT.VERSION (i : Nat) : RegField := ⟨0x3d0a0 + 4 * (i % 6), 15, 8⟩
def R.MODID_IN_STAT.CLASS (i : Nat) : RegField := ⟨0x3d0a0 + 4 * (i % 6), 7, 0⟩
def R.MODID_TRUST.VALID (i : Nat) : RegField := ⟨0x3d0c0 + 4 * (i % 8), 31, 31⟩
def R.MODID_TRUST.SLOT (i : Nat) : RegField := ⟨0x3d0c0 + 4 * (i % 8), 24, 16⟩
def R.MODID_TRUST.VENDOR_ID (i : Nat) : RegField := ⟨0x3d0c0 + 4 * (i % 8), 15, 0⟩
def R.MODID_REC.WORD (i : Nat) : RegField := ⟨0x3d200 + 4 * (i % 56), 31, 0⟩
def R.MODID_DIG.WORD (i : Nat) : RegField := ⟨0x3d300 + 4 * (i % 8), 31, 0⟩
def R.MODID_BOUND.WORD (i : Nat) : RegField := ⟨0x3d320 + 4 * (i % 8), 31, 0⟩
def R.FACTORY_CMD.OP : RegField := ⟨0x3e040, 31, 28⟩
def R.FACTORY_CMD.ARG : RegField := ⟨0x3e040, 7, 0⟩
def R.FACTORY_CMD_STAT.BUSY : RegField := ⟨0x3e044, 31, 31⟩
def R.FACTORY_CMD_STAT.RESULT : RegField := ⟨0x3e044, 23, 16⟩
def R.FACTORY_MBIST_SEL.GROUPS : RegField := ⟨0x3e048, 8, 0⟩
def R.FACTORY_MBIST_RES.SKIPPED : RegField := ⟨0x3e04c, 24, 16⟩
def R.FACTORY_MBIST_RES.FAIL : RegField := ⟨0x3e04c, 8, 0⟩
def R.FACTORY_LOOP_RESULT.MISMATCH (i : Nat) : RegField := ⟨0x3e050 + 4 * (i % 4), 20, 16⟩
def R.FACTORY_LOOP_RESULT.ANY (i : Nat) : RegField := ⟨0x3e050 + 4 * (i % 4), 4, 4⟩
def R.FACTORY_LOOP_RESULT.FIRST (i : Nat) : RegField := ⟨0x3e050 + 4 * (i % 4), 3, 0⟩
def R.FACTORY_SENSOR_RESULT.REPORTED : RegField := ⟨0x3e060, 8, 8⟩
def R.FACTORY_SENSOR_RESULT.SRC : RegField := ⟨0x3e060, 7, 0⟩
def R.FACTORY_FUSE_KCV.KCV : RegField := ⟨0x3e064, 31, 0⟩

/-! The common header of page `p` (R76). -/

def R.PG_CTL.SOFT_RESET (p : Nat) : RegField := ⟨0x1000 * (p % 64) + 0x8, 2, 2⟩
def R.PG_CTL.SEAL (p : Nat) : RegField := ⟨0x1000 * (p % 64) + 0x8, 1, 1⟩
def R.PG_CTL.ENABLE (p : Nat) : RegField := ⟨0x1000 * (p % 64) + 0x8, 0, 0⟩
def R.PG_STAT.PAGE_STAT (p : Nat) : RegField := ⟨0x1000 * (p % 64) + 0xc, 31, 16⟩
def R.PG_STAT.DOM_OFF (p : Nat) : RegField := ⟨0x1000 * (p % 64) + 0xc, 5, 5⟩
def R.PG_STAT.SRST_BUSY (p : Nat) : RegField := ⟨0x1000 * (p % 64) + 0xc, 4, 4⟩
def R.PG_STAT.SEALED (p : Nat) : RegField := ⟨0x1000 * (p % 64) + 0xc, 3, 3⟩
def R.PG_STAT.REARM (p : Nat) : RegField := ⟨0x1000 * (p % 64) + 0xc, 2, 2⟩
def R.PG_STAT.STATE (p : Nat) : RegField := ⟨0x1000 * (p % 64) + 0xc, 1, 0⟩
def R.PG_EVT_RAW.EVT (p : Nat) : RegField := ⟨0x1000 * (p % 64) + 0x10, 31, 0⟩
def R.PG_EVT_EN.EVT (p : Nat) : RegField := ⟨0x1000 * (p % 64) + 0x14, 31, 0⟩
def R.PG_EVT_STICKY.EVT (p : Nat) : RegField := ⟨0x1000 * (p % 64) + 0x1c, 31, 0⟩
def R.PG_WRCOUNT.COUNT (p : Nat) : RegField := ⟨0x1000 * (p % 64) + 0x20, 31, 0⟩
def R.PG_WRREJ.COUNT (p : Nat) : RegField := ⟨0x1000 * (p % 64) + 0x24, 31, 0⟩
def R.PG_LASTWR_TS.TS (p : Nat) : RegField := ⟨0x1000 * (p % 64) + 0x28, 63, 0⟩

end Sys2Proof.Machine
end

