-- ==== Sys2Proof/Machine/Map.lean ====
section
/-! DEFINITION. Sparse maps: a list of (key, value) pairs in one canonical form, keys strictly rising and
no entry equal to what an unlisted key reads as. -/
namespace Sys2Proof.Machine

/-- A sparse map from numbers. What an unlisted key reads as is the first argument of the operations. -/
abbrev SMap (α : Type) := List (Nat × α)

/-- Read key `k`; `d` is what an unlisted key reads as. -/
def mget {α : Type} (d : Nat → α) : SMap α → Nat → α
  | [], k => d k
  | (a, x) :: r, k => if a = k then x else mget d r k

/-- Insert or replace, keeping keys rising. -/
def mins {α : Type} (k : Nat) (v : α) : SMap α → SMap α
  | [] => [(k, v)]
  | (a, x) :: r =>
    if k < a then (k, v) :: (a, x) :: r
    else if k = a then (k, v) :: r
    else (a, x) :: mins k v r

/-- Remove a key. -/
def mdel {α : Type} (k : Nat) : SMap α → SMap α
  | [] => []
  | (a, x) :: r => if a = k then mdel k r else (a, x) :: mdel k r

/-- Write key `k`: writing what an unlisted key reads as removes the entry. -/
def mset {α : Type} [DecidableEq α] (d : Nat → α) (m : SMap α) (k : Nat) (v : α) : SMap α :=
  if v = d k then mdel k m else mins k v m

/-- Every key of the map is above `b`, rising. -/
def msorted {α : Type} : Option Nat → SMap α → Bool
  | _, [] => true
  | none, (a, _) :: r => msorted (some a) r
  | some b, (a, _) :: r => decide (b < a) && msorted (some a) r

/-- The canonical form. -/
def mwf {α : Type} [DecidableEq α] (d : Nat → α) (m : SMap α) : Bool :=
  msorted none m && m.all fun p => decide (p.2 ≠ d p.1)

end Sys2Proof.Machine
end

