-- ==== Sys2Proof/Machine/RegTab.lean ====
section
/-! DEFINITION. The page-specific registers of every page, one row per register, transcribed from
the register tables of the page chapters of spec/: offset, array stride and count, the writes that
are allowed only while the page or the unit is OFF, and each field with its type, whether OT_RESET_N keeps
it, and its reset value. Reserved bits are the bits no field covers (R8). -/
namespace Sys2Proof.Machine

/-- Reset share of scheduler class `c` (R110). -/
def schedShareReset (c : Nat) : Nat := ([96, 32, 64, 32, 20, 4, 4, 4] : List Nat).getD c 0

/-- Reset priority of scheduler class `c` (R110). -/
def schedPrioReset (c : Nat) : Nat := ([0, 0, 1, 1, 2, 2, 3, 3] : List Nat).getD c 0

/-- Reset MAX_ITEM of port `n` in units (R176). -/
def portMaxItemReset (n : Nat) : Nat := if n < 8 then 145 else if n < 16 then 25 else 2

/-- PROFILE of port `n`: 0 IEEE 802.1AE for classes T, M and L, 1 CAN authenticator for class C (R176). -/
def portProfileReset (n : Nat) : Nat := if n < 16 then 0 else 1

/-- Reset high watermark of port `n` (STRM_P_WM). -/
def portHighReset (n : Nat) : Nat := if n < 2 then 0x300 else if n < 8 then 0x180 else if n < 16 then 0x0C0 else 0x030

/-- Reset low watermark of port `n` (STRM_P_WM). -/
def portLowReset (n : Nat) : Nat := if n < 2 then 0x200 else if n < 8 then 0x100 else if n < 16 then 0x080 else 0x020

/-- A tamper source of R539: LIMIT, WIN_MS, event grade, lasting grade, floor. A source whose event grade
the table leaves blank has LIMIT 1, so that every event of it is lasting; its EVENT_GRADE field resets to 0. -/
structure SourceSpec where
  limit : Nat
  win : Nat
  event : Nat
  lasting : Nat
  floor : Nat
  deriving DecidableEq, Repr

/-- The table of R539 by source code; `none` for a start-up-only source and for an unlisted code. -/
def sourceSpec (s : Nat) : Option SourceSpec :=
  if s = 0x01 then some ⟨4, 1000, 1, 2, 3⟩
  else if s = 0x02 then some ⟨1, 1000, 0, 2, 2⟩
  else if s = 0x03 then some ⟨3, 64000, 0, 2, 2⟩
  else if s = 0x04 then some ⟨4, 1000, 1, 2, 3⟩
  else if s = 0x05 then some ⟨1, 1000, 0, 2, 2⟩
  else if s = 0x06 then some ⟨1, 1000, 0, 3, 3⟩
  else if 0x08 ≤ s ∧ s ≤ 0x0D then some ⟨1, 1000, 0, 2, 3⟩
  else if s = 0x10 then some ⟨2, 1000, 1, 2, 3⟩
  else if s = 0x11 then some ⟨8, 64000, 0, 2, 2⟩
  else if s = 0x12 then some ⟨1, 1000, 0, 2, 2⟩
  else if s = 0x13 then some ⟨3, 64000, 0, 2, 2⟩
  else if s = 0x14 then some ⟨1, 1000, 0, 2, 2⟩
  else if s = 0x18 then some ⟨1, 0, 0, 3, 3⟩
  else none

/-- Reset LASTING_GRADE of source `s` (R539, R562). -/
def srcLastingReset (s : Nat) : Nat := match sourceSpec s with
  | some x => x.lasting
  | none => 0

/-- Reset EVENT_GRADE of source `s` (R539, R562). -/
def srcEventReset (s : Nat) : Nat := match sourceSpec s with
  | some x => x.event
  | none => 0

/-- Reset LIMIT of source `s` (R539, R562). -/
def srcLimitReset (s : Nat) : Nat := match sourceSpec s with
  | some x => x.limit
  | none => 0

/-- Reset WIN_MS of source `s` (R539, R562). -/
def srcWinReset (s : Nat) : Nat := match sourceSpec s with
  | some x => x.win
  | none => 0

/-- Registers of the IDENT page (R606). -/
def regsIdent : List RegSpec := [
  /- IDENT_BLOCK -/ ⟨0x40, 0, 1, 0, 1, 1, .none,
    [⟨31, 16, .ro, true, fun _ => 0x5355⟩, ⟨15, 0, .ro, true, fun _ => 0xa71⟩]⟩,
  /- IDENT_MEMBER -/ ⟨0x44, 0, 1, 0, 1, 1, .none,
    [⟨31, 16, .ro, true, fun _ => 7⟩, ⟨15, 8, .ro, true, fun _ => Config.stepMajor.toNat⟩, ⟨7, 0, .ro, true, fun _ => Config.stepMinor.toNat⟩]⟩,
  /- IDENT_PAGES -/ ⟨0x48, 0, 1, 0, 1, 2, .none,
    [⟨63, 0, .ro, true, fun _ => 0x75F13F373FFF1F7F⟩]⟩,
  /- IDENT_BASE -/ ⟨0x50, 0, 1, 0, 1, 1, .none,
    [⟨21, 0, .ro, true, fun _ => Config.otBase.toNat⟩]⟩,
  /- IDENT_SELF_RID -/ ⟨0x54, 0, 1, 0, 1, 1, .none,
    [⟨11, 0, .ro, true, fun _ => Config.selfRid.toNat⟩]⟩,
  /- IDENT_PARAM_A -/ ⟨0x58, 0, 1, 0, 1, 1, .none,
    [⟨31, 24, .ro, true, fun _ => 0x28⟩, ⟨20, 16, .ro, true, fun _ => 0x10⟩, ⟨12, 8, .ro, true, fun _ => 8⟩, ⟨7, 4, .ro, true, fun _ => 6⟩, ⟨3, 0, .ro, true, fun _ => 2⟩]⟩,
  /- IDENT_PARAM_B -/ ⟨0x5c, 0, 1, 0, 1, 1, .none,
    [⟨31, 24, .ro, true, fun _ => 4⟩, ⟨19, 16, .ro, true, fun _ => 4⟩, ⟨15, 12, .ro, true, fun _ => 2⟩, ⟨11, 8, .ro, true, fun _ => 6⟩, ⟨7, 4, .ro, true, fun _ => 4⟩, ⟨3, 0, .ro, true, fun _ => 2⟩]⟩,
  /- IDENT_PROTO -/ ⟨0x60, 0, 1, 0, 1, 1, .none,
    [⟨9, 8, .ro, true, fun _ => 3⟩, ⟨2, 0, .ro, true, fun _ => 7⟩]⟩]

/-- Registers of the GLOBAL page (R97). -/
def regsGlobal : List RegSpec := [
  /- GLOBAL_IRQ_EN -/ ⟨0x40, 0, 1, 0, 1, 1, .none,
    [⟨3, 3, .rws, false, fun _ => 0⟩, ⟨2, 2, .ro, false, fun _ => 1⟩, ⟨1, 1, .rws, false, fun _ => 0⟩, ⟨0, 0, .rws, false, fun _ => 0⟩]⟩,
  /- GLOBAL_IRQ_STAT -/ ⟨0x44, 0, 1, 0, 1, 1, .none,
    [⟨4, 4, .ro, false, fun _ => 0⟩, ⟨3, 3, .ro, false, fun _ => 0⟩, ⟨2, 2, .ro, false, fun _ => 0⟩, ⟨1, 1, .ro, false, fun _ => 0⟩, ⟨0, 0, .ro, false, fun _ => 0⟩]⟩,
  /- GLOBAL_SVC_PAGES -/ ⟨0x48, 0, 1, 0, 1, 2, .none,
    [⟨63, 0, .ro, false, fun _ => 0⟩]⟩,
  /- GLOBAL_ERR_PAGES -/ ⟨0x50, 0, 1, 0, 1, 2, .none,
    [⟨63, 0, .ro, false, fun _ => 0⟩]⟩,
  /- GLOBAL_SEC_PAGES -/ ⟨0x58, 0, 1, 0, 1, 2, .none,
    [⟨63, 0, .ro, false, fun _ => 0⟩]⟩,
  /- GLOBAL_WAKE_PAGES -/ ⟨0x60, 0, 1, 0, 1, 2, .none,
    [⟨63, 0, .ro, false, fun _ => 0⟩]⟩,
  /- GLOBAL_BND_ERR -/ ⟨0x68, 0, 1, 0, 1, 1, .none,
    [⟨31, 28, .ro, false, fun _ => 0⟩, ⟨27, 20, .ro, false, fun _ => 0⟩, ⟨15, 0, .rc, false, fun _ => 0⟩]⟩,
  /- GLOBAL_RSVD_WR -/ ⟨0x6c, 0, 1, 0, 1, 1, .none,
    [⟨31, 0, .ro, false, fun _ => 0⟩]⟩,
  /- GLOBAL_SEAL_ALL -/ ⟨0x70, 0, 1, 0, 1, 1, .none,
    [⟨0, 0, .wo, false, fun _ => 0⟩]⟩]

/-- Registers of the TIME page (R538). -/
def regsTimeA : List RegSpec := [
  /- TIME_NOW -/ ⟨0x40, 0, 1, 0, 1, 2, .none,
    [⟨63, 0, .ro, true, fun _ => 0⟩]⟩,
  /- TIME_STAT -/ ⟨0x48, 0, 1, 0, 1, 1, .none,
    [⟨31, 31, .ro, true, fun _ => 0⟩, ⟨30, 30, .ro, true, fun _ => 0⟩, ⟨29, 29, .ro, true, fun _ => 0⟩, ⟨28, 28, .ro, true, fun _ => 0⟩]⟩,
  /- TIME_RATE -/ ⟨0x4c, 0, 1, 0, 1, 1, .none,
    [⟨31, 0, .ro, true, fun _ => 0⟩]⟩,
  /- TIME_DISC -/ ⟨0x50, 0, 1, 0, 1, 1, .none,
    [⟨31, 31, .rws, true, fun _ => 0⟩, ⟨30, 16, .rws, true, fun _ => 0x10⟩, ⟨15, 0, .rws, true, fun _ => 0x7d0⟩]⟩,
  /- TIME_FAR -/ ⟨0x54, 0, 1, 0, 1, 1, .none,
    [⟨15, 0, .rws, true, fun _ => 0x3e8⟩]⟩,
  /- TIME_OFFSET -/ ⟨0x58, 0, 1, 0, 1, 2, .none,
    [⟨63, 0, .ro, true, fun _ => 0⟩]⟩,
  /- TIME_EPOCH_PTP_S -/ ⟨0x60, 0, 1, 0, 1, 1, .none,
    [⟨31, 0, .rws, true, fun _ => 0x386d4380⟩]⟩,
  /- TIME_CMD -/ ⟨0x64, 0, 1, 0, 1, 1, .none,
    [⟨31, 28, .wo, true, fun _ => 0⟩]⟩,
  /- TIME_CMD_STAT -/ ⟨0x68, 0, 1, 0, 1, 1, .none,
    [⟨31, 31, .ro, false, fun _ => 0⟩, ⟨23, 16, .ro, false, fun _ => 0⟩]⟩,
  /- TIME_VALUE -/ ⟨0x70, 0, 1, 0, 1, 2, .none,
    [⟨63, 0, .rw, true, fun _ => 0⟩]⟩,
  /- TIME_AUTH_BUF -/ ⟨0x78, 0, 1, 0, 1, 2, .none,
    [⟨39, 4, .rw, true, fun _ => 0⟩]⟩,
  /- TIME_AUTH_KEY -/ ⟨0x80, 0, 1, 0, 1, 1, .none,
    [⟨8, 0, .rws, true, fun _ => 0⟩]⟩]

/-- Registers of the TIME page (R538). -/
def regsTimeB : List RegSpec := [
  /- TIME_STEPS -/ ⟨0x84, 0, 1, 0, 1, 1, .none,
    [⟨31, 0, .ro, true, fun _ => 0⟩]⟩,
  /- TIME_RC -/ ⟨0x88, 0, 1, 0, 1, 1, .none,
    [⟨15, 0, .ro, true, fun _ => 0⟩]⟩,
  /- TIME_NONCE -/ ⟨0xa0, 4, 8, 0, 1, 1, .none,
    [⟨31, 0, .ro, false, fun _ => 0⟩]⟩,
  /- TIME_ALARM -/ ⟨0xc0, 0, 1, 0, 1, 2, .none,
    [⟨63, 0, .rw, true, fun _ => 0⟩]⟩,
  /- TIME_ALARM_CTL -/ ⟨0xc8, 0, 1, 0, 1, 1, .none,
    [⟨0, 0, .rw, true, fun _ => 0⟩]⟩]

/-- Registers of the TIME page. -/
def regsTime : List RegSpec := regsTimeA ++ regsTimeB

/-- Registers of the CHRON page (R604). -/
def regsChronA : List RegSpec := [
  /- CHRON_CFG -/ ⟨0x40, 0, 1, 0, 1, 1, .chronCfg,
    [⟨15, 8, .rws, true, fun _ => 0x40⟩, ⟨4, 0, .rws, true, fun _ => 0xc⟩]⟩,
  /- CHRON_AUDIT_BASE -/ ⟨0x48, 0, 1, 0, 1, 2, .page,
    [⟨39, 5, .rws, true, fun _ => 0⟩]⟩,
  /- CHRON_AUDIT_HEAD -/ ⟨0x50, 0, 1, 0, 1, 1, .none,
    [⟨31, 0, .rw, true, fun _ => 0⟩]⟩,
  /- CHRON_AUDIT_TAIL -/ ⟨0x54, 0, 1, 0, 1, 1, .none,
    [⟨31, 0, .ro, true, fun _ => 0⟩]⟩,
  /- CHRON_AUDIT_STAT -/ ⟨0x58, 0, 1, 0, 1, 1, .none,
    [⟨31, 31, .ro, true, fun _ => 0⟩, ⟨30, 30, .ro, true, fun _ => 0⟩, ⟨29, 29, .ro, true, fun _ => 0⟩, ⟨22, 16, .ro, true, fun _ => 0⟩, ⟨15, 0, .rc, false, fun _ => 0⟩]⟩,
  /- CHRON_CHAIN -/ ⟨0x60, 4, 8, 0, 1, 1, .none,
    [⟨31, 0, .ro, true, fun _ => 0⟩]⟩,
  /- CHRON_CMD -/ ⟨0x80, 0, 1, 0, 1, 1, .none,
    [⟨31, 28, .wo, false, fun _ => 0⟩]⟩,
  /- CHRON_CMD_STAT -/ ⟨0x84, 0, 1, 0, 1, 1, .none,
    [⟨31, 31, .ro, false, fun _ => 0⟩, ⟨23, 16, .ro, false, fun _ => 0⟩]⟩,
  /- CHRON_CHECK_INDEX -/ ⟨0x88, 0, 1, 0, 1, 1, .none,
    [⟨31, 0, .rw, false, fun _ => 0⟩]⟩,
  /- CHRON_CHECK_CHAIN -/ ⟨0x90, 4, 8, 0, 1, 1, .none,
    [⟨31, 0, .rw, false, fun _ => 0⟩]⟩,
  /- CHRON_CHECK_MAC -/ ⟨0xb0, 4, 3, 0, 1, 1, .none,
    [⟨31, 0, .rw, false, fun _ => 0⟩]⟩,
  /- CHRON_SIGN_BUF -/ ⟨0xc0, 0, 1, 0, 1, 2, .none,
    [⟨39, 6, .rw, false, fun _ => 0⟩]⟩]

/-- Registers of the CHRON page (R604). -/
def regsChronB : List RegSpec := [
  /- CHRON_TRACE_CTL -/ ⟨0xd0, 0, 1, 0, 1, 1, .none,
    [⟨1, 1, .wo, false, fun _ => 0⟩, ⟨0, 0, .wo, false, fun _ => 0⟩]⟩,
  /- CHRON_TRACE_WM -/ ⟨0xd4, 0, 1, 0, 1, 1, .none,
    [⟨25, 16, .rws, false, fun _ => 0x180⟩, ⟨9, 0, .rws, false, fun _ => 0x100⟩]⟩,
  /- CHRON_TRACE_LEVEL -/ ⟨0xd8, 0, 1, 0, 1, 1, .none,
    [⟨25, 16, .rc, false, fun _ => 0⟩, ⟨9, 0, .ro, false, fun _ => 0⟩]⟩,
  /- CHRON_TRACE_STAT -/ ⟨0xdc, 0, 1, 0, 1, 1, .none,
    [⟨31, 31, .ro, false, fun _ => 0⟩, ⟨30, 30, .ro, false, fun _ => 0⟩, ⟨29, 29, .ro, false, fun _ => 0⟩, ⟨28, 28, .w1c, false, fun _ => 0⟩, ⟨12, 0, .ro, false, fun _ => 0⟩]⟩,
  /- CHRON_TRACE_DATA -/ ⟨0xe0, 0, 1, 0, 1, 1, .none,
    [⟨31, 0, .rc, false, fun _ => 0⟩]⟩,
  /- CHRON_TRACE_LOST -/ ⟨0xe4, 0, 1, 0, 1, 1, .none,
    [⟨31, 0, .ro, false, fun _ => 0⟩]⟩,
  /- CHRON_TRACE_SPLIT -/ ⟨0xe8, 0, 1, 0, 1, 1, .none,
    [⟨31, 0, .ro, false, fun _ => 0⟩]⟩]

/-- Registers of the CHRON page. -/
def regsChron : List RegSpec := regsChronA ++ regsChronB

/-- Registers of the CELLAR page (R605). -/
def regsCellar : List RegSpec := [
  /- CELLAR_CFG -/ ⟨0x40, 0, 1, 0, 1, 1, .none,
    [⟨23, 16, .rws, true, fun _ => 3⟩, ⟨15, 0, .rws, true, fun _ => 0x3e8⟩]⟩,
  /- CELLAR_OCC -/ ⟨0x44, 0, 1, 0, 1, 1, .none,
    [⟨31, 21, .ro, true, fun _ => 0⟩, ⟨20, 11, .ro, true, fun _ => 0⟩, ⟨10, 4, .ro, true, fun _ => 0⟩, ⟨1, 0, .ro, true, fun _ => 0⟩]⟩,
  /- CELLAR_SHARE -/ ⟨0x48, 0, 1, 0, 1, 1, .none,
    [⟨10, 0, .ro, true, fun _ => 0x59e⟩]⟩,
  /- CELLAR_STAT -/ ⟨0x4c, 0, 1, 0, 1, 1, .none,
    [⟨31, 31, .ro, true, fun _ => 0⟩, ⟨30, 30, .ro, true, fun _ => 0⟩, ⟨29, 28, .ro, true, fun _ => 0⟩, ⟨11, 0, .ro, true, fun _ => 0⟩]⟩,
  /- CELLAR_FENCED -/ ⟨0x50, 0, 1, 0, 1, 1, .none,
    [⟨7, 0, .ro, true, fun _ => 0⟩]⟩,
  /- CELLAR_VBAT_OPEN -/ ⟨0x54, 0, 1, 0, 1, 1, .none,
    [⟨11, 0, .ro, true, fun _ => 0⟩]⟩,
  /- CELLAR_REPLAYS -/ ⟨0x58, 0, 1, 0, 1, 1, .none,
    [⟨31, 0, .ro, true, fun _ => 0⟩]⟩,
  /- CELLAR_CHANGED -/ ⟨0x5c, 0, 1, 0, 1, 1, .none,
    [⟨31, 0, .ro, true, fun _ => 0⟩]⟩,
  /- CELLAR_LOST -/ ⟨0x60, 0, 1, 0, 1, 1, .none,
    [⟨31, 0, .ro, true, fun _ => 0⟩]⟩,
  /- CELLAR_CMD -/ ⟨0x64, 0, 1, 0, 1, 1, .none,
    [⟨31, 28, .wo, true, fun _ => 0⟩, ⟨10, 0, .wo, true, fun _ => 0⟩]⟩,
  /- CELLAR_CMD_STAT -/ ⟨0x68, 0, 1, 0, 1, 1, .none,
    [⟨31, 31, .ro, false, fun _ => 0⟩, ⟨23, 16, .ro, false, fun _ => 0⟩]⟩,
  /- CELLAR_ENTRY -/ ⟨0x80, 4, 16, 0, 1, 1, .none,
    [⟨31, 0, .ro, true, fun _ => 0⟩]⟩]

/-- Registers of the POWER page (R538). -/
def regsPowerA : List RegSpec := [
  /- POWER_CMD -/ ⟨0x40, 0, 1, 0, 1, 1, .none,
    [⟨31, 28, .wo, true, fun _ => 0⟩]⟩,
  /- POWER_STAT -/ ⟨0x44, 0, 1, 0, 1, 1, .none,
    [⟨31, 30, .ro, false, fun _ => 0⟩, ⟨29, 29, .ro, false, fun _ => 0⟩, ⟨28, 28, .ro, false, fun _ => 0⟩, ⟨27, 24, .ro, false, fun _ => 0⟩, ⟨15, 0, .ro, false, fun _ => 0xc01b⟩]⟩,
  /- POWER_SEG_CTL -/ ⟨0x48, 0, 1, 0, 1, 1, .none,
    [⟨7, 0, .rw, false, fun _ => 0⟩]⟩,
  /- POWER_SEG_STAT -/ ⟨0x4c, 0, 1, 0, 1, 1, .none,
    [⟨15, 0, .ro, false, fun _ => 0⟩]⟩,
  /- POWER_PARK_BASE -/ ⟨0x50, 0, 1, 0, 1, 1, .none,
    [⟨27, 0, .rws, true, fun _ => 0⟩]⟩,
  /- POWER_PARK_LEN -/ ⟨0x54, 0, 1, 0, 1, 1, .none,
    [⟨31, 0, .ro, true, fun _ => 0x620⟩]⟩,
  /- POWER_TIMES -/ ⟨0x58, 0, 1, 0, 1, 1, .none,
    [⟨31, 16, .rc, false, fun _ => 0⟩, ⟨15, 0, .rc, false, fun _ => 0⟩]⟩,
  /- POWER_COUNTS -/ ⟨0x5c, 0, 1, 0, 1, 1, .none,
    [⟨31, 16, .ro, true, fun _ => 0⟩, ⟨15, 0, .ro, true, fun _ => 0⟩]⟩,
  /- POWER_SLEEPS -/ ⟨0x60, 0, 1, 0, 1, 1, .none,
    [⟨31, 0, .ro, true, fun _ => 0⟩]⟩,
  /- POWER_SEG_HOLD -/ ⟨0x64, 0, 1, 0, 1, 1, .none,
    [⟨31, 16, .rc, false, fun _ => 0⟩, ⟨15, 0, .rc, false, fun _ => 0⟩]⟩,
  /- POWER_EXCESS -/ ⟨0x68, 0, 1, 0, 1, 1, .none,
    [⟨31, 0, .ro, true, fun _ => 0⟩]⟩,
  /- POWER_PARK_FAILS -/ ⟨0x6c, 0, 1, 0, 1, 1, .none,
    [⟨31, 0, .ro, true, fun _ => 0⟩]⟩]

/-- Registers of the POWER page (R538). -/
def regsPowerB : List RegSpec := [
  /- SEG_EPOCH -/ ⟨0x80, 8, 8, 0, 1, 2, .none,
    [⟨47, 0, .ro, true, fun _ => 0⟩]⟩,
  /- SEG_KEY_EPOCH -/ ⟨0xc0, 8, 8, 0, 1, 2, .none,
    [⟨63, 0, .ro, true, fun _ => 0⟩]⟩]

/-- Registers of the POWER page. -/
def regsPower : List RegSpec := regsPowerA ++ regsPowerB

/-- Registers of the TAMPER page (R562). -/
def regsTamper : List RegSpec := [
  /- TAMPER_STAT -/ ⟨0x40, 0, 1, 0, 1, 1, .none,
    [⟨31, 31, .ro, true, fun _ => 0⟩, ⟨30, 30, .ro, false, fun _ => 1⟩, ⟨23, 16, .ro, true, fun _ => 0⟩, ⟨15, 8, .ro, true, fun _ => 0⟩, ⟨7, 6, .ro, true, fun _ => 0⟩]⟩,
  /- TAMPER_CMD -/ ⟨0x44, 0, 1, 0, 1, 1, .none,
    [⟨31, 28, .wo, true, fun _ => 0⟩, ⟨7, 0, .wo, true, fun _ => 0⟩]⟩,
  /- TAMPER_CMD_STAT -/ ⟨0x48, 0, 1, 0, 1, 1, .none,
    [⟨31, 31, .ro, false, fun _ => 0⟩, ⟨23, 16, .ro, false, fun _ => 0⟩]⟩,
  /- TAMPER_LAST_TS -/ ⟨0x50, 0, 1, 0, 1, 2, .none,
    [⟨63, 0, .ro, true, fun _ => 0⟩]⟩,
  /- TAMPER_SELFCHECK -/ ⟨0x58, 0, 1, 0, 1, 1, .none,
    [⟨15, 0, .ro, true, fun _ => 0⟩]⟩,
  /- TAMPER_LOG_PTR -/ ⟨0x5c, 0, 1, 0, 1, 1, .none,
    [⟨31, 24, .ro, true, fun _ => 0⟩, ⟨15, 8, .ro, true, fun _ => 0⟩, ⟨3, 0, .ro, true, fun _ => 0⟩]⟩,
  /- TAMPER_SRC_CFG -/ ⟨0x80, 4, 32, 0, 1, 1, .none,
    [⟨29, 28, .rws, true, srcLastingReset⟩, ⟨27, 26, .rws, true, srcEventReset⟩, ⟨23, 16, .rws, true, srcLimitReset⟩, ⟨15, 0, .rws, true, srcWinReset⟩]⟩,
  /- TAMPER_SRC_STAT -/ ⟨0x100, 4, 32, 0, 1, 1, .none,
    [⟨31, 31, .ro, true, fun _ => 0⟩, ⟨30, 30, .ro, true, fun _ => 0⟩, ⟨23, 16, .ro, true, fun _ => 0⟩, ⟨15, 0, .ro, true, fun _ => 0⟩]⟩,
  /- TAMPER_LOG_A -/ ⟨0x200, 16, 16, 0, 1, 1, .none,
    [⟨31, 24, .ro, true, fun _ => 0⟩, ⟨23, 22, .ro, true, fun _ => 0⟩, ⟨21, 19, .ro, true, fun _ => 0⟩, ⟨18, 18, .ro, true, fun _ => 0⟩, ⟨17, 17, .ro, true, fun _ => 0⟩, ⟨16, 16, .ro, true, fun _ => 0⟩]⟩,
  /- TAMPER_LOG_TS -/ ⟨0x204, 16, 16, 0, 1, 2, .none,
    [⟨63, 0, .ro, true, fun _ => 0⟩]⟩,
  /- TAMPER_LOG_B -/ ⟨0x20c, 16, 16, 0, 1, 1, .none,
    [⟨15, 0, .ro, true, fun _ => 0⟩]⟩]

/-- Registers of the LANE pages (R133). -/
def regsLane : List RegSpec := [
  /- LANE_CFG -/ ⟨0x40, 0, 1, 0, 1, 1, .none,
    [⟨31, 31, .rws, false, fun _ => 0⟩, ⟨23, 16, .rws, false, fun _ => 3⟩, ⟨15, 0, .rws, false, fun _ => 0x3e8⟩]⟩,
  /- LANE_KAT_CFG -/ ⟨0x44, 0, 1, 0, 1, 1, .none,
    [⟨19, 0, .rws, false, fun _ => 0x3e8⟩]⟩,
  /- LANE_CMD -/ ⟨0x48, 0, 1, 0, 1, 1, .none,
    [⟨2, 2, .wo, false, fun _ => 0⟩, ⟨1, 1, .wo, false, fun _ => 0⟩, ⟨0, 0, .wo, false, fun _ => 0⟩]⟩,
  /- LANE_FAULT_STAT -/ ⟨0x4c, 0, 1, 0, 1, 1, .none,
    [⟨31, 24, .ro, false, fun _ => 0⟩, ⟨23, 16, .ro, true, fun _ => 0⟩, ⟨15, 8, .ro, true, fun _ => 0⟩, ⟨7, 0, .ro, true, fun _ => 0⟩]⟩,
  /- LANE_BLOCKS -/ ⟨0x50, 0, 1, 0, 1, 2, .none,
    [⟨63, 0, .ro, true, fun _ => 0⟩]⟩,
  /- LANE_GUSTS -/ ⟨0x58, 0, 1, 0, 1, 1, .none,
    [⟨31, 0, .ro, true, fun _ => 0⟩]⟩,
  /- LANE_REPLAYS -/ ⟨0x5c, 0, 1, 0, 1, 1, .none,
    [⟨31, 0, .ro, true, fun _ => 0⟩]⟩,
  /- LANE_LAST_FAULT_TS -/ ⟨0x60, 0, 1, 0, 1, 2, .none,
    [⟨63, 0, .ro, true, fun _ => 0⟩]⟩,
  /- LANE_OCC -/ ⟨0x68, 0, 1, 0, 1, 1, .none,
    [⟨14, 8, .ro, false, fun _ => 0⟩, ⟨5, 0, .ro, false, fun _ => 0⟩]⟩]

/-- Registers of the SCHED page (ch. 04). -/
def regsSched : List RegSpec := [
  /- SCHED_CLASS -/ ⟨0x40, 4, 8, 0, 1, 1, .none,
    [⟨23, 16, .rws, false, fun _ => 0⟩, ⟨15, 8, .rws, false, schedShareReset⟩, ⟨1, 0, .rws, false, schedPrioReset⟩]⟩,
  /- SCHED_CMD -/ ⟨0x60, 0, 1, 0, 1, 1, .none,
    [⟨0, 0, .wo, false, fun _ => 0⟩]⟩,
  /- SCHED_STAT -/ ⟨0x64, 0, 1, 0, 1, 1, .none,
    [⟨18, 18, .ro, false, fun _ => 1⟩, ⟨17, 17, .ro, false, fun _ => 0⟩, ⟨16, 16, .ro, false, fun _ => 0⟩, ⟨11, 8, .ro, false, fun _ => 0⟩, ⟨7, 4, .ro, false, fun _ => 0⟩, ⟨2, 0, .ro, false, fun _ => 0⟩]⟩,
  /- SCHED_WAIT -/ ⟨0x80, 4, 8, 0, 1, 1, .none,
    [⟨31, 16, .rc, false, fun _ => 0⟩, ⟨15, 0, .ro, false, fun _ => 0⟩]⟩,
  /- SCHED_SLOTS -/ ⟨0xa0, 8, 8, 0, 1, 2, .none,
    [⟨63, 0, .ro, true, fun _ => 0⟩]⟩]

/-- Registers of the QUEUE pages (R175). -/
def regsQueueA : List RegSpec := [
  /- QUEUE_TNT_QUOTA_A -/ ⟨0x40, 0, 1, 0, 1, 1, .none,
    [⟨27, 16, .rws, false, fun _ => 0x100⟩, ⟨6, 0, .rws, false, fun _ => 8⟩]⟩,
  /- QUEUE_TNT_QUOTA_B -/ ⟨0x44, 0, 1, 0, 1, 1, .none,
    [⟨25, 16, .rws, false, fun _ => 0x40⟩, ⟨13, 0, .rws, false, fun _ => 0x400⟩]⟩,
  /- QUEUE_TNT_QUOTA_C -/ ⟨0x48, 0, 1, 0, 1, 1, .none,
    [⟨31, 24, .rws, false, fun _ => 0x20⟩, ⟨15, 0, .rws, false, fun _ => 0x400⟩]⟩,
  /- QUEUE_TNT_USE_A -/ ⟨0x4c, 0, 1, 0, 1, 1, .none,
    [⟨27, 16, .ro, true, fun _ => 0⟩, ⟨6, 0, .ro, false, fun _ => 0⟩]⟩,
  /- QUEUE_TNT_USE_B -/ ⟨0x50, 0, 1, 0, 1, 1, .none,
    [⟨25, 16, .ro, false, fun _ => 0⟩, ⟨13, 0, .ro, false, fun _ => 0⟩]⟩,
  /- QUEUE_TNT_STAT -/ ⟨0x54, 0, 1, 0, 1, 1, .none,
    [⟨31, 16, .ro, false, fun _ => 0⟩, ⟨5, 5, .ro, false, fun _ => 0⟩, ⟨3, 3, .ro, false, fun _ => 0⟩, ⟨2, 2, .ro, false, fun _ => 0⟩, ⟨1, 1, .ro, false, fun _ => 0⟩, ⟨0, 0, .ro, false, fun _ => 0⟩]⟩,
  /- QUEUE_TNT_REFUSED -/ ⟨0x58, 0, 1, 0, 1, 1, .none,
    [⟨31, 0, .rc, false, fun _ => 0⟩]⟩,
  /- QUEUE_Q_CFG -/ ⟨0x80, 64, 4, 0, 1, 1, .page,
    [⟨31, 20, .rws, true, fun _ => 0⟩, ⟨18, 16, .rws, true, fun _ => 0⟩, ⟨15, 12, .rws, true, fun _ => 5⟩, ⟨11, 8, .rws, true, fun _ => 4⟩]⟩,
  /- QUEUE_Q_VER -/ ⟨0x84, 64, 4, 0, 1, 1, .page,
    [⟨18, 16, .ro, true, fun _ => 0⟩, ⟨2, 0, .rws, false, fun _ => 0⟩]⟩,
  /- QUEUE_Q_CBASE -/ ⟨0x88, 64, 4, 0, 1, 2, .page,
    [⟨39, 0, .rws, true, fun _ => 0⟩]⟩,
  /- QUEUE_Q_RBASE -/ ⟨0x90, 64, 4, 0, 1, 2, .page,
    [⟨39, 0, .rws, true, fun _ => 0⟩]⟩,
  /- QUEUE_Q_CTAIL -/ ⟨0x98, 64, 4, 0, 1, 1, .none,
    [⟨15, 0, .rw, true, fun _ => 0⟩]⟩]

/-- Registers of the QUEUE pages (R175). -/
def regsQueueB : List RegSpec := [
  /- QUEUE_Q_RHEAD -/ ⟨0xa0, 64, 4, 0, 1, 1, .none,
    [⟨15, 0, .rw, true, fun _ => 0⟩]⟩,
  /- QUEUE_Q_CHEAD -/ ⟨0x9c, 64, 4, 0, 1, 1, .none,
    [⟨15, 0, .ro, true, fun _ => 0⟩]⟩,
  /- QUEUE_Q_RTAIL -/ ⟨0xa4, 64, 4, 0, 1, 1, .none,
    [⟨15, 0, .ro, true, fun _ => 0⟩]⟩,
  /- QUEUE_Q_CTL -/ ⟨0xa8, 64, 4, 0, 1, 1, .none,
    [⟨2, 2, .wo, false, fun _ => 0⟩, ⟨0, 0, .rw, false, fun _ => 0⟩]⟩,
  /- QUEUE_Q_STAT -/ ⟨0xac, 64, 4, 0, 1, 1, .none,
    [⟨31, 24, .ro, false, fun _ => 0⟩, ⟨23, 12, .ro, false, fun _ => 0⟩, ⟨8, 8, .ro, false, fun _ => 0⟩, ⟨7, 7, .ro, false, fun _ => 0⟩, ⟨6, 6, .ro, false, fun _ => 0⟩, ⟨5, 5, .ro, false, fun _ => 0⟩, ⟨4, 4, .ro, false, fun _ => 0⟩, ⟨3, 3, .ro, false, fun _ => 0⟩, ⟨2, 2, .ro, false, fun _ => 0⟩, ⟨1, 0, .ro, false, fun _ => 0⟩]⟩,
  /- QUEUE_Q_ERR -/ ⟨0xb0, 64, 4, 0, 1, 1, .none,
    [⟨31, 24, .rc, false, fun _ => 0⟩, ⟨23, 16, .ro, false, fun _ => 0⟩, ⟨15, 0, .ro, false, fun _ => 0⟩]⟩,
  /- QUEUE_Q_SEQ -/ ⟨0xb4, 64, 4, 0, 1, 1, .none,
    [⟨31, 0, .ro, true, fun _ => 0⟩]⟩]

/-- Registers of the QUEUE pages. -/
def regsQueue : List RegSpec := regsQueueA ++ regsQueueB

/-- Registers of the STREAM page (ch. 06). -/
def regsStream : List RegSpec := [
  /- STRM_GCFG -/ ⟨0x40, 0, 1, 0, 1, 1, .none,
    [⟨31, 31, .rws, false, fun _ => 1⟩, ⟨15, 0, .rws, false, fun _ => 0xc8⟩]⟩,
  /- STRM_MACRO_CFG -/ ⟨0x44, 0, 1, 0, 1, 1, .none,
    [⟨23, 16, .rws, false, fun _ => 3⟩, ⟨15, 0, .rws, false, fun _ => 0x3e8⟩]⟩,
  /- STRM_MACRO_FENCED -/ ⟨0x48, 0, 1, 0, 1, 1, .none,
    [⟨23, 0, .ro, true, fun _ => 0⟩]⟩,
  /- STRM_MACRO_RECON -/ ⟨0x4c, 0, 1, 0, 1, 1, .none,
    [⟨31, 0, .ro, true, fun _ => 0⟩]⟩,
  /- STRM_SEG_PARKED -/ ⟨0x50, 0, 1, 0, 1, 1, .none,
    [⟨7, 0, .ro, false, fun _ => 0⟩]⟩]

/-- Registers of the STRMP pages (R215). -/
def regsStrmpA : List RegSpec := [
  /- STRM_P_CFG -/ ⟨0x80, 64, 8, 0, 1, 1, .page,
    [⟨31, 29, .rws, true, fun _ => 0⟩, ⟨25, 16, .rws, true, portMaxItemReset⟩, ⟨3, 2, .ro, true, portProfileReset⟩, ⟨1, 1, .rws, true, fun _ => 0⟩, ⟨0, 0, .rws, true, fun _ => 0⟩]⟩,
  /- STRM_P_WM -/ ⟨0x84, 64, 8, 0, 1, 1, .none,
    [⟨26, 16, .rws, false, portHighReset⟩, ⟨10, 0, .rws, false, portLowReset⟩]⟩,
  /- STRM_P_CTL -/ ⟨0x88, 64, 8, 0, 1, 1, .none,
    [⟨4, 4, .wo, false, fun _ => 0⟩, ⟨3, 3, .wo, false, fun _ => 0⟩, ⟨2, 2, .wo, false, fun _ => 0⟩, ⟨1, 1, .wo, false, fun _ => 0⟩, ⟨0, 0, .rw, false, fun _ => 0⟩]⟩,
  /- STRM_P_STAT -/ ⟨0x8c, 64, 8, 0, 1, 1, .none,
    [⟨11, 11, .ro, false, fun _ => 0⟩, ⟨10, 10, .ro, false, fun _ => 0⟩, ⟨9, 9, .ro, false, fun _ => 0⟩, ⟨8, 8, .ro, false, fun _ => 0⟩, ⟨7, 7, .ro, false, fun _ => 0⟩, ⟨6, 6, .ro, false, fun _ => 0⟩, ⟨5, 5, .ro, false, fun _ => 0⟩, ⟨2, 2, .ro, false, fun _ => 0⟩, ⟨1, 0, .ro, false, fun _ => 0⟩]⟩,
  /- STRM_P_EVT -/ ⟨0x90, 64, 8, 0, 1, 1, .none,
    [⟨5, 5, .w1c, false, fun _ => 0⟩, ⟨4, 4, .w1c, false, fun _ => 0⟩, ⟨3, 3, .w1c, false, fun _ => 0⟩, ⟨2, 2, .w1c, false, fun _ => 0⟩, ⟨1, 1, .w1c, false, fun _ => 0⟩, ⟨0, 0, .w1c, false, fun _ => 0⟩]⟩,
  /- STRM_P_LEVEL -/ ⟨0x94, 64, 8, 0, 1, 1, .none,
    [⟨26, 16, .rc, false, fun _ => 0⟩, ⟨10, 0, .ro, false, fun _ => 0⟩]⟩,
  /- STRM_P_RX_OK -/ ⟨0x98, 64, 8, 0, 1, 1, .none,
    [⟨31, 0, .ro, true, fun _ => 0⟩]⟩,
  /- STRM_P_RX_AUTH_FAIL -/ ⟨0x9c, 64, 8, 0, 1, 1, .none,
    [⟨31, 0, .ro, true, fun _ => 0⟩]⟩,
  /- STRM_P_RX_LATE -/ ⟨0xa0, 64, 8, 0, 1, 1, .none,
    [⟨31, 0, .ro, true, fun _ => 0⟩]⟩,
  /- STRM_P_RX_NOSA -/ ⟨0xa4, 64, 8, 0, 1, 1, .none,
    [⟨31, 0, .ro, true, fun _ => 0⟩]⟩,
  /- STRM_P_RX_BADTAG -/ ⟨0xa8, 64, 8, 0, 1, 1, .none,
    [⟨31, 0, .ro, true, fun _ => 0⟩]⟩,
  /- STRM_P_RX_UNTAGGED -/ ⟨0xac, 64, 8, 0, 1, 1, .none,
    [⟨31, 0, .ro, true, fun _ => 0⟩]⟩]

/-- Registers of the STRMP pages (R215). -/
def regsStrmpB : List RegSpec := [
  /- STRM_P_TX_PROTECTED -/ ⟨0xb0, 64, 8, 0, 1, 1, .none,
    [⟨31, 0, .ro, true, fun _ => 0⟩]⟩,
  /- STRM_P_TX_CLEAR -/ ⟨0xb4, 64, 8, 0, 1, 1, .none,
    [⟨31, 0, .ro, true, fun _ => 0⟩]⟩,
  /- STRM_P_VOIDED -/ ⟨0xb8, 64, 8, 0, 1, 1, .none,
    [⟨31, 0, .ro, true, fun _ => 0⟩]⟩,
  /- STRM_P_TRUNCATED -/ ⟨0xbc, 64, 8, 0, 1, 1, .none,
    [⟨31, 0, .ro, true, fun _ => 0⟩]⟩]

/-- Registers of the STRMP pages. -/
def regsStrmp : List RegSpec := regsStrmpA ++ regsStrmpB

/-- Registers of the BRIDLE page (R241). -/
def regsBridleA : List RegSpec := [
  /- BRIDLE_CFG -/ ⟨0x40, 0, 1, 0, 1, 1, .none,
    [⟨0, 0, .rws, false, fun _ => 0⟩]⟩,
  /- BRIDLE_STAT -/ ⟨0x44, 0, 1, 0, 1, 1, .none,
    [⟨23, 16, .ro, false, fun _ => 0⟩, ⟨7, 0, .ro, false, fun _ => 0⟩]⟩,
  /- BRIDLE_CUT_ABORTS -/ ⟨0x48, 0, 1, 0, 1, 1, .none,
    [⟨31, 0, .ro, true, fun _ => 0⟩]⟩,
  /- BRIDLE_UNDERRUNS -/ ⟨0x4c, 0, 1, 0, 1, 1, .none,
    [⟨31, 0, .ro, true, fun _ => 0⟩]⟩,
  /- BRIDLE_SINGLE_LANE -/ ⟨0x50, 0, 1, 0, 1, 1, .none,
    [⟨31, 0, .ro, true, fun _ => 0⟩]⟩,
  /- BRIDLE_LOOP -/ ⟨0x100, 4, 4, 0, 1, 1, .loop,
    [⟨16, 16, .ro, false, fun _ => 0⟩, ⟨15, 15, .rws, true, fun _ => 0⟩, ⟨12, 8, .rws, true, fun _ => 0⟩, ⟨4, 0, .rws, true, fun _ => 0⟩]⟩,
  /- BRIDLE_TMPL_A -/ ⟨0x400, 16, 16, 0, 1, 1, .none,
    [⟨31, 0, .rws, true, fun _ => 0⟩]⟩,
  /- BRIDLE_TMPL_B -/ ⟨0x404, 16, 16, 0, 1, 1, .none,
    [⟨31, 16, .rws, true, fun _ => 0⟩, ⟨15, 0, .rws, true, fun _ => 0⟩]⟩,
  /- BRIDLE_TMPL_C -/ ⟨0x408, 16, 16, 0, 1, 1, .none,
    [⟨31, 0, .rws, true, fun _ => 0⟩]⟩,
  /- BRIDLE_TMPL_D -/ ⟨0x40c, 16, 16, 0, 1, 1, .none,
    [⟨31, 16, .rws, true, fun _ => 0x88b5⟩]⟩,
  /- BRIDLE_PAIR_CFG -/ ⟨0x800, 16, 128, 0, 1, 1, .pair,
    [⟨31, 30, .rws, true, fun _ => 0⟩, ⟨29, 26, .rws, true, fun _ => 0⟩, ⟨25, 25, .rws, true, fun _ => 0⟩, ⟨20, 16, .rws, true, fun _ => 0⟩, ⟨9, 0, .rws, true, fun _ => 1⟩]⟩,
  /- BRIDLE_PAIR_SA -/ ⟨0x804, 16, 128, 0, 1, 1, .pair,
    [⟨28, 16, .rws, true, fun _ => 0⟩, ⟨12, 0, .rws, true, fun _ => 0⟩]⟩]

/-- Registers of the BRIDLE page (R241). -/
def regsBridleB : List RegSpec := [
  /- BRIDLE_PAIR_CTL -/ ⟨0x808, 16, 128, 0, 1, 1, .none,
    [⟨31, 16, .ro, true, fun _ => 0⟩, ⟨6, 6, .ro, false, fun _ => 0⟩, ⟨5, 5, .ro, false, fun _ => 0⟩, ⟨4, 4, .ro, false, fun _ => 0⟩, ⟨3, 2, .ro, false, fun _ => 0⟩, ⟨0, 0, .rw, false, fun _ => 0⟩]⟩,
  /- BRIDLE_PAIR_FRAMES -/ ⟨0x80c, 16, 128, 0, 1, 1, .none,
    [⟨31, 0, .ro, true, fun _ => 0⟩]⟩]

/-- Registers of the BRIDLE page. -/
def regsBridle : List RegSpec := regsBridleA ++ regsBridleB

/-- Registers of the ASSOC page (ch. 08). -/
def regsAssoc : List RegSpec := [
  /- ASSOC_CFG -/ ⟨0x40, 0, 1, 0, 1, 1, .none,
    [⟨4, 0, .rws, false, fun _ => 4⟩]⟩,
  /- ASSOC_CMD -/ ⟨0x44, 0, 1, 0, 1, 1, .none,
    [⟨31, 28, .wo, false, fun _ => 0⟩, ⟨27, 27, .wo, false, fun _ => 0⟩, ⟨20, 16, .wo, false, fun _ => 0⟩, ⟨12, 0, .wo, false, fun _ => 0⟩]⟩,
  /- ASSOC_CMD_STAT -/ ⟨0x48, 0, 1, 0, 1, 1, .none,
    [⟨31, 31, .ro, false, fun _ => 0⟩, ⟨23, 16, .ro, false, fun _ => 0⟩, ⟨13, 0, .ro, false, fun _ => 0⟩]⟩,
  /- ASSOC_LOC -/ ⟨0x4c, 0, 1, 0, 1, 1, .none,
    [⟨28, 16, .ro, false, fun _ => 0⟩, ⟨15, 15, .ro, false, fun _ => 0⟩, ⟨14, 14, .ro, false, fun _ => 0⟩, ⟨13, 4, .ro, false, fun _ => 0⟩, ⟨3, 0, .ro, false, fun _ => 0⟩]⟩,
  /- ASSOC_OCC -/ ⟨0x50, 0, 1, 0, 1, 1, .none,
    [⟨20, 16, .ro, false, fun _ => 0⟩, ⟨13, 0, .ro, false, fun _ => 0⟩]⟩,
  /- ASSOC_MOVES -/ ⟨0x54, 0, 1, 0, 1, 1, .none,
    [⟨21, 16, .rc, false, fun _ => 0⟩, ⟨5, 0, .ro, false, fun _ => 0⟩]⟩,
  /- ASSOC_FULL -/ ⟨0x58, 0, 1, 0, 1, 1, .none,
    [⟨31, 0, .ro, false, fun _ => 0⟩]⟩,
  /- ASSOC_ENTRY -/ ⟨0x80, 4, 16, 0, 1, 1, .none,
    [⟨31, 0, .rw, false, fun _ => 0⟩]⟩]

/-- Registers of the LEARN page (ch. 08). -/
def regsLearn : List RegSpec := [
  /- LEARN_PORTS -/ ⟨0x40, 0, 1, 0, 1, 1, .none,
    [⟨31, 0, .rws, false, fun _ => 0⟩]⟩,
  /- LEARN_HOLD -/ ⟨0x44, 0, 1, 0, 1, 1, .none,
    [⟨15, 0, .rws, false, fun _ => 0x7d0⟩]⟩,
  /- LEARN_AGE -/ ⟨0x48, 0, 1, 0, 1, 1, .none,
    [⟨31, 31, .rws, false, fun _ => 0⟩, ⟨23, 16, .rws, false, fun _ => 0x3c⟩, ⟨15, 0, .rws, false, fun _ => 0⟩]⟩,
  /- LEARN_GRP -/ ⟨0x50, 4, 4, 0, 1, 1, .none,
    [⟨31, 24, .rws, false, fun _ => 0⟩, ⟨23, 16, .rws, false, fun _ => 0⟩, ⟨15, 8, .rws, false, fun _ => 0⟩, ⟨7, 0, .rws, false, fun _ => 0⟩]⟩,
  /- LEARN_CMD -/ ⟨0x60, 0, 1, 0, 1, 1, .none,
    [⟨31, 28, .wo, false, fun _ => 0⟩, ⟨11, 0, .wo, false, fun _ => 0⟩]⟩,
  /- LEARN_CMD_STAT -/ ⟨0x64, 0, 1, 0, 1, 1, .none,
    [⟨31, 31, .ro, false, fun _ => 0⟩, ⟨23, 16, .ro, false, fun _ => 0⟩]⟩,
  /- LEARN_OCC -/ ⟨0x68, 0, 1, 0, 1, 1, .none,
    [⟨28, 16, .ro, false, fun _ => 0⟩, ⟨12, 0, .ro, false, fun _ => 0⟩]⟩,
  /- LEARN_REFUSED -/ ⟨0x6c, 0, 1, 0, 1, 1, .none,
    [⟨31, 24, .ro, false, fun _ => 0⟩, ⟨15, 0, .rc, false, fun _ => 0⟩]⟩,
  /- LEARN_MOVES -/ ⟨0x70, 0, 1, 0, 1, 1, .none,
    [⟨31, 16, .ro, false, fun _ => 0⟩, ⟨15, 0, .ro, false, fun _ => 0⟩]⟩,
  /- LEARN_CTX -/ ⟨0x80, 4, 16, 0, 1, 1, .none,
    [⟨31, 0, .ro, false, fun _ => 0⟩]⟩]

/-- Registers of the TRIE page (ch. 08). -/
def regsTrie : List RegSpec := [
  /- TRIE_PORTS -/ ⟨0x40, 0, 1, 0, 1, 1, .none,
    [⟨31, 0, .rws, false, fun _ => 0⟩]⟩,
  /- TRIE_CMD -/ ⟨0x44, 0, 1, 0, 1, 1, .none,
    [⟨31, 28, .wo, false, fun _ => 0⟩, ⟨10, 0, .wo, false, fun _ => 0⟩]⟩,
  /- TRIE_CMD_STAT -/ ⟨0x48, 0, 1, 0, 1, 1, .none,
    [⟨31, 31, .ro, false, fun _ => 0⟩, ⟨23, 16, .ro, false, fun _ => 0⟩, ⟨11, 0, .ro, false, fun _ => 0⟩]⟩,
  /- TRIE_RULE_CTL -/ ⟨0x4c, 0, 1, 0, 1, 1, .none,
    [⟨31, 30, .ro, false, fun _ => 0⟩, ⟨29, 29, .rw, false, fun _ => 0⟩, ⟨22, 16, .rw, false, fun _ => 0⟩, ⟨12, 0, .rw, false, fun _ => 0⟩]⟩,
  /- TRIE_RULE_PREFIX -/ ⟨0x50, 0, 1, 0, 1, 2, .none,
    [⟨63, 0, .rw, false, fun _ => 0⟩]⟩,
  /- TRIE_COUNT -/ ⟨0x58, 0, 1, 0, 1, 1, .none,
    [⟨27, 16, .ro, false, fun _ => 0⟩, ⟨11, 0, .ro, false, fun _ => 0⟩]⟩,
  /- TRIE_MISMATCH -/ ⟨0x5c, 0, 1, 0, 1, 1, .none,
    [⟨31, 0, .ro, false, fun _ => 0⟩]⟩]

/-- Registers of the FRESH page (ch. 09). -/
def regsFreshA : List RegSpec := [
  /- FRESH_CFG -/ ⟨0x40, 0, 1, 0, 1, 1, .none,
    [⟨28, 24, .rws, false, fun _ => 0x18⟩, ⟨20, 16, .rws, false, fun _ => 0x10⟩, ⟨15, 8, .rws, false, fun _ => 0x40⟩]⟩,
  /- FRESH_STAT -/ ⟨0x44, 0, 1, 0, 1, 1, .none,
    [⟨28, 24, .ro, false, fun _ => 0x10⟩, ⟨17, 17, .ro, false, fun _ => 0⟩, ⟨16, 16, .ro, false, fun _ => 0⟩, ⟨13, 0, .ro, false, fun _ => 0⟩]⟩,
  /- FRESH_CEILING -/ ⟨0x48, 0, 1, 0, 1, 2, .none,
    [⟨63, 0, .ro, true, fun _ => 0⟩]⟩,
  /- FRESH_FLOOR -/ ⟨0x50, 0, 1, 0, 1, 2, .none,
    [⟨63, 0, .ro, true, fun _ => 0⟩]⟩,
  /- FRESH_EXH_LAST -/ ⟨0x58, 0, 1, 0, 1, 1, .none,
    [⟨31, 31, .ro, false, fun _ => 0⟩, ⟨19, 16, .ro, false, fun _ => 0⟩, ⟨12, 0, .ro, false, fun _ => 0⟩]⟩,
  /- FRESH_CMD -/ ⟨0x5c, 0, 1, 0, 1, 1, .none,
    [⟨31, 28, .wo, false, fun _ => 0⟩, ⟨20, 16, .wo, false, fun _ => 0⟩, ⟨12, 0, .wo, false, fun _ => 0⟩]⟩,
  /- FRESH_VALUE -/ ⟨0x60, 0, 1, 0, 1, 2, .none,
    [⟨63, 0, .rw, false, fun _ => 0⟩]⟩,
  /- FRESH_CMD_STAT -/ ⟨0x68, 0, 1, 0, 1, 1, .none,
    [⟨31, 31, .ro, false, fun _ => 0⟩, ⟨23, 16, .ro, false, fun _ => 0⟩]⟩,
  /- FRESH_JUMP_LAST -/ ⟨0x6c, 0, 1, 0, 1, 1, .none,
    [⟨12, 0, .ro, false, fun _ => 0⟩]⟩,
  /- FRESH_CEIL_WAITS -/ ⟨0x70, 0, 1, 0, 1, 1, .none,
    [⟨31, 0, .rc, false, fun _ => 0⟩]⟩,
  /- FRESH_SW_CTL -/ ⟨0x400, 64, 32, 0, 1, 1, .none,
    [⟨31, 30, .ro, false, fun _ => 0⟩, ⟨29, 28, .rw, false, fun _ => 0⟩, ⟨27, 27, .ro, false, fun _ => 0⟩, ⟨17, 17, .rw, false, fun _ => 0⟩, ⟨16, 16, .rw, false, fun _ => 0⟩, ⟨12, 0, .rw, false, fun _ => 0⟩]⟩,
  /- FRESH_SW_SLOTS -/ ⟨0x404, 64, 32, 0, 1, 1, .none,
    [⟨24, 16, .rw, false, fun _ => 0⟩, ⟨8, 0, .rw, false, fun _ => 0⟩]⟩]

/-- Registers of the FRESH page (ch. 09). -/
def regsFreshB : List RegSpec := [
  /- FRESH_SW_AUX -/ ⟨0x408, 64, 32, 0, 1, 1, .none,
    [⟨31, 30, .rw, false, fun _ => 0⟩, ⟨28, 16, .rw, false, fun _ => 0⟩, ⟨15, 0, .rw, false, fun _ => 0x1388⟩]⟩,
  /- FRESH_SW_SSCI -/ ⟨0x40c, 64, 32, 0, 1, 1, .none,
    [⟨31, 0, .rw, false, fun _ => 0⟩]⟩,
  /- FRESH_SW_AT -/ ⟨0x410, 64, 32, 0, 1, 2, .none,
    [⟨63, 0, .rw, false, fun _ => 0xffffffffffffffff⟩]⟩,
  /- FRESH_SW_START -/ ⟨0x418, 64, 32, 0, 1, 2, .none,
    [⟨63, 0, .rw, false, fun _ => 1⟩]⟩,
  /- FRESH_SW_SALT -/ ⟨0x420, 64, 32, 0, 1, 3, .none,
    [⟨95, 0, .rw, false, fun _ => 0⟩]⟩,
  /- FRESH_SW_TS -/ ⟨0x430, 64, 32, 0, 1, 2, .none,
    [⟨63, 0, .ro, false, fun _ => 0⟩]⟩,
  /- FRESH_SW_SEQ -/ ⟨0x438, 64, 32, 0, 1, 1, .none,
    [⟨15, 0, .ro, false, fun _ => 0⟩]⟩]

/-- Registers of the FRESH page. -/
def regsFresh : List RegSpec := regsFreshA ++ regsFreshB

/-- Registers of the ANCHOR page (ch. 09). -/
def regsAnchor : List RegSpec := [
  /- ANCHOR_STAT -/ ⟨0x40, 0, 1, 0, 1, 1, .none,
    [⟨29, 24, .ro, true, fun _ => 0⟩, ⟨21, 16, .ro, true, fun _ => 0⟩, ⟨12, 8, .ro, true, fun _ => 0⟩]⟩,
  /- ANCHOR_RATE -/ ⟨0x44, 0, 1, 0, 1, 1, .none,
    [⟨24, 16, .ro, true, fun _ => 0⟩, ⟨8, 0, .ro, true, fun _ => 0⟩]⟩,
  /- ANCHOR_SEQ -/ ⟨0x48, 0, 1, 0, 1, 2, .none,
    [⟨63, 0, .ro, true, fun _ => 0⟩]⟩,
  /- ANCHOR_BAD -/ ⟨0x50, 0, 1, 0, 1, 2, .none,
    [⟨63, 0, .ro, true, fun _ => 0⟩]⟩,
  /- ANCHOR_RESETS -/ ⟨0x58, 0, 1, 0, 1, 1, .none,
    [⟨31, 0, .ro, true, fun _ => 0⟩]⟩,
  /- ANCHOR_FAILS -/ ⟨0x5c, 0, 1, 0, 1, 1, .none,
    [⟨31, 0, .ro, true, fun _ => 0⟩]⟩,
  /- ANCHOR_CMD -/ ⟨0x60, 0, 1, 0, 1, 1, .none,
    [⟨31, 28, .wo, true, fun _ => 0⟩, ⟨5, 0, .wo, true, fun _ => 0⟩]⟩,
  /- ANCHOR_CMD_STAT -/ ⟨0x64, 0, 1, 0, 1, 1, .none,
    [⟨31, 31, .ro, false, fun _ => 0⟩, ⟨17, 17, .ro, false, fun _ => 0⟩, ⟨16, 16, .ro, false, fun _ => 0⟩, ⟨5, 0, .ro, false, fun _ => 0⟩]⟩,
  /- ANCHOR_REC -/ ⟨0x80, 4, 16, 0, 1, 1, .none,
    [⟨31, 0, .ro, true, fun _ => 0⟩]⟩]

/-- Registers of the MEM page (R356). -/
def regsMemA : List RegSpec := [
  /- MEM_CFG -/ ⟨0x40, 0, 1, 0, 1, 1, .none,
    [⟨31, 31, .rws, false, fun _ => 0⟩]⟩,
  /- MEM_CMD -/ ⟨0x44, 0, 1, 0, 1, 1, .none,
    [⟨31, 28, .wo, false, fun _ => 0⟩, ⟨3, 0, .wo, false, fun _ => 0⟩]⟩,
  /- MEM_CMD_STAT -/ ⟨0x48, 0, 1, 0, 1, 1, .none,
    [⟨31, 31, .ro, false, fun _ => 0⟩, ⟨23, 16, .ro, false, fun _ => 0⟩, ⟨3, 0, .ro, false, fun _ => 0⟩]⟩,
  /- MEM_OVF -/ ⟨0x4c, 0, 1, 0, 1, 1, .none,
    [⟨21, 16, .rc, false, fun _ => 0⟩, ⟨15, 0, .ro, false, fun _ => 0⟩]⟩,
  /- MEM_INTEG -/ ⟨0x50, 0, 1, 0, 1, 1, .none,
    [⟨31, 0, .ro, true, fun _ => 0⟩]⟩,
  /- MEM_LATE -/ ⟨0x54, 0, 1, 0, 1, 1, .none,
    [⟨31, 0, .ro, true, fun _ => 0⟩]⟩,
  /- MEM_POISONED -/ ⟨0x58, 0, 1, 0, 1, 1, .none,
    [⟨31, 0, .ro, true, fun _ => 0⟩]⟩,
  /- MEM_MEDIA -/ ⟨0x5c, 0, 1, 0, 1, 1, .none,
    [⟨31, 0, .ro, true, fun _ => 0⟩]⟩,
  /- MEM_REFUSED_WR -/ ⟨0x60, 0, 1, 0, 1, 1, .none,
    [⟨31, 16, .ro, true, fun _ => 0⟩, ⟨15, 0, .ro, true, fun _ => 0⟩]⟩,
  /- MEM_REFUSED_RIGHTS -/ ⟨0x64, 0, 1, 0, 1, 1, .none,
    [⟨31, 0, .ro, true, fun _ => 0⟩]⟩,
  /- MEM_FAIL_INFO -/ ⟨0x68, 0, 1, 0, 1, 1, .none,
    [⟨31, 28, .ro, true, fun _ => 0⟩, ⟨27, 24, .ro, true, fun _ => 0⟩, ⟨23, 22, .ro, true, fun _ => 0⟩, ⟨21, 20, .ro, true, fun _ => 0⟩, ⟨19, 19, .ro, true, fun _ => 0⟩, ⟨11, 0, .ro, true, fun _ => 0⟩]⟩,
  /- MEM_FAIL_TID -/ ⟨0x6c, 0, 1, 0, 1, 1, .none,
    [⟨9, 0, .ro, true, fun _ => 0⟩]⟩]

/-- Registers of the MEM page (R356). -/
def regsMemB : List RegSpec := [
  /- MEM_FAIL_ADDR -/ ⟨0x70, 0, 1, 0, 1, 2, .none,
    [⟨39, 0, .ro, true, fun _ => 0⟩]⟩,
  /- MEM_FAIL_TS -/ ⟨0x78, 0, 1, 0, 1, 2, .none,
    [⟨63, 0, .ro, true, fun _ => 0⟩]⟩,
  /- MEM_MEDIA_TBL -/ ⟨0x80, 0, 1, 0, 1, 1, .none,
    [⟨6, 0, .ro, true, fun _ => 0⟩]⟩]

/-- Registers of the MEM page. -/
def regsMem : List RegSpec := regsMemA ++ regsMemB

/-- Registers of the MEMRGN pages (R357). -/
def regsMemrgn : List RegSpec := [
  /- MEMRGN_CTL -/ ⟨0x80, 64, 8, 0, 1, 1, .none,
    [⟨10, 10, .wo, true, fun _ => 0⟩, ⟨9, 9, .ro, true, fun _ => 0⟩, ⟨8, 8, .ro, true, fun _ => 0⟩, ⟨7, 7, .ro, true, fun _ => 0⟩, ⟨6, 6, .ro, true, fun _ => 0⟩, ⟨5, 5, .ro, true, fun _ => 0⟩, ⟨4, 4, .ro, false, fun _ => 0⟩, ⟨3, 2, .ro, false, fun _ => 0⟩, ⟨0, 0, .rw, false, fun _ => 0⟩]⟩,
  /- MEMRGN_CFG -/ ⟨0x84, 64, 8, 0, 1, 1, .region,
    [⟨31, 30, .rws, true, fun _ => 0⟩, ⟨29, 29, .rws, true, fun _ => 0⟩, ⟨28, 28, .rws, true, fun _ => 0⟩, ⟨27, 27, .rws, true, fun _ => 0⟩, ⟨26, 25, .rws, true, fun _ => 0⟩, ⟨23, 22, .rws, true, fun _ => 0⟩, ⟨21, 20, .rws, true, fun _ => 0⟩]⟩,
  /- MEMRGN_BASE -/ ⟨0x88, 64, 8, 0, 1, 1, .region,
    [⟨27, 0, .rws, true, fun _ => 0⟩]⟩,
  /- MEMRGN_META -/ ⟨0x94, 64, 8, 0, 1, 1, .region,
    [⟨27, 0, .rws, true, fun _ => 0⟩]⟩,
  /- MEMRGN_MIRROR -/ ⟨0x98, 64, 8, 0, 1, 1, .region,
    [⟨27, 0, .rws, true, fun _ => 0⟩]⟩,
  /- MEMRGN_SIZE -/ ⟨0x8c, 64, 8, 0, 1, 1, .region,
    [⟨20, 0, .rws, true, fun _ => 0⟩]⟩,
  /- MEMRGN_KEY -/ ⟨0x90, 64, 8, 0, 1, 1, .region,
    [⟨24, 16, .rws, true, fun _ => 0⟩, ⟨8, 0, .rws, true, fun _ => 0⟩]⟩,
  /- MEMRGN_STAT -/ ⟨0x9c, 64, 8, 0, 1, 1, .none,
    [⟨31, 30, .ro, true, fun _ => 0⟩, ⟨29, 29, .ro, true, fun _ => 0⟩, ⟨28, 28, .ro, true, fun _ => 0⟩, ⟨27, 24, .ro, true, fun _ => 0⟩]⟩,
  /- MEMRGN_METALEN -/ ⟨0xa0, 64, 8, 0, 1, 1, .none,
    [⟨20, 0, .ro, true, fun _ => 0⟩]⟩,
  /- MEMRGN_FAILS -/ ⟨0xa4, 64, 8, 0, 1, 1, .none,
    [⟨31, 16, .ro, true, fun _ => 0⟩, ⟨15, 0, .ro, true, fun _ => 0⟩]⟩]

/-- Registers of the MEMCACHE page (ch. 10). -/
def regsMemcache : List RegSpec := [
  /- MEMCACHE_CFG -/ ⟨0x40, 0, 1, 0, 1, 1, .none,
    [⟨23, 16, .rws, false, fun _ => 3⟩, ⟨15, 0, .rws, false, fun _ => 0x3e8⟩]⟩,
  /- MEMCACHE_CDIRTY -/ ⟨0x44, 0, 1, 0, 1, 1, .none,
    [⟨27, 16, .rws, false, fun _ => 0x400⟩, ⟨11, 0, .rws, false, fun _ => 0x200⟩]⟩,
  /- MEMCACHE_TDIRTY -/ ⟨0x48, 0, 1, 0, 1, 1, .none,
    [⟨26, 16, .rws, false, fun _ => 0x200⟩, ⟨10, 0, .rws, false, fun _ => 0x100⟩]⟩,
  /- MEMCACHE_CMD -/ ⟨0x4c, 0, 1, 0, 1, 1, .none,
    [⟨0, 0, .wo, false, fun _ => 0⟩]⟩,
  /- MEMCACHE_OCC -/ ⟨0x50, 0, 1, 0, 1, 1, .none,
    [⟨27, 16, .ro, false, fun _ => 0⟩, ⟨10, 0, .ro, false, fun _ => 0⟩]⟩,
  /- MEMCACHE_CTR_HIT -/ ⟨0x54, 0, 1, 0, 1, 1, .none,
    [⟨31, 0, .ro, true, fun _ => 0⟩]⟩,
  /- MEMCACHE_CTR_MISS -/ ⟨0x58, 0, 1, 0, 1, 1, .none,
    [⟨31, 0, .ro, true, fun _ => 0⟩]⟩,
  /- MEMCACHE_TAG_HIT -/ ⟨0x5c, 0, 1, 0, 1, 1, .none,
    [⟨31, 0, .ro, true, fun _ => 0⟩]⟩,
  /- MEMCACHE_TAG_MISS -/ ⟨0x60, 0, 1, 0, 1, 1, .none,
    [⟨31, 0, .ro, true, fun _ => 0⟩]⟩,
  /- MEMCACHE_RECON -/ ⟨0x64, 0, 1, 0, 1, 1, .none,
    [⟨31, 0, .ro, true, fun _ => 0⟩]⟩]

/-- Registers of the KILN page (R384). -/
def regsKilnA : List RegSpec := [
  /- KILN_CFG -/ ⟨0x40, 0, 1, 0, 1, 1, .none,
    [⟨19, 16, .rws, false, fun _ => 8⟩, ⟨15, 0, .rws, false, fun _ => 0⟩]⟩,
  /- KILN_PASS -/ ⟨0x44, 0, 1, 0, 1, 1, .page,
    [⟨3, 0, .rws, false, fun _ => 0⟩]⟩,
  /- KILN_NEW_KEY -/ ⟨0x48, 0, 1, 0, 1, 1, .page,
    [⟨24, 16, .rws, false, fun _ => 0⟩, ⟨8, 0, .rws, false, fun _ => 0⟩]⟩,
  /- KILN_NEW_SIZE -/ ⟨0x4c, 0, 1, 0, 1, 1, .page,
    [⟨20, 0, .rws, false, fun _ => 0⟩]⟩,
  /- KILN_NEW_META -/ ⟨0x50, 0, 1, 0, 1, 1, .page,
    [⟨27, 0, .rws, false, fun _ => 0⟩]⟩,
  /- KILN_NEW_MIRROR -/ ⟨0x54, 0, 1, 0, 1, 1, .page,
    [⟨27, 0, .rws, false, fun _ => 0⟩]⟩,
  /- KILN_NEW_METALEN -/ ⟨0x58, 0, 1, 0, 1, 1, .none,
    [⟨20, 0, .ro, false, fun _ => 0⟩]⟩,
  /- KILN_CMD -/ ⟨0x5c, 0, 1, 0, 1, 1, .none,
    [⟨31, 28, .wo, false, fun _ => 0⟩]⟩,
  /- KILN_CMD_STAT -/ ⟨0x60, 0, 1, 0, 1, 1, .none,
    [⟨31, 31, .ro, false, fun _ => 0⟩, ⟨23, 16, .ro, false, fun _ => 0⟩]⟩,
  /- KILN_STAT -/ ⟨0x64, 0, 1, 0, 1, 1, .none,
    [⟨31, 16, .ro, true, fun _ => 0⟩, ⟨15, 12, .ro, true, fun _ => 0⟩, ⟨11, 8, .ro, true, fun _ => 0⟩, ⟨7, 6, .ro, true, fun _ => 0⟩, ⟨1, 0, .ro, true, fun _ => 0⟩]⟩,
  /- KILN_BOUND -/ ⟨0x68, 0, 1, 0, 1, 1, .none,
    [⟨20, 0, .ro, true, fun _ => 0⟩]⟩,
  /- KILN_OLD_SIZE -/ ⟨0x6c, 0, 1, 0, 1, 1, .none,
    [⟨20, 0, .ro, true, fun _ => 0⟩]⟩]

/-- Registers of the KILN page (R384). -/
def regsKilnB : List RegSpec := [
  /- KILN_DONE -/ ⟨0x70, 0, 1, 0, 1, 2, .none,
    [⟨63, 0, .ro, true, fun _ => 0⟩]⟩,
  /- KILN_CHUNKS -/ ⟨0x78, 0, 1, 0, 1, 1, .none,
    [⟨31, 0, .ro, true, fun _ => 0⟩]⟩,
  /- KILN_STALL -/ ⟨0x7c, 0, 1, 0, 1, 1, .none,
    [⟨31, 16, .rc, false, fun _ => 0⟩, ⟨15, 0, .rc, false, fun _ => 0⟩]⟩,
  /- KILN_LINES_FAILED -/ ⟨0x80, 0, 1, 0, 1, 1, .none,
    [⟨31, 0, .ro, true, fun _ => 0⟩]⟩]

/-- Registers of the KILN page. -/
def regsKiln : List RegSpec := regsKilnA ++ regsKilnB

/-- Registers of the TREE page (ch. 11). -/
def regsTree : List RegSpec := [
  /- TREE_REPAIRS -/ ⟨0x40, 0, 1, 0, 1, 1, .none,
    [⟨31, 0, .ro, true, fun _ => 0⟩]⟩,
  /- TREE_MIRROR_FAILS -/ ⟨0x44, 0, 1, 0, 1, 1, .none,
    [⟨31, 0, .ro, true, fun _ => 0⟩]⟩,
  /- TREE_CMD -/ ⟨0x48, 0, 1, 0, 1, 1, .none,
    [⟨31, 28, .wo, false, fun _ => 0⟩, ⟨4, 0, .wo, false, fun _ => 0⟩]⟩,
  /- TREE_CMD_STAT -/ ⟨0x4c, 0, 1, 0, 1, 1, .none,
    [⟨31, 31, .ro, false, fun _ => 0⟩, ⟨23, 16, .ro, false, fun _ => 0⟩]⟩,
  /- TREE_QUAR_ENTRY -/ ⟨0x50, 0, 1, 0, 1, 1, .none,
    [⟨31, 31, .ro, false, fun _ => 0⟩, ⟨27, 24, .ro, false, fun _ => 0⟩, ⟨21, 20, .ro, false, fun _ => 0⟩, ⟨19, 0, .ro, false, fun _ => 0⟩]⟩,
  /- TREE_QUAR_TS -/ ⟨0x58, 0, 1, 0, 1, 2, .none,
    [⟨63, 0, .ro, false, fun _ => 0⟩]⟩]

/-- Registers of the STOR page (R414). -/
def regsStorA : List RegSpec := [
  /- STOR_CFG -/ ⟨0x40, 0, 1, 0, 1, 1, .none,
    [⟨31, 31, .rws, false, fun _ => 0⟩]⟩,
  /- STOR_CMD -/ ⟨0x44, 0, 1, 0, 1, 1, .none,
    [⟨31, 28, .wo, false, fun _ => 0⟩, ⟨2, 0, .wo, false, fun _ => 0⟩]⟩,
  /- STOR_CMD_STAT -/ ⟨0x48, 0, 1, 0, 1, 1, .none,
    [⟨31, 31, .ro, false, fun _ => 0⟩, ⟨23, 16, .ro, false, fun _ => 0⟩, ⟨2, 0, .ro, false, fun _ => 0⟩]⟩,
  /- STOR_UNITS -/ ⟨0x4c, 0, 1, 0, 1, 2, .none,
    [⟨63, 0, .ro, true, fun _ => 0⟩]⟩,
  /- STOR_TAG_FAILS -/ ⟨0x54, 0, 1, 0, 1, 1, .none,
    [⟨31, 0, .ro, true, fun _ => 0⟩]⟩,
  /- STOR_VER_FAILS -/ ⟨0x58, 0, 1, 0, 1, 1, .none,
    [⟨31, 0, .ro, true, fun _ => 0⟩]⟩,
  /- STOR_REFUSED -/ ⟨0x5c, 0, 1, 0, 1, 1, .none,
    [⟨31, 0, .ro, true, fun _ => 0⟩]⟩,
  /- STOR_SLOT -/ ⟨0x100, 4, 64, 0, 1, 1, .none,
    [⟨31, 31, .rws, true, fun _ => 0⟩, ⟨8, 0, .rws, true, fun _ => 0⟩]⟩,
  /- STOR_PART_CTL -/ ⟨0x400, 64, 8, 0, 1, 1, .none,
    [⟨16, 16, .ro, true, fun _ => 0⟩, ⟨11, 8, .ro, true, fun _ => 0⟩, ⟨2, 0, .ro, true, fun _ => 0⟩]⟩,
  /- STOR_PART_CFG -/ ⟨0x404, 64, 8, 0, 1, 1, .page,
    [⟨31, 31, .rws, true, fun _ => 0⟩, ⟨30, 30, .rws, true, fun _ => 0⟩, ⟨5, 0, .rws, true, fun _ => 0⟩]⟩,
  /- STOR_PART_KEY -/ ⟨0x408, 64, 8, 0, 1, 1, .page,
    [⟨24, 16, .rws, true, fun _ => 0⟩, ⟨8, 0, .rws, true, fun _ => 0⟩]⟩,
  /- STOR_PART_FIRST -/ ⟨0x40c, 64, 8, 0, 1, 2, .page,
    [⟨47, 0, .rws, true, fun _ => 0⟩]⟩]

/-- Registers of the STOR page (R414). -/
def regsStorB : List RegSpec := [
  /- STOR_PART_COUNT -/ ⟨0x414, 64, 8, 0, 1, 1, .page,
    [⟨24, 0, .rws, true, fun _ => 0⟩]⟩,
  /- STOR_PART_TBL -/ ⟨0x418, 64, 8, 0, 1, 1, .page,
    [⟨27, 0, .rws, true, fun _ => 0⟩]⟩,
  /- STOR_PART_IMG -/ ⟨0x41c, 64, 8, 0, 1, 1, .page,
    [⟨27, 0, .rws, true, fun _ => 0⟩]⟩,
  /- STOR_PART_TBLLEN -/ ⟨0x420, 64, 8, 0, 1, 1, .none,
    [⟨20, 0, .ro, true, fun _ => 0⟩]⟩,
  /- STOR_PART_IMGLEN -/ ⟨0x424, 64, 8, 0, 1, 1, .none,
    [⟨20, 0, .ro, true, fun _ => 0⟩]⟩,
  /- STOR_PART_EPOCH -/ ⟨0x428, 64, 8, 0, 1, 2, .none,
    [⟨47, 0, .ro, true, fun _ => 0⟩]⟩,
  /- STOR_PART_SEAL_EPOCH -/ ⟨0x430, 64, 8, 0, 1, 2, .none,
    [⟨47, 0, .ro, true, fun _ => 0⟩]⟩,
  /- STOR_PART_DIRTY -/ ⟨0x438, 64, 8, 0, 1, 1, .none,
    [⟨16, 0, .ro, true, fun _ => 0⟩]⟩,
  /- STOR_PART_FAILS -/ ⟨0x43c, 64, 8, 0, 1, 1, .none,
    [⟨31, 16, .ro, true, fun _ => 0⟩, ⟨15, 0, .ro, true, fun _ => 0⟩]⟩]

/-- Registers of the STOR page. -/
def regsStor : List RegSpec := regsStorA ++ regsStorB

/-- Registers of the KEYS page (R462). -/
def regsKeys : List RegSpec := [
  /- KEYS_ROOT_STAT -/ ⟨0x40, 0, 1, 0, 1, 1, .none,
    [⟨3, 3, .ro, false, fun _ => 0⟩, ⟨2, 2, .ro, false, fun _ => 0⟩, ⟨1, 1, .ro, false, fun _ => 0⟩, ⟨0, 0, .ro, false, fun _ => 0⟩]⟩,
  /- KEYS_LC -/ ⟨0x44, 0, 1, 0, 1, 1, .none,
    [⟨23, 16, .ro, true, fun _ => 0⟩, ⟨15, 8, .ro, true, fun _ => 0⟩, ⟨3, 3, .ro, true, fun _ => 0⟩, ⟨2, 0, .ro, true, fun _ => 0⟩]⟩,
  /- KEYS_CMD -/ ⟨0x48, 0, 1, 0, 1, 1, .none,
    [⟨31, 28, .wo, false, fun _ => 0⟩, ⟨7, 0, .wo, false, fun _ => 0⟩]⟩,
  /- KEYS_CMD_STAT -/ ⟨0x4c, 0, 1, 0, 1, 1, .none,
    [⟨31, 31, .ro, false, fun _ => 0⟩, ⟨23, 16, .ro, false, fun _ => 0⟩]⟩,
  /- KEYS_PARK_BASE -/ ⟨0x50, 0, 1, 0, 1, 1, .none,
    [⟨27, 0, .rws, false, fun _ => 0⟩]⟩,
  /- KEYS_PARK_LEN -/ ⟨0x54, 0, 1, 0, 1, 1, .none,
    [⟨31, 0, .ro, false, fun _ => 0x2b⟩]⟩,
  /- KEYS_PARK_EPOCH -/ ⟨0x58, 0, 1, 0, 1, 2, .none,
    [⟨63, 0, .ro, true, fun _ => 0⟩]⟩,
  /- KEYS_PARK_STAT -/ ⟨0x60, 0, 1, 0, 1, 1, .none,
    [⟨31, 24, .ro, true, fun _ => 0⟩, ⟨9, 0, .ro, true, fun _ => 0⟩]⟩]

/-- Registers of the DERIVE page (R463). -/
def regsDerive : List RegSpec := [
  /- DERIVE_CMD -/ ⟨0x40, 0, 1, 0, 1, 1, .none,
    [⟨31, 28, .wo, false, fun _ => 0⟩, ⟨27, 27, .wo, false, fun _ => 0⟩, ⟨26, 24, .wo, false, fun _ => 0⟩, ⟨20, 12, .wo, false, fun _ => 0⟩, ⟨9, 0, .wo, false, fun _ => 0⟩]⟩,
  /- DERIVE_CMD_STAT -/ ⟨0x44, 0, 1, 0, 1, 1, .none,
    [⟨31, 31, .ro, false, fun _ => 0⟩, ⟨23, 16, .ro, false, fun _ => 0⟩, ⟨9, 0, .ro, false, fun _ => 0⟩]⟩,
  /- DERIVE_PARENT -/ ⟨0x48, 0, 1, 0, 1, 1, .none,
    [⟨31, 30, .rw, false, fun _ => 0⟩, ⟨9, 0, .rw, false, fun _ => 0⟩]⟩,
  /- DERIVE_POLICY -/ ⟨0x4c, 0, 1, 0, 1, 1, .none,
    [⟨31, 0, .rw, false, fun _ => 0⟩]⟩,
  /- DERIVE_LABEL -/ ⟨0x50, 4, 8, 0, 1, 1, .none,
    [⟨31, 0, .rw, false, fun _ => 0⟩]⟩,
  /- DERIVE_NODE_INFO -/ ⟨0x70, 0, 1, 0, 1, 1, .none,
    [⟨31, 30, .ro, false, fun _ => 0⟩, ⟨29, 26, .ro, false, fun _ => 0⟩, ⟨24, 16, .ro, false, fun _ => 0x1ff⟩, ⟨15, 0, .ro, false, fun _ => 0⟩]⟩,
  /- DERIVE_NODE_USES -/ ⟨0x74, 0, 1, 0, 1, 1, .none,
    [⟨31, 0, .ro, false, fun _ => 0⟩]⟩,
  /- DERIVE_OCC -/ ⟨0x78, 0, 1, 0, 1, 1, .none,
    [⟨26, 16, .ro, false, fun _ => 0⟩, ⟨10, 0, .ro, false, fun _ => 0⟩]⟩]

/-- Registers of the SLOTS page (R464). -/
def regsSlots : List RegSpec := [
  /- SLOTS_CMD -/ ⟨0x40, 0, 1, 0, 1, 1, .none,
    [⟨31, 28, .wo, false, fun _ => 0⟩, ⟨27, 27, .wo, false, fun _ => 0⟩, ⟨8, 0, .wo, false, fun _ => 0⟩]⟩,
  /- SLOTS_CMD_STAT -/ ⟨0x44, 0, 1, 0, 1, 1, .none,
    [⟨31, 31, .ro, false, fun _ => 0⟩, ⟨23, 16, .ro, false, fun _ => 0⟩]⟩,
  /- SLOTS_EXPECT -/ ⟨0x48, 0, 1, 0, 1, 1, .none,
    [⟨31, 0, .rw, false, fun _ => 0⟩]⟩,
  /- SLOTS_INFO -/ ⟨0x4c, 0, 1, 0, 1, 1, .none,
    [⟨31, 29, .ro, false, fun _ => 0⟩, ⟨28, 28, .ro, false, fun _ => 0⟩, ⟨27, 26, .ro, false, fun _ => 0⟩, ⟨25, 23, .ro, false, fun _ => 0⟩, ⟨22, 20, .ro, false, fun _ => 0⟩, ⟨15, 8, .ro, false, fun _ => 0⟩, ⟨7, 0, .ro, false, fun _ => 0⟩]⟩,
  /- SLOTS_INFO_POLICY -/ ⟨0x50, 0, 1, 0, 1, 1, .none,
    [⟨31, 0, .ro, false, fun _ => 0⟩]⟩,
  /- SLOTS_INFO_KCV -/ ⟨0x54, 0, 1, 0, 1, 1, .none,
    [⟨31, 0, .ro, false, fun _ => 0⟩]⟩,
  /- SLOTS_INFO_PKCV -/ ⟨0x58, 0, 1, 0, 1, 1, .none,
    [⟨31, 0, .ro, false, fun _ => 0⟩]⟩,
  /- SLOTS_INFO_GEN -/ ⟨0x5c, 0, 1, 0, 1, 1, .none,
    [⟨31, 0, .ro, false, fun _ => 0⟩]⟩,
  /- SLOTS_INFO_PGEN -/ ⟨0x60, 0, 1, 0, 1, 1, .none,
    [⟨31, 0, .ro, false, fun _ => 0⟩]⟩,
  /- SLOTS_INFO_NODE -/ ⟨0x64, 0, 1, 0, 1, 1, .none,
    [⟨31, 31, .ro, false, fun _ => 0⟩, ⟨9, 0, .ro, false, fun _ => 0⟩]⟩,
  /- SLOTS_INFO_USES -/ ⟨0x68, 0, 1, 0, 1, 1, .none,
    [⟨31, 0, .ro, false, fun _ => 0⟩]⟩,
  /- SLOTS_OCC -/ ⟨0x6c, 0, 1, 0, 1, 1, .none,
    [⟨25, 16, .ro, false, fun _ => 0⟩, ⟨9, 0, .ro, false, fun _ => 0⟩]⟩]

/-- Registers of the PKE page (R465). -/
def regsPke : List RegSpec := [
  /- PKE_CMD -/ ⟨0x40, 0, 1, 0, 1, 1, .none,
    [⟨31, 28, .wo, false, fun _ => 0⟩, ⟨8, 0, .wo, false, fun _ => 0⟩]⟩,
  /- PKE_CMD_STAT -/ ⟨0x44, 0, 1, 0, 1, 1, .none,
    [⟨31, 31, .ro, false, fun _ => 0⟩, ⟨23, 16, .ro, false, fun _ => 0⟩]⟩,
  /- PKE_BUF -/ ⟨0x48, 0, 1, 0, 1, 2, .none,
    [⟨39, 6, .rw, false, fun _ => 0⟩]⟩,
  /- PKE_NONCE -/ ⟨0x50, 4, 8, 0, 1, 1, .none,
    [⟨31, 0, .rw, false, fun _ => 0⟩]⟩,
  /- PKE_OPS -/ ⟨0x70, 0, 1, 0, 1, 1, .none,
    [⟨31, 0, .ro, true, fun _ => 0⟩]⟩,
  /- PKE_FAILS -/ ⟨0x74, 0, 1, 0, 1, 1, .none,
    [⟨31, 0, .ro, true, fun _ => 0⟩]⟩]

/-- Registers of the LOOSE page (R483). -/
def regsLooseA : List RegSpec := [
  /- LOOSE_CFG -/ ⟨0x40, 0, 1, 0, 1, 1, .none,
    [⟨7, 4, .rws, false, fun _ => 0⟩, ⟨3, 0, .rws, false, fun _ => 0⟩]⟩,
  /- LOOSE_OPS -/ ⟨0x44, 0, 1, 0, 1, 1, .none,
    [⟨31, 0, .ro, true, fun _ => 0⟩]⟩,
  /- LOOSE_FAILS -/ ⟨0x48, 0, 1, 0, 1, 1, .none,
    [⟨31, 0, .ro, true, fun _ => 0⟩]⟩,
  /- LOOSE_CTX_KEY -/ ⟨0x100, 128, 4, 0, 1, 1, .none,
    [⟨31, 31, .ro, true, fun _ => 0⟩, ⟨24, 16, .rw, true, fun _ => 0⟩, ⟨8, 0, .rw, true, fun _ => 0⟩]⟩,
  /- LOOSE_CTX_KCV -/ ⟨0x104, 128, 4, 0, 1, 1, .none,
    [⟨31, 0, .ro, true, fun _ => 0⟩]⟩,
  /- LOOSE_CTX_MODE -/ ⟨0x108, 128, 4, 0, 1, 1, .none,
    [⟨31, 0, .rw, true, fun _ => 0⟩]⟩,
  /- LOOSE_CTX_GO -/ ⟨0x10c, 128, 4, 0, 1, 1, .none,
    [⟨0, 0, .wo, false, fun _ => 0⟩]⟩,
  /- LOOSE_CTX_STAT -/ ⟨0x110, 128, 4, 0, 1, 1, .none,
    [⟨31, 31, .ro, false, fun _ => 0⟩, ⟨30, 30, .w1c, false, fun _ => 0⟩, ⟨15, 0, .ro, true, fun _ => 0⟩]⟩,
  /- LOOSE_CTX_CMD -/ ⟨0x114, 128, 4, 0, 1, 1, .none,
    [⟨31, 28, .wo, false, fun _ => 0⟩]⟩,
  /- LOOSE_CTX_SAVE -/ ⟨0x118, 128, 4, 0, 1, 2, .none,
    [⟨39, 0, .rw, true, fun _ => 0⟩]⟩,
  /- LOOSE_CTX_IN -/ ⟨0x120, 128, 4, 4, 4, 1, .none,
    [⟨31, 0, .rw, true, fun _ => 0⟩]⟩,
  /- LOOSE_CTX_OUT -/ ⟨0x130, 128, 4, 4, 4, 1, .none,
    [⟨31, 0, .ro, true, fun _ => 0⟩]⟩]

/-- Registers of the LOOSE page (R483). -/
def regsLooseB : List RegSpec := [
  /- LOOSE_CTX_STATE -/ ⟨0x140, 128, 4, 4, 16, 1, .none,
    [⟨31, 0, .rw, true, fun _ => 0⟩]⟩]

/-- Registers of the LOOSE page. -/
def regsLoose : List RegSpec := regsLooseA ++ regsLooseB

/-- Registers of the RNG page (R504). -/
def regsRngA : List RegSpec := [
  /- RNG_CFG -/ ⟨0x40, 0, 1, 0, 1, 1, .none,
    [⟨31, 24, .rws, false, fun _ => 3⟩, ⟨23, 16, .rws, false, fun _ => 4⟩, ⟨15, 0, .rws, false, fun _ => 0x3e8⟩]⟩,
  /- RNG_CUTOFF -/ ⟨0x44, 0, 1, 0, 1, 1, .none,
    [⟨26, 16, .rws, false, fun _ => 0x31b⟩, ⟨5, 0, .rws, false, fun _ => 0x29⟩]⟩,
  /- RNG_STAT -/ ⟨0x48, 0, 1, 0, 1, 1, .none,
    [⟨31, 31, .ro, false, fun _ => 0⟩, ⟨30, 30, .w1c, false, fun _ => 0⟩, ⟨29, 27, .ro, false, fun _ => 0⟩, ⟨26, 26, .ro, false, fun _ => 0⟩, ⟨25, 25, .ro, false, fun _ => 0⟩, ⟨24, 24, .ro, false, fun _ => 0⟩, ⟨23, 22, .ro, false, fun _ => 0⟩, ⟨20, 16, .ro, false, fun _ => 0⟩]⟩,
  /- RNG_DATA -/ ⟨0x4c, 0, 1, 0, 1, 1, .none,
    [⟨31, 0, .rc, false, fun _ => 0⟩]⟩,
  /- RNG_CMD -/ ⟨0x50, 0, 1, 0, 1, 1, .none,
    [⟨1, 1, .wo, false, fun _ => 0⟩, ⟨0, 0, .wo, false, fun _ => 0⟩]⟩,
  /- RNG_RESEED -/ ⟨0x54, 0, 1, 0, 1, 1, .none,
    [⟨28, 24, .ro, false, fun _ => 1⟩, ⟨16, 0, .ro, false, fun _ => 0⟩]⟩,
  /- RNG_HEALTH -/ ⟨0x58, 0, 1, 0, 1, 1, .none,
    [⟨31, 24, .ro, true, fun _ => 0⟩, ⟨23, 16, .ro, true, fun _ => 0⟩, ⟨15, 0, .ro, true, fun _ => 0⟩]⟩,
  /- RNG_WAITS -/ ⟨0x5c, 0, 1, 0, 1, 1, .none,
    [⟨31, 16, .rc, false, fun _ => 0⟩, ⟨15, 0, .rc, false, fun _ => 0⟩]⟩,
  /- RNG_BYTES -/ ⟨0x60, 0, 1, 0, 1, 2, .none,
    [⟨63, 0, .ro, true, fun _ => 0⟩]⟩,
  /- RNG_TEST_CTL -/ ⟨0x68, 0, 1, 0, 1, 1, .none,
    [⟨1, 1, .ro, false, fun _ => 0⟩, ⟨0, 0, .rws, false, fun _ => 0⟩]⟩,
  /- RNG_TEST_PAT -/ ⟨0x6c, 0, 1, 0, 1, 1, .none,
    [⟨31, 0, .rws, false, fun _ => 0⟩]⟩,
  /- RNG_RAW -/ ⟨0x70, 0, 1, 0, 1, 1, .none,
    [⟨31, 0, .rc, false, fun _ => 0⟩]⟩]

/-- Registers of the RNG page (R504). -/
def regsRngB : List RegSpec := [
  /- RNG_FALLBACK -/ ⟨0x74, 0, 1, 0, 1, 1, .none,
    [⟨31, 0, .ro, true, fun _ => 0⟩]⟩]

/-- Registers of the RNG page. -/
def regsRng : List RegSpec := regsRngA ++ regsRngB

/-- Registers of the WAKE page (R538). -/
def regsWake : List RegSpec := [
  /- WAKE_CFG -/ ⟨0x40, 0, 1, 0, 1, 1, .none,
    [⟨31, 31, .rws, true, fun _ => 0⟩, ⟨27, 24, .rws, true, fun _ => 0⟩, ⟨23, 16, .rws, true, fun _ => 0x28⟩, ⟨15, 8, .rws, true, fun _ => 0x10⟩, ⟨7, 0, .rws, true, fun _ => 0x3c⟩]⟩,
  /- WAKE_SRC_EN -/ ⟨0x44, 0, 1, 0, 1, 1, .none,
    [⟨13, 8, .rws, true, fun _ => 0⟩, ⟨2, 2, .rws, true, fun _ => 0⟩, ⟨1, 1, .rws, true, fun _ => 1⟩]⟩,
  /- WAKE_KEY -/ ⟨0x48, 0, 1, 0, 1, 1, .none,
    [⟨8, 0, .rws, true, fun _ => 0⟩]⟩,
  /- WAKE_FALSE -/ ⟨0x4c, 0, 1, 0, 1, 1, .none,
    [⟨31, 0, .ro, true, fun _ => 0⟩]⟩,
  /- WAKE_CLEAR -/ ⟨0x50, 0, 1, 0, 1, 1, .none,
    [⟨0, 0, .wo, true, fun _ => 0⟩]⟩,
  /- WAKE_LOG_PTR -/ ⟨0x54, 0, 1, 0, 1, 1, .none,
    [⟨31, 16, .rc, false, fun _ => 0⟩, ⟨15, 8, .ro, true, fun _ => 0⟩, ⟨3, 0, .ro, true, fun _ => 0⟩]⟩,
  /- WAKE_FILT_CTL -/ ⟨0x80, 16, 8, 0, 1, 1, .page,
    [⟨31, 31, .rw, true, fun _ => 0⟩, ⟨30, 30, .rw, true, fun _ => 0⟩, ⟨28, 0, .rw, true, fun _ => 0⟩]⟩,
  /- WAKE_FILT_AUTH -/ ⟨0x84, 16, 8, 0, 1, 1, .page,
    [⟨31, 16, .rw, true, fun _ => 0⟩, ⟨15, 12, .rw, true, fun _ => 0⟩, ⟨11, 8, .rw, true, fun _ => 0⟩, ⟨3, 0, .rw, true, fun _ => 4⟩]⟩,
  /- WAKE_FILT_WCTR -/ ⟨0x88, 16, 8, 0, 1, 1, .page,
    [⟨31, 0, .rw, true, fun _ => 0⟩]⟩,
  /- WAKE_SRC -/ ⟨0x400, 16, 16, 0, 1, 1, .none,
    [⟨31, 28, .ro, true, fun _ => 0⟩, ⟨27, 26, .ro, true, fun _ => 0⟩, ⟨25, 25, .ro, true, fun _ => 0⟩, ⟨24, 24, .ro, true, fun _ => 0⟩, ⟨15, 0, .ro, true, fun _ => 0⟩]⟩,
  /- WAKE_SRC_DETAIL -/ ⟨0x404, 16, 16, 0, 1, 1, .none,
    [⟨31, 0, .ro, true, fun _ => 0⟩]⟩,
  /- WAKE_SRC_TS -/ ⟨0x408, 16, 16, 0, 1, 2, .none,
    [⟨63, 0, .ro, true, fun _ => 0⟩]⟩]

/-- Registers of the MODID page (R563). -/
def regsModid : List RegSpec := [
  /- MODID_CFG -/ ⟨0x40, 0, 1, 0, 1, 1, .none,
    [⟨31, 16, .rws, false, fun _ => 0xc8⟩, ⟨15, 0, .rws, false, fun _ => 0xa⟩]⟩,
  /- MODID_CMD -/ ⟨0x44, 0, 1, 0, 1, 1, .none,
    [⟨31, 28, .wo, false, fun _ => 0⟩, ⟨2, 0, .wo, false, fun _ => 0⟩]⟩,
  /- MODID_CMD_STAT -/ ⟨0x48, 0, 1, 0, 1, 1, .none,
    [⟨31, 31, .ro, false, fun _ => 0⟩, ⟨23, 16, .ro, false, fun _ => 0⟩]⟩,
  /- MODID_COUNTS -/ ⟨0x4c, 0, 1, 0, 1, 1, .none,
    [⟨31, 16, .ro, true, fun _ => 0⟩, ⟨15, 0, .ro, true, fun _ => 0⟩]⟩,
  /- MODID_PRES_CFG -/ ⟨0x80, 4, 6, 0, 1, 1, .page,
    [⟨31, 31, .rws, false, fun _ => 0⟩, ⟨30, 30, .rws, false, fun _ => 0⟩, ⟨29, 28, .rws, false, fun _ => 1⟩, ⟨25, 25, .rws, false, fun _ => 0⟩, ⟨22, 16, .rws, false, fun _ => 0x50⟩, ⟨15, 8, .rws, false, fun _ => 0⟩]⟩,
  /- MODID_IN_STAT -/ ⟨0xa0, 4, 6, 0, 1, 1, .none,
    [⟨31, 29, .ro, false, fun _ => 0⟩, ⟨23, 16, .ro, false, fun _ => 0⟩, ⟨15, 8, .ro, false, fun _ => 0⟩, ⟨7, 0, .ro, false, fun _ => 0⟩]⟩,
  /- MODID_TRUST -/ ⟨0xc0, 4, 8, 0, 1, 1, .page,
    [⟨31, 31, .rws, false, fun _ => 0⟩, ⟨24, 16, .rws, false, fun _ => 0⟩, ⟨15, 0, .rws, false, fun _ => 0⟩]⟩,
  /- MODID_REC -/ ⟨0x200, 4, 56, 0, 1, 1, .none,
    [⟨31, 0, .ro, false, fun _ => 0⟩]⟩,
  /- MODID_DIG -/ ⟨0x300, 4, 8, 0, 1, 1, .none,
    [⟨31, 0, .ro, false, fun _ => 0⟩]⟩,
  /- MODID_BOUND -/ ⟨0x320, 4, 8, 0, 1, 1, .none,
    [⟨31, 0, .ro, true, fun _ => 0⟩]⟩]

/-- Registers of the FACTORY page (R608). -/
def regsFactory : List RegSpec := [
  /- FACTORY_CMD -/ ⟨0x40, 0, 1, 0, 1, 1, .none,
    [⟨31, 28, .wo, false, fun _ => 0⟩, ⟨7, 0, .wo, false, fun _ => 0⟩]⟩,
  /- FACTORY_CMD_STAT -/ ⟨0x44, 0, 1, 0, 1, 1, .none,
    [⟨31, 31, .ro, false, fun _ => 0⟩, ⟨23, 16, .ro, false, fun _ => 0⟩]⟩,
  /- FACTORY_MBIST_SEL -/ ⟨0x48, 0, 1, 0, 1, 1, .none,
    [⟨8, 0, .rw, false, fun _ => 0x1ff⟩]⟩,
  /- FACTORY_MBIST_RES -/ ⟨0x4c, 0, 1, 0, 1, 1, .none,
    [⟨24, 16, .ro, false, fun _ => 0⟩, ⟨8, 0, .ro, false, fun _ => 0⟩]⟩,
  /- FACTORY_LOOP_RESULT -/ ⟨0x50, 4, 4, 0, 1, 1, .none,
    [⟨20, 16, .ro, false, fun _ => 0⟩, ⟨4, 4, .ro, false, fun _ => 0⟩, ⟨3, 0, .ro, false, fun _ => 0⟩]⟩,
  /- FACTORY_SENSOR_RESULT -/ ⟨0x60, 0, 1, 0, 1, 1, .none,
    [⟨8, 8, .ro, false, fun _ => 0⟩, ⟨7, 0, .ro, false, fun _ => 0⟩]⟩,
  /- FACTORY_FUSE_KCV -/ ⟨0x64, 0, 1, 0, 1, 1, .none,
    [⟨31, 0, .ro, false, fun _ => 0⟩]⟩]

/-- The page-specific registers of page `n` (R72, R74); a reserved page has none (R73). -/
def pageRegs (n : Nat) : List RegSpec :=
  if n = 0x0 then regsIdent
  else if n = 0x1 then regsGlobal
  else if n = 0x2 then regsTime
  else if n = 0x3 then regsChron
  else if n = 0x4 then regsCellar
  else if n = 0x5 then regsPower
  else if n = 0x6 then regsTamper
  else if 0x8 ≤ n ∧ n ≤ 0xb then regsLane
  else if n = 0xc then regsSched
  else if 0x10 ≤ n ∧ n ≤ 0x17 then regsQueue
  else if n = 0x18 then regsStream
  else if 0x19 ≤ n ∧ n ≤ 0x1c then regsStrmp
  else if n = 0x1d then regsBridle
  else if n = 0x20 then regsAssoc
  else if n = 0x21 then regsLearn
  else if n = 0x22 then regsTrie
  else if n = 0x24 then regsFresh
  else if n = 0x25 then regsAnchor
  else if n = 0x28 then regsMem
  else if 0x29 ≤ n ∧ n ≤ 0x2a then regsMemrgn
  else if n = 0x2b then regsMemcache
  else if n = 0x2c then regsKiln
  else if n = 0x2d then regsTree
  else if n = 0x30 then regsStor
  else if n = 0x34 then regsKeys
  else if n = 0x35 then regsDerive
  else if n = 0x36 then regsSlots
  else if n = 0x37 then regsPke
  else if n = 0x38 then regsLoose
  else if n = 0x3a then regsRng
  else if n = 0x3c then regsWake
  else if n = 0x3d then regsModid
  else if n = 0x3e then regsFactory
  else []

end Sys2Proof.Machine
end

