-- ==== Sys2Proof/Machine/Regs.lean ====
section
/-! DEFINITION. The register window as a pure function of addresses: pages (R72), which register an offset
addresses (R74), reset words (R9, R64), what OT_RESET_N keeps (R89), and reading and writing fields. -/
namespace Sys2Proof.Machine

/-- The page map of R72, with PG_CAP; `none` for a reserved page (R73). Domains are numbered as in R29. -/
def pageSpec (n : Nat) : Option PageSpec :=
  if n = 0x00 then some ⟨0x4F00, 0, 4, true, 0⟩
  else if n = 0x01 then some ⟨0x4F01, 0, 4, true, 0⟩
  else if n = 0x02 then some ⟨0x4F02, 0, 1, true, 0x7⟩
  else if n = 0x03 then some ⟨0x4F03, 0, 5, true, 0x7⟩
  else if n = 0x04 then some ⟨0x4F04, 0, 3, true, 0x08000008⟩
  else if n = 0x05 then some ⟨0x4F05, 0, 1, true, 0x08⟩
  else if n = 0x06 then some ⟨0x4F06, 0, 1, true, 0x420⟩
  else if 0x08 ≤ n ∧ n ≤ 0x0B then some ⟨0x4F08, n - 0x08, 6 + (n - 0x08), false, 0x7F⟩
  else if n = 0x0C then some ⟨0x4F0C, 0, 4, false, 0⟩
  else if 0x10 ≤ n ∧ n ≤ 0x17 then some ⟨0x4F10, n - 0x10, 5, false, 0x7F⟩
  else if n = 0x18 then some ⟨0x4F18, 0, 12, false, 0xFF⟩
  else if 0x19 ≤ n ∧ n ≤ 0x1C then some ⟨0x4F19, n - 0x19, 12, false, 0xFF⟩
  else if n = 0x1D then some ⟨0x4F1D, 0, 12, true, 0x800F⟩
  else if n = 0x20 then some ⟨0x4F20, 0, 13, true, 0x10002000⟩
  else if n = 0x21 then some ⟨0x4F21, 0, 13, true, 0x1000⟩
  else if n = 0x22 then some ⟨0x4F22, 0, 13, true, 0x08000800⟩
  else if n = 0x24 then some ⟨0x4F24, 0, 13, true, 0x04002003⟩
  else if n = 0x25 then some ⟨0x4F25, 0, 1, true, 0x1940⟩
  else if n = 0x28 then some ⟨0x4F28, 0, 10, true, 0x1000003F⟩
  else if 0x29 ≤ n ∧ n ≤ 0x2A then some ⟨0x4F29, n - 0x29, 10, true, 0xFF⟩
  else if n = 0x2B then some ⟨0x4F2B, 0, 11, false, 0x20001000⟩
  else if n = 0x2C then some ⟨0x4F2C, 0, 10, true, 0x8C⟩
  else if n = 0x2D then some ⟨0x4F2D, 0, 10, true, 0x20⟩
  else if n = 0x30 then some ⟨0x4F30, 0, 12, true, 0x00400807⟩
  else if n = 0x34 then some ⟨0x4F34, 0, 14, true, 0x1F⟩
  else if n = 0x35 then some ⟨0x4F35, 0, 14, true, 0x400⟩
  else if n = 0x36 then some ⟨0x4F36, 0, 14, true, 0x200⟩
  else if n = 0x37 then some ⟨0x4F37, 0, 14, true, 0x7⟩
  else if n = 0x38 then some ⟨0x4F38, 0, 5, true, 0x4F⟩
  else if n = 0x3A then some ⟨0x4F3A, 0, 15, true, 0xF⟩
  else if n = 0x3C then some ⟨0x4F3C, 0, 2, true, 0x346⟩
  else if n = 0x3D then some ⟨0x4F3D, 0, 14, true, 0x62E⟩
  else if n = 0x3E then some ⟨0x4F3E, 0, 14, true, 0xF⟩
  else none

/-- The page is carried by the GX7 (R606: IDENT_PAGES names the pages of R72). -/
def carried (n : Nat) : Bool := (pageSpec n).isSome

/-- The page is security-class: its sink is AUDIT (R72). A reserved page records to AUDIT too (R73). -/
def auditPage (n : Nat) : Bool := match pageSpec n with
  | some p => p.audit
  | none => true

/-- The page's instance number within its type (R72). -/
def pageInst (n : Nat) : Nat := match pageSpec n with
  | some p => p.inst
  | none => 0

/-- The bits `lo` to `hi` as a mask. -/
def maskBits (hi lo : Nat) : Nat := 2 ^ (hi + 1) - 2 ^ lo

/-- Word `w` of a value that spans several words, low word first (R10). -/
def wordOf (v w : Nat) : Nat := (v / 2 ^ (32 * w)) % 2 ^ 32

/-- Where an offset falls in a register: array index within the page and word of the register. -/
structure RegHit where
  spec : RegSpec
  index : Nat
  word : Nat

/-- Does register `r` hold offset `o` (word aligned)? -/
def regAt (r : RegSpec) (o : Nat) : Option RegHit :=
  if o < r.off then none
  else
    let d := o - r.off
    let i := if r.stride = 0 then 0 else d / r.stride
    let e := if r.stride = 0 then d else d % r.stride
    let j := if r.stride2 = 0 then 0 else e / r.stride2
    let w := (if r.stride2 = 0 then e else e % r.stride2) / 4
    if i < r.count ∧ j < r.count2 ∧ w < r.words then some ⟨r, i, w⟩ else none

/-- The register of a list that holds offset `o`. -/
def findIn : List RegSpec → Nat → Option RegHit
  | [], _ => none
  | r :: rs, o => match regAt r o with
    | some h => some h
    | none => findIn rs o

/-- The page-specific register at a window address, if the page's chapter defines one (R74). The address is
taken down to its word. -/
def findReg (a : Nat) : Option RegHit := findIn (pageRegs (a / 0x1000)) (a % 0x1000 / 4 * 4)

/-- The array index a reset value depends on: the arrays of a page type that stands several times count on
from page to page. -/
def resetIndex (a : Nat) (h : RegHit) : Nat := pageInst (a / 0x1000) * h.spec.count + h.index

/-- The reset value of one word of a register, field by field. -/
def fieldsReset (i w : Nat) : List FieldSpec → Nat
  | [] => 0
  | f :: fs => wordOf (f.reset i % 2 ^ (f.hi - f.lo + 1) * 2 ^ f.lo) w + fieldsReset i w fs

/-- The reset word of a header register (R76, R77): PG_ID, PG_CAP, and on IDENT and GLOBAL the ENABLE bit and
ACTIVE state of R77; PG_EVT_EN reads 1 in the always-enabled bits (R84). -/
def headerReset (n o : Nat) : Nat := match pageSpec n with
  | none => 0
  | some p =>
    if o = 0x00 then p.type * 2 ^ 16 + p.inst * 2 ^ 8 + 1
    else if o = 0x04 then p.cap
    else if o = 0x08 then (if n ≤ 1 then 1 else 0)
    else if o = 0x0C then (if n = 0 then 9 else if n = 1 then 1 else 0)
    else if o = 0x14 then (pageEvents n).always
    else 0

/-- What the word at window address `a` reads as after OT_PORESET_N (R9). -/
def resetWord (a : Nat) : Word :=
  if a % 0x1000 < 0x40 then BitVec.ofNat 32 (headerReset (a / 0x1000) (a % 0x1000))
  else match findReg a with
    | some h => BitVec.ofNat 32 (fieldsReset (resetIndex a h) h.word h.spec.fields)
    | none => 0

/-- The bits of one word that satisfy a predicate on their field. -/
def fieldsMask (p : FieldSpec → Bool) (w : Nat) : List FieldSpec → Nat
  | [] => 0
  | f :: fs => (if p f then wordOf (maskBits f.hi f.lo) w else 0) + fieldsMask p w fs

/-- The bits of the word at `a` that satisfy a predicate on their field. -/
def wordMask (p : FieldSpec → Bool) (a : Nat) : Word := match findReg a with
  | some h => BitVec.ofNat 32 (fieldsMask p h.word h.spec.fields)
  | none => 0

/-- The bits of the word at `a` that OT_RESET_N keeps (R89). Header words keep nothing. -/
def keptMask (a : Nat) : Word :=
  if a % 0x1000 < 0x40 then 0 else wordMask (fun f => f.kept) a

/-- The register file: the words that differ from their reset word. -/
abbrev RegFile := SMap Word

/-- The word stored at a window address. -/
def regWord (r : RegFile) (a : Nat) : Word := mget resetWord r a

/-- Store a word. -/
def setRegWord (r : RegFile) (a : Nat) (w : Word) : RegFile := mset resetWord r a w

/-- The value of a field, whatever words it spans (R10). -/
def fieldVal (r : RegFile) (f : RegField) : Nat :=
  let v := if f.hi < 32 then (regWord r f.addr).toNat
    else if f.hi < 64 then (regWord r f.addr).toNat + (regWord r (f.addr + 4)).toNat * 2 ^ 32
    else (regWord r f.addr).toNat + (regWord r (f.addr + 4)).toNat * 2 ^ 32 + (regWord r (f.addr + 8)).toNat * 2 ^ 64
  v / 2 ^ f.lo % 2 ^ (f.hi - f.lo + 1)

/-- One word of a register with the field's bits replaced. -/
def spliceWord (old : Word) (f : RegField) (v w : Nat) : Word :=
  let m := BitVec.ofNat 32 (wordOf (maskBits f.hi f.lo) w)
  (old &&& ~~~m) ||| (BitVec.ofNat 32 (wordOf (v % 2 ^ (f.hi - f.lo + 1) * 2 ^ f.lo) w) &&& m)

/-- Store a field (the value is taken modulo the field's width). -/
def setFieldVal (r : RegFile) (f : RegField) (v : Nat) : RegFile :=
  let r0 := if f.lo < 32 then setRegWord r f.addr (spliceWord (regWord r f.addr) f v 0) else r
  let r1 := if f.lo < 64 ∧ 32 ≤ f.hi then setRegWord r0 (f.addr + 4) (spliceWord (regWord r (f.addr + 4)) f v 1) else r0
  if 64 ≤ f.hi then setRegWord r1 (f.addr + 8) (spliceWord (regWord r (f.addr + 8)) f v 2) else r1

/-- What is left of the register file over OT_RESET_N: each word returns to its reset word in the bits that
are not kept (R89). -/
def keepRegs : RegFile → RegFile
  | [] => []
  | (a, w) :: r =>
    let v := (w &&& keptMask a) ||| (resetWord a &&& ~~~(keptMask a))
    if v = resetWord a then keepRegs r else (a, v) :: keepRegs r

end Sys2Proof.Machine
end

