-- ==== Sys2Proof/Machine/State.lean ====
section
/-! DEFINITION. The state of the block as plain data, the reasons a step can stop, and the state right after
OT_PORESET_N. -/
namespace Sys2Proof.Machine
open Sys2Proof

/-- A stamp (R18): the time base in ns and the tie-break sequence number. -/
structure Stamp where
  ts : BitVec 64
  seq : BitVec 16
  deriving DecidableEq, Repr

/-- The time base and stamp unit (R505 to R507), and the clock inputs they run on. -/
structure TimeState where
  /-- accumulated nanoseconds since the epoch -/
  acc : BitVec 64 := 0
  /-- 32 bits of fraction below the nanosecond -/
  frac : BitVec 32 := 0
  /-- core clocks since the last tick -/
  clk : Nat := 0
  /-- the next stamp's sequence number -/
  seq : BitVec 16 := 0
  /-- live nonce: the time base at which it was drawn -/
  nonceAt : Option Nat := none
  /-- the supervisor reports OT_CLK_32K failed (R508) -/
  clkFailed : Bool := false
  /-- ticks and RC cycles of the present span of 1,024 ticks (R508) -/
  ticks : Nat := 0
  rcCycles : Nat := 0
  /-- the rate in ppb that the increment of the present interval has: TIME_RATE as it stood at the last tick (R511) -/
  rate : Word := 0
  deriving DecidableEq, Repr

/-- A chronicle entry (R590). -/
structure Entry where
  ts : BitVec 64
  seq : BitVec 16
  page : BitVec 8
  cont : Bool
  unsealed : Bool
  held : Bool
  code : BitVec 16
  req : BitVec 16
  payload : BitVec 96
  part : BitVec 8
  parts : BitVec 8
  deriving DecidableEq, Repr

/-- How an entry may use the hold (R597). -/
inductive EntryClass where
  /-- record of a write to the CHRON page -/
  | chronWrite
  /-- the START entry of R589 -/
  | start
  /-- an immediate event -/
  | immediate
  /-- any other event -/
  | other
  deriving DecidableEq, Repr

/-- An entry on its way to its sink. -/
structure WriterEntry where
  entry : Entry
  cls : EntryClass
  /-- the sink is AUDIT, otherwise TRACE (R591) -/
  audit : Bool
  deriving DecidableEq, Repr

/-- A count of events that found no entry, with their first and last stamps (R81, R597). -/
structure EventCount where
  count : Nat
  first : BitVec 32
  last : BitVec 32
  deriving DecidableEq, Repr

/-- One trace bank (R599): the words written and how many have been read. -/
structure TraceBank where
  words : List Word := []
  read : Nat := 0
  deriving DecidableEq, Repr

/-- The chronicle writer and its sinks (R590 to R603). -/
structure ChronState where
  /-- entries raised and not yet written to a sink, oldest first -/
  writer : List WriterEntry := []
  /-- the hold of 64 entries -/
  hold : List WriterEntry := []
  /-- writes rejected with outcome 0x9 (R81) -/
  rejected : Option EventCount := none
  /-- commands that wait with their action (R597) -/
  waiting : List Instr := []
  /-- the chain value h (R593) -/
  chain : BitVec 256 := 0
  /-- entries since the last SEAL entry (R594) -/
  sinceSeal : Nat := 0
  /-- the bank that is filling is B -/
  fillB : Bool := false
  bankA : TraceBank := {}
  bankB : TraceBank := {}
  /-- word index of the open trace item's length word in the filling bank -/
  openAt : Option Nat := none
  /-- a FLUSH waits for the open item to close -/
  flushing : Bool := false
  /-- words that still read zero after a cut read (R602) -/
  cut : Nat := 0
  /-- the level went above HIGH and has not come back to LOW (R603) -/
  high : Bool := false
  /-- the open trace item continues one of the other bank -/
  openCont : Bool := false
  /-- entries are being raised by an action that had waited: they carry HELD (R597) -/
  late : Bool := false
  /-- the stamp of the start-up in progress (R589) -/
  startAt : Option Stamp := none
  /-- what it follows: 0 OT_PORESET_N, 1 OT_RESET_N, 2 loss of TETHER power -/
  startAfter : Nat := 0
  deriving DecidableEq, Repr

/-- Where the block stands in the reset sequences of R64 to R66. -/
inductive Phase where
  /-- OT_PORESET_N is low -/
  | poreset
  /-- no reset is in progress -/
  | run
  /-- warm reset, steps 1 and 2: draining -/
  | draining
  /-- warm reset, step 3: OT_RESET_DONE is high -/
  | resetDone
  deriving DecidableEq, Repr

/-- The boundary signals the rules give a meaning over several commands (R54 to R66). -/
structure Boundary where
  phase : Phase := .poreset
  /-- OT_RESET_N is low -/
  resetLow : Bool := false
  /-- only OT_VBAT is present (R546, R566) -/
  mainOff : Bool := false
  /-- OT_DBG_ACTIVE and OT_DBG_AUTH (R57) -/
  dbgActive : Bool := false
  dbgAuth : Bool := false
  deriving DecidableEq, Repr

/-! ### Keys (chapter 13) -/

/-- Provenance of a key (R433). -/
inductive Prov where
  | none | derived | generated | sole | imported | agreed | attest
  deriving DecidableEq, Repr

/-- One bank of a key slot (R426, R433). -/
structure Bank where
  material : Bytes
  kcv : Word
  gen : BitVec 32
  policy : Word
  prov : Prov
  /-- the inverse start key (R102) -/
  start : Bytes
  /-- the node it materialises -/
  node : Option Nat
  /-- uses of a key that has no node (R431) -/
  uses : Nat
  deriving DecidableEq, Repr

/-- State of a slot (R433). -/
inductive SlotState where
  | empty | live | orphaned | suspended | clearing | wideTail
  deriving DecidableEq, Repr

/-- State of a slot's other bank (R433). -/
inductive OtherBank where
  | free | loaded | retiring
  deriving DecidableEq, Repr

/-- A load that waits for a retiring bank (R434): the bank, and the queue descriptor's Cellar entry if one
loads it. -/
structure QueuedLoad where
  bank : Bank
  type : BitVec 8
  tenant : BitVec 3
  entry : Option Nat
  deriving DecidableEq, Repr

/-- Which counter a slot's key is bound to (R272). -/
inductive Binding where
  | none
  /-- the slot's own invocation counter -/
  | invocation
  /-- the counter of the association with this handle -/
  | assoc (handle : Nat)
  deriving DecidableEq, Repr

/-- A key slot (R433). -/
structure Slot where
  st : SlotState := .empty
  type : BitVec 8 := 0
  tenant : BitVec 3 := 0
  /-- the active bank is bank 1 -/
  bank1 : Bool := false
  active : Option Bank := none
  otherSt : OtherBank := .free
  other : Option Bank := none
  /-- generation of the next load (R434) -/
  nextGen : BitVec 32 := 0
  /-- loads that wait for the retiring bank, oldest first (R434) -/
  queued : List QueuedLoad := []
  /-- next value of the invocation counter (R275) -/
  inv : BitVec 64 := 0
  /-- highest value issued under the present bank that R280 admits: 32-bit packet numbers, and in Ballast-lost mode
  every value (R280, R281) -/
  high : BitVec 64 := 0
  bound : Binding := .none
  deriving DecidableEq, Repr

/-- Parent of a derivation node (R423). -/
inductive Parent where
  | root
  | node (n : Nat)
  | slot (n : Nat) (gen : BitVec 32)
  deriving DecidableEq, Repr

/-- State of a node (R423). -/
inductive NodeState where
  | free | valid | orphaned
  deriving DecidableEq, Repr

/-- A derivation node (R423). -/
structure Node where
  st : NodeState := .free
  parent : Parent := .root
  label : Bytes := []
  policy : Word := 0
  depth : Nat := 0
  tenant : BitVec 3 := 0
  uses : Nat := 0
  slot : Option Nat := none
  deriving DecidableEq, Repr

/-- How far a life-cycle transition has come (R451, R452). -/
inductive LcStep where
  | none
  /-- OT_LC_PROG_REQ is raised -/
  | burning (slow : Bool)
  /-- a transition failed or was abandoned: key operations are refused until OT_PORESET_N -/
  | failed
  deriving DecidableEq, Repr

/-- The park image in DRAM, as far as Otist holds it valid (R453): what was parked under which epoch. -/
structure ParkImage where
  epoch : Nat
  slots : SMap Slot
  nodes : SMap Node
  deriving DecidableEq, Repr

/-- The key core and the root (R415 to R456). -/
structure KeyState where
  /-- VBAT share words A and B, address-scrambled (R416) -/
  vbatA : BitVec 256 := 0
  vbatB : BitVec 256 := 0
  /-- the presence marker, masked as the share: present while the two words of it differ -/
  markA : Bool := false
  markB : Bool := false
  /-- the address permutation of the VBAT cells -/
  perm : BitVec 64 := 0
  /-- the mask LFSR in VBAT -/
  lfsr : BitVec 64 := 0
  /-- the fuse share as two masked words in TETHER (R417) -/
  fuseA : BitVec 256 := 0
  fuseB : BitVec 256 := 0
  fuseHeld : Bool := false
  lc : LcStep := .none
  park : Option ParkImage := none
  /-- a SWAP that waits for a queued load (R435) -/
  swapWait : Option Nat := none
  /-- its FORCE bit -/
  swapForce : Bool := false
  /-- the candidate of ATTEST_GEN in a working register (R460) -/
  attest : Bytes := []
  /-- the slot that the ATTEST in progress is about -/
  attestOf : Nat := 0
  deriving DecidableEq, Repr

/-! ### Entropy (chapter 15) -/

/-- Request classes, in order of service (R495, R496). -/
inductive RandClass where
  | key | pr | ordinary
  deriving DecidableEq, Repr

/-- Who asked for random bytes (R495). -/
inductive RandUser where
  | rootGen
  | attestKey
  | attestCounter
  | ballastEpoch
  /-- the per-signature secret of PKE_CMD ATTEST and of CHRON_CMD SIGN -/
  | attestSign
  | chronSign
  /-- their blinding (R459) -/
  | attestBlind
  | chronBlind
  | timeNonce
  | modNonce (input : Nat)
  | fifo
  | mask
  /-- the seeds of the four tamper loops (R543) -/
  | loopSeed
  /-- a queue descriptor, by Cellar entry: its key material, per-signature secret or next RANDOM_FILL piece -/
  | entry (e : Nat)
  /-- blinding of a queue descriptor's scalar operation -/
  | blind (e : Nat)
  deriving DecidableEq, Repr

/-- The user is a PKE command. -/
def RandUser.isPke (u : RandUser) : Bool :=
  u = .attestKey || u = .attestCounter || u = .attestSign || u = .attestBlind

/-- A waiting generate request (R494 to R496). -/
structure RandReq where
  cls : RandClass
  user : RandUser
  bytes : Nat
  /-- time base when it began to wait -/
  since : Nat
  deriving DecidableEq, Repr

/-- The random-number generator (R484 to R503). -/
structure RngState where
  /-- compressor register -/
  r : BitVec 64 := 0
  /-- repetition count test: the last sample and its run -/
  last : Bool := false
  run : Nat := 0
  /-- seeds buffered, oldest first -/
  seeds : List Bytes := []
  drbg : Option Drbg := none
  fifo : List Word := []
  /-- waiting requests, oldest first -/
  reqs : List RandReq := []
  /-- RNG_CMD.RESEED is pending -/
  reseed : Bool := false
  /-- the key core has re-scrambled the VBAT cells since this power-up (R416) -/
  scrambled : Bool := false
  deriving DecidableEq, Repr

/-! ### Association lookup (chapter 8) -/

/-- One block of the peer-context store (R246, R260): a learned context of sixteen words, or a window block of
the association with a handle. -/
inductive PeerBlock where
  | ctx (words : List Word)
  | window (handle : Nat) (words : List Word)
  deriving DecidableEq, Repr

/-- State of a trie rule (R267). -/
inductive RuleState where
  | free | pendingAdd | live | pendingDel
  deriving DecidableEq, Repr

/-- A trie rule (R266). -/
structure TrieRule where
  st : RuleState := .free
  v6 : Bool := false
  len : Nat := 0
  pfx : BitVec 64 := 0
  handle : Nat := 0
  deriving DecidableEq, Repr

/-- The lookup unit but for its tables (R249, R268, R269). -/
structure LookupState where
  salt0 : Word := 0
  salt1 : Word := 0
  /-- the salts have been derived since the last OT_PORESET_N or OT_RESET_N -/
  salted : Bool := false
  /-- ASSOC_CMD SEARCH or INSERT, with its REPLACE bit, that waits for the salts (R88, R249) -/
  held : Option (Nat × Bool) := none
  /-- rules of the active and of the shadow bank -/
  active : List TrieRule := []
  shadow : List TrieRule := []
  built : Bool := false
  bank1 : Bool := false
  /-- time of the last periodic aging pass (R263) -/
  lastAge : Nat := 0
  deriving DecidableEq, Repr

/-- What a probe copies into an item (R252): the handle, GEN and configuration words, and for a learned sender or
a template the peer context or that it is to be learned. -/
structure AssocCopy where
  handle : Nat
  gen : Nat
  words : List Word
  /-- the frame hit a template and its sender is to be learned (R259) -/
  learn : Bool
  /-- the learned peer context -/
  peer : Option Nat
  deriving DecidableEq, Repr

/-! ### Streams (chapters 6 and 7) -/

/-- What the lookup of an item's association has answered (R251). -/
inductive Look where
  | waiting
  | miss
  | hit (c : AssocCopy)
  deriving DecidableEq, Repr

/-- How a receive item's verification stands (R207). -/
inductive Verdict where
  | waiting
  | passed
  /-- it completed with an outcome and is voided -/
  | failed
  deriving DecidableEq, Repr

/-- An item staged at a port (R180 to R187), or one whose remaining beats are being discarded. -/
structure SItem where
  id : Nat
  tx : Bool
  /-- the bank it was admitted to is B -/
  bankB : Bool
  /-- units allocated in its bank, the first first -/
  units : List Nat
  /-- MAX_ITEM at its admission -/
  maxItem : Nat
  /-- the frame's bytes so far, after the length word -/
  bytes : Bytes
  /-- the decrypted bytes that stand over the received ones, and the first byte that they replace (R185) -/
  plain : Option (Nat × Bytes) := none
  /-- its length word, in the first four bytes of its first unit: zero until the item ends (R180) -/
  word : Word := 0
  /-- its EOF beat has not passed -/
  isOpen : Bool := true
  /-- it was voided and its beats are discarded up to EOF -/
  skip : Bool := false
  look : Look := .waiting
  /-- its Cellar entry, once it is accepted -/
  entry : Option Nat := none
  verdict : Verdict := .waiting
  recon : Bool := false
  /-- it has begun on TXO -/
  started : Bool := false
  /-- output produced for RXO, or for TXO -/
  out : Bytes := []
  /-- the Bridle pair it was accepted for, and the version of OUT_SA fixed then -/
  pair : Option Nat := none
  outCopy : Option AssocCopy := none
  /-- the template of its pair as it stood at acceptance: BRIDLE_TMPL_A to D (R241) -/
  tmpl : List Word := []
  /-- R227 applied to it -/
  single : Bool := false
  /-- the inbound value of an Ethernet frame, as its replay check at the lookup found it (R207, R252) -/
  value : Nat := 0
  /-- CUT applies to it (R229) -/
  cut : Bool := false
  /-- a Bridle frame that waits under R233, or a transmit frame that an EXHAUSTED association holds (R292) -/
  held : Bool := false
  /-- a CUT frame whose egress has ended under R232 -/
  cutEnded : Bool := false
  /-- place in the order in which items asked for a stream Cellar entry (R571) -/
  asked : Option Nat := none
  /-- it has waited for a ceiling and is counted in FRESH_CEIL_WAITS (R274) -/
  ceilWaited : Bool := false
  deriving DecidableEq, Repr

/-- A stream port (R176 to R199). -/
structure Port where
  /-- items in the order of their SOF beats -/
  items : List SItem := []
  fillB : Bool := false
  /-- the level went above HIGH and has not come back to LOW (R189) -/
  xoff : Bool := false
  /-- FLUSH_NOW replaced FLUSH in the direction -/
  nowRx : Bool := false
  nowTx : Bool := false
  /-- the length word that Otist last wrote back (R180) -/
  lastWord : Word := 0
  /-- source of the last frame on TXO (R235): 0 the port's own TXI, k + 1 pair k -/
  lastSrc : Nat := 0
  /-- an SOF beat is held under R182 or R190: on RXI, on TXI -/
  waitRx : Bool := false
  waitTx : Bool := false
  /-- an SOF beat on TXI is held while another source's frame has TXO, and TXO is kept for it (R235) -/
  sofHeld : Bool := false
  sofTurn : Bool := false
  deriving DecidableEq, Repr

/-- The stream framer over all ports. -/
structure StreamState where
  nextId : Nat := 0
  /-- next place in the order of R571 -/
  nextAsk : Nat := 0
  deriving DecidableEq, Repr

/-! ### Freshness and the anchor store (chapter 9) -/

/-- The counter of an association (R270 to R293), beside the FRESH and LEASE_END words of its entry. -/
structure Counter where
  /-- it has issued a value since it was installed or last moved (R275) -/
  started : Bool := false
  /-- cause of R291 while it is EXHAUSTED, or 6 where its next frame tries again (R293), else 0 -/
  exhausted : Nat := 0
  /-- an ETH_RX entry retired under R296 -/
  retired : Bool := false
  /-- a receive entry whose slots are to be rewritten under R297, with the slots that it takes -/
  rewrite : Option (Nat × Nat) := none
  /-- the FRESH that a new counter was given, where the entry's FRESH says more (R290, R294) -/
  given : Option (BitVec 64) := none
  /-- the next value while the entry is parked, so that R273 can raise the floor (R526) -/
  parkedNext : Option (BitVec 64) := none
  deriving DecidableEq, Repr

/-- What an anchor record is written for. -/
inductive AnchorUse where
  /-- a BALLAST record with this ceiling and reset count; `lost` sets LOST (R276, R278, R281) -/
  | ballast (ceiling : BitVec 64) (resets : BitVec 32) (lost : Bool)
  /-- a ROOT record of a region (R350, R351) -/
  | root (region : Nat) (payload : Bytes)
  /-- a STORAGE record of a partition (R399 to R407) -/
  | storage (part : Nat) (payload : Bytes)
  deriving DecidableEq, Repr

/-- The anchor record being written: slot, record and the failures so far (R287). -/
structure AnchorWrite where
  slot : Nat
  use : AnchorUse
  record : Bytes
  fails : Nat
  deriving DecidableEq, Repr

/-- A live anchor record (R285): its slot, type × 16 + instance, and payload. -/
structure LiveRec where
  slot : Nat
  key : Nat
  payload : Bytes
  deriving DecidableEq, Repr

/-- The anchor unit (R282 to R287). -/
structure AnchorState where
  /-- records requested, in order, each with its failures so far -/
  reqs : List (AnchorUse × Nat) := []
  writing : Option AnchorWrite := none
  /-- the live records -/
  live : List LiveRec := []
  nextSeq : BitVec 64 := 0
  nextSlot : Nat := 0
  /-- the start-up scan has ended since the last reset -/
  scanned : Bool := false
  /-- the BALLAST record of R278 or R281 has been read back since the last reset: counters issue values -/
  leased : Bool := false
  /-- times of the writes of the last second, with whether each was a BALLAST record (R282) -/
  times : List (Nat × Bool) := []
  /-- BALLAST records written in each of the last 64 seconds, newest first, and in the present one (R277) -/
  perSecond : List Nat := []
  thisSecond : Nat := 0
  deriving DecidableEq, Repr

/-! ### Cellar (chapter 18) -/

/-- A key reference of a Cellar entry (R573). -/
structure KeyRef where
  slot : Nat
  gen : BitVec 16
  deriving DecidableEq, Repr

/-- KIND of a Cellar entry (R573); `data` is the data entry of a memory write. -/
inductive CKind where
  | memRd | memWr | data | egress | ingress | bridle | storage | queue
  deriving DecidableEq, Repr

/-- STATE[1:0] of a Cellar entry in use (R573). -/
inductive CState where
  | accepted | computed | releasing
  deriving DecidableEq, Repr

/-- A Cellar entry in use (R573, R574), with what the owner's unit buffers retain of the item: its input and
its computed output. Both copies are this one record. -/
structure CEntry where
  kind : CKind
  st : CState := .accepted
  ackDone : Bool := false
  digestDone : Bool := false
  loaded : Bool := false
  kilnNew : Bool := false
  replayed : Bool := false
  source : BitVec 16 := 0
  ref : BitVec 32 := 0
  stamp : Stamp
  progress : Nat := 0
  keys : List (Option KeyRef) := []
  valueA : BitVec 64 := 0
  valueB : BitVec 64 := 0
  /-- the fold of the digest so far (R575) -/
  digest : BitVec 128 := 0
  handleA : BitVec 16 := 0
  handleB : BitVec 16 := 0
  /-- place in acceptance order -/
  order : Nat
  /-- the item's input, as its staging units or unit buffer hold it -/
  input : Bytes := []
  /-- output computed and not yet released -/
  output : Bytes := []
  /-- the outcome decided for the item: completion status of a queue descriptor -/
  result : Option Nat := none
  /-- byte strobes of a memory write, in place of K2 and K3 (R573) -/
  strb : BitVec 64 := 0
  /-- the replay in progress has decided on it (R581) -/
  resumed : Bool := false
  deriving DecidableEq, Repr

/-- The Cellar (R564 to R586). -/
structure CellarState where
  entries : SMap (Option CEntry) := []
  /-- acceptance order of the next entry -/
  nextOrder : Nat := 0
  /-- HD, computed once per start-up (R575) -/
  hd : Option Bytes := none
  /-- entries still to replay, in acceptance order -/
  replay : List Nat := []
  /-- CELLAR_VBAT_OPEN (R578) -/
  vbatOpen : Nat := 0
  deriving DecidableEq, Repr

/-! ### Lanes and scheduler (chapter 4) -/

/-- Why a lane runs its known-answer test (R117, R120, R121). -/
inductive KatReason where
  | entry | periodic | commanded | fault
  deriving DecidableEq, Repr

/-- An item with lane work: that of a Cellar entry, the encrypting half of a Bridle item (R224), or a Loose operation. -/
inductive LaneOwner where
  | entry (e : Nat)
  | half (e : Nat)
  | loose (c : Nat)
  deriving DecidableEq, Repr

/-- What a block in a lane is: block `index` of an item that was opened as the `order`-th, a known-answer block, or noise fill
(R132). -/
inductive BlockOf where
  | item (owner : LaneOwner) (order index : Nat)
  | known (index : Nat)
  | fill
  deriving DecidableEq, Repr

/-- A block in flight with the stage registers that travel with it (R100 to R103, R225). -/
structure LaneBlock where
  what : BlockOf
  /-- the state register -/
  st : Bytes
  /-- the words of the round-key register, oldest first: four for a 128-bit key, eight for a 256-bit key; none from O1 on -/
  key : List Bytes
  /-- index of the oldest of them in the key schedule -/
  word : Nat
  /-- the inverse cipher -/
  inv : Bool
  /-- the tweak (XTS) -/
  tweak : Bytes
  /-- what O1 XORs to the result -/
  post : Bytes
  /-- the carry register of a Bridle encrypting block -/
  carry : Bytes
  /-- it carries the parity error of LANE_CMD.INJECT -/
  bad : Bool
  deriving DecidableEq, Repr

/-- The committed context of an item (R106): GHASH accumulator or chaining value, the number of blocks it covers, the hash
subkey H or CMAC's L, and AES_K(J0). -/
structure LaneCtx where
  acc : Bytes := zeros 16
  index : Nat := 0
  sub : Bytes := []
  mask : Bytes := []
  deriving DecidableEq, Repr

/-- What the tag unit takes of a block that has left O2. -/
inductive FoldOf where
  | nothing
  /-- blocks that the GHASH unit folds -/
  | hash (l : List Bytes)
  /-- H or L -/
  | sub (b : Bytes)
  /-- AES_K(J0), and what is folded before the first data block -/
  | mask (b : Bytes) (l : List Bytes)
  /-- the next chaining value -/
  | chain (b : Bytes)
  deriving DecidableEq, Repr

/-- A fold on its way through the four stages of a tag unit. -/
structure LaneFold where
  age : Nat
  owner : LaneOwner
  order : Nat
  index : Nat
  value : FoldOf
  deriving DecidableEq, Repr

/-- A slot reserved on a lane for a block of an encrypting half (R114): core clocks until it is due, and the plaintext that the
pair link has handed over. -/
structure LaneSlot where
  due : Nat
  owner : LaneOwner
  order : Nat
  index : Nat
  carry : Option Bytes := none
  deriving DecidableEq, Repr

/-- A cipher lane beside its registers. -/
structure LaneState where
  /-- its domain is on -/
  powered : Bool := false
  /-- it has passed its entry test since it was powered up -/
  tested : Bool := false
  kat : Option KatReason := none
  fenced : Bool := false
  /-- its page's FENCED_AT_RESET -/
  fencedAtReset : Bool := false
  /-- it serves Cellar replay while its page is OFF (R118) -/
  replaying : Bool := false
  /-- time base of the last lane fault -/
  faultAt : Option Nat := none
  /-- INJECT waits for the next block (R134) -/
  inject : Bool := false
  /-- blocks in flight with the stage each stands in: 0 E0, 1 E1, 2 to 29 S1 to S28, 30 O1, 31 O2 -/
  pipe : List (Nat × LaneBlock) := []
  folds : List LaneFold := []
  slots : List LaneSlot := []
  /-- H, which is also L, by key slot and bank generation; most recently used first, 256 at most (R104, R105) -/
  subkeys : List (KeyRef × Bytes) := []
  /-- result of the last noise-fill block (R132) -/
  noise : Option Bytes := none
  /-- known-answer blocks of the test in progress that have not entered, and whether those that left were right (R120) -/
  katLeft : Nat := 0
  katGood : Bool := true
  /-- the fault being tested for is lasting by its count (R124) -/
  lasting : Bool := false
  deriving DecidableEq, Repr

/-- An item that the scheduler holds (R113): its lane, once it has one, and how far its blocks have come. -/
structure LaneItem where
  owner : LaneOwner
  order : Nat
  cls : Nat
  /-- the tenant of a queue descriptor and the LANE_WEIGHT that it carries (R169, R171) -/
  tenant : Nat := 0
  weight : Nat := 1
  /-- it carries a tag, so it takes a context (R107) -/
  tagged : Bool := false
  /-- of the encrypting half of a Bridle item: the first block that takes plaintext from the pair link, the decrypting block that
  it matches, and how many there are (R225) -/
  link : Option (Nat × Nat × Nat) := none
  /-- its blocks, as far as its input is known -/
  blocks : Nat
  /-- its lane work is done -/
  done : Bool := false
  lane : Option Nat := none
  /-- lane that it was moved away from, until it has another -/
  was : Option Nat := none
  /-- next block to enter -/
  next : Nat := 0
  /-- blocks that have left O2, counted again from its committed context after a lane fault -/
  out : Nat := 0
  /-- results that its path has -/
  released : Nat := 0
  /-- blocks below this one are replayed blocks (R122) -/
  replayTo : Nat := 0
  /-- clock since which its next block has been ready -/
  since : Option Nat := none
  /-- the last result that its own later blocks take: an XTS tweak, or a chaining value -/
  fed : Bytes := []
  /-- the two copies of its committed context -/
  ctxA : LaneCtx := {}
  ctxB : LaneCtx := {}
  deriving DecidableEq, Repr

/-- Share, cap and priority of a class (R110). -/
structure ClassSet where
  share : Nat
  cap : Nat
  prio : Nat
  deriving DecidableEq, Repr

/-- The scheduler (R110 to R116, R169, R622); lists have one element for each class. -/
structure SchedState where
  credit : List Nat := [0, 0, 0, 0, 0, 0, 0, 0]
  used : List Nat := [0, 0, 0, 0, 0, 0, 0, 0]
  lastA : Nat := 7
  lastB : Nat := 7
  committed : Option (List ClassSet) := none
  waiting : Option (List ClassSet) := none
  /-- core clocks since the last reset, while a lane has had work -/
  clock : Nat := 0
  /-- items with lane work, in the order in which they were opened -/
  items : List LaneItem := []
  /-- the tenant that took the last class 5 slot, and the slots left to it in its turn (R169) -/
  lastTenant : Nat := 7
  tenantLeft : Nat := 0
  deriving DecidableEq, Repr

/-! ### Queues (chapter 5) -/

/-- Where an accepted descriptor stands. -/
inductive QPhase where
  /-- accepted, not dispatched -/
  | accepted
  | executing
  /-- its status is decided; its DONE record is not written -/
  | ended
  /-- its DONE record is written and not answered -/
  | done
  deriving DecidableEq, Repr

/-- A fetched descriptor (R147, R171). -/
structure QDesc where
  bytes : Bytes
  seq : BitVec 32
  tenant : Nat
  version : Nat
  exec : Nat
  slots : Nat
  weight : Nat
  /-- execution engine it runs on (R586) -/
  engine : Nat := 0
  /-- Cellar entry, once accepted -/
  entry : Option Nat := none
  phase : QPhase := .accepted
  status : Nat := 0
  result : Bytes := []
  /-- ranges of DST written -/
  written : List (Nat × Nat) := []
  /-- bytes of its output done, for RANDOM_FILL -/
  done : Nat := 0
  /-- its ACCEPTED record could not be written and is held, with its address (R167) -/
  accHeld : Option (Nat × Bytes) := none
  /-- its DONE record, with its address, once it has been written -/
  doneRec : Nat × Bytes := (0, [])
  /-- the DONE record was answered with BUSERR and is held (R167) -/
  doneHeld : Bool := false
  /-- a counter value reserved under IV_GEN is missing because the counter is EXHAUSTED (R158) -/
  exhausted : Bool := false
  replayed : Bool := false
  /-- it has waited for a ceiling and is counted in FRESH_CEIL_WAITS (R274) -/
  ceilWaited : Bool := false
  /-- it has been dispatched, and the uses of its keys are counted (R431) -/
  counted : Bool := false
  deriving DecidableEq, Repr

/-- A queue pair beside its registers: fetched descriptors in SEQ order. -/
structure QueuePair where
  descs : List QDesc := []
  deriving DecidableEq, Repr

/-- The Pontilar engine's round-robin places (R143). -/
structure QueueEngine where
  lastTenant : Nat := 7
  lastPair : List Nat := [31, 31, 31, 31, 31, 31, 31, 31]
  deriving DecidableEq, Repr

/-! ### Memory (chapters 10 and 11) -/

/-- The MEMRGN fields of R304 that a pass latches, or replaces at its end, and that an accepted
transaction keeps (R21). -/
structure RegionCfg where
  cfg : Word
  base : Nat
  size : Nat
  kslot : Nat
  mslot : Nat
  metaAddr : Nat
  mirror : Nat
  deriving DecidableEq, Repr

/-- The counter that an accepted TREE write takes (R20, R321). -/
inductive TreeCtr where
  /-- none has been taken -/
  | unset
  | ok (major minor : Nat)
  /-- the block at a level above its line fails its MAC -/
  | block (level : Nat)
  /-- its block, or one above it, cannot be read -/
  | media
  /-- the major counter is exhausted (R327) -/
  | exhausted
  deriving DecidableEq, Repr

/-- Where an accepted memory transaction stands. -/
inductive MPhase where
  /-- a read, or a write that has not been performed yet -/
  | reading
  /-- a write whose downstream write has not answered -/
  | writing
  deriving DecidableEq, Repr

/-- A memory transaction on the upstream port, held under the number of its header entry in the Cellar. -/
structure MemTxn where
  addr : Nat
  two : Bool
  rid : BitVec 12
  tid : BitVec 10
  attr : BitVec 8
  /-- write data and strobes of the line -/
  data : Bytes := []
  strb : BitVec 64 := 0
  isWrite : Bool := false
  phase : MPhase := .reading
  /-- region that serves it; none passes through -/
  region : Option Nat := none
  /-- it is served on the new side of the kiln line (R363) -/
  newSide : Bool := false
  /-- a partial write of the new side that merges with the line of the old side (R363) -/
  mergeOld : Bool := false
  /-- its keys at acceptance: data key and MAC key -/
  kref : Option KeyRef := none
  mref : Option KeyRef := none
  /-- keys of the old side that it merges with -/
  okref : Option KeyRef := none
  omref : Option KeyRef := none
  /-- configuration of its side, and of the old side that it merges with, at acceptance (R21) -/
  cfg : Option RegionCfg := none
  oldCfg : Option RegionCfg := none
  /-- counter under which it reads its line, once that is fixed -/
  rctr : Option (Nat × Nat) := none
  /-- counter under which it writes its line -/
  wctr : TreeCtr := .unset
  /-- its data is released before verification ends (R335) -/
  spec : Bool := false
  /-- served as class CIPHER (R346) -/
  cipher : Bool := false
  stamp : Stamp := ⟨0, 0⟩
  /-- the DRAM controller reported its read uncorrectable (R45) -/
  uncorrectable : Bool := false
  /-- place in acceptance order -/
  order : Nat := 0
  deriving DecidableEq, Repr

/-- A cached counter block, tree node or tag line (R328), most recently used first in its list. -/
structure CacheLine where
  region : Nat
  /-- it belongs to the new side of the region's pass -/
  newTree : Bool
  /-- level of a block; 0 for a tag line -/
  level : Nat
  /-- index of the block within its level, or of the tag line -/
  index : Nat
  data : Bytes
  dirty : Bool
  deriving DecidableEq, Repr

/-- An open overflow entry (R323, R326): of the L0 block or node at a level, or of the root block one level above the top. -/
structure Overflow where
  region : Nat
  newTree : Bool
  level : Nat
  index : Nat
  major : Nat
  minors : List Nat
  done : BitVec 64
  deriving DecidableEq, Repr

/-- The MEM_CMD in progress (R350, R351). -/
inductive MemCmd where
  | none
  /-- CHECKPOINT: writes, overflow entries and dirty lines of the region are being completed -/
  | flushing (n : Nat)
  /-- CHECKPOINT or OPEN: the ROOT record is being written -/
  | record (n : Nat)
  deriving DecidableEq, Repr

/-- A quarantine entry (R381). -/
structure Quar where
  region : Nat
  /-- the block belongs to the new tree of a pass -/
  newTree : Bool
  level : Nat
  index : Nat
  stamp : Stamp
  deriving DecidableEq, Repr

/-- The memory engine beside its registers. -/
structure MemState where
  txns : SMap (Option MemTxn) := []
  ctr : List CacheLine := []
  tag : List CacheLine := []
  /-- fenced banks: counter A, B, tag A, B; kept over OT_RESET_N -/
  fenced : BitVec 4 := 0
  /-- write-back runs from above HIGH down to LOW: counter cache, tag cache (R329) -/
  flushC : Bool := false
  flushT : Bool := false
  /-- MEMCACHE_CMD.WRITEBACK is running -/
  flushAll : Bool := false
  overflows : List Overflow := []
  /-- L0 blocks, by region, tree and index, whose major counter a refused write has found exhausted (R327) -/
  spent : List (Nat × Bool × Nat) := []
  /-- media table: span base and failing lines (R341) -/
  media : List (Nat × BitVec 8) := []
  /-- quarantine table by entry -/
  quar : List (Option Quar) := []
  cmd : MemCmd := .none
  /-- corrected reports (R46) -/
  corrected : Nat := 0
  deriving DecidableEq, Repr

/-- Kind of a Kiln pass (R358). -/
inductive PassKind where
  | rekey | grow | rekeyGrow | format
  deriving DecidableEq, Repr

/-- A line of the chunk in progress that a pass has prepared and whose commit holds it (R366). -/
structure Prepared where
  line : Nat
  tag : Bytes
  deriving DecidableEq, Repr

/-- A Kiln pass (R358, R362). -/
structure Pass where
  region : Nat
  kind : PassKind
  old : RegionCfg
  new : RegionCfg
  bound : Nat := 0
  doneBits : BitVec 64 := 0
  /-- the chunk in progress has been started, at this time -/
  started : Option Nat := none
  /-- when the last chunk was started (R372) -/
  lastStart : Nat := 0
  prepared : List Prepared := []
  /-- prepares in progress of a TREE pass: lines, with the counters that they have taken (R366) -/
  taken : List (Nat × TreeCtr) := []
  /-- the second root block (R364) -/
  root : Bytes := []
  paused : Bool := false
  chunks : Nat := 0
  deriving DecidableEq, Repr

/-! ### Storage (chapter 12) -/

/-- A storage unit in one of the two unit buffers (R389). -/
structure StorUnit where
  buffer : Nat
  kslot : Nat
  dus4k : Bool
  /-- DIR: from the medium -/
  dir : Bool
  lbn : Nat
  /-- sealed partition it lies in -/
  part : Option Nat
  /-- VERSION and TAG of its table entry as it found them when its header passed -/
  entry : Option (Nat × Bytes) := none
  /-- the entry that it writes, once accepted (R395) -/
  written : Option (Nat × Bytes) := none
  /-- its Cellar entry, once accepted -/
  cellar : Option Nat := none
  /-- decided status (UST) -/
  status : Option Nat := none
  /-- its output data -/
  out : Bytes := []
  deriving DecidableEq, Repr

/-- What a partition command waits for (R402 to R406). -/
inductive PartWait where
  | none
  /-- the record of a MOUNT that was rolled forward or abandoned -/
  | mount (rolled : Bool)
  /-- the intent record of FORMAT, of COMMIT -/
  | format | commit
  | confirm
  /-- accepted units of the partition, before UNMOUNT ends; accepted writes, before COMMIT writes its record -/
  | unmount | commitUnits
  deriving DecidableEq, Repr

/-- The configuration of a partition as its registers give it. -/
structure PartCfg where
  defined : Bool := false
  first : Nat := 0
  count : Nat := 0
  dus4k : Bool := false
  sslot : Nat := 0
  mslot : Nat := 0
  tslot : Nat := 0
  tbl : Nat := 0
  img : Nat := 0
  deriving DecidableEq, Repr

/-- A sealed partition beside its registers: the configuration latched in TETHER (R403). -/
structure Part where
  cfg : PartCfg := {}
  wait : PartWait := .none
  /-- digest of the image of SEAL_EPOCH, or of the image that MOUNT rolls forward to -/
  digest : Bytes := []
  deriving DecidableEq, Repr

/-! ### Loose block service (chapter 14) -/

/-- What a Loose context is doing. -/
inductive LooseBusy where
  | idle
  /-- an operation with its key, mode word, IN and S0 to S3 fixed at acceptance -/
  | op (key : KeyRef) (mode : Word) (inp : Bytes) (st : List Bytes)
  /-- a save or restore -/
  | cmd (op : Nat)
  deriving DecidableEq, Repr

/-- A Loose context beside its registers (R466, R471, R476). -/
structure LooseCtx where
  busy : LooseBusy := .idle
  /-- a command waits for the operation to end -/
  waiting : Option Nat := none
  /-- register writes made while BUSY, applied at completion: address and value, in order -/
  writes : List (Nat × Word) := []
  deriving DecidableEq, Repr

/-! ### Power, wake, tamper and module identity (chapters 16 and 17) -/

/-- The three clock request pairs of R62. -/
inductive Clk where
  | core | reg | smp
  deriving DecidableEq, Repr

/-- Clock requests (R62, R510) and the sleep sequencer's own state (R517 to R523). -/
structure PowerState where
  /-- requests raised, with the time each was raised -/
  req : List (Clk × Nat) := []
  ack : List Clk := []
  /-- time base at the start of the descent or ascent in progress -/
  began : Nat := 0
  /-- wakes logged and not yet written to AUDIT (R535), as CODE and DETAIL -/
  owed : List (Nat × Nat) := []
  /-- segments that were AWAKE when the descent began (R523) -/
  wereAwake : Nat := 0
  /-- asleep, HOST is out of retention, since this time of the last host access (R37) -/
  hostSince : Option Nat := none
  /-- tamper struck during the descent: no image is written (R551) -/
  noImage : Bool := false
  /-- the lookup image of the last descent is held, so that the ascent restores it (R522) -/
  lookupImage : Bool := false
  /-- segments to unpark as soon as they are parked (R524), one bit each -/
  segWake : Nat := 0
  /-- when the first frame that each segment's unpark holds came (R526) -/
  segSince : List (Option Nat) := [none, none, none, none, none, none, none, none]
  /-- records of each segment's image in the order in which they lie, as kind and index (R525) -/
  segRecs : List (List (Nat × Nat)) := [[], [], [], [], [], [], [], []]
  deriving DecidableEq, Repr

/-- The wake guard (R529 to R534); lists have one element for each channel. -/
structure WakeState where
  /-- guard key, while the GUARD domain holds one (R531) -/
  guardKey : Option Bytes := none
  /-- the listen window is open, since this time -/
  windows : List (Option Nat) := [none, none, none, none]
  /-- false wakes since the last confirmation on the channel (R532) -/
  falseRun : List Nat := [0, 0, 0, 0]
  /-- end of the channel's backoff -/
  backoff : List (Option Nat) := [none, none, none, none]
  /-- backoff episodes counted -/
  episodes : List Nat := [0, 0, 0, 0]
  /-- OT_WAKE_REQ is high -/
  req : Bool := false
  deriving DecidableEq, Repr

/-- The tamper supervisor (R539 to R553) beside its registers. -/
structure TamperState where
  /-- state of the four loops' LFSR sequences (R543) -/
  loops : List (BitVec 15) := [0, 0, 0, 0]
  /-- loops whose last returned bit differed from the driven bit -/
  differ : BitVec 4 := 0
  /-- VBAT log entries written since the last copy to AUDIT, oldest first (R553) -/
  uncopied : List Nat := []
  /-- the VBAT log's entries in the order they were written, oldest first -/
  logOrder : List Nat := []
  /-- the life-cycle state that held when main power was lost: the VBAT domain's own, while only VBAT is present (R553) -/
  lcVbat : Nat := 0
  /-- the fuse inputs have been taken, or their alarm has been raised (R55) -/
  fuseDone : Bool := false
  /-- after OT_RESET_N, the key park image has been restored (R550) -/
  restored : Bool := false
  /-- what the self-check at the end of the start-up in progress finds (R544): an input of the command that began it -/
  startFails : BitVec 16 := 0
  deriving DecidableEq, Repr

/-- A verified identity record (R556, R557). -/
structure ModRecord where
  bytes : Bytes
  digest : Bytes
  deriving DecidableEq, Repr

/-- A presence input of MODID (R554 to R560). -/
structure ModInput where
  /-- debounced presence -/
  present : Bool := false
  /-- the record as last read, whether or not it verified -/
  record : Bytes := []
  /-- digest of the verified record -/
  digest : Option Bytes := none
  /-- the bound digest, in TETHER -/
  bound : Option Bytes := none
  /-- nonce of the challenge in progress, and when it was written -/
  nonce : Option Bytes := none
  since : Nat := 0
  /-- time base of the last read -/
  lastRead : Nat := 0
  /-- the read in progress began from VERIFIED: bound slots stay LIVE -/
  fromVerified : Bool := false
  deriving DecidableEq, Repr

/-- A memory response (R40): data, data marked POISON, or BUSERR. -/
inductive MemResp where
  | okay | poison | buserr
  deriving DecidableEq, Repr

/-- What Otist drives out at its boundary, as far as the rules fix it, oldest first. -/
inductive Out where
  /-- a register read answered with this word -/
  | hostRead (addr : Nat) (value : Word)
  /-- a read request of so many bytes on the initiator port, with its requester ID (R38) -/
  | initRead (rid : BitVec 12) (addr : Nat) (len : Nat)
  /-- a write on the initiator port, with its requester ID (R38) -/
  | initWrite (rid : BitVec 12) (addr : Nat) (data : Bytes)
  /-- the response to a memory read: transaction, response and data -/
  | memRead (tid : BitVec 10) (resp : MemResp) (data : Bytes)
  /-- the response to a memory write -/
  | memWrite (tid : BitVec 10) (resp : MemResp)
  /-- a write to DRAM on the memory downstream port, with its byte strobes -/
  | dramWrite (addr : Nat) (data : Bytes) (strb : BitVec 64)
  /-- a frame on TXO or RXO of a port, and whether its EOF beat carries ERR -/
  | txo (port : Nat) (frame : Bytes) (err : Bool)
  | rxo (port : Nat) (frame : Bytes) (err : Bool)
  /-- a storage unit with its status -/
  | storUnit (status : Nat) (data : Bytes)
  /-- a record written to the anchor store -/
  | anchorWrite (slot : Nat) (record : Bytes)
  /-- a write on a module bus: presence input, offset and data -/
  | moduleWrite (input : Nat) (offset : Nat) (data : Bytes)
  /-- OT_LC_PROG_REQ with the code to burn -/
  | lcProg (code : Nat)
  deriving DecidableEq, Repr

/-- Why a step stops although the command has a meaning: no command of this block does. -/
inductive Fault where
  /-- raised by no meaning: the block has no behaviour that the spec calls undefined. Safe. -/
  | none
  deriving DecidableEq, Repr

/-- Why a step is refused. -/
inductive Refusal where
  /-- raised by the dispatch of a command that has no meaning yet. Safe: nothing can be proved of it. -/
  | notModelled (mnemonic : String)
  deriving DecidableEq, Repr

/-- The state of the block. -/
structure State where
  /-- commands waiting, first in, first out -/
  pending : List Instr := []
  /-- every register of every page (R72, R76), and the status the unit holds in them -/
  regs : RegFile := []
  /-- register clocks left of a soft reset, by page (R98) -/
  srst : SMap Nat := []
  /-- pages whose DRAIN_SLOW is already set for the drain in progress (R86) -/
  slowed : SMap Bool := []
  /-- high words latched by a read of the low word (R75), by address of the high word -/
  readShadow : SMap (Option Word) := []
  /-- low words held by a write until the high word is written (R75), by address of the low word -/
  writeShadow : SMap (Option Word) := []
  /-- times of the gusts still inside their window, by unit (R121, R178, R489, R540, R577, R585, R586) -/
  gusts : SMap (List Nat) := []
  /-- pages whose command unit was written to while BUSY (R257) -/
  cmdLate : SMap Bool := []
  bnd : Boundary := {}
  time : TimeState := {}
  chron : ChronState := {}
  /-- events counted by code under R597 -/
  counted : SMap (Option EventCount) := []
  keys : KeyState := {}
  slots : SMap Slot := []
  nodes : SMap Node := []
  rng : RngState := {}
  /-- random bytes served to queue descriptors and not yet used, by Cellar entry: key or secret -/
  drawn : SMap Bytes := []
  /-- random bytes served for blinding, by Cellar entry (R459) -/
  blinded : SMap Bytes := []
  cellar : CellarState := {}
  /-- association tables by location: table × 4096 + bucket × 4 + way, and the stash from 8192 (R242) -/
  assoc : SMap (Option (List Word)) := []
  /-- locations marked PARKED, which keep only what names their record (R524) -/
  parked : SMap Bool := []
  /-- the peer-context store (R260) -/
  peers : SMap (Option PeerBlock) := []
  rules : SMap TrieRule := []
  lookup : LookupState := {}
  /-- counters by handle -/
  counters : SMap Counter := []
  anchor : AnchorState := {}
  ports : SMap Port := []
  streams : StreamState := {}
  power : PowerState := {}
  wake : WakeState := {}
  tamper : TamperState := {}
  modules : SMap ModInput := []
  lanes : SMap LaneState := []
  sched : SchedState := {}
  queues : SMap QueuePair := []
  engine : QueueEngine := {}
  mem : MemState := {}
  /-- root blocks in TETHER, by region (R322) -/
  roots : SMap (Option Bytes) := []
  /-- Kiln passes in the order in which they were started (R359) -/
  passes : List Pass := []
  /-- storage units, in the order in which their headers passed -/
  units : List StorUnit := []
  parts : SMap Part := []
  loose : SMap LooseCtx := []
  /-- what Otist has driven out -/
  out : List Out := []
  /-- the model's own counter of free values drawn (no state of the spec) -/
  free : Nat := 0
  deriving DecidableEq, Repr

/-- The state right after OT_PORESET_N: every register at its reset value. -/
def State.reset : State := {}

end Sys2Proof.Machine
end

