-- ==== Sys2Proof/Machine/Prim.lean ====
section
/-! DEFINITION. What a step can do to the state: the primitive changes, each of one piece of state, and the
programs that the meanings are written as. A program's whole effect is the list of primitive changes it
makes, so whatever every primitive change keeps, every command keeps. -/
namespace Sys2Proof.Machine
open Sys2Proof

/-- One primitive change of the state. -/
inductive Prim where
  /-- a register word takes a value -/
  | reg (addr : Nat) (w : Word)
  /-- OT_RESET_N: every register word returns to its reset word but for the bits kept (R89) -/
  | regsKeep
  /-- OT_PORESET_N: every register word returns to its reset word (R64) -/
  | regsClear
  | srst (page : Nat) (left : Nat)
  | srstClear
  | slowed (page : Nat) (b : Bool)
  | slowedClear
  | readShadow (addr : Nat) (v : Option Word)
  | writeShadow (addr : Nat) (v : Option Word)
  | shadowsClear
  | gust (unit : Nat) (l : List Nat)
  | gustsKeep (p : List Nat)
  | cmdLate (page : Nat) (b : Bool)
  | cmdLateClear
  | bnd (b : Boundary)
  | time (t : TimeState)
  | chron (c : ChronState)
  | keys (k : KeyState)
  | slot (n : Nat) (v : Slot)
  | slotsClear
  | node (n : Nat) (v : Node)
  | nodesClear
  | rng (r : RngState)
  | drawn (e : Nat) (b : Bytes)
  | blinded (e : Nat) (b : Bytes)
  | drawnClear
  | counted (code : Nat) (c : Option EventCount)
  | cellar (c : CellarState)
  | centry (n : Nat) (e : Option CEntry)
  | assoc (loc : Nat) (e : Option (List Word))
  | assocClear
  | parked (loc : Nat) (b : Bool)
  | parkedClear
  | peer (n : Nat) (b : Option PeerBlock)
  | peersClear
  | rule (n : Nat) (r : TrieRule)
  | rulesClear
  | lookup (l : LookupState)
  | counter (h : Nat) (c : Counter)
  | countersClear
  | anchor (a : AnchorState)
  | port (n : Nat) (p : Port)
  | portsClear
  | streams (t : StreamState)
  | power (p : PowerState)
  | wake (w : WakeState)
  | tamper (t : TamperState)
  | modInput (n : Nat) (m : ModInput)
  | lane (n : Nat) (l : LaneState)
  | sched (c : SchedState)
  | queue (n : Nat) (q : QueuePair)
  | queuesClear
  | engine (e : QueueEngine)
  /-- the memory engine but for its transactions -/
  | mem (m : MemState)
  | txn (n : Nat) (t : Option MemTxn)
  | txnsClear
  | root (n : Nat) (b : Option Bytes)
  | rootsClear
  | passes (l : List Pass)
  | units (l : List StorUnit)
  | part (n : Nat) (p : Part)
  | partsClear
  | loose (n : Nat) (c : LooseCtx)
  | looseClear
  | out (o : Out)
  | free (n : Nat)

/-- Carry out one primitive change. -/
def Prim.run : Prim → State → State
  | .reg a w, s => { s with regs := setRegWord s.regs a w }
  | .regsKeep, s => { s with regs := keepRegs s.regs }
  | .regsClear, s => { s with regs := [] }
  | .srst p n, s => { s with srst := mset (fun _ => 0) s.srst p n }
  | .srstClear, s => { s with srst := [] }
  | .slowed p b, s => { s with slowed := mset (fun _ => false) s.slowed p b }
  | .slowedClear, s => { s with slowed := [] }
  | .readShadow a v, s => { s with readShadow := mset (fun _ => none) s.readShadow a v }
  | .writeShadow a v, s => { s with writeShadow := mset (fun _ => none) s.writeShadow a v }
  | .shadowsClear, s => { s with readShadow := [], writeShadow := [] }
  | .gust u l, s => { s with gusts := mset (fun _ => []) s.gusts u l }
  | .gustsKeep us, s => { s with gusts := s.gusts.filter fun p => us.contains p.1 }
  | .cmdLate p b, s => { s with cmdLate := mset (fun _ => false) s.cmdLate p b }
  | .cmdLateClear, s => { s with cmdLate := [] }
  | .bnd b, s => { s with bnd := b }
  | .time t, s => { s with time := t }
  | .chron c, s => { s with chron := c }
  | .keys k, s => { s with keys := k }
  | .slot n v, s => { s with slots := mset (fun _ => {}) s.slots n v }
  | .slotsClear, s => { s with slots := [] }
  | .node n v, s => { s with nodes := mset (fun _ => {}) s.nodes n v }
  | .nodesClear, s => { s with nodes := [] }
  | .rng r, s => { s with rng := r }
  | .drawn e b, s => { s with drawn := mset (fun _ => []) s.drawn e b }
  | .blinded e b, s => { s with blinded := mset (fun _ => []) s.blinded e b }
  | .drawnClear, s => { s with drawn := [], blinded := [] }
  | .counted k c, s => { s with counted := mset (fun _ => none) s.counted k c }
  | .cellar c, s => { s with cellar := { c with entries := s.cellar.entries } }
  | .centry n e, s => { s with cellar := { s.cellar with entries := mset (fun _ => none) s.cellar.entries n e } }
  | .assoc l e, s => { s with assoc := mset (fun _ => none) s.assoc l e }
  | .assocClear, s => { s with assoc := [] }
  | .parked l b, s => { s with parked := mset (fun _ => false) s.parked l b }
  | .parkedClear, s => { s with parked := [] }
  | .peer n b, s => { s with peers := mset (fun _ => none) s.peers n b }
  | .peersClear, s => { s with peers := [] }
  | .rule n r, s => { s with rules := mset (fun _ => {}) s.rules n r }
  | .rulesClear, s => { s with rules := [] }
  | .lookup l, s => { s with lookup := l }
  | .counter h c, s => { s with counters := mset (fun _ => {}) s.counters h c }
  | .countersClear, s => { s with counters := [] }
  | .anchor a, s => { s with anchor := a }
  | .port n p, s => { s with ports := mset (fun _ => {}) s.ports n p }
  | .portsClear, s => { s with ports := [] }
  | .streams t, s => { s with streams := t }
  | .power p, s => { s with power := p }
  | .wake w, s => { s with wake := w }
  | .tamper t, s => { s with tamper := t }
  | .modInput n m, s => { s with modules := mset (fun _ => {}) s.modules n m }
  | .lane n l, s => { s with lanes := mset (fun _ => {}) s.lanes n l }
  | .sched c, s => { s with sched := c }
  | .queue n q, s => { s with queues := mset (fun _ => {}) s.queues n q }
  | .queuesClear, s => { s with queues := [] }
  | .engine e, s => { s with engine := e }
  | .mem m, s => { s with mem := { m with txns := s.mem.txns } }
  | .txn n t, s => { s with mem := { s.mem with txns := mset (fun _ => none) s.mem.txns n t } }
  | .txnsClear, s => { s with mem := { s.mem with txns := [] } }
  | .root n b, s => { s with roots := mset (fun _ => none) s.roots n b }
  | .rootsClear, s => { s with roots := [] }
  | .passes l, s => { s with passes := l }
  | .units l, s => { s with units := l }
  | .part n p, s => { s with parts := mset (fun _ => {}) s.parts n p }
  | .partsClear, s => { s with parts := [] }
  | .loose n c, s => { s with loose := mset (fun _ => {}) s.loose n c }
  | .looseClear, s => { s with loose := [] }
  | .out o, s => { s with out := s.out ++ [o] }
  | .free n, s => { s with free := n }

/-- Carry out a list of primitive changes, the last first. -/
def runAll : List Prim → State → State
  | [], s => s
  | p :: l, s => p.run (runAll l s)

/-- A program: reads the state and makes primitive changes. -/
abbrev M (α : Type) := ReaderT State (StateM (List Prim)) α

/-- The state as the changes made so far have left it. -/
def getS : M State := fun s0 l => (runAll l s0, l)

/-- Make one primitive change. -/
def prim (p : Prim) : M Unit := fun _ l => ((), p :: l)

/-- The state a program ends in. -/
def runM (m : M Unit) (s : State) : State := runAll (m s []).2 s

/-- The outcome of a command whose effect is the program `m`. -/
def exec1 (m : M Unit) (s : State) : Host.Outcome State Fault Refusal := .next (runM m s)

/-- Do `f` for each element, first to last. -/
def forM {α : Type} : List α → (α → M Unit) → M Unit
  | [], _ => pure ()
  | x :: xs, f => do
    f x
    forM xs f

end Sys2Proof.Machine
end

