-- ==== Sys2Proof/Machine/Ops.lean ====
section
/-! DEFINITION. The named operations on registers, stamps, chronicle entries and page events that every
family uses. -/
namespace Sys2Proof.Machine
open Sys2Proof

/-! ### Registers -/

/-- The value of a register field. -/
def rd (f : RegField) : M Nat := do return fieldVal (← getS).regs f

/-- A field of a state's registers. -/
def State.fld (s : State) (f : RegField) : Nat := fieldVal s.regs f

/-- Store one word of the window. -/
def wrWord (a : Nat) (w : Word) : M Unit := prim (.reg a w)

/-- Store a field: each word the field lies in, low word first. -/
def wr (f : RegField) (v : Nat) : M Unit := do
  let r := (← getS).regs
  if f.lo < 32 then wrWord f.addr (spliceWord (regWord r f.addr) f v 0)
  if f.lo < 64 ∧ 32 ≤ f.hi then wrWord (f.addr + 4) (spliceWord (regWord r (f.addr + 4)) f v 1)
  if 64 ≤ f.hi then wrWord (f.addr + 8) (spliceWord (regWord r (f.addr + 8)) f v 2)

/-- Count one, saturating at the field's width. -/
def bump (f : RegField) : M Unit := do
  let v ← rd f
  if v + 1 < 2 ^ (f.hi - f.lo + 1) then wr f (v + 1)

/-- Add to a count, saturating at the field's width. -/
def bumpBy (f : RegField) (n : Nat) : M Unit := do
  let v ← rd f
  wr f (min (v + n) (2 ^ (f.hi - f.lo + 1) - 1))

/-- Count one, modulo the field's width. -/
def bumpMod (f : RegField) : M Unit := do wr f ((← rd f) + 1)

/-- Hold the highest value seen. -/
def wrMax (f : RegField) (v : Nat) : M Unit := do
  let m := min v (2 ^ (f.hi - f.lo + 1) - 1)
  if (← rd f) < m then wr f m

/-- Set or clear bit `i` of a field. -/
def wrBit (f : RegField) (i : Nat) (b : Bool) : M Unit := do
  let v ← rd f
  wr f (if b then v ||| 2 ^ i else v &&& (2 ^ (f.hi - f.lo + 1) - 1 - 2 ^ i))

/-- Drive something out at the boundary. -/
def emit (o : Out) : M Unit := prim (.out o)

/-- Draw a free value: the counter advances, so every draw is its own. -/
def fresh : M (BitVec 64) := do
  let n := (← getS).free
  prim (.free (n + 1))
  return Config.freeValue n

/-- A payload whose layout the spec does not give: 96 free bits. -/
def freshPayload : M (BitVec 96) := do
  let a ← fresh
  let b ← fresh
  return a ++ b.setWidth 32

/-! ### Time and stamps -/

/-- The slewed increment in units of 2^-32 ns (R505): nominal × (1 + r × 10^-9), rounded towards zero. The
rate is the two's complement TIME_RATE in ppb. -/
def slewedIncrement (rate : Word) : Nat :=
  (0x0000773594000000 * (1000000000 + rate.toInt)).toNat / 1000000000

/-- The increment in force: a new r takes effect at the next tick (R511), so the interval that a tick ends keeps its own, and the time
base does not decrease across it (R506). -/
def State.increment (s : State) : Nat := slewedIncrement s.time.rate

/-- What a read of the time base, and every stamp, returns (R506): OT_CLK_CORE runs while its ACK is high. -/
def State.now (s : State) : BitVec 64 :=
  if !s.power.ack.contains .core then s.time.acc
  else s.time.acc + BitVec.ofNat 64 (min s.time.clk (s.increment / 2 ^ 32 - 1))

/-- Draw a stamp (R18, R507): the time base and the next sequence number. -/
def stamp : M Stamp := do
  let s ← getS
  prim (.time { s.time with seq := s.time.seq + 1 })
  return ⟨s.now, s.time.seq⟩

/-! ### Page states, as fields (R86) -/

/-- The four page states, as PG_STAT.STATE encodes them. -/
def pgOff : Nat := 0
def pgActive : Nat := 1
def pgDraining : Nat := 2
def pgFault : Nat := 3

/-- A page is ACTIVE. -/
def State.active (s : State) (p : Nat) : Bool := s.fld (R.PG_STAT.STATE p) = pgActive

/-- The derivation of R249 runs (ASSOC's PG_STAT.INIT): the salts are wanted and not there. -/
def State.initRuns (s : State) : Bool :=
  (s.fld (R.PG_STAT.STATE 0x20) = pgActive || s.fld (R.PG_STAT.STATE 0x20) = pgDraining) && !s.lookup.salted

/-- A page's STATE. -/
def State.pageState (s : State) (p : Nat) : Nat := s.fld (R.PG_STAT.STATE p)

/-- A page is in a state other than OFF. -/
def State.pageUsed (s : State) (p : Nat) : Bool := s.pageState p ≠ pgOff

/-- An operation of the key core is pending (R29): of a queue descriptor whose status is not decided (R157), or
CHRON_CMD SIGN or CHECK. -/
def State.keyOpPending (s : State) : Bool :=
  s.fld R.CHRON_CMD_STAT.BUSY = 1 || s.queues.any fun p => p.2.descs.any fun d =>
    (d.phase = .accepted || d.phase = .executing) && decide (0x10 ≤ beAt d.bytes 0 1 ∧ beAt d.bytes 0 1 ≤ 0x28)

/-- What R29 keeps a domain on for while Otist is active: QUEUE, MEMLOGIC, MEMCACHE, FRAMER, LOOKUP and KEYCORE are on while a
page of theirs is in use (R86) or something that R29 names is; the others are switched as their chapters say. -/
def State.domainUsed (s : State) (d : Nat) : Bool :=
  let rgn (f : Nat → Bool) : Bool := (List.range 16).any fun n => s.fld (R.MEMRGN_CTL.STATE n) ≠ 0 && f n
  if d = 5 then ([0x03, 0x38] ++ (List.range 8).map (0x10 + ·)).any s.pageUsed || !s.cellar.replay.isEmpty
  else if d = 10 then [0x28, 0x29, 0x2A, 0x2C, 0x2D].any s.pageUsed || rgn fun _ => true
  else if d = 11 then s.pageUsed 0x2B || rgn fun n => decide (2 ≤ s.fld (R.MEMRGN_CFG.MODE n))
  else if d = 12 then ((List.range 6).map (0x18 + ·) ++ [0x30]).any s.pageUsed
  else if d = 13 then [0x20, 0x21, 0x22, 0x24].any s.pageUsed || !s.assoc.isEmpty || !s.lookup.active.isEmpty
  else if d = 14 then [0x34, 0x35, 0x36, 0x37, 0x3D, 0x3E].any s.pageUsed || s.fld R.TAMPER_STAT.STARTUP = 1
    || (s.slots.any fun x => x.2.st ≠ .empty) || s.keyOpPending
  else (s.fld R.POWER_STAT.DOMAINS_ON).testBit d

/-- A domain of R29 is on. -/
def State.domainOn (s : State) (d : Nat) : Bool :=
  s.domainUsed d && !((d = 5 || (decide (10 ≤ d) && decide (d ≤ 14))) && s.fld R.POWER_STAT.STATE = 2)

/-- Switch a domain. -/
def setDomain (d : Nat) (b : Bool) : M Unit := wrBit R.POWER_STAT.DOMAINS_ON d b

/-- PG_STAT of a page with its state bits. -/
def State.pgStat (s : State) (p : Nat) : Word := regWord s.regs (0x1000 * p + 0x0C)

/-! ### Event bits (R91) -/

/-- Set an event bit in PG_EVT_RAW; PG_EVT_STICKY sets when it rises (R91). Answers whether the bit rose. -/
def setEvent (e : PageEvent) : M Bool := do
  let raw ← rd (R.PG_EVT_RAW.EVT e.page)
  if raw.testBit e.bit then return false
  wr (R.PG_EVT_RAW.EVT e.page) (raw ||| 2 ^ e.bit)
  wrBit (R.PG_EVT_STICKY.EVT e.page) e.bit true
  return true

/-- The page event code of R614. -/
def pageEventCode (e : PageEvent) : BitVec 16 := BitVec.ofNat 16 (0x8000 + 0x100 * e.page + e.bit)

/-- The payload of a page event code: PG_EVT_RAW after the event in bits 95:64 (R614). -/
def pageEventPayload (raw : Nat) : BitVec 96 := BitVec.ofNat 96 (raw * 2 ^ 64)

/-! ### Chronicle entries -/

/-- k of R592: CHRON_CFG.AUDIT_LOG2 taken between 8 and 20. -/
def State.auditLog2 (s : State) : Nat := max 8 (min 20 (s.fld R.CHRON_CFG.AUDIT_LOG2))

/-- Entries in the ring: TAIL − HEAD (R592). -/
def State.auditUsed (s : State) : Nat :=
  (s.fld R.CHRON_AUDIT_TAIL.INDEX + 2 ^ 32 - s.fld R.CHRON_AUDIT_HEAD.INDEX) % 2 ^ 32

/-- The ring is stopped (R592). -/
def State.auditStopped (s : State) : Bool := s.fld R.CHRON_AUDIT_STAT.STOPPED = 1

/-- The ring is full; a stopped ring counts as full (R592). -/
def State.auditFull (s : State) : Bool := s.auditStopped || decide (2 ^ s.auditLog2 ≤ s.auditUsed)

/-- The AUDIT sink can take an entry (R597). -/
def State.auditTakes (s : State) : Bool := s.active 0x03 && !s.auditFull

/-- Something must be written before any other entry once the sink can take entries again (R597). -/
def State.holdOwed (s : State) : Bool :=
  !s.chron.hold.isEmpty || s.chron.rejected.isSome || !s.counted.isEmpty

/-- Hold entries that a class may still use (R597). -/
def holdRoom (c : EntryClass) (used : Nat) : Bool := match c with
  | .chronWrite | .start => decide (used < 64)
  | .immediate => decide (used < 56)
  | .other => decide (used < 40)

/-- Count an event that finds no entry, with its stamp (R597). -/
def countUp (c : Option EventCount) (ts : BitVec 64) : EventCount := match c with
  | none => ⟨1, ts.setWidth 32, ts.setWidth 32⟩
  | some e => ⟨e.count + 1, e.first, ts.setWidth 32⟩

/-- Put one entry into the hold or count its event (R597); an `other` entry that finds no room stays in the
writer. Answers whether the event was counted. -/
def placeHeld (w : WriterEntry) : M Bool := do
  let s ← getS
  if holdRoom w.cls s.chron.hold.length then
    prim (.chron { s.chron with hold := s.chron.hold ++ [{ w with entry := { w.entry with held := true } }] })
    return false
  else if w.cls = .other then
    prim (.chron { s.chron with writer := s.chron.writer ++ [w] })
    return false
  else if w.entry.cont then return false
  else
    let k := w.entry.code.toNat
    prim (.counted k (some (countUp (mget (fun _ => none) s.counted k) w.entry.ts)))
    bump R.CHRON_AUDIT_STAT.DEFERRED
    return true

/-- Put one entry on its way: into the hold while the AUDIT sink cannot take it and nothing older waits in the
writer, otherwise into the writer, which CHRON_ENTRY serves. -/
def placeEntry (w : WriterEntry) : M Bool := do
  let s ← getS
  if w.audit && !s.auditTakes && !(s.chron.writer.any fun x => x.audit) then placeHeld w
  else
    prim (.chron { s.chron with writer := s.chron.writer ++ [w] })
    return false

/-- Put the entries of an item on their way. Answers whether any was counted. -/
def placeAll : List WriterEntry → M Bool
  | [] => return false
  | w :: ws => do
    let a ← placeEntry w
    let b ← placeAll ws
    return a || b

/-- The entries of an item: they share the stamp and stand consecutively (R590). -/
def itemEntries (st : Stamp) (page : Nat) (req code : BitVec 16) (payloads : List (BitVec 96))
    (cls : EntryClass) (audit late : Bool) : List WriterEntry :=
  payloads.zipIdx.map fun (p, k) =>
    ⟨⟨st.ts, st.seq, BitVec.ofNat 8 page, decide (k ≠ 0), false, late, code, req, p, BitVec.ofNat 8 k,
      BitVec.ofNat 8 payloads.length⟩, cls, audit⟩

/-- DEFERRED (R597): the event bit, and its own entry. -/
def raiseDeferred : M Unit := do
  let _ ← setEvent E.CHRON.DEFERRED
  let st ← stamp
  let code := pageEventCode E.CHRON.DEFERRED
  let _ ← placeAll (itemEntries st 0x03 (Config.entryReq code) code
    [pageEventPayload (← rd (R.PG_EVT_RAW.EVT 0x03))] .other true false)

/-- Raise one chronicle item. It goes to AUDIT or TRACE by R591. -/
def raiseItem (st : Stamp) (page : Nat) (req : BitVec 16) (code : BitVec 16) (payloads : List (BitVec 96))
    (cls : EntryClass) (audit : Bool) : M Unit := do
  let late := (← getS).chron.late && audit
  if ← placeAll (itemEntries st page req code payloads cls audit late) then raiseDeferred

/-- An entry of a page's own event: to AUDIT when the page is security-class, else to TRACE (R591). -/
def pageEntry (page : Nat) (code : BitVec 16) (payloads : List (BitVec 96)) (cls : EntryClass := .other) : M Unit := do
  raiseItem (← stamp) page (Config.entryReq code) code payloads cls (auditPage page)

/-- An entry that goes to AUDIT whatever its page: an alarm, ABORT, ITEM_LOST, LOST_POSSIBLE or START (R591). -/
def auditEntry (page : Nat) (code : BitVec 16) (payloads : List (BitVec 96)) (cls : EntryClass := .other) : M Unit := do
  raiseItem (← stamp) page (Config.entryReq code) code payloads cls true

/-! ### Page events (R91, R614) -/

/-- An occurrence event: sets its bit and writes a page event code (R614). -/
def raise (e : PageEvent) (cls : EntryClass := .other) : M Unit := do
  let _ ← setEvent e
  pageEntry e.page (pageEventCode e) [pageEventPayload (← rd (R.PG_EVT_RAW.EVT e.page))] cls

/-- An occurrence event with a named code of R614: the named entry only. -/
def raiseNamed (e : PageEvent) (code : BitVec 16) (payloads : List (BitVec 96)) (cls : EntryClass := .other) : M Unit := do
  let _ ← setEvent e
  pageEntry e.page code payloads cls

/-- An event bit of the common header (STATE_CHG, WRREJ, FAULT, DRAIN_SLOW): no page event code of its own. -/
def raiseQuiet (e : PageEvent) : M Unit := do
  let _ ← setEvent e

/-- A condition event takes its level: the RAW bit is 1 for as long as the condition holds, the sticky bit sets
when it rises, and a page event code is written when it rises (R91, R614). -/
def setCond (e : PageEvent) (level : Bool) (cls : EntryClass := .other) : M Unit := do
  if level then
    if ← setEvent e then
      pageEntry e.page (pageEventCode e) [pageEventPayload (← rd (R.PG_EVT_RAW.EVT e.page))] cls
  else wrBit (R.PG_EVT_RAW.EVT e.page) e.bit false

/-- As `setCond`, for a condition with a named entry that its rule writes. -/
def setCondQuiet (e : PageEvent) (level : Bool) : M Unit := do
  if level then
    let _ ← setEvent e
  else wrBit (R.PG_EVT_RAW.EVT e.page) e.bit false

/-! ### Requester of an entry (R590) -/

/-- The requester field of an entry that a tenant's descriptor causes: tenant valid, tenant, requester ID. -/
def tenantReq (tenant rid : Nat) : BitVec 16 := BitVec.ofNat 16 (0x8000 + tenant % 8 * 0x1000 + rid % 0x1000)

/-! ### Gust windows (R121, R124, R489, R577) -/

/-- The window of a gust count: `GUST_WIN_MS` with 0 treated as 1 and above 64,000 as 64,000, in ns. -/
def gustWindow (ms : Nat) : Nat := max 1 (min 64000 ms) * 1000000

/-- Count an event of a unit in its window. Answers the events inside the window, this one among them, and
whether it is the `limit`-th within the window, which makes the fault lasting (R124). -/
def countGust (unit limit ms : Nat) : M (Nat × Bool) := do
  let s ← getS
  let t := s.now.toNat
  let l := ((mget (fun _ => []) s.gusts unit).filter fun x => decide (t < x + gustWindow ms)) ++ [t]
  prim (.gust unit l)
  return (l.length, decide (max 1 limit ≤ l.length))

end Sys2Proof.Machine
end

