-- ==== Sys2Proof/Machine/Layout.lean ====
section
/-! DEFINITION. What status registers are computed from: association entries (R245), CUT (R229), lanes in service (R117,
R129), the areas of regions (R318, R319) and of partitions (R391, R398), anchor records. -/
namespace Sys2Proof.Machine
open Sys2Proof

/-! ### Association entries (R245) -/

/-- Word `i` of an entry. -/
def wordAt (ws : List Word) (i : Nat) : Nat := (ws.getD i 0).toNat

/-- KIND, PORT, AN, TENANT, GROUP and GEN of an entry. -/
def eKind (ws : List Word) : Nat := bits (wordAt ws 0) 29 27
def ePort (ws : List Word) : Nat := bits (wordAt ws 0) 26 22
def eAn (ws : List Word) : Nat := bits (wordAt ws 0) 21 20
def eTenant (ws : List Word) : Nat := bits (wordAt ws 0) 19 17
def eGroup (ws : List Word) : Nat := bits (wordAt ws 0) 15 8
def eGen (ws : List Word) : Nat := bits (wordAt ws 0) 7 0

/-- HANDLE of an entry of a kind software installs (R243). -/
def eHandle (ws : List Word) : Nat := bits (wordAt ws 5) 28 16

/-- SLOT_A and SLOT_B, and PEER of a learned entry. -/
def eSlotA (ws : List Word) : Nat := bits (wordAt ws 3) 24 16
def eSlotB (ws : List Word) : Nat := bits (wordAt ws 3) 8 0
def ePeer (ws : List Word) : Nat := bits (wordAt ws 3) 11 0

/-- The entries installed, with their locations. -/
def State.assocs (s : State) : List (Nat × List Word) := s.assoc.filterMap fun p => p.2.map fun w => (p.1, w)

/-- A location is PARKED (R524). -/
def State.parkedAt (s : State) (loc : Nat) : Bool := mget (fun _ => false) s.parked loc

/-- The entry or parked record that a handle names (R243); learned entries have none. -/
def State.anyHandle (s : State) (h : Nat) : Option (Nat × List Word) :=
  s.assocs.find? fun p => eKind p.2 ≠ 4 && eHandle p.2 = h

/-- The entry that a handle names, unless it is parked. -/
def State.byHandle (s : State) (h : Nat) : Option (Nat × List Word) :=
  (s.anyHandle h).filter fun p => !s.parkedAt p.1

/-- The kind of the entry that a handle names, if it is installed. -/
def State.kindOf (s : State) (h : Nat) : Option Nat := (s.byHandle h).map fun p => eKind p.2

/-! ### Bridle pairs -/

/-- CUT applies to the pair (R229): the ingress association is an IEEE 802.1AE receive one. -/
def State.cutPair (s : State) (k : Nat) : Bool :=
  s.fld R.BRIDLE_CFG.CUT_EN = 1 && s.fld (R.BRIDLE_PAIR_CFG.POLICY k) = 1 && s.fld (R.BRIDLE_PAIR_CFG.FORMAT k) = 0
    && (let x := s.kindOf (s.fld (R.BRIDLE_PAIR_SA.IN_SA k)); x = some 0 || x = some 5)

/-! ### Lanes in service (R129) -/

/-- A lane. -/
def State.lane (s : State) (l : Nat) : LaneState := mget (fun _ => {}) s.lanes l

/-- A lane is available. -/
def State.laneAvail (s : State) (l : Nat) : Bool :=
  (s.pageState (0x08 + l) = pgActive || s.pageState (0x08 + l) = pgDraining) && !(s.lane l).fenced

/-- A lane serves a Cellar replay while its page is OFF (R118). -/
def State.laneReplays (s : State) (l : Nat) : Bool := (s.lane l).replaying && !s.cellar.replay.isEmpty

/-- R129 applies: no lane is available and none serves a Cellar replay. -/
def State.noLane (s : State) : Bool := (List.range 4).all fun l => !s.laneAvail l && !s.laneReplays l

/-- The scheduler may grant slots on the lane. -/
def State.inService (s : State) (l : Nat) : Bool :=
  let x := s.lane l
  x.powered && x.tested && !x.fenced && x.kat ≠ some .fault && x.kat ≠ some .entry && (s.laneAvail l || s.laneReplays l)

/-- N, the number of lanes in service. -/
def State.laneCount (s : State) : Nat := ((List.range 4).filter s.inService).length

/-- An item holds a context of its lane (R106, R107). -/
def LaneItem.opens (x : LaneItem) : Bool := x.tagged && !x.done

/-- Contexts that are open on a lane, and blocks assigned to it that have not entered (R113). -/
def State.contexts (s : State) (l : Nat) : Nat := (s.sched.items.filter fun x => x.lane = some l && x.opens).length
def LaneItem.left (x : LaneItem) : Nat := if x.done then 0 else x.blocks - x.next
def State.backlog (s : State) (l : Nat) : Nat :=
  ((s.sched.items.filter fun x => x.lane = some l).map LaneItem.left).sum

/-- Nothing is in flight on a lane but noise fill, no context is open on it, and no item is assigned to it. -/
def State.laneClear (s : State) (l : Nat) : Bool :=
  let a := s.lane l
  (a.kat.isNone && a.folds.isEmpty && a.slots.isEmpty && a.pipe.all fun p => p.2.what = .fill)
    && !s.sched.items.any fun x => x.lane = some l && !x.done

/-! ### Region areas (R318, R319) -/

/-- Modes. -/
def mdClear : Nat := 0
def mdConf : Nat := 1
def mdTag : Nat := 2
def mdTree : Nat := 3

/-- Blocks in level `l` of a tree over `size` chunks. -/
def levelBlocks (size l : Nat) : Nat := ceilDiv size (64 ^ l)

/-- The top level: the lowest with at most 64 blocks. -/
def topLevel (size : Nat) : Nat :=
  if size ≤ 64 then 0 else if size ≤ 4096 then 1 else if size ≤ 262144 then 2 else 3

/-- Bytes of levels `i` to `j - 1`. -/
def levelBytes (size i j : Nat) : Nat := (((List.range j).drop i).map fun l => 64 * levelBlocks size l).sum

/-- Offset of the root shadow within the metadata area, and of level `l`; and within the mirror area. -/
def metaLevel (size l : Nat) : Nat := size * 512 + levelBytes size 0 l
def metaShadow (size : Nat) : Nat := metaLevel size (topLevel size + 1)
def mirrorLevel (size l : Nat) : Nat := levelBytes size 1 l
def mirrorShadow (size : Nat) : Nat := mirrorLevel size (topLevel size + 1)

/-- Length of the metadata area in bytes, by mode. -/
def metaBytes (mode size : Nat) : Nat :=
  if mode = mdTag then size * 512 else if mode = mdTree then metaShadow size + 64 else 0

/-- Its length in units of 4 KiB, rounded up. -/
def metaUnits (mode size : Nat) : Nat := ceilDiv (metaBytes mode size) 4096

/-! ### Anchor records -/

/-- Writes of the last second that count against a limit. -/
def State.recentWrites (s : State) (ballast : Bool) : Nat :=
  (s.anchor.times.filter fun t => decide (s.now.toNat < t.1 + 1000000000) && (!ballast || t.2)).length

/-- The live record of a type and instance. -/
def State.liveRec (s : State) (k : Nat) : Option Bytes := (s.anchor.live.find? fun l => l.key = k).map (·.payload)

/-! ### Sealed partitions (R391, R398, R401) -/

/-- Table units, and lengths in units of 4 KiB of the live table's area and of the image. -/
def tuCount (count : Nat) : Nat := ceilDiv count 256
def tblUnits (count : Nat) : Nat := ceilDiv (16 * count + ceilDiv (tuCount count) 8) 4096
def headUnits (count : Nat) : Nat := ceilDiv (64 + 16 * tuCount count) 4096
def imgUnits (count : Nat) : Nat := headUnits count + tuCount count

/-- A STORAGE record's payload. -/
structure StorRec where
  first : Nat
  count : Nat
  epoch : Nat
  sealEpoch : Nat
  intent : Bool
  dus4k : Bool
  digest : Bytes

def StorRec.bytes (r : StorRec) : Bytes :=
  beBytes 6 r.first ++ beBytes 4 r.count ++ beBytes 6 r.epoch ++ beBytes 6 r.sealEpoch
    ++ beBytes 1 (b2n r.intent * 128 + b2n r.dus4k * 64) ++ [0] ++ padTo 8 r.digest ++ zeros 8

def storRec (b : Bytes) : StorRec :=
  { first := beAt b 0 6, count := beAt b 6 4, epoch := beAt b 10 6, sealEpoch := beAt b 16 6,
    intent := (beAt b 22 1).testBit 7, dus4k := (beAt b 22 1).testBit 6, digest := slice b 24 8 }

/-- The live STORAGE record of a partition. -/
def State.storLive (s : State) (p : Nat) : Option StorRec := (s.liveRec (0x30 + p)).map storRec

end Sys2Proof.Machine
end

