-- ==== Sys2Proof/Machine/QueueView.lean ====
section
/-! DEFINITION. What the WAIT bits of a queue pair are computed from (R142): the Cellar's reserves (R570), the rings (R136
to R147), descriptors and tokens (R168 to R174). -/
namespace Sys2Proof.Machine
open Sys2Proof

/-! ### Reserves (R570) -/

/-- The reserves of R570. -/
inductive Reserve where
  | memory | stream | storage | queue
  deriving DecidableEq, Repr

/-- The reserve of a kind. -/
def CKind.reserve : CKind → Reserve
  | .memRd | .memWr | .data => .memory
  | .egress | .ingress | .bridle => .stream
  | .storage => .storage
  | .queue => .queue

/-- KIND as an entry holds it; a data entry has no header of its own. -/
def CKind.code : CKind → Nat
  | .memRd => 1
  | .memWr => 2
  | .data => 0
  | .egress => 4
  | .ingress => 5
  | .bridle => 6
  | .storage => 7
  | .queue => 8

/-- The Cellar entries in use, with their numbers. -/
def State.inUse (s : State) : List (Nat × CEntry) := s.cellar.entries.filterMap fun p => p.2.map fun e => (p.1, e)

/-- Entries of a reserve in use. -/
def State.usedOf (s : State) (r : Reserve) : Nat := (s.inUse.filter fun p => p.2.kind.reserve = r).length

/-- The size of a reserve. -/
def State.reserveSize (s : State) : Reserve → Nat
  | .memory => 512
  | .stream => 96
  | .storage => 2
  | .queue => s.fld R.CELLAR_SHARE.QUEUE

/-- The macros that hold the two copies of an entry (R572). -/
def macrosOf (e : Nat) : Nat × Nat := (e % 4, 4 + (e + 1) % 4)

/-- The entry has a copy in a fenced macro and is withdrawn from allocation (R577). -/
def State.withdrawn (s : State) (e : Nat) : Bool :=
  let f := s.fld R.CELLAR_FENCED.MACROS
  f.testBit (macrosOf e).1 || f.testBit (macrosOf e).2

/-- A stream item waits for an entry (R571). -/
def State.streamWaits (s : State) : Bool := s.ports.any fun p => p.2.items.any fun i => i.asked.isSome

/-- The Cellar accepts new items: fewer than three macros are fenced (R577). -/
def State.cellarFault (s : State) : Bool := s.fld R.CELLAR_STAT.FAULT = 1

/-- A free entry of the reserve: the lowest (DESIGN CHOICE, the spec names none). -/
def State.freeEntry (s : State) (r : Reserve) : Option Nat :=
  if s.reserveSize r ≤ s.usedOf r ∨ s.cellarFault then none
  else (List.range 2048).find? fun e => (mget (fun _ => none) s.cellar.entries e).isNone && !s.withdrawn e

/-- An entry, if in use. -/
def State.entry (s : State) (n : Nat) : Option CEntry := mget (fun _ => none) s.cellar.entries n

/-! ### Fields of a descriptor (R154) -/

def QDesc.opcode (d : QDesc) : Nat := beAt d.bytes 0 1
def QDesc.barrier (d : QDesc) : Bool := (leAt d.bytes 1 1).testBit 0
def QDesc.ivGen (d : QDesc) : Bool := (leAt d.bytes 1 1).testBit 1
def QDesc.slotA (d : QDesc) : Nat := leAt d.bytes 2 2 % 512
def QDesc.slotB (d : QDesc) : Nat := leAt d.bytes 4 2 % 512
def QDesc.param (d : QDesc) : Nat := leAt d.bytes 6 2
def QDesc.src (d : QDesc) : Nat := leAt d.bytes 8 8 % 2 ^ 40
def QDesc.dst (d : QDesc) : Nat := leAt d.bytes 16 8 % 2 ^ 40
def QDesc.len (d : QDesc) : Nat := leAt d.bytes 0x18 4
def QDesc.auxLen (d : QDesc) : Nat := leAt d.bytes 0x1C 4
def QDesc.aux (d : QDesc) : Nat := leAt d.bytes 0x20 8 % 2 ^ 40
def QDesc.opdata (d : QDesc) : Bytes := slice d.bytes 0x28 24
def QDesc.policy (d : QDesc) : Word := BitVec.ofNat 32 (leAt d.opdata 0 4)

/-- The units of R157. -/
def QDesc.onLanes (d : QDesc) : Bool := decide (1 ≤ d.opcode ∧ d.opcode ≤ 7)

/-- An operation of the key core on keys, which R451 and R452 refuse. -/
def QDesc.keyOp (d : QDesc) : Bool := decide (0x10 ≤ d.opcode ∧ d.opcode ≤ 0x22)

/-- The slot that the operation materialises (R156). -/
def QDesc.target (d : QDesc) : Option Nat :=
  if d.opcode = 0x10 ∨ d.opcode = 0x11 ∨ d.opcode = 0x13 ∨ d.opcode = 0x22 then some d.slotB else none

/-- The slot whose invocation counter the descriptor reserves a value of (R158, R445). -/
def QDesc.counterSlot (d : QDesc) : Option Nat :=
  if d.opcode = 0x01 ∧ d.ivGen ∨ d.opcode = 0x12 then some d.slotA
  else if d.opcode = 0x07 ∧ d.ivGen then some d.slotB
  else none

/-- Tag lengths by their code (R156). -/
def aeadTagLen (c : Nat) : Nat := if c = 0 then 16 else if c = 1 then 12 else 8
def QDesc.tagIn (d : QDesc) : Nat := aeadTagLen (bits d.param 1 0)
def QDesc.tagOut (d : QDesc) : Nat := aeadTagLen (bits d.param 3 2)

/-- Key type of a PARAM type code of 0x11: 0 where the code names none. -/
def paramType (c : Nat) : Nat :=
  if c = 0 then 0x01 else if c = 1 then 0x02 else if c ≤ 5 then 0x10 + (c - 2) else 0

/-- The IV that a counter value makes under IV_GEN (R158); a wrapped key's IV has its own fixed field (R444). -/
def QDesc.genIv (d : QDesc) (v : Nat) : Bytes :=
  (if d.opcode = 0x12 then beBytes 4 0x57524150 else if d.opcode = 0x07 then slice d.opdata 12 4 else slice d.opdata 0 4)
    ++ beBytes 8 v

/-- The IV of a sealing operation: given, or formed from the counter reserved (R158). -/
def QDesc.sealIv (d : QDesc) (c : CEntry) : Bytes :=
  if d.ivGen then d.genIv c.valueA.toNat else if d.opcode = 0x07 then slice d.opdata 12 12 else slice d.opdata 0 12

/-! ### Descriptors and tokens -/

/-- The descriptor that holds a Cellar entry. -/
def State.descOf (s : State) (e : Nat) : Option (Nat × QDesc) :=
  (s.queues.filterMap fun p => (p.2.descs.find? fun d => d.entry = some e).map fun d => (p.1, d)).head?

/-- The descriptors of a queue pair. -/
def State.descs (s : State) (q : Nat) : List QDesc := (mget (fun _ => {}) s.queues q).descs

/-- All descriptors fetched and not yet acknowledged. -/
def State.allDescs (s : State) : List QDesc := (s.queues.map fun p => p.2.descs).flatten

/-- It holds its Cellar entry for its tenant's use, from acceptance to DONE. -/
def QDesc.charged (d : QDesc) : Bool := d.entry.isSome && d.phase != .done

/-- TOKENS of a tenant, as a signed number; a CHRON_RATE of 0 disables the limit (R170). -/
def State.tokens (s : State) (t : Nat) : Int :=
  let v := s.fld (R.QUEUE_TNT_STAT.TOKENS t)
  if v < 2 ^ 15 then (v : Int) else (v : Int) - 2 ^ 16

def State.chronRate (s : State) (t : Nat) : Nat := s.fld (R.QUEUE_TNT_QUOTA_C.CHRON_RATE t)
def State.tokensOut (s : State) (t : Nat) : Bool := decide (s.chronRate t ≠ 0) && decide (s.tokens t ≤ 0)

/-! ### Rings (R136 to R147) -/

/-- log2 of the ring sizes as taken, and the ring bases. -/
def State.clog (s : State) (q : Nat) : Nat := max 4 (min 12 (s.fld (R.QUEUE_Q_CFG.CLOG q)))
def State.rlog (s : State) (q : Nat) : Nat := max 5 (min 13 (s.fld (R.QUEUE_Q_CFG.RLOG q)))
def ringBase (a size : Nat) : Nat := a / size * size

/-- The address of the descriptor at a free-running index, and of a completion record. -/
def State.descAddr (s : State) (q i : Nat) : Nat :=
  let n := 2 ^ s.clog q
  ringBase (s.fld (R.QUEUE_Q_CBASE.ADDR q)) (64 * n) + 64 * (i % n)

def State.recAddr (s : State) (q i : Nat) : Nat :=
  let n := 2 ^ s.rlog q
  ringBase (s.fld (R.QUEUE_Q_RBASE.ADDR q)) (32 * n) + 32 * (i % n)

/-- Difference of two free-running 16-bit indices. -/
def idxSub (a b : Nat) : Nat := (a + 2 ^ 16 - b % 2 ^ 16) % 2 ^ 16

/-- The requester ID of a queue pair (R38). -/
def State.queueRid (s : State) (q : Nat) : BitVec 12 := BitVec.ofNat 12 (s.fld (R.QUEUE_Q_CFG.RID q))

/-- The tenant of a queue pair. -/
def State.queueTenant (s : State) (q : Nat) : Nat := s.fld (R.QUEUE_Q_CFG.TENANT q)

/-- Records still to be written for a descriptor that has been fetched: an ACCEPTED record, except under version 1.0, until
it is accepted, and a DONE record. -/
def QDesc.owed (d : QDesc) : Nat :=
  (if d.entry.isNone ∧ 2 ≤ d.version then 1 else 0) + (if d.phase = .done then 0 else 1)

/-- The completion ring has room for another descriptor's records (R142). -/
def State.ringRoom (s : State) (q : Nat) : Bool :=
  let need := if s.fld (R.QUEUE_Q_VER.GRANT q) = 1 then 1 else 2
  decide (idxSub (s.fld (R.QUEUE_Q_RTAIL.INDEX q)) (s.fld (R.QUEUE_Q_RHEAD.INDEX q))
    + ((s.descs q).map QDesc.owed).sum + need ≤ 2 ^ s.rlog q)

/-- Descriptors fetched and not yet accepted: each has a Cellar entry coming to it. -/
def State.unaccepted (s : State) : List QDesc := s.allDescs.filter fun d => d.entry.isNone

/-- The Cellar has a free entry for another descriptor. -/
def State.queueEntryFree (s : State) : Bool :=
  (s.freeEntry .queue).isSome && decide (s.usedOf .queue + s.unaccepted.length < s.reserveSize .queue)

/-- The tenant may hold another Cellar entry (R142, R174). -/
def State.cellarQuotaFree (s : State) (t : Nat) : Bool :=
  decide (((s.allDescs.filter fun d => d.tenant = t && (d.charged || d.entry.isNone)).length)
    < min 2048 (s.fld (R.QUEUE_TNT_QUOTA_A.CELLAR t)))

/-- The unmet conditions of R142 that an ACTIVE queue pair records, as WAIT_RING, WAIT_CELLAR and WAIT_QUOTA stand in
QUEUE_Q_STAT. DEDUCED (log entry 119): they show also where no descriptor is placed, as in step 1 of the worked example. -/
def State.waitBits (s : State) (q : Nat) : Nat :=
  if s.fld (R.QUEUE_Q_STAT.STATE q) ≠ pgActive ∨ s.fld (R.QUEUE_Q_VER.GRANT q) = 0 then 0
  else
    let t := s.queueTenant q
    (if s.ringRoom q then 0 else 2 ^ 8) + (if s.queueEntryFree then 0 else 2 ^ 7)
      + (if s.cellarQuotaFree t && !s.tokensOut t then 0 else 2 ^ 6)

end Sys2Proof.Machine
end

