-- ==== Sys2Proof/Machine/View.lean ====
section
/-! DEFINITION. What a read of the register window returns (R75, R90): the words of the register file, and
the status that the rules compute from other state. -/
namespace Sys2Proof.Machine
open Sys2Proof

/-! ### Events and interrupt outputs (R91, R94 to R96) -/

/-- PG_EVT_PEND: RAW AND EN (R91). -/
def State.pend (s : State) (p : Nat) : Nat :=
  ((regWord s.regs (0x1000 * p + 0x10)) &&& (regWord s.regs (0x1000 * p + 0x14))).toNat

/-- The interrupt outputs of R67. -/
inductive Irq where
  | svc | err | sec | wake
  deriving DecidableEq, Repr

/-- The event bits of page `p` that drive an output (R94): the common bits, then the page's own. -/
def irqMask (q : Irq) (p : Nat) : Nat :=
  let e := pageEvents p
  match q with
  | .svc => e.svc ||| 0x1
  | .err => e.err ||| 0xC ||| (if auditPage p then 0 else 0x2)
  | .sec => e.sec ||| (if auditPage p then 0x2 else 0)
  | .wake => e.wake

/-- Page `p` has a PG_EVT_PEND bit assigned to this output. -/
def State.pagePends (s : State) (q : Irq) (p : Nat) : Bool := carried p && decide (s.pend p &&& irqMask q p ≠ 0)

/-- The 64 bits of a GLOBAL_*_PAGES register. -/
def State.pagesWord (s : State) (q : Irq) : Nat :=
  ((List.range 64).map fun p => if s.pagePends q p then 2 ^ p else 0).sum

/-- The pages whose events drive OT_IRQ_SEC and OT_IRQ_WAKE while Otist is asleep (R96). -/
def sleepPages : List Nat := [0x02, 0x05, 0x06, 0x25, 0x3C]

/-- Otist is asleep: POWER_STAT.STATE is ASLEEP (R517). -/
def State.asleep (s : State) : Bool := s.fld R.POWER_STAT.STATE = 2

/-- Otist is GROUNDED (R548). -/
def State.grounded (s : State) : Bool := s.fld R.TAMPER_STAT.GROUNDED = 1

/-- GLOBAL_IRQ_EN's bit of an output (R95); OT_IRQ_SEC is always enabled. -/
def State.irqEnabled (s : State) : Irq → Bool
  | .svc => s.fld R.GLOBAL_IRQ_EN.SVC_EN = 1
  | .err => s.fld R.GLOBAL_IRQ_EN.ERR_EN = 1
  | .sec => true
  | .wake => s.fld R.GLOBAL_IRQ_EN.WAKE_EN = 1

/-- The level of an interrupt output (R69, R95, R96). -/
def State.irq (s : State) (q : Irq) : Bool :=
  if s.bnd.phase = .poreset ∨ s.bnd.phase = .resetDone then false
  else if q = .wake ∧ (s.bnd.phase = .draining ∨ s.grounded) then false
  else if q = .sec ∧ s.grounded then true
  else if s.asleep then
    (q = .sec ∨ q = .wake) && s.irqEnabled q && sleepPages.any (s.pagePends q)
  else s.irqEnabled q && (List.range 64).any (s.pagePends q)

/-- One bit. -/
def bitAt (b : Bool) (i : Nat) : Nat := if b then 2 ^ i else 0

/-- GLOBAL_IRQ_STAT (R97). -/
def State.irqStat (s : State) : Nat :=
  bitAt s.grounded 4 + bitAt (s.irq .wake) 3 + bitAt (s.irq .sec) 2 + bitAt (s.irq .err) 1 + bitAt (s.irq .svc) 0

/-! ### Page header -/

/-- The domain of a page's unit is off (R90). DESIGN CHOICE (log entry 117): the bit follows the domain, also where the
header table's reset 1 meets a domain that is on right after OT_PORESET_N. -/
def State.domOff (s : State) (p : Nat) : Bool := match pageSpec p with
  | some d => !s.domainOn d.domain
  | none => false

/-- A soft reset of the page is in progress (R98). -/
def State.srstBusy (s : State) (p : Nat) : Bool := decide (mget (fun _ => 0) s.srst p ≠ 0)

/-! ### Root (R415 to R419) -/

/-- VBAT_PRESENT: the presence marker, masked in two words (R416). -/
def State.vbatPresent (s : State) : Bool := s.keys.markA != s.keys.markB

/-- ROOT_OK (R419). -/
def State.rootOk (s : State) : Bool := s.vbatPresent && s.keys.fuseHeld

/-- Derivations from the root are possible: ROOT_OK, and not GROUNDED (R419, R548). -/
def State.rootUsable (s : State) : Bool := s.rootOk && !s.grounded

/-! ### Trace level (R603) -/

/-- Words of the bank that is filling and of the bank that is draining. -/
def ChronState.fill (c : ChronState) : TraceBank := if c.fillB then c.bankB else c.bankA
def ChronState.drain (c : ChronState) : TraceBank := if c.fillB then c.bankA else c.bankB

/-- Unread words of the draining bank. -/
def ChronState.remain (c : ChronState) : Nat := c.drain.words.length - c.drain.read

/-- The trace level: unread 64-byte units of both banks. -/
def ChronState.level (c : ChronState) : Nat := (c.remain + 15) / 16 + (c.fill.words.length + 15) / 16

/-! ### Kiln passes -/

/-- Dirty lines of a cache. -/
def dirtyCount (l : List CacheLine) : Nat := (l.filter CacheLine.dirty).length

/-- Chunk `c` of a region lies in a quarantined span (R381): a block of level l covers 64^l chunks (R318). -/
def State.chunkQuar (s : State) (n c : Nat) : Bool :=
  s.mem.quar.any fun q => match q with
    | some q => q.region = n && !q.newTree && q.index = c / 64 ^ q.level
    | none => false

/-- A pass changes its region's keys. -/
def Pass.newKeys (p : Pass) : Bool := p.kind = .rekey || p.kind = .rekeyGrow

/-- MODE of a region's configuration word (R307): 0 CLEAR, 1 CONF, 2 TAG, 3 TREE. -/
def RegionCfg.mode (c : RegionCfg) : Nat := bits c.cfg.toNat 31 30

/-- The step of the chunk in progress (R365), as KILN_STAT.STEP encodes it. -/
def State.passStep (s : State) (p : Pass) : Nat :=
  if p.kind = .format ∨ p.old.size ≤ p.bound then 2
  else if s.chunkQuar p.region p.bound then 2
  else if p.newKeys then 0
  else if p.old.mode = 1 then 3
  else 1

/-- Why the pass in progress waits (KILN_STAT.WAIT). A FORMAT pass does not need the page (R377); a pass that has walked its last
chunk waits for nothing else. -/
def State.passWait (s : State) (p : Pass) : Nat :=
  if s.fld (R.MEMRGN_CTL.STATE p.region) ≠ 1 ∨ s.fld (R.MEMRGN_CTL.BAD p.region) = 1 then 1
  else if p.kind ≠ .format ∧ !s.active 0x2C then 2
  else if p.new.size ≤ p.bound then 0
  else if p.started.isNone ∧ (s.mem.overflows.any fun o => o.region = p.region && !o.newTree && o.level = 0 && o.index = p.bound) then 3
  else if 64 ≤ s.fld R.MEM_MEDIA_TBL.USED then 4
  else if s.passStep p = 1 ∧ 1024 < dirtyCount s.mem.tag + 8 then 5
  else if p.started.isNone ∧ s.now.toNat < p.lastStart + s.fld R.KILN_CFG.PACE_US * 1000 then 6
  else 0

/-- The pass that KILN_CMD acts on and KILN_STAT shows, DEDUCED (log entries 75 and 78): the one that START began, else the first. -/
def State.shownPass (s : State) : Option Pass := match s.passes.find? fun p => p.kind ≠ .format with
  | some p => some p
  | none => s.passes.head?

/-- KILN_STAT.WAIT of the pass shown: 0x7 behind another pass (R359). -/
def State.shownWait (s : State) (p : Pass) : Nat := if s.passes.head? = some p then s.passWait p else 7

/-- KILN_STAT.STATE, and KILN_STAT with WAIT and STEP beside it. -/
def State.kilnState (s : State) : Nat := match s.shownPass with
  | none => 0
  | some p => if p.paused then 2 else if s.shownWait p = 0 then 1 else 3
def State.kilnStat (s : State) : Nat := s.kilnState + match s.shownPass with
  | none => 0
  | some p => s.shownWait p * 2 ^ 8 + s.passStep p * 2 ^ 6

/-! ### PG_STAT -/

/-- One bit for each of `n` things. -/
def bitsOf (n : Nat) (f : Nat → Bool) : Nat := ((List.range n).map fun i => if f i then 2 ^ i else 0).sum

/-- PAGE_STAT of a LANE page. -/
def State.laneStat (s : State) (l : Nat) : Nat :=
  let x := s.lane l
  bitAt x.fencedAtReset 20 + bitAt (x.powered && !x.tested) 19 + bitAt x.kat.isSome 18 + bitAt x.powered 17
    + bitAt (s.inService l) 16

/-- PAGE_STAT of the pages of blocks and of staging: queue pairs, ports, loops, regions, caches. -/
def State.blockStat (s : State) (p : Nat) : Nat :=
  if 0x10 ≤ p ∧ p ≤ 0x17 then
    let q (i : Nat) : Nat := (p - 0x10) * 4 + i
    bitsOf 4 (fun i => s.fld (R.QUEUE_Q_STAT.HALT_FETCH (q i)) = 1 || s.fld (R.QUEUE_Q_STAT.HALT_CMPL (q i)) = 1) * 2 ^ 20
      + bitsOf 4 (fun i => s.fld (R.QUEUE_Q_STAT.STATE (q i)) = pgActive) * 2 ^ 16
  else if p = 0x18 then bitsOf 8 (fun k => s.fld R.STRM_MACRO_FENCED.FENCED / 8 ^ k % 8 ≠ 0) * 2 ^ 16
  else if 0x19 ≤ p ∧ p ≤ 0x1C then
    let n (i : Nat) : Nat := (p - 0x19) * 8 + i
    bitsOf 8 (fun i => s.fld (R.STRM_P_STAT.STATE (n i)) = pgActive) * 2 ^ 24
      + bitsOf 8 (fun i => s.fld (R.STRM_P_STAT.XOFF (n i)) = 1) * 2 ^ 16
  else if p = 0x1D then bitsOf 4 (fun j => s.fld (R.BRIDLE_LOOP.ACTIVE j) = 1) * 2 ^ 16
  else if p = 0x28 then s.mem.overflows.length * 2 ^ 16
  else if p = 0x29 ∨ p = 0x2A then
    bitsOf 8 (fun i => s.fld (R.MEMRGN_CTL.STATE ((p - 0x29) * 8 + i)) = pgActive) * 2 ^ 16
  else if p = 0x2B then bitAt s.mem.flushAll 20 + s.mem.fenced.toNat * 2 ^ 16
  else if p = 0x2C then s.kilnState * 2 ^ 16
  else if p = 0x2D then (s.mem.quar.filter Option.isSome).length * 2 ^ 16
  else if p = 0x30 then (s.units.filter fun u => u.cellar.isSome).length * 2 ^ 24
    + bitsOf 8 (fun k => decide (2 ≤ s.fld (R.STOR_PART_CTL.STATE k))) * 2 ^ 16
  else 0

/-- The computed bits of PAGE_STAT (bits 31:16 of PG_STAT), as the page's chapter defines them. -/
def State.pageStat (s : State) (p : Nat) : Nat :=
  if p = 0x02 then bitAt (s.fld R.TIME_STAT.VALID = 1) 16
  else if p = 0x03 then bitAt s.auditFull 17 + bitAt (!s.chron.hold.isEmpty) 16
  else if p = 0x04 then bitAt (s.fld R.CELLAR_STAT.FAULT = 1) 17 + bitAt (!s.cellar.replay.isEmpty) 16
  else if p = 0x05 then s.fld R.POWER_STAT.STATE * 2 ^ 16
  else if p = 0x06 then bitAt (s.fld R.TAMPER_STAT.STARTUP = 1) 17 + bitAt s.grounded 16
  else if 0x08 ≤ p ∧ p ≤ 0x0B then s.laneStat (p - 0x08)
  else if 0x10 ≤ p ∧ p ≤ 0x1D ∨ 0x28 ≤ p ∧ p ≤ 0x30 then s.blockStat p
  else if p = 0x20 then bitAt s.initRuns 17 + bitAt (s.fld R.ASSOC_CMD_STAT.BUSY = 1) 16
  else if p = 0x21 then bitAt (s.fld R.LEARN_CMD_STAT.BUSY = 1) 16
  else if p = 0x22 then bitAt s.lookup.bank1 18 + bitAt s.lookup.built 17 + bitAt (s.fld R.TRIE_CMD_STAT.BUSY = 1) 16
  else if p = 0x25 then bitAt (!s.anchor.reqs.isEmpty && s.anchor.writing.isNone) 17 + bitAt s.anchor.writing.isSome 16
  else if p = 0x34 then bitAt s.rootOk 16
  else if p = 0x35 then bitAt (s.fld R.DERIVE_CMD_STAT.BUSY = 1) 16
  else if p = 0x36 then bitAt (s.fld R.SLOTS_CMD_STAT.BUSY = 1) 16
  else if p = 0x37 then bitAt ((mget (fun _ => {}) s.slots 511).st = .live) 17 + bitAt (s.fld R.PKE_CMD_STAT.BUSY = 1) 16
  else if p = 0x38 then bitsOf 4 (fun c => s.fld (R.LOOSE_CTX_STAT.BUSY c) = 1) * 2 ^ 16
  else if p = 0x3A then s.fld R.RNG_STAT.SRC * 2 ^ 16
  else if p = 0x3C then
    bitsOf 4 (fun c => (s.wake.backoff.getD c none).isSome) * 2 ^ 20
      + bitsOf 4 (fun c => (s.wake.windows.getD c none).isSome) * 2 ^ 16
  else if p = 0x3D then bitsOf 6 (fun i => s.fld (R.MODID_IN_STAT.STATE i) = 3) * 2 ^ 16
  else if p = 0x3E then bitAt (s.fld R.FACTORY_CMD_STAT.BUSY = 1) 16
  else 0

/-- PG_STAT: the stored bits with SRST_BUSY and DOM_OFF, and the page's own status. -/
def State.pgStatWord (s : State) (p : Nat) : Word :=
  s.pgStat p ||| BitVec.ofNat 32 (s.pageStat p + bitAt (s.domOff p) 5 + bitAt (s.srstBusy p) 4)

/-! ### Reads -/

/-- The words of a block at `base` with stride `stride`, `count` blocks: the index of the block whose word at `off` this
address is. -/
def blockAt (a base stride count off : Nat) : Option Nat :=
  if base ≤ a ∧ a < base + stride * count ∧ (a - base) % stride = off then some ((a - base) / stride) else none

/-- Computed words of queues, memory, storage, Bridle and anchor registers: the WAIT bits; CUT_EFF; TOP and ROOT_VALID, the metadata lengths; the table
and image lengths, INTENT, EPOCH and SEAL_EPOCH of the live record; the write rates. -/
def State.computedBlocks (s : State) (a : Nat) : Option Nat :=
  let stored := (regWord s.regs a).toNat
  if 0x10 ≤ a / 0x1000 ∧ a / 0x1000 ≤ 0x17 then
    (blockAt a (0x1000 * (a / 0x1000) + 0x80) 64 4 0x2C).map fun i => stored + s.waitBits ((a / 0x1000 - 0x10) * 4 + i)
  else if a / 0x1000 = 0x1D then (blockAt a 0x1D800 16 128 0x8).map fun k => stored + bitAt (s.cutPair k) 6
  else if a / 0x1000 = 0x25 then
    (if a = 0x25044 then some (min 511 (s.recentWrites false) * 2 ^ 16 + min 511 (s.recentWrites true)) else none)
  else if a / 0x1000 = 0x29 ∨ a / 0x1000 = 0x2A then
    let n (i : Nat) : Nat := (a / 0x1000 - 0x29) * 8 + i
    let b := 0x80 + a / 0x1000 * 0x1000
    match blockAt a b 64 8 0x1C, blockAt a b 64 8 0x20 with
    | some i, _ => some (stored + topLevel (s.fld (R.MEMRGN_SIZE.UNITS (n i))) * 2 ^ 30
        + bitAt (mget (fun _ => none) s.roots (n i)).isSome 28)
    | _, some i => some (metaUnits (s.fld (R.MEMRGN_CFG.MODE (n i))) (s.fld (R.MEMRGN_SIZE.UNITS (n i))) % 2 ^ 21)
    | none, none => none
  else if a = 0x2C064 then some (stored + s.kilnStat)
  else if a = 0x2C058 then
    some (metaUnits (s.fld (R.MEMRGN_CFG.MODE (s.fld R.KILN_PASS.REGION))) (s.fld R.KILN_NEW_SIZE.UNITS) % 2 ^ 21)
  else if 0x30400 ≤ a ∧ a < 0x30600 then
    let p := (a - 0x30400) / 0x40
    let o := a % 0x40
    let r : StorRec := (s.storLive p).getD ⟨0, 0, 0, 0, false, false, []⟩
    let c := s.fld (R.STOR_PART_COUNT.UNITS p)
    if o = 0 then some (stored + bitAt r.intent 16)
    else if o = 0x20 then some (tblUnits c % 2 ^ 21)
    else if o = 0x24 then some (imgUnits c % 2 ^ 21)
    else if o = 0x28 ∨ o = 0x2C then some (wordOf r.epoch ((o - 0x28) / 4))
    else if o = 0x30 ∨ o = 0x34 then some (wordOf r.sealEpoch ((o - 0x30) / 4))
    else none
  else none

/-- LANE_OCC: open messages and blocks in flight. -/
def State.laneOcc (s : State) (l : Nat) : Nat := s.contexts l * 2 ^ 8 + (s.lane l).pipe.length

/-- The life-cycle state is FIELD or RETIRED. -/
def State.fielded (s : State) : Bool := s.fld R.KEYS_LC.STATE = 2 || s.fld R.KEYS_LC.STATE = 3

/-- A field of TAMPER_SRC_CFG at its reset value. -/
def resetFld (f : RegField) : Nat := fieldVal [] f

/-- LIMIT and WIN_MS as applied. -/
def State.srcLimit (s : State) (c : Nat) : Nat :=
  let v := max 1 (s.fld (R.TAMPER_SRC_CFG.LIMIT c))
  if s.fielded then min v (max 1 (resetFld (R.TAMPER_SRC_CFG.LIMIT c))) else v
def State.srcWin (s : State) (c : Nat) : Nat :=
  let v := max 1 (min 64000 (s.fld (R.TAMPER_SRC_CFG.WIN_MS c)))
  if s.fielded then max v (resetFld (R.TAMPER_SRC_CFG.WIN_MS c)) else v
/-- The events of a unit within the window that ends now, at most 255. -/
def State.windowCount (s : State) (unit ms : Nat) : Nat :=
  min 255 ((mget (fun _ => []) s.gusts unit).filter fun x => decide (s.now.toNat < x + gustWindow ms)).length

/-- LANE_FAULT_STAT and RNG_HEALTH with GUST_COUNT, TAMPER_SRC_STAT with WIN_COUNT: what lies within the window now (R124, R489,
R540). -/
def State.laneFaultStat (s : State) (l : Nat) : Nat :=
  (regWord s.regs (R.LANE_FAULT_STAT.STAGE l).addr).toNat % 2 ^ 24
    + s.windowCount (0x08 + l) (s.fld (R.LANE_CFG.GUST_WIN_MS l)) * 2 ^ 24
def State.rngHealth (s : State) : Nat :=
  (regWord s.regs R.RNG_HEALTH.FAILURES.addr).toNat % 2 ^ 24 + s.windowCount 0x3A (s.fld R.RNG_CFG.GUST_WIN_MS) * 2 ^ 24
def State.srcStat (s : State) (c : Nat) : Nat :=
  let w := (regWord s.regs (R.TAMPER_SRC_STAT.EVENTS c).addr).toNat
  w / 2 ^ 24 * 2 ^ 24 + s.windowCount (0x100 + c) (s.srcWin c) * 2 ^ 16 + w % 2 ^ 16

/-- The word is the LANE_OCC register of a lane. -/
def isLaneOcc (a : Nat) : Bool := (0x08 ≤ a / 0x1000 ∧ a / 0x1000 ≤ 0x0B) && decide (a % 0x1000 = 0x68)

/-- The page-specific words that are computed. -/
def State.computed (s : State) (a : Nat) : Option Nat :=
  if a = 0x50 then some Config.otBase.toNat
  else if a = 0x54 then some Config.selfRid.toNat
  else if a = 0x1044 then some s.irqStat
  else if a = 0x1048 ∨ a = 0x104C then some (wordOf (s.pagesWord .svc) ((a - 0x1048) / 4))
  else if a = 0x1050 ∨ a = 0x1054 then some (wordOf (s.pagesWord .err) ((a - 0x1050) / 4))
  else if a = 0x1058 ∨ a = 0x105C then some (wordOf (s.pagesWord .sec) ((a - 0x1058) / 4))
  else if a = 0x1060 ∨ a = 0x1064 then some (wordOf (s.pagesWord .wake) ((a - 0x1060) / 4))
  else if a = 0x2040 ∨ a = 0x2044 then some (wordOf s.now.toNat ((a - 0x2040) / 4))
  else if a = 0x2048 then some ((regWord s.regs a).toNat -
      (if s.active 0x02 ∧ s.fld R.TIME_DISC.EN = 1 then 0 else bitAt (s.fld R.TIME_STAT.DISCIPLINED = 1) 29))
  else if a = 0x3058 then some ((regWord s.regs a).toNat + bitAt s.auditFull 31
      + s.chron.hold.length * 2 ^ 16)
  else if 0x3060 ≤ a ∧ a < 0x3080 then some (s.chron.chain.toNat / 2 ^ (32 * (7 - (a - 0x3060) / 4)) % 2 ^ 32)
  else if a = 0x30D8 then some ((regWord s.regs a).toNat + s.chron.level)
  else if a = 0x30DC then some ((regWord s.regs a).toNat + bitAt s.chron.fillB 31 + bitAt s.chron.openAt.isSome 30
      + bitAt s.chron.flushing 29 + s.chron.remain)
  else if a = 0x34040 then some (bitAt s.keys.fuseHeld 3 + bitAt s.vbatPresent 2 + (regWord s.regs a).toNat
      + bitAt s.rootOk 0)
  else if a = 0x4054 then some s.cellar.vbatOpen
  else if isLaneOcc a then some (s.laneOcc (a / 0x1000 - 0x08))
  else if 0x08 ≤ a / 0x1000 ∧ a / 0x1000 ≤ 0x0B ∧ a % 0x1000 = 0x4C then some (s.laneFaultStat (a / 0x1000 - 0x08))
  else if 0x6100 ≤ a ∧ a < 0x6180 ∧ a % 4 = 0 then some (s.srcStat ((a - 0x6100) / 4))
  else if a = 0x3A058 then some s.rngHealth
  else if a = 0x5044 then some ((regWord s.regs a).toNat / 2 ^ 16 * 2 ^ 16 + bitsOf 16 s.domainOn)
  else if 0x38140 ≤ a ∧ a < 0x38300 ∧ 0x40 ≤ a % 0x80 ∧ (s.fld R.LOOSE_CFG.PRIVATE).testBit ((a - 0x38100) / 0x80) then some 0
  else s.computedBlocks a

/-- Fields that read 0 while the domain of their page's unit is off, because their chapter does not hold them
in HOST or TETHER (R90, R133). -/
def notHeld (a : Nat) : Bool := isLaneOcc a

/-- What the word at window address `a` reads as, without side effects. An undefined offset and every offset
of a reserved page read as zero (R73, R74). -/
def State.view (s : State) (a : Nat) : Word :=
  let p := a / 0x1000
  let o := a % 0x1000
  if !carried p then 0
  else if o = 0x0C then s.pgStatWord p
  else if o = 0x18 then BitVec.ofNat 32 (s.pend p)
  else if o < 0x40 then regWord s.regs a
  else if s.domOff p && notHeld a then 0
  else match s.computed a with
    | some v => BitVec.ofNat 32 v
    | none => match findReg a with
      | none => 0
      | some _ => regWord s.regs a &&& ~~~(wordMask (fun f => f.ty = .wo) a)

/-! ### Page states (R86) -/

/-- A change of a page's STATE: sets STATE_CHG and writes a STATE entry (R86, R614). `forced`: by a fault. -/
def setPageState (p : Nat) (st : Nat) (forced : Bool := false) : M Unit := do
  wr (R.PG_STAT.STATE p) st
  raiseQuiet (E.PG.STATE_CHG p)
  let v := (← getS).pgStatWord p
  pageEntry p 0x0003 [BitVec.ofNat 96 (v.toNat * 2 ^ 64 + 0xFF)] (if forced then .immediate else .other)

end Sys2Proof.Machine
end

