-- ==== Sys2Proof/Machine/HostPort.lean ====
section
/-! DEFINITION. The host target port (R36, R78 to R85, R90): the outcome of a write, applying it by field type,
counting and recording it; and the reads that change state (R7, R75). -/
namespace Sys2Proof.Machine
open Sys2Proof

/-- A write on the host target port: requester, byte strobes, address within the window and value. -/
structure HostWr where
  rid : BitVec 12
  strb : BitVec 4
  addr : BitVec 18
  value : Word

/-- The page of a write. -/
def HostWr.page (w : HostWr) : Nat := w.addr.toNat / 0x1000

/-- The address of the word written. -/
def HostWr.at (w : HostWr) : Nat := w.addr.toNat / 4 * 4

/-! ### Outcome (R78) -/

/-- The offset is defined: a header register (0x030 to 0x03C are reserved) or a register of the page's chapter. -/
def definedAt (a : Nat) : Bool :=
  if a % 0x1000 < 0x40 then decide (a % 0x1000 < 0x30) else (findReg a).isSome

/-- The header registers that software can write: PG_CTL and the three event registers. -/
def headerWritable (o : Nat) : Bool := o = 0x08 ∨ o = 0x10 ∨ o = 0x14 ∨ o = 0x1C

/-- The types of the fields of the register addressed, over all its words. -/
def typesAt (a : Nat) : List FieldType :=
  if a % 0x1000 < 0x40 then
    (if a % 0x1000 = 0x08 then [.rws, .w1s, .wo] else if a % 0x1000 = 0x14 then [.rws]
     else if a % 0x1000 = 0x10 ∨ a % 0x1000 = 0x1C then [.w1c] else [.ro])
  else match findReg a with
    | some h => h.spec.fields.map fun f => f.ty
    | none => []

/-- Every field of the register is RO, RC or reserved, so that no write to it can have an effect. IDENT has no
writable field (R77). TIME_EPOCH_PTP_S is RO in FIELD and RETIRED (R512). -/
def State.readOnlyAt (s : State) (a : Nat) : Bool :=
  (typesAt a).all (fun t => t = .ro ∨ t = .rc) || decide (a / 0x1000 = 0)
    || (decide (a = R.TIME_EPOCH_PTP_S.SECONDS.addr)
        && (s.fld R.KEYS_LC.STATE = 2 || s.fld R.KEYS_LC.STATE = 3))

/-- A field would change in the bits of a mask. -/
def changes (old new : Word) (m : Nat) : Bool := decide ((old ^^^ new) &&& BitVec.ofNat 32 m ≠ 0)

/-- The page's chapter permits the register to be written only in OFF, and what the rule names is not OFF (R78
outcome 0x6, R99). -/
def State.offBlocked (s : State) (a : Nat) (v : Word) : Bool :=
  let p := a / 0x1000
  let on := decide (s.pageState p ≠ pgOff) && !(s.domOff p && decide (0x08 ≤ p ∧ p ≤ 0x0B))
  if a % 0x1000 = 0x08 then
    v.getLsbD 2 && (s.pageState p = pgActive || s.pageState p = pgDraining)
  else match findReg a with
    | none => false
    | some h => match h.spec.offRule with
      | .none => false
      | .page =>
        if h.spec.off = 0x84 ∧ 0x10 ≤ p ∧ p ≤ 0x17 then on && changes (s.view a) v 0x7 else on
      | .pair => decide (s.fld (R.BRIDLE_PAIR_CTL.STATE h.index) ≠ 0)
      | .loop =>
        let port (n : Nat) : Bool := decide (s.fld (R.STRM_P_STAT.STATE n) ≠ 0)
        port (bits v.toNat 4 0) || port (bits v.toNat 12 8)
          || (decide (s.fld (R.BRIDLE_LOOP.ACTIVE h.index) = 1)
              && (port (s.fld (R.BRIDLE_LOOP.PORT_A h.index)) || port (s.fld (R.BRIDLE_LOOP.PORT_B h.index))))
      | .region => decide (s.fld (R.MEMRGN_CTL.STATE (pageInst p * 8 + h.index)) ≠ 0)
      | .chronCfg => on && changes (s.view a) v 0x1F

/-- The page is sealed. IDENT reads SEALED from reset (R77). -/
def State.sealed (s : State) (p : Nat) : Bool := s.fld (R.PG_STAT.SEALED p) = 1

/-- The outcome of a write under R78, in the order of precedence that R78 lays down; 0 is an accepted write.
DESIGN CHOICE (log entry 19): while the domain is off, a write to a register that holds a WO field beside fields held in HOST
is refused whole, and PG_CTL, SOFT_RESET included, is exempt as part of the header. -/
def State.writeOutcome (s : State) (w : HostWr) : Nat :=
  let p := w.page
  let a := w.at
  if !carried p then 0x8
  else if w.strb ≠ 0xF then 0x2
  else if w.addr.toNat % 4 ≠ 0 then 0x3
  else if s.srstBusy p then 0x7
  else if !definedAt a || (s.domOff p && decide (0x40 ≤ a % 0x1000) && ((typesAt a).contains .wo || notHeld a)) then 0x4
  else if p ≤ 1 ∧ a % 0x1000 = 0x08 ∧ (w.value.getLsbD 0 || w.value.getLsbD 2) then 0xA
  else if s.readOnlyAt a then 0x5
  else if s.offBlocked a w.value then 0x6
  else if s.sealed p && (typesAt a).contains .rws then 0x1
  else if auditPage p ∧ p ≠ 0x03 ∧ !s.auditTakes then 0x9
  else 0x0

/-! ### Applying an accepted write (R79) -/

/-- The event bits that page `p` defines. -/
def eventBits (p : Nat) : Nat :=
  let e := pageEvents p
  e.svc ||| e.err ||| e.sec ||| e.wake ||| 0xF

/-- A register whose own rule says what a write does to it; the general application leaves it alone. -/
def ownRule (a : Nat) : Bool :=
  decide (a % 0x1000 = 0x08)
    || a = R.CHRON_AUDIT_HEAD.INDEX.addr
    || (0x10 ≤ a / 0x1000 ∧ a / 0x1000 ≤ 0x17) && (a % 0x1000 ≥ 0x80 && a % 0x1000 < 0x180)
        && (a % 0x40 = 0x18 || a % 0x40 = 0x20)
    || (a / 0x1000 = 0x3C && a % 0x1000 ≥ 0x80 && a % 0x1000 < 0x100 && a % 0x10 = 0x08)

/-- TAMPER_SRC_CFG of a source that only start-up raises, or of a code that R539 does not list, reads 0 and ignores
writes (R562). -/
def fixedSource (a : Nat) : Bool := decide (0x6080 ≤ a ∧ a < 0x6100) && resetWord a = 0

/-- A write to a Loose context's mode word, chaining words or key register while an operation of the context runs is
applied at its completion (R471). -/
def State.looseHeld (s : State) (a : Nat) : Option Nat :=
  let o := a % 0x1000
  let c := (o - 0x100) / 0x80
  let b := o % 0x80
  if a / 0x1000 = 0x38 ∧ 0x100 ≤ o ∧ o < 0x300 ∧ (b = 0 ∨ b = 8 ∨ 0x40 ≤ b) then
    match (mget (fun _ => {}) s.loose c).busy with
    | .op .. => some c
    | _ => none
  else none

/-- One word after a write of `v`, by the types of its fields (R7): RW and RWS take the value, W1C clears, W1S
sets, every other field and every reserved bit keeps its value. -/
def appliedWord (a : Nat) (old v : Word) : Word :=
  let rw := wordMask (fun f => f.ty = .rw ∨ f.ty = .rws) a
  let c := wordMask (fun f => f.ty = .w1c) a
  let w1s := wordMask (fun f => f.ty = .w1s) a
  (((old &&& ~~~rw) ||| (v &&& rw)) &&& ~~~(v &&& c)) ||| (v &&& w1s)

/-- Apply a write to one word of the window. A condition event whose condition holds is not cleared, and the
always-enabled bits of PG_EVT_EN stay 1 (R84, R91). -/
def applyWord (a : Nat) (v : Word) : M Unit := do
  let p := a / 0x1000
  let o := a % 0x1000
  let old := regWord (← getS).regs a
  if o = 0x10 then wrWord a (old &&& ~~~(v &&& ~~~(BitVec.ofNat 32 (pageEvents p).cond)))
  else if o = 0x14 then wrWord a ((v &&& BitVec.ofNat 32 (eventBits p)) ||| BitVec.ofNat 32 (pageEvents p).always)
  else if o = 0x1C then wrWord a (old &&& ~~~v)
  else if ownRule a ∨ fixedSource a then pure ()
  else match (← getS).looseHeld a with
    | some c =>
      let x := mget (fun _ => {}) (← getS).loose c
      prim (.loose c { x with writes := x.writes ++ [(a, appliedWord a old v)] })
    | none => wrWord a (appliedWord a old v)

/-- The word is the low word of a 64-bit register that software can write (R75). -/
def low64 (a : Nat) : Bool := match findReg a with
  | some h => decide (h.spec.words = 2 ∧ h.word = 0) && decide (0x40 ≤ a % 0x1000)
  | none => false

/-- The word is the high word of such a register. -/
def high64 (a : Nat) : Bool := match findReg a with
  | some h => decide (h.spec.words = 2 ∧ h.word = 1) && decide (0x40 ≤ a % 0x1000)
  | none => false

/-- Apply a write: a low word of a 64-bit register is held, and the high word commits both (R75). Answers
whether a register took a value. -/
def applyWrite (a : Nat) (v : Word) : M Bool := do
  if low64 a then
    prim (.writeShadow a (some v))
    return false
  else if high64 a then
    match mget (fun _ => none) (← getS).writeShadow (a - 4) with
    | some l =>
      applyWord (a - 4) l
      prim (.writeShadow (a - 4) none)
    | none => pure ()
    applyWord a v
    return true
  else
    applyWord a v
    return true

/-! ### Recording (R80) -/

/-- The payload of WR_ACCEPT and WR_REJECT. -/
def writePayload (value old : Word) (offset outcome : Nat) : BitVec 96 :=
  BitVec.ofNat 96 (value.toNat * 2 ^ 64 + old.toNat * 2 ^ 32 + offset % 0x1000 * 2 ^ 20 + outcome * 2 ^ 16)

/-- Record a write, accepted or rejected, as one chronicle entry in the page's sink. -/
def recordWrite (st : Stamp) (w : HostWr) (old : Word) (outcome : Nat) : M Unit :=
  raiseItem st w.page (w.rid.setWidth 16) (if outcome = 0 then 0x0001 else 0x0002)
    [writePayload w.value old w.addr.toNat outcome] (if w.page = 0x03 then .chronWrite else .other) (auditPage w.page)

/-- Reject a write (R73, R78, R81): count it, raise WRREJ and record it. A write to a reserved page is counted in
GLOBAL_RSVD_WR; one that finds the AUDIT sink full is counted towards one SUMMARY entry. -/
def rejectWrite (w : HostWr) (old : Word) (outcome : Nat) : M Unit := do
  let st ← stamp
  if outcome = 0x8 then bump R.GLOBAL_RSVD_WR.COUNT
  else
    bump (R.PG_WRREJ.COUNT w.page)
    raiseQuiet (E.PG.WRREJ w.page)
  if outcome = 0x9 then
    let c := (← getS).chron
    prim (.chron { c with rejected := some (countUp c.rejected st.ts) })
  else recordWrite st w old outcome

/-- Accept a write (R79): apply it, count it, stamp it and record it; then what the register's own rule does. -/
def acceptWrite (w : HostWr) (old : Word) (effect : M Unit) : M Unit := do
  let st ← stamp
  let took ← applyWrite w.at w.value
  bumpMod (R.PG_WRCOUNT.COUNT w.page)
  wr (R.PG_LASTWR_TS.TS w.page) st.ts.toNat
  recordWrite st w old 0
  if took then effect

/-- A write on the host target port, with the effect that the addressed register's own rule gives it. -/
def hostWrite (w : HostWr) (effect : M Unit) : M Unit := do
  let s ← getS
  let old := s.view w.at
  let o := s.writeOutcome w
  if o = 0 then acceptWrite w old effect else rejectWrite w old o

/-- A full-word write to a register, given as its field's address. -/
def fullWrite (rid : BitVec 12) (a : Nat) (v : Word) : HostWr := ⟨rid, 0xF, BitVec.ofNat 18 a, v⟩

/-! ### Reads that change state (R7, R75) -/

/-- What a read of the word answers: a latched high word first (R75). -/
def State.readWord (s : State) (a : Nat) : Word :=
  match mget (fun _ => none) s.readShadow a with
  | some v => v
  | none => s.view a

/-- Clear the RC fields of a word after a read. -/
def clearRc (a : Nat) : M Unit := do
  let m := wordMask (fun f => f.ty = .rc) a
  if m ≠ 0 ∧ 0x40 ≤ a % 0x1000 then
    let s ← getS
    wrWord a (regWord s.regs a &&& ~~~m)
    if 0x19 ≤ a / 0x1000 ∧ a / 0x1000 ≤ 0x1C ∧ a % 0x40 = (R.STRM_P_LEVEL.MAX 0).addr % 0x40 then
      let n := (a / 0x1000 - 0x19) * 8 + (a % 0x1000 - 0x80) / 0x40
      wr (R.STRM_P_LEVEL.MAX n) (s.fld (R.STRM_P_LEVEL.LEVEL n))
    else if a = R.MEM_OVF.MAX.addr then wr R.MEM_OVF.MAX s.mem.overflows.length
    else if a = R.CHRON_TRACE_LEVEL.MAX.addr then wr R.CHRON_TRACE_LEVEL.MAX s.chron.level

/-- A read of a word: answers it, lets go of a latched high word and clears RC fields. -/
def hostRead (a : Nat) : M Unit := do
  let s ← getS
  emit (.hostRead a (s.readWord a))
  prim (.readShadow a none)
  clearRc a

/-- A read of the low word of a 64-bit register latches the high word. -/
def hostReadLow (a : Nat) : M Unit := do
  let s ← getS
  let h := s.view (a + 4)
  hostRead a
  prim (.readShadow (a + 4) (some h))

end Sys2Proof.Machine
end

