-- ==== Sys2Proof/Machine/Cmd.lean ====
section
/-! DEFINITION. Command units (R257, R613): a register that starts a command, BUSY and RESULT, and the requests
for random bits that commands and descriptors make (R495). -/
namespace Sys2Proof.Machine
open Sys2Proof

/-- A command unit: its page, BUSY and RESULT, and the event, if it has one, that says that a command ended. -/
structure CmdUnit where
  page : Nat
  busy : RegField
  result : RegField
  done : Option PageEvent

/-- The command units of the pages. -/
def U.time : CmdUnit := ⟨0x02, R.TIME_CMD_STAT.BUSY, R.TIME_CMD_STAT.RESULT, some E.TIME.CMD_DONE⟩
def U.chron : CmdUnit := ⟨0x03, R.CHRON_CMD_STAT.BUSY, R.CHRON_CMD_STAT.RESULT, some E.CHRON.CMD_DONE⟩
def U.cellar : CmdUnit := ⟨0x04, R.CELLAR_CMD_STAT.BUSY, R.CELLAR_CMD_STAT.RESULT, none⟩
def U.tamper : CmdUnit := ⟨0x06, R.TAMPER_CMD_STAT.BUSY, R.TAMPER_CMD_STAT.RESULT, some E.TAMPER.CMD_DONE⟩
def U.assoc : CmdUnit := ⟨0x20, R.ASSOC_CMD_STAT.BUSY, R.ASSOC_CMD_STAT.RESULT, some E.ASSOC.CMD_DONE⟩
def U.learn : CmdUnit := ⟨0x21, R.LEARN_CMD_STAT.BUSY, R.LEARN_CMD_STAT.RESULT, none⟩
def U.trie : CmdUnit := ⟨0x22, R.TRIE_CMD_STAT.BUSY, R.TRIE_CMD_STAT.RESULT, none⟩
def U.fresh : CmdUnit := ⟨0x24, R.FRESH_CMD_STAT.BUSY, R.FRESH_CMD_STAT.RESULT, none⟩
def U.mem : CmdUnit := ⟨0x28, R.MEM_CMD_STAT.BUSY, R.MEM_CMD_STAT.RESULT, none⟩
def U.kiln : CmdUnit := ⟨0x2C, R.KILN_CMD_STAT.BUSY, R.KILN_CMD_STAT.RESULT, none⟩
def U.tree : CmdUnit := ⟨0x2D, R.TREE_CMD_STAT.BUSY, R.TREE_CMD_STAT.RESULT, none⟩
def U.stor : CmdUnit := ⟨0x30, R.STOR_CMD_STAT.BUSY, R.STOR_CMD_STAT.RESULT, some E.STOR.CMD_DONE⟩
def U.keys : CmdUnit := ⟨0x34, R.KEYS_CMD_STAT.BUSY, R.KEYS_CMD_STAT.RESULT, some E.KEYS.CMD_DONE⟩
def U.derive : CmdUnit := ⟨0x35, R.DERIVE_CMD_STAT.BUSY, R.DERIVE_CMD_STAT.RESULT, some E.DERIVE.CMD_DONE⟩
def U.slots : CmdUnit := ⟨0x36, R.SLOTS_CMD_STAT.BUSY, R.SLOTS_CMD_STAT.RESULT, some E.SLOTS.CMD_DONE⟩
def U.pke : CmdUnit := ⟨0x37, R.PKE_CMD_STAT.BUSY, R.PKE_CMD_STAT.RESULT, some E.PKE.CMD_DONE⟩
def U.modid : CmdUnit := ⟨0x3D, R.MODID_CMD_STAT.BUSY, R.MODID_CMD_STAT.RESULT, some E.MODID.CMD_DONE⟩
def U.factory : CmdUnit := ⟨0x3E, R.FACTORY_CMD_STAT.BUSY, R.FACTORY_CMD_STAT.RESULT, some E.FACTORY.CMD_DONE⟩

/-- The result codes of R613. -/
def rcOk : Nat := 0x00
def rcNotFound : Nat := 0x01
def rcHandleUsed : Nat := 0x02
def rcKeyUsed : Nat := 0x03
def rcFull : Nat := 0x04
def rcQuota : Nat := 0x05
def rcBadEntry : Nat := 0x06
def rcLiveUser : Nat := 0x07
def rcEnd : Nat := 0x08
def rcBadCmd : Nat := 0x09
def rcNotBuilt : Nat := 0x0A
def rcTooManyNodes : Nat := 0x0B
def rcDupRule : Nat := 0x0C
def rcBadRule : Nat := 0x0D
def rcState : Nat := 0x0E
def rcNotActive : Nat := 0x0F

/-- End a command: its result, with bit 7 set when another command was written meanwhile (R257), BUSY 0, and the
unit's event. -/
def cmdEnd (u : CmdUnit) (code : Nat) : M Unit := do
  let late := mget (fun _ => false) (← getS).cmdLate u.page
  wr u.result (code + (if late then 0x80 else 0))
  prim (.cmdLate u.page false)
  wr u.busy 0
  match u.done with
  | some e => raise e
  | none => pure ()

/-- End a command if one is running. -/
def cmdStop (u : CmdUnit) (code : Nat) : M Unit := do
  if (← rd u.busy) = 1 then cmdEnd u code

/-- A command written to a unit: while BUSY is 1 it does not run (R257); otherwise BUSY is 1 until the body ends it. -/
def cmdStart (u : CmdUnit) (body : M Unit) : M Unit := do
  if (← rd u.busy) = 1 then prim (.cmdLate u.page true)
  else
    wr u.busy 1
    body

/-- A command that its page serves only while it is ACTIVE, and otherwise ends with NOT_ACTIVE. -/
def cmdActive (u : CmdUnit) (body : M Unit) : M Unit :=
  cmdStart u do
    if (← getS).active u.page then body else cmdEnd u rcNotActive

/-! ### Random bits (R495, R498, R499) -/

/-- RNG_STAT.SRC is FAULT (R490). -/
def State.srcFault (s : State) : Bool := s.fld R.RNG_STAT.SRC = 4

/-- KEY and PR requests end without a byte (R499, R502). -/
def State.noKeyBits (s : State) : Bool := s.srcFault || s.fld R.RNG_TEST_CTL.TEST_ACTIVE = 1

/-- Queue a generate request. -/
def askRandom (cls : RandClass) (user : RandUser) (bytes : Nat) : M Unit := do
  let s ← getS
  prim (.rng { s.rng with reqs := s.rng.reqs ++ [⟨cls, user, bytes, s.now.toNat⟩] })
  if cls ≠ .ordinary ∧ s.rng.seeds.isEmpty then wr R.RNG_STAT.KEY_WAIT 1

/-! ### The initiator port (R38, R39) -/

/-- The byte that the memory answers at an address. -/
def dramByte : List (Nat × Bytes) → Nat → Option Byte
  | [], _ => none
  | (b, d) :: r, a => if b ≤ a ∧ a < b + d.length then d[a - b]? else dramByte r a

/-- A read of `n` bytes; `none` is a BUSERR. -/
def dramRead (d : Dram) (a : Nat) : Nat → Option Bytes
  | 0 => some []
  | n + 1 => match dramRead d a n, dramByte d.reads (a + n) with
    | some l, some b => some (l ++ [b])
    | _, _ => none

/-- A write of `n` bytes answers OKAY. -/
def dramStores (d : Dram) (a n : Nat) : Bool := !(d.bad.any fun x => decide (a ≤ x ∧ x < a + n))

/-- The parts, as address and length, into which the 64-byte lines of memory cut `n` bytes from `a` on. -/
def linePieces (a n : Nat) : List (Nat × Nat) :=
  (List.range (if n = 0 then 0 else (a + n + 63) / 64 - a / 64)).map fun i =>
    let lo := max a (64 * (a / 64 + i))
    (lo, min (a + n) (64 * (a / 64 + i + 1)) - lo)

/-- The requests that are issued: none after the first that fails (R39). -/
def issued (fails : Nat × Nat → Bool) : List (Nat × Nat) → List (Nat × Nat)
  | [] => []
  | p :: r => p :: if fails p then [] else issued fails r

/-- The requests of a read of `n` bytes and of a write. DESIGN CHOICE: one for each 64-byte line (log entry 118). -/
def readReqs (d : Dram) (a n : Nat) (rid : BitVec 12 := Config.selfRid) : List Out :=
  (issued (fun p => (dramRead d p.1 p.2).isNone) (linePieces a n)).map fun p => .initRead rid p.1 p.2

def writeReqs (d : Dram) (a : Nat) (b : Bytes) (rid : BitVec 12 := Config.selfRid) : List Out :=
  (issued (fun p => !dramStores d p.1 p.2) (linePieces a b.length)).map fun p => .initWrite rid p.1 (slice b (p.1 - a) p.2)

/-- A read of Otist's own, or of a queue with its requester ID (R38); `none` is a BUSERR. -/
def readDram (d : Dram) (a n : Nat) (rid : BitVec 12 := Config.selfRid) : M (Option Bytes) := do
  forM (readReqs d a n rid) emit
  return dramRead d a n

/-- A write of Otist's own, or of a queue with its requester ID (R38); answers whether the memory answered OKAY. -/
def dramWrite (d : Dram) (a : Nat) (b : Bytes) (rid : BitVec 12 := Config.selfRid) : M Bool := do
  forM (writeReqs d a b rid) emit
  return dramStores d a b.length

/-- Two writes, of which the second is issued only if the first answers OKAY (R39). -/
def dramWrite2 (d : Dram) (a1 : Nat) (b1 : Bytes) (a2 : Nat) (b2 : Bytes) : M Bool := do
  if ← dramWrite d a1 b1 then dramWrite d a2 b2 else return false

end Sys2Proof.Machine
end

