-- ==== Sys2Proof/Machine/Chronicle.lean ====
section
/-! DEFINITION. The chronicle's sinks: the AUDIT ring with its chain and seals (R592 to R595), the hold (R597) and
the TRACE banks (R599 to R603); and actions that wait for an entry (R597). -/
namespace Sys2Proof.Machine
open Sys2Proof

/-! ### Keys that the chronicle uses (R425) -/

/-- The root as bytes (R415). -/
def State.root (s : State) : Bytes :=
  beBytes 32 (s.keys.vbatA ^^^ s.keys.vbatB ^^^ s.keys.fuseA ^^^ s.keys.fuseB).toNat

/-- The life-cycle code of R449 in force, from KEYS_LC.STATE. -/
def State.lcCode (s : State) : Nat :=
  let v := s.fld R.KEYS_LC.STATE
  if v = 0 then 0x00 else if v = 1 then 0x01 else if v = 2 then 0x03 else if v = 3 then 0x07 else 0x0B

/-- The audit seal key, while it can be derived. -/
def State.auditKey (s : State) : Option Bytes :=
  if s.rootUsable then some (fixedKey s.root "OTIST AUDIT SEAL" 0x02 s.lcCode 0) else none

/-! ### The ring -/

/-- A chronicle entry as 32 bytes (R590). -/
def entryBytes (e : Entry) : Bytes :=
  leBytes 8 e.ts.toNat ++ leBytes 2 e.seq.toNat ++ [e.page]
    ++ [BitVec.ofNat 8 (b2n e.cont + 2 * b2n e.unsealed + 4 * b2n e.held)]
    ++ leBytes 2 e.code.toNat ++ leBytes 2 e.req.toNat ++ leBytes 12 e.payload.toNat ++ [e.part, e.parts, 0, 0]

/-- The ring's base, aligned to its size (R137, R592). -/
def State.auditBase (s : State) : Nat :=
  let size := 32 * 2 ^ s.auditLog2
  s.fld R.CHRON_AUDIT_BASE.ADDR * 32 / size * size

/-- The MAC of R594 over an index and a chain value. -/
def sealMac (key : Bytes) (index : Nat) (chain : Bytes) : Bytes := (cmac key (0xA5 :: beBytes 4 index ++ chain)).take 12

/-- A SEAL entry's payload and UNSEALED flag for the ring's next index (R594, R595). -/
def State.sealed1 (s : State) (e : Entry) : Entry := match s.auditKey with
  | some k => { e with payload := BitVec.ofNat 96 (leNat (sealMac k (s.fld R.CHRON_AUDIT_TAIL.INDEX)
      (beBytes 32 s.chron.chain.toNat))) }
  | none => { e with payload := 0, unsealed := true }

/-- The ring's fill level reaches the AUDIT_FULL event. -/
def auditLevel : M Unit := do
  let f := (← getS).auditFull
  setCond E.CHRON.AUDIT_FULL f

/-- Write one entry to the ring: chain it and move TAIL (R592, R593). A SEAL entry takes its payload here. -/
def ringWrite1 (e0 : Entry) : M Unit := do
  let s ← getS
  let isSeal := decide (e0.code = 0x0011)
  let e := if isSeal then s.sealed1 e0 else e0
  let tail := s.fld R.CHRON_AUDIT_TAIL.INDEX
  emit (.initWrite Config.selfRid (s.auditBase + 32 * (tail % 2 ^ s.auditLog2)) (entryBytes e))
  wr R.CHRON_AUDIT_TAIL.INDEX (tail + 1)
  let h := sha256 (beBytes 32 s.chron.chain.toNat ++ entryBytes e)
  prim (.chron { s.chron with
    chain := BitVec.ofNat 256 (beNat h), sinceSeal := if isSeal then 0 else s.chron.sinceSeal + 1 })
  if isSeal then
    wr R.CHRON_AUDIT_STAT.UNSEALED (b2n e.unsealed)
    raiseQuiet E.CHRON.SEALED

/-- A SEAL entry, to be given its payload when it is written. -/
def sealEntry : M Entry := do
  let st ← stamp
  return ⟨st.ts, st.seq, 0x03, false, false, false, 0x0011, Config.entryReq 0x0011, 0, 0, 1⟩

/-- The ring is due a SEAL entry: SEAL_EVERY entries stand since the last (R594). -/
def State.sealDue (s : State) : Bool := decide (max 1 (s.fld R.CHRON_CFG.SEAL_EVERY) ≤ s.chron.sinceSeal)

/-- Write the SEAL entry that is due, if the ring can take it. What R597 has owed, its step 5 included, is written first. -/
def sealIfDue : M Unit := do
  let s ← getS
  if s.sealDue && s.auditTakes && !s.holdOwed && s.chron.waiting.isEmpty && !(s.chron.writer.any fun w => w.audit && w.entry.held) then
    ringWrite1 (← sealEntry)
    auditLevel

/-- Write an entry to the ring; a SEAL entry stands between items, not within one. -/
def ringWrite (e : Entry) : M Unit := do
  ringWrite1 e
  auditLevel
  if e.part.toNat + 1 = e.parts.toNat then sealIfDue

/-- An event raised by the chronicle itself that a SEAL records: raise a SEAL entry (R594). -/
def raiseSeal : M Unit := do
  raiseItem (← stamp) 0x03 (Config.entryReq 0x0011) 0x0011 [0] .other true

/-! ### Emptying the hold (R597) -/

/-- A SUMMARY entry (R614). DESIGN CHOICE (log entry 131): R81 asks for the low 32 bits of both stamps, and R614's 96 bits have room
for 16 bits of the last one, so bits 95:80 are the low 16 bits of the last stamp. -/
def summaryEntry (code : Nat) (c : EventCount) : M Entry := do
  let st ← stamp
  let p := code + c.count % 2 ^ 32 * 2 ^ 16 + c.first.toNat * 2 ^ 48 + c.last.toNat % 2 ^ 16 * 2 ^ 80
  return ⟨st.ts, st.seq, 0x03, false, false, false, 0x0012, Config.entryReq 0x0012, BitVec.ofNat 96 p, 0, 1⟩

/-- The first held START entry, and the hold without it. -/
def takeStart : List WriterEntry → Option (WriterEntry × List WriterEntry)
  | [] => none
  | w :: ws => if w.cls = .start then some (w, ws) else
    match takeStart ws with
    | some (x, r) => some (x, w :: r)
    | none => none

/-- One entry owed, in the order of R597: START, the SUMMARY of rejected writes, held entries, SUMMARY entries. -/
def drainOne : M Unit := do
  let s ← getS
  let c := s.chron
  match takeStart c.hold with
  | some (w, r) =>
    prim (.chron { c with hold := r })
    ringWrite { w.entry with held := false }
  | none => match c.rejected with
    | some n =>
      prim (.chron { c with rejected := none })
      ringWrite (← summaryEntry 0x0002 n)
    | none => match c.hold with
      | w :: r =>
        prim (.chron { c with hold := r })
        ringWrite w.entry
      | [] => match s.counted with
        | (k, some n) :: _ =>
          prim (.counted k none)
          ringWrite (← summaryEntry k n)
        | _ => pure ()

/-- The START entry of the present start-up stands in the hold and waits for its RESET_COUNT: it is the first entry of the start-up, so
nothing is written before it (R589, R597). -/
def State.startWaits (s : State) : Bool := s.chron.startAt.isSome && (takeStart s.chron.hold).isSome

/-- Write what is owed while the ring takes entries. -/
def drainHold : Nat → M Unit
  | 0 => pure ()
  | n + 1 => do
    let s ← getS
    if s.auditTakes && s.holdOwed && !s.startWaits then
      drainOne
      drainHold n
    else sealIfDue

/-! ### TRACE banks (R599 to R603) -/

/-- Words in one bank of 16 KiB. -/
def bankWords : Nat := 4096

/-- A length word. -/
def lengthWord (truncated continued : Bool) (bytes : Nat) : Word :=
  BitVec.ofNat 32 (2 ^ 31 + bitAt truncated 30 + bitAt continued 29 + bytes % 2 ^ 16)

/-- Unread items of a bank, and the unread words of an item that is partly read, from word `p` on. -/
def unreadItems (ws : List Word) (read : Nat) : Nat → Nat → Nat × Nat
  | 0, _ => (0, 0)
  | f + 1, p =>
    if ws.length ≤ p then (0, 0)
    else
      let e := p + 1 + (ws.getD p 0).toNat % 2 ^ 16 / 4
      let r := unreadItems ws read f e
      if read < e then (r.1 + 1, if p < read then e - read else r.2) else r

/-- Put back the two banks. -/
def ChronState.withBanks (c : ChronState) (fillB : Bool) (fill drain : TraceBank) : ChronState :=
  if fillB then { c with fillB := true, bankB := fill, bankA := drain }
  else { c with fillB := false, bankA := fill, bankB := drain }

/-- The level moves HIGH, LOW and MAX (R189, R191, R603). LOW is taken below HIGH (R192). -/
def traceLevel : M Unit := do
  let s ← getS
  let v := s.chron.level
  wrMax R.CHRON_TRACE_LEVEL.MAX v
  let hi := s.fld R.CHRON_TRACE_WM.HIGH
  let lo := min (s.fld R.CHRON_TRACE_WM.LOW) (hi - 1)
  if !s.chron.high && decide (hi < v) then
    prim (.chron { s.chron with high := true })
    raise E.CHRON.TRACE_HIGH
  else if s.chron.high && decide (v ≤ lo) then
    prim (.chron { s.chron with high := false })
    raise E.CHRON.TRACE_LOW

/-- A switch (R600): unread items of the bank overwritten are lost. -/
def traceSwitch : M Unit := do
  let s ← getS
  let c := s.chron
  let d := c.drain
  let (lost, part) := unreadItems d.words d.read d.words.length 0
  prim (.chron { c.withBanks (!c.fillB) {} { c.fill with read := 0 } with cut := if part ≠ 0 then part else c.cut })
  if part ≠ 0 then wr R.CHRON_TRACE_STAT.READ_CUT 1
  if lost ≠ 0 then
    bumpBy R.CHRON_TRACE_LOST.COUNT lost
    raise E.CHRON.TRACE_LOST

/-- Append words to the filling bank. -/
def tracePut (ws : List Word) : M Unit := do
  let c := (← getS).chron
  prim (.chron (c.withBanks c.fillB { c.fill with words := c.fill.words ++ ws } c.drain))

/-- Open an item, or its continuation, in the filling bank: its length word is written as zero. -/
def traceOpen (continued : Bool) : M Unit := do
  let c := (← getS).chron
  prim (.chron { c with openAt := some c.fill.words.length, openCont := continued })
  tracePut [0]

/-- Close the open item, or the part of it held so far. -/
def traceClose (truncated : Bool) : M Unit := do
  let c := (← getS).chron
  match c.openAt with
  | none => pure ()
  | some p =>
    let n := 4 * (c.fill.words.length - p - 1)
    let c1 := { c with openAt := none, openCont := false }
    prim (.chron (c1.withBanks c.fillB
      { c.fill with words := c.fill.words.set p (lengthWord truncated c.openCont n) } c.drain))

/-- At an item boundary: switch when the draining bank is read to its end and the filling bank holds an item. -/
def traceBoundary : M Unit := do
  let c := (← getS).chron
  if c.openAt.isNone && c.remain = 0 && !c.fill.words.isEmpty then traceSwitch

/-- Split the open item (R601). -/
def traceSplit : M Unit := do
  traceClose true
  traceSwitch
  bump R.CHRON_TRACE_SPLIT.COUNT
  traceOpen true

/-- An entry as eight words, entry byte 4w in bits 7:0 of word w (R602). -/
def entryWords (e : Entry) : List Word := (chunks 8 4 (entryBytes e)).map fun b => BitVec.ofNat 32 (leNat b)

/-- Write one entry to TRACE (R599 to R601). While the CHRON page is not ACTIVE, the item is discarded and
counted. -/
def traceWrite (e : Entry) : M Unit := do
  let s ← getS
  if !s.active 0x03 && s.chron.openAt.isNone then
    if !e.cont then bump R.CHRON_TRACE_LOST.COUNT
  else
    if s.chron.openAt.isNone then
      if bankWords < s.chron.fill.words.length + 9 then traceSwitch
      traceOpen false
    else if bankWords < s.chron.fill.words.length + 8 then traceSplit
    tracePut (entryWords e)
    if e.part.toNat + 1 = e.parts.toNat then
      traceClose false
      let c := (← getS).chron
      if c.flushing then
        prim (.chron { c with flushing := false })
        traceSwitch
        raise E.CHRON.FLUSH_DONE
      else traceBoundary
    traceLevel

/-! ### Alarms -/

/-- The payload of an ALARM entry (R614). -/
def alarmPayload (src grade win : Nat) (startup : Bool) (page : Nat) : BitVec 96 :=
  BitVec.ofNat 96 (src + grade * 2 ^ 8 + min win 255 * 2 ^ 16 + bitAt startup 24 + page * 2 ^ 32)

/-! ### Actions that wait for an entry (R597) -/

/-- An event of a security-class page finds no entry, so it waits together with its action. -/
def State.eventWaits (s : State) : Bool :=
  !s.chron.late && (!s.chron.waiting.isEmpty || (!s.auditTakes && decide (40 ≤ s.chron.hold.length)))

/-- An action of page `p` recorded by an `other` event: it waits while its entry finds no room. -/
def waitable (i : Instr) (p : Nat) (m : M Unit) : M Unit := do
  let s ← getS
  if auditPage p && s.eventWaits then prim (.chron { s.chron with waiting := s.chron.waiting ++ [i] })
  else m

end Sys2Proof.Machine
end

