-- ==== Sys2Proof/Machine/Pipe.lean ====
section
/-! DEFINITION. One block on its way through the 32 stages of a lane, with its round-key pipeline (R100 to R103, R225). -/
namespace Sys2Proof.Machine
open Sys2Proof

/-! ### The round-key pipeline -/

/-- x^n in GF(2^8): the round constant of the n+1-th round constant word. -/
def rcon : Nat → Nat
  | 0 => 1
  | n + 1 => gf8x (rcon n)

/-- What FIPS 197 XORs to word `i - nk` to make word `i` of a key schedule, from word `i - 1`. -/
def keyWord (nk i : Nat) (prev : Bytes) : Bytes :=
  if i % nk = 0 then
    match (prev.drop 1 ++ prev.take 1).map aesSub with
    | a :: r => (a ^^^ BitVec.ofNat 8 (rcon (i / nk - 1))) :: r
    | [] => []
  else if 6 < nk ∧ i % nk = 4 then prev.map aesSub
  else prev

/-- The schedule one word further: `ws` are `nk` words, the oldest, word `i`, first. -/
def keyForward (i : Nat) (ws : List Bytes) : List Bytes :=
  ws.drop 1 ++ [xorBytes (ws.headD []) (keyWord ws.length (i + ws.length) (ws.getLastD []))]

/-- The schedule one word back. -/
def keyBack (i : Nat) (ws : List Bytes) : List Bytes :=
  xorBytes (ws.getLastD []) (keyWord ws.length (i + ws.length - 1) (ws.getD (ws.length - 2) [])) :: ws.dropLast

/-- Four words further or back: the register of the next round. -/
def keyRound (inv : Bool) (i : Nat) (ws : List Bytes) : List Bytes :=
  if inv then keyBack (i - 3) (keyBack (i - 2) (keyBack (i - 1) (keyBack i ws)))
  else keyForward (i + 3) (keyForward (i + 2) (keyForward (i + 1) (keyForward i ws)))

/-- Rounds of a block whose key register has so many words. -/
def keyRounds (nk : Nat) : Nat := if nk = 8 then 14 else 10

/-- The inverse start key (R102): the last round key of a 128-bit key, the last two of a 256-bit key. -/
def startKey (key : Bytes) : Bytes :=
  let ks := aesRoundKeys key
  (ks.drop (ks.length - key.length / 16)).flatten

/-- A bank's inverse start key, for the key types that the lanes take: it is that of the data key of an XTS pair. -/
def startKeyOf (type : Nat) (material : Bytes) : Bytes :=
  if type = 0x01 ∨ type = 0x02 then startKey material
  else if type = 0x03 ∨ type = 0x04 then startKey (material.take (material.length / 2))
  else []

/-! ### Stages -/

/-- It is a known-answer block. -/
def LaneBlock.known (b : LaneBlock) : Bool := match b.what with
  | .known _ => true
  | _ => false


/-- The round key that a round stage adds; round 0 is that of E1. -/
def LaneBlock.roundKey (b : LaneBlock) (r : Nat) : Bytes :=
  if b.key.length = 4 then b.key.flatten
  else if (r = 0) = (b.inv = false) then (b.key.take 4).flatten
  else if r = 0 ∨ b.inv = false then (b.key.drop 4).flatten
  else (b.key.take 4).flatten

/-- E0: the block's key bank is read, the inverse start key in place of the cipher key for the inverse cipher. -/
def enterE0 (what : BlockOf) (key start : Bytes) (inv : Bool) (inp tweak post carry : Bytes) (bad : Bool) : LaneBlock :=
  let nk := if key.length = 32 then 8 else 4
  { what := what, st := padTo 16 inp, key := chunks nk 4 (padTo (4 * nk) (if inv then start else key)),
    word := if inv then 4 * keyRounds nk + 4 - nk else 0, inv := inv, tweak := tweak, post := post, carry := carry, bad := bad }

/-- The round-key pipeline at the first stage of round `r`. A 256-bit key's register holds the key of round 1 from the start. -/
def LaneBlock.keyStep (b : LaneBlock) (r : Nat) : LaneBlock :=
  if b.key.length = 8 ∧ r = 1 then b
  else { b with key := keyRound b.inv b.word b.key, word := if b.inv then b.word - 4 else b.word + 4 }

/-- A block in the stage after it has moved there. S(2r-1) and S(2r) do round `r`; a block that has done its rounds passes
unchanged (R100). -/
def LaneBlock.stage (b : LaneBlock) (k : Nat) : LaneBlock :=
  if k = 1 then { b with st := xorBytes (xorBytes b.st (padTo 16 b.tweak)) (b.roundKey 0) }
  else if k < 30 then
    let r := k / 2
    if keyRounds b.key.length < r then b
    else if k % 2 = 0 then
      { b.keyStep r with st := if b.inv then (aesInvShiftRows b.st).map aesInvSub else aesShiftRows (b.st.map aesSub) }
    else
      let last := decide (r = keyRounds b.key.length)
      let a := b.roundKey r
      { b with st :=
        if b.inv then (if last then xorBytes b.st a else aesInvMixColumns (xorBytes b.st a))
        else xorBytes (if last then b.st else aesMixColumns b.st) a }
  else if k = 30 then
    { b with st := xorBytes (xorBytes (xorBytes b.st (padTo 16 b.tweak)) (padTo 16 b.post)) (padTo 16 b.carry),
             key := [], carry := [] }
  else b

/-- Stages of a lane. -/
def laneStages : Nat := 32

end Sys2Proof.Machine
end

