-- ==== Sys2Proof/Machine/Keys.lean ====
section
/-! DEFINITION. The key core as every unit uses it: policies (R429, R430), slots and banks (R433 to R436), uses
(R431), nodes and their chains (R420 to R425), loads (R434) and what holds a generation (R20). -/
namespace Sys2Proof.Machine
open Sys2Proof

/-! ### Policy words (R429) -/

/-- The engines of a policy word, by their bit. -/
inductive Engine where
  | stream | mem | stor | queue | bridle | loose | pke
  deriving DecidableEq, Repr

/-- The bit of an engine. -/
def Engine.bit : Engine → Nat
  | .stream => 31
  | .mem => 30
  | .stor => 29
  | .queue => 28
  | .bridle => 27
  | .loose => 26
  | .pke => 25

/-- USES bits. -/
def useDerive : Nat := 23
def useWrap : Nat := 22
def useCtxWrap : Nat := 21
def useAttest : Nat := 20

/-- DIR allows the direction: `enc` for encrypt, seal, sign, agree and wrap. -/
def dirAllows (p : Word) (enc : Bool) : Bool :=
  let d := bits p.toNat 19 18
  d = 0 || (d = 1 && enc) || (d = 2 && !enc)

/-- The policy sets EXPIRE_RESET, EXPORT or MODULE_REQ; its MODULE and USE_EXP. -/
def polExpire (p : Word) : Bool := p.getLsbD 17
def polExport (p : Word) : Bool := p.getLsbD 16
def polModuleReq (p : Word) : Bool := p.getLsbD 15
def polModule (p : Word) : Nat := bits p.toNat 14 12
def polUseExp (p : Word) : Nat := bits p.toNat 5 0

/-- A policy word that Otist accepts. -/
def policyValid (p : Word) : Bool :=
  !p.getLsbD 24 && !p.getLsbD 6 && decide (bits p.toNat 19 18 ≠ 3) && decide (polModule p ≤ 5)
    && decide (polUseExp p ≤ 32)
    && !((p.getLsbD 31 || p.getLsbD 30 || p.getLsbD 29) && decide (polUseExp p ≠ 0))

/-- The policy's LC_MASK includes the life-cycle state in force. -/
def State.lcAllows (s : State) (p : Word) : Bool := p.getLsbD (7 + s.fld R.KEYS_LC.STATE)

/-! ### Slots and nodes -/

/-- A slot. -/
def State.slot (s : State) (n : Nat) : Slot := mget (fun _ => {}) s.slots n

/-- A node. -/
def State.node (s : State) (n : Nat) : Node := mget (fun _ => {}) s.nodes n

/-- A presence input of MODID. -/
def State.module (s : State) (n : Nat) : ModInput := mget (fun _ => {}) s.modules n

/-- The slot of the attestation key (R433). -/
def attestSlot : Nat := 511

/-- The banks of a slot that hold a key, the active one first. -/
def Slot.banks (l : Slot) : List Bank := l.active.toList ++ l.other.toList

/-- Bits 15:0 of a bank's generation, as a Cellar entry holds it (R573). -/
def gen16 (b : Bank) : BitVec 16 := b.gen.setWidth 16

/-- An entry holds a bank generation of a slot (R20). -/
def CEntry.holds (e : CEntry) (slot : Nat) (g : BitVec 16) : Bool := e.keys.any fun k => k = some ⟨slot, g⟩

/-- A Loose operation holds a bank generation of a slot (R470). -/
def State.looseHolds (s : State) (slot : Nat) (g : BitVec 16) : Bool := s.loose.any fun p => match p.2.busy with
  | .op k .. => k = ⟨slot, g⟩
  | _ => false

/-- An item holds the bank. -/
def State.held (s : State) (slot : Nat) (b : Bank) : Bool :=
  (s.inUse.any fun p => p.2.holds slot (gen16 b)) || s.looseHolds slot (gen16 b)

/-- Items that hold either bank of a slot. -/
def State.inflight (s : State) (n : Nat) : Nat :=
  (s.inUse.filter fun p => (s.slot n).banks.any fun b => p.2.holds n (gen16 b)).length

/-- The bank that an accepted item's key reference names (R439): the slot's bank of that generation. -/
def State.bankOf (s : State) (k : KeyRef) : Option Bank := (s.slot k.slot).banks.find? fun b => gen16 b = k.gen

/-- The key of one of an entry's references. -/
def State.entryKey (s : State) (e : CEntry) (i : Nat) : Option Bank := match e.keys.getD i none with
  | some k => s.bankOf k
  | none => none

/-- The reference to a slot's active bank. -/
def State.refOf (s : State) (n : Nat) : Option KeyRef := (s.slot n).active.map fun b => ⟨n, gen16 b⟩

/-! ### Uses of a key (R430, R431, R443) -/

/-- Why a key is refused (R166, R621). -/
inductive KeyFail where
  | empty | orphaned | policy
  deriving DecidableEq, Repr

/-- The completion status of a refused key (R162). -/
def KeyFail.status : KeyFail → Nat
  | .empty => 0x0020
  | .policy => 0x0021
  | .orphaned => 0x0022

/-- The RESULT of a register command for a refused key (R621). -/
def KeyFail.result : KeyFail → Nat
  | .empty => rcNotFound
  | .policy => rcBadEntry
  | .orphaned => rcState

/-- What a use requires of a key. -/
structure KeyNeed where
  types : List Nat
  engine : Option Engine := none
  use : Option Nat := none
  /-- encrypt or decrypt, if the use has a direction -/
  enc : Option Bool := none
  /-- the use needs DIR 0b00 -/
  both : Bool := false

/-- A key's policy admits a use. -/
def State.admits (s : State) (type : Nat) (p : Word) (d : KeyNeed) : Bool :=
  d.types.contains type
    && (match d.engine with | some e => p.getLsbD e.bit | none => true)
    && (match d.use with | some u => p.getLsbD u | none => true)
    && (match d.enc with | some x => dirAllows p x | none => true)
    && (!d.both || decide (bits p.toNat 19 18 = 0))
    && s.lcAllows p

/-- The uses counted for a bank's key: with its node, or with the bank (R431). -/
def State.usesOf (s : State) (b : Bank) : Nat := match b.node with
  | some k => (s.node k).uses
  | none => b.uses

/-- One more use would exceed 2^USE_EXP. -/
def State.usedUp (s : State) (b : Bank) : Bool :=
  decide (polUseExp b.policy ≠ 0) && decide (2 ^ polUseExp b.policy ≤ s.usesOf b)

/-- The key that a new use of a slot takes, or why it is refused. -/
def State.useKey (s : State) (n : Nat) (d : KeyNeed) : Except KeyFail Bank :=
  let l := s.slot n
  match l.st with
  | .empty | .wideTail => .error .empty
  | .orphaned | .clearing => .error .orphaned
  | .suspended => .error .policy
  | .live => match l.active with
    | none => .error .empty
    | some b =>
      if n = attestSlot ∧ d.use ≠ some useAttest then .error .policy
      else if !s.admits l.type.toNat b.policy d then .error .policy
      else if s.usedUp b then .error .policy
      else .ok b

/-- The key of an inline path's new item; `none` is an item with no key (R443). -/
def State.inlineKey (s : State) (n : Nat) (d : KeyNeed) : Option Bank := (s.useKey n d).toOption

/-- Replace one bank of a slot by a change of it. -/
def Slot.mapBanks (l : Slot) (f : Bank → Bank) : Slot := { l with active := l.active.map f, other := l.other.map f }

/-- Count one use of a slot's active key (R431). -/
def countUse (n : Nat) : M Unit := do
  let s ← getS
  match (s.slot n).active with
  | none => pure ()
  | some b => match b.node with
    | some k => prim (.node k { s.node k with uses := (s.node k).uses + 1 })
    | none => prim (.slot n { s.slot n with active := some { b with uses := b.uses + 1 } })

/-! ### Chains (R421 to R424) -/

/-- The binding digest of a presence input's verified module (R447). -/
def State.modDigest (s : State) (i : Nat) : Option Bytes :=
  if (s.module i).present ∧ s.fld (R.MODID_IN_STAT.STATE i) = 3 then (s.module i).digest else none

/-- A parent key as the PRF key: SECRET-384 serves as SHA-256(Z) (R422). -/
def prfKey (type : Nat) (m : Bytes) : Bytes := if type = 0x21 then sha256 m else m

/-- The type of a node: byte 0 of its label. -/
def Node.type (k : Node) : Nat := (k.label.getD 0 0).toNat

/-- RESET_COUNT of this start-up (R278): of the BALLAST record requested, while it is not yet read back. -/
def State.resetCount (s : State) : Nat :=
  let pend := s.anchor.reqs.map (·.1) ++ (s.anchor.writing.map (·.use)).toList
  match pend.find? fun u => match u with | .ballast .. => true | _ => false with
  | some (.ballast _ r _) => r.toNat
  | _ => s.fld R.ANCHOR_RESETS.COUNT

/-- The epoch value of a child's context (R421). -/
def State.epochOf (s : State) (p : Word) : Nat := if polExpire p then s.resetCount else 0

/-- The module digest of a child's context, `none` where MODULE_REQ is not met (R421, R447). -/
def State.moduleOf (s : State) (p : Word) : Option Bytes :=
  if polModuleReq p then s.modDigest (polModule p) else some (zeros 32)

/-- One level of a derivation. -/
def State.deriveStep (s : State) (prf : Bytes) (label : Bytes) (p : Word) (depth : Nat) : Option Bytes :=
  let t := (label.getD 0 0).toNat
  (s.moduleOf p).map fun d =>
    derivedMaterial t (kdf prf label (kdfContext p.toNat s.lcCode depth t (s.epochOf p) d) (derivedBits t))

/-- The slot that materialises a node in its active bank, while its key may be used. -/
def State.nodeBank (s : State) (k : Nat) : Option Bank := match (s.node k).slot with
  | some n => if (s.slot n).st = .live then (s.slot n).active.filter fun b => b.node = some k else none
  | none => none

/-- A chain ends in a node, from the nearest materialised ancestor or the root (R424). The first argument bounds
the depth. -/
def State.nodeKey (s : State) : Nat → Nat → Except KeyFail Bytes
  | 0, _ => .error .policy
  | f + 1, k =>
    let d := s.node k
    match d.st with
    | .free => .error .empty
    | .orphaned => .error .orphaned
    | .valid => match s.nodeBank k with
      | some b => .ok b.material
      | none =>
        let prf : Except KeyFail Bytes := match d.parent with
          | .root => if s.rootUsable then .ok s.root else .error .empty
          | .node j => (s.nodeKey f j).map (prfKey (s.node j).type)
          | .slot n g => match (s.slot n).banks.find? fun b => b.gen = g with
            | some b => .ok (prfKey (s.slot n).type.toNat b.material)
            | none => .error .orphaned
        match prf with
        | .error e => .error e
        | .ok key => match s.deriveStep key d.label d.policy d.depth with
          | some m => .ok m
          | none => .error .policy

/-- The most levels of a chain (R423). -/
def chainFuel : Nat := 9

/-- The anchor key and the park key (R425). -/
def State.anchorKey (s : State) : Option Bytes :=
  if s.rootUsable then some (fixedKey s.root "OTIST ANCHOR" 0x02 0xFF 0) else none

def State.parkKey (s : State) (epoch : Nat) : Option Bytes :=
  if s.rootUsable then some (fixedKey s.root "OTIST PARK" 0x02 0xFF epoch) else none

/-- The attestation wrap key (R425). -/
def State.attestWrapKey (s : State) : Option Bytes :=
  if s.rootUsable then some (fixedKey s.root "OTIST ATTEST WRAP" 0x02 0xFF 0) else none

/-- The association salt (R249, R425). -/
def State.assocSalt (s : State) : Option Bytes :=
  if s.rootUsable then
    some (fixedKey s.root "OTIST ASSOC SALT" 0x01 s.lcCode s.resetCount)
  else none

/-- Key services are refused (R451, R452, R548, R621). -/
def State.servicesRefused (s : State) : Bool := decide (s.keys.lc ≠ .none) || s.grounded

/-! ### Occupancy fields (DERIVE_OCC, SLOTS_OCC) -/

/-- The occupancy fields of the SLOTS and DERIVE pages. -/
def keyOccupancy : M Unit := do
  let s ← getS
  wr R.SLOTS_OCC.LIVE (s.slots.filter fun p => p.2.st ≠ .empty).length
  wr R.SLOTS_OCC.LOADED (s.slots.filter fun p => p.2.otherSt = .loaded).length
  wr R.DERIVE_OCC.VALID (s.nodes.filter fun p => p.2.st = .valid).length
  wr R.DERIVE_OCC.ORPHANED (s.nodes.filter fun p => p.2.st = .orphaned).length

/-- Change a slot and keep the occupancy fields. -/
def setSlot (n : Nat) (l : Slot) : M Unit := do
  prim (.slot n l)
  keyOccupancy

/-- Change a node and keep the occupancy fields. -/
def setNode (n : Nat) (k : Node) : M Unit := do
  prim (.node n k)
  keyOccupancy

/-! ### Loads (R427, R434) -/

/-- Whether a slot may take a load of this type (R427, R434); `none` where it may. -/
def State.loadRefused (s : State) (n type : Nat) : Option KeyFail :=
  let l := s.slot n
  if n = attestSlot then some .policy
  else match l.st with
    | .empty => none
    | .live => if l.type.toNat = type then none else some .policy
    | .orphaned | .clearing => some .orphaned
    | .suspended | .wideTail => some .policy

/-- A wide key needs an even slot whose tail is EMPTY, unless the slot already holds one (R427). -/
def State.wideBad (s : State) (n type : Nat) : Bool :=
  keyWide type && (decide (n % 2 = 1) || decide (n + 1 ≥ 511)
    || (decide ((s.slot n).st = .empty) && decide ((s.slot (n + 1)).st ≠ .empty)))

/-- What a load did. -/
inductive LoadResult where
  /-- it loaded a bank of this generation -/
  | loaded (gen : BitVec 32)
  /-- it waits for a retiring bank (R434) -/
  | waits
  deriving DecidableEq, Repr

/-- Load a key into a slot that may take it (R434). `entry`: the queue descriptor's Cellar entry. -/
def loadSlot (n : Nat) (type : Nat) (tenant : BitVec 3) (m : Bytes) (policy : Word) (prov : Prov)
    (node : Option Nat) (entry : Option Nat) : M LoadResult := do
  let s ← getS
  let l := s.slot n
  let b : Bank := ⟨m, kcvOf type m, l.nextGen, policy, prov, startKeyOf type m, node, 0⟩
  let wasEmpty := decide (l.st = .empty)
  let attach : M Unit := do
    match node with
    | some k => setNode k { (← getS).node k with slot := some n }
    | none => pure ()
  if wasEmpty then
    setSlot n { l with
      st := .live, type := BitVec.ofNat 8 type, tenant := tenant, active := some b, otherSt := .free, other := none,
      nextGen := l.nextGen + 1, high := 0 }
    if keyWide type then setSlot (n + 1) { s.slot (n + 1) with st := .wideTail, tenant := tenant }
    attach
    return .loaded b.gen
  else if l.otherSt = .retiring then
    setSlot n { l with queued := l.queued ++ [⟨b, BitVec.ofNat 8 type, tenant, entry⟩] }
    return .waits
  else
    setSlot n { l with other := some b, otherSt := .loaded, nextGen := l.nextGen + 1, tenant := tenant }
    if keyWide type then setSlot (n + 1) { s.slot (n + 1) with tenant := tenant }
    attach
    return .loaded b.gen

end Sys2Proof.Machine
end

