-- ==== Sys2Proof/Machine/Alarm.lean ====
section
/-! DEFINITION. Wakes (R517, R535), unit alarms (R620) and clock requests (R62, R510). -/
namespace Sys2Proof.Machine
open Sys2Proof

/-! ### Power states (R517) -/

/-- POWER_STAT.STATE. -/
def pwAwake : Nat := 0
def pwDescending : Nat := 1
def pwAsleep : Nat := 2
def pwAscending : Nat := 3

/-- The power state. -/
def State.power' (s : State) : Nat := s.fld R.POWER_STAT.STATE

/-- The entries to new work are shut: Otist is not AWAKE (R518), or a warm reset drains it (R65). -/
def State.shut (s : State) : Bool := s.power' ≠ pwAwake || s.bnd.phase = .draining || s.bnd.phase = .resetDone

/-! ### Clock requests (R62, R510) -/

/-- A clock's request is raised. -/
def State.clkReq (s : State) (c : Clk) : Bool := s.power.req.any fun p => p.1 = c

/-- A requested clock may be used: its ACK has come (R62). -/
def State.clkRuns (s : State) (c : Clk) : Bool := s.power.ack.contains c

/-- Raise a clock request that is not raised. -/
def raiseClk (c : Clk) : M Unit := do
  let s ← getS
  if !s.clkReq c then
    prim (.power { s.power with req := s.power.req ++ [(c, s.now.toNat)] })

/-- Lower a clock request; the controller then lowers its ACK. -/
def lowerClk (c : Clk) : M Unit := do
  let s ← getS
  prim (.power { s.power with req := s.power.req.filter (fun p => p.1 ≠ c), ack := s.power.ack.filter (· ≠ c) })

/-! ### The ascent's first step (R523) -/

/-- The WAKE entries of wakes logged since the last ascent (R535). -/
def writeWakes : M Unit := do
  let s ← getS
  prim (.power { s.power with owed := [] })
  forM s.power.owed fun w => auditEntry 0x3C 0x0031 [BitVec.ofNat 96 (w.1 + w.2 * 2 ^ 32)] .immediate

/-- Start an ascent: raises the clock requests and takes HOST out of retention. -/
def startAscent : M Unit := do
  wr R.POWER_STAT.STATE pwAscending
  wr R.POWER_STAT.STEP 1
  let s ← getS
  prim (.power { s.power with began := s.now.toNat, hostSince := none })
  raiseClk .core
  raiseClk .reg
  setDomain 4 true
  writeWakes

/-- Abort a descent before its step 3 (R519). -/
def abortDescent : M Unit := do
  wr R.POWER_STAT.STATE pwAwake
  wr R.POWER_STAT.STEP 0
  bump R.POWER_COUNTS.ABORTS
  raise E.POWER.ABORTED

/-! ### Wakes (R517, R535) -/

/-- Log a wake in the ring WAKE_SRC. -/
def logWake (code chan detail : Nat) (late abort : Bool) : M Unit := do
  let st ← stamp
  let i ← rd R.WAKE_LOG_PTR.NEXT
  let n ← rd R.WAKE_LOG_PTR.COUNT
  wr (R.WAKE_SRC.CODE i) code
  wr (R.WAKE_SRC.CHAN i) chan
  wr (R.WAKE_SRC.LATE i) (b2n late)
  wr (R.WAKE_SRC.ABORT i) (b2n abort)
  wr (R.WAKE_SRC.STAMP_SEQ i) st.seq.toNat
  wr (R.WAKE_SRC_DETAIL.DETAIL i) detail
  wr (R.WAKE_SRC_TS.TS i) st.ts.toNat
  wr R.WAKE_LOG_PTR.NEXT ((i + 1) % 16)
  if n < 16 then wr R.WAKE_LOG_PTR.COUNT (n + 1) else bump R.WAKE_LOG_PTR.LOST
  let s ← getS
  prim (.power { s.power with owed := (s.power.owed ++ [(code, detail)]).drop (s.power.owed.length - 15) })
  raiseQuiet E.WAKE.WOKEN

/-- A wake: counted only while DESCENDING, ASLEEP or ASCENDING (R517). -/
def wakeBy (code chan detail : Nat) : M Unit := do
  let s ← getS
  let p := s.power'
  if p = pwAwake then pure ()
  else
    let step := s.fld R.POWER_STAT.STEP
    logWake code chan detail (p = pwDescending ∧ 3 ≤ step) (p = pwDescending ∧ step < 3)
    if p = pwAsleep then startAscent
    else if p = pwDescending then
      if step < 3 then abortDescent
      else wr R.POWER_STAT.LATE_WAKE 1

/-! ### Unit alarms (R620) -/

/-- A unit alarm of a page at a grade: an ALARM entry in the AUDIT sink, and at grade 1 or higher a wake. Its
source code is 0x00, and that is its DETAIL. -/
def unitAlarm (page grade : Nat) : M Unit := do
  auditEntry page 0x0020 [alarmPayload 0 grade 0 false page] .immediate
  if 1 ≤ grade then wakeBy 0x3 0 0

/-- A lasting fault of a unit takes its page to FAULT (R86): FAULT is set and REARM clears. -/
def pageToFault (p : Nat) : M Unit := do
  if (← getS).pageState p ≠ pgFault then
    wr (R.PG_STAT.REARM p) 0
    raiseQuiet (E.PG.FAULT p)
    setPageState p pgFault true

end Sys2Proof.Machine
end

