-- ==== Sys2Proof/Machine/LaneStat.lean ====
section
/-! DEFINITION. What SCHED_STAT and the conditions of the SCHED page say of the lanes in service (R115, R129), and the Bridle
items that go on with one lane (R227). -/
namespace Sys2Proof.Machine
open Sys2Proof

/-- With one lane left in service, every accepted Bridle frame completes on it and is counted once (R227). -/
def singleLane : M Unit := do
  if (← getS).laneCount = 1 then
    forM (← getS).ports fun p => do
      forM (p.2.items.filter fun i => i.pair.isSome && i.entry.isSome && !i.single) fun _ => do
        bump R.BRIDLE_SINGLE_LANE.COUNT
        raise E.BRIDLE.SINGLE_LANE
      if p.2.items.any fun i => i.pair.isSome && i.entry.isSome && !i.single then
        prim (.port p.1 { p.2 with items := p.2.items.map fun i =>
          if i.pair.isSome ∧ i.entry.isSome then { i with single := true } else i })

/-- Keep SCHED_STAT and the conditions NO_LANE and BRIDLE_HELD (R115, R129). Until the release of OT_PORESET_N the word stands at
its reset value, BRIDLE_HELD at 0 with it (log entry 123). -/
def laneRefresh : M Unit := do
  let s ← getS
  let mask (f : Nat → Bool) : Nat := ((List.range 4).map fun l => if f l then 2 ^ l else 0).sum
  wr R.SCHED_STAT.COUNT s.laneCount
  wr R.SCHED_STAT.IN_SERVICE (mask s.inService)
  wr R.SCHED_STAT.POWERED (mask fun l => (s.lane l).powered)
  wr R.SCHED_STAT.NO_LANE (b2n s.noLane)
  wr R.SCHED_STAT.BRIDLE_HELD (b2n (decide (s.laneCount < 2)))
  wr R.SCHED_STAT.PROGRAMMED (b2n (s.sched.committed.isSome && (s.pageState 0x0C = pgActive || s.pageState 0x0C = pgDraining)))
  setCond E.SCHED.BRIDLE_HELD (decide (s.laneCount < 2))
  let bad := s.noLane && (List.range 4).any fun l => s.pageState (0x08 + l) = pgFault
  let was := (s.fld (R.PG_EVT_RAW.EVT 0x0C)).testBit E.SCHED.NO_LANE.bit
  setCond E.SCHED.NO_LANE bad
  if bad ∧ !was then unitAlarm 0x0C 2
  singleLane

end Sys2Proof.Machine
end

