-- ==== Sys2Proof/Machine/Cellar.lean ====
section
/-! DEFINITION. The work journal as every path uses it: reserves (R570), entries (R573, R576), digests (R575) and
the records of aborted and lost items (R598). -/
namespace Sys2Proof.Machine
open Sys2Proof

/-- Free entries withdrawn from allocation (R577). -/
def State.withdrawnFree (s : State) : Nat :=
  ((List.range 2048).filter fun e => s.withdrawn e && (mget (fun _ => none) s.cellar.entries e).isNone).length

/-- Keep CELLAR_OCC, the queue share and the open-work count (R571, R577, R578). -/
def cellarOccupancy : M Unit := do
  let s ← getS
  if s.fld R.CELLAR_FENCED.MACROS ≠ 0 then wr R.CELLAR_SHARE.QUEUE (1438 - s.withdrawnFree)
  wr R.CELLAR_OCC.MEM (s.usedOf .memory)
  wr R.CELLAR_OCC.STREAM (if s.streamWaits then 96 else s.usedOf .stream)
  wr R.CELLAR_OCC.STOR (s.usedOf .storage)
  wr R.CELLAR_OCC.QUEUE (s.usedOf .queue)
  let c := s.cellar
  prim (.cellar { c with vbatOpen := s.inUse.length })

/-! ### Entries (R573, R576) -/

/-- The entry waits for its replay: nothing of its item goes on (R579). -/
def State.replayHeld (s : State) (n : Nat) : Bool :=
  s.cellar.replay.contains n && (match s.entry n with
    | some c => !c.resumed
    | none => false)

/-- Write an entry that is in use already. -/
def setEntry (n : Nat) (e : CEntry) : M Unit := prim (.centry n (some e))

/-- Change an entry in use. -/
def modEntry (n : Nat) (f : CEntry → CEntry) : M Unit := do
  match (← getS).entry n with
  | some e => setEntry n (f e)
  | none => pure ()

/-- Journal an item: it is accepted in this clock (R568). Answers its entry, `none` where its reserve is full. -/
def journal (k : CKind) (fill : Nat → Stamp → CEntry) : M (Option Nat) := do
  let s ← getS
  match s.freeEntry k.reserve with
  | none => return none
  | some n =>
    let st ← stamp
    prim (.centry n (some (fill s.cellar.nextOrder st)))
    prim (.cellar { s.cellar with nextOrder := s.cellar.nextOrder + 1 })
    cellarOccupancy
    return some n

/-- Free an entry at its item's completion or abort (R576). -/
def freeEntry (n : Nat) : M Unit := do
  prim (.centry n none)
  let s ← getS
  let left := s.cellar.replay.filter (· ≠ n)
  if s.cellar.replay.contains n then
    prim (.cellar { s.cellar with replay := left })
    if left.isEmpty then
      raise E.CELLAR.REPLAY_DONE
      laneRefresh
  cellarOccupancy

/-! ### Digests (R575) -/

/-- The block Q_D. -/
def digestBlock : Bytes := padTo 16 (ascii "CELLAR DIGEST")

/-- HD of this start-up: held in TETHER once the root allows it to be computed, and Q_D while ROOT_OK is 0. -/
def takeHd : M Bytes := do
  let s ← getS
  match s.cellar.hd, s.auditKey with
  | some h, _ => return h
  | none, some k =>
    let h := aesEnc k digestBlock
    prim (.cellar { s.cellar with hd := some h })
    return h
  | none, none => return digestBlock

/-- The digest of a complete input, as the 16 bytes of GHASH. -/
def digestOf (hd input : Bytes) : BitVec 128 :=
  BitVec.ofNat 128 (beNat (ghash hd (blocks16z input ++ [zeros 8 ++ beBytes 8 (8 * input.length)])))

/-- The fold of the input received so far. -/
def digestFold (hd input : Bytes) : BitVec 128 :=
  BitVec.ofNat 128 (beNat (ghash hd ((blocks16 input).filter fun b => b.length = 16)))

/-- DIGEST as the entry holds it: bytes 0 to 7. -/
def CEntry.digest8 (e : CEntry) : Bytes := (beBytes 16 e.digest.toNat).take 8

/-- Fold input into an entry's digest, and complete it at the input's end. -/
def foldEntry (n : Nat) (input : Bytes) (complete : Bool) : M Unit := do
  let hd ← takeHd
  modEntry n fun e => { e with
    input := input, digestDone := complete,
    digest := if complete then digestOf hd input else digestFold hd input }

/-! ### The layout of an entry (R573) -/

/-- The STATE byte. -/
def CEntry.stateByte (e : CEntry) : Nat :=
  (match e.st with | .accepted => 1 | .computed => 2 | .releasing => 3)
    + bitAt e.ackDone 2 + bitAt e.digestDone 3 + bitAt e.loaded 4 + bitAt e.kilnNew 5 + bitAt e.replayed 6

/-- A key reference as 4 bytes; zero where there is none. -/
def keyRefBytes : Option KeyRef → Bytes
  | some k => leBytes 2 k.slot ++ leBytes 2 k.gen.toNat
  | none => zeros 4

/-- An entry's 64 bytes. A data entry reads as zeros (R605). -/
def CEntry.bytes (e : CEntry) : Bytes :=
  if e.kind = .data then zeros 64
  else leBytes 1 e.kind.code ++ leBytes 1 e.stateByte ++ leBytes 2 e.source.toNat ++ leBytes 4 e.ref.toNat
    ++ leBytes 8 e.stamp.ts.toNat ++ leBytes 2 e.stamp.seq.toNat ++ leBytes 2 e.progress
    ++ keyRefBytes (e.keys.getD 0 none) ++ keyRefBytes (e.keys.getD 1 none)
    ++ (if e.kind = .memWr then leBytes 8 e.strb.toNat
        else keyRefBytes (e.keys.getD 2 none) ++ keyRefBytes (e.keys.getD 3 none))
    ++ leBytes 8 e.valueA.toNat ++ leBytes 8 e.valueB.toNat ++ e.digest8
    ++ leBytes 2 e.handleA.toNat ++ leBytes 2 e.handleB.toNat

/-- The payload of ABORT, ITEM_LOST (R598). -/
def CEntry.payload (e : CEntry) : BitVec 96 :=
  BitVec.ofNat 96 (e.kind.code + e.source.toNat * 2 ^ 8 + e.ref.toNat * 2 ^ 24 + e.stamp.ts.toNat % 2 ^ 32 * 2 ^ 56)

/-- The payload of INPUT_CHANGED (R614). -/
def CEntry.changedPayload (e : CEntry) : BitVec 96 :=
  BitVec.ofNat 96 (e.kind.code + e.source.toNat * 2 ^ 8 + e.ref.toNat * 2 ^ 24)

/-- An item ended with its input changed (R581, R583). -/
def noteChanged (e : CEntry) : M Unit := do
  bump R.CELLAR_CHANGED.COUNT
  raiseNamed E.CELLAR.INPUT_CHANGED 0x0016 [e.changedPayload]

/-- An item is lost (R577). -/
def itemLost (n : Nat) : M Unit := do
  match (← getS).entry n with
  | none => pure ()
  | some e =>
    freeEntry n
    if e.kind ≠ .data then
      bump R.CELLAR_LOST.COUNT
      let _ ← setEvent E.CELLAR.ITEM_LOST
      auditEntry 0x04 0x0014 [e.payload] .immediate

/-- The ABORT entry of an item (R598). -/
def abortEntry (e : CEntry) : M Unit := do
  if e.kind ≠ .data then auditEntry 0x04 0x0013 [e.payload] .immediate

end Sys2Proof.Machine
end

