-- ==== Sys2Proof/Machine/Usage.lean ====
section
/-! DEFINITION. Use counts that the registers show of work and of entries: tenants and queue pairs (R168, R173),
the pass in progress (KILN_STAT, R371 to R384). -/
namespace Sys2Proof.Machine
open Sys2Proof

/-- The tenant charged for an entry: a learned one is charged to its template's tenant (R261). -/
def State.tenantOf (s : State) (ws : List Word) : Nat :=
  if eKind ws = 4 then match mget (fun _ => none) s.peers (ePeer ws) with
    | some (.ctx c) => match s.anyHandle (bits (wordAt c 0) 20 8) with
      | some t => eTenant t.2
      | none => 0
    | _ => 0
  else eTenant ws

/-- ASSOC use of a tenant (R168). -/
def State.assocUse (s : State) (t : Nat) : Nat := (s.assocs.filter fun p => s.tenantOf p.2 = t).length

/-! ### Queue pairs and tenants (R168 to R174) -/

/-- Materialised key slots attributed to a tenant; the tail of a wide key counts (R427). -/
def State.slotUse (s : State) (t : Nat) : Nat :=
  (s.slots.filter fun p => p.1 ≠ attestSlot ∧ p.2.st ≠ .empty ∧ p.2.tenant.toNat = t).length

/-- Keep TOKENS and CHRON_PAUSED of a tenant. -/
def setTokens (t : Nat) (v : Int) : M Unit := do
  let c := max (-(2 ^ 15)) (min (2 ^ 15 - 1) v)
  wr (R.QUEUE_TNT_STAT.TOKENS t) (c % 2 ^ 16).toNat
  let s ← getS
  wr (R.QUEUE_TNT_STAT.CHRON_PAUSED t) (b2n (s.tokensOut t))

/-- One token for an entry that a descriptor of the tenant causes. -/
def takeToken (t : Nat) : M Unit := do setTokens t ((← getS).tokens t - 1)

/-- An event that a descriptor of a tenant causes: its entry, with the page event code unless one is named, names the tenant
and the requester, and takes a token. -/
def raiseTenant (e : PageEvent) (q t : Nat) (named : Option (BitVec 16 × BitVec 96) := none) : M Unit := do
  let _ ← setEvent e
  let s ← getS
  let (code, payload) := named.getD (pageEventCode e, pageEventPayload (s.fld (R.PG_EVT_RAW.EVT e.page)))
  raiseItem (← stamp) e.page (tenantReq t (s.queueRid q).toNat) code [payload] .other (auditPage e.page)
  takeToken t

/-- Keep a tenant's use counts, its OVER bits, CHRON_PAUSED and QUOTA_OVER (R170, R173, R174). -/
def tenantRefresh (t : Nat) : M Unit := do
  let s ← getS
  let ds := s.allDescs.filter fun d => d.tenant = t
  let cellar := (ds.filter QDesc.charged).length
  let exec := (ds.filter fun d => d.phase = .executing).length
  let slots := s.slotUse t
  let assoc := s.assocUse t
  wr (R.QUEUE_TNT_USE_A.CELLAR t) cellar
  wr (R.QUEUE_TNT_USE_A.EXEC t) exec
  wr (R.QUEUE_TNT_USE_B.SLOTS t) slots
  wr (R.QUEUE_TNT_USE_B.ASSOC t) assoc
  let oe := decide (min 64 (s.fld (R.QUEUE_TNT_QUOTA_A.EXEC t)) < exec)
  let oc := decide (min 2048 (s.fld (R.QUEUE_TNT_QUOTA_A.CELLAR t)) ≤ cellar)
  let os := decide (min 512 (s.fld (R.QUEUE_TNT_QUOTA_B.SLOTS t)) ≤ slots)
  let oa := decide (min 8192 (s.fld (R.QUEUE_TNT_QUOTA_B.ASSOC t)) ≤ assoc)
  wr (R.QUEUE_TNT_STAT.EXEC_OVER t) (b2n oe)
  wr (R.QUEUE_TNT_STAT.CELLAR_OVER t) (b2n oc)
  wr (R.QUEUE_TNT_STAT.SLOTS_OVER t) (b2n os)
  wr (R.QUEUE_TNT_STAT.ASSOC_OVER t) (b2n oa)
  wr (R.QUEUE_TNT_STAT.CHRON_PAUSED t) (b2n (s.tokensOut t))
  setCond (E.QUEUE.QUOTA_OVER t) (oe || oc || os || oa)

/-- All tenants. -/
def tenantsRefresh : M Unit := forM (List.range 8) tenantRefresh

/-- Keep EXEC and HELD of a queue pair and the use counts of its tenant. -/
def pairRefresh (q : Nat) : M Unit := do
  let s ← getS
  let ds := s.descs q
  wr (R.QUEUE_Q_STAT.EXEC q) (ds.filter fun d => d.phase = .executing).length
  wr (R.QUEUE_Q_STAT.HELD q) (ds.filter QDesc.charged).length
  tenantRefresh (s.fld (R.QUEUE_Q_CFG.TENANT q))

/-- Change a queue pair's descriptors. -/
def setDescs (q : Nat) (ds : List QDesc) : M Unit := do
  prim (.queue q { descs := ds })
  pairRefresh q

/-! ### Caches and overflow entries (R325, R328, R329) -/

def State.cacheLines (s : State) (tag : Bool) : List CacheLine := if tag then s.mem.tag else s.mem.ctr

/-- The HIGH and LOW watermarks as taken. -/
def State.highC (s : State) : Nat := min 2048 (s.fld R.MEMCACHE_CDIRTY.HIGH)
def State.lowC (s : State) : Nat := min (s.fld R.MEMCACHE_CDIRTY.LOW) (s.highC - 1)
def State.highT (s : State) : Nat := min 1024 (s.fld R.MEMCACHE_TDIRTY.HIGH)
def State.lowT (s : State) : Nat := min (s.fld R.MEMCACHE_TDIRTY.LOW) (s.highT - 1)

/-- Keep MEMCACHE_OCC, DIRTY_HIGH and the write-back that R329 starts and stops. -/
def cacheRefresh : M Unit := do
  let s ← getS
  let c := dirtyCount s.mem.ctr
  let t := dirtyCount s.mem.tag
  wr R.MEMCACHE_OCC.CDIRTY c
  wr R.MEMCACHE_OCC.TDIRTY t
  setCond E.MEMCACHE.DIRTY_HIGH (decide (s.highC < c) || decide (s.highT < t))
  prim (.mem { s.mem with
    flushC := decide (s.highC < c) || (s.mem.flushC && decide (s.lowC < c)),
    flushT := decide (s.highT < t) || (s.mem.flushT && decide (s.lowT < t)),
    flushAll := s.mem.flushAll && decide (0 < c + t) })

/-- Drop the lines that satisfy a test. -/
def dropLines (tag : Bool) (f : CacheLine → Bool) : M Unit := do
  let s ← getS
  let all := (s.cacheLines tag).filter fun x => !f x
  prim (.mem (if tag then { s.mem with tag := all } else { s.mem with ctr := all }))
  cacheRefresh

/-- Keep MEM_OVF and OVF_FULL. -/
def overflowRefresh : M Unit := do
  let n := (← getS).mem.overflows.length
  wrMax R.MEM_OVF.MAX n
  setCond E.MEM.OVF_FULL (32 ≤ n)

/-! ### Kiln passes -/

/-- Keep FMT_PENDING, REGION, KILN_BOUND, KILN_OLD_SIZE, KILN_DONE and the WAITING and PAUSED conditions. -/
def kilnRefresh : M Unit := do
  let s ← getS
  wr R.KILN_STAT.FMT_PENDING ((s.passes.filter fun p => p.kind = .format).map fun p => 2 ^ p.region).sum
  setCond E.KILN.WAITING (s.kilnState = 3)
  setCond E.KILN.PAUSED (s.passes.any fun x => x.paused)
  match s.shownPass with
  | none => pure ()
  | some p =>
    wr R.KILN_STAT.REGION p.region
    wr R.KILN_BOUND.BOUND p.bound
    wr R.KILN_OLD_SIZE.UNITS p.old.size
    wr R.KILN_DONE.DONE p.doneBits.toNat
    wr R.KILN_CHUNKS.COUNT p.chunks

/-- Change the list of passes. -/
def setPasses (l : List Pass) : M Unit := do
  prim (.passes l)
  kilnRefresh

end Sys2Proof.Machine
end

