-- ==== Sys2Proof/Machine/Staging.lean ====
section
/-! DEFINITION. Stream staging: where a port's units lie (R176), what a unit holds (R180, R185), its parts over the three macros of
a triple (R177), and reading a unit back from them (R178). -/
namespace Sys2Proof.Machine
open Sys2Proof

/-! ### Ports and triples (R176) -/

/-- Units in one bank of a port. -/
def portUnits (n : Nat) : Nat := if n < 2 then 512 else if n < 8 then 256 else if n < 16 then 128 else 32

/-- The staging triple of a port. -/
def tripleOf (n : Nat) : Nat := if n < 2 then n else if n < 8 then n / 2 + 1 else if n < 12 then 5 else if n < 16 then 6 else 7

/-- The ports of a triple. -/
def triplePorts (k : Nat) : List Nat := (List.range 32).filter fun n => tripleOf n = k

/-- The unit of its triple that unit `j` of a port's bank is. R176 gives each triple's ports and their sizes; DESIGN CHOICE (log entry
98): they lie in port order, bank A before bank B. -/
def tripleUnit (n : Nat) (bankB : Bool) (j : Nat) : Nat :=
  (n - (triplePorts (tripleOf n)).headD 0) * (2 * portUnits n) + bitAt bankB 0 * portUnits n + j

/-! ### What a unit holds (R180, R185) -/

/-- The bytes of an item from its first unit on: the length word - its lowest byte first, DESIGN CHOICE (log entry 98) - and the
frame, the decrypted bytes over the received ones. -/
def SItem.stored (i : SItem) : Bytes :=
  leBytes 4 i.word.toNat ++ match i.plain with
    | some (a, p) => i.bytes.take a ++ p ++ i.bytes.drop (a + p.length)
    | none => i.bytes

/-- The 64 bytes of the `j`-th unit of an item. -/
def SItem.unitBytes (i : SItem) (j : Nat) : Bytes := padTo 64 (slice i.stored (64 * j) 64)

/-! ### Parts and macros (R177) -/

/-- The three parts of a unit: its halves and their XOR. -/
def unitPart (b : Bytes) (part : Nat) : Bytes :=
  if part = 0 then b.take 32 else if part = 1 then b.drop 32 else xorBytes (b.take 32) (b.drop 32)

/-- The macro that a part of unit `u` of triple `k` lies in. -/
def partMacro (k u part : Nat) : Nat := 3 * k + (u + part) % 3

/-- The part of unit `u` that a macro of its triple holds. -/
def macroPart (m u : Nat) : Nat := (m % 3 + 2 * (u % 3)) % 3

/-- A byte of a macro word with its even parity bit. -/
def withParity (b : BitVec 8) : BitVec 8 × Bool := (b, popCount 8 b.toNat % 2 = 1)

/-- A byte that a macro gives back agrees with its parity bit. -/
def parityHolds (x : BitVec 8 × Bool) : Bool := withParity x.1 = x

/-- What a macro holds for a part, with the parity of each byte of its four 64-bit words. -/
def macroWords (b : Bytes) (part : Nat) : List (BitVec 8 × Bool) := (unitPart b part).map withParity

/-- A part as a macro gives it back: `none` where the macro is fenced, or a byte breaks its parity. -/
def readPart (w : Option (List (BitVec 8 × Bool))) : Option Bytes :=
  w.bind fun l => if l.all parityHolds then some (l.map (·.1)) else none

/-- A unit read from its parts; one that is missing is rebuilt from the other two (R178). -/
def joinParts : Option Bytes → Option Bytes → Option Bytes → Option Bytes
  | some a, some b, _ => some (a ++ b)
  | some a, none, some x => some (a ++ xorBytes a x)
  | none, some b, some x => some (xorBytes b x ++ b)
  | _, _, _ => none

/-! ### Fenced macros (R178) -/

/-- A macro is fenced. -/
def State.macroOut (s : State) (m : Nat) : Bool := (s.fld R.STRM_MACRO_FENCED.FENCED).testBit m

/-- A unit of a triple read while its fenced macros, and those that a test names, give nothing. -/
def State.readUnit (s : State) (k u : Nat) (b : Bytes) (bad : Nat → Bool) : Option Bytes :=
  let part (p : Nat) : Option Bytes :=
    if s.macroOut (partMacro k u p) ∨ bad (partMacro k u p) then none else readPart (some (macroWords b p))
  joinParts (part 0) (part 1) (part 2)

/-- A half of some unit of an item lies in a fenced macro, so reading the item rebuilds that unit. -/
def State.rebuilds (s : State) (n : Nat) (i : SItem) : Bool :=
  s.fld R.STRM_MACRO_FENCED.FENCED / 8 ^ tripleOf n % 8 ≠ 0 && i.units.any fun j =>
    [0, 1].any fun p => s.macroOut (partMacro (tripleOf n) (tripleUnit n i.bankB j) p)

end Sys2Proof.Machine
end

