-- ==== Sys2Proof/Machine/Ports.lean ====
section
/-! DEFINITION. Stream ports as every path uses them: classes (R176), staging banks and watermarks (R182, R183, R188 to
R192), items that leave (R180 to R187), and whose turn it is on TXO (R235). -/
namespace Sys2Proof.Machine
open Sys2Proof

/-! ### Classes (R176) -/

/-- The port is of class C. -/
def isCan (n : Nat) : Bool := decide (16 ≤ n)

/-- A stream port. -/
def State.port (s : State) (n : Nat) : Port := mget (fun _ => {}) s.ports n

/-- MAX_ITEM as taken. -/
def State.maxItem (s : State) (n : Nat) : Nat := max 1 (min (portUnits n) (s.fld (R.STRM_P_CFG.MAX_ITEM n)))

/-- Units that an item of `len` bytes occupies with its length word. -/
def itemUnits (len : Nat) : Nat := ceilDiv (4 + len) 64

/-- The active loop that joins a port to another, and that port (R239). -/
def State.loopPeer (s : State) (n : Nat) : Option Nat :=
  (List.range 4).findSome? fun j =>
    if s.fld (R.BRIDLE_LOOP.ACTIVE j) = 1 then
      let a := s.fld (R.BRIDLE_LOOP.PORT_A j)
      let b := s.fld (R.BRIDLE_LOOP.PORT_B j)
      if n = a then some b else if n = b then some a else none
    else none

/-! ### Banks and watermarks (R183, R188 to R192) -/

/-- Units allocated in a bank. -/
def Port.used (p : Port) (b : Bool) : List Nat := ((p.items.filter fun i => i.bankB = b).map fun i => i.units).flatten

/-- The level. -/
def Port.level (p : Port) : Nat := (p.used false).length + (p.used true).length

/-- LOW as taken (R192). -/
def State.lowMark (s : State) (n : Nat) : Nat := min (s.fld (R.STRM_P_WM.LOW n)) (s.fld (R.STRM_P_WM.HIGH n) - 1)

/-! ### Admission (R182, R190) -/

/-- Units that the filling bank must keep for the items still open in it. -/
def Port.reserved (p : Port) : Nat :=
  ((p.items.filter fun i => i.bankB = p.fillB && i.isOpen && !i.skip).map fun i => i.maxItem - i.units.length).sum

/-- The admission condition. -/
def State.room (s : State) (n : Nat) : Bool :=
  let p := s.port n
  decide (s.maxItem n + p.reserved + (p.used p.fillB).length ≤ portUnits n)

/-- State of segment `g`: 0 AWAKE, 1 PARKING, 2 PARKED, 3 UNPARKING (R524). -/
def State.segState (s : State) (g : Nat) : Nat := s.fld R.POWER_SEG_STAT.STATE / 4 ^ g % 4

/-- The segment of a port (R214). -/
def State.segOf (s : State) (n : Nat) : Nat := s.fld (R.STRM_P_CFG.SEG n)

/-- An SOF beat of a direction may be taken: the port and its page serve, no flush and no open item stands in the way. -/
def State.mayAdmit (s : State) (n : Nat) (tx : Bool) : Bool :=
  s.fld (R.STRM_P_STAT.STATE n) = pgActive && !s.shut && !s.grounded
    && s.fld (if tx then R.STRM_P_STAT.FLUSH_TX n else R.STRM_P_STAT.FLUSH_RX n) = 0
    && !((s.port n).items.any fun i => i.tx = tx && i.isOpen) && s.segState (s.segOf n) = 0

/-- The lowest free units of a bank. -/
def Port.freeUnits (p : Port) (n : Nat) (b : Bool) : List Nat :=
  let u := p.used b
  (List.range (portUnits n)).filter fun i => !u.contains i

/-- The pair in a state, BAD clear, whose IN_SA an item's association is. -/
def State.pairIn (s : State) (c : AssocCopy) (st : Nat) : Option Nat :=
  (List.range 128).find? fun k => s.fld (R.BRIDLE_PAIR_CTL.STATE k) = st && s.fld (R.BRIDLE_PAIR_CTL.BAD k) = 0
    && s.fld (R.BRIDLE_PAIR_SA.IN_SA k) = c.handle

/-- The item's pair: the frame is a Bridle frame, or waits for a draining pair (R216, R220). -/
def State.pairOf (s : State) (i : SItem) (st : Nat) : Option Nat := match i.look with
  | .hit c => s.pairIn c st
  | _ => none

/-- Frames that wait under R233. -/
def heldRefresh : M Unit := do
  let s ← getS
  let c := ((s.ports.map fun p => (p.2.items.filter fun i => i.held && !i.tx && (s.pairOf i 1).isSome).length).sum)
  wr R.BRIDLE_STAT.HELD (min 255 c)
  setCond E.BRIDLE.OUT_HELD (decide (c ≠ 0))

/-- The bank that fills, the level and the port's status follow its items. -/
def portRefresh (n : Nat) : M Unit := do
  let s ← getS
  let p0 := s.port n
  let p := if !(p0.used p0.fillB).isEmpty && (p0.used (!p0.fillB)).isEmpty then { p0 with fillB := !p0.fillB } else p0
  let hi := s.fld (R.STRM_P_WM.HIGH n)
  let rises := !p.xoff && decide (s.fld (R.STRM_P_LEVEL.LEVEL n) ≤ hi ∧ hi < p.level)
  let falls := p.xoff && decide (p.level ≤ s.lowMark n)
  let xoff := (p.xoff || rises) && !falls
  prim (.port n { p with xoff := xoff })
  wr (R.STRM_P_LEVEL.LEVEL n) p.level
  wrMax (R.STRM_P_LEVEL.MAX n) p.level
  if rises then raise (E.STRMP.HIGH n)
  if falls then raise (E.STRMP.LOW n)
  wr (R.STRM_P_STAT.XOFF n) (b2n (xoff && (s.loopPeer n).isNone && !s.grounded))
  wr (R.STRM_P_STAT.FILL_BANK n) (b2n p.fillB)
  wr (R.STRM_P_STAT.OPEN_TX n) (b2n (p.items.any fun i => i.tx && i.isOpen && !i.skip))
  wr (R.STRM_P_STAT.OPEN_RX n) (b2n (p.items.any fun i => !i.tx && i.isOpen && !i.skip))
  heldRefresh

/-- Change the items of a port. -/
def setItems (n : Nat) (l : List SItem) : M Unit := do
  prim (.port n { (← getS).port n with items := l })
  portRefresh n

/-- Change one item of a port. -/
def modItem (n id : Nat) (f : SItem → SItem) : M Unit := do
  setItems n (((← getS).port n).items.map fun i => if i.id = id then f i else i)

/-- The stream item of an entry, with its port. -/
def State.itemOf (s : State) (e : Nat) : Option (Nat × SItem) :=
  (s.ports.filterMap fun p => (p.2.items.find? fun i => i.entry = some e).map fun i => (p.1, i)).head?

/-- Give an item its bytes, and the units that they take. -/
def growItem (n : Nat) (i : SItem) (bytes : Bytes) : M Unit := do
  let p := (← getS).port n
  let more := (p.freeUnits n i.bankB).take (itemUnits bytes.length - i.units.length)
  modItem n i.id fun x => { x with bytes := bytes, units := x.units ++ more }

/-- An item leaves its port. -/
def dropItem (n id : Nat) : M Unit := do
  setItems n (((← getS).port n).items.filter fun i => i.id ≠ id)

/-- An item leaves its port; the rest of an open one is discarded up to its EOF beat (R182). -/
def dropOrSkip (n : Nat) (i : SItem) : M Unit :=
  if i.isOpen then modItem n i.id fun x => { x with
    skip := true, units := [], bytes := [], out := [], entry := none, asked := none, held := false, pair := none,
    look := .waiting }
  else dropItem n i.id

/-! ### The length word (R180) -/

/-- VALID, and the causes of a VALID 0 length word. -/
def lwValid : Nat := 2 ^ 31
def lwTruncated : Nat := 2 ^ 30
def lwAuthFail : Nat := 2 ^ 26
def lwLate : Nat := 2 ^ 25
def lwNoSa : Nat := 2 ^ 24
def lwBadTag : Nat := 2 ^ 23
def lwOversize : Nat := 2 ^ 22
def lwProdErr : Nat := 2 ^ 21

/-- An item's length word, with VALID or its causes in `bits`. -/
def State.lengthWord (s : State) (n : Nat) (i : SItem) (bits : Nat) : Word :=
  let hit := match i.look with | .hit _ => true | _ => false
  let redo := match i.entry with
    | some e => (match mget (fun _ => none) s.cellar.entries e with | some c => c.replayed || c.resumed | none => false)
    | none => false
  BitVec.ofNat 32 (bits + bitAt i.tx 29 + bitAt (!i.tx && (i.pair.isSome || (s.pairOf i 1).isSome)) 28 + bitAt hit 27
    + bitAt (i.recon || s.rebuilds n i) 20 + bitAt redo 19 + (if isCan n then (i.bytes.getD 0 0).toNat % 4 * 2 ^ 16 else 0) + i.bytes.length)

/-- Write an item's length word back. -/
def writeLength (n : Nat) (i : SItem) (bits : Nat) : M Unit := do
  let s ← getS
  let w := s.lengthWord n i bits
  prim (.port n { s.port n with
    lastWord := w, items := (s.port n).items.map fun x => if x.id = i.id then { x with word := w } else x })

/-- The length word of a complete item follows what is learned of the item after its EOF beat. -/
def rewriteLength (n id : Nat) : M Unit := do
  match ((← getS).port n).items.find? fun i => i.id = id with
  | some i => if !i.isOpen ∧ !i.skip then writeLength n i (lwValid + bitAt (i.word.getLsbD 30) 30)
  | none => pure ()

/-- Count a voided item and raise the port's event. -/
def noteVoid (n : Nat) : M Unit := do
  bumpMod (R.STRM_P_VOIDED.COUNT n)
  wr (R.STRM_P_EVT.VOID n) 1
  raise (E.STRMP.PORT n)

/-- Count a truncated item and raise the port's event. -/
def noteTrunc (n : Nat) : M Unit := do
  bumpMod (R.STRM_P_TRUNCATED.COUNT n)
  wr (R.STRM_P_EVT.TRUNC n) 1
  raise (E.STRMP.PORT n)

/-! ### TXO (R235) -/

/-- The port whose TXO an item leaves on. -/
def State.egressPort (s : State) (n : Nat) (i : SItem) : Nat := match i.pair with
  | some k => s.fld (R.BRIDLE_PAIR_CFG.OUT_PORT k)
  | none => n

/-- The source of an accepted frame for TXO of port `o` that has one ready: 0 the port's TXI, k + 1 pair k. -/
def State.txSource (s : State) (o n : Nat) (i : SItem) : Option Nat :=
  if i.entry.isNone ∨ i.skip ∨ i.cutEnded then none
  else if i.tx then (if n = o then some 0 else none)
  else match i.pair with
    | some k =>
      if s.fld (R.BRIDLE_PAIR_CFG.OUT_PORT k) = o ∧ (i.verdict = .passed ∨ i.cut) then some (k + 1) else none
    | none => none

/-- An earlier frame of an item's pair has still to leave (R235). -/
def Port.pairBefore (p : Port) (i : SItem) : Bool :=
  i.pair.isSome && p.items.any fun j => j.pair = i.pair && decide (j.id < i.id) && !j.cutEnded

/-- The frames ready for TXO of a port: source, port and item. -/
def State.txReady (s : State) (o : Nat) : List (Nat × Nat × SItem) :=
  (s.ports.map fun p => p.2.items.filterMap fun i =>
    if p.2.pairBefore i then none else (s.txSource o p.1 i).map fun c => (c, p.1, i)).flatten

/-- The frame on TXO of a port. -/
def State.onTxo (s : State) (o : Nat) : Option (Nat × Nat × SItem) := (s.txReady o).find? fun x => x.2.2.started

/-- TXO is kept for the port's own TXI, whose turn came while its SOF beat was held. -/
def Port.keptForTxi (p : Port) : Bool := p.sofTurn && (p.sofHeld || p.waitTx || p.items.any fun i => i.tx && !i.skip)

/-- At a frame boundary, the next source takes TXO, round robin; a source's frames go in the order of their SOF beats. The
port's own TXI counts as a source while its SOF beat is held for TXO (R235). -/
def startNext (o : Nat) : M Unit := do
  let s ← getS
  if (s.onTxo o).isNone then
    let p := s.port o
    let turn (c : Nat) : Nat := (c + 129 - (p.lastSrc + 1) % 129) % 129
    let ready := (s.txReady o).filter fun x => !p.keptForTxi || x.1 = 0
    match ready.foldl (fun (b : Option (Nat × Nat × SItem)) x => match b with
      | none => some x
      | some y => if turn x.1 < turn y.1 ∨ (x.1 = y.1 ∧ x.2.2.id < y.2.2.id) then some x else b) none with
    | some (c, n, i) =>
      if p.sofHeld ∧ c ≠ 0 ∧ turn 0 < turn c then prim (.port o { p with sofTurn := true })
      else
        modItem n i.id fun x => { x with started := true }
        let q := (← getS).port o
        prim (.port o { q with lastSrc := c, sofTurn := q.sofTurn && decide (c ≠ 0) })
    | none => pure ()

/-- Another source's frame has TXO of a port, so that an SOF beat on its TXI waits (R235). -/
def State.txoTaken (s : State) (o : Nat) : Bool := match s.onTxo o with
  | some (c, _, _) => decide (c ≠ 0)
  | none => false

/-- A new item in the filling bank, with its first unit. Answers its number. -/
def newItem (n : Nat) (tx : Bool) : M Nat := do
  let s ← getS
  let id := s.streams.nextId
  prim (.streams { s.streams with nextId := id + 1 })
  let p := s.port n
  setItems n (p.items ++ [
    { id := id, tx := tx, bankB := p.fillB, units := (p.freeUnits n p.fillB).take 1, maxItem := s.maxItem n, bytes := [] }])
  return id

/-- The bytes that fit an item's units: it never stores past MAX_ITEM (R187). -/
def SItem.fitting (i : SItem) (b : Bytes) : Bytes := b.take (64 * i.maxItem - 4)

/-! ### States of blocks (R86, R614) -/

/-- A block of a page that follows the state table of R86 with fields of its own: its event takes the place of
STATE_CHG, and the word of its STATE that of PG_STAT. -/
structure Block where
  state : RegField
  rearm : RegField
  event : PageEvent
  index : Nat

/-- Change a block's STATE. -/
def setBlock (b : Block) (st : Nat) : M Unit := do
  wr b.state st
  let w := regWord (← getS).regs b.state.addr
  raiseNamed b.event 0x0003 [BitVec.ofNat 96 (w.toNat * 2 ^ 64 + b.index)]

/-- A block's drain ends (R86): to OFF, or with REARM through OFF to ACTIVE, with its entry action, while the page it needs
is ACTIVE (`mayEnter`). -/
def blockDrained (b : Block) (mayEnter : Bool) (on : M Unit) : M Unit := do
  let again := decide ((← rd b.rearm) = 1) && mayEnter
  wr b.rearm 0
  setBlock b pgOff
  if again then
    setBlock b pgActive
    on

/-- EN of a block written (R86): `old` is its value before the write. `mayEnter`: ACTIVE may be entered now. -/
def blockEnable (b : Block) (old en mayEnter : Bool) (drain on : M Unit) : M Unit := do
  let st ← rd b.state
  if st = pgOff then
    if !old && en && mayEnter then
      setBlock b pgActive
      on
  else if st = pgActive then
    if !en then
      setBlock b pgDraining
      drain
  else if st = pgDraining then
    if old != en then wr b.rearm (b2n en)

/-- A port. -/
def portBlock (n : Nat) : Block := ⟨R.STRM_P_STAT.STATE n, R.STRM_P_STAT.REARM n, E.STRMP.PORT n, n % 8⟩

end Sys2Proof.Machine
end

