-- ==== Sys2Proof/Machine/Abort.lean ====
section
/-! DEFINITION. Ending work early: Loose operations (R475), storage partitions (R407), memory regions (R348) and every
accepted item at once (R547, R598). -/
namespace Sys2Proof.Machine
open Sys2Proof

/-! ### Loose operations (R470 to R475) -/

/-- A Loose context. -/
def State.looseCtx (s : State) (c : Nat) : LooseCtx := mget (fun _ => {}) s.loose c

/-- The chaining words, IN and OUT of a context, as bytes: byte 4w of a block in bits [31:24] of word w (R466). -/
def State.looseBlock (s : State) (f : Nat → Nat → RegField) (c k : Nat) : Bytes :=
  ((List.range 4).map fun w => beBytes 4 (s.fld (f c (4 * k + w)))).flatten

/-- Write a block of a context. -/
def putBlock (f : Nat → Nat → RegField) (c k : Nat) (b : Bytes) : M Unit :=
  forM (List.range 4) fun w => wr (f c (4 * k + w)) (beAt b (4 * w) 4)

/-- Writes made during an operation, applied at its completion, after the operation's own update (R471). -/
def looseLate (c : Nat) : M Unit := do
  let ctx := (← getS).looseCtx c
  prim (.loose c { ctx with writes := [] })
  forM ctx.writes fun w => wrWord w.1 w.2

/-- Bind a context to the slot in its register (R467). -/
def looseBind (c : Nat) : M Unit := do
  let s ← getS
  match (s.slot (s.fld (R.LOOSE_CTX_KEY.SLOT c))).active with
  | some b =>
    wr (R.LOOSE_CTX_KCV.KCV c) b.kcv.toNat
    wr (R.LOOSE_CTX_KEY.BOUND c) 1
  | none =>
    wr (R.LOOSE_CTX_KCV.KCV c) 0
    wr (R.LOOSE_CTX_KEY.BOUND c) 0

/-- End a context's operation or command with a status (R470, R474, R476). `isOp`: an operation, counted in
LOOSE_OPS when it completes OK. -/
def looseEnd (c status : Nat) (isOp : Bool) : M Unit := do
  let ctx := (← getS).looseCtx c
  wr (R.LOOSE_CTX_STAT.STATUS c) status
  wr (R.LOOSE_CTX_STAT.BUSY c) 0
  prim (.loose c { ctx with busy := .idle })
  if isOp then
    let rebind := ctx.writes.any fun w => w.1 = (R.LOOSE_CTX_KEY.SLOT c).addr
    looseLate c
    if rebind then looseBind c
  if status = 0 then
    if isOp then bumpMod R.LOOSE_OPS.COUNT
  else
    bump R.LOOSE_FAILS.COUNT
    raise (E.LOOSE.FAIL c)
  raise (E.LOOSE.DONE c)

/-! ### Storage units that end (R47, R387, R394) -/

/-- UST codes. -/
def ustOk : Nat := 0
def ustTag : Nat := 1
def ustVersion : Nat := 2
def ustRefused : Nat := 3

def StorUnit.length (u : StorUnit) : Nat := if u.dus4k then 4096 else 512

/-- Count a unit by its status. -/
def unitCount (u : StorUnit) (st : Nat) : M Unit := do
  if st = ustOk then bumpMod R.STOR_UNITS.COUNT
  else if st = ustRefused then
    bump R.STOR_REFUSED.COUNT
    raise E.STOR.REFUSED
  else if st = ustTag then
    bump R.STOR_TAG_FAILS.COUNT
    bump (R.STOR_PART_FAILS.TAG (u.part.getD 0))
    raise E.STOR.TAG_FAIL
  else
    bump R.STOR_VER_FAILS.COUNT
    bump (R.STOR_PART_FAILS.VER (u.part.getD 0))
    raise E.STOR.VER_FAIL

/-- Return the units whose status is decided, up to the first whose is not. -/
def releaseList : List StorUnit → M Unit
  | [] => prim (.units [])
  | u :: r => match u.status with
    | none => prim (.units (u :: r))
    | some st => do
      emit (.storUnit st (if st = ustOk then u.out else zeros u.length))
      unitCount u st
      match u.cellar with
      | some e => freeEntry e
      | none => pure ()
      releaseList r

def storRelease : M Unit := do releaseList (← getS).units

/-- Accepted units that a test names complete with status refused. -/
def refuseUnits (f : StorUnit → Bool) : M Unit := do
  let s ← getS
  prim (.units (s.units.map fun u =>
    if u.cellar.isSome ∧ u.status.isNone ∧ f u then { u with status := some ustRefused } else u))
  storRelease

/-! ### Partitions (R402, R407) -/

/-- A sealed partition. -/
def State.part (s : State) (p : Nat) : Part := mget (fun _ => {}) s.parts p

/-- OUTCOME codes of STOR_PART_CTL. -/
def poOk : Nat := 0x1
def poRolledForward : Nat := 0x2
def poAbandoned : Nat := 0x3
def poFormatted : Nat := 0x4
def poConfirmed : Nat := 0x5
def poNoRecord : Nat := 0x8
def poBadImage : Nat := 0x9
def poRollback : Nat := 0xA
def poTuFail : Nat := 0xB
def poTable : Nat := 0xC
def poConfig : Nat := 0xD
def poKey : Nat := 0xE
def poReset : Nat := 0xF

/-- The partition command in progress on a partition ends. -/
def partCmdEnd (p code : Nat) : M Unit := do
  let s ← getS
  if s.fld R.STOR_CMD_STAT.BUSY = 1 ∧ s.fld R.STOR_CMD_STAT.PART = p then cmdEnd U.stor code

/-- Drop a partition that is MOUNTED, SEALING or SEALED (R407). -/
def dropPart (p outcome : Nat) : M Unit := do
  let s ← getS
  if 2 ≤ s.fld (R.STOR_PART_CTL.STATE p) then
    wr (R.STOR_PART_CTL.STATE p) 0
    wr (R.STOR_PART_CTL.OUTCOME p) outcome
    prim (.part p { s.part p with wait := .none })
    raise E.STOR.PART_DROP
    partCmdEnd p rcBadEntry

/-! ### Regions (R348, R375) -/

/-- First and last+1 byte of a region's data. -/
def State.regionData (s : State) (n : Nat) : Nat × Nat :=
  let b := s.fld (R.MEMRGN_BASE.ADDR n) * 4096
  (b, b + s.fld (R.MEMRGN_SIZE.UNITS n) * 4096)

/-- The region, not OFF, whose data an address lies in. -/
def State.regionAt (s : State) (a : Nat) : Option Nat :=
  (List.range 16).find? fun n => decide (s.fld (R.MEMRGN_CTL.STATE n) ≠ 0
    ∧ (s.regionData n).1 ≤ a ∧ a < (s.regionData n).2)

/-- The partitions whose table lies in a region that fails them are dropped with outcome TABLE (R407). -/
def dropTables (n : Nat) : M Unit := do
  let s ← getS
  forM (List.range 8) fun p =>
    if s.regionAt ((s.part p).cfg.tbl * 4096) = some n then dropPart p poTable else pure ()

/-- Drop what the memory engine holds of a region, of its new tree only or of both: cached lines and overflow entries. -/
def dropHeld (n : Nat) (newOnly : Bool) : M Unit := do
  dropLines false fun l => l.region = n && (l.newTree || !newOnly)
  dropLines true fun l => l.region = n && (l.newTree || !newOnly)
  let s ← getS
  prim (.mem { s.mem with
    overflows := s.mem.overflows.filter fun o => !(o.region = n && (o.newTree || !newOnly))
    spent := s.mem.spent.filter fun o => !(o.1 = n && o.2.1) })
  overflowRefresh

/-- End the passes of a region (R374, R375). -/
def endPasses (n : Nat) : M Unit := do
  let s ← getS
  if s.passes.any fun p => p.region = n then
    dropHeld n true
    setPasses (s.passes.filter fun p => p.region ≠ n)
    raise E.KILN.PASS_END

/-- Poison a region (R348): its passes end, and nothing of it is passed downstream any more, so what is dirty is dropped;
the tables in it are lost. -/
def poisonRegion (n : Nat) : M Unit := do
  wr (R.MEMRGN_CTL.POISONED n) 1
  endPasses n
  dropHeld n false
  let s ← getS
  if s.mem.cmd = .flushing n then
    prim (.mem { s.mem with cmd := .none })
    cmdEnd U.mem rcState
  dropTables n

/-- What answers a memory transaction of a region that may not be served: BUSERR in a privileged region, and
otherwise POISON (R344, R348). -/
def State.denied (s : State) (n : Nat) : MemResp :=
  if s.fld (R.MEMRGN_CFG.PRIV n) = 1 then .buserr else .poison

/-- The memory transactions in the order of their acceptance. -/
def State.txnsInOrder (s : State) : List (Nat × MemTxn) :=
  sortOn (fun p => p.2.order) (s.mem.txns.filterMap fun p => p.2.map fun t => (p.1, t))

/-- Answer a transaction upstream, with zero data. -/
def answerTxn (t : MemTxn) (r : MemResp) : M Unit :=
  if t.isWrite then emit (.memWrite t.tid r)
  else emit (.memRead t.tid r (zeros (if t.two then 64 else 32)))

/-! ### Everything at once (R547, R598) -/

/-- Record and free every Cellar entry, in acceptance order. -/
def abortEntries : M Unit := do
  let s ← getS
  forM (sortOn (fun p => p.2.order) s.inUse) fun p => do
    abortEntry p.2
    prim (.centry p.1 none)
  let c := (← getS).cellar
  prim (.cellar { c with replay := [] })
  cellarOccupancy

/-- Abort every accepted item (R547): nothing further of it is released. The memory port and the storage interface,
which wait for an answer, get BUSERR and status refused. -/
def abortAll : M Unit := do
  abortEntries
  let s ← getS
  forM s.txnsInOrder fun p => answerTxn p.2 .buserr
  prim .txnsClear
  refuseUnits fun _ => true
  forM s.ports fun p => do
    forM p.2.items fun i => if i.entry.isSome then dropOrSkip p.1 i else pure ()
  forM (List.range 32) fun q => setDescs q ((s.descs q).filter fun d => d.entry.isNone)
  forM (List.range 4) fun c => match (s.looseCtx c).busy with
    | .op .. => looseEnd c 0x0023 true
    | _ => pure ()
  prim .drawnClear
  prim (.rng { s.rng with reqs := s.rng.reqs.filter fun r => match r.user with
    | .entry _ | .blind _ => false
    | _ => true })
  forM (List.range 16) fun n =>
    if s.fld (R.MEMRGN_CTL.STATE n) ≠ 0 ∧ s.fld (R.MEMRGN_CFG.MODE n) ≠ 0 then poisonRegion n else pure ()
  forM (List.range 8) fun p => dropPart p poKey
  prim (.rng { (← getS).rng with reqs := (← getS).rng.reqs.filter fun r => !(r.user = .rootGen || r.user.isPke) })
  if s.rng.reqs.any fun r => r.user = .rootGen then cmdStop U.keys rcState
  forM [U.derive, U.slots, U.pke] fun u => cmdStop u rcState

end Sys2Proof.Machine
end

