-- ==== Sys2Proof/Machine/Fresh.lean ====
section
/-! DEFINITION. Counters (R270 to R293), Ballast (R274 to R281), anchor record requests (R282), key switches (R294 to
R297), receive windows (R298 to R300) and CAN freshness (R301), as every path uses them. -/
namespace Sys2Proof.Machine
open Sys2Proof

/-! ### Fields of entries (R245) -/

/-- Replace word `i` of an entry. -/
def setWordAt (ws : List Word) (i v : Nat) : List Word := ws.set i (BitVec.ofNat 32 v)

/-- A field of a word replaced. -/
def setBits (w hi lo v : Nat) : Nat := w - bits w hi lo * 2 ^ lo + v % 2 ^ (hi - lo + 1) * 2 ^ lo

/-- FRESH and LEASE_END. -/
def eFresh (ws : List Word) : Nat := wordAt ws 6 + wordAt ws 7 * 2 ^ 32
def setFresh (ws : List Word) (v : Nat) : List Word := setWordAt (setWordAt ws 6 (v % 2 ^ 32)) 7 (v / 2 ^ 32)
def setLease (ws : List Word) (v : Nat) : List Word := setWordAt (setWordAt ws 14 (v % 2 ^ 32)) 15 (v / 2 ^ 32)

/-- SUITE, and the flags of the Ethernet kinds. -/
def eSuite (ws : List Word) : Nat := bits (wordAt ws 4) 31 30
def eXpn (ws : List Word) : Bool := decide (2 ≤ eSuite ws)
def eConf (ws : List Word) : Bool := (wordAt ws 4).testBit 29
def eEthReplay (ws : List Word) : Bool := (wordAt ws 4).testBit 26

/-- The CAN fields. -/
def eDataId (ws : List Word) : Nat := bits (wordAt ws 4) 31 16
def eTfvBits (ws : List Word) : Nat := bits (wordAt ws 4) 15 10
def eMacBytes (ws : List Word) : Nat := bits (wordAt ws 4) 9 5
def eEnc (ws : List Word) : Bool := (wordAt ws 4).testBit 4
def eCanReplay (ws : List Word) : Bool := (wordAt ws 4).testBit 3

/-- REPLAY_WIN. -/
def eWin (ws : List Word) : Nat := bits (wordAt ws 5) 10 0

/-- The salt and the SSCI. -/
def eSalt (ws : List Word) : Bytes := (((ws.drop 9).take 3).map fun w => beBytes 4 w.toNat).flatten
def eSsci (ws : List Word) : Bytes := beBytes 4 (wordAt ws 8)

/-- REPLAY_EN of a receive entry. -/
def eReplay (ws : List Word) : Bool := if eKind ws = 2 then eCanReplay ws else eEthReplay ws

/-- Key types of a GCM suite. -/
def suiteType (ws : List Word) : Nat := if eSuite ws % 2 = 0 then 0x01 else 0x02

/-! ### Counters (R270) -/

/-- The counter is 32 bits wide. -/
def ctr32 (ws : List Word) : Bool := eKind ws = 1 && !eXpn ws

/-- The slot whose key the counter issues values under. -/
def ctrSlot (ws : List Word) : Nat := if eKind ws = 3 && eEnc ws then eSlotB ws else eSlotA ws

/-- That key carries the counter space, so the counter binds it (R272). -/
def ctrBinds (ws : List Word) : Bool := eKind ws = 1 || eEnc ws

/-- The counter of a handle. -/
def State.counter (s : State) (h : Nat) : Counter := mget (fun _ => {}) s.counters h

/-- Ballast-lost mode (R281). -/
def State.lostMode (s : State) : Bool := s.fld R.FRESH_STAT.LOST = 1

/-- C and F. -/
def State.ceiling (s : State) : Nat := s.fld R.FRESH_CEILING.C
def State.floor (s : State) : Nat := s.fld R.FRESH_FLOOR.F

/-! ### Leases (R276, R277) -/

/-- EXP_MAX and EXP_MIN as taken. -/
def State.expMax (s : State) : Nat := max 16 (min 24 (s.fld R.FRESH_CFG.EXP_MAX))
def State.expMin (s : State) : Nat := min s.expMax (max 16 (s.fld R.FRESH_CFG.EXP_MIN))

/-- The exponent is brought into its range, as FRESH_CFG now has it (R276). -/
def clampLease : M Unit := do
  let s ← getS
  wr R.FRESH_STAT.EXP (max s.expMin (min s.expMax (s.fld R.FRESH_STAT.EXP)))

/-- L. -/
def State.lease (s : State) : Nat := 2 ^ s.fld R.FRESH_STAT.EXP

/-- A BALLAST record is requested and not yet read back. -/
def State.ballastPending (s : State) : Bool :=
  (s.anchor.reqs.map (·.1) ++ (s.anchor.writing.map (·.use)).toList).any fun u =>
    match u with | .ballast .. => true | _ => false

/-- Request an anchor record; records are written in the order requested (R282). -/
def askAnchor (u : AnchorUse) : M Unit := do
  let a := (← getS).anchor
  prim (.anchor { a with reqs := a.reqs ++ [(u, 0)] })

/-- Request a lease when a counter's next value has come near the ceiling (R276). -/
def leaseFor (next : Nat) : M Unit := do
  let s ← getS
  if s.anchor.leased ∧ s.ceiling ≤ next + s.lease / 4 ∧ !s.ballastPending then
    askAnchor (.ballast (BitVec.ofNat 64 (min (2 ^ 64 - 1) (max s.ceiling next + s.lease)))
      (BitVec.ofNat 32 s.resetCount) s.lostMode)

/-- An item waits for a ceiling (R274). -/
def ceilWait (next : Nat) : M Unit := do
  leaseFor next
  wr R.FRESH_STAT.CEIL_WAIT 1
  setCond E.FRESH.CEIL_WAIT true

/-- An item that has not yet been counted begins to wait for a ceiling (R274). -/
def countCeilWait (counted : Bool) : M Unit := do
  if !counted then bump R.FRESH_CEIL_WAITS.COUNT

/-! ### Exhaustion (R291) -/

/-- What became of a reservation. -/
inductive Reserved where
  | value (v : Nat)
  /-- it waits under R274 -/
  | waits
  | exhausted
  deriving DecidableEq, Repr

/-- EXH_COUNT and EXH_ANY. -/
def exhCount : M Unit := do
  let n := ((← getS).counters.filter fun p => p.2.exhausted ≠ 0).length
  wr R.FRESH_STAT.EXH_COUNT n
  setCond E.FRESH.EXH_ANY (n ≠ 0)

/-- EXHAUSTED is raised and the cause recorded; `src`: 0 association handle, 1 key slot. -/
def noteExhausted (src index cause : Nat) : M Unit := do
  wr R.FRESH_EXH_LAST.SRC src
  wr R.FRESH_EXH_LAST.CAUSE cause
  wr R.FRESH_EXH_LAST.INDEX index
  raise E.FRESH.EXHAUSTED

/-- Replace an entry, keeping its place. -/
def setAssoc (loc : Nat) (ws : List Word) : M Unit := prim (.assoc loc (some ws))

/-- In place of a cause: the association is EXHAUSTED and its next frame tries again (R293). -/
def exhRetry : Nat := 6

/-- An association becomes EXHAUSTED (R291); LEASE_END reads 0 meanwhile (R289). -/
def exhaust (loc : Nat) (ws : List Word) (cause : Nat) : M Unit := do
  let h := eHandle ws
  let c := (← getS).counter h
  if c.exhausted ≠ cause then
    prim (.counter h { c with exhausted := cause })
    setAssoc loc (setLease ws 0)
    noteExhausted 0 h cause
    exhCount

/-- An association leaves EXHAUSTED (R293): LEASE_END is that of its counter again (R289). -/
def unexhaust (h : Nat) : M Unit := do
  let s ← getS
  let c := s.counter h
  if c.exhausted ≠ 0 then
    prim (.counter h { c with exhausted := 0 })
    match s.byHandle h with
    | some (loc, ws) => setAssoc loc (setLease ws (if ctr32 ws then 2 ^ 32 else s.ceiling))
    | none => pure ()
    exhCount

/-- A REPLACE has changed the key slot: the association leaves EXHAUSTED once a held frame passes (R293). -/
def retryExhausted (h : Nat) : M Unit := do
  let c := (← getS).counter h
  if c.exhausted ≠ 0 then prim (.counter h { c with exhausted := exhRetry })

/-- The slots that an entry names. -/
def entrySlots (ws : List Word) : List Nat := eSlotA ws :: (if (eKind ws = 2 ∨ eKind ws = 3) ∧ eEnc ws then [eSlotB ws] else [])

/-- A slot that was EMPTY has been loaded: the associations that it kept EXHAUSTED leave that state (R293). -/
def slotFilled (n : Nat) : M Unit := do
  forM (← getS).counters fun p => do
    let s ← getS
    match s.byHandle p.1 with
    | some (_, ws) =>
      if p.2.exhausted = 5 ∧ (entrySlots ws).contains n ∧ (entrySlots ws).all fun k => (s.slot k).st = .live then unexhaust p.1
    | none => pure ()

/-! ### Binding (R272, R273) -/

/-- A key that another counter than an association's own is bound to has this check value (R272). -/
def State.kcvShared (s : State) (slot : Nat) (kcv : Word) (want : Binding) : Bool :=
  let own (b : Binding) : Bool := match want with
    | .assoc _ => b = want
    | _ => false
  s.slots.any fun p => p.1 ≠ slot && p.2.bound ≠ .none && !own p.2.bound && (match p.2.active with
    | some b => b.kcv = kcv
    | none => false)

/-- Why a counter may not bind a slot's key: 0 where it may (R272, R280, R281). `narrow`: a 32-bit counter. -/
def State.bindCause (s : State) (slot : Nat) (b : Bank) (want : Binding) (binds narrow : Bool) : Nat :=
  let l := s.slot slot
  if binds ∧ l.bound ≠ .none ∧ l.bound ≠ want then 2
  else if binds ∧ s.kcvShared slot b.kcv want then 2
  else if narrow ∧ b.prov ≠ .sole then 3
  else if !narrow ∧ s.lostMode ∧ b.prov ≠ .sole then 4
  else 0

/-- The first value of a new counter (R275, R280, R281). -/
def State.firstValue (s : State) (slot fresh : Nat) (narrow : Bool) : Nat :=
  if narrow ∨ s.lostMode then max fresh (max ((s.slot slot).high.toNat + 1) 1)
  else max fresh (max s.floor 1)

/-- Raise the floor to at least a value (R273, R275). -/
def raiseFloor (v : Nat) : M Unit := wrMax R.FRESH_FLOOR.F v

/-- The counter of a handle stops using its key: its next value raises the floor, and the next value it issues is that of a new
counter. -/
def counterMoves (h : Nat) : M Unit := do
  let s ← getS
  let c := s.counter h
  match s.anyHandle h with
  | some p =>
    if c.started then raiseFloor (match c.parkedNext with | some v => v.toNat | none => eFresh p.2)
    prim (.counter h { c with started := false })
  | none => pure ()

/-- A binding is released: that of a slot, or of a parked slot that is lost (R273). -/
def releaseBinding (l : Slot) : M Unit := match l.bound with
  | .none => pure ()
  | .invocation => raiseFloor l.inv.toNat
  | .assoc h => counterMoves h

/-- Release a slot's binding (R273). -/
def releaseSlot (n : Nat) : M Unit := do
  let l := (← getS).slot n
  if l.bound ≠ .none then
    releaseBinding l
    prim (.slot n { l with bound := .none })

/-- Release what an association's counter is bound to, or its unbound counter (R273). -/
def releaseAssoc (h : Nat) : M Unit := do
  let s ← getS
  counterMoves h
  forM s.slots fun p =>
    if p.2.bound = .assoc h then prim (.slot p.1 { p.2 with bound := .none }) else pure ()

/-! ### What a use of an association's keys needs (R430) -/

/-- The keys of an entry: slot and need, for one direction; `eng` is the stream or the Bridle engine. -/
def eNeeds (ws : List Word) (eng : Option Engine) (enc : Bool) : List (Nat × KeyNeed) :=
  if eKind ws = 2 ∨ eKind ws = 3 then
    (eSlotA ws, { types := [0x01], engine := eng, enc := some enc })
      :: (if eEnc ws then [(eSlotB ws, { types := [0x01, 0x02], engine := eng, enc := some enc })] else [])
  else [(eSlotA ws, { types := [suiteType ws], engine := eng, enc := some enc })]

/-- Every key of the entry may be used. -/
def State.keysOk (s : State) (ws : List Word) (eng : Option Engine) (enc : Bool) : Bool :=
  (eNeeds ws eng enc).all fun p => (s.inlineKey p.1 p.2).isSome

/-- A key of the entry is there, and its policy refuses the use (R430). -/
def State.keyRefused (s : State) (ws : List Word) (eng : Option Engine) (enc : Bool) : Bool :=
  (eNeeds ws eng enc).any fun p => (s.slot p.1).st = .live && (s.inlineKey p.1 p.2).isNone

/-! ### Key switch (R294) -/

/-- The switch record, DIR 0 and ARMED, that names a handle. -/
def State.txSwitch (s : State) (h : Nat) : Option Nat :=
  (List.range 32).find? fun i => s.fld (R.FRESH_SW_CTL.STATE i) = 1 && s.fld (R.FRESH_SW_CTL.DIR i) = 0
    && s.fld (R.FRESH_SW_CTL.HANDLE i) = h

/-- The entry that a transmit switch makes. -/
def State.switched (s : State) (i : Nat) (ws : List Word) : List Word :=
  let w3 := setBits (wordAt ws 3) 24 16 (s.fld (R.FRESH_SW_SLOTS.NEW_SLOT_A i))
  let gen := setBits (wordAt ws 0) 7 0 (eGen ws + 1)
  if eKind ws = 3 then
    setFresh (setWordAt (setWordAt ws 3 (setBits w3 8 0 (s.fld (R.FRESH_SW_SLOTS.NEW_SLOT_B i)))) 0 gen)
      (max (eFresh ws) (s.fld (R.FRESH_SW_START.START i)))
  else
    let salt := s.fld (R.FRESH_SW_SALT.SALT i)
    let a := setWordAt (setWordAt ws 3 w3) 0 (setBits gen 21 20 (s.fld (R.FRESH_SW_AUX.NEW_AN i)))
    let b := setWordAt a 8 (s.fld (R.FRESH_SW_SSCI.SSCI i))
    let c := setWordAt (setWordAt (setWordAt b 9 (salt % 2 ^ 32)) 10 (salt / 2 ^ 32 % 2 ^ 32)) 11 (salt / 2 ^ 64)
    setFresh c (s.fld (R.FRESH_SW_START.START i))

/-- A switch record fails a check (R294, R295). -/
def switchBad (i : Nat) : M Unit := do
  wr (R.FRESH_SW_CTL.BAD i) 1
  wr (R.FRESH_SW_CTL.STATE i) 0
  raise E.FRESH.SW_BAD

/-- The stamp of a trigger or of an overlap's end. -/
def switchStamp (i : Nat) : M Unit := do
  let st ← stamp
  wr (R.FRESH_SW_TS.TS i) st.ts.toNat
  wr (R.FRESH_SW_SEQ.STAMP_SEQ i) st.seq.toNat

/-- Carry out a transmit switch (R294): the successor must pass R272 and R280. -/
def switchTx (i : Nat) (loc : Nat) (ws : List Word) : M Unit := do
  let s ← getS
  let h := eHandle ws
  let new := s.switched i ws
  let n := ctrSlot new
  let ok := s.keysOk new none true && (match (s.slot n).active with
    | some b => s.bindCause n b (.assoc h) (ctrBinds new) (ctr32 new) = 0
    | none => false)
  if ok then
    releaseAssoc h
    setAssoc loc new
    unexhaust h
    let c := (← getS).counter h
    prim (.counter h { c with started := false, given := some (BitVec.ofNat 64 (s.fld (R.FRESH_SW_START.START i))) })
    wr (R.FRESH_SW_CTL.BAD i) 0
    wr (R.FRESH_SW_CTL.STATE i) 3
    switchStamp i
    raise E.FRESH.SWITCHED
  else switchBad i

/-! ### Reservation (R288) -/

/-- The next value of an association's counter, as it stands. -/
def State.nextValue (s : State) (ws : List Word) : Nat :=
  if (s.counter (eHandle ws)).started then eFresh ws
  else s.firstValue (ctrSlot ws) (eFresh ws) (ctr32 ws)

/-- A counter that has issued its last value (R291): past 2^32 − 1, or a 64-bit counter that has wrapped to 0. -/
def State.spent (s : State) (ws : List Word) : Bool :=
  if ctr32 ws then decide (2 ^ 32 ≤ s.nextValue ws)
  else (s.counter (eHandle ws)).started && decide (eFresh ws = 0)

/-- The switch record that the next reservation triggers (R294). -/
def State.switchDue (s : State) (ws : List Word) : Option Nat :=
  if s.active 0x24 then
    (s.txSwitch (eHandle ws)).filter fun i =>
      let m := s.fld (R.FRESH_SW_CTL.MODE i)
      (m = 0 && decide (s.fld (R.FRESH_SW_AT.AT i) ≤ s.nextValue ws)) || ((m = 0 || m = 1) && s.spent ws)
  else none

/-- Issue the next value of an association's counter: the reservation writes FRESH (R288 to R290). None is issued before the record
of R278 has been read back. -/
def issue (loc : Nat) (ws : List Word) : M Reserved := do
  let s ← getS
  let h := eHandle ws
  let v := s.nextValue ws
  let c := s.counter h
  let n := ctrSlot ws
  if s.spent ws then
    exhaust loc ws 1
    return .exhausted
  else if !s.anchor.leased ∨ (!ctr32 ws ∧ s.ceiling ≤ v) then
    ceilWait v
    return .waits
  else
    let l := s.slot n
    prim (.slot n { l with
      bound := if ctrBinds ws then .assoc h else l.bound,
      high := if ctr32 ws ∨ s.lostMode then BitVec.ofNat 64 (max l.high.toNat v) else l.high })
    setAssoc loc (setLease (setFresh ws ((v + 1) % 2 ^ 64)) (if ctr32 ws then 2 ^ 32 else s.ceiling))
    prim (.counter h { c with started := true, exhausted := 0, given := none })
    if c.exhausted ≠ 0 then exhCount
    if !c.started ∧ v ≠ (match c.given with | some f => f.toNat | none => eFresh ws) then
      wr R.FRESH_JUMP_LAST.HANDLE h
      raise E.FRESH.JUMP
    if !ctr32 ws then leaseFor (v + 1)
    return .value v

/-- Reserve a value for the association installed at `loc`, under its key, after any switch that triggers. -/
def reserveAt (eng : Engine) (loc : Nat) (ws : List Word) : M Reserved := do
  let s ← getS
  let c := s.counter (eHandle ws)
  if c.exhausted ≠ 0 ∧ c.exhausted ≠ 5 ∧ c.exhausted ≠ exhRetry then return .exhausted
  else if !s.keysOk ws (some eng) true then
    exhaust loc ws 5
    return .exhausted
  else match (s.slot (ctrSlot ws)).active with
    | none => return .exhausted
    | some b =>
      let cause := if c.started then 0
        else s.bindCause (ctrSlot ws) b (.assoc (eHandle ws)) (ctrBinds ws) (ctr32 ws)
      if cause ≠ 0 then
        exhaust loc ws cause
        return .exhausted
      else issue loc ws

/-- Reserve a value for a handle (R288): a switch that is due rewrites the entry first. -/
def reserveAssoc (eng : Engine) (h : Nat) : M Reserved := do
  let s ← getS
  match s.byHandle h with
  | none => return .exhausted
  | some (loc, ws) =>
    match s.switchDue ws with
    | none => reserveAt eng loc ws
    | some i =>
      switchTx i loc ws
      match (← getS).byHandle h with
      | some (l2, w2) => reserveAt eng l2 w2
      | none => return .exhausted

/-- Reserve a key slot's invocation counter (R158, R275, R445). -/
def reserveInv (n : Nat) : M Reserved := do
  let s ← getS
  let l := s.slot n
  match l.active with
  | none =>
    noteExhausted 1 n 5
    return .exhausted
  | some b =>
    let isNew := decide (l.bound ≠ .invocation)
    let cause := if isNew then s.bindCause n b .invocation true false else 0
    let v := if isNew then (if s.lostMode then s.firstValue n 0 false else max l.inv.toNat (s.firstValue n 0 false))
      else l.inv.toNat
    if cause ≠ 0 then
      noteExhausted 1 n cause
      return .exhausted
    else if !isNew ∧ v = 0 then
      noteExhausted 1 n 1
      return .exhausted
    else if !s.anchor.leased ∨ s.ceiling ≤ v then
      ceilWait v
      return .waits
    else
      prim (.slot n { l with
        bound := .invocation, inv := BitVec.ofNat 64 (v + 1),
        high := if s.lostMode then BitVec.ofNat 64 (max l.high.toNat v) else l.high })
      leaseFor (v + 1)
      return .value v

/-! ### Receive windows (R298 to R301) -/

/-- Where an association's receive state is held. -/
inductive RxPlace where
  | entry (loc : Nat)
  | peer (n : Nat)
  deriving DecidableEq, Repr

/-- H, W, REPLAY_EN and the window bits. -/
structure RxState where
  h : Nat
  w : Nat
  en : Bool
  win : Nat
  deriving DecidableEq, Repr

/-- Words as one number, the first least significant. -/
def wordsNat : List Word → Nat
  | [] => 0
  | w :: r => w.toNat + 2 ^ 32 * wordsNat r

/-- A number as words. -/
def natWords : Nat → Nat → List Word
  | 0, _ => []
  | n + 1, v => BitVec.ofNat 32 v :: natWords n (v / 2 ^ 32)

/-- The words of a window block (R246). -/
def State.winBlock (s : State) (n : Nat) : List Word := match mget (fun _ => none) s.peers n with
  | some (.window _ ws) => ws
  | _ => []

/-- WBLK_A and WBLK_B. -/
def eWblkA (ws : List Word) : Nat := bits (wordAt ws 12) 11 0
def eWblkB (ws : List Word) : Nat := bits (wordAt ws 12) 27 16

/-- Window blocks that a window of this size occupies. -/
def winBlocks (w : Nat) : Nat := if w ≤ 128 then 0 else if w ≤ 512 then 1 else 2

/-- The receive state of a place; `tmpl`: REPLAY_EN of the template, for a learned context. -/
def State.rxState (s : State) (p : RxPlace) (tmplEn : Bool) : RxState := match p with
  | .entry loc => match mget (fun _ => none) s.assoc loc with
    | none => ⟨0, 0, false, 0⟩
    | some ws =>
      let win := if eWin ws ≤ 128 then wordsNat (ws.drop 12)
        else wordsNat (s.winBlock (eWblkA ws)) + (if eWin ws ≤ 512 then 0 else 2 ^ 512 * wordsNat (s.winBlock (eWblkB ws)))
      ⟨eFresh ws, eWin ws, eReplay ws, win⟩
  | .peer n => match mget (fun _ => none) s.peers n with
    | some (.ctx c) => ⟨wordAt c 6 + wordAt c 7 * 2 ^ 32, bits (wordAt c 5) 8 0, tmplEn, wordsNat (c.drop 8)⟩
    | _ => ⟨0, 0, false, 0⟩

/-- Store H and the window. -/
def putRxState (p : RxPlace) (r : RxState) : M Unit := do
  let s ← getS
  match p with
  | .entry loc => match mget (fun _ => none) s.assoc loc with
    | none => pure ()
    | some ws =>
      let w1 := setFresh ws r.h
      if eWin ws ≤ 128 then setAssoc loc (w1.take 12 ++ natWords 4 r.win)
      else
        setAssoc loc w1
        match mget (fun _ => none) s.peers (eWblkA ws) with
        | some (.window h _) => prim (.peer (eWblkA ws) (some (.window h (natWords 16 r.win))))
        | _ => pure ()
        if 512 < eWin ws then
          match mget (fun _ => none) s.peers (eWblkB ws) with
          | some (.window h _) => prim (.peer (eWblkB ws) (some (.window h (natWords 16 (r.win / 2 ^ 512)))))
          | _ => pure ()
  | .peer n => match mget (fun _ => none) s.peers n with
    | some (.ctx c) =>
      prim (.peer n (some (.ctx (setWordAt (setWordAt (c.take 8) 6 (r.h % 2 ^ 32)) 7 (r.h / 2 ^ 32) ++ natWords 8 r.win))))
    | _ => pure ()

/-- The check of R298: the value is LATE. -/
def rxLate (r : RxState) (p : Nat) : Bool :=
  if !r.en then false
  else if p = 0 then true
  else if r.h < p then false
  else if r.w = 0 ∨ r.w ≤ r.h - p then true
  else r.win.testBit (r.h - p)

/-- The update of R298, with its repeated check (R299): `none` is LATE. -/
def rxUpdate (r : RxState) (p : Nat) : Option RxState :=
  if rxLate r p then none
  else if r.h < p then
    let shifted := if p - r.h < 2048 then r.win * 2 ^ (p - r.h) % 2 ^ r.w else 0
    some { r with h := p, win := if r.w = 0 then 0 else shifted ||| 1 }
  else if r.h - p < r.w then some { r with win := r.win ||| 2 ^ (r.h - p) }
  else some r

/-- The 64-bit packet number from its 32 received bits (R300). -/
def recoverPn (r : RxState) (pn : Nat) : Nat :=
  let lowest := if r.w ≤ r.h then r.h + 1 - r.w else 1
  let up := lowest / 2 ^ 32
  ((if lowest % 2 ^ 32 ≤ pn then up else up + 1) * 2 ^ 32 + pn) % 2 ^ 64

/-- The full CAN freshness value from `t` received bits (R301). -/
def canValue (r : RxState) (t got : Nat) : Nat :=
  if t = 0 then r.h + 1
  else
    let m := 2 ^ t
    let wc := min (max r.w 1) m
    let low := if wc ≤ r.h then r.h - wc + 1 else 0
    low + (got % m + m - low % m) % m

end Sys2Proof.Machine
end

