-- ==== Sys2Proof/Machine/Erase.lean ====
section
/-! DEFINITION. Keys that go away: erasing a slot (R440), orphaning (R441, R442), suspension (R448) and live users (R438);
and what becomes of the items that hold them. -/
namespace Sys2Proof.Machine
open Sys2Proof

/-! ### Stream items that end early (R182, R195, R230) -/

/-- Void a staged item (R182): nothing of it is released. `cause`: its bit in the length word. -/
def voidItem (n : Nat) (i : SItem) (cause : Nat) : M Unit := do
  writeLength n i cause
  match i.entry with
  | some e => freeEntry e
  | none => pure ()
  dropOrSkip n i
  if cause = lwTruncated then noteTrunc n else noteVoid n
  cellarOccupancy

/-- A frame that ends with ERR reaches RXI of the other port of a loop (R50, R239): where that port admits it, its item is
voided with PROD_ERR. -/
def loopCut (q : Nat) (out : Bytes) : M Unit := do
  let s ← getS
  if s.mayAdmit q false ∧ s.room q ∧ !(s.port q).xoff then
    let id ← newItem q false
    let item := ((← getS).port q).items.find? fun i => i.id = id
    match item with
    | some i =>
      growItem q i (i.fitting out)
      match ((← getS).port q).items.find? fun i => i.id = id with
      | some j => voidItem q { j with isOpen := false } (if j.maxItem < itemUnits out.length then lwOversize else lwProdErr)
      | none => pure ()
    | none => pure ()

/-- ERR on a final TXO beat: what the frame's receiver sees of it, also through a loopback tunnel. -/
def cutTxo (o : Nat) (out : Bytes) : M Unit := do
  match (← getS).loopPeer o with
  | none => emit (.txo o out true)
  | some q => loopCut q out

/-- End an accepted frame on its egress (R195, R231): ERR on one final TXO beat if it has begun there; its value stays
consumed. `more`: what else its length word says of the cause. -/
def truncItem (n : Nat) (i : SItem) (more : Nat := 0) : M Unit := do
  let o := (← getS).egressPort n i
  writeLength n i (lwTruncated + more)
  if i.started ∧ !i.cutEnded then cutTxo o i.out
  match i.entry with
  | some e => freeEntry e
  | none => pure ()
  dropOrSkip n i
  if !i.cutEnded then
    noteTrunc o
    match i.pair with
    | some k => bump (R.BRIDLE_PAIR_CTL.FAILED k)
    | none => pure ()
  startNext o

/-! ### Queue descriptors that end early (R166) -/

/-- Overwrite with zeros what a descriptor has written. -/
def wipeDst (rid : BitVec 12) (d : QDesc) : M Unit :=
  forM d.written fun w => forM (writeReqs {} w.1 (zeros w.2) rid) emit

/-- A SWAP that waits on a slot, where no load is queued any more, ends with STATE (R435). -/
def swapFail (n : Nat) : M Unit := do
  let k := (← getS).keys
  if k.swapWait = some n ∧ ((← getS).slot n).queued.isEmpty then
    prim (.keys { k with swapWait := none })
    setCond E.SLOTS.SWAP_WAIT false
    cmdStop U.slots rcState

/-- A load that waits for a slot's retiring bank is given up. -/
def dropQueuedOf (e : Nat) : M Unit := do
  forM (← getS).slots fun p =>
    if p.2.queued.any fun q => q.entry = some e then do
      prim (.slot p.1 { p.2 with queued := p.2.queued.filter fun q => q.entry ≠ some e })
      swapFail p.1
    else pure ()

/-- A descriptor ends with a status; `f` notes the rest. -/
def endDesc (q : Nat) (seq : BitVec 32) (status : Nat) (wipe : Bool) (result : Bytes := []) : M Unit := do
  let s ← getS
  match (s.descs q).find? fun d => d.seq = seq with
  | none => pure ()
  | some d =>
    if wipe then wipeDst (BitVec.ofNat 12 (s.fld (R.QUEUE_Q_CFG.RID q))) d
    match d.entry with
    | some e =>
      modEntry e fun c => { c with st := .releasing, result := some status }
      prim (.drawn e [])
      prim (.blinded e [])
      dropQueuedOf e
      let r := (← getS).rng
      prim (.rng { r with reqs := r.reqs.filter fun x => x.user ≠ .entry e ∧ x.user ≠ .blind e })
    | none => pure ()
    setDescs q ((s.descs q).map fun x =>
      if x.seq = seq then { x with phase := .ended, status := status, result := result, written := [] } else x)
    if status ≠ 0 then
      wr (R.QUEUE_Q_ERR.LAST_OP q) (d.bytes.getD 0 0).toNat
      wr (R.QUEUE_Q_ERR.LAST_STATUS q) status
    if status = 0x0030 then
      bump (R.QUEUE_TNT_REFUSED.COUNT d.tenant)
      raiseTenant (E.QUEUE.QUOTA_REFUSED d.tenant) q d.tenant

/-- The descriptor of a Cellar entry ends with a status. -/
def endEntry (e : Nat) (status : Nat) (wipe : Bool) (result : Bytes := []) : M Unit := do
  forM (← getS).queues fun p => forM p.2.descs fun d =>
    if d.entry = some e ∧ (d.phase = .accepted ∨ d.phase = .executing) then endDesc p.1 d.seq status wipe result
    else pure ()

/-! ### Loads that wait for a retiring bank (R434, R442) -/

/-- RESULT of the DONE record of a load (R161). -/
def loadedBytes (n : Nat) (b : Bank) : Bytes :=
  beBytes 4 b.kcv.toNat ++ leBytes 2 n ++ leBytes 4 b.gen.toNat

/-- End the operation of a queued load: a descriptor's, or MATERIALISE. -/
def endQueued (q : QueuedLoad) (status result : Nat) (bytes : Bytes) : M Unit := do
  match q.entry with
  | some e => endEntry e status (decide (status ≠ 0)) bytes
  | none => cmdStop U.derive result

/-- The queued loads of a slot that a test names may no longer load: they end (R442, R621). -/
def dropQueued (n status : Nat) (f : QueuedLoad → Bool := fun _ => true) : M Unit := do
  let s ← getS
  let l := s.slot n
  if l.queued.any f then
    prim (.slot n { l with queued := l.queued.filter fun q => !f q })
    forM l.queued fun q => if f q then endQueued q status rcState [] else pure ()
    swapFail n

/-- The oldest queued load takes place: its bank is free. -/
def loadQueued (n : Nat) : M Unit := do
  let s ← getS
  match (s.slot n).queued with
  | [] => pure ()
  | q :: r =>
    prim (.slot n { s.slot n with queued := r })
    let r ← loadSlot n q.type.toNat q.tenant q.bank.material q.bank.policy q.bank.prov q.bank.node q.entry
    let g := match r with
      | .loaded g => g
      | .waits => 0
    endQueued q 0 rcOk (loadedBytes n { q.bank with gen := g })
    tenantsRefresh

/-- The queued loads of a slot take place, one after the other, while its other bank is not retiring. -/
def loadAllQueued (n : Nat) : M Unit := do
  forM ((← getS).slot n).queued fun _ => do
    if ((← getS).slot n).otherSt ≠ .retiring then loadQueued n

/-! ### Aborting what holds a key (R440) -/

/-- The items of entry `e` are aborted because a key of theirs is erased. -/
def abortHolder (e : Nat) (c : CEntry) : M Unit := do
  let s ← getS
  match c.kind with
  | .queue =>
    forM (List.range 32) fun q => forM (s.descs q) fun d =>
      if d.entry = some e ∧ (d.phase = .accepted ∨ d.phase = .executing) then endDesc q d.seq 0x0023 true else pure ()
  | .egress | .ingress | .bridle =>
    forM s.ports fun p => forM p.2.items fun i =>
      if i.entry = some e then
        (if i.started ∨ c.kind = .egress then truncItem p.1 i else voidItem p.1 i lwNoSa)
      else pure ()
  | .storage =>
    refuseUnits fun u => u.cellar = some e
  | .memRd | .memWr =>
    match mget (fun _ => none) s.mem.txns e with
    | some t =>
      answerTxn t (match t.region with | some n => s.denied n | none => .buserr)
      prim (.txn e none)
      forM (s.inUse.filter fun p => p.2.kind = .data ∧ p.2.order = c.order) fun p => freeEntry p.1
      freeEntry e
    | none => pure ()
  | .data => pure ()

/-- Abort every item that holds one of a slot's generations, and Loose operations on it (R440, R475). -/
def abortHolders (n : Nat) (looseStatus : Nat) (journalled : Bool) : M Unit := do
  let s ← getS
  let gens := (s.slot n).banks.map gen16
  if journalled then
    forM s.inUse fun p => if gens.any fun g => p.2.holds n g then abortHolder p.1 p.2 else pure ()
  forM (List.range 4) fun c => match (s.looseCtx c).busy with
    | .op k .. => if k.slot = n ∧ gens.contains k.gen then looseEnd c looseStatus true else pure ()
    | _ => pure ()

/-! ### Nodes and their descendants (R441) -/

/-- The nodes that descend directly from a set of nodes or from slot keys. -/
def State.childrenOf (s : State) (ks : List Nat) : List Nat :=
  (s.nodes.filter fun p => p.2.st ≠ .free && (match p.2.parent with
    | .node k => ks.contains k
    | _ => false)).map (·.1)

/-- All descendants, level by level. -/
def State.descend (s : State) : Nat → List Nat → List Nat
  | 0, _ => []
  | f + 1, ks =>
    let c := s.childrenOf ks
    if c.isEmpty then [] else c ++ s.descend f c

/-- The nodes whose chain starts in a key of a slot, by generation. -/
def State.fromSlot (s : State) (n : Nat) (g : BitVec 32) : List Nat :=
  (s.nodes.filter fun p => p.2.st ≠ .free ∧ p.2.parent = .slot n g).map (·.1)

/-- The slots that materialise a node. -/
def State.slotsOf (s : State) (k : Nat) : List Nat :=
  (s.slots.filter fun p => p.2.banks.any fun b => b.node = some k).map (·.1)

/-- Orphan nodes and the slots that materialise them (R441, R442): a node that no slot materialises becomes FREE. -/
def orphanNodes (ks : List Nat) : M Unit := do
  forM ks fun k => do
    let s ← getS
    let ls := s.slotsOf k
    forM ls fun n => do
      let l := (← getS).slot n
      dropQueued n 0x0022
      if l.st = .live ∨ l.st = .suspended then setSlot n { (← getS).slot n with st := .orphaned }
      abortHolders n 0x0022 false
    setNode k (if ls.isEmpty then {} else { s.node k with st := .orphaned })
  forM (← getS).slots fun p =>
    dropQueued p.1 0x0022 fun q => match q.bank.node with | some k => ks.contains k | none => false
  if !ks.isEmpty then
    raise E.DERIVE.ORPHANED
    tenantsRefresh

/-! ### Clearing a slot (R440, R442) -/

/-- A slot becomes EMPTY: its binding is released, its counter's next value and its next generation stay (R433). -/
def emptySlot (n : Nat) : M Unit := do
  releaseSlot n
  let s ← getS
  let l := s.slot n
  setSlot n { nextGen := l.nextGen, inv := l.inv, queued := l.queued }
  forM l.banks fun b => do match b.node with
    | some k =>
      let d := (← getS).node k
      if ((← getS).slotsOf k).isEmpty then
        if d.st = .orphaned then setNode k {} else setNode k { d with slot := none }
    | none => pure ()
  if keyWide l.type.toNat ∧ (s.slot (n + 1)).st = .wideTail then
    let t := s.slot (n + 1)
    setSlot (n + 1) { nextGen := t.nextGen, inv := t.inv }
  if l.st ≠ .empty then raise E.SLOTS.CLEARED

/-- Erase a slot (R440, R441). -/
def eraseSlot (n : Nat) : M Unit := do
  abortHolders n 0x0023 true
  let s ← getS
  let kids := ((s.slot n).banks.map fun b => s.fromSlot n b.gen).flatten
  emptySlot n
  orphanNodes (kids ++ s.descend chainFuel kids)
  loadAllQueued n
  swapFail n
  tenantsRefresh

/-- A PKE command that waits for random bits ends with STATE: a key that it uses is erased (R621). -/
def pkeStop : M Unit := do
  let s ← getS
  prim (.keys { s.keys with attest := [] })
  prim (.rng { s.rng with reqs := s.rng.reqs.filter fun r => !r.user.isPke })
  cmdStop U.pke rcState

/-- Advance PARK_EPOCH (R456); it reads 0 until the start-up has set it. -/
def advanceEpoch : M Unit := do
  let e ← rd R.KEYS_PARK_EPOCH.EPOCH
  if e ≠ 0 then wr R.KEYS_PARK_EPOCH.EPOCH (e + 1)

/-- Erase every slot and node at once (R545, R549, R451). -/
def eraseAll : M Unit := do
  let s ← getS
  forM s.slots fun p => releaseSlot p.1
  forM s.slots fun p => dropQueued p.1 0x0023
  forM (← getS).slots fun p => do
    if p.2.st ≠ .empty ∧ p.2.st ≠ .wideTail then raise E.SLOTS.CLEARED
    prim (.slot p.1 { nextGen := p.2.nextGen, inv := p.2.inv })
  prim .nodesClear
  pkeStop
  keyOccupancy
  tenantsRefresh

/-! ### Live users (R438) -/

/-- A region that is not OFF, or a pass of it, names the slot. -/
def State.regionUses (s : State) (r n : Nat) : Bool :=
  (decide (s.fld (R.MEMRGN_CTL.STATE r) ≠ 0 ∧ s.fld (R.MEMRGN_CFG.MODE r) ≠ 0)
      && (s.fld (R.MEMRGN_KEY.KSLOT r) = n || (decide (2 ≤ s.fld (R.MEMRGN_CFG.MODE r)) && s.fld (R.MEMRGN_KEY.MSLOT r) = n)))
    || s.passes.any fun p => p.region = r && (p.old.kslot = n || p.new.kslot = n
        || (decide (2 ≤ p.old.mode) && (p.old.mslot = n || p.new.mslot = n)))

/-- A sealed partition that is not UNMOUNTED leads to the slot. -/
def State.partUses (s : State) (p n : Nat) : Bool :=
  decide (s.fld (R.STOR_PART_CTL.STATE p) ≠ 0)
    && ((s.part p).cfg.mslot = n || (s.part p).cfg.tslot = n || s.fld (R.STOR_SLOT.KEYSLOT (s.part p).cfg.sslot) = n)

/-- The slot's key has a live user. -/
def State.liveUser (s : State) (n : Nat) : Bool :=
  ((List.range 16).any fun r => s.regionUses r n) || ((List.range 8).any fun p => s.partUses p n)

/-- Poison the regions and drop the partitions that use a slot (R438). -/
def forceUsers (n : Nat) : M Unit := do
  let s ← getS
  forM (List.range 16) fun r => if s.regionUses r n then poisonRegion r else pure ()
  forM (List.range 8) fun p => if s.partUses p n then dropPart p poKey else pure ()

/-! ### Slots bound to a module (R448) -/

/-- A slot holds a key whose node is bound to presence input `i`. -/
def Slot.boundTo (l : Slot) (i : Nat) : Bool :=
  l.banks.any fun b => b.node.isSome && polModuleReq b.policy && polModule b.policy = i

/-- The module is absent or unverified: its slots become SUSPENDED. -/
def suspendModule (i : Nat) : M Unit := do
  let s ← getS
  let ls := (s.slots.filter fun p => p.2.st = .live && p.2.boundTo i).map (·.1)
  forM ls fun n => do setSlot n { (← getS).slot n with st := .suspended }
  if !ls.isEmpty then raise E.SLOTS.SUSPENDED

/-- The module verified again with the same binding digest. -/
def resumeModule (i : Nat) : M Unit := do
  forM (← getS).slots fun p =>
    if p.2.st = .suspended && p.2.boundTo i then setSlot p.1 { p.2 with st := .live } else pure ()

/-- The module verified with a different digest: the slots and their nodes become ORPHANED, and their live users
lose the key. -/
def orphanModule (i : Nat) : M Unit := do
  let s ← getS
  let ls := (s.slots.filter fun p => p.2.boundTo i).map (·.1)
  forM ls forceUsers
  let ks := (s.nodes.filter fun p => p.2.st = .valid && polModuleReq p.2.policy && polModule p.2.policy = i).map (·.1)
  orphanNodes (ks ++ s.descend chainFuel ks)

end Sys2Proof.Machine
end

