-- ==== Sys2Proof/Machine/Lanes.lean ====
section
/-! DEFINITION. The scheduler's items and their lanes (R113, R224), what becomes of them when a lane faults or leaves service (R121
to R129, R237), slots that are charged to classes (R111, R622), and the classes themselves (R110). -/
namespace Sys2Proof.Machine
open Sys2Proof

/-- Change a lane. -/
def modLane (l : Nat) (f : LaneState → LaneState) : M Unit := do prim (.lane l (f ((← getS).lane l)))

/-! ### Items (R113, R224) -/

/-- It is the item that an owner opened as its `n`-th. -/
def LaneItem.is (x : LaneItem) (o : LaneOwner) (n : Nat) : Bool := x.owner = o && x.order = n

/-- Replace an item of a list. -/
def putItem (x : LaneItem) (l : List LaneItem) : List LaneItem := l.map fun y => if y.is x.owner x.order then x else y

/-- Change the items. -/
def modItems (f : List LaneItem → List LaneItem) : M Unit := do
  let d := (← getS).sched
  prim (.sched { d with items := f d.items })

/-- An owner's item is over. -/
def dropWork (o : LaneOwner) : M Unit := do
  if (← getS).sched.items.any fun x => x.owner = o then modItems fun items => items.filter fun x => x.owner ≠ o

/-- The owner of the other half of a Bridle item. -/
def LaneOwner.partner : LaneOwner → Option LaneOwner
  | .entry e => some (.half e)
  | .half e => some (.entry e)
  | .loose _ => none

/-- The other half of a Bridle item. -/
def partnerOf (items : List LaneItem) (x : LaneItem) : Option LaneItem :=
  x.owner.partner.bind fun o => items.find? fun y => y.is o x.order

/-- A lane that new items may be assigned to: in service, and its page not DRAINING. -/
def State.takesItems (s : State) (l : Nat) : Bool := s.inService l && decide (s.pageState (0x08 + l) ≠ pgDraining)

/-- The lane of a list with the least of something, the lowest index first. -/
def leastLane (f : Nat → Nat) (c : List Nat) : Option Nat :=
  c.foldl (fun a l => match a with
    | some k => if f l < f k then some l else some k
    | none => some l) none

/-- The lane that an item goes to (R113): one with a free context if the item carries a tag; the two halves of a Bridle item take
different lanes while two are in service (R224), the decrypting half first. An item that a lane fault moves takes another lane
than the faulted one, if there is one, and waits for that lane's test (R121). -/
def State.laneFor (s : State) (x : LaneItem) : Option Nat :=
  let c := (List.range 4).filter fun l => s.takesItems l && (!x.opens || decide (s.contexts l < 64))
  let p := partnerOf s.sched.items x
  let c1 := if s.laneCount < 2 then c else match p with
    | some y => c.filter fun l => y.lane ≠ some l
    | none => c
  let c2 := match x.was with
    | some w => if (c1.filter (· ≠ w)).isEmpty then c1 else c1.filter (· ≠ w)
    | none => c1
  let held : Bool := (match x.was with
      | some w => (s.lane w).kat = some .fault
      | none => false)
    || (match x.owner, p with
      | .half _, some y => y.lane.isNone && !y.done
      | _, _ => false)
  if held then none else leastLane s.backlog c2

/-- Assign every item that has no lane, oldest first. -/
def State.assigned (s : State) : List LaneItem → State
  | [] => s
  | x :: r =>
    if x.lane.isSome ∨ x.done then s.assigned r
    else match s.laneFor x with
      | some l => State.assigned { s with sched := { s.sched with items := putItem { x with lane := some l } s.sched.items } } r
      | none => s.assigned r

/-- Items that move from lane `w` to lane `l`. -/
def movedCount (items : List LaneItem) (w l : Nat) : Nat := (items.filter fun x => x.was = some w && x.lane = some l).length

/-- Assign the items that wait for a lane; those that a fault moves away are counted (R122, R126). -/
def assignAll : M Unit := do
  let s ← getS
  if s.sched.items.any fun x => x.lane.isNone && !x.done then
    let d := (s.assigned s.sched.items).sched
    prim (.sched { d with items := d.items.map fun x => if x.lane.isSome then { x with was := none } else x })
    forM (List.range 4) fun w => forM (List.range 4) fun l => do
      let n := movedCount d.items w l
      if n ≠ 0 ∧ w ≠ l then
        bumpBy (R.LANE_REPLAYS.COUNT w) n
        raiseNamed (E.LANE.REPLAY_OUT w) 0x0024 [BitVec.ofNat 96 (w + l * 4 + min 255 n * 2 ^ 8)] .immediate

/-! ### Voiding a lane (R121, R122, R237) -/

/-- A block of an item, by its number, is in a lane's pipeline or in its tag units. -/
def LaneBlock.of (b : LaneBlock) (x : LaneItem) : Option Nat := match b.what with
  | .item o n k => if x.is o n then some k else none
  | _ => none

def LaneState.carries (a : LaneState) (x : LaneItem) : Bool :=
  (a.pipe.any fun p => (p.2.of x).isSome) || a.folds.any fun f => x.is f.owner f.order

/-- A lane without the blocks, folds and reserved slots of an item from a block on. -/
def LaneState.without (a : LaneState) (x : LaneItem) (k : Nat) : LaneState :=
  { a with
    pipe := a.pipe.filter fun p => match p.2.of x with
      | some i => decide (i < k)
      | none => true
    slots := a.slots.filter fun y => !(x.is y.owner y.order && decide (k ≤ y.index)) }

/-- An item goes back to a block: what had entered from there on enters again. -/
def LaneItem.backTo (x : LaneItem) (k : Nat) : LaneItem :=
  { x with next := min k x.next, out := min k x.out, replayTo := max x.replayTo x.next, since := none }

/-- An item goes back to its committed context (R122), or, without a tag, to the results that its path has. -/
def LaneItem.rewind (x : LaneItem) : LaneItem := x.backTo (if x.tagged then x.ctxA.index else x.released)

/-- The decrypting block that matches an encrypting block of a half, or the first of them. -/
def LaneItem.decBlock (x : LaneItem) (k : Nat) : Option Nat := x.link.bind fun (a, b, n) =>
  if k < a + n then some (b + (k - a)) else none

/-- Every block in a lane's pipeline and tag units is voided. The affected items go back, and leave the lane with `all` the other
items that it has; a Bridle item's decrypting blocks are rerun from the block that its encrypting half takes next. -/
def voidLane (l : Nat) (all : Bool) : M Unit := do
  let s ← getS
  let a := s.lane l
  let hit := s.sched.items.filter fun x => x.lane = some l && !x.done && (x.opens || a.carries x)
  modLane l fun y => { y with pipe := [], folds := [], slots := [] }
  forM hit fun x => modItems (putItem { x.rewind with lane := none, was := some l })
  if all then modItems fun items => items.map fun x => if x.lane = some l then { x with lane := none } else x
  forM hit fun x => do
    let items := (← getS).sched.items
    match x.owner, partnerOf items x with
    | .half _, some y =>
      match x.decBlock x.rewind.next with
      | some k =>
        if k < y.next then
          modItems (putItem (y.backTo k))
          forM (List.range 4) fun j => modLane j fun z => z.without y k
      | none => pure ()
    | .entry _, some y => forM (List.range 4) fun j => modLane j fun z => { z with slots := z.slots.filter fun w => !y.is w.owner w.order }
    | _, _ => pure ()

/-- The lanes' share of a sweep (R541): every lane voids its blocks in flight and moves its items as after a lane fault, counting
none. -/
def sweepLanes : M Unit := do
  forM (List.range 4) fun l => do
    let a := (← getS).lane l
    if !a.pipe.isEmpty ∨ !a.folds.isEmpty then voidLane l false
  assignAll

/-! ### Lanes that fault or leave (R121 to R129) -/

/-- Power a lane off: what is assigned to it moves, and its registers lose their contents. -/
def laneOff (l : Nat) : M Unit := do
  voidLane l true
  modLane l fun x => { x with
    powered := false, tested := false, kat := none, katLeft := 0, lasting := false, inject := false, replaying := false,
    subkeys := [], noise := none }
  setDomain (6 + l) false

/-- The payload of LANE_FAULT, LANE_GUST and LANE_FENCE. -/
def lanePayload (l stage cause : Nat) : BitVec 96 := BitVec.ofNat 96 (l + stage * 2 ^ 8 + cause * 2 ^ 16)

/-- Fence a lane (R125). A software fence and a failed known-answer test are no lane faults: STAGE and LANE_LAST_FAULT_TS keep what
the last lane fault left there. DESIGN CHOICE (log entry 124). -/
def fenceLane (l cause : Nat) : M Unit := do
  let s ← getS
  wr (R.LANE_FAULT_STAT.LAST_CAUSE l) cause
  bump (R.LANE_FAULT_STAT.FENCE_COUNT l)
  laneOff l
  modLane l fun x => { x with fenced := true }
  setCondQuiet (E.LANE.FENCED l) true
  pageEntry (0x08 + l) 0x0023 [lanePayload l (s.fld (R.LANE_FAULT_STAT.STAGE l)) cause] .immediate
  unitAlarm (0x08 + l) 2
  if s.pageState (0x08 + l) = pgActive ∨ s.pageState (0x08 + l) = pgDraining then pageToFault (0x08 + l)
  assignAll
  laneRefresh

/-- A known-answer set begins (R120): six blocks are due on the lane. -/
def katBegin (l : Nat) (r : KatReason) : M Unit :=
  modLane l fun x => { x with kat := some r, katLeft := 6, katGood := true }

/-! ### Classes (R110, R111, R116, R622) -/

/-- The reset shares. -/
def resetClasses : List ClassSet :=
  [⟨96, 0, 0⟩, ⟨32, 0, 0⟩, ⟨64, 0, 1⟩, ⟨32, 0, 1⟩, ⟨20, 0, 2⟩, ⟨4, 0, 2⟩, ⟨4, 0, 3⟩, ⟨4, 0, 3⟩]

/-- The set in force. -/
def State.classes (s : State) : List ClassSet :=
  if s.pageState 0x0C = pgActive ∨ s.pageState 0x0C = pgDraining then s.sched.committed.getD resetClasses
  else resetClasses

/-- The next class of a set after the last one picked from it. -/
def nextClass (last : Nat) (p : Nat → Bool) : Option Nat :=
  ((List.range 8).map fun k => (last + 1 + k) % 8).find? p

/-- Charge slots to a class (R622). -/
def SchedState.charge (d : SchedState) (c n : Nat) : SchedState :=
  { d with credit := d.credit.set c (d.credit.getD c 0 - n), used := d.used.set c (d.used.getD c 0 + n) }

/-- The class that a lane slot goes to, from those that have a block ready, and the scheduler with that pick remembered; `n` lanes
are in service. -/
def SchedState.pick (d : SchedState) (cs : List ClassSet) (n : Nat) (ready : Nat → Bool) : Option (Nat × SchedState) :=
  let cls (c : Nat) : ClassSet := cs.getD c ⟨0, 0, 3⟩
  let isOpen (c : Nat) : Bool := ready c && ((cls c).cap = 0 || decide (d.used.getD c 0 < (cls c).cap * n))
  match nextClass d.lastA fun c => isOpen c && decide (0 < d.credit.getD c 0) with
  | some c => some (c, { d with lastA := c })
  | none =>
    let best := ((List.range 8).filter isOpen).foldl (fun a c => min a (cls c).prio) 4
    (nextClass d.lastB fun c => isOpen c && (cls c).prio = best).map fun c => (c, { d with lastB := c })

/-! ### Lane work that a command does at once (R111, R135) -/

/-- Slots charged to a class, and blocks that leave O2 of a lane. -/
def countSlots (c n : Nat) : M Unit := do
  if n ≠ 0 then
    prim (.sched ((← getS).sched.charge c n))
    wr (R.SCHED_SLOTS.COUNT c) ((← rd (R.SCHED_SLOTS.COUNT c)) + n)

def countBlocks (l n : Nat) : M Unit := do
  if n ≠ 0 then wr (R.LANE_BLOCKS.COUNT l) ((← rd (R.LANE_BLOCKS.COUNT l)) + n)

/-- `n` blocks of a class pass through the lane that R113 gives them. DESIGN CHOICE (log entry 125): work that the commands do as one
step - counter blocks, tags and tree nodes, storage units, re-encryption, table units - takes its slots in that step. -/
def laneWork (c n : Nat) : M Unit := do
  let s ← getS
  match leastLane s.backlog ((List.range 4).filter s.inService) with
  | some l =>
    countSlots c n
    countBlocks l n
  | none => pure ()

end Sys2Proof.Machine
end

