-- ==== Sys2Proof/Machine/Tamper.lean ====
section
/-! DEFINITION. The tamper supervisor (R539 to R553): counting and grading events, the sweep, Ripcord, GROUNDED and the
VBAT log. -/
namespace Sys2Proof.Machine
open Sys2Proof

/-! ### Sources (R539, R542) -/

def srcVglitch : Nat := 0x01
def srcVbatLow : Nat := 0x02
def srcClk32 : Nat := 0x03
def srcClkCore : Nat := 0x04
def srcTemp : Nat := 0x05
def srcDebug : Nat := 0x06
def srcLoop (n : Nat) : Nat := 0x08 + n
def srcShield (n : Nat) : Nat := 0x0C + n
def srcLaneGlitch : Nat := 0x10
def srcInteg : Nat := 0x11
def srcRollback : Nat := 0x12
def srcModule : Nat := 0x13
def srcSelfcheck : Nat := 0x14
def srcFuse : Nat := 0x15
def srcLcWord : Nat := 0x16
def srcRootAbsent : Nat := 0x17
def srcTrip : Nat := 0x18

/-- A source with a counting window in the table of R539. -/
def srcCounted (c : Nat) : Bool :=
  (1 ≤ c && c ≤ 6) || (8 ≤ c && c ≤ 0x0D) || (0x10 ≤ c && c ≤ 0x14) || c = 0x18

/-- The floor of a source's lasting grade. -/
def srcFloor (c : Nat) : Nat :=
  if c = 1 ∨ c = 4 ∨ c = 6 ∨ (8 ≤ c ∧ c ≤ 0x0D) ∨ c = 0x10 ∨ c = 0x18 then 3 else 2

/-- EVENT_GRADE and LASTING_GRADE as applied. -/
def State.srcEvent (s : State) (c : Nat) : Nat :=
  let v := min 1 (s.fld (R.TAMPER_SRC_CFG.EVENT_GRADE c))
  if s.fielded then max v (resetFld (R.TAMPER_SRC_CFG.EVENT_GRADE c)) else v
def State.srcLasting (s : State) (c : Nat) : Nat :=
  let v := max 2 (s.fld (R.TAMPER_SRC_CFG.LASTING_GRADE c))
  if s.fielded then max v (srcFloor c) else v

/-! ### The VBAT log (R553) -/

/-- The entry of the log that the next event overwrites: a free one, else the oldest that is not of grade 3. -/
def State.logPlace (s : State) : Option Nat :=
  let n := s.fld R.TAMPER_LOG_PTR.COUNT
  if n < 16 then some (s.fld R.TAMPER_LOG_PTR.NEXT)
  else s.tamper.logOrder.find? fun i => decide (s.fld (R.TAMPER_LOG_A.GRADE i) ≠ 3)

/-- LOG_FULL: all sixteen entries are of grade 3. -/
def logFull : M Unit := do
  let s ← getS
  setCond E.TAMPER.LOG_FULL (s.fld R.TAMPER_LOG_PTR.COUNT = 16
    && (List.range 16).all fun i => s.fld (R.TAMPER_LOG_A.GRADE i) = 3)

/-- Write an entry of the log. -/
def vbatLog (src grade : Nat) (ts seq : Nat) (vbatOnly startup : Bool) : M Unit := do
  let s ← getS
  match s.logPlace with
  | none => bump R.TAMPER_LOG_PTR.OVERFLOW
  | some i =>
    wr (R.TAMPER_LOG_A.CODE i) src
    wr (R.TAMPER_LOG_A.GRADE i) grade
    wr (R.TAMPER_LOG_A.LC i) (if vbatOnly then s.tamper.lcVbat else s.fld R.KEYS_LC.STATE)
    wr (R.TAMPER_LOG_A.VBAT_ONLY i) (b2n vbatOnly)
    wr (R.TAMPER_LOG_A.STARTUP i) (b2n startup)
    wr (R.TAMPER_LOG_A.VALID i) 1
    wr (R.TAMPER_LOG_TS.TS i) ts
    wr (R.TAMPER_LOG_B.STAMP_SEQ i) seq
    wr R.TAMPER_LOG_PTR.COUNT (min 16 (s.fld R.TAMPER_LOG_PTR.COUNT + 1))
    let t := s.tamper
    prim (.tamper { t with logOrder := t.logOrder.filter (· ≠ i) ++ [i], uncopied := t.uncopied.filter (· ≠ i) ++ [i] })
    let s2 ← getS
    wr R.TAMPER_LOG_PTR.NEXT (s2.logPlace.getD i)
    if s2.fld R.TAMPER_LOG_PTR.COUNT < 16 then wr R.TAMPER_LOG_PTR.NEXT ((i + 1) % 16)
  logFull

/-! ### GROUNDED (R548, R549) -/

/-- ROOT_ABSENT follows ROOT_OK (R419). -/
def rootCond : M Unit := do
  let s ← getS
  setCond E.KEYS.ROOT_ABSENT (!s.rootOk)

/-- Enter GROUNDED with a cause (R549): every slot and node is erased and every accepted item aborted. Its VBAT log entry (R553) is
written by the event: with the one entry of a Ripcord (R545) or of a start-up source, beside the event's own at grade 2. -/
def enterGrounded (cause : Nat) : M Unit := do
  if !(← getS).grounded then
    wr R.TAMPER_STAT.GROUNDED 1
    wr R.TAMPER_STAT.GROUND_CAUSE cause
    abortAll
    eraseAll
    prim (.wake { (← getS).wake with req := false })
    forM (← getS).ports fun p => portRefresh p.1
    setCond E.TAMPER.GROUNDED true

/-! ### Ripcord (R545) -/

/-- The key material of VBAT is erased and read back (steps 3 and 4). -/
def wipeVbat : M Unit := do
  let k := (← getS).keys
  prim (.keys { k with vbatA := 0, vbatB := 0, markA := false, markB := false })

/-- Run Ripcord, but for its log entry, which the event writes. -/
def ripcord (cause : Nat) : M Unit := do
  let s ← getS
  if s.power' = pwDescending then prim (.power { s.power with noImage := true })
  prim (.keys { s.keys with
    fuseA := 0, fuseB := 0, fuseHeld := false, vbatA := 0, vbatB := 0, markA := false, markB := false, park := none })
  prim .rootsClear
  advanceEpoch
  prim (.wake { s.wake with guardKey := none })
  prim (.power { (← getS).power with lookupImage := false })
  prim (.rng { (← getS).rng with drbg := none, seeds := [] })
  wr R.RNG_STAT.INSTANTIATED 0
  wr R.RNG_STAT.SEEDS 0
  if s.grounded then eraseAll
  rootCond
  raise E.TAMPER.RIPCORD .immediate
  enterGrounded cause

/-! ### The sweep (R541, R552) -/

/-- Opcodes that run on the key core, 0x10 to 0x28. -/
def keyCoreOp (d : QDesc) : Bool := let o := (d.bytes.getD 0 0).toNat; 0x10 ≤ o && o ≤ 0x28

/-- Discard the key core's operation of a descriptor and run it again: fresh randomness is drawn. -/
def redraw (e : Nat) : M Unit := do
  let s ← getS
  let a := mget (fun _ => []) s.drawn e
  let b := mget (fun _ => []) s.blinded e
  prim (.drawn e [])
  prim (.blinded e [])
  if !a.isEmpty then askRandom .key (.entry e) a.length
  if !b.isEmpty then askRandom .ordinary (.blind e) b.length

/-- The sweep: what is in flight in the lanes is voided, and its items go back to their committed contexts; operations of the key
core and draws of the DRBG core run again. -/
def sweep : M Unit := do
  sweepLanes
  let s ← getS
  forM (List.range 32) fun q => do
    forM (s.descs q) fun d =>
      if d.phase = .executing ∧ keyCoreOp d then (match d.entry with
        | some e => redraw e
        | none => pure ()) else pure ()
    prim (.queue q { descs := (s.descs q).map fun d =>
      if d.phase = .executing ∧ keyCoreOp d then { d with replayed := true } else d })

/-! ### Events (R540, R541) -/

/-- Act on an event of a source at a grade. -/
def actOn (src g win : Nat) (st : Stamp) : M Unit := do
  let startup := decide ((← getS).fld R.TAMPER_STAT.STARTUP = 1)
  wr R.TAMPER_STAT.LAST_SRC src
  wr R.TAMPER_STAT.LAST_GRADE g
  wr R.TAMPER_LAST_TS.TS st.ts.toNat
  raiseItem st 0x06 (Config.entryReq 0x0020) 0x0020 [alarmPayload src g win startup 0] .immediate true
  if g = 0 then
    let _ ← setEvent E.TAMPER.NOTICE
  if g = 1 then
    let _ ← setEvent E.TAMPER.GUST
  if g = 1 ∨ (g = 2 ∧ (src = srcVglitch ∨ src = srcClkCore ∨ src = srcLaneGlitch)) then sweep
  if g = 2 then
    wr (R.TAMPER_SRC_STAT.LASTING src) 1
    setCondQuiet E.TAMPER.LASTING true
  if 2 ≤ g then vbatLog src g st.ts.toNat st.seq.toNat false startup
  if g = 3 then ripcord src
  else if 1 ≤ g ∧ startup ∧ !(← getS).grounded then
    let st2 ← stamp
    vbatLog src g st2.ts.toNat st2.seq.toNat false startup
    enterGrounded src
  if 1 ≤ g then wakeBy 0x3 0 src

/-- An event of a counted source (R540). -/
def tamperEvent (src : Nat) : M Unit := do
  let s ← getS
  let st ← stamp
  let (n, lasting) ← countGust (0x100 + src) (s.srcLimit src) (s.srcWin src)
  bump (R.TAMPER_SRC_STAT.EVENTS src)
  let g0 := if lasting then s.srcLasting src else s.srcEvent src
  let g := if s.fld (R.TAMPER_SRC_STAT.LASTING src) = 1 then max 2 g0 else g0
  actOn src g n st

/-- An event recorded at a given grade that does not count: a rising OT_DBG_ACTIVE outside FIELD (R57, R539). -/
def tamperNotice (src : Nat) : M Unit := do
  actOn src 0 0 (← stamp)

/-- The life-cycle state is FIELD. -/
def State.inField (s : State) : Bool := s.fld R.KEYS_LC.STATE = 2

/-- The state has become FIELD: OT_DBG_ACTIVE high with OT_DBG_AUTH low is a debug-intrusion event from then on (R57). -/
def debugInField : M Unit := do
  let s ← getS
  if s.inField ∧ s.bnd.dbgActive ∧ !s.bnd.dbgAuth then
    wr (R.TAMPER_SRC_STAT.ACTIVE srcDebug) 1
    tamperEvent srcDebug

/-- An event of a start-up source, FUSE, LC_WORD or ROOT_ABSENT: GROUNDED under R549. R539 gives it no grade, and R31 has it
at grade 2 or 3. -/
def startupEvent (src : Nat) : M Unit := do
  let st ← stamp
  let g := if Config.startupGrade (BitVec.ofNat 8 src) then 3 else 2
  let startup := decide ((← getS).fld R.TAMPER_STAT.STARTUP = 1)
  bump (R.TAMPER_SRC_STAT.EVENTS src)
  wr R.TAMPER_STAT.LAST_SRC src
  wr R.TAMPER_STAT.LAST_GRADE g
  wr R.TAMPER_LAST_TS.TS st.ts.toNat
  raiseItem st 0x06 (Config.entryReq 0x0020) 0x0020 [alarmPayload src g 0 startup 0] .immediate true
  vbatLog src g st.ts.toNat st.seq.toNat false startup
  enterGrounded src

end Sys2Proof.Machine
end

