-- ==== Sys2Proof/Machine/Anchor.lean ====
section
/-! DEFINITION. The anchor store (R282 to R287): records, the start-up scan, slots, retirement; and ANCHOR_CMD. -/
namespace Sys2Proof.Machine
open Sys2Proof

/-! ### Records (R283, R284) -/

/-- TYPE × 16 + INSTANCE and the payload of a record. -/
def AnchorUse.key (exp bad : Nat) : AnchorUse → Nat × Bytes
  | .ballast c r lost =>
    (0x10, beBytes 8 c.toNat ++ beBytes 4 r.toNat ++ beBytes 1 exp ++ beBytes 1 (b2n lost) ++ zeros 2 ++ beBytes 8 bad ++ zeros 16)
  | .root n p => (0x20 + n, padTo 40 p)
  | .storage n p => (0x30 + n, padTo 40 p)

/-- The MAC of a record in a slot. -/
def anchorMac (key : Bytes) (slot : Nat) (head : Bytes) : Bytes := (cmac key (beBytes 1 slot ++ head)).take 8

/-- A record of 64 bytes. -/
def anchorRecord (key : Bytes) (slot type inst seq : Nat) (payload : Bytes) : Bytes :=
  let h := beBytes 2 0xB411 ++ beBytes 1 type ++ beBytes 1 inst ++ [0x01] ++ zeros 3 ++ beBytes 8 seq ++ payload
  h ++ anchorMac key slot h

/-- A record is verified (R283). -/
def recordVerified (key : Option Bytes) (slot : Nat) (r : Bytes) : Bool := match key with
  | none => false
  | some k =>
    let t := beAt r 2 1
    let i := beAt r 3 1
    decide (r.length = 64 ∧ beAt r 0 2 = 0xB411 ∧ beAt r 4 1 = 1)
      && ((t = 1 && i = 0) || (t = 2 && decide (i < 16)) || (t = 3 && decide (i < 8)))
      && anchorMac k slot (r.take 56) = r.drop 56

/-! ### Slots (R285, R287) -/

/-- The slots that hold a live record or are retired. -/
def State.slotTaken (s : State) (n : Nat) : Bool :=
  (s.fld R.ANCHOR_BAD.BAD).testBit n || s.anchor.live.any fun l => l.slot = n

/-- Slots neither live nor retired. -/
def State.slotsUsable (s : State) : Nat := ((List.range 64).filter fun n => !s.slotTaken n).length

/-- The slot that the next record takes. -/
def State.nextAnchorSlot (s : State) : Option Nat :=
  ((List.range 64).map fun k => (s.anchor.nextSlot + k) % 64).find? fun n => !s.slotTaken n

/-- Keep ANCHOR_STAT and WEAR; a notice is raised when WEAR begins. -/
def anchorRefresh : M Unit := do
  let s ← getS
  wr R.ANCHOR_STAT.NEXT_SLOT s.anchor.nextSlot
  wr R.ANCHOR_STAT.USABLE (if s.slotsUsable = 64 then Config.anchorAllUsable.toNat else s.slotsUsable)
  wr R.ANCHOR_STAT.LIVE s.anchor.live.length
  let low := decide (s.slotsUsable < 24)
  let was := (s.fld (R.PG_EVT_RAW.EVT 0x25)).testBit E.ANCHOR.WEAR.bit
  setCond E.ANCHOR.WEAR low
  if low ∧ !was then unitAlarm 0x25 0

/-- The store fails (R287). -/
def storeFault : M Unit := do
  setCond E.ANCHOR.STORE_FAULT true .immediate
  unitAlarm 0x25 2
  pageToFault 0x25

/-! ### Writing (R282) -/

/-- A use is a BALLAST record. -/
def AnchorUse.isBallast : AnchorUse → Bool
  | .ballast .. => true
  | _ => false

/-- The rate limits allow the record. -/
def State.budgetOk (s : State) (u : AnchorUse) : Bool :=
  decide (s.recentWrites false < 256) && (!u.isBallast || decide (s.recentWrites true < 224))

/-- The first requested record is written into the next usable slot. -/
def anchorWriteStart : M Unit := do
  let s ← getS
  match s.anchor.reqs, s.anchor.writing, s.anchorKey with
  | (u, fails) :: rest, none, some key =>
    if s.grounded ∨ s.pageState 0x25 = pgFault ∨ !s.anchor.scanned then pure ()
    else if !s.budgetOk u then setCond E.ANCHOR.BUDGET true
    else match s.nextAnchorSlot with
      | none => storeFault
      | some n =>
        setCond E.ANCHOR.BUDGET false
        let (k, payload) := u.key (s.fld R.FRESH_STAT.EXP) (s.fld R.ANCHOR_BAD.BAD)
        let r := anchorRecord key n (k / 16) (k % 16) s.anchor.nextSeq.toNat payload
        emit (.anchorWrite n r)
        wr R.ANCHOR_SEQ.SEQ s.anchor.nextSeq.toNat
        prim (.anchor { s.anchor with
          reqs := rest, writing := some ⟨n, u, r, fails⟩, nextSeq := s.anchor.nextSeq + 1, nextSlot := (n + 1) % 64,
          times := (s.anchor.times.filter fun t => decide (s.now.toNat < t.1 + 1000000000)) ++ [(s.now.toNat, u.isBallast)],
          thisSecond := s.anchor.thisSecond + b2n u.isBallast })
        anchorRefresh
  | _, _, _ => pure ()

def execAnchorWriteStart (s : State) : Host.Outcome State Fault Refusal :=
  exec1 (waitable .anchorWriteStart 0x25 anchorWriteStart) s

/-- A failed write retires its slot; the same record is written again with a new SEQ, until four fail (R287). -/
def anchorFailed (w : AnchorWrite) : M Unit := do
  bump R.ANCHOR_FAILS.COUNT
  wrBit R.ANCHOR_BAD.BAD w.slot true
  raise E.ANCHOR.WRITE_FAIL
  raise E.ANCHOR.SLOT_RETIRED
  let a := (← getS).anchor
  prim (.anchor { a with writing := none, reqs := (w.use, w.fails + 1) :: a.reqs })
  anchorRefresh
  if 4 ≤ w.fails + 1 then storeFault

/-- The record is live in place of the one of its type and instance before it (R285). -/
def anchorLive (w : AnchorWrite) : M Unit := do
  let a := (← getS).anchor
  let k := beAt w.record 2 1 * 16 + beAt w.record 3 1
  prim (.anchor { a with
    writing := none, live := a.live.filter (fun l => l.key ≠ k) ++ [⟨w.slot, k, slice w.record 16 40⟩] })
  anchorRefresh

/-- A BALLAST record has been read back: the ceiling moves (R274, R278, R281). -/
def ballastDone (ceiling : BitVec 64) (resets : BitVec 32) : M Unit := do
  prim (.anchor { (← getS).anchor with leased := true })
  wr R.FRESH_CEILING.C ceiling.toNat
  wr R.ANCHOR_RESETS.COUNT resets.toNat
  wr R.FRESH_STAT.CEIL_WAIT 0
  setCond E.FRESH.CEIL_WAIT false

/-! ### Start-up scan (R286, R278, R281) -/

/-- The highest-SEQ verified record of each type and instance, over the slots. -/
def foldLive : List (Nat × Bytes) → List (Nat × LiveRec) → List (Nat × LiveRec)
  | [], acc => acc
  | (n, r) :: rest, acc =>
    let k := beAt r 2 1 * 16 + beAt r 3 1
    let q := beAt r 8 8
    let rec1 : Nat × LiveRec := (q, ⟨n, k, slice r 16 40⟩)
    foldLive rest (if acc.any fun a => a.2.key = k && decide (q ≤ a.1) then acc
      else acc.filter (fun a => a.2.key ≠ k) ++ [rec1])

/-- The scan of the 64 slots, as the port answered. -/
def startUpScan (store : List (Nat × Bytes)) : M Unit := do
  let s ← getS
  match s.anchorKey with
  | none => pure ()
  | some key =>
    if s.anchor.scanned then pure ()
    else
      let all := (List.range 64).map fun n => (n, padTo 64 (mget (fun _ => []) store n))
      let good := all.filter fun p => recordVerified (some key) p.1 p.2
      let live := foldLive good []
      let top := good.foldl (fun (a : Nat × Nat) p => if a.1 ≤ beAt p.2 8 8 then (beAt p.2 8 8, (p.1 + 1) % 64) else a) (0, 0)
      let ballast := (live.find? fun l => l.2.key = 0x10).map (·.2.payload)
      let magic := all.filter fun p => beAt p.2 0 2 = 0xB411
      let exp := max s.expMin (min s.expMax (match ballast with | some b => beAt b 12 1 | none => s.fld R.FRESH_STAT.EXP))
      wr R.FRESH_STAT.EXP exp
      prim (.anchor { s.anchor with
        scanned := true, live := live.map (·.2), nextSeq := BitVec.ofNat 64 (top.1 + 1), nextSlot := top.2 })
      match ballast with
      | some b =>
        let f := beAt b 0 8
        let lost := decide (beAt b 13 1 % 2 = 1)
        wr R.ANCHOR_BAD.BAD (beAt b 16 8)
        wr R.ANCHOR_RESETS.COUNT (beAt b 8 4)
        wr R.FRESH_CEILING.C f
        wr R.FRESH_FLOOR.F f
        wr R.FRESH_STAT.LOST (b2n lost)
        setCond E.FRESH.LOST_MODE lost
        askAnchor (.ballast (BitVec.ofNat 64 (f + 2 ^ exp)) (BitVec.ofNat 32 (beAt b 8 4 + 1)) lost)
      | none =>
        wr R.FRESH_CEILING.C 0
        wr R.FRESH_FLOOR.F 0
        if magic.isEmpty then askAnchor (.ballast (BitVec.ofNat 64 (2 ^ exp)) 1 false)
        else
          let best := (magic.filter fun p => beAt p.2 2 1 = 1).foldl (fun a p => max a (beAt p.2 24 4)) 0
          wr R.FRESH_STAT.LOST 1
          raise E.ANCHOR.LOST .immediate
          unitAlarm 0x25 2
          setCond E.FRESH.LOST_MODE true
          askAnchor (.ballast (BitVec.ofNat 64 (2 ^ exp)) (BitVec.ofNat 32 (best + 1)) true)
      anchorRefresh

/-- The scan runs once the key core has derived the anchor key. -/
def execStartUpScan (store : List (Nat × Bytes)) (s : State) : Host.Outcome State Fault Refusal :=
  exec1 (startUpScan store) s

/-! ### ANCHOR_CMD -/

/-- ANCHOR_CMD READ: ignored while the page is not ACTIVE, and for any other operation (ANCHOR page). `words`: what the
port answers for the slot. -/
def fxAnchorCmd (op slot : Nat) (words : Bytes) : M Unit := do
  let s ← getS
  if s.active 0x25 ∧ op = 1 ∧ s.fld R.ANCHOR_CMD_STAT.BUSY = 0 then
    let r := padTo 64 words
    forM (List.range 16) fun w => wr (R.ANCHOR_REC.WORD w) (beAt r (4 * w) 4)
    wr R.ANCHOR_CMD_STAT.SLOT slot
    wr R.ANCHOR_CMD_STAT.VERIFIED (b2n (recordVerified s.anchorKey slot r))
    wr R.ANCHOR_CMD_STAT.LIVE (b2n (s.anchor.live.any fun l => l.slot = slot))

def execAnchorRead (rid : BitVec 12) (slot : BitVec 6) (words : Bytes) (s : State) : Host.Outcome State Fault Refusal :=
  exec1 (hostWrite (fullWrite rid R.ANCHOR_CMD.OP.addr (BitVec.ofNat 32 (2 ^ 28 + slot.toNat)))
    (fxAnchorCmd 1 slot.toNat words)) s

/-! ### The lease exponent (R277) -/

/-- At each 1-second boundary of the time base. -/
def execLeaseExpAdjust (s : State) : Host.Outcome State Fault Refusal :=
  exec1 (do
    let s ← getS
    let k := s.fld R.FRESH_STAT.EXP
    let target := s.fld R.FRESH_CFG.TARGET
    let hist := (s.anchor.thisSecond :: s.anchor.perSecond).take 64
    prim (.anchor { s.anchor with perSecond := hist, thisSecond := 0 })
    let k1 := if target < s.anchor.thisSecond ∧ k < s.expMax then k + 1
      else if hist.length = 64 ∧ (hist.all fun n => decide (n ≤ target / 8)) ∧ s.expMin < k then k - 1
      else k
    wr R.FRESH_STAT.EXP k1) s

end Sys2Proof.Machine
end

