-- ==== Sys2Proof/Machine/Blob.lean ====
section
/-! DEFINITION. Key blobs (R444 to R446), definitions of nodes (R423) and materialisation (R424, R434), as register
commands and queue descriptors both use them. -/
namespace Sys2Proof.Machine
open Sys2Proof

/-! ### Blobs (R444, R446) -/

/-- PROV as SLOTS_INFO, a blob and a statement encode it. -/
def Prov.code : Prov → Nat
  | .none => 0
  | .derived => 1
  | .generated => 2
  | .sole => 3
  | .imported => 4
  | .agreed => 5
  | .attest => 6

/-- A blob of a key under a wrapping key, with the 8 bytes that its IV carries as counter. -/
def keyBlob (wkey : Bytes) (type : Nat) (policy : Word) (prov : Prov) (m ctr : Bytes) : Bytes :=
  let iv := beBytes 4 0x57524150 ++ ctr
  let aad := beBytes 2 0xB413 ++ [0x01, BitVec.ofNat 8 type] ++ beBytes 4 policy.toNat ++ [BitVec.ofNat 8 prov.code]
    ++ zeros 3 ++ beBytes 4 (kcvOf 0x02 wkey).toNat ++ beBytes 4 (kcvOf type m).toNat
  let c := gcmSeal wkey iv aad m
  aad ++ iv ++ c.1 ++ c.2

/-- A scalar lies in [1, n − 1]; a point lies on its curve. -/
def materialOk (t : Nat) (m : Bytes) : Bool :=
  let c := curveOf (curveCode t)
  if isPriv t then decide (1 ≤ beNat m ∧ beNat m < c.n)
  else if isPub t then
    let q := bytesPoint c m
    onCurve c q.1 q.2
  else true

/-- Open a blob: its type, policy and material, or the completion status of the first check that fails (R446). -/
def State.openBlob (s : State) (wkey blob : Bytes) : Except Nat (Nat × Word × Bytes) :=
  if blob.length < 48 then .error 0x0010
  else
    let n := blob.length - 48
    let aad := blob.take 20
    let iv := slice blob 20 12
    let ct := slice blob 32 n
    let t := beAt blob 3 1
    let p := BitVec.ofNat 32 (beAt blob 4 4)
    if gcmTag wkey iv aad ct ≠ blob.drop (32 + n) then .error 0x0001
    else if beAt blob 0 2 ≠ 0xB413 ∨ beAt blob 2 1 ≠ 1 ∨ keyLen t = 0 ∨ n ≠ keyLen t ∨ !policyValid p then .error 0x0010
    else
      let m := gcmOpen wkey iv ct
      if beAt blob 12 4 ≠ (kcvOf 0x02 wkey).toNat ∨ !materialOk t m ∨ beAt blob 16 4 ≠ (kcvOf t m).toNat then .error 0x0010
      else if !s.lcAllows p then .error 0x0021
      else .ok (t, p, m)

/-! ### Nodes (R423) -/

/-- What a key needs to be a parent (R422, R430). -/
def parentNeed : KeyNeed := { types := [0x02, 0x20, 0x21], use := some useDerive }

/-- A node as a parent, with the depth of its children. -/
def State.parentNode (s : State) (k : Nat) : Except KeyFail (Parent × Nat) :=
  let d := s.node k
  match d.st with
  | .free => .error .empty
  | .orphaned => .error .orphaned
  | .valid =>
    if !s.admits d.type d.policy parentNeed ∨ (polUseExp d.policy ≠ 0 ∧ 2 ^ polUseExp d.policy ≤ d.uses) then .error .policy
    else .ok (.node k, d.depth + 1)

/-- A slot's key as a parent: the node it materialises, or the key itself where it is not derived. -/
def State.parentSlot (s : State) (n : Nat) : Except KeyFail (Parent × Nat) :=
  match s.useKey n parentNeed with
  | .error e => .error e
  | .ok b => match b.node with
    | some k => s.parentNode k
    | none => .ok (.slot n b.gen, 1)

/-- The VALID node of a parent, label and policy word. -/
def State.findNode (s : State) (p : Parent) (label : Bytes) (policy : Word) : Option Nat :=
  (s.nodes.find? fun x => x.2.st = .valid && x.2.parent = p && x.2.label = label && x.2.policy = policy).map (·.1)

/-- Define a node, or use the one that matches. Answers the node; `none` where it would be the 1025th. -/
def defineNode (p : Parent) (depth : Nat) (label : Bytes) (policy : Word) (tenant : BitVec 3) : M (Option Nat) := do
  let s ← getS
  match s.findNode p label policy with
  | some k => return some k
  | none => match (List.range 1024).find? fun k => (s.node k).st = .free with
    | none => return none
    | some k =>
      setNode k { st := .valid, parent := p, label := label, policy := policy, depth := depth, tenant := tenant }
      return some k

/-- A parent's key has its uses used up (R431). -/
def State.parentSpent (s : State) (p : Parent) : Bool := match p with
  | .root => false
  | .node k => decide (polUseExp (s.node k).policy ≠ 0 ∧ 2 ^ polUseExp (s.node k).policy ≤ (s.node k).uses)
  | .slot n g => (s.slot n).active.any fun b => b.gen = g && s.usedUp b

/-- Count one use of a parent (R431). -/
def countParent (p : Parent) : M Unit := do
  let s ← getS
  match p with
  | .root => pure ()
  | .node k => prim (.node k { s.node k with uses := (s.node k).uses + 1 })
  | .slot n _ => countUse n

/-! ### Materialisation (R424, R434, R463) -/

/-- A load of the tenant into the slot is stopped by the tenant's SLOTS quota (R172, R463). -/
def State.slotsQuota (s : State) (n tenant quota : Nat) : Bool :=
  ((s.slot n).st = .empty || (s.slot n).tenant.toNat ≠ tenant) && decide (quota ≤ s.slotUse tenant)

/-- SLOTS quota of a tenant in force. -/
def State.slotsQuotaOf (s : State) (t : Nat) : Nat := min 512 (s.fld (R.QUEUE_TNT_QUOTA_B.SLOTS t))

/-- The key of a node, whose chain the key core derives. -/
def State.derive (s : State) (k : Nat) : Except KeyFail Bytes :=
  if s.parentSpent (s.node k).parent then .error .policy else s.nodeKey chainFuel k

end Sys2Proof.Machine
end

