-- ==== Sys2Proof/Machine/Rng.lean ====
section
/-! DEFINITION. The entropy source and the buffer of seeds (R484 to R492), and what ends the requests that cannot be served
(R499, R502). -/
namespace Sys2Proof.Machine
open Sys2Proof

/-- RNG_STAT.SRC. -/
def srcOff : Nat := 0
def srcStartup : Nat := 1
def srcRun : Nat := 2
def srcRestart : Nat := 3
def srcFaulted : Nat := 4
def srcTest : Nat := 5

/-- The test pattern replaces the raw samples (R502). -/
def State.testActive (s : State) : Bool := s.fld R.RNG_TEST_CTL.TEST_ACTIVE = 1

/-- A KEY or PR request waits for a seed. -/
def State.keyWaits (s : State) : Bool := s.rng.seeds.isEmpty && s.rng.reqs.any fun r => r.cls ≠ .ordinary

/-- Keep the RNG page's copies of the source's state. -/
def rngRefresh : M Unit := do
  let s ← getS
  wr R.RNG_STAT.INSTANTIATED (b2n s.rng.drbg.isSome)
  wr R.RNG_STAT.SEEDS s.rng.seeds.length
  wr R.RNG_STAT.FIFO s.rng.fifo.length
  wr R.RNG_STAT.VALID (b2n !s.rng.fifo.isEmpty)
  wr R.RNG_STAT.KEY_WAIT (b2n s.keyWaits)
  setCond E.RNG.DATA_VALID (!s.rng.fifo.isEmpty)

/-- Fill the data FIFO while the page is ACTIVE (R501). -/
def fifoRefill : M Unit := do
  let s ← getS
  let n := s.rng.fifo.length
  if s.active 0x3A ∧ n < 16 ∧ !(s.rng.reqs.any fun r => r.user = .fifo) ∧ !s.srcFault ∧ s.domainOn 15 then
    askRandom .ordinary .fifo (4 * (16 - n))

/-- The requests that a lasting fault ends, and the KEY and PR requests that test mode ends, release no byte (R499, R502).
The units that a nonce, an epoch, a loop seed, a mask or the FIFO is drawn for go on waiting. -/
def endRequest (r : RandReq) : M Unit := do
  let g := (← getS).rng
  match r.user with
  | .entry e | .blind e =>
    prim (.rng { g with reqs := g.reqs.filter (· ≠ r) })
    endEntry e 0x0052 true
  | .rootGen =>
    prim (.rng { g with reqs := g.reqs.filter (· ≠ r) })
    cmdStop U.keys rcState
  | .attestKey | .attestCounter | .attestSign | .attestBlind => pkeStop
  | .chronSign | .chronBlind =>
    prim (.rng { g with reqs := g.reqs.filter (· ≠ r) })
    cmdStop U.chron rcState
  | _ => pure ()

/-- The source starts, from step 1 or step 4 of R491: nothing of the state before it is left. -/
def sourceStart : M Unit := do
  let s ← getS
  let test := s.fld R.RNG_TEST_CTL.TEST_EN = 1 && s.fld R.KEYS_LC.STATE = 0
  prim (.rng { s.rng with r := 0, last := false, run := 0, seeds := [], drbg := none })
  wr R.RNG_STAT.SRC srcStartup
  wr R.RNG_TEST_CTL.TEST_ACTIVE (b2n test)
  wr R.RNG_RESEED.INTERVAL 1
  wr R.RNG_RESEED.COUNT 0
  wr R.RNG_STAT.BLOCKED 0
  setCond E.RNG.BLOCKED false
  if test then forM s.rng.reqs fun r => if r.cls ≠ .ordinary then endRequest r else pure ()
  rngRefresh

/-- The start-up sequence runs again from step 4 (R502), unless the source is off or in FAULT. -/
def sourceAgain : M Unit := do
  let s ← getS
  let c := s.fld R.RNG_STAT.SRC
  if c ≠ srcOff ∧ c ≠ srcFaulted then sourceStart

/-- The fault is lasting (R490). -/
def sourceFault : M Unit := do
  let s ← getS
  prim (.rng { s.rng with r := 0, seeds := [], drbg := none, fifo := [] })
  wr R.RNG_STAT.SRC srcFaulted
  setCond E.RNG.SRC_FAULT true .immediate
  unitAlarm 0x3A 2
  let st := s.pageState 0x3A
  if st = pgActive ∨ st = pgDraining then pageToFault 0x3A
  forM s.rng.reqs endRequest
  rngRefresh

/-- A health failure of a continuous test: 1 repetition count, 2 adaptive proportion (R489, R490). -/
def healthFail (test : Nat) : M Unit := do
  let s ← getS
  prim (.rng { s.rng with r := 0, last := false, run := 0, seeds := [] })
  wr R.RNG_STAT.SRC srcRestart
  wr R.RNG_HEALTH.LAST_TEST test
  bump R.RNG_HEALTH.FAILURES
  let (_, lasting) ← countGust 0x3A (s.fld R.RNG_CFG.GUST_LIMIT) (s.fld R.RNG_CFG.GUST_WIN_MS)
  rngRefresh
  if lasting then sourceFault
  else
    raise E.RNG.GUST
    unitAlarm 0x3A 1

/-- The known-answer test of the DRBG core fails (R489, R490). -/
def katFail : M Unit := do
  wr R.RNG_HEALTH.LAST_TEST 3
  bump R.RNG_HEALTH.FAILURES
  sourceFault

/-- The source powers up (R491). -/
def sourcePowerUp (katOk : Bool) : M Unit := do
  setDomain 15 true
  raiseClk .smp
  setCond E.RNG.SRC_FAULT false
  sourceStart
  if !katOk then katFail

/-! ### The continuous tests (R488) -/

/-- The tests over samples: the run so far, the window's first sample, its count and its place. -/
structure HealthState where
  last : Bool
  run : Nat
  first : Bool
  count : Nat
  place : Nat

/-- One sample; `some` names the test that fails. -/
def healthStep (rct apt : Nat) (h : HealthState) (b : Bool) : Except Nat HealthState :=
  let run := if h.run ≠ 0 ∧ b = h.last then h.run + 1 else 1
  let first := if h.place = 0 then b else h.first
  let count := if h.place = 0 then 1 else if b = first then h.count + 1 else h.count
  if rct ≤ run then .error 1
  else if apt ≤ count then .error 2
  else .ok ⟨b, run, first, count, (h.place + 1) % 1024⟩

/-- Samples through both tests. -/
def healthRun (rct apt : Nat) : HealthState → List Bool → Except Nat HealthState
  | h, [] => .ok h
  | h, b :: bs => match healthStep rct apt h b with
    | .error e => .error e
    | .ok h1 => healthRun rct apt h1 bs

/-- RCT_C and APT_C as taken. -/
def State.rctC (s : State) : Nat := max 16 (min 41 (s.fld R.RNG_CUTOFF.RCT_C))
def State.aptC (s : State) : Nat := max 640 (min 795 (s.fld R.RNG_CUTOFF.APT_C))

/-- The raw samples of a seed: those of the oscillators, or the test pattern. -/
def State.samples (s : State) (raw : BitVec 6144) : List Bool :=
  if s.testActive then
    let p := s.fld R.RNG_TEST_PAT.PATTERN
    (List.range 6144).map fun i => p.testBit (i % 32)
  else (List.range 6144).map fun i => raw.getLsbD i

/-- Gather a seed from 6,144 raw samples (R485 to R488). -/
def seedReady (raw : BitVec 6144) : M Unit := do
  let s ← getS
  let c := s.fld R.RNG_STAT.SRC
  if s.clkRuns .smp ∧ (c = srcStartup ∨ c = srcRun ∨ c = srcTest) ∧ s.rng.seeds.length < 2 then
    let bs := s.samples raw
    match healthRun s.rctC s.aptC ⟨s.rng.last, s.rng.run, false, 0, 0⟩ bs with
    | .error t => healthFail t
    | .ok h =>
      let (ws, r) := compress 24 s.rng.r bs
      prim (.rng { s.rng with r := r, last := h.last, run := h.run, seeds := s.rng.seeds ++ [seedOf ws] })
      wr R.RNG_STAT.BLOCKED 0
      setCond E.RNG.BLOCKED false
      rngRefresh

end Sys2Proof.Machine
end

