-- ==== Sys2Proof/Machine/KeyCmds.lean ====
section
/-! DEFINITION. The commands of the key core (R415 to R465, R621): KEYS, DERIVE, SLOTS and PKE pages, and what the key core
does by itself. -/
namespace Sys2Proof.Machine
open Sys2Proof

/-- A command while key services are refused (R621), and otherwise its body. -/
def keyService (u : CmdUnit) (body : M Unit) : M Unit := do
  if (← getS).servicesRefused then cmdEnd u rcState else body

/-! ### The root (R416 to R418) -/

/-- ROOT_GEN draws its share (R418). -/
def rootGen : M Unit := do
  let s ← getS
  if s.servicesRefused ∨ 2 ≤ s.fld R.KEYS_LC.STATE ∨ s.vbatPresent ∨ s.noKeyBits then cmdEnd U.keys rcState
  else askRandom .key .rootGen 32

/-- The share of ROOT_GEN has been drawn: it is written with the marker. -/
def rootGenDone (b : Bytes) : M Unit := do
  let k := (← getS).keys
  prim (.keys { k with vbatA := BitVec.ofNat 256 (beNat b), vbatB := 0, markA := true, markB := false })
  rootCond
  cmdEnd U.keys rcOk

/-- Mask a pair of words: their XOR stays. -/
def remaskWords (k : KeyState) (v f : BitVec 256) (marker : Bool) (lfsr : BitVec 64) : KeyState :=
  { k with
    vbatA := k.vbatA ^^^ v, vbatB := k.vbatB ^^^ v, fuseA := k.fuseA ^^^ f, fuseB := k.fuseB ^^^ f,
    markA := k.markA != marker, markB := k.markB != marker, lfsr := lfsr }

/-- The masks of one second have been drawn: VBAT share, fuse share and the LFSR's new seed (R416, R417). -/
def masksDone (b : Bytes) : M Unit := do
  let k := (← getS).keys
  let v := BitVec.ofNat 256 (beAt b 0 32)
  prim (.keys (remaskWords k v (BitVec.ofNat 256 (beAt b 32 32)) (v.getLsbD 0) (BitVec.ofNat 64 (beAt b 64 8))))

/-- The mask of one second from the VBAT LFSR: four of its states. -/
def lfsrMask : M Unit := do
  let s ← getS
  let a := Config.maskNext s.keys.lfsr
  let b := Config.maskNext a
  let c := Config.maskNext b
  let d := Config.maskNext c
  let v := a ++ b ++ c ++ d
  let k := remaskWords s.keys (v.setWidth 256) (v.setWidth 256) (v.getLsbD 0) d
  prim (.keys (if s.bnd.mainOff then { k with fuseA := s.keys.fuseA, fuseB := s.keys.fuseB } else k))

/-- RNG_STAT.SRC is RUNNING. -/
def State.srcRunning (s : State) : Bool := s.fld R.RNG_STAT.SRC = 2

/-- One second of the time base (R416, R497). -/
def rootRemask : M Unit := do
  let s ← getS
  if s.bnd.mainOff then lfsrMask
  else if !s.srcRunning || s.rng.reqs.any (fun r => r.user = .mask) then
    bump R.RNG_FALLBACK.COUNT
    lfsrMask
  else askRandom .ordinary .mask 72

def execRootRemask (s : State) : Host.Outcome State Fault Refusal := exec1 rootRemask s

/-! ### Life cycle (R449 to R452) -/

/-- The state of a life-cycle code; `none` for a code of no state. -/
def lcState (code : Nat) : Option Nat :=
  if code = 0x00 then some 0
  else if code = 0x01 then some 1
  else if code = 0x03 then some 2
  else if code = 0x07 then some 3
  else if code = 0x0B then some 4
  else none

/-- A transition that R450 lists, by state and target code. -/
def lcListed (st code : Nat) : Bool :=
  (st = 0 && code = 0x01) || (st = 1 && code = 0x03) || (st = 2 && code = 0x07) || (st = 2 && code = 0x0B)

/-- A region other than CLEAR is not OFF, or a partition is not UNMOUNTED (R450). -/
def State.anyLiveUser (s : State) : Bool :=
  ((List.range 16).any fun r => s.fld (R.MEMRGN_CTL.STATE r) ≠ 0 && s.fld (R.MEMRGN_CFG.MODE r) ≠ 0)
    || (List.range 8).any fun p => s.fld (R.STOR_PART_CTL.STATE p) ≠ 0

/-- Step 1 of R451, and the request to the fuse controller. -/
def lcStart (code : Nat) : M Unit := do
  forM (List.range 512) fun n => do
    if ((← getS).slot n).st ≠ .empty then abortHolders n 0x0023 true
  eraseAll
  advanceEpoch
  if code = 0x0B then
    wipeVbat
    rootCond
  prim (.keys { (← getS).keys with lc := .burning false })
  wr R.KEYS_LC.TARGET code
  emit (.lcProg code)

/-- LC_TRANSITION (R450, R621). -/
def lcTransition (code : Nat) : M Unit := do
  let s ← getS
  let st := s.fld R.KEYS_LC.STATE
  if !lcListed st code then cmdEnd U.keys rcBadEntry
  else if s.keys.lc ≠ .none ∨ (s.grounded ∧ code ≠ 0x0B) ∨ (st = 1 ∧ !s.vbatPresent) ∨ (code = 0x0B ∧ !s.bnd.dbgAuth) then
    cmdEnd U.keys rcState
  else if s.anyLiveUser then cmdEnd U.keys rcLiveUser
  else lcStart code

/-- KEYS_CMD. -/
def fxKeysCmd (op target : Nat) : M Unit :=
  cmdActive U.keys do
    if op = 1 then rootGen
    else if op = 2 then lcTransition target
    else cmdEnd U.keys rcBadCmd

def keysCmdWrite (rid : BitVec 12) (op target : Nat) : M Unit :=
  hostWrite (fullWrite rid R.KEYS_CMD.OP.addr (BitVec.ofNat 32 (op * 2 ^ 28 + target))) (fxKeysCmd op target)

def execRootGen (rid : BitVec 12) (s : State) : Host.Outcome State Fault Refusal :=
  exec1 (keysCmdWrite rid 1 0) s

def execLcTransition (rid : BitVec 12) (target : BitVec 8) (s : State) : Host.Outcome State Fault Refusal :=
  exec1 (keysCmdWrite rid 2 target.toNat) s

/-- A transition in progress fails or is abandoned (R452). -/
def lcFailed : M Unit := do
  prim (.keys { (← getS).keys with lc := .failed })
  wr R.KEYS_LC.TARGET 0
  wr R.KEYS_LC.LC_FAIL 1
  setCond E.KEYS.LC_FAIL true .immediate
  cmdEnd U.keys rcState
  unitAlarm 0x34 2

/-- A BALLAST record of R451 step 3, with LOST clear; leases that are requested carry LOST clear too. DESIGN CHOICE (log entry 132): on
the way to RETURN no root is left to write one. -/
def lcBallast : M Unit := do
  let s ← getS
  let clr : AnchorUse → AnchorUse
    | .ballast c r _ => .ballast c r false
    | u => u
  let top := (s.anchor.reqs.map (·.1) ++ (s.anchor.writing.map (·.use)).toList).foldl
    (fun a u => match u with | .ballast c _ _ => max a c.toNat | _ => a) s.ceiling
  prim (.anchor { s.anchor with reqs := s.anchor.reqs.map fun p => (clr p.1, p.2) })
  if s.anchor.scanned ∧ s.anchorKey.isSome then askAnchor (.ballast (BitVec.ofNat 64 top) (BitVec.ofNat 32 s.resetCount) false)
  wr R.FRESH_STAT.LOST 0
  setCond E.FRESH.LOST_MODE false

/-- OT_LC_PROG_ACK, with OT_LC_PROG_OK (R451 step 3, R452). -/
def lcAck (ok : Bool) : M Unit := do
  let s ← getS
  match s.keys.lc with
  | .burning _ =>
    if ok then
      wr R.KEYS_LC.STATE ((lcState (s.fld R.KEYS_LC.TARGET)).getD 0)
      wr R.KEYS_LC.TARGET 0
      prim (.keys { s.keys with lc := .none })
      lcBallast
      sourceAgain
      raise E.KEYS.LC_DONE
      debugInField
      cmdEnd U.keys rcOk
    else lcFailed
  | _ => pure ()

def execLcProgAck (ok : Bool) (s : State) : Host.Outcome State Fault Refusal :=
  exec1 (waitable (.lcProgAck ok) 0x34 (lcAck ok)) s

/-- 100 ms without OT_LC_PROG_ACK: a grade 1 alarm, once (R56). -/
def execLcProgTimeout (s : State) : Host.Outcome State Fault Refusal :=
  exec1 (do
    let k := (← getS).keys
    match k.lc with
    | .burning false =>
      prim (.keys { k with lc := .burning true })
      unitAlarm 0x34 1
    | _ => pure ()) s

/-! ### DERIVE (R423, R441, R463) -/

/-- The parent in DERIVE_PARENT, with the depth of its children. -/
def State.cmdParent (s : State) : Except Nat (Parent × Nat) :=
  let i := s.fld R.DERIVE_PARENT.INDEX
  let k := s.fld R.DERIVE_PARENT.KIND
  let low (r : Except KeyFail (Parent × Nat)) : Except Nat (Parent × Nat) := r.mapError KeyFail.result
  if k = 0 then .ok (.root, 1)
  else if k = 1 then low (s.parentNode i)
  else if k = 2 then match low (s.parentSlot (i % 512)) with
    | .ok (.node _, _) => .error rcBadEntry
    | r => r
  else .error rcBadEntry

/-- DEFINE. -/
def derDefine (tenant : Nat) : M Unit := do
  let s ← getS
  let label := ((List.range 8).map fun w => beBytes 4 (s.fld (R.DERIVE_LABEL.WORD w))).flatten
  let p := BitVec.ofNat 32 (s.fld R.DERIVE_POLICY.POLICY)
  if !policyValid p ∨ derivedBits (label.getD 0 0).toNat = 0 then cmdEnd U.derive rcBadEntry
  else match s.cmdParent with
    | .error e => cmdEnd U.derive e
    | .ok (par, depth) =>
      if 8 < depth then cmdEnd U.derive rcBadEntry
      else match ← defineNode par depth label p (BitVec.ofNat 3 tenant) with
        | none => cmdEnd U.derive rcFull
        | some k =>
          wr R.DERIVE_CMD_STAT.NODE k
          cmdEnd U.derive rcOk

/-- MATERIALISE; while its load waits for a retiring bank, BUSY stays set. -/
def derMaterialise (k n tenant : Nat) : M Unit := do
  let s ← getS
  let d := s.node k
  match d.st with
  | .free => cmdEnd U.derive rcNotFound
  | .orphaned => cmdEnd U.derive rcState
  | .valid => match s.loadRefused n d.type with
    | some f => cmdEnd U.derive f.result
    | none =>
      if s.wideBad n d.type then cmdEnd U.derive rcBadEntry
      else if s.slotsQuota n tenant (s.slotsQuotaOf tenant) then cmdEnd U.derive rcQuota
      else match s.derive k with
        | .error f => cmdEnd U.derive f.result
        | .ok m =>
          countParent d.parent
          let r ← loadSlot n d.type (BitVec.ofNat 3 tenant) m d.policy .derived (some k) none
          tenantsRefresh
          match r with
          | .loaded _ =>
            slotFilled n
            cmdEnd U.derive rcOk
          | .waits => pure ()

/-- Nodes that an invalidation reaches: a node or a slot's children, and their descendants. -/
def State.reached (s : State) (ks : List Nat) : List Nat := ks ++ s.descend chainFuel ks

/-- The slots that materialise a set of nodes. -/
def State.slotsOfAll (s : State) (ks : List Nat) : List Nat := (ks.map s.slotsOf).flatten

/-- LIVE_USER, or with FORCE the live users lose their keys (R438): answers whether the command goes on. -/
def liveCheck (ns : List Nat) (force : Bool) (e : PageEvent) : M Bool := do
  let s ← getS
  if !(ns.any s.liveUser) then return true
  else if !force then return false
  else
    forM ns forceUsers
    raise e
    return true

/-- INVALIDATE. -/
def derInvalidate (k : Nat) (force : Bool) : M Unit := do
  let s ← getS
  match (s.node k).st with
  | .free => cmdEnd U.derive rcNotFound
  | .orphaned => cmdEnd U.derive rcState
  | .valid =>
    let ks := s.reached [k]
    if ← liveCheck (s.slotsOfAll ks) force E.DERIVE.FORCED then
      orphanNodes ks
      cmdEnd U.derive rcOk
    else cmdEnd U.derive rcLiveUser

/-- READ. -/
def derRead (k : Nat) : M Unit := do
  let s ← getS
  let d := s.node k
  let (kind, idx) := match d.parent with
    | .root => (0, 0)
    | .node j => (1, j)
    | .slot n _ => (2, n)
  wr R.DERIVE_PARENT.KIND kind
  wr R.DERIVE_PARENT.INDEX idx
  wr R.DERIVE_POLICY.POLICY d.policy.toNat
  forM (List.range 8) fun w => wr (R.DERIVE_LABEL.WORD w) (beAt d.label (4 * w) 4)
  wr R.DERIVE_NODE_INFO.STATE (match d.st with | .free => 0 | .valid => 1 | .orphaned => 2)
  wr R.DERIVE_NODE_INFO.DEPTH d.depth
  wr R.DERIVE_NODE_INFO.SLOT ((d.slot.filter fun n => (s.slotsOf k).contains n).getD ((s.slotsOf k).head?.getD 0x1FF))
  wr R.DERIVE_NODE_INFO.CHILDREN (s.childrenOf [k]).length
  wr R.DERIVE_NODE_USES.COUNT (min d.uses (2 ^ 32 - 1))
  cmdEnd U.derive rcOk

/-- DERIVE_CMD. -/
def fxDeriveCmd (op : Nat) (force : Bool) (tenant slot node : Nat) : M Unit :=
  cmdActive U.derive do
    if op = 1 then keyService U.derive (derDefine tenant)
    else if op = 2 then keyService U.derive (derMaterialise node slot tenant)
    else if op = 3 then keyService U.derive (derInvalidate node force)
    else if op = 4 then derRead node
    else cmdEnd U.derive rcBadCmd

/-- A write of DERIVE_CMD. -/
def deriveCmdWrite (rid : BitVec 12) (op : Nat) (force : Bool) (tenant slot node : Nat) : M Unit :=
  hostWrite (fullWrite rid R.DERIVE_CMD.OP.addr
    (BitVec.ofNat 32 (op * 2 ^ 28 + bitAt force 27 + tenant * 2 ^ 24 + slot * 2 ^ 12 + node)))
    (fxDeriveCmd op force tenant slot node)

def execDefine (rid : BitVec 12) (tenant : BitVec 3) (s : State) : Host.Outcome State Fault Refusal :=
  exec1 (deriveCmdWrite rid 1 false tenant.toNat 0 0) s

def execMaterialise (rid : BitVec 12) (tenant : BitVec 3) (slot : BitVec 9) (node : BitVec 10) (s : State) :
    Host.Outcome State Fault Refusal :=
  exec1 (deriveCmdWrite rid 2 false tenant.toNat slot.toNat node.toNat) s

def execInvalidate (rid : BitVec 12) (force : Bool) (node : BitVec 10) (s : State) : Host.Outcome State Fault Refusal :=
  exec1 (deriveCmdWrite rid 3 force 0 0 node.toNat) s

def execDeriveRead (rid : BitVec 12) (node : BitVec 10) (s : State) : Host.Outcome State Fault Refusal :=
  exec1 (deriveCmdWrite rid 4 false 0 0 node.toNat) s

/-! ### SLOTS (R433 to R442, R464) -/

/-- STATE of SLOTS_INFO. -/
def SlotState.code : SlotState → Nat
  | .empty => 0
  | .live => 1
  | .orphaned => 2
  | .suspended => 3
  | .clearing => 4
  | .wideTail => 5

/-- OTHER of SLOTS_INFO. -/
def OtherBank.code : OtherBank → Nat
  | .free => 0
  | .loaded => 1
  | .retiring => 2

/-- READ. -/
def slotRead (n : Nat) : M Unit := do
  let s ← getS
  let l := s.slot n
  let node := l.active.bind (·.node)
  wr R.SLOTS_INFO.STATE l.st.code
  wr R.SLOTS_INFO.ACTIVE_BANK (b2n l.bank1)
  wr R.SLOTS_INFO.OTHER l.otherSt.code
  wr R.SLOTS_INFO.PROV (match l.active with | some b => b.prov.code | none => 0)
  wr R.SLOTS_INFO.TENANT l.tenant.toNat
  wr R.SLOTS_INFO.TYPE l.type.toNat
  wr R.SLOTS_INFO.INFLIGHT (min 255 (s.inflight n + (l.banks.filter fun b => s.looseHolds n (gen16 b)).length))
  wr R.SLOTS_INFO_POLICY.POLICY (match l.active with | some b => b.policy.toNat | none => 0)
  wr R.SLOTS_INFO_KCV.KCV (match l.active with | some b => b.kcv.toNat | none => 0)
  wr R.SLOTS_INFO_PKCV.KCV (match l.other with | some b => b.kcv.toNat | none => 0)
  wr R.SLOTS_INFO_GEN.GEN (match l.active with | some b => b.gen.toNat | none => 0)
  wr R.SLOTS_INFO_PGEN.GEN (match l.other with | some b => b.gen.toNat | none => 0)
  wr R.SLOTS_INFO_NODE.DERIVED (b2n node.isSome)
  wr R.SLOTS_INFO_NODE.NODE (node.getD 0)
  wr R.SLOTS_INFO_USES.COUNT (match l.active with | some b => min (s.usesOf b) (2 ^ 32 - 1) | none => 0)
  cmdEnd U.slots rcOk

/-- Why a slot that a command names cannot serve it (R621); 0 where it can. -/
def State.slotRefused (s : State) (n : Nat) : Nat :=
  if n = attestSlot then rcBadEntry
  else match (s.slot n).st with
    | .empty | .wideTail => rcNotFound
    | .orphaned | .clearing => rcState
    | .suspended => rcBadEntry
    | .live => 0

/-- A node lets go of a slot's bank. -/
def detachBank (n : Nat) (b : Bank) : M Unit := do
  match b.node with
  | some k =>
    let s ← getS
    if !(s.slotsOf k).contains n then
      if (s.node k).st = .orphaned ∧ (s.slotsOf k).isEmpty then setNode k {}
      else setNode k { s.node k with slot := (s.slotsOf k).head? }
  | none => pure ()

/-- The loaded bank becomes active (R435): its former active bank retires, its counter binding is released and the
children of a key that is not derived are invalidated. -/
def swapNow (n : Nat) : M Unit := do
  releaseSlot n
  let s ← getS
  let l := s.slot n
  setSlot n { l with bank1 := !l.bank1, active := l.other, other := l.active, otherSt := .retiring, high := 0 }
  raise E.SLOTS.SWAPPED
  match l.active with
  | some b =>
    if b.node.isNone then
      let ks := s.reached (s.fromSlot n b.gen)
      if !ks.isEmpty then orphanNodes ks
  | none => pure ()

/-- Compare and swap. -/
def swapCompare (n : Nat) (force : Bool) : M Unit := do
  let s ← getS
  let l := s.slot n
  match l.otherSt, l.other with
  | .loaded, some b =>
    if b.kcv.toNat ≠ s.fld R.SLOTS_EXPECT.KCV then cmdEnd U.slots rcBadEntry
    else
      let kids := match l.active with
        | some a => if a.node.isNone then s.slotsOfAll (s.reached (s.fromSlot n a.gen)) else []
        | none => []
      if ← liveCheck (n :: kids) force E.SLOTS.FORCED then
        swapNow n
        cmdEnd U.slots rcOk
      else cmdEnd U.slots rcLiveUser
  | _, _ => cmdEnd U.slots rcState

/-- SWAP: it waits for a load that is queued behind a retiring bank (R435). -/
def slotSwap (n : Nat) (force : Bool) : M Unit := do
  let s ← getS
  let r := s.slotRefused n
  if r ≠ 0 then cmdEnd U.slots r
  else if (s.slot n).otherSt ≠ .loaded ∧ !(s.slot n).queued.isEmpty then
    prim (.keys { s.keys with swapWait := some n, swapForce := force })
    setCond E.SLOTS.SWAP_WAIT true
  else swapCompare n force

/-- ERASE (R440). DESIGN CHOICE (log entry 132): of an ORPHANED or CLEARING slot it ends with STATE (R621), of a SUSPENDED one it is
carried out. -/
def slotErase (n : Nat) (force : Bool) : M Unit := do
  let s ← getS
  if n = attestSlot then cmdEnd U.slots rcBadEntry
  else match (s.slot n).st with
    | .empty => cmdEnd U.slots rcOk
    | .wideTail | .orphaned | .clearing => cmdEnd U.slots rcState
    | .live | .suspended =>
      let kids := ((s.slot n).banks.map fun b => s.fromSlot n b.gen).flatten
      if ← liveCheck (n :: s.slotsOfAll (s.reached kids)) force E.SLOTS.FORCED then
        eraseSlot n
        cmdEnd U.slots rcOk
      else cmdEnd U.slots rcLiveUser

/-- DROP_PENDING (R435). -/
def slotDrop (n : Nat) : M Unit := do
  let s ← getS
  let r := s.slotRefused n
  let l := s.slot n
  if r ≠ 0 then cmdEnd U.slots r
  else match l.otherSt, l.other with
    | .loaded, some b =>
      setSlot n { l with otherSt := .free, other := none }
      detachBank n b
      cmdEnd U.slots rcOk
    | _, _ => cmdEnd U.slots rcState

/-- SLOTS_CMD. -/
def fxSlotsCmd (op : Nat) (force : Bool) (slot : Nat) : M Unit :=
  cmdActive U.slots do
    if op = 1 then slotRead slot
    else if op = 2 then keyService U.slots (slotSwap slot force)
    else if op = 3 then keyService U.slots (slotErase slot force)
    else if op = 4 then keyService U.slots (slotDrop slot)
    else cmdEnd U.slots rcBadCmd

/-- A write of SLOTS_CMD. -/
def slotsCmdWrite (rid : BitVec 12) (op : Nat) (force : Bool) (slot : BitVec 9) : M Unit :=
  hostWrite (fullWrite rid R.SLOTS_CMD.OP.addr (BitVec.ofNat 32 (op * 2 ^ 28 + bitAt force 27 + slot.toNat)))
    (fxSlotsCmd op force slot.toNat)

def execSlotsRead (rid : BitVec 12) (slot : BitVec 9) (s : State) : Host.Outcome State Fault Refusal :=
  exec1 (slotsCmdWrite rid 1 false slot) s

def execSlotSwap (rid : BitVec 12) (force : Bool) (slot : BitVec 9) (s : State) : Host.Outcome State Fault Refusal :=
  exec1 (slotsCmdWrite rid 2 force slot) s

def execErase (rid : BitVec 12) (force : Bool) (slot : BitVec 9) (s : State) : Host.Outcome State Fault Refusal :=
  exec1 (slotsCmdWrite rid 3 force slot) s

def execDropPending (rid : BitVec 12) (slot : BitVec 9) (s : State) : Host.Outcome State Fault Refusal :=
  exec1 (slotsCmdWrite rid 4 false slot) s

/-- A retiring bank that nothing holds is zeroed and free; a load that waited for it, and then a SWAP that waited for
that load, go on (R434 to R436). -/
def bankRetire (n : Nat) : M Unit := do
  let s ← getS
  let l := s.slot n
  match l.otherSt, l.other with
  | .retiring, some b =>
    if !s.held n b then
      setSlot n { l with otherSt := .free, other := none }
      detachBank n b
      let k := (← getS).keys
      if !l.queued.isEmpty then
        loadQueued n
        if k.swapWait = some n then
          prim (.keys { (← getS).keys with swapWait := none })
          setCond E.SLOTS.SWAP_WAIT false
          swapCompare n k.swapForce
        loadAllQueued n
  | _, _ => pure ()

def execBankRetire (n : BitVec 9) (s : State) : Host.Outcome State Fault Refusal :=
  exec1 (waitable (.bankRetire n) 0x36 (bankRetire n.toNat)) s

/-- An orphaned slot that no item holds is CLEARING, and within 1 µs EMPTY (R442): the first occurrence of the command
takes it to CLEARING, the next to EMPTY. -/
def slotClearing (n : Nat) : M Unit := do
  let s ← getS
  let l := s.slot n
  if l.st = .orphaned then
    if !(l.banks.any fun b => s.held n b) then setSlot n { l with st := .clearing }
  else if l.st = .clearing then
    emptySlot n
    tenantsRefresh

def execSlotClearing (n : BitVec 9) (s : State) : Host.Outcome State Fault Refusal :=
  exec1 (waitable (.slotClearing n) 0x36 (slotClearing n.toNat)) s

/-! ### Attestation (R460, R461, R465) -/

/-- The policy of the attestation key. -/
def attestPolicy : Word := 0x02100700

/-- The use of slot 511 as the attestation key. -/
def attestNeed : KeyNeed := { types := [0x10], engine := some .pke, use := some useAttest, enc := some true }

/-- PKE_BUF. -/
def State.pkeBuf (s : State) : Nat := s.fld R.PKE_BUF.ADDR * 64

/-- Initiator traffic or ATTEST_LOAD failed (R465). -/
def pkeFail (code : Nat) : M Unit := do
  raise E.PKE.LOAD_FAIL
  cmdEnd U.pke code

/-- The attestation key takes slot 511. -/
def loadAttest (m : Bytes) : M Unit := do
  let l := (← getS).slot attestSlot
  setSlot attestSlot { l with
    st := .live, type := 0x10, tenant := 0, otherSt := .free, other := none, nextGen := l.nextGen + 1,
    active := some ⟨m, kcvOf 0x10 m, l.nextGen, attestPolicy, .attest, [], none, 0⟩ }

/-- ATTEST_GEN draws the candidate of its key. -/
def attestGen : M Unit := do
  let s ← getS
  if s.fld R.KEYS_LC.STATE ≠ 1 ∨ s.noKeyBits ∨ s.attestWrapKey.isNone then cmdEnd U.pke rcState
  else askRandom .key .attestKey 40

/-- The candidate has been drawn; the scalar operation draws its blinding. -/
def attestKeyDrawn (b : Bytes) : M Unit := do
  prim (.keys { (← getS).keys with attest := derivedMaterial 0x10 b })
  askRandom .ordinary .attestBlind 40

/-- The blinding has been drawn: ATTEST_GEN draws the counter field of its blob, ATTEST its per-signature secret. -/
def attestBlindDrawn : M Unit := do
  let s ← getS
  if s.keys.attest.isEmpty then askRandom .key .attestSign 40
  else askRandom .ordinary .attestCounter 8

/-- ATTEST_GEN writes the blob and the public point (R460). -/
def attestGenDone (ctr : Bytes) (d : Dram) : M Unit := do
  let s ← getS
  let m := s.keys.attest
  prim (.keys { s.keys with attest := [] })
  match s.attestWrapKey with
  | none => cmdEnd U.pke rcState
  | some w =>
    if ← dramWrite2 d s.pkeBuf (keyBlob w 0x10 attestPolicy .attest m ctr) (s.pkeBuf + 128) (publicPoint 0x10 m) then
      bumpMod R.PKE_OPS.COUNT
      loadAttest m
      cmdEnd U.pke rcOk
    else pkeFail rcState

/-- ATTEST_LOAD. -/
def attestLoad (d : Dram) : M Unit := do
  let s ← getS
  let st := s.fld R.KEYS_LC.STATE
  match s.attestWrapKey with
  | none => cmdEnd U.pke rcState
  | some w =>
    if st = 0 ∨ st = 4 then cmdEnd U.pke rcState
    else match ← readDram d s.pkeBuf 80 with
      | none => pkeFail rcState
      | some b => match s.openBlob w b with
        | .error _ => pkeFail rcBadEntry
        | .ok (t, p, m) =>
          if t ≠ 0x10 ∨ p ≠ attestPolicy then pkeFail rcBadEntry
          else
            loadAttest m
            cmdEnd U.pke rcOk

/-- Whether ATTEST may sign about a slot: 0, or its RESULT. -/
def State.attestRefused (s : State) (n : Nat) : Nat :=
  let r := s.slotRefused n
  if r ≠ 0 then r
  else match (s.slot n).active with
    | none => rcNotFound
    | some b =>
      if (b.prov = .generated ∨ b.prov = .sole) ∧ !polExport b.policy then
        match s.useKey attestSlot attestNeed with
        | .ok _ => if s.noKeyBits then rcState else 0
        | .error f => f.result
      else rcState

/-- ATTEST draws the blinding of its signature. -/
def attest (n : Nat) : M Unit := do
  let r := (← getS).attestRefused n
  if r ≠ 0 then cmdEnd U.pke r
  else
    prim (.keys { (← getS).keys with attestOf := n })
    askRandom .ordinary .attestBlind 40

/-- The statement about a slot, but for its signature (R461). -/
def State.statement (s : State) (n : Nat) (b : Bank) (ak : Bytes) (st : Stamp) : Bytes :=
  beBytes 2 0xB415 ++ [0x01, BitVec.ofNat 8 s.lcCode] ++ beBytes 2 n ++ [BitVec.ofNat 8 (s.slot n).type.toNat]
    ++ [BitVec.ofNat 8 b.prov.code] ++ beBytes 4 b.policy.toNat ++ beBytes 4 b.kcv.toNat ++ beBytes 4 b.gen.toNat
    ++ zeros 4 ++ beBytes 8 st.ts.toNat
    ++ (if polModuleReq b.policy then (s.modDigest (polModule b.policy)).getD (zeros 32) else zeros 32)
    ++ ((List.range 8).map fun w => beBytes 4 (s.fld (R.PKE_NONCE.WORD w))).flatten
    ++ sha256 (publicPoint 0x10 ak)

/-- The per-signature secret has been drawn: ATTEST signs and writes its statement. -/
def attestDone (k : Bytes) (d : Dram) : M Unit := do
  let s ← getS
  let n := s.keys.attestOf
  match s.useKey attestSlot attestNeed, (s.slot n).active with
  | .ok a, some b =>
    let r := s.attestRefused n
    if r ≠ 0 then cmdEnd U.pke r
    else
      let st ← stamp
      let body := s.statement n b a.material st
      match ecdsaSign p256 (beNat a.material) (beNat k % (p256.n - 1) + 1) (sha256 body) with
      | none => askRandom .key .attestSign 40
      | some sig =>
        countUse attestSlot
        bumpMod R.PKE_OPS.COUNT
        if ← dramWrite d s.pkeBuf (body ++ sig) then
          raise E.PKE.ATTESTED
          cmdEnd U.pke rcOk
        else pkeFail rcState
  | _, _ => cmdEnd U.pke rcState

/-- PKE_CMD. -/
def fxPkeCmd (op slot : Nat) (d : Dram) : M Unit :=
  cmdActive U.pke do
    if op = 1 then keyService U.pke attestGen
    else if op = 2 then keyService U.pke (attestLoad d)
    else if op = 3 then keyService U.pke (attest slot)
    else cmdEnd U.pke rcBadCmd

/-- A write of PKE_CMD. -/
def pkeCmdWrite (rid : BitVec 12) (op : Nat) (slot : BitVec 9) (d : Dram) : M Unit :=
  hostWrite (fullWrite rid R.PKE_CMD.OP.addr (BitVec.ofNat 32 (op * 2 ^ 28 + slot.toNat))) (fxPkeCmd op slot.toNat d)

def execAttestGen (rid : BitVec 12) (s : State) : Host.Outcome State Fault Refusal :=
  exec1 (pkeCmdWrite rid 1 0 {}) s

def execAttestLoad (rid : BitVec 12) (dram : Dram) (s : State) : Host.Outcome State Fault Refusal :=
  exec1 (pkeCmdWrite rid 2 0 dram) s

def execAttest (rid : BitVec 12) (slot : BitVec 9) (s : State) : Host.Outcome State Fault Refusal :=
  exec1 (pkeCmdWrite rid 3 slot {}) s

end Sys2Proof.Machine
end

