-- ==== Sys2Proof/Machine/RngCmds.lean ====
section
/-! DEFINITION. The RNG page's commands and the source's events (R484 to R504), but for the generate request itself. -/
namespace Sys2Proof.Machine
open Sys2Proof

def execEntropyPowerUp (katOk : Bool) (s : State) : Host.Outcome State Fault Refusal :=
  exec1 (waitable (.entropyPowerUp katOk) 0x3A (sourcePowerUp katOk)) s

def execSeedReady (raw : BitVec 6144) (s : State) : Host.Outcome State Fault Refusal :=
  exec1 (waitable (.seedReady raw) 0x3A (seedReady raw)) s

/-- The draw of PARK_EPOCH's high word in Ballast-lost mode (R456): once the scan has ended and the first seed exists. -/
def askEpoch : M Unit := do
  let s ← getS
  if s.lostMode ∧ s.rng.drbg.isSome ∧ s.anchor.scanned ∧ !s.ballastPending ∧ s.fld R.KEYS_PARK_EPOCH.EPOCH = 0
      ∧ !(s.rng.reqs.any fun r => r.user = .ballastEpoch) then
    askRandom .key .ballastEpoch 4

/-- The 32 bits have been drawn; zero is drawn again. -/
def epochDrawn (b : Bytes) : M Unit := do
  if beAt b 0 4 = 0 then askRandom .key .ballastEpoch 4
  else wr R.KEYS_PARK_EPOCH.EPOCH (beAt b 0 4 * 2 ^ 32)

/-- Instantiation from the first seed (R491 step 6, R493), and what the key core and the supervisor do once it exists
(R416, R543). -/
def instantiate : M Unit := do
  let s ← getS
  match decide (s.fld R.RNG_STAT.SRC = srcStartup), s.rng.drbg, s.rng.seeds with
  | true, none, seed :: rest =>
    let pers := beBytes 8 s.now.toNat ++ beBytes 4 (if s.anchor.scanned then s.fld R.ANCHOR_RESETS.COUNT else 0) ++ zeros 36
    prim (.rng { s.rng with drbg := some (drbgInit (xorBytes seed pers)), seeds := rest })
    wr R.RNG_STAT.SRC (if s.testActive then srcTest else srcRun)
    rngRefresh
    raise E.RNG.SEEDED
    if !s.rng.scrambled then
      let p ← fresh
      prim (.keys { (← getS).keys with perm := p })
      prim (.rng { (← getS).rng with scrambled := true })
      wr R.KEYS_ROOT_STAT.SCRAMBLED 1
      askRandom .ordinary .loopSeed 8
    askEpoch
  | _, _, _ => pure ()

def execDrbgInstantiate (s : State) : Host.Outcome State Fault Refusal :=
  exec1 (waitable .drbgInstantiate 0x3A instantiate) s

/-- A continuous test fails: the adaptive proportion test or the repetition count test. -/
def execHealthFail (apt : Bool) (s : State) : Host.Outcome State Fault Refusal :=
  exec1 (do
    let s ← getS
    let c := s.fld R.RNG_STAT.SRC
    if s.clkRuns .smp ∧ c ≠ srcOff ∧ c ≠ srcFaulted then healthFail (if apt then 2 else 1)) s

/-- The discard after a gust ends: start-up goes on from step 4, or the source runs again (R489, R491). -/
def execRestartDiscardEnd (s : State) : Host.Outcome State Fault Refusal :=
  exec1 (do
    let s ← getS
    if s.clkRuns .smp ∧ s.fld R.RNG_STAT.SRC = srcRestart then
      wr R.RNG_STAT.SRC (if s.rng.drbg.isNone then srcStartup else if s.testActive then srcTest else srcRun)) s

/-- RNG_CMD (R490, R494). -/
def fxRngCmd (restart reseed katOk : Bool) : M Unit := do
  if reseed then prim (.rng { (← getS).rng with reseed := true })
  if restart ∧ (← getS).srcFault then
    prim (.gust 0x3A [])
    sourcePowerUp katOk

def execRngRestart (rid : BitVec 12) (katOk : Bool) (s : State) : Host.Outcome State Fault Refusal :=
  exec1 (hostWrite (fullWrite rid R.RNG_CMD.RESEED.addr 2) (fxRngCmd true false katOk)) s

def execReseed (rid : BitVec 12) (s : State) : Host.Outcome State Fault Refusal :=
  exec1 (hostWrite (fullWrite rid R.RNG_CMD.RESEED.addr 1) (fxRngCmd false true true)) s

/-- A read of RNG_DATA (R501). -/
def rngDataRead : M Unit := do
  let s ← getS
  match s.active 0x3A && s.domainOn 15, s.rng.fifo with
  | true, w :: ws =>
    emit (.hostRead R.RNG_DATA.WORD.addr w)
    prim (.rng { s.rng with fifo := ws })
    fifoRefill
    rngRefresh
  | _, _ =>
    emit (.hostRead R.RNG_DATA.WORD.addr 0)
    wr R.RNG_STAT.UNDERRUN 1
    raise E.RNG.UNDERRUN

def execRngDataRead (s : State) : Host.Outcome State Fault Refusal := exec1 rngDataRead s

/-- A read of RNG_RAW: the next 32 raw samples in BLANK (R503), of the pattern while it is active. -/
def rngRawRead (raw : Word) : M Unit := do
  let s ← getS
  let c := s.fld R.RNG_STAT.SRC
  let on := s.fld R.KEYS_LC.STATE = 0 && c ≠ srcOff && c ≠ srcFaulted
  emit (.hostRead R.RNG_RAW.WORD.addr
    (if !on then 0 else if s.testActive then BitVec.ofNat 32 (s.fld R.RNG_TEST_PAT.PATTERN) else raw))

def execRngRawRead (raw : Word) (s : State) : Host.Outcome State Fault Refusal := exec1 (rngRawRead raw) s

/-- A write of RNG_TEST_CTL (R502). -/
def fxTestCtl : M Unit := do
  let s ← getS
  let en := s.fld R.RNG_TEST_CTL.TEST_EN = 1
  if s.fld R.KEYS_LC.STATE ≠ 0 then
    if en then
      raise E.RNG.TEST_REFUSED
      unitAlarm 0x3A 0
  else if en ≠ s.testActive then
    wr R.RNG_TEST_CTL.TEST_ACTIVE 0
    sourceAgain

def execTestEn (rid : BitVec 12) (en : Bool) (s : State) : Host.Outcome State Fault Refusal :=
  exec1 (hostWrite (fullWrite rid R.RNG_TEST_CTL.TEST_EN.addr (BitVec.ofNat 32 (b2n en))) fxTestCtl) s

end Sys2Proof.Machine
end

