-- ==== Sys2Proof/Machine/Boundary.lean ====
section
/-! DEFINITION. Errors at the boundary that GLOBAL_BND_ERR counts (R33, R45). -/
namespace Sys2Proof.Machine
open Sys2Proof

/-- Count an error of a signal group and raise a grade 0 alarm. The alarm's payload holds the group in bits 43:40: R33
names the group and no place for it (DESIGN CHOICE). -/
def bndErr (group port : Nat) : M Unit := do
  bump R.GLOBAL_BND_ERR.COUNT
  wr R.GLOBAL_BND_ERR.GROUP group
  wr R.GLOBAL_BND_ERR.PORT port
  auditEntry 0x01 0x0020 [alarmPayload 0 0 0 false 0x01 ||| BitVec.ofNat 96 (group * 2 ^ 40)] .immediate

/-- A neighbour lowers VALID or changes the payload before the beat passes: the beat is not taken (R33). `group` is as
GLOBAL_BND_ERR.GROUP numbers the signal groups. -/
def execHandshakeViolation (group : BitVec 4) (port : BitVec 8) (s : State) : Host.Outcome State Fault Refusal :=
  exec1 (bndErr group.toNat port.toNat) s

end Sys2Proof.Machine
end

