-- ==== Sys2Proof/Machine/Frames.lean ====
section
/-! DEFINITION. Frames on the channels (R200 to R202): the IEEE 802.1AE layout and protection (R203 to R206, R208) and the
CAN authenticator profile (R209 to R212), and the Bridle encapsulation (R222, R223). -/
namespace Sys2Proof.Machine
open Sys2Proof

/-- Bit `k` of byte `i` of a frame. -/
def bitOf (b : Bytes) (i k : Nat) : Bool := (b.getD i 0).toNat.testBit k

/-! ### SecTAG (R204) -/

/-- The frame carries a SecTAG, or is an EAPOL frame. -/
def isSecTag (b : Bytes) : Bool := beAt b 12 2 = 0x88E5
def isMka (b : Bytes) : Bool := beAt b 12 2 = 0x888E

/-- Bytes of the SecTAG. -/
def tagLen (b : Bytes) : Nat := if bitOf b 14 5 then 16 else 8

/-- AN, the packet number carried, and the SCI of the sender (R251). -/
def tagAn (b : Bytes) : Nat := (b.getD 14 0).toNat % 4
def tagPn (b : Bytes) : Nat := beAt b 16 4
def tagSci (b : Bytes) : Nat :=
  if bitOf b 14 5 then beAt b 20 8 else if bitOf b 14 6 then beAt b 6 6 * 65536 + 1 else 0

/-- TCI bits that R204 does not admit. -/
def tciBad (b : Bytes) : Bool := bitOf b 14 7 || (bitOf b 14 5 && bitOf b 14 6) || (bitOf b 14 3 != bitOf b 14 2)

/-- SL does not fit the frame's length. -/
def slBad (b : Bytes) : Bool :=
  let fixed := 12 + tagLen b + 16
  let sl := (b.getD 15 0).toNat
  decide (b.length < fixed) || (if sl = 0 then decide (b.length - fixed < 48) else decide (48 ≤ sl ∨ b.length - fixed ≠ sl))

/-- The IV (R205): `sci` is that of the association, or of the learned sender. -/
def gcmIv (ws : List Word) (sci pn : Nat) : Bytes :=
  if eXpn ws then xorBytes (eSalt ws) (eSsci ws ++ beBytes 8 pn) else beBytes 8 sci ++ beBytes 4 pn

/-- The SCI that the IV of a received frame takes: the association's, or the learned sender's. -/
def rxSci (c : AssocCopy) (b : Bytes) : Nat :=
  if c.learn ∨ c.peer.isSome then tagSci b else wordAt c.words 1 * 2 ^ 32 + wordAt c.words 2

/-- Verify and open a received frame (R206); the bytes after the SecTAG in the clear. -/
def ethOpen (key : Bytes) (ws : List Word) (sci pn : Nat) (b : Bytes) : Option Bytes :=
  let n := 12 + tagLen b
  let head := b.take n
  let data := (b.drop n).take (b.length - n - 16)
  let iv := gcmIv ws sci pn
  let tag := if eConf ws then gcmTag key iv head data else gcmTag key iv (head ++ data) []
  if b.drop (b.length - 16) = tag then some (if eConf ws then gcmOpen key iv data else data) else none

/-- TX_SCI of an ETH_TX entry. -/
def eTxSci (ws : List Word) : Nat := wordAt ws 12 * 2 ^ 32 + wordAt ws 13

/-- The SecTAG that Otist writes for `n` bytes of secure data. -/
def secTag (ws : List Word) (pn n : Nat) : Bytes :=
  let sc := (wordAt ws 4).testBit 28
  let conf := b2n (eConf ws)
  [0x88, 0xE5, BitVec.ofNat 8 (bitAt ((wordAt ws 4).testBit 27) 6 + bitAt sc 5 + conf * 0xC + eAn ws),
    BitVec.ofNat 8 (if n < 48 then n else 0)] ++ beBytes 4 (pn % 2 ^ 32) ++ (if sc then beBytes 8 (eTxSci ws) else [])

/-- The frame sent but for its ICV, and the ICV (R206, R208). -/
def ethSeal (key : Bytes) (ws : List Word) (pn : Nat) (addrs data : Bytes) : Bytes × Bytes :=
  let head := addrs ++ secTag ws pn data.length
  let iv := gcmIv ws (eTxSci ws) pn
  if eConf ws then
    let r := gcmSeal key iv head data
    (head ++ r.1, r.2)
  else (head ++ data, gcmTag key iv (head ++ data) [])

/-! ### CAN frames (R202, R209 to R212) -/

/-- FORMAT, the identifier word (R210), VCID and SDT of a controller header. -/
def canFormat (b : Bytes) : Nat := (b.getD 0 0).toNat % 4
def canId (b : Bytes) : Nat := bitAt (bitOf b 0 2) 31 + beAt b 4 4 % 2 ^ 29
def canXl (b : Bytes) : Bool := canFormat b = 2

/-- The key value of a CAN frame (R247). -/
def canKeyValue (b : Bytes) : Nat := (if canXl b then (b.getD 2 0).toNat * 2 ^ 32 else 0) + canId b

/-- The data-field lengths that a format can express. -/
def canLengths (fmt : Nat) : List Nat :=
  if fmt = 0 then List.range 9
  else if fmt = 1 then List.range 9 ++ [12, 16, 20, 24, 32, 48, 64]
  else List.range 2033

/-- The least length that a format can express for `n` bytes. -/
def dlcUp (fmt n : Nat) : Option Nat := (canLengths fmt).find? fun l => n ≤ l

/-- Trailer bytes. -/
def trailerLen (ws : List Word) : Nat := ceilDiv (eTfvBits ws + 8 * eMacBytes ws) 8

/-- PDU_LEN. -/
def ePduLen (ws : List Word) : Nat := bits (wordAt ws 8) 7 0

/-- The CMAC input of R210, and the first MAC_BITS of its output as a number. -/
def canMacInput (ws : List Word) (b payload : Bytes) (v : Nat) : Bytes :=
  let xl := if canXl b then slice b 8 4 ++ [b.getD 1 0, b.getD 2 0] else []
  beBytes 2 (eDataId ws) ++ beBytes 4 (canId b) ++ xl ++ payload ++ beBytes 8 v

def canMac (key : Bytes) (ws : List Word) (b payload : Bytes) (v : Nat) : Nat :=
  beNat ((cmac key (canMacInput ws b payload v)).take (eMacBytes ws))

/-- The counter blocks and AES-CTR of R211. -/
def canCounter (ws : List Word) (b : Bytes) (v j : Nat) : Bytes :=
  beBytes 2 (eDataId ws) ++ beBytes 4 (canId b) ++ beBytes 8 v ++ beBytes 2 j

def canCtr (key : Bytes) (ws : List Word) (b payload : Bytes) (v : Nat) : Bytes :=
  ((blocks16 payload).zipIdx.map fun (p, j) => xorBytes p (aesEnc key (canCounter ws b v j))).flatten

/-- The payload bytes of a received data field, `none` where its layout is malformed (R212). -/
def canPayload (ws : List Word) (b : Bytes) : Option Bytes :=
  let data := b.drop 12
  let t := trailerLen ws
  let n := if canXl b then data.length - t else ePduLen ws
  let lenOk := if canXl b then decide (t ≤ data.length) else decide (dlcUp (canFormat b) (n + t) = some data.length)
  let spare := 8 * t - eTfvBits ws - 8 * eMacBytes ws
  if canFormat b = 3 ∨ b.length < 12 ∨ !lenOk then none
  else if beNat (slice data n t) % 2 ^ spare ≠ 0 ∨ (data.drop (n + t)).any (· ≠ 0) then none
  else some (data.take n)

/-- The truncated freshness value and the MAC that a received trailer carries. -/
def canTrailer (ws : List Word) (b : Bytes) (n : Nat) : Nat × Nat :=
  let t := trailerLen ws
  let m := 8 * eMacBytes ws
  let v := beNat (slice (b.drop 12) n t) / 2 ^ (8 * t - eTfvBits ws - m)
  (v / 2 ^ m, v % 2 ^ m)

/-- The data-field length of a secured frame with `n` payload bytes; `none` where R212 refuses it. -/
def canFit (ws : List Word) (header : Bytes) (n : Nat) : Option Nat :=
  if canFormat header = 3 ∨ (!canXl header ∧ n ≠ ePduLen ws) then none else dlcUp (canFormat header) (n + trailerLen ws)

/-- A secured frame from its header and payload in the clear; `none` where R212 refuses it. -/
def canSeal (k1 k2 : Bytes) (ws : List Word) (header payload : Bytes) (v : Nat) : Option Bytes :=
  let c := if eEnc ws then canCtr k2 ws header payload v else payload
  let t := trailerLen ws
  let m := 8 * eMacBytes ws
  let tr := (v % 2 ^ eTfvBits ws * 2 ^ m + canMac k1 ws header c v) * 2 ^ (8 * t - eTfvBits ws - m)
  (canFit ws header payload.length).map fun l => padTo (12 + l) (header ++ c ++ beBytes t tr)

/-! ### Bridle (R222, R223) -/

/-- The plaintext of a frame's bytes so far, unverified: what the pair link carries under CUT. -/
def State.cutPlain (s : State) (i : SItem) (c : AssocCopy) (e : CEntry) : Bytes :=
  let n := 12 + tagLen i.bytes
  let d := (i.bytes.drop n).take (i.bytes.length - n - 16)
  if eConf c.words then
    gcmOpen (((s.entryKey e 0).map (·.material)).getD []) (gcmIv c.words (rxSci c i.bytes) e.valueA.toNat) d
  else d

/-- A template: addresses and EtherType. -/
structure Template where
  addrs : Bytes
  etype : Nat

/-- A pair's template. -/
def templateOf (ws : List Word) : Template :=
  ⟨((ws.take 3).map fun w => beBytes 4 w.toNat).flatten, bits (ws.getD 3 0).toNat 31 16⟩

/-- The words of template `t`: BRIDLE_TMPL_A to D. -/
def State.templateWords (s : State) (t : Nat) : List Word :=
  (List.range 4).map fun k => regWord s.regs ((R.BRIDLE_TMPL_A.DA_HI t).addr + 4 * k)

/-- The secure data of R222: Bridle head, payload and the zeros that bring the frame to 60 bytes. `tag`: bytes of the
SecTAG sent. -/
def encapsulate (t : Template) (header payload : Bytes) (tag : Nat) : Bytes :=
  let d := beBytes 2 t.etype ++ beBytes 2 payload.length ++ header ++ payload
  d ++ zeros (60 - (12 + tag + d.length + 16))

/-- The controller header and payload recovered from the secure data, checked under R223. -/
def decapsulate (t : Template) (d : Bytes) : Option (Bytes × Bytes) :=
  let n := beAt d 2 2
  let header := (d.drop 4).take 12
  if d.length < 16 ∨ beAt d 0 2 ≠ t.etype ∨ d.length < 16 + n ∨ (d.drop (16 + n)).any (· ≠ 0) ∨ canFormat header = 3 then none
  else some (header, (d.drop 16).take n)

end Sys2Proof.Machine
end

