-- ==== Sys2Proof/Machine/Mem.lean ====
section
/-! DEFINITION. Memory protection (R303 to R357): regions and their areas, the constructions over lines and counter blocks,
the counter tree, the caches, and what failures do. -/
namespace Sys2Proof.Machine
open Sys2Proof

/-! ### DRAM -/

/-- A line as DRAM answers it. -/
def memLine (v : MemView) (a : Nat) : DramErr × Bytes := match v.lines.find? fun l => l.1 = a with
  | some l => (l.2.1, padTo 64 l.2.2)
  | none => (.ok, zeros 64)

/-- A write of a whole line. -/
def putLine (a : Nat) (b : Bytes) : M Unit := emit (.dramWrite a b (BitVec.allOnes 64))

/-! ### Regions and their areas (R303, R318, R319) -/

/-- A region's configuration. -/
def State.regionCfg (s : State) (n : Nat) : RegionCfg :=
  { cfg := regWord s.regs (R.MEMRGN_CFG.MODE n).addr, base := s.fld (R.MEMRGN_BASE.ADDR n), size := s.fld (R.MEMRGN_SIZE.UNITS n),
    kslot := s.fld (R.MEMRGN_KEY.KSLOT n), mslot := s.fld (R.MEMRGN_KEY.MSLOT n), metaAddr := s.fld (R.MEMRGN_META.ADDR n),
    mirror := s.fld (R.MEMRGN_MIRROR.ADDR n) }

def RegionCfg.mirrored (c : RegionCfg) : Bool := c.cfg.getLsbD 27
def RegionCfg.baseAddr (c : RegionCfg) : Nat := c.base * 4096

/-- The metadata and mirror areas of a configuration: first byte and length. -/
def RegionCfg.areas (c : RegionCfg) : List (Nat × Nat) :=
  (if metaBytes c.mode c.size = 0 then [] else [(c.metaAddr * 4096, metaBytes c.mode c.size)])
    ++ (if c.mode = mdTree ∧ c.mirrored then [(c.mirror * 4096, mirrorShadow c.size + 64)] else [])

/-- The pass that a region is served under: its first. -/
def State.passOf (s : State) (n : Nat) : Option Pass := s.passes.find? fun p => p.region = n

/-- A region's data range, grown by its pass, and its metadata areas, those of its pass among them (R360). -/
def State.dataRange (s : State) (n : Nat) : Nat × Nat :=
  let c := s.regionCfg n
  (c.baseAddr, 4096 * max c.size (match s.passOf n with | some p => p.new.size | none => 0))

def State.metaAreas (s : State) (n : Nat) : List (Nat × Nat) :=
  (s.regionCfg n).areas ++ (s.passes.filter fun p => p.region = n).flatMap fun p => p.new.areas

/-- An address lies in a range given by first byte and length; two ranges overlap. -/
def inRange (r : Nat × Nat) (a : Nat) : Bool := decide (r.1 ≤ a ∧ a < r.1 + r.2)
def overlaps (r q : Nat × Nat) : Bool := decide (r.1 < q.1 + q.2 ∧ q.1 < r.1 + r.2)

/-- A region's states. -/
def State.rgnState (s : State) (n : Nat) : Nat := s.fld (R.MEMRGN_CTL.STATE n)

/-! ### Sides of the kiln line (R309, R362) -/

/-- The configuration and the tree that a line is served under. -/
structure Side where
  n : Nat
  newTree : Bool
  c : RegionCfg
  /-- class of the access, to which the blocks that verify its counter blocks and nodes are charged (R332) -/
  cls : Nat := 6
  deriving DecidableEq, Repr

def State.oldSide (s : State) (n : Nat) : Side := { n := n, newTree := false, c := s.regionCfg n }
def State.newSide (s : State) (n : Nat) : Side := match s.passOf n with
  | some p => { n := n, newTree := true, c := p.new }
  | none => s.oldSide n

def State.side (s : State) (n : Nat) (new : Bool) : Side := if new then s.newSide n else s.oldSide n

/-- A line's chunk and its place in the chunk. -/
def Side.chunk (d : Side) (a : Nat) : Nat := (a - d.c.baseAddr) / 4096
def Side.lineOf (d : Side) (a : Nat) : Nat := (a - d.c.baseAddr) / 64

/-- A line is on the new side of its region's pass. -/
def State.onNewSide (s : State) (n a : Nat) : Bool := match s.passOf n with
  | none => false
  | some p =>
    let ch := (a - (s.regionCfg n).baseAddr) / 4096
    decide (ch < p.bound) || (decide (ch = p.bound) && p.doneBits.getLsbD (a / 64 % 64))

/-- The line of a transaction; a transaction by number. -/
def MemTxn.line (t : MemTxn) : Nat := t.addr / 64 * 64
def State.txn (s : State) (e : Nat) : Option MemTxn := mget (fun _ => none) s.mem.txns e

/-- The side that a transaction of a region is served on, and the old side that a moved partial write merges with: each under the
configuration fixed at acceptance (R20, R21). -/
def MemTxn.sideOf (t : MemTxn) (s : State) (n : Nat) : Side :=
  { s.side n t.newSide with c := t.cfg.getD (s.side n t.newSide).c, cls := if t.isWrite then 2 else 0 }
def MemTxn.mergeSide (t : MemTxn) (s : State) (n : Nat) : Side :=
  if t.mergeOld then { s.oldSide n with c := t.oldCfg.getD (s.regionCfg n), cls := 2 } else t.sideOf s n

/-! ### Constructions (R310 to R316) -/

/-- Line index i. -/
def lineIndex (a : Nat) : Nat := a / 64

/-- The address block A(t). -/
def addrBlock (t a : Nat) : Bytes := beBytes 1 t ++ zeros 7 ++ beBytes 8 (a / 64 * 64)

/-- The tweak block of a line, and XTS over it (R311). -/
def lineTweak (a : Nat) : Bytes := leBytes 5 (lineIndex a) ++ zeros 11

def lineXts (key : Bytes) (enc : Bool) (a : Nat) (b : Bytes) : Bytes :=
  let h := key.length / 2
  xts (key.take h) (key.drop h) enc (lineTweak a) b

/-- The counter blocks of a line, and CTR over it, its own inverse (R312). -/
def lineCounter (n a major minor j : Nat) : Bytes :=
  [0x01] ++ beBytes 1 n ++ beBytes 5 (lineIndex a) ++ beBytes 6 major ++ beBytes 1 minor ++ [0] ++ beBytes 1 j

def lineCtr (ke : Bytes) (n a major minor : Nat) (b : Bytes) : Bytes :=
  ((blocks16 (padTo 64 b)).zipIdx.map fun (x, j) => xorBytes x (aesEnc ke (lineCounter n a major minor j))).flatten

/-- The IV of a line tag of TREE mode, and the tag (R314). -/
def treeIv (a major minor : Nat) : Bytes := beBytes 1 (0x40 ||| minor) ++ beBytes 5 (lineIndex a) ++ beBytes 6 major

def treeTag (km : Bytes) (a major minor : Nat) (ct : Bytes) : Bytes :=
  (gcmTag km (treeIv a major minor) (addrBlock 1 a ++ ct) []).take 8

/-- The line tag of TAG mode (R315). -/
def tagTag (km : Bytes) (a : Nat) (ct : Bytes) : Bytes :=
  (aesEnc km (ghash (aesEnc km (zeros 16)) (addrBlock 3 a :: blocks16 ct))).take 8

/-! ### Counter blocks (R313, R316) -/

def blkMajor (b : Bytes) : Nat := beAt b 0 6
def blkMinor (b : Bytes) (k : Nat) : Nat := bits (beAt b 6 48) (383 - 6 * k) (378 - 6 * k)
def blkMinors (b : Bytes) : List Nat := (List.range 64).map (blkMinor b)

/-- A block from its counters and its last 8 bytes. -/
def blkPack (major : Nat) (minors : List Nat) (last : Bytes) : Bytes :=
  beBytes 6 major ++ beBytes 48 (minors.foldl (fun x m => x * 64 + m % 64) 0) ++ zeros 2 ++ padTo 8 last

/-- A block with minor `k` replaced. -/
def blkSet (b : Bytes) (k m : Nat) : Bytes := blkPack (blkMajor b) ((blkMinors b).set k m) (b.drop 56)

/-- A block with its major one higher and every minor 0. -/
def blkOverflow (b : Bytes) : Bytes := blkPack (blkMajor b + 1) (List.replicate 64 0) (b.drop 56)

/-- A fresh block. -/
def blkZero : Bytes := zeros 64

/-- The MAC of a block at a level and index under its parent's counter. -/
def blkMac (km : Bytes) (level index major minor : Nat) (b : Bytes) : Bytes :=
  (gcmTag km (beBytes 1 (0x80 ||| minor) ++ beBytes 1 level ++ beBytes 4 index ++ beBytes 6 major) (b.take 56) []).take 8

/-! ### Keys -/

/-- What a region's keys need (R310, R430). -/
def dataNeed (mode : Nat) : KeyNeed :=
  { types := if mode = mdTree then [0x01, 0x02] else [0x03, 0x04], engine := some .mem, both := true }
def macNeed : KeyNeed := { types := [0x01, 0x02], engine := some .mem, both := true }

/-- The material of the key references that a transaction fixed, or of a side's keys as they stand. -/
def State.refKey (s : State) (k : Option KeyRef) : Option Bytes := (k.bind s.bankOf).map (·.material)
def State.slotKey (s : State) (n : Nat) : Bytes := match (s.slot n).active with
  | some b => b.material
  | none => []

/-! ### Caches (R328, R329) -/

def CacheLine.is (l : CacheLine) (n : Nat) (nt : Bool) (level index : Nat) : Bool :=
  l.region = n && l.newTree = nt && l.level = level && l.index = index

/-- Banks in service of a cache, and the ways of a set that they hold. -/
def State.banks (s : State) (tag : Bool) : Nat :=
  let i := if tag then 2 else 0
  b2n (!s.mem.fenced.getLsbD i) + b2n (!s.mem.fenced.getLsbD (i + 1))

def State.ways (s : State) (tag : Bool) : Nat := s.banks tag * (if tag then 4 else 8)

/-- Two lines of a cache share a set (R328). -/
def CacheLine.sameSet (tag : Bool) (c l : CacheLine) : Bool :=
  l.is c.region c.newTree c.level c.index
    || Config.cacheSet tag c.region c.newTree c.level c.index = Config.cacheSet tag l.region l.newTree l.level l.index

/-- How many lines of a list share a line's set. -/
def inSet (tag : Bool) (l : List CacheLine) (c : CacheLine) : Nat := (l.filter (c.sameSet tag)).length

/-- Drop the least recently used clean lines of each set that are beyond its ways. -/
def trim (tag : Bool) (ways : Nat) (l : List CacheLine) : List CacheLine :=
  if l.length ≤ ways then l
  else l.reverse.foldl (fun kept c =>
    if !c.dirty && decide (ways < inSet tag kept c) then kept.filter fun x => !x.is c.region c.newTree c.level c.index else kept) l

/-- No set of a cache holds more lines than it has ways. -/
def State.setsFit (s : State) (tag : Bool) : Bool :=
  decide ((s.cacheLines tag).length ≤ s.ways tag)
    || (s.cacheLines tag).all fun c => decide (inSet tag (s.cacheLines tag) c ≤ s.ways tag)

/-- Store a line as the most recently used. -/
def putCache (tag : Bool) (l : CacheLine) : M Unit := do
  let s ← getS
  let rest := (s.cacheLines tag).filter fun x => !x.is l.region l.newTree l.level l.index
  let all := trim tag (s.ways tag) (l :: rest)
  prim (.mem (if tag then { s.mem with tag := all } else { s.mem with ctr := all }))
  cacheRefresh

/-- A cached line. -/
def State.cached (s : State) (tag : Bool) (n : Nat) (nt : Bool) (level index : Nat) : Option CacheLine :=
  (s.cacheLines tag).find? fun l => l.is n nt level index

/-! ### Root blocks (R322, R364) -/

def State.root' (s : State) (n : Nat) (nt : Bool) : Option Bytes :=
  if nt then (s.passOf n).bind fun p => if p.root.isEmpty then none else some p.root
  else mget (fun _ => none) s.roots n

def setRoot (n : Nat) (nt : Bool) (b : Bytes) : M Unit := do
  let s ← getS
  if nt then
    match s.passOf n with
    | some p => setPasses (s.passes.map fun x => if x = p then { p with root := b } else x)
    | none => pure ()
  else prim (.root n (some b))

/-! ### Failures (R333 to R341) -/

/-- Who an access is: what MEM_FAIL_INFO and its companions record. -/
structure Who where
  region : Nat
  cls : Nat := 0
  rid : Nat := 0
  tid : Nat := 0
  addr : Nat
  ts : Nat := 0

def MemTxn.who (t : MemTxn) (n : Nat) : Who :=
  ⟨n, t.attr.toNat % 4, t.rid.toNat, t.tid.toNat, t.addr / 64 * 64, t.stamp.ts.toNat⟩

/-- Record the last failure. -/
def memFail (w : Who) (kind level : Nat) (block : Bool) : M Unit := do
  wr R.MEM_FAIL_INFO.KIND kind
  wr R.MEM_FAIL_INFO.REGION w.region
  wr R.MEM_FAIL_INFO.CLASS w.cls
  wr R.MEM_FAIL_INFO.LEVEL level
  wr R.MEM_FAIL_INFO.BLOCK (b2n block)
  wr R.MEM_FAIL_INFO.RID w.rid
  wr R.MEM_FAIL_TID.TID w.tid
  wr R.MEM_FAIL_ADDR.ADDR w.addr
  wr R.MEM_FAIL_TS.TS w.ts

/-- An integrity failure (R339): of a line, or of the block at a level. `late`: R336 records kind 0x4 for it. -/
def integFail (w : Who) (level : Option Nat) (late : Bool) : M Unit := do
  raise E.MEM.INTEG
  bump R.MEM_INTEG.COUNT
  bump (R.MEMRGN_FAILS.INTEG w.region)
  if !late then
    match level with
    | none => memFail w 1 0 false
    | some l => memFail w 2 l false
  tamperEvent srcInteg

/-- A media failure (R340). -/
def mediaFail (w : Who) : M Unit := do
  raise E.MEM.MEDIA
  bump R.MEM_MEDIA.COUNT
  bump (R.MEMRGN_FAILS.MEDIA w.region)
  memFail w 3 0 false

/-! ### Media table (R341) -/

/-- The span of a line, and its line's place there. -/
def spanOf (a : Nat) : Nat := a / 512 * 512

/-- A line's bit in the media table is set; its span has an entry. -/
def State.mediaBit (s : State) (a : Nat) : Bool :=
  s.mem.media.any fun m => m.1 = spanOf a && m.2.getLsbD (a / 64 % 8)
def State.mediaSpan (s : State) (a : Nat) : Bool := s.mem.media.any fun m => m.1 = spanOf a

def setMedia (l : List (Nat × BitVec 8)) : M Unit := do
  prim (.mem { (← getS).mem with media := l })
  wr R.MEM_MEDIA_TBL.USED l.length
  if !(← getS).passes.isEmpty then kilnRefresh

/-- Set lines of a span in the media table. Answers whether there was room. -/
def addMedia (span : Nat) (b : BitVec 8) : M Bool := do
  let s ← getS
  if s.mem.media.any fun m => m.1 = span then
    setMedia (s.mem.media.map fun m => if m.1 = span then (m.1, m.2 ||| b) else m)
    return true
  else if s.mem.media.length < 64 then
    setMedia (s.mem.media ++ [(span, b)])
    return true
  else return false

/-- A line has been written: its bit clears, and an entry with no bit left is freed. -/
def clearMedia (a : Nat) : M Unit := do
  let s ← getS
  if s.mediaSpan a then
    setMedia ((s.mem.media.map fun m =>
      if m.1 = spanOf a then (m.1, m.2 &&& ~~~(BitVec.ofNat 8 (2 ^ (a / 64 % 8)))) else m).filter fun m => m.2 ≠ 0)

/-- A region's states as a block of its page. -/
def regionBlock (n : Nat) : Block := ⟨R.MEMRGN_CTL.STATE n, R.MEMRGN_CTL.REARM n, E.MEMRGN.RGN_CHG n, n % 8⟩

/-- A region goes to FAULT. -/
def regionFault (n : Nat) : M Unit := do
  let st := (← getS).rgnState n
  if st = pgActive ∨ st = pgDraining then
    wr (R.MEMRGN_CTL.REARM n) 0
    setBlock (regionBlock n) pgFault
    kilnRefresh
    dropTables n

/-! ### Quarantine and repair (R379 to R382) -/

/-- A quarantined span of a side's tree holds the block at a level and index. -/
def State.quarCovers (s : State) (n : Nat) (nt : Bool) (level index : Nat) : Bool := s.mem.quar.any fun q => match q with
  | some q => q.region = n && q.newTree = nt && decide (level ≤ q.level) && decide (index / 64 ^ (q.level - level) = q.index)
  | none => false

/-- A block lies beneath another. -/
def beneath (level index l i : Nat) : Bool := decide (l ≤ level) && decide (i / 64 ^ (level - l) = index)

/-- The payload of TREE_REPAIR and QUARANTINE. -/
def treePayload (n level index : Nat) : BitVec 96 := BitVec.ofNat 96 (n + level * 2 ^ 4 + index * 2 ^ 8)

/-- Store the quarantine table. -/
def setQuar (l : List (Option Quar)) : M Unit := do prim (.mem { (← getS).mem with quar := l })

/-- Quarantine a span: the dirty blocks beneath it are dropped. -/
def quarantine (n : Nat) (nt : Bool) (level index : Nat) : M Unit := do
  let s ← getS
  if !s.quarCovers n nt level index then
    match (List.range 32).find? fun i => ((s.mem.quar ++ List.replicate 32 none).getD i none).isNone with
    | none =>
      raise E.TREE.QUAR_FULL
      regionFault n
    | some i =>
      let st ← stamp
      setQuar (((s.mem.quar ++ List.replicate 32 none).take 32).set i (some ⟨n, nt, level, index, st⟩))
      raiseNamed E.TREE.QUARANTINE 0x0037 [treePayload n level index]
      dropLines false fun l => l.region = n && l.newTree = nt && beneath level index l.level l.index
      dropLines true fun l => l.region = n && l.newTree = nt && l.dirty && beneath level index 0 (l.index / 8)
      prim (.mem { (← getS).mem with overflows := (← getS).mem.overflows.filter fun o =>
        !(o.region = n && o.newTree = nt && beneath level index o.level o.index) })

/-! ### The counter tree (R318 to R321) -/

/-- The open overflow entries of a block, oldest first: a child that overflows again before its siblings are done opens
another. -/
def State.overflowsOf (s : State) (n : Nat) (nt : Bool) (level index : Nat) : List Overflow :=
  s.mem.overflows.filter fun o => o.region = n && o.newTree = nt && o.level = level && o.index = index

/-- The counter of child `k` under a block: the old one while the block's oldest open entry has not done the child (R324). -/
def State.childCounter (s : State) (n : Nat) (nt : Bool) (level index : Nat) (b : Bytes) (k : Nat) : Nat × Nat :=
  match (s.overflowsOf n nt level index).find? fun o => !o.done.getLsbD k with
  | some o => (o.major, o.minors.getD k 0)
  | none => (blkMajor b, blkMinor b k)

/-- A block as fetched. -/
inductive BlockRes where
  | ok (b : Bytes)
  /-- the MAC of the block at `level` fails; `b` is what the block asked for holds -/
  | integ (level : Nat) (b : Bytes)
  /-- it, or a block above it, cannot be read: its span is quarantined -/
  | media

/-- Addresses of a block: in the metadata area and in the mirror. -/
def Side.blockAddr (d : Side) (level index : Nat) : Nat := d.c.metaAddr * 4096 + metaLevel d.c.size level + 64 * index
def Side.mirrorAddr (d : Side) (level index : Nat) : Nat := d.c.mirror * 4096 + mirrorLevel d.c.size level + 64 * index
def Side.top (d : Side) : Nat := topLevel d.c.size

/-- A block read from DRAM under its parent's counter (R379, R380). -/
def readBlock (d : Side) (km : Bytes) (level index major minor : Nat) (v : MemView) : M BlockRes := do
  let keep (b : Bytes) : M BlockRes := do
    putCache false ⟨d.n, d.newTree, level, index, b, false⟩
    return .ok b
  let good (b : Bytes) : Bool := blkMac km level index major minor b = b.drop 56
  laneWork d.cls 1
  let (e, b) := memLine v (d.blockAddr level index)
  if e = .ok then
    if good b then keep b else return .integ level b
  else if level = 0 ∨ !d.c.mirrored then
    quarantine d.n d.newTree level index
    return .media
  else
    let (e2, b2) := memLine v (d.mirrorAddr level index)
    if e2 = .ok ∧ good b2 then
      putLine (d.blockAddr level index) b2
      bump R.TREE_REPAIRS.COUNT
      raiseNamed E.TREE.REPAIRED 0x0036 [treePayload d.n level index]
      keep b2
    else
      bump R.TREE_MIRROR_FAILS.COUNT
      quarantine d.n d.newTree level index
      if e2 = .ok then
        raise E.TREE.MIRROR_BAD
        integFail { region := d.n, addr := d.mirrorAddr level index } (some level) false
      return .media

/-- Fetch a block, verified up to the first ancestor held in the cache or to the root block (R320). The first argument
bounds the levels. -/
def fetchBlock (d : Side) (km : Bytes) (v : MemView) : Nat → Nat → Nat → M BlockRes
  | 0, _, _ => return .media
  | f + 1, level, index => do
    let s ← getS
    if s.quarCovers d.n d.newTree level index then return .media
    match s.cached false d.n d.newTree level index with
    | some l =>
      bumpMod R.MEMCACHE_CTR_HIT.COUNT
      putCache false l
      return .ok l.data
    | none =>
      bumpMod R.MEMCACHE_CTR_MISS.COUNT
      let own := (memLine v (d.blockAddr level index)).2
      let above : BlockRes ← (if level = d.top then
        return (match s.root' d.n d.newTree with | some r => .ok r | none => .integ level own)
        else fetchBlock d km v f (level + 1) (index / 64))
      match above with
      | .ok p =>
        let c := (← getS).childCounter d.n d.newTree (level + 1) (index / 64) p (index % 64)
        readBlock d km level index c.1 c.2 v
      | .integ l _ => return .integ l own
      | .media => return .media

/-- Levels that a walk can pass. -/
def treeFuel : Nat := 5

/-! ### Write-back (R321, R326) -/

/-- Open an overflow entry whose triggering child is done (R323, R326). -/
def openOverflow (d : Side) (level index k : Nat) (b : Bytes) : M Unit := do
  let s ← getS
  prim (.mem { s.mem with overflows := s.mem.overflows ++
    [⟨d.n, d.newTree, level, index, blkMajor b, blkMinors b, BitVec.ofNat 64 (2 ^ k)⟩] })
  bumpMod R.MEM_OVF.COUNT
  overflowRefresh

/-- Mark a child of a block done; an entry closes when all 64 are. -/
def doneChild (n : Nat) (nt : Bool) (level index k : Nat) : M Unit := do
  let s ← getS
  prim (.mem { s.mem with overflows := (s.mem.overflows.map fun o =>
    if o.region = n ∧ o.newTree = nt ∧ o.level = level ∧ o.index = index then
      { o with done := o.done ||| BitVec.ofNat 64 (2 ^ k) } else o).filter fun o => o.done ≠ BitVec.allOnes 64 })
  overflowRefresh

/-- A major has reached 2^47 (R327). -/
def majorHigh (n major : Nat) : M Unit := do
  if 2 ^ 47 ≤ major then
    wr (R.MEMRGN_STAT.MAJOR_HIGH n) 1
    setCond E.MEM.MAJOR_HIGH true

/-- The counter that child `k` of a block takes next, and the block after it; `none` where the major is exhausted (R321,
R323, R324, R327). -/
def nextCounter (d : Side) (level index k : Nat) (b : Bytes) : M (Option (Nat × Nat × Bytes)) := do
  if ((← getS).overflowsOf d.n d.newTree level index).any fun o => !o.done.getLsbD k then
    doneChild d.n d.newTree level index k
    return some (blkMajor b, blkMinor b k, b)
  else if blkMinor b k < 63 then
    return some (blkMajor b, blkMinor b k + 1, blkSet b k (blkMinor b k + 1))
  else if blkMajor b = 2 ^ 48 - 1 then return none
  else
    openOverflow d level index k b
    majorHigh d.n (blkMajor b + 1)
    return some (blkMajor b + 1, 0, blkOverflow b)

/-- Write a block to its places (R321). -/
def storeBlock (d : Side) (level index : Nat) (b : Bytes) : M Unit := do
  putLine (d.blockAddr level index) b
  if 1 ≤ level ∧ d.c.mirrored then putLine (d.mirrorAddr level index) b

/-- All 32 overflow entries are open, and child `k` of a block would need another (R325). -/
def State.overflowHeld (s : State) (d : Side) (level index k : Nat) (b : Bytes) : Bool :=
  decide (32 ≤ s.mem.overflows.length) && decide (63 ≤ blkMinor b k)
    && !(s.overflowsOf d.n d.newTree level index).any fun o => !o.done.getLsbD k

/-- Write a dirty block back, under its parent's next counter; while a bank of the cache is fenced, what becomes dirty is
written through (R330). A block whose parent would need a 33rd overflow entry stays dirty (R325). The first argument bounds
the levels. -/
def writeBack (d : Side) (km : Bytes) (v : MemView) : Nat → Nat → Nat → M Unit
  | 0, _, _ => pure ()
  | f + 1, level, index => do
    let s ← getS
    match s.cached false d.n d.newTree level index with
    | none => pure ()
    | some l =>
      let above : BlockRes ← (if level = d.top then
        return (match s.root' d.n d.newTree with | some r => .ok r | none => .media)
        else fetchBlock d km v treeFuel (level + 1) (index / 64))
      match above with
      | .ok p =>
        if (← getS).overflowHeld d (level + 1) (index / 64) (index % 64) p then return ()
        match ← nextCounter d (level + 1) (index / 64) (index % 64) p with
        | none => pure ()
        | some (major, minor, p2) =>
          if level = d.top then setRoot d.n d.newTree p2
          else putCache false ⟨d.n, d.newTree, level + 1, index / 64, p2, true⟩
          laneWork 2 1
          let b := l.data.take 56 ++ blkMac km level index major minor l.data
          storeBlock d level index b
          putCache false { l with data := b, dirty := false }
          if level ≠ d.top ∧ (← getS).banks false < 2 then writeBack d km v f (level + 1) (index / 64)
      | _ => pure ()

/-- Store a block that an update has made dirty. -/
def dirtyBlock (d : Side) (km : Bytes) (v : MemView) (level index : Nat) (b : Bytes) : M Unit := do
  putCache false ⟨d.n, d.newTree, level, index, b, true⟩
  if (← getS).banks false < 2 then writeBack d km v treeFuel level index

/-! ### Tags (R319, R341) -/

def Side.tagAddr (d : Side) (index : Nat) : Nat := d.c.metaAddr * 4096 + 64 * index

/-- Fetch a tag line. One that cannot be read makes its 8 lines fail as media failures. -/
def fetchTags (d : Side) (index : Nat) (v : MemView) : M Bytes := do
  let s ← getS
  match s.cached true d.n d.newTree 0 index with
  | some l =>
    bumpMod R.MEMCACHE_TAG_HIT.COUNT
    putCache true l
    return l.data
  | none =>
    bumpMod R.MEMCACHE_TAG_MISS.COUNT
    let (e, b) := memLine v (d.tagAddr index)
    if e = .ok then
      putCache true ⟨d.n, d.newTree, 0, index, b, false⟩
      return b
    else
      let span := d.c.baseAddr + 512 * index
      if !s.mediaSpan span then
        if !(← addMedia span (BitVec.allOnes 8)) then
          raise E.MEM.MEDIA_FULL
          regionFault d.n
      putCache true ⟨d.n, d.newTree, 0, index, zeros 64, false⟩
      return zeros 64

/-- The tag of a line. -/
def fetchTag (d : Side) (a : Nat) (v : MemView) : M Bytes := do
  let t ← fetchTags d (d.lineOf a / 8) v
  return slice t (8 * (d.lineOf a % 8)) 8

/-- Write a dirty tag line back, unless a line of its span still fails. -/
def writeTags (d : Side) (index : Nat) : M Unit := do
  let s ← getS
  match s.cached true d.n d.newTree 0 index with
  | none => pure ()
  | some l =>
    if l.dirty ∧ !s.mediaSpan (d.c.baseAddr + 512 * index) then
      putLine (d.tagAddr index) l.data
      putCache true { l with dirty := false }

/-- A line's tag replaced in its tag line, which becomes dirty; its bit in the media table clears. -/
def storeTag (d : Side) (a : Nat) (tag : Bytes) (v : MemView) : M Unit := do
  let i := d.lineOf a / 8
  let k := d.lineOf a % 8
  let t ← fetchTags d i v
  clearMedia a
  putCache true ⟨d.n, d.newTree, 0, i, t.take (8 * k) ++ padTo 8 tag ++ t.drop (8 * k + 8), true⟩
  if (← getS).banks true < 2 then writeTags d i

/-! ### Lines -/

/-- A line read and verified: its plaintext, or how it fails with what it decrypts to. -/
inductive LineRes where
  | good (pt : Bytes)
  /-- its tag does not match -/
  | tag (pt : Bytes)
  /-- the block at a level above it fails its MAC -/
  | block (level : Nat) (pt : Bytes)
  | media

/-- Read a line under a side's construction (R311 to R316, R320). `bad`: the controller has reported its data
uncorrectable. `ctr`: its counter, where a transaction has fixed it. -/
def readLine (d : Side) (k km : Bytes) (a : Nat) (bad : Bool) (v : MemView) (ctr : Option (Nat × Nat) := none) :
    M LineRes := do
  let (e, ct) := memLine v a
  let fails := bad || decide (e ≠ .ok)
  if d.c.mode = mdConf then
    if fails ∨ (← getS).mediaBit a then return .media else return .good (lineXts k false a ct)
  else if d.c.mode = mdTag then
    let t ← fetchTag d a v
    if fails ∨ (← getS).mediaBit a then return .media
    else if tagTag km a ct = t then return .good (lineXts k false a ct)
    else return .tag (lineXts k false a ct)
  else
    let ch := d.chunk a
    let j := d.lineOf a % 64
    let r ← fetchBlock d km v treeFuel 0 ch
    let dec (b : Bytes) : M (Nat × Nat × Bytes) := do
      let c := ctr.getD ((← getS).childCounter d.n d.newTree 0 ch b j)
      return (c.1, c.2, lineCtr k d.n a c.1 c.2 ct)
    match r with
    | .media => return .media
    | .integ l b =>
      if fails then return .media
      else
        let (_, _, pt) ← dec b
        return .block l pt
    | .ok b =>
      let t ← fetchTag d a v
      let (major, minor, pt) ← dec b
      if fails ∨ (← getS).mediaBit a then return .media
      else if treeTag km a major minor ct = t then return .good pt
      else return .tag pt

/-- The ciphertext and tag of a line under a side, with the counter it takes. -/
inductive SealRes where
  | ok (ct tag : Bytes) (major minor : Nat)
  | block (level : Nat)
  | media
  /-- the major counter is exhausted (R327) -/
  | exhausted

/-- Take the next counter of a TREE line (R321), with the one that stood; none where the mode has no counters. Once a write of a block
has found its major exhausted, every later write `request` to the block's lines is refused too (R327). -/
def takeCounter (d : Side) (km : Bytes) (a : Nat) (v : MemView) (request : Bool := true) :
    M (Option (Nat × Nat) × TreeCtr) := do
  if d.c.mode ≠ mdTree then return (none, .unset)
  else
    let ch := d.chunk a
    match ← fetchBlock d km v treeFuel 0 ch with
    | .media => return (none, .media)
    | .integ l _ => return (none, .block l)
    | .ok b =>
      let s ← getS
      let old := s.childCounter d.n d.newTree 0 ch b (d.lineOf a % 64)
      if request && s.mem.spent.contains (d.n, d.newTree, ch) then return (some old, .exhausted)
      match ← nextCounter d 0 ch (d.lineOf a % 64) b with
      | none =>
        prim (.mem { s.mem with spent := (d.n, d.newTree, ch) :: s.mem.spent })
        return (some old, .exhausted)
      | some (major, minor, b2) =>
        dirtyBlock d km v 0 ch b2
        return (some old, .ok major minor)

/-- Encrypt a line under the counter that it has taken. -/
def sealUnder (d : Side) (k km : Bytes) (a : Nat) (pt : Bytes) (c : TreeCtr) : SealRes :=
  if d.c.mode = mdConf then .ok (lineXts k true a pt) [] 0 0
  else if d.c.mode = mdTag then
    let ct := lineXts k true a pt
    .ok ct (tagTag km a ct) 0 0
  else match c with
    | .ok major minor =>
      let ct := lineCtr k d.n a major minor pt
      .ok ct (treeTag km a major minor ct) major minor
    | .block l => .block l
    | .exhausted => .exhausted
    | .media | .unset => .media

/-- Re-encrypt a line of an overflowed block under its next counter. -/
def sealLine (d : Side) (k km : Bytes) (a : Nat) (pt : Bytes) (v : MemView) : M SealRes := do
  return sealUnder d k km a pt (← takeCounter d km a v false).2

/-- Write an encrypted line downstream, and place its tag. -/
def storeLine (d : Side) (a : Nat) (ct tag : Bytes) (v : MemView) : M Unit := do
  putLine a ct
  if 2 ≤ d.c.mode then storeTag d a tag v else clearMedia a

/-- Merge strobed bytes into a line. -/
def mergeBytes (strb : BitVec 64) (old new : Bytes) : Bytes :=
  (List.range 64).map fun i => if strb.getLsbD i then new.getD i 0 else old.getD i 0

end Sys2Proof.Machine
end

