-- ==== Sys2Proof/Machine/LaneOps.lean ====
section
/-! DEFINITION. The blocks that an accepted item gives to a lane, in order: their keys, inputs and what the tag unit takes of their
results (R19, R104 to R106, R114, R157, R224, R225, R310 to R316, R473). They follow from what acceptance fixed; a lane item
only counts them. -/
namespace Sys2Proof.Machine
open Sys2Proof

/-! ### One block -/

/-- A key as the lane's read port gives it (R102): cipher key, inverse start key, and the bank, which names the entry of the
subkey cache. -/
structure LaneKey where
  key : Bytes := []
  start : Bytes := []
  ref : Option KeyRef := none

/-- The bank that an item holds. -/
def State.laneKey (s : State) (k : Option KeyRef) : LaneKey := match k.bind s.bankOf with
  | some b => ⟨b.material, b.start, k⟩
  | none => {}

/-- The data key and the tweak key of an XTS pair. -/
def LaneKey.data (k : LaneKey) : LaneKey := { k with key := k.key.take (k.key.length / 2) }
def LaneKey.twk (k : LaneKey) : LaneKey := { key := k.key.drop (k.key.length / 2) }

/-- A block of an item. `none` where its input is not present (R114). -/
structure LaneOp where
  k : LaneKey
  inv : Bool := false
  /-- the input block, from the item's own earlier results where it takes them -/
  inp : LaneItem → Option Bytes
  tweak : LaneItem → Bytes := fun _ => []
  /-- what O1 XORs to the result -/
  post : Option Bytes := some []
  /-- bytes of the result that count -/
  len : Nat := 16
  /-- what the tag unit takes of its result -/
  fold : Bytes → FoldOf := fun _ => .nothing
  /-- later blocks of the item take its result -/
  feeds : Bool := false
  /-- it computes H, or L, which the lane may hold already (R104, R105) -/
  sub : Bool := false
  /-- results that the other half must have handed over -/
  needs : Nat := 0
  /-- a block of an encrypting half for which a slot is reserved (R114) -/
  linked : Bool := false

/-- A run of blocks: how many, and the `j`-th of them, where the first is block `base` of its item. -/
structure LaneSeg where
  n : Nat
  op : Nat → Nat → LaneOp

/-- The blocks of an item, and block `i`. -/
def segsLen (l : List LaneSeg) : Nat := (l.map (·.n)).sum

def segOp : List LaneSeg → Nat → Nat → Option LaneOp
  | [], _, _ => none
  | g :: r, base, i => if i < g.n then some (g.op base i) else segOp r (base + g.n) (i - g.n)

/-! ### Modes (R15, R104, R105) -/

/-- H = L = AES_K(0). -/
def subSeg (k : LaneKey) : LaneSeg := ⟨1, fun _ _ => { k := k, inp := fun _ => some (zeros 16), fold := .sub, sub := true }⟩

/-- AES_K(J0), with the blocks that are folded before the first data block; it waits until they are `ready`. -/
def maskSeg (k : LaneKey) (iv : Bytes) (first : List Bytes) (ready : Bool := true) (needs : Nat := 0) : LaneSeg :=
  ⟨1, fun _ _ => { k := k, inp := fun _ => if ready then some (iv ++ beBytes 4 1) else none, fold := fun r => .mask r first,
                   needs := needs }⟩

/-- The blocks of data that stand in full: all of them once the data is `whole`. -/
def blockCount (whole : Bool) (len : Nat) : Nat := if whole then ceilDiv len 16 else len / 16

/-- Counter mode: counter block `j`, over data that is known or not. -/
def ctrSeg (k : LaneKey) (ctr : Nat → Bytes) (n : Nat) (data : Option Bytes) : LaneSeg :=
  ⟨n, fun _ j => { k := k, inp := fun _ => some (ctr j), post := data.map fun b => slice b (16 * j) 16,
                   len := match data with | some b => min 16 (b.length - 16 * j) | none => 16 }⟩

/-- The data blocks of GCM: the tag unit folds the ciphertext. -/
def gcmSeg (k : LaneKey) (iv : Bytes) (enc : Bool) (n : Nat) (data : Option Bytes) : LaneSeg :=
  let g := ctrSeg k (fun j => iv ++ beBytes 4 (j + 2)) n data
  ⟨n, fun base j =>
    let o := g.op base j
    { o with fold := fun r => .hash [padTo 16 (if enc then r.take o.len else o.post.getD [])] }⟩

/-- Linked blocks of an encrypting half: the plaintext comes over the pair link (R225). -/
def linkSeg (k : LaneKey) (ctr : Nat → Bytes) (n len : Nat) (hashed : Bool) : LaneSeg :=
  ⟨n, fun _ j =>
    let m := min 16 (len - 16 * j)
    { k := k, inp := fun _ => some (ctr j), len := m, linked := true,
      fold := fun r => if hashed then .hash [padTo 16 (r.take m)] else .nothing }⟩

/-- The chaining value that block `i` of an item takes: the result before it, or the committed one. -/
def LaneItem.prev (x : LaneItem) (i : Nat) : Bytes := if x.ctxA.index = i then x.ctxA.acc else x.fed

/-- CMAC over a message (SP 800-38B): each block takes the previous result, and the last one a subkey. -/
def cmacSeg (k : LaneKey) (msg : Option Bytes) (len : Nat) (needs : Nat := 0) : LaneSeg :=
  let n := max 1 (ceilDiv len 16)
  ⟨n, fun base j => {
    k := k, feeds := true, fold := .chain, needs := needs
    inp := fun x => match msg with
      | none => none
      | some m =>
        if x.out < base + j ∨ (j + 1 = n ∧ x.ctxA.sub = []) then none
        else
          let b := slice m (16 * j) (min 16 (m.length - 16 * j))
          let k1 := dbl128 (beNat x.ctxA.sub)
          let y := if j + 1 < n then b
            else if b.length = 16 then xorBytes b (beBytes 16 k1)
            else xorBytes (padTo 16 (b ++ [0x80])) (beBytes 16 (dbl128 k1))
          some (xorBytes y (if j = 0 then zeros 16 else x.prev (base + j))) }⟩

/-- α^j times a tweak. -/
def tweakAt (t : Bytes) : Nat → Bytes
  | 0 => t
  | j + 1 => xtsNext (tweakAt t j)

/-- XTS: the tweak block, then `n` blocks of data; with `first` the tag unit folds those blocks and the ciphertext. -/
def xtsSegs (k : LaneKey) (tw : Bytes) (enc : Bool) (n : Nat) (data : Option Bytes) (first : Option (List Bytes)) : List LaneSeg :=
  [⟨1, fun _ _ => { k := k.twk, inp := fun _ => some tw, feeds := true,
                    fold := fun _ => match first with | some l => .hash l | none => .nothing }⟩,
   ⟨n, fun base j => {
      k := k.data, inv := !enc, tweak := fun x => tweakAt x.fed j
      inp := fun x => if x.out < base then none else data.map fun b => slice b (16 * j) 16
      fold := fun r => if first.isSome then .hash [if enc then r else slice (data.getD []) (16 * j) 16] else .nothing }⟩]

/-- The block that makes a tag of the accumulator (R315). -/
def tagSeg (k : LaneKey) : LaneSeg :=
  ⟨1, fun base _ => { k := k, inp := fun x => if x.ctxA.index = base then some x.ctxA.acc else none }⟩

/-! ### Memory (R310 to R316, R108) -/

/-- The line of a transaction, read or written, under a side's construction. `pt`: the plaintext written, or nothing; DRAM's
answer is not there before the item ends, but the keystream of a TREE line needs only its counter. -/
def lineSegs (d : Side) (k m : LaneKey) (a : Nat) (enc : Bool) (pt : Option Bytes) (ctr : Option (Nat × Nat)) : List LaneSeg :=
  if d.c.mode = mdConf then xtsSegs k (lineTweak a) enc 4 pt none
  else if d.c.mode = mdTag then [subSeg m] ++ xtsSegs k (lineTweak a) enc 4 pt (some [addrBlock 3 a]) ++ [tagSeg m]
  else
    let c := ctr.getD (0, 0)
    let g : LaneSeg := ctrSeg k (lineCounter d.n a c.1 c.2) 4 (if enc then pt else some [])
    [subSeg m, maskSeg m (treeIv a c.1 c.2) [addrBlock 1 a] (ctr.isSome && (!enc || pt.isSome)),
     ⟨4, fun base j =>
       let o := g.op base j
       { o with len := 16, inp := fun x => if ctr.isSome then o.inp x else none,
                fold := fun r => if enc then .hash [r] else .nothing }⟩]

def TreeCtr.value : TreeCtr → Option (Nat × Nat)
  | .ok major minor => some (major, minor)
  | _ => none

/-- A transaction of a region that works on lines. -/
def State.memSegs (s : State) (t : MemTxn) (n : Nat) : List LaneSeg :=
  let d := t.sideOf s n
  let k := s.laneKey t.kref
  let m := s.laneKey t.mref
  if t.cipher ∨ d.c.mode = mdClear ∨ t.phase ≠ .reading then []
  else if !t.isWrite then lineSegs d k m t.line false none t.rctr
  else if t.strb = BitVec.allOnes 64 then lineSegs d k m t.line true (some t.data) t.wctr.value
  else
    (if t.mergeOld then lineSegs (t.mergeSide s n) (s.laneKey t.okref) (s.laneKey t.omref) t.line false none t.rctr
      else lineSegs d k m t.line false none t.rctr)
    ++ lineSegs d k m t.line true none t.wctr.value

/-! ### Frames (R205 to R213, R224, R225) -/

/-- Secure data of a frame under IEEE 802.1AE; `whole`: its last byte is there. -/
def ethSegs (k : LaneKey) (iv head data : Bytes) (conf enc whole : Bool) (needs : Nat := 0) : List LaneSeg :=
  if conf then
    let ready := whole || decide (48 ≤ data.length)
    [subSeg k, maskSeg k iv (blocks16z head) ready, gcmSeg k iv enc (if ready then blockCount whole data.length else 0) (some data)]
  else [subSeg k, maskSeg k iv (blocks16z (head ++ data)) whole needs]

/-- A transmit item. -/
def State.egressSegs (s : State) (n : Nat) (i : SItem) (c : AssocCopy) (e : CEntry) : List LaneSeg :=
  let v := e.valueA.toNat
  let k := s.laneKey (e.keys.getD 0 none)
  if isCan n then
    let h := i.bytes.take 12
    let p := i.bytes.drop 12
    let k2 := s.laneKey (e.keys.getD 1 none)
    let ct := if eEnc c.words then canCtr k2.key c.words h p v else p
    [subSeg k, ctrSeg k2 (canCounter c.words h v) (if eEnc c.words then ceilDiv p.length 16 else 0) (some p),
      cmacSeg k (some (canMacInput c.words h ct v)) (canMacInput c.words h ct v).length]
  else
    let data := i.bytes.drop 12
    ethSegs k (gcmIv c.words (eTxSci c.words) v) (i.bytes.take 12 ++ secTag c.words v data.length) data (eConf c.words) true
      (!i.isOpen)

/-- A receive item. -/
def State.ingressSegs (s : State) (n : Nat) (i : SItem) (c : AssocCopy) (e : CEntry) : List LaneSeg :=
  let v := e.valueA.toNat
  let k := s.laneKey (e.keys.getD 0 none)
  if isCan n then
    let p := (canPayload c.words i.bytes).getD []
    let m := canMacInput c.words i.bytes p v
    [subSeg k, cmacSeg k (some m) m.length,
      ctrSeg (s.laneKey (e.keys.getD 1 none)) (canCounter c.words i.bytes v) (if eEnc c.words then ceilDiv p.length 16 else 0) (some p)]
  else
    let h := 12 + tagLen i.bytes
    ethSegs k (gcmIv c.words (rxSci c i.bytes) v) (i.bytes.take h) ((i.bytes.drop h).take (i.bytes.length - h - 16))
      (eConf c.words) false (!i.isOpen)

/-- The blocks of a Bridle item's decrypting half whose results go over the pair link: the first, and how many. -/
def linkOf (n : Nat) (c : AssocCopy) (segs : List LaneSeg) : Nat × Nat :=
  if (if isCan n then eEnc c.words else eConf c.words) then (((segs.take 2).map (·.n)).sum, ((segs.drop 2).map (·.n)).sum)
  else (0, 0)

/-- The plaintext that a Bridle item carries over the pair link. -/
def State.linkPlain (s : State) (n : Nat) (i : SItem) (c : AssocCopy) (e : CEntry) : Bytes :=
  if isCan n then
    let p := (canPayload c.words i.bytes).getD []
    if eEnc c.words then canCtr (((s.entryKey e 1).map (·.material)).getD []) c.words i.bytes p e.valueA.toNat else p
  else s.cutPlain i c e

/-- Segments of the encrypting half over plaintext of which `skip` blocks, then `m` linked blocks, then the rest come in turn. -/
def encSegs (k : LaneKey) (ctr : Nat → Bytes) (data : Bytes) (whole hashed : Bool) (skip m : Nat) : List LaneSeg :=
  let own (from' cnt : Nat) : LaneSeg :=
    let g := ctrSeg k (fun j => ctr (from' + j)) cnt (some (data.drop (16 * from')))
    ⟨cnt, fun base j =>
      let o := g.op base j
      { o with fold := fun r => if hashed then .hash [padTo 16 (r.take o.len)] else .nothing }⟩
  [own 0 skip, linkSeg k (fun j => ctr (skip + j)) m (data.length - 16 * skip) hashed,
    own (skip + m) (blockCount whole data.length - skip - m)]

/-- The encrypting half of a Bridle frame of pair format `f` for port `out`, with its link to the decrypting half. -/
def State.halfSegs (s : State) (n out f : Nat) (i : SItem) (c oc : AssocCopy) (e : CEntry) :
    List LaneSeg × Option (Nat × Nat × Nat) :=
  let v := e.valueB.toNat
  let k := s.laneKey (e.keys.getD 2 none)
  let dec := s.ingressSegs n i c e
  let (d0, dn) := linkOf n c dec
  let plain := s.linkPlain n i c e
  let needs := if dn = 0 then 0 else d0 + dn
  if isCan out then
    let t := templateOf i.tmpl
    let (h, p) := if f = 0 then (i.bytes.take 12, plain) else (decapsulate t plain).getD ((plain.drop 4).take 12, [])
    let skip := if f = 0 then 0 else 1
    let k2 := s.laneKey (e.keys.getD 3 none)
    let enc := eEnc oc.words
    let m := if enc then min (dn - skip) (ceilDiv p.length 16) else 0
    let ct := if enc then canCtr k2.key oc.words h p v else p
    let msg := canMacInput oc.words h ct v
    ([subSeg k] ++ (if enc then encSegs k2 (canCounter oc.words h v) p true false 0 m else [])
        ++ [cmacSeg k (some msg) msg.length needs],
      if m = 0 then none else some (1, d0 + skip, m))
  else
    let t := templateOf i.tmpl
    let (addrs, data) :=
      if f = 0 then (i.bytes.take 12, plain)
      else (t.addrs, encapsulate t (i.bytes.take 12) plain (secTag oc.words v 0).length)
    let head := addrs ++ secTag oc.words v data.length
    let iv := gcmIv oc.words (eTxSci oc.words) v
    let whole := !i.isOpen
    if eConf oc.words then
      let skip := if f = 0 then 0 else 1
      let ready := whole || decide (48 ≤ data.length)
      let m := if ready then dn else 0
      ([subSeg k, maskSeg k iv (blocks16z head) ready]
          ++ (if ready then encSegs k (fun j => iv ++ beBytes 4 (j + 2)) data whole true skip m else []),
        if m = 0 then none else some (2 + skip, d0, m))
    else (ethSegs k iv head data false true whole needs, none)

/-! ### Queue descriptors and Loose operations (R157, R159, R473) -/

/-- A descriptor's blocks on its lane; its input is read when it runs. Under two passes each data block passes twice. -/
def State.descSegs (s : State) (d : QDesc) (c : CEntry) : List LaneSeg :=
  let k := s.laneKey (c.keys.getD 0 none)
  let n := ceilDiv d.len 16
  match d.opcode with
  | 0x01 => [subSeg k, maskSeg k (d.sealIv c) [], gcmSeg k (d.sealIv c) true n none]
  | 0x02 | 0x07 =>
    let iv := slice d.opdata 0 12
    [subSeg k, maskSeg k iv [], gcmSeg k iv false (if d.version = 1 then n else 2 * n) none]
  | 0x03 | 0x04 => xtsSegs k (slice d.opdata 0 16) (d.opcode = 0x03) n none none
  | 0x05 | 0x06 => [subSeg k, cmacSeg k none d.len]
  | _ => []

/-- The encrypting half of a BRIDLE descriptor. -/
def State.descHalf (s : State) (d : QDesc) (c : CEntry) : List LaneSeg :=
  let k := s.laneKey (c.keys.getD 1 none)
  let iv := d.sealIv c
  [subSeg k, maskSeg k iv [], linkSeg k (fun j => iv ++ beBytes 4 (j + 2)) (ceilDiv d.len 16) d.len true]

/-- The one block of a Loose operation (R469). -/
def looseSeg (k : LaneKey) (mode : Nat) (inp : Bytes) (st : List Bytes) : LaneSeg :=
  let sw (i : Nat) : Bytes := st.getD i (zeros 16)
  let x := if bits mode 30 29 = 0 then inp
    else if bits mode 30 29 = 1 then xorBytes inp (sw (bits mode 28 27)) else sw (bits mode 28 27)
  ⟨1, fun _ _ => { k := k, inv := mode.testBit 31, inp := fun _ => some x }⟩

/-! ### Jobs -/

/-- The lane work of an item that is accepted and not complete. -/
structure LaneJob where
  owner : LaneOwner
  order : Nat
  cls : Nat
  tenant : Nat := 0
  weight : Nat := 1
  /-- it carries a tag -/
  tagged : Bool
  link : Option (Nat × Nat × Nat) := none
  segs : List LaneSeg

/-- The jobs of a Cellar entry. -/
def State.entryJobs (s : State) (e : Nat) (c : CEntry) : List LaneJob :=
  let job (cls : Nat) (tagged : Bool) (segs : List LaneSeg) : LaneJob :=
    { owner := .entry e, order := c.order, cls := cls, tagged := tagged, segs := segs }
  if s.replayHeld e then []
  else match c.kind with
    | .memRd | .memWr => match s.txn e with
      | some t => match t.region with
        | some n => [job (if t.isWrite then 2 else 0) (decide (2 ≤ (t.sideOf s n).c.mode)) (s.memSegs t n)]
        | none => []
      | none => []
    | .egress => match s.itemOf e with
      | some (n, i) => match i.look with
        | .hit a => [job 1 true (s.egressSegs n i a c)]
        | _ => []
      | none => []
    | .ingress => match s.itemOf e with
      | some (n, i) => match i.look with
        | .hit a => [job 3 true (s.ingressSegs n i a c)]
        | _ => []
      | none => []
    | .bridle => match s.itemOf e with
      | some (n, i) => match i.look, i.outCopy, i.pair with
        | .hit a, some o, some k =>
          let (segs, link) := s.halfSegs n (s.fld (R.BRIDLE_PAIR_CFG.OUT_PORT k)) (s.fld (R.BRIDLE_PAIR_CFG.FORMAT k)) i a o c
          [job 3 true (s.ingressSegs n i a c), { job 3 true segs with owner := .half e, link := link }]
        | _, _, _ => []
      | none => []
    | .queue => match s.descOf e with
      | some (_, d) =>
        if d.onLanes ∧ d.phase = .executing then
          let j := { job 5 (d.opcode ≠ 0x03 && d.opcode ≠ 0x04) (s.descSegs d c) with tenant := d.tenant, weight := max 1 d.weight }
          if d.opcode = 0x07 then
            [j, { j with owner := .half e, cls := 3, segs := s.descHalf d c,
                         link := some (2, 2 + ceilDiv d.len 16, ceilDiv d.len 16) }]
          else [j]
        else []
      | none => []
    | .storage | .data => []

/-- The job of a Loose operation. -/
def State.looseJobs (s : State) (c : Nat) : List LaneJob := match (mget (fun _ => {}) s.loose c).busy with
  | .op k m inp st =>
    [{ owner := .loose c, order := 0, cls := 7, tagged := false, segs := [looseSeg (s.laneKey (some k)) m.toNat inp st] }]
  | _ => []

/-- Every job, in the order of acceptance. -/
def State.laneJobs (s : State) : List LaneJob :=
  ((sortOn (fun p => p.2.order) s.inUse).flatMap fun p => s.entryJobs p.1 p.2) ++ (List.range 4).flatMap s.looseJobs

end Sys2Proof.Machine
end

