-- ==== Sys2Proof/Machine/LaneWork.lean ====
section
/-! DEFINITION. The lanes at work: items opened and assigned (R113), one core clock of the four lanes (R100, R104 to R106, R111, R114,
R132, R225), work that a path's command needs at once, and lane faults (R121 to R128). -/
namespace Sys2Proof.Machine
open Sys2Proof

/-! ### Items follow the accepted work -/

/-- Fit the scheduler's items to the jobs: an item whose job is over goes, and a new job becomes an item. DESIGN CHOICE (log entry
126): an item reaches the scheduler at the first core clock or command that the lanes take after its acceptance. -/
def SchedState.fit (d : SchedState) (jobs : List LaneJob) : SchedState :=
  let old := d.items.filterMap fun x => (jobs.find? fun j => x.is j.owner j.order).map fun j =>
    { x with blocks := max x.next (segsLen j.segs), link := j.link }
  let new := (jobs.filter fun j => segsLen j.segs ≠ 0 && !d.items.any fun x => x.is j.owner j.order).map fun j =>
    { owner := j.owner, order := j.order, cls := j.cls, tenant := j.tenant, weight := j.weight, tagged := j.tagged,
      link := j.link, blocks := segsLen j.segs }
  { d with items := old ++ new }

def syncItems : M Unit := do
  let s ← getS
  let d := s.sched.fit s.laneJobs
  if d ≠ s.sched then prim (.sched d)
  assignAll

/-! ### One block: what it takes and gives -/

/-- The operation that an item enters next, or at a number. -/
def opAt (jobs : List LaneJob) (x : LaneItem) (k : Nat) : Option LaneOp :=
  (jobs.find? fun j => x.is j.owner j.order).bind fun j => segOp j.segs 0 k

/-- The block of a half that takes what decrypting block `k` hands over the pair link. -/
def linkedBlock (h : LaneItem) (k : Nat) : Option Nat := h.link.bind fun (a, b, n) =>
  if b ≤ k ∧ k < b + n then some (a + (k - b)) else none

/-- What a run of core clocks works on: the lanes, the scheduler, and the counts that it adds to. -/
structure LaneRun where
  lanes : List LaneState
  d : SchedState
  /-- slots charged to each class, blocks that left O2 of each lane, and the longest wait of each class -/
  slots : List Nat := [0, 0, 0, 0, 0, 0, 0, 0]
  blocks : List Nat := [0, 0, 0, 0]
  waits : List Nat := [0, 0, 0, 0, 0, 0, 0, 0]
  /-- clocks run -/
  clocks : Nat := 0
  /-- a lane whose injected parity error has reached S1 (R134) -/
  fault : Option Nat := none

/-- What does not change while it runs. -/
structure LaneEnv where
  jobs : List LaneJob
  classes : List ClassSet
  /-- lanes in service, and lanes whose NOISE_FILL is set -/
  serves : List Nat
  noise : List Nat

def LaneRun.lane (r : LaneRun) (l : Nat) : LaneState := r.lanes.getD l {}
def LaneRun.setLane (r : LaneRun) (l : Nat) (a : LaneState) : LaneRun := { r with lanes := r.lanes.set l a }
def LaneRun.setItem (r : LaneRun) (x : LaneItem) : LaneRun := { r with d := { r.d with items := putItem x r.d.items } }
def LaneRun.item (r : LaneRun) (o : LaneOwner) (n : Nat) : Option LaneItem := r.d.items.find? fun x => x.is o n
def LaneRun.charge (r : LaneRun) (c : Nat) : LaneRun :=
  { r with d := r.d.charge c 1, slots := r.slots.set c (r.slots.getD c 0 + 1) }

/-! ### Known-answer blocks (R120) -/

/-- A known-answer block: key, input, direction. -/
structure KnownBlock where
  key : Bytes
  inp : Bytes
  inv : Bool
  good : Bytes → Bool

/-- Bytes 0 to `n - 1`, the key of FIPS 197's examples, and their plaintext. -/
def countBytes (n : Nat) : Bytes := (List.range n).map fun i => BitVec.ofNat 8 i
def fipsPlain : Bytes := (List.range 16).map fun i => BitVec.ofNat 8 (17 * i)
def fipsC1 : Bytes := beBytes 16 0x69C4E0D86A7B0430D8CDB78070B4C55A
def fipsC3 : Bytes := beBytes 16 0x8EA2B7CA516745BFEAFC49904B496089

/-- The six. The spec names the vectors of the first four; the GHASH fold is PRESUMED the first of the GCM specification's test
case 2, and the subkey derivation that of SP 800-38B's examples (log entry 127). -/
def knownBlocks : List KnownBlock :=
  [⟨countBytes 16, fipsPlain, false, (· = fipsC1)⟩, ⟨countBytes 16, fipsC1, true, (· = fipsPlain)⟩,
   ⟨countBytes 32, fipsPlain, false, (· = fipsC3)⟩, ⟨countBytes 32, fipsC3, true, (· = fipsPlain)⟩,
   ⟨zeros 16, zeros 16, false, fun h =>
      ghash h [beBytes 16 0x0388DACE60B6A392F328C2B971B2FE78] = beBytes 16 0x5E2EC746917062882C85B0685353DEB7⟩,
   ⟨beBytes 16 0x2B7E151628AED2A6ABF7158809CF4F3C, zeros 16, false, fun l =>
      beBytes 16 (dbl128 (beNat l)) = beBytes 16 0xFBEED618357133667C85E08F7236A8DE⟩]

/-! ### Leaving O2 (R104 to R106, R135, R225) -/

/-- A context with a fold committed. -/
def LaneCtx.take (c : LaneCtx) (v : FoldOf) : LaneCtx :=
  let hash (l : List Bytes) : Bytes := match l with
    | [] => c.acc
    | b :: r => ghash c.sub (xorBytes c.acc b :: r)
  match v with
  | .nothing => { c with index := c.index + 1 }
  | .hash l => { c with index := c.index + 1, acc := hash l }
  | .sub b => { c with index := c.index + 1, sub := b }
  | .mask b l => { c with index := c.index + 1, mask := b, acc := hash l }
  | .chain b => { c with index := c.index + 1, acc := b }

/-- The folds of a lane after a clock: those four clocks old are committed in both copies. A block whose fold stands in the context
already, because the item went back for other blocks, is not folded again. -/
def LaneRun.commitFolds (r : LaneRun) (l : Nat) : LaneRun :=
  let a := r.lane l
  let folds := a.folds.map fun f => { f with age := f.age + 1 }
  let r1 := r.setLane l { a with folds := folds.filter fun f => f.age < 4 }
  (folds.filter fun f => 4 ≤ f.age).foldl (fun r f => match r.item f.owner f.order with
    | some x =>
      if x.ctxA.index = f.index then r.setItem { x with ctxA := x.ctxA.take f.value, ctxB := x.ctxB.take f.value } else r
    | none => r) r1

/-- Hand plaintext to the slot that is reserved for a block of a half, on whichever lane. -/
def LaneRun.carry (r : LaneRun) (h : LaneItem) (k : Nat) (b : Bytes) : LaneRun :=
  let put (y : LaneSlot) : LaneSlot := if (h.is y.owner y.order) ∧ y.index = k then { y with carry := some b } else y
  { r with lanes := r.lanes.map fun a => { a with slots := a.slots.map put } }

/-- A block leaves O2 of a lane: its result goes to its path, to the tag unit and over the pair link. -/
def LaneRun.exit (v : LaneEnv) (r : LaneRun) (l : Nat) (b : LaneBlock) : LaneRun :=
  let a := r.lane l
  match b.what with
  | .fill => r.setLane l { a with noise := some b.st }
  | .known i =>
    let ok := match knownBlocks[i]? with
      | some w => w.good b.st
      | none => true
    { r.setLane l { a with katGood := a.katGood && ok } with blocks := r.blocks.set l (r.blocks.getD l 0 + 1) }
  | .item o n k =>
    let r := { r with blocks := r.blocks.set l (r.blocks.getD l 0 + 1) }
    match r.item o n with
    | none => r
    | some x => match opAt v.jobs x k with
      | none => r
      | some p =>
        let r1 := r.setItem { x with
          out := k + 1, released := max x.released (k + 1), fed := if p.feeds then b.st else x.fed }
        let r2 := if x.tagged then r1.setLane l { a with
            folds := a.folds ++ [⟨0, o, n, k, p.fold b.st⟩]
            subkeys := match p.sub, p.k.ref with
              | true, some q => ((q, b.st) :: a.subkeys.filter fun y => y.1 ≠ q).take 256
              | _, _ => a.subkeys } else r1
        match (partnerOf r.d.items x).bind fun h => (linkedBlock h k).map fun j => (h, j) with
        | some (h, j) => r2.carry h j (b.st.take p.len)
        | none => r2

/-- A lane's pipeline and tag units move on by one clock. -/
def LaneRun.shift (v : LaneEnv) (r : LaneRun) (l : Nat) : LaneRun :=
  let a := r.lane l
  let r1 := r.setLane l { a with
    pipe := (a.pipe.filter fun p => p.1 + 1 < laneStages).map fun p => (p.1 + 1, p.2.stage (p.1 + 1))
    slots := a.slots.map fun y => { y with due := y.due - 1 } }
  let r2 := (a.pipe.filter fun p => laneStages ≤ p.1 + 1).foldl (fun r p => r.exit v l p.2) (r1.commitFolds l)
  if (r2.lane l).pipe.any fun p => p.1 = 2 && p.2.bad then { r2 with fault := some l } else r2

/-! ### Entering E0 (R111, R113, R114, R132, R169) -/

/-- The blocks of an item that its lane has the result of already: H or L in the subkey cache (R104, R105). -/
def LaneItem.cached (x : LaneItem) (a : LaneState) (p : LaneOp) : Option Bytes :=
  if p.sub ∧ x.tagged then p.k.ref.bind fun q => (a.subkeys.find? fun y => y.1 = q).map (·.2) else none

/-- An item at the block that it has to enter. -/
def LaneItem.skipped (x : LaneItem) (a : LaneState) (jobs : List LaneJob) : LaneItem :=
  match (opAt jobs x x.next).bind fun p => x.cached a p with
  | some h =>
    if x.ctxA.index = x.next then
      { x with next := x.next + 1, out := x.next + 1, released := max x.released (x.next + 1),
               ctxA := x.ctxA.take (.sub h), ctxB := x.ctxB.take (.sub h) }
    else x
  | none => x

/-- A block of an item that is not reserved is ready (R114): its input is there, and the slot of the block that takes its result can
be reserved. -/
def LaneRun.ready (v : LaneEnv) (r : LaneRun) (x : LaneItem) (k : Nat) : Bool := match opAt v.jobs x k with
  | none => false
  | some p =>
    let other := partnerOf r.d.items x
    (p.inp x).isSome && p.post.isSome && !p.linked
      && (match other with | some y => decide (p.needs ≤ y.out) || y.done | none => true)
      && (match other.bind fun h => (linkedBlock h k).map fun j => (h, j) with
        | some (h, j) => decide (j < h.next) || (match h.lane with
          | some m => v.serves.contains m && decide (j = h.next + ((r.lane m).slots.filter fun y => h.is y.owner y.order).length)
          | none => false)
        | none => true)

/-- Blocks of an item that are ready and have not entered. -/
def LaneRun.readyCount (v : LaneEnv) (r : LaneRun) (x : LaneItem) : Nat :=
  if x.done ∨ x.lane.isNone then 0
  else ((List.range (x.blocks - x.next)).takeWhile fun j => r.ready v x (x.next + j)).length

/-- The items of a lane whose next block may be picked. -/
def LaneRun.waiting (v : LaneEnv) (r : LaneRun) (l : Nat) : List LaneItem :=
  r.d.items.filter fun x => x.lane = some l && !x.done && decide (x.next < x.blocks) && r.ready v x x.next

/-- The item of a list that has waited longest, the oldest first. -/
def oldest : List LaneItem → Option LaneItem
  | [] => none
  | x :: r => match oldest r with
    | some y => if y.since.any fun b => x.since.all fun a => decide (b < a) then some y else some x
    | none => some x

/-- The tenant whose turn a class 5 slot is (R169): a tenant takes as many slots in its turn as its weight, then the next one that has
lane work ready. -/
def SchedState.tenant (d : SchedState) (l : List LaneItem) : Option LaneItem :=
  let of (t : Nat) : Option LaneItem := oldest (l.filter fun x => x.tenant = t)
  let next : Option LaneItem := ((List.range 8).map fun k => (d.lastTenant + 1 + k) % 8).findSome? of
  if 0 < d.tenantLeft then (of d.lastTenant).orElse fun _ => next else next

/-- A slot has gone to an item of class 5. -/
def SchedState.served (d : SchedState) (x : LaneItem) : SchedState :=
  if x.tenant = d.lastTenant ∧ 0 < d.tenantLeft then { d with tenantLeft := d.tenantLeft - 1 }
  else { d with lastTenant := x.tenant, tenantLeft := x.weight - 1 }

/-- A block enters E0 of a lane; a parity error that LANE_CMD.INJECT ordered goes with it (R134). -/
def LaneRun.enter (r : LaneRun) (l : Nat) (b : LaneBlock) : LaneRun :=
  let a := r.lane l
  r.setLane l { a with pipe := a.pipe ++ [(0, { b with bad := a.inject })], inject := false }

/-- The next block of an item enters, charged to a class; where its result goes over the pair link, the slot for it is reserved. -/
def LaneRun.enterItem (v : LaneEnv) (r : LaneRun) (l c : Nat) (x : LaneItem) (carry : Bytes) : LaneRun :=
  match opAt v.jobs x x.next with
  | none => r
  | some p =>
    let b := enterE0 (.item x.owner x.order x.next) p.k.key p.k.start p.inv ((p.inp x).getD []) (p.tweak x) (p.post.getD []) carry false
    let w := match x.since with | some t => r.d.clock - t | none => 0
    let r1 := ((r.enter l b).setItem { x with next := x.next + 1, since := none }).charge c
    let r2 := { r1 with waits := r1.waits.set c (max w (r1.waits.getD c 0)) }
    match (partnerOf r.d.items x).bind fun h => (linkedBlock h x.next).map fun j => (h, j) with
    | some (h, j) => match h.lane with
      | some m =>
        if j < h.next then r2
        else r2.setLane m { r2.lane m with slots := (r2.lane m).slots ++ [⟨laneStages, h.owner, h.order, j, none⟩] }
      | none => r2
    | none => r2

/-- The slot of a lane that is due now, with the block that it was reserved for. -/
def LaneRun.due (r : LaneRun) (l : Nat) : Option (LaneItem × Bytes) :=
  (r.lane l).slots.findSome? fun y => match y.carry with
    | some b => if y.due = 0 then ((r.item y.owner y.order).filter fun x => x.next = y.index && !x.done).map fun x => (x, b) else none
    | none => none

/-- Noise fill (R132). -/
def LaneRun.fill (v : LaneEnv) (r : LaneRun) (l : Nat) : LaneRun :=
  if v.noise.contains l then
    let k := beBytes 16 (Config.fillKey ((r.lane l).noise.map fun b => BitVec.ofNat 128 (beNat b))).toNat
    r.enter l (enterE0 .fill k [] false (beBytes 16 Config.fillBlock.toNat) [] [] [] false)
  else r

/-- The slot of a lane in this clock (R111). -/
def LaneRun.grant (v : LaneEnv) (r0 : LaneRun) (l : Nat) : LaneRun :=
  let a := r0.lane l
  let items := r0.d.items.map fun x => if x.lane = some l ∧ !x.done then x.skipped a v.jobs else x
  let r := { r0 with d := { r0.d with items := items } }
  let drop (r : LaneRun) : LaneRun :=
    r.setLane l { r.lane l with slots := (r.lane l).slots.filter fun y => y.due ≠ 0 }
  let known : Option LaneRun := (knownBlocks[6 - a.katLeft]?).map fun w =>
    ((r.enter l (enterE0 (.known (6 - a.katLeft)) w.key (startKey w.key) w.inv w.inp [] [] [] false)).charge 7)
  let test : Option LaneRun := if a.kat.isSome ∧ 0 < a.katLeft then
      known.map fun r => drop (r.setLane l { r.lane l with katLeft := a.katLeft - 1 }) else none
  if v.serves.contains l then
    match r.due l with
    | some (x, b) => drop (r.enterItem v l 3 x b)
    | none =>
      let w := r.waiting v l
      match oldest (w.filter fun x => decide (x.next < x.replayTo)) with
      | some x => drop (r.enterItem v l x.cls x [])
      | none => match test with
        | some r => r
        | none => match r.d.pick v.classes v.serves.length fun c => w.any fun x => x.cls = c with
          | some (c, d) =>
            let of := w.filter fun x => x.cls = c
            match (if c = 5 then d.tenant of else oldest of) with
            | some x => drop (LaneRun.enterItem v { r with d := if c = 5 then d.served x else d } l c x [])
            | none => drop r
          | none => drop (r.fill v l)
  else test.getD r

/-- The blocks that have just become ready begin to wait. -/
def LaneRun.mark (v : LaneEnv) (r : LaneRun) : LaneRun :=
  let starts (x : LaneItem) : Bool :=
    x.since.isNone && x.lane.isSome && !x.done && decide (x.next < x.blocks) && r.ready v x x.next
  let items := r.d.items.map fun x => if starts x then { x with since := some r.d.clock } else x
  { r with d := { r.d with items := items } }

/-- One core clock of the lanes. -/
def LaneRun.clock (v : LaneEnv) (r : LaneRun) : LaneRun :=
  let r1 := (List.range 4).foldl (LaneRun.shift v) r
  if r1.fault.isSome then { r1 with clocks := r1.clocks + 1 }
  else
    let r2 := (List.range 4).foldl (LaneRun.grant v) (r1.mark v)
    { r2 with d := { r2.d with clock := r2.d.clock + 1 }, clocks := r2.clocks + 1 }

/-- At most so many clocks, until something has happened or an injected error has shown. -/
def LaneRun.run (v : LaneEnv) (stop : LaneRun → Bool) : Nat → LaneRun → LaneRun
  | 0, r => r
  | n + 1, r => if stop r ∨ r.fault.isSome then r else LaneRun.run v stop n (r.clock v)

/-! ### Lane faults (R121, R122, R128) -/

/-- A lane fault. Until its test ends the affected items wait; KAT_COMPLETE moves them (R121). INJECT that waits for a block goes with
what it would have gone into, and MULTI_LANE is raised on the lane that faults second: DESIGN CHOICES (log entry 124). -/
def laneFault (l stage cause : Nat) : M Unit := do
  let s ← getS
  let st ← stamp
  let t := s.now.toNat
  wr (R.LANE_FAULT_STAT.STAGE l) stage
  wr (R.LANE_FAULT_STAT.LAST_CAUSE l) cause
  wr (R.LANE_LAST_FAULT_TS.TS l) st.ts.toNat
  voidLane l false
  katBegin l .fault
  raiseNamed (E.LANE.PARITY l) 0x0021 [lanePayload l stage cause] .immediate
  let (_, lasting) ← countGust (0x08 + l) (s.fld (R.LANE_CFG.GUST_LIMIT l)) (s.fld (R.LANE_CFG.GUST_WIN_MS l))
  modLane l fun x => { x with inject := false, faultAt := some t, lasting := lasting }
  laneRefresh
  if (List.range 4).any fun k => k ≠ l && (match (s.lane k).faultAt with | some u => decide (t < u + 1000) | none => false) then
    raise (E.LANE.MULTI_LANE l) .immediate
    tamperEvent srcLaneGlitch

/-! ### Clocks that commands and ticks run -/

/-- Something is in a lane, or would enter one. -/
def State.lanesBusy (s : State) : Bool :=
  (List.range 4).any fun l =>
    let a := s.lane l
    !a.pipe.isEmpty || !a.folds.isEmpty || !a.slots.isEmpty || decide (a.katLeft ≠ 0)
      || (s.inService l && (decide (s.fld (R.LANE_CFG.NOISE_FILL l) = 1) || s.sched.items.any fun x => x.lane = some l && !x.done))

/-- The surroundings of a run. -/
def State.laneEnv (s : State) : LaneEnv :=
  { jobs := s.laneJobs, classes := s.classes, serves := (List.range 4).filter s.inService,
    noise := (List.range 4).filter fun l => s.fld (R.LANE_CFG.NOISE_FILL l) = 1 }

/-- Where a run stands before its first clock. -/
def State.laneRun (s : State) : LaneRun := { lanes := (List.range 4).map s.lane, d := s.sched }

/-- Run the lanes for at most `n` core clocks, until `stop`, and count what has happened. The answer is the clocks run; none do while
the lanes have nothing to do. -/
def laneClocks (n : Nat) (stop : LaneRun → Bool) : M Nat := do
  syncItems
  let s ← getS
  if !s.lanesBusy then return 0
  else
    let v := s.laneEnv
    let r := LaneRun.run v stop n s.laneRun
    forM (List.range 4) fun l => do
      if r.lane l ≠ s.lane l then prim (.lane l (r.lane l))
      countBlocks l (r.blocks.getD l 0)
    prim (.sched r.d)
    prim (.time { s.time with clk := s.time.clk + r.clocks })
    forM (List.range 8) fun c => do
      let k := r.slots.getD c 0
      if k ≠ 0 then wr (R.SCHED_SLOTS.COUNT c) ((← rd (R.SCHED_SLOTS.COUNT c)) + k)
      wr (R.SCHED_WAIT.WAITING c)
        (min 65535 (((r.d.items.filter fun x => x.cls = c).map (r.readyCount v)).sum))
      wrMax (R.SCHED_WAIT.MAX_WAIT_NS c) (r.waits.getD c 0)
    match r.fault with
    | some l => laneFault l 2 0x7
    | none => pure ()
    return r.clocks

/-! ### Work that a path's command needs at once -/

/-- The blocks of an item that have not left O2 pass through its lane now, and its work is done: `true` if it has none, or its lane is
in service; else the item waits (R117, R129). DESIGN CHOICE (log entry 125): a command of a path that needs an item's results stands
for the time that they take. -/
def finishWork (o : LaneOwner) : M Bool := do
  syncItems
  let s ← getS
  match s.sched.items.find? fun x => x.owner = o with
  | none => return true
  | some x =>
    if x.done then return true
    match x.lane with
    | none => return false
    | some l =>
      if !s.inService l then return false
      let a := s.lane l
      let y := x.skipped a s.laneJobs
      countSlots y.cls (y.blocks - y.next)
      countBlocks l ((y.blocks - y.next) + (a.pipe.filter fun p => (p.2.of x).isSome).length)
      modLane l fun z => { z.without x 0 with folds := z.folds.filter fun f => !x.is f.owner f.order }
      match (opAt s.laneJobs y y.next).bind fun p => if p.sub then p.k.ref.map fun q => (q, aesEnc p.k.key (zeros 16)) else none with
      | some q => modLane l fun z => { z with subkeys := (q :: z.subkeys.filter fun w => w.1 ≠ q.1).take 256 }
      | none => pure ()
      modItems (putItem { y with done := true, next := y.blocks, out := y.blocks, released := y.blocks })
      assignAll
      return true

end Sys2Proof.Machine
end

