-- ==== Sys2Proof/Machine/MemCmds.lean ====
section
/-! DEFINITION. Transactions on the memory ports (R40 to R46, R306 to R309, R333 to R348, R363). -/
namespace Sys2Proof.Machine
open Sys2Proof

/-! ### Requests (R41 to R43) -/

/-- A write request's data and strobes placed in its line; unstrobed bytes are zero (R573). -/
def placeData (addr : Nat) (two : Bool) (data : Bytes) (strb : BitVec 64) : Bytes × BitVec 64 :=
  let st : BitVec 64 := if two then strb else (strb &&& BitVec.ofNat 64 (2 ^ 32 - 1)) <<< (addr % 64)
  let b := if two then padTo 64 data else if addr % 64 = 32 then zeros 32 ++ padTo 32 data else padTo 32 data ++ zeros 32
  (mergeBytes st (zeros 64) b, st)

/-- Its master class. -/
def MemTxn.cls (t : MemTxn) : Nat := t.attr.toNat % 4

/-- The request is one that Otist serves: aligned, and not of class 0b11 (R41). -/
def MemTxn.aligned (t : MemTxn) : Bool := decide (t.addr % (if t.two then 64 else 32) = 0 ∧ t.cls ≠ 3)

/-- Regions ACTIVE or DRAINING: MEMLOGIC is on (R306). -/
def State.memOn (s : State) : Bool := (List.range 16).any fun n => s.rgnState n = pgActive || s.rgnState n = pgDraining

/-- A region, not OFF, with the address in a metadata or mirror area. -/
def State.metaAt (s : State) (a : Nat) : Option Nat :=
  (List.range 16).find? fun n => decide (s.rgnState n ≠ pgOff) && (s.metaAreas n).any fun r => inRange r a

/-- An address in a park area while an image of it is held (R454, R522): a key park image, a lookup image, or records of a
segment that is not AWAKE. -/
def State.parkAt (s : State) (a : Nat) : Bool :=
  (s.keys.park.isSome && inRange (s.fld R.KEYS_PARK_BASE.ADDR * 4096, 172 * 1024) a)
    || ((s.power.lookupImage || decide (s.fld R.POWER_SEG_STAT.STATE ≠ 0))
      && inRange (s.fld R.POWER_PARK_BASE.ADDR * 4096, 0x620 * 4096) a)

/-- A region with BAD set that covers the address with its data range. -/
def State.badAt (s : State) (a : Nat) : Bool :=
  (List.range 16).any fun n => decide (s.rgnState n ≠ pgOff ∧ s.fld (R.MEMRGN_CTL.BAD n) = 1) && inRange (s.dataRange n) a

/-- The region, ACTIVE or DRAINING, that covers the address. -/
def State.servedAt (s : State) (a : Nat) : Option Nat :=
  (List.range 16).find? fun n => (s.rgnState n = pgActive || s.rgnState n = pgDraining) && inRange (s.dataRange n) a

/-- The code of the right of a transaction's class (R346, R347). -/
def State.right (s : State) (n : Nat) (t : MemTxn) : Nat :=
  if t.cls = 0 then 3
  else
    let r := if t.cls = 1 then s.fld (R.MEMRGN_CFG.DBG_RIGHT n) else s.fld (R.MEMRGN_CFG.DMA_RIGHT n)
    if t.cls = 1 ∧ 2 ≤ r ∧ s.fld R.KEYS_LC.STATE = 2 ∧ !s.bnd.dbgAuth then 1 else r

/-- A transaction with the same TID is in flight: its response comes first (R42). -/
def State.tidBusy (s : State) (t : MemTxn) : Bool :=
  s.mem.txns.any fun p => match p.2 with | some x => x.tid = t.tid | none => false

/-- No transaction accepted earlier has the same line or the same TID (R308, R42). -/
def State.turn (s : State) (t : MemTxn) : Bool :=
  !(s.mem.txns.any fun p => match p.2 with
    | some x => decide (x.order < t.order) && (x.line = t.line || x.tid = t.tid)
    | none => false)

/-- Refuse a write that cannot be performed (R344). -/
def refuseWrite (t : MemTxn) (n : Nat) : M Unit := do
  answerTxn t ((← getS).denied n)
  raise E.MEM.WR_REFUSED
  bump R.MEM_REFUSED_WR.PARTIAL
  memFail (t.who n) 5 0 false

/-! ### Completion -/

/-- A transaction is complete: its entries are freed. A number from 2048 up has none. -/
def dropTxn (e : Nat) : M Unit := do
  prim (.txn e none)
  match (← getS).entry e with
  | none => pure ()
  | some c =>
    if c.kind = .memWr then freeEntry (c.handleA.toNat % 2048)
    freeEntry e

/-! ### Reads (R333 to R341) -/

/-- The beats of a read out of its line. -/
def MemTxn.beats (t : MemTxn) (b : Bytes) : Bytes := if t.two then b else slice b (t.addr % 64) 32

/-- A late failure (R336, R337). R614 gives the entry that carries the identity no layout: its two payloads are free. -/
def lateFail (t : MemTxn) (n : Nat) (level : Option Nat) : M Unit := do
  raise E.MEM.LATE_POISON
  memFail (t.who n) 4 (level.getD 0) level.isSome
  pageEntry 0x28 (pageEventCode E.MEM.LATE_POISON) [← freshPayload, ← freshPayload]
  bump R.MEM_LATE.COUNT
  wr (R.MEMRGN_CTL.SPEC_SUSP n) 1

/-- A read of a failing line is answered (R334, R338). -/
def failRead (t : MemTxn) (n : Nat) (level : Option Nat) (pt : Bytes) : M Unit := do
  if t.spec then
    emit (.memRead t.tid .okay (t.beats pt))
    lateFail t n level
    integFail (t.who n) level true
  else
    let r := (← getS).denied n
    answerTxn t r
    if r = .poison then
      raise E.MEM.POISONED
      bump R.MEM_POISONED.COUNT
    integFail (t.who n) level false

/-- A line's data has returned: the read is answered. -/
def finishRead (t : MemTxn) (v : MemView) : M Unit := do
  let s ← getS
  let (err, b) := memLine v t.line
  let okay := emit (.memRead t.tid .okay (t.beats b))
  match t.region with
  | none => if err = .buserr then answerTxn t .buserr else okay
  | some n =>
    let media : M Unit := do
      answerTxn t (s.denied n)
      mediaFail (t.who n)
    if t.cipher then (if err = .buserr then answerTxn t .buserr else okay)
    else
      let d := t.sideOf s n
      if d.c.mode = mdClear then (if err ≠ .ok ∨ t.uncorrectable then media else okay)
      else
        match ← readLine d ((s.refKey t.kref).getD []) ((s.refKey t.mref).getD []) t.line t.uncorrectable v t.rctr with
        | .good pt => emit (.memRead t.tid .okay (t.beats pt))
        | .tag pt => failRead t n none pt
        | .block l pt => failRead t n (some l) pt
        | .media => media

/-! ### Writes (R342 to R345) -/

/-- The write needs no read of its line. -/
def MemTxn.noRead (t : MemTxn) (s : State) : Bool :=
  t.strb = BitVec.allOnes 64 || (match t.region with
    | none => true
    | some n => (t.sideOf s n).c.mode = mdClear)

/-- Downstream writes of lines that are not answered (R44). -/
def State.writesOut (s : State) : Nat :=
  (s.mem.txns.filter fun p => match p.2 with | some t => t.phase = .writing | none => false).length

/-- One more downstream write may be outstanding: 128 at most. A transaction has one read outstanding at most and there are at
most 256 of them, so the 384 reads of R44 are never exceeded. -/
def State.writeRoom (s : State) : Bool := decide (s.writesOut < 128)

/-- A write has gone downstream. -/
def markWriting (e : Nat) (t : MemTxn) (ct : Bytes) (major minor : Nat) : M Unit := do
  prim (.txn e (some { t with phase := .writing }))
  modEntry e fun c => { c with
    st := .releasing, output := ct, valueA := BitVec.ofNat 64 (t.addr + minor * 2 ^ 40), valueB := BitVec.ofNat 64 major }

/-- Encrypt a line under the counter fixed at acceptance and send it downstream, or refuse the write. -/
def sendLine (e : Nat) (t : MemTxn) (n : Nat) (d : Side) (pt : Bytes) (v : MemView) : M Unit := do
  let s ← getS
  match sealUnder d ((s.refKey t.kref).getD []) ((s.refKey t.mref).getD []) t.line pt t.wctr with
  | .ok ct tag major minor =>
    storeLine d t.line ct tag v
    markWriting e t ct major minor
  | .block l =>
    dropTxn e
    integFail (t.who n) (some l) false
    refuseWrite t n
  | .media =>
    dropTxn e
    refuseWrite t n
  | .exhausted =>
    dropTxn e
    answerTxn t (s.denied n)
    memFail (t.who n) 8 0 false

/-- Perform a write. -/
def performWrite (e : Nat) (t : MemTxn) (v : MemView) : M Unit := do
  let s ← getS
  match t.region with
  | none =>
    emit (.dramWrite t.line t.data t.strb)
    markWriting e t t.data 0 0
  | some n =>
    let d := t.sideOf s n
    if d.c.mode = mdClear then
      emit (.dramWrite t.line t.data t.strb)
      markWriting e t t.data 0 0
    else if t.strb = BitVec.allOnes 64 then sendLine e t n d t.data v
    else
      let k := if t.mergeOld then t.okref else t.kref
      let m := if t.mergeOld then t.omref else t.mref
      match ← readLine (t.mergeSide s n) ((s.refKey k).getD []) ((s.refKey m).getD []) t.line t.uncorrectable v t.rctr with
      | .good pt => sendLine e t n d (mergeBytes t.strb pt t.data) v
      | .tag _ =>
        dropTxn e
        integFail (t.who n) none false
        refuseWrite t n
      | .block l _ =>
        dropTxn e
        integFail (t.who n) (some l) false
        refuseWrite t n
      | .media =>
        dropTxn e
        mediaFail (t.who n)
        refuseWrite t n

/-- Perform the writes that need no read and whose turn has come, as far as R44 and the lanes in service let them go out. -/
def pump (v : MemView) : M Unit := do
  forM (← getS).txnsInOrder fun p => do
    let s ← getS
    if p.2.isWrite ∧ p.2.phase = .reading ∧ p.2.noRead s ∧ s.turn p.2 ∧ !s.replayHeld p.1 ∧ s.writeRoom then
      if ← finishWork (.entry p.1) then performWrite p.1 p.2 v

/-! ### Acceptance (R308, R309, R363, R568, R573 to R575) -/

/-- The keys of a side, fixed at acceptance. -/
def State.sideKeys (s : State) (d : Side) : Option (Option KeyRef × Option KeyRef) :=
  let ref (n : Nat) (need : KeyNeed) : Option KeyRef := (s.inlineKey n need).map fun b => ⟨n, gen16 b⟩
  if d.c.mode = mdClear then some (none, none)
  else match ref d.c.kslot (dataNeed d.c.mode) with
    | none => none
    | some k => if d.c.mode = mdConf then some (some k, none)
      else (ref d.c.mslot macNeed).map fun m => (some k, some m)

/-- REF of a memory transaction. -/
def MemTxn.ref (t : MemTxn) : BitVec 32 :=
  BitVec.ofNat 32 (t.tid.toNat + t.rid.toNat * 2 ^ 10 + t.cls * 2 ^ 22 + bitAt t.two 24 + t.attr.toNat / 4 * 2 ^ 25)

/-- A free number for a transaction that the Cellar cannot journal: while CELLAR_STAT.FAULT is set, only accesses that
need no lane pass (R129, R577). -/
def State.looseNumber (s : State) : Nat :=
  ((List.range 256).find? fun k => (mget (fun _ => none) s.mem.txns (2048 + k)).isNone).getD 0 + 2048

/-- Journal an accepted transaction. Answers its number; `none` where no entry is free. -/
def journalTxn (t : MemTxn) : M (Option Nat) := do
  let s ← getS
  if s.cellarFault then
    let st ← stamp
    let n := s.looseNumber
    prim (.txn n (some { t with stamp := st, order := s.cellar.nextOrder }))
    prim (.cellar { s.cellar with nextOrder := s.cellar.nextOrder + 1 })
    return some n
  else if 512 < s.usedOf .memory + (if t.isWrite then 2 else 1) then return none
  else
    let src := BitVec.ofNat 16 (t.region.getD 0)
    let e ← journal (if t.isWrite then .memWr else .memRd) fun o st =>
      { kind := if t.isWrite then .memWr else .memRd, kilnNew := t.newSide, source := src, ref := t.ref, stamp := st,
        keys := [t.kref, t.mref, t.okref, t.omref], valueA := BitVec.ofNat 64 t.addr, order := o, strb := t.strb }
    match e with
    | none => return none
    | some n =>
      let c := (← getS).entry n
      let st := (c.map (·.stamp)).getD ⟨0, 0⟩
      let o := (c.map (·.order)).getD 0
      if t.isWrite then
        match ← journal .data fun _ st => { kind := .data, stamp := st, order := o, input := t.data } with
        | none =>
          freeEntry n
          return none
        | some k =>
          modEntry n fun c => { c with handleA := BitVec.ofNat 16 k }
          foldEntry n (t.data ++ beBytes 8 t.strb.toNat) true
      prim (.txn n (some { t with stamp := st, order := o }))
      return some n

/-- A chunk of a pass is finished (R362, R383). -/
def chunkDone (n : Nat) : M Unit := do
  let s ← getS
  match s.passOf n with
  | none => pure ()
  | some p =>
    let b := p.bound + 1
    setQuar (s.mem.quar.map fun q => match q with
      | some x => if x.region = n ∧ !x.newTree ∧ (x.index + 1) * 64 ^ x.level ≤ b then none else some x
      | none => none)
    setPasses (s.passes.map fun x => if x = p then
      { p with bound := b, doneBits := 0, started := none, prepared := [], taken := [], chunks := p.chunks + 1 } else x)

/-- Set the done bit of a line of the chunk in progress; with all 64 set, the chunk is finished. -/
def setDone (n a : Nat) : M Unit := do
  let s ← getS
  match s.passOf n with
  | none => pure ()
  | some p =>
    let d := p.doneBits ||| BitVec.ofNat 64 (2 ^ (a / 64 % 64))
    setPasses (s.passes.map fun x => if x = p then { p with doneBits := d } else x)
    if d = BitVec.allOnes 64 then chunkDone n

/-- The counter of a TREE line as the cache holds it. -/
def State.counterNow (s : State) (d : Side) (a : Nat) : Option (Nat × Nat) :=
  if d.c.mode ≠ mdTree then none
  else (s.cached false d.n d.newTree 0 (d.chunk a)).map fun l =>
    s.childCounter d.n d.newTree 0 (d.chunk a) l.data (d.lineOf a % 64)

/-- Note a counter in an entry (R574). -/
def noteCounter (e : Nat) (t : MemTxn) (major minor : Nat) : M Unit :=
  modEntry e fun c => { c with valueA := BitVec.ofNat 64 (t.addr + minor * 2 ^ 40), valueB := BitVec.ofNat 64 major }

/-- Fix the counter of an accepted transaction (R20): a read and the read of a partial write take the line's counter as it
stands; a write then takes the line's next one. What was accepted on the line before keeps the counter that stood. -/
def fixCounter (e n : Nat) (t : MemTxn) (v : MemView) : M Unit := do
  let s ← getS
  let d := t.sideOf s n
  if d.c.mode = mdTree then
    let km := (s.refKey t.mref).getD []
    if t.isWrite then
      let (old, w) ← takeCounter d km t.line v
      forM (← getS).txnsInOrder fun p =>
        if p.2.line = t.line ∧ p.2.region = some n ∧ p.2.newSide = t.newSide ∧ p.2.phase = .reading ∧ p.2.rctr = none then
          prim (.txn p.1 (some { p.2 with rctr := old }))
        else pure ()
      let s1 ← getS
      let rold := if t.mergeOld then s1.counterNow (t.mergeSide s n) t.line else old
      prim (.txn e (some { t with rctr := rold, wctr := w }))
      match w with
      | .ok major minor => noteCounter e t major minor
      | _ => pure ()
    else
      let old := s.counterNow d t.line
      prim (.txn e (some { t with rctr := old }))
      match old with
      | some (major, minor) => noteCounter e t major minor
      | none => pure ()

/-- Accept a transaction. -/
def acceptTxn (t : MemTxn) (v : MemView) : M Unit := do
  match ← journalTxn t with
  | none => pure ()
  | some e =>
    match t.region with
    | some n =>
      if t.mergeOld ∨ (t.isWrite ∧ t.newSide ∧ !(← getS).onNewSide n t.line) then setDone n t.line
      match mget (fun _ => none) (← getS).mem.txns e with
      | some u => if !u.cipher then fixCounter e n u v
      | none => pure ()
    | none => pure ()
    if t.isWrite then pump v

/-- Answer at once, passing nothing downstream, once no response with the same TID is owed. -/
def answerNow (t : MemTxn) (m : M Unit) : M Unit := do
  if !(← getS).tidBusy t then m

/-- BUSERR at once. -/
def busNow (t : MemTxn) (m : M Unit := pure ()) : M Unit := answerNow t do
  answerTxn t .buserr
  m

/-- Entries are at their limits, so that a TREE or TAG write is not accepted (R325, R329). -/
def State.writeHeld (s : State) (mode : Nat) : Bool :=
  (mode = mdTree && (decide (32 ≤ s.mem.overflows.length) || decide (2048 ≤ dirtyCount s.mem.ctr)))
    || (decide (2 ≤ mode) && decide (1024 ≤ dirtyCount s.mem.tag))

/-- The line is held by a commit of the region's pass (R371). -/
def State.lineHeld (s : State) (n a : Nat) : Bool := match s.passOf n with
  | none => false
  | some p => decide ((a - (s.regionCfg n).baseAddr) / 4096 = p.bound) && p.prepared.any fun x => x.line = a / 64 % 64

/-- A request to an ACTIVE region. -/
def regionRequest (n : Nat) (t0 : MemTxn) (v : MemView) : M Unit := do
  let s ← getS
  let t := { t0 with region := some n }
  let right := s.right n t
  let cipher := decide (right = 1)
  let refused := decide (right = 0) || (t.isWrite && decide (right < 3))
  let new := s.onNewSide n t.line
  let old := s.oldSide n
  let below : Bool := match s.passOf n with
    | some p => decide (old.chunk t.line < p.old.size)
    | none => true
  let mode := old.c.mode
  if s.fld (R.MEMRGN_CTL.INIT n) = 1 ∨ s.lineHeld n t.line then pure ()
  else if refused then
    busNow t do
      raise E.MEM.RIGHTS
      bump R.MEM_REFUSED_RIGHTS.COUNT
      memFail (t.who n) 6 0 false
  else if s.fld (R.MEMRGN_CTL.POISONED n) = 1 then
    answerNow t (if t.isWrite then refuseWrite t n else answerTxn t (s.denied n))
  else if t.isWrite ∧ s.fld (R.MEMRGN_CTL.RESTING n) = 1 then busNow t (bump R.MEM_REFUSED_WR.RESTING)
  else if !new ∧ !below then
    busNow t do
      bump R.KILN_STALL.EARLY
      raise E.KILN.EARLY
  else if mode ≠ mdClear ∧ (s.grounded ∨ s.noLane ∨ s.cellarFault) then busNow t
  else if t.isWrite ∧ s.writeHeld mode then pure ()
  else
    let moved : Bool := match s.passOf n with
      | some p => t.isWrite && !new && decide (old.chunk t.line = p.bound) && p.started.isSome
          && s.passStep p = 0
      | none => false
    let d := s.side n (new || moved)
    let partial' := decide (t.strb ≠ BitVec.allOnes 64)
    if cipher then acceptTxn { t with cipher := true, newSide := new, cfg := some (s.side n new).c } v
    else match s.sideKeys d with
      | none => answerNow t (if t.isWrite then refuseWrite t n else answerTxn t (s.denied n))
      | some (k, m) =>
        acceptTxn { t with
          newSide := new || moved, mergeOld := moved && partial', kref := k, mref := m, cfg := some d.c,
          oldCfg := if moved && partial' then some old.c else none,
          okref := if moved && partial' then (s.sideKeys old).bind (·.1) else none,
          omref := if moved && partial' then (s.sideKeys old).bind (·.2) else none,
          spec := decide (2 ≤ mode) && decide (s.fld (R.MEMRGN_CFG.SPEC n) = 1 ∧ s.fld (R.MEMRGN_CFG.PRIV n) = 0
            ∧ s.fld (R.MEMRGN_CTL.SPEC_SUSP n) = 0) } v

/-- A request is presented on the upstream port. Where Otist holds READY low, nothing happens. -/
def memRequest (t : MemTxn) (v : MemView) : M Unit := do
  let s ← getS
  if s.shut ∨ !s.memOn ∨ 256 ≤ s.mem.txns.length then pure ()
  else if !t.aligned then
    busNow t do
      raiseItem (← stamp) 0x28 (t.rid.setWidth 16) 0x0020 [alarmPayload 0 0 0 false 0x28] .immediate true
  else match (if s.parkAt t.addr then some 0 else s.metaAt t.addr) with
    | some n => busNow t do
        raise E.MEM.META_ACCESS
        memFail (t.who n) 7 0 false
    | none =>
      if s.badAt t.addr then busNow t
      else match s.servedAt t.addr with
        | some n => if s.rgnState n = pgActive then regionRequest n t v else pure ()
        | none => if s.fld R.MEM_CFG.DEFAULT = 1 then busNow t else acceptTxn t v

def execMemReadRequest (addr : BitVec 40) (two : Bool) (tid : BitVec 10) (rid : BitVec 12) (attr : BitVec 8)
    (s : State) : Host.Outcome State Fault Refusal :=
  exec1 (memRequest { addr := addr.toNat, two := two, tid := tid, rid := rid, attr := attr } {}) s

def execMemWriteRequest (addr : BitVec 40) (two : Bool) (tid : BitVec 10) (rid : BitVec 12) (attr : BitVec 8)
    (data : List Byte) (strb : BitVec 64) (mem : MemView) (s : State) : Host.Outcome State Fault Refusal :=
  let p := placeData addr.toNat two data strb
  exec1 (memRequest
    { addr := addr.toNat, two := two, tid := tid, rid := rid, attr := attr, isWrite := true, data := p.1, strb := p.2 } mem) s

/-! ### Checkpoints (R350 to R353) -/

/-- The key check value of a slot's active key. -/
def State.kcvOf (s : State) (n : Nat) : Nat := match (s.slot n).active with
  | some b => b.kcv.toNat
  | none => 0

/-- The payload of a ROOT record (R352). -/
def State.rootPayload (s : State) (n : Nat) (closed : Bool) (epoch : Nat) (check : Bytes) : Bytes :=
  let c := s.regionCfg n
  beBytes 4 c.base ++ beBytes 4 c.size ++ beBytes 1 (bitAt closed 7 + bitAt c.mirrored 6) ++ zeros 3
    ++ beBytes 4 (s.kcvOf c.kslot) ++ beBytes 4 (s.kcvOf c.mslot) ++ beBytes 8 epoch ++ padTo 12 check

/-- The live ROOT record of a region, its EPOCH, and whether it is CLOSED. -/
def State.rootRec (s : State) (n : Nat) : Option Bytes := s.liveRec (0x20 + n)
def recEpoch (b : Bytes) : Nat := beAt b 20 8
def recClosed (b : Bytes) : Bool := decide (128 ≤ beAt b 8 1)
def State.rootEpoch (s : State) (n : Nat) : Nat := ((s.rootRec n).map recEpoch).getD 0

/-- Writes of the region, overflow entries and dirty lines are completed. -/
def State.regionClean (s : State) (n : Nat) : Bool :=
  !(s.mem.overflows.any fun o => o.region = n) && !(s.mem.ctr.any fun l => l.region = n && l.dirty)
    && !(s.mem.tag.any fun l => l.region = n && l.dirty)

/-- Transactions of the region in flight; writes only. -/
def State.regionTxns (s : State) (n : Nat) (writes : Bool) : Bool :=
  s.mem.txns.any fun p => match p.2 with
    | some t => t.region = some n && (t.isWrite || !writes)
    | none => false

/-- Write a root block to its shadow and the mirror copy. -/
def writeShadow (d : Side) (b : Bytes) : M Unit := do
  putLine (d.c.metaAddr * 4096 + metaShadow d.c.size) b
  if d.c.mirrored then putLine (d.c.mirror * 4096 + mirrorShadow d.c.size) b

/-- CHECK of a root block (R352). -/
def State.checkOf (s : State) (b : Bytes) : Bytes := match s.anchorKey with
  | some k => (cmac k b).take 12
  | none => zeros 12

/-- Go on with a CHECKPOINT: steps 3 and 4, once step 2 is done. -/
def ckptAdvance : M Unit := do
  let s ← getS
  match s.mem.cmd with
  | .flushing n =>
    if s.regionClean n ∧ !s.regionTxns n true then
      match s.root' n false with
      | none => pure ()
      | some r =>
        let epoch := s.rootEpoch n + 1
        let b := r.take 56 ++ beBytes 8 epoch
        setRoot n false b
        writeShadow (s.oldSide n) b
        askAnchor (.root n (s.rootPayload n true epoch (s.checkOf b)))
        prim (.mem { (← getS).mem with cmd := .record n })
  | _ => pure ()

/-- A ROOT record has been read back (R350, R351). -/
def rootWritten (n : Nat) (payload : Bytes) : M Unit := do
  if recClosed payload then raise E.MEM.CKPT_DONE
  else
    wr (R.MEMRGN_CTL.INIT n) 0
    wr (R.MEMRGN_CTL.RESTING n) 0
  let s ← getS
  if s.mem.cmd = .record n then
    prim (.mem { s.mem with cmd := .none })
    cmdEnd U.mem rcOk

/-- An ACTIVE TREE region that can be served. -/
def State.treeActive (s : State) (n : Nat) : Bool :=
  s.rgnState n = pgActive && (s.regionCfg n).mode = mdTree && s.fld (R.MEMRGN_CTL.BAD n) = 0
    && s.fld (R.MEMRGN_CTL.POISONED n) = 0

/-- MEM_CMD. -/
def fxMemCmd (op n : Nat) : M Unit := do
  if (← rd R.MEM_CMD_STAT.BUSY) = 0 then wr R.MEM_CMD_STAT.REGION n
  cmdActive U.mem do
    let s ← getS
    let resting := decide (s.fld (R.MEMRGN_CTL.RESTING n) = 1)
    if op = 1 then
      if !s.treeActive n ∨ resting ∨ (s.passOf n).isSome then cmdEnd U.mem rcState
      else
        wr (R.MEMRGN_CTL.RESTING n) 1
        dropTables n
        prim (.mem { (← getS).mem with cmd := .flushing n })
        ckptAdvance
    else if op = 2 then
      if !s.treeActive n ∨ !resting then cmdEnd U.mem rcState
      else
        prim (.mem { s.mem with cmd := .record n })
        askAnchor (.root n (s.rootPayload n false (s.rootEpoch n) []))
    else cmdEnd U.mem rcBadCmd

def execCheckpoint (rid : BitVec 12) (region : Fin 16) (s : State) : Host.Outcome State Fault Refusal :=
  exec1 (hostWrite (fullWrite rid R.MEM_CMD.OP.addr (BitVec.ofNat 32 (2 ^ 28 + region.val))) (fxMemCmd 1 region)) s

def execOpen (rid : BitVec 12) (region : Fin 16) (s : State) : Host.Outcome State Fault Refusal :=
  exec1 (hostWrite (fullWrite rid R.MEM_CMD.OP.addr (BitVec.ofNat 32 (2 * 2 ^ 28 + region.val))) (fxMemCmd 2 region)) s

/-! ### Downstream responses -/

/-- The line of a transaction has been read, and with it what its verification needs; nothing happens before its turn, nor for
a partial write while 128 downstream writes are unanswered (R44), nor while its lane is not in service. -/
def readResponse (e : Nat) (v : MemView) : M Unit := do
  let s ← getS
  match s.txn e with
  | none => pure ()
  | some t =>
    if t.phase = .reading ∧ s.turn t ∧ !(t.isWrite ∧ (t.noRead s ∨ !s.writeRoom)) then
      if ← finishWork (.entry e) then
        if t.isWrite then performWrite e t v
        else
          dropTxn e
          finishRead t v
    pump v
    ckptAdvance

def execDownstreamReadResponse (txn : BitVec 12) (mem : MemView) (s : State) : Host.Outcome State Fault Refusal :=
  exec1 (readResponse txn.toNat mem) s

/-- The downstream write of a transaction has answered (R345). -/
def writeResponse (e : Nat) (ok : Bool) (v : MemView) : M Unit := do
  let s ← getS
  match s.txn e with
  | none => pure ()
  | some t =>
    if t.phase = .writing then
      dropTxn e
      answerTxn t (if ok then .okay else .buserr)
      match t.region with
      | some n => if !ok then mediaFail (t.who n)
      | none => pure ()
      pump v
      ckptAdvance

def execDownstreamWriteResponse (txn : BitVec 12) (ok : Bool) (mem : MemView) (s : State) :
    Host.Outcome State Fault Refusal :=
  exec1 (writeResponse txn.toNat ok mem) s

/-- A downstream read is unanswered after 10 µs (R44). -/
def execDownstreamReadTimeout (s : State) : Host.Outcome State Fault Refusal := exec1 (unitAlarm 0x28 0) s

/-- A report on the DRAM error sideband about the data read of a transaction (R45, R46). `late`: outside its window. -/
def execDerrReport (txn : BitVec 12) (kind : BitVec 2) (late : Bool) (s : State) : Host.Outcome State Fault Refusal :=
  exec1 (do
    let s ← getS
    if late then bndErr 3 0
    else if kind = 1 then prim (.mem { s.mem with corrected := s.mem.corrected + 1 })
    else if kind = 2 then
      match s.txn txn.toNat with
      | some t => if t.phase = .reading then prim (.txn txn.toNat (some { t with uncorrectable := true }))
      | none => pure ()) s

end Sys2Proof.Machine
end

