-- ==== Sys2Proof/Machine/MemRegions.lean ====
section
/-! DEFINITION. Regions coming up and going down (R304, R305, R349 to R354, R361), overflow work (R323 to R326) and the
caches' own work (R328 to R330). -/
namespace Sys2Proof.Machine
open Sys2Proof

/-! ### Entering ACTIVE -/

/-- Another region that is not OFF. -/
def State.others (s : State) (n : Nat) : List Nat := (List.range 16).filter fun m => m ≠ n && decide (s.rgnState m ≠ pgOff)

/-- The metadata area, without the mirror. -/
def RegionCfg.metaArea (c : RegionCfg) : List (Nat × Nat) :=
  if metaBytes c.mode c.size = 0 then [] else [(c.metaAddr * 4096, metaBytes c.mode c.size)]

/-- The metadata areas of another region, those of its pass among them. -/
def State.metaOnly (s : State) (n : Nat) : List (Nat × Nat) :=
  (s.regionCfg n).metaArea ++ (s.passes.filter fun p => p.region = n).flatMap fun p => p.new.metaArea

/-- A region overlaps data or metadata of itself or of another as R305 forbids. -/
def State.overlapBad (s : State) (n : Nat) : Bool :=
  let c := s.regionCfg n
  let own := (c.baseAddr, c.size * 4096)
  (s.others n).any (fun m => overlaps own (s.dataRange m))
    || (decide (2 ≤ c.mode) && c.areas.any fun a =>
      overlaps a own || (s.others n).any fun m => overlaps a (s.dataRange m) || (s.metaOnly m).any (overlaps a))

/-- Sizes of the TREE regions that are not OFF, but for one. -/
def State.treeUnits (s : State) (n : Nat) : Nat :=
  (((s.others n).filter fun m => (s.regionCfg m).mode = mdTree).map fun m => (s.dataRange m).2 / 4096).sum

/-- A key slot that a mode needs is refused. -/
def State.keysBad (s : State) (mode kslot mslot : Nat) : Bool :=
  (decide (1 ≤ mode) && (s.inlineKey kslot (dataNeed mode)).isNone)
    || (decide (2 ≤ mode) && (s.inlineKey mslot macNeed).isNone)

/-- A configuration but for SRC, which R361 tests on its own. -/
def RegionCfg.sansSrc (c : RegionCfg) : RegionCfg := { c with cfg := c.cfg &&& ~~~(BitVec.ofNat 32 (3 * 2 ^ 25)) }

/-- What a pass latched of its region's configuration: a FORMAT pass has the region's own size (R358). -/
def Pass.latched (p : Pass) : RegionCfg := if p.kind = .format then p.new else p.old

/-- A pass on the region latched other values, or the region comes up other than under KEEP (R361). -/
def State.passBad (s : State) (n : Nat) : Bool := match s.passOf n with
  | some p => decide ((s.regionCfg n).sansSrc ≠ p.latched.sansSrc) || decide (s.fld (R.MEMRGN_CFG.SRC n) ≠ 0)
  | none => false

/-- The checks of R305 but for the source. -/
def State.regionBad (s : State) (n : Nat) : Bool :=
  let c := s.regionCfg n
  c.size = 0 || decide (2 ^ 40 < c.baseAddr + c.size * 4096) || s.overlapBad n
    || (decide (c.mode = mdTree) && decide (1048576 < c.size + s.treeUnits n))
    || s.keysBad c.mode c.kslot c.mslot || s.passBad n

/-- The region's quarantine entries are freed (R383). -/
def freeQuar (n : Nat) : M Unit := do
  setQuar ((← getS).mem.quar.map fun q => match q with
    | some x => if x.region = n then none else some x
    | none => none)

/-- The first check of RESTORE that fails (R354), or the root block to load. -/
def State.restore (s : State) (n : Nat) (v : MemView) : Nat × Bytes :=
  let c := s.regionCfg n
  match s.rootRec n with
  | none => (1, [])
  | some r =>
    if !recClosed r then (2, [])
    else if beAt r 0 4 ≠ c.base ∨ beAt r 4 4 ≠ c.size ∨ bits (beAt r 8 1) 6 6 ≠ b2n c.mirrored then (3, [])
    else if beAt r 12 4 ≠ s.kcvOf c.kslot ∨ beAt r 16 4 ≠ s.kcvOf c.mslot then (4, [])
    else
      let a := memLine v (c.metaAddr * 4096 + metaShadow c.size)
      let m := memLine v (c.mirror * 4096 + mirrorShadow c.size)
      let x := if a.1 = .ok then some a.2 else if c.mirrored ∧ m.1 = .ok then some m.2 else none
      match x with
      | none => (7, [])
      | some b =>
        if s.checkOf b ≠ slice r 28 12 then (5, [])
        else if beAt b 56 8 ≠ recEpoch r then (6, [])
        else (0, b)

/-- A FORMAT pass over a region (R358). -/
def formatPass (n : Nat) : M Unit := do
  let s ← getS
  let c := s.regionCfg n
  freeQuar n
  setPasses (s.passes ++ [{ region := n, kind := .format, old := { c with size := 0 }, new := c, root := blkZero }])

/-- The region fails its checks. -/
def setBad (n : Nat) : M Unit := do
  wr (R.MEMRGN_CTL.BAD n) 1
  raise (E.MEMRGN.RGN_BAD n)

/-- A region enters ACTIVE (R305, R349, R351, R354). -/
def regionEnter (n : Nat) (v : MemView) : M Unit := do
  let s ← getS
  let c := s.regionCfg n
  let src := s.fld (R.MEMRGN_CFG.SRC n)
  wr (R.MEMRGN_CTL.POISONED n) 0
  wr (R.MEMRGN_CTL.BAD n) 0
  wr (R.MEMRGN_CTL.INIT n) 0
  dropLines false fun l => l.region = n
  dropLines true fun l => l.region = n
  let sealed := decide (2 ≤ c.mode)
  if s.regionBad n then setBad n
  else if sealed ∧ (src = 3 ∨ (src = 2 ∧ c.mode ≠ mdTree)) then setBad n
  else if sealed ∧ src = 2 then
    let (cause, b) := s.restore n v
    wr (R.MEMRGN_STAT.RESTORE_CAUSE n) cause
    if cause = 0 then
      setRoot n false b
      freeQuar n
      wr (R.MEMRGN_CTL.RESTING n) 1
    else
      setBad n
      raise E.MEM.RESTORE_FAIL
      if cause = 5 ∨ cause = 6 then
        integFail { region := n, addr := c.metaAddr * 4096 + metaShadow c.size } (some (topLevel c.size)) false
  else if sealed ∧ c.mode = mdTree ∧ src = 0 ∧ (s.root' n false).isNone then setBad n
  else
    if sealed ∧ src = 1 then formatPass n
    match s.rootRec n with
    | some r =>
      if sealed ∧ c.mode = mdTree ∧ recClosed r ∧ s.fld (R.MEMRGN_CTL.RESTING n) = 0 then
        wr (R.MEMRGN_CTL.INIT n) 1
        askAnchor (.root n (s.rootPayload n false (recEpoch r) []))
    | none => pure ()
  kilnRefresh

/-- The drain condition of a region (R304). -/
def State.regionDone (s : State) (n : Nat) : Bool := !s.regionTxns n false && s.regionClean n

/-- A region's drain ends. -/
def regionDrained (n : Nat) (v : MemView) : M Unit := do
  let s ← getS
  if s.rgnState n = pgDraining ∧ s.regionDone n then
    blockDrained (regionBlock n) (s.active 0x28) (regionEnter n v)
    kilnRefresh

/-- A region leaves FAULT for OFF: only a soft reset of its page or a reset does this. -/
def regionOff (n : Nat) : M Unit := do
  if (← getS).rgnState n ≠ pgOff then setBlock (regionBlock n) pgOff

/-- MEMRGN_CTL written; `old` is EN before the write. -/
def fxRegionCtl (n : Nat) (old : Bool) (value : Word) (v : MemView) : M Unit := do
  if value.getLsbD 10 then wr (R.MEMRGN_CTL.SPEC_SUSP n) 0
  blockEnable (regionBlock n) old (value.getLsbD 0) ((← getS).active 0x28) (dropTables n) (regionEnter n v)
  kilnRefresh

def regionCtl (rid : BitVec 12) (n : Nat) (value : Word) (v : MemView) : M Unit := do
  let old := (← getS).fld (R.MEMRGN_CTL.EN n)
  hostWrite (fullWrite rid (R.MEMRGN_CTL.EN n).addr value) (fxRegionCtl n (decide (old = 1)) value v)

/-- SPEC_RESUME, written with EN as it stands (R337). -/
def execSpecResume (rid : BitVec 12) (region : Fin 16) (s : State) : Host.Outcome State Fault Refusal :=
  exec1 (do
    let en := (← getS).fld (R.MEMRGN_CTL.EN region)
    regionCtl rid region (BitVec.ofNat 32 (0x400 + en)) {}) s

def execRegionEn (rid : BitVec 12) (region : Fin 16) (en : Bool) (mem : MemView) (s : State) :
    Host.Outcome State Fault Refusal :=
  exec1 (regionCtl rid region (BitVec.ofNat 32 (b2n en)) mem) s

/-! ### Write-back (R321, R329, R330) -/

/-- The MAC key of a side. -/
def State.macKey (s : State) (d : Side) : Bytes := s.slotKey d.c.mslot

/-- Write one dirty line of a cache back. -/
def writeLine (tag : Bool) (l : CacheLine) (v : MemView) : M Unit := do
  let s ← getS
  let d := s.side l.region l.newTree
  if tag then writeTags d l.index else writeBack d (s.macKey d) v treeFuel l.level l.index

/-- Write every dirty line of a cache back, children before parents. -/
def writeAll (tag : Bool) (v : MemView) : M Unit :=
  forM (List.range 4) fun l => do
    forM ((← getS).cacheLines tag) fun x => if x.dirty ∧ x.level = l then writeLine tag x v else pure ()

/-- A pass has walked its last chunk: its new tree is being written back (R373). -/
def State.passEnding (s : State) (n : Nat) : Bool := s.passes.any fun p => p.region = n && decide (p.new.size ≤ p.bound)

/-- A dirty line may be written back now: beyond the watermarks, on command, at a descent or warm reset, for a draining
region, a checkpoint, or a pass that ends. -/
def State.mayFlush (s : State) (tag : Bool) (l : CacheLine) : Bool :=
  l.dirty && (s.mem.flushAll || s.shut || (if tag then s.mem.flushT else s.mem.flushC)
    || s.rgnState l.region = pgDraining || s.mem.cmd = .flushing l.region || (l.newTree && s.passEnding l.region))
    && !(tag && s.mediaSpan ((s.side l.region l.newTree).c.baseAddr + 512 * l.index))

/-- Otist writes back the least recently used line that it may. -/
def cacheWriteback (tag : Bool) (v : MemView) : M Unit := do
  let s ← getS
  match ((s.cacheLines tag).reverse.filter (s.mayFlush tag)).head? with
  | none => pure ()
  | some l =>
    writeLine tag l v
    cacheRefresh
    ckptAdvance

def execCacheWriteback (tag : Bool) (mem : MemView) (s : State) : Host.Outcome State Fault Refusal :=
  exec1 (cacheWriteback tag mem) s

/-- MEMCACHE_CMD (R329): ignored while the page is not ACTIVE. -/
def fxCacheCmd (value : Word) : M Unit := do
  let s ← getS
  if s.active 0x2B ∧ value.getLsbD 0 then
    prim (.mem { s.mem with flushAll := true })
    cacheRefresh

def execWriteback (rid : BitVec 12) (s : State) : Host.Outcome State Fault Refusal :=
  exec1 (hostWrite (fullWrite rid R.MEMCACHE_CMD.WRITEBACK.addr 1) (fxCacheCmd 1)) s

/-! ### Parity (R330) -/

/-- Fence a bank. -/
def fenceBank (tag bankB : Bool) (v : MemView) : M Unit := do
  let i := (if tag then 2 else 0) + b2n bankB
  let s ← getS
  prim (.mem { s.mem with fenced := s.mem.fenced ||| BitVec.ofNat 4 (2 ^ i) })
  raise E.MEMCACHE.BANK_FENCED .immediate
  unitAlarm 0x2B 2
  writeAll tag v
  let t ← getS
  let kept := trim tag (t.ways tag) (t.cacheLines tag)
  prim (.mem (if tag then { t.mem with tag := kept } else { t.mem with ctr := kept }))
  cacheRefresh
  if (← getS).banks tag = 0 then
    forM (List.range 16) fun n =>
      let m := t.fld (R.MEMRGN_CFG.MODE n)
      if m = mdTree ∨ (tag ∧ m = mdTag) then regionFault n else pure ()

/-- A parity error in the cache line at a place in recency order, in a bank. -/
def cacheParity (tag : Bool) (place : Nat) (bankB rewriteBad : Bool) (v : MemView) : M Unit := do
  let s ← getS
  if s.mem.fenced.getLsbD ((if tag then 2 else 0) + b2n bankB) then pure ()
  else
    let dirty : Bool ← (match (s.cacheLines tag)[place]? with
      | none => return false
      | some l => do
        if !l.dirty then
          dropLines tag fun x => x.is l.region l.newTree l.level l.index
          let d := s.side l.region l.newTree
          if tag then
            let _ ← fetchTags d l.index v
          else
            match ← fetchBlock d (s.macKey d) v treeFuel l.level l.index with
            | .integ k _ => integFail { region := l.region, addr := d.blockAddr k (l.index / 64 ^ (k - l.level)) } (some k) false
            | _ => pure ()
        return l.dirty)
    raise E.MEMCACHE.BANK_GUST
    bump R.MEMCACHE_RECON.COUNT
    let (_, lasting) ← countGust (0x500 + (if tag then 2 else 0) + b2n bankB) (s.fld R.MEMCACHE_CFG.GUST_LIMIT)
      (s.fld R.MEMCACHE_CFG.GUST_WIN_MS)
    if lasting ∨ (dirty ∧ rewriteBad) then fenceBank tag bankB v

def execCacheParityError (tag : Bool) (place : BitVec 13) (bankB rewriteBad : Bool) (mem : MemView) (s : State) :
    Host.Outcome State Fault Refusal :=
  exec1 (cacheParity tag place.toNat bankB rewriteBad mem) s

/-! ### Overflow work (R323, R326) -/

/-- The lowest child of an overflow entry that is not done. -/
def Overflow.next (o : Overflow) : Option Nat := (List.range 64).find? fun k => !o.done.getLsbD k

/-- Children that exist under a block: lines of a chunk, or blocks of the level below. -/
def Side.children (d : Side) (level : Nat) : Nat := if level = 0 then d.c.size * 64 else levelBlocks d.c.size (level - 1)

/-- Re-encrypt a line of an overflowed L0 block. -/
def overflowLine (o : Overflow) (d : Side) (k : Nat) (v : MemView) : M Unit := do
  let s ← getS
  let a := d.c.baseAddr + o.index * 4096 + 64 * k
  let ke := s.slotKey d.c.kslot
  let km := s.macKey d
  let w : Who := { region := o.region, addr := a }
  laneWork 6 10
  match ← readLine d ke km a false v with
  | .good pt => match ← sealLine d ke km a pt v with
    | .ok ct tag _ _ => storeLine d a ct tag v
    | _ => doneChild o.region o.newTree o.level o.index k
  | .tag _ =>
    integFail w none false
    doneChild o.region o.newTree o.level o.index k
  | .block l _ =>
    integFail w (some l) false
    doneChild o.region o.newTree o.level o.index k
  | .media =>
    mediaFail w
    doneChild o.region o.newTree o.level o.index k

/-- Re-MAC a child block of an overflowed node or root block: one in the cache takes its MAC at its next write-back. -/
def overflowChild (o : Overflow) (d : Side) (k : Nat) (v : MemView) : M Unit := do
  let s ← getS
  let l := o.level - 1
  let i := o.index * 64 + k
  if s.quarCovers o.region o.newTree l i then doneChild o.region o.newTree o.level o.index k
  else match s.cached false o.region o.newTree l i with
    | some c => putCache false { c with dirty := true }
    | none =>
      let km := s.macKey d
      match ← readBlock d km l i o.major (o.minors.getD k 0) v with
      | .ok b =>
        let major := ((s.overflowsOf o.region o.newTree o.level o.index).map Overflow.major).foldl max 0 + 1
        laneWork 6 1
        let b2 := b.take 56 ++ blkMac km l i major 0 b
        storeBlock d l i b2
        putCache false ⟨o.region, o.newTree, l, i, b2, false⟩
      | .integ _ _ => integFail { region := o.region, addr := d.blockAddr l i } (some l) false
      | .media => pure ()
      doneChild o.region o.newTree o.level o.index k

/-- The class 6 work of the first overflow entry whose next child no transaction is in flight on. A cached child stays
open until its write-back. -/
def overflowWork (v : MemView) : M Unit := do
  let s ← getS
  let free (o : Overflow) (k : Nat) : Bool :=
    let d := s.side o.region o.newTree
    let a := d.c.baseAddr + o.index * 4096 + 64 * k
    if o.level = 0 then !(s.mem.txns.any fun p => match p.2 with | some t => t.line = a | none => false)
    else match s.cached false o.region o.newTree (o.level - 1) (o.index * 64 + k) with
      | some c => !c.dirty
      | none => true
  let todo := s.mem.overflows.filterMap fun o =>
    ((List.range 64).find? fun k => !o.done.getLsbD k && free o k).map fun k => (o, k)
  match todo.head? with
  | none => pure ()
  | some (o, k) =>
    let d := s.side o.region o.newTree
    if s.laneCount = 0 then return ()
    if d.children o.level ≤ o.index * 64 + k then doneChild o.region o.newTree o.level o.index k
    else if o.level = 0 then overflowLine o d k v
    else overflowChild o d k v
    kilnRefresh
    ckptAdvance

def execOverflowReencrypt (mem : MemView) (s : State) : Host.Outcome State Fault Refusal :=
  exec1 (overflowWork mem) s

end Sys2Proof.Machine
end

