-- ==== Sys2Proof/Machine/Storage.lean ====
section
/-! DEFINITION. Storage sectors (R385 to R410): units, sealed partitions and their images. -/
namespace Sys2Proof.Machine
open Sys2Proof

/-! ### Partitions as configured (R390, R391, R398) -/

/-- Partition states (R402). -/
def psUnmounted : Nat := 0
def psMounting : Nat := 1
def psMounted : Nat := 2
def psSealing : Nat := 3
def psSealed : Nat := 4

def State.partState (s : State) (p : Nat) : Nat := s.fld (R.STOR_PART_CTL.STATE p)

/-- The configuration in the registers. -/
def State.partRegs (s : State) (p : Nat) : PartCfg :=
  { defined := decide (s.fld (R.STOR_PART_CFG.DEFINED p) = 1), first := s.fld (R.STOR_PART_FIRST.LBN p),
    count := s.fld (R.STOR_PART_COUNT.UNITS p), dus4k := decide (s.fld (R.STOR_PART_CFG.DUS p) = 1),
    sslot := s.fld (R.STOR_PART_CFG.SSLOT p), mslot := s.fld (R.STOR_PART_KEY.MSLOT p),
    tslot := s.fld (R.STOR_PART_KEY.TSLOT p), tbl := s.fld (R.STOR_PART_TBL.ADDR p), img := s.fld (R.STOR_PART_IMG.ADDR p) }

/-- The partition that a unit belongs to: the lowest defined one that holds its LBN. -/
def State.partAt (s : State) (lbn : Nat) : Option Nat :=
  (List.range 8).find? fun p =>
    let c := s.partRegs p
    c.defined && decide (c.first ≤ lbn ∧ lbn < c.first + c.count)

/-- Addresses of an entry, of the bitmap byte of a TU, of a TU's entries, and of a TU in the image. -/
def PartCfg.entryAddr (c : PartCfg) (i : Nat) : Nat := c.tbl * 4096 + 16 * i
def PartCfg.mapAddr (c : PartCfg) (j : Nat) : Nat := c.tbl * 4096 + 16 * c.count + j / 8
def PartCfg.tuAddr (c : PartCfg) (j : Nat) : Nat := c.img * 4096 + headUnits c.count * 4096 + 4096 * j
def PartCfg.dirAddr (c : PartCfg) (j : Nat) : Nat := c.img * 4096 + 64 + 16 * j

/-- Entries that TU `j` holds. -/
def PartCfg.tuEntries (c : PartCfg) (j : Nat) : Nat := min 256 (c.count - 256 * j)

/-! ### Constructions (R388, R392, R399) -/

/-- XTS over a unit. -/
def unitXts (key : Bytes) (enc : Bool) (lbn : Nat) (b : Bytes) : Bytes :=
  let h := key.length / 2
  xts (key.take h) (key.drop h) enc (leBytes 8 lbn ++ zeros 8) b

/-- The tag of a unit's ciphertext under a version. -/
def unitTag (km : Bytes) (p : Nat) (dus4k : Bool) (lbn v : Nat) (ct : Bytes) : Bytes :=
  let b0 := [0x05] ++ beBytes 1 p ++ beBytes 1 (b2n dus4k) ++ zeros 5 ++ beBytes 8 lbn
  let b1 := beBytes 4 v ++ zeros 12
  (aesEnc km (ghash (aesEnc km (zeros 16)) (b0 :: b1 :: blocks16 ct))).take 8

/-- The IV of TU `j` at an epoch, and of a header. -/
def tuIv (p j e : Nat) : Bytes := [0x01] ++ beBytes 1 p ++ beBytes 4 j ++ beBytes 6 e
def hdrIv (p e : Nat) : Bytes := [0x02] ++ beBytes 1 p ++ zeros 4 ++ beBytes 6 e

/-- The first 56 bytes of a header. -/
def PartCfg.header (c : PartCfg) (p e : Nat) : Bytes :=
  beBytes 2 0xB412 ++ beBytes 1 p ++ [0x01] ++ beBytes 1 (b2n c.dus4k) ++ [0] ++ beBytes 6 c.first ++ beBytes 4 c.count
    ++ beBytes 4 (tuCount c.count) ++ beBytes 6 e ++ zeros 30

/-- HDR_MAC over a header and a directory. -/
def hdrMac (kt : Bytes) (p e : Nat) (head dir : Bytes) : Bytes := (gcmTag kt (hdrIv p e) (head ++ dir) []).take 8

/-- An entry as the table holds it. -/
def entryBytes' (v : Nat) (tag : Bytes) : Bytes := leBytes 4 v ++ zeros 4 ++ padTo 8 tag

/-- The record that a FORMAT of a partition without one starts from. -/
def PartCfg.fresh (c : PartCfg) : StorRec := ⟨c.first, c.count, 0, 0, false, c.dus4k, zeros 8⟩

/-! ### Checks (R393, R403) -/

/-- What the storage keys need. -/
def xtsNeed : KeyNeed := { types := [0x03, 0x04], engine := some .stor }
def storMacNeed : KeyNeed := { types := [0x01, 0x02], engine := some .stor, both := true }

/-- The table area lies within one region that may hold it. -/
def State.tableOk (s : State) (c : PartCfg) : Bool :=
  match s.regionAt (c.tbl * 4096) with
  | none => false
  | some n => decide (c.tbl * 4096 + tblUnits c.count * 4096 ≤ (s.regionData n).2 ∧ s.rgnState n = pgActive
      ∧ s.fld (R.MEMRGN_CFG.MODE n) = mdTree ∧ s.fld (R.MEMRGN_CFG.PRIV n) = 1 ∧ s.fld (R.MEMRGN_CTL.RESTING n) = 0
      ∧ s.fld (R.MEMRGN_CTL.POISONED n) = 0 ∧ s.fld (R.MEMRGN_CTL.BAD n) = 0)

/-- The first check of R403 that fails, as an outcome. -/
def State.partCheck (s : State) (p : Nat) (c : PartCfg) : Option Nat :=
  if s.fld (R.STOR_SLOT.VALID c.sslot) = 0 ∨ c.tslot = c.mslot
      ∨ (s.inlineKey (s.fld (R.STOR_SLOT.KEYSLOT c.sslot)) xtsNeed).isNone
      ∨ (s.inlineKey c.mslot storMacNeed).isNone ∨ (s.inlineKey c.tslot storMacNeed).isNone then some poKey
  else if c.count = 0 ∨ 0x1000000 < c.count ∨ 2 ^ 48 < c.first + c.count
      ∨ ((List.range 8).any fun q => q ≠ p && decide (s.partState q ≠ psUnmounted)
        && overlaps (c.first, c.count) ((s.part q).cfg.first, (s.part q).cfg.count)) then some poConfig
  else if !s.tableOk c ∨ overlaps (c.tbl * 4096, tblUnits c.count * 4096) (c.img * 4096, imgUnits c.count * 4096) then
    some poTable
  else none

/-! ### Units (R385 to R397) -/

/-- The key that a storage slot leads to, for a unit's direction. -/
def State.unitKey (s : State) (u : StorUnit) : Option Bank :=
  if s.fld (R.STOR_SLOT.VALID u.kslot) = 0 then none
  else s.inlineKey (s.fld (R.STOR_SLOT.KEYSLOT u.kslot)) { xtsNeed with enc := some (!u.dir) }

/-- A sealed partition refuses a unit (R387, R402). -/
def State.partRefuses (s : State) (u : StorUnit) : Bool := match u.part with
  | none => false
  | some p =>
    let c := (s.part p).cfg
    decide (s.partState p < psMounted) || decide (u.kslot ≠ c.sslot) || u.dus4k != c.dus4k

/-- A unit's header passes: the entry of one in a sealed partition is read. Where READY is low nothing happens. -/
def storageHeader (kslot : Nat) (dus4k dir : Bool) (lbn : Nat) (m : Dram) : M Unit := do
  let s ← getS
  let p := s.partAt lbn
  let held : Bool := match p with
    | some p => decide (s.partState p = psSealing) && !dir
    | none => false
  if !s.active 0x30 ∨ s.shut ∨ 2 ≤ s.units.length ∨ (s.units.any fun u => u.cellar.isNone && u.status.isNone) ∨ held then
    pure ()
  else
    let entry : Option (Nat × Bytes) ← (match p with
      | none => return none
      | some p => match s.units.find? fun u => u.part = some p && u.lbn = lbn with
        | some u => return if u.written.isSome then u.written else u.entry
        | none => do
          let c := (s.part p).cfg
          return (← readDram m (c.entryAddr (lbn - c.first)) 16).map fun b => (leAt b 0 4, slice b 8 8))
    let b := b2n (s.units.any fun u => u.buffer = 0)
    prim (.units (s.units ++ [
      { buffer := b, kslot := kslot, dus4k := dus4k, dir := dir, lbn := lbn, part := p, entry := entry }]))

def execStorageHeader (kslot : BitVec 6) (dus4k dir : Bool) (lbn : BitVec 64) (dram : Dram) (s : State) :
    Host.Outcome State Fault Refusal :=
  exec1 (storageHeader kslot.toNat dus4k dir lbn.toNat dram) s

/-- Replace the unit of a buffer. -/
def setUnit (u : StorUnit) : M Unit := do
  prim (.units ((← getS).units.map fun x => if x.buffer = u.buffer then u else x))

/-- A table access of a unit failed (R397). -/
def unitTable (u : StorUnit) : M Unit := do
  setUnit { u with status := some ustVersion }
  storRelease
  match u.part with
  | some p => dropPart p poTable
  | none => pure ()

/-- Accept a unit: journal it with its keys, its LBN and its version. -/
def journalUnit (u : StorUnit) (x : Bytes) (version : Nat) (keys : List (Option KeyRef)) : M (Option Nat) := do
  let src := u.buffer + bitAt u.dir 1 + bitAt u.dus4k 2 + u.kslot * 2 ^ 8
  let ref : Nat := match u.part with
    | some p => p + 8
    | none => 0
  let e ← journal .storage fun o st =>
    { kind := .storage, source := BitVec.ofNat 16 src, ref := BitVec.ofNat 32 ref, stamp := st, keys := keys,
      valueA := BitVec.ofNat 64 u.lbn, valueB := BitVec.ofNat 64 version, order := o }
  match e with
  | some n =>
    foldEntry n x true
    return some n
  | none => return none

/-- Write entry `i` of a table and set its TU's bit in the bitmap; answers whether every access answered OKAY (R395). -/
def writeTable (c : PartCfg) (i v : Nat) (tag : Bytes) (m : Dram) : M Bool := do
  let j := i / 256
  match ← readDram m (c.mapAddr j) 1 with
  | none => return false
  | some b =>
    dramWrite2 m (c.entryAddr i) (entryBytes' v tag) (c.mapAddr j) [b.getD 0 0 ||| BitVec.ofNat 8 (2 ^ (j % 8))]

/-- A unit of a sealed partition, accepted. -/
def sealedUnit (u : StorUnit) (p : Nat) (x key km : Bytes) (m : Dram) : M Unit := do
  let c := ((← getS).part p).cfg
  match u.entry with
  | none => unitTable u
  | some (v, tag) =>
    if u.dir then
      let st := if v = 0 then ustVersion else if unitTag km p u.dus4k u.lbn v x ≠ tag then ustTag else ustOk
      setUnit { u with status := some st, out := unitXts key false u.lbn x }
      storRelease
    else if v = 0xFFFFFFFF then
      setUnit { u with status := some ustVersion }
      storRelease
    else
      let ct := unitXts key true u.lbn x
      let t := unitTag km p u.dus4k u.lbn (v + 1) ct
      if ← writeTable c (u.lbn - c.first) (v + 1) t m then setUnit { u with written := some (v + 1, t), out := ct }
      else unitTable u

/-- A unit's last input beat passes: it is accepted or refused, or waits with READY low while the lanes that are available are
not in service (R117, R129). -/
def storageAccept (data : Bytes) (m : Dram) : M Unit := do
  let s ← getS
  match s.units.find? fun u => u.cellar.isNone && u.status.isNone with
  | none => pure ()
  | some u =>
    let refuse : M Unit := do
      setUnit { u with status := some ustRefused }
      storRelease
    let mac : Option (Option KeyRef) := match u.part with
      | none => some none
      | some p => (s.inlineKey (s.part p).cfg.mslot storMacNeed).map fun b => some ⟨(s.part p).cfg.mslot, gen16 b⟩
    match s.unitKey u, mac with
    | some b, some mref =>
      if data.length < u.length ∨ s.partRefuses u ∨ s.grounded ∨ s.noLane ∨ s.cellarFault then refuse
      else if s.laneCount = 0 then pure ()
      else
        let x := data.take u.length
        let v : Nat := match u.entry with
          | some (v, _) => if u.dir then v else v + 1
          | none => 0
        match ← journalUnit u x v [some ⟨s.fld (R.STOR_SLOT.KEYSLOT u.kslot), gen16 b⟩, mref] with
        | none => pure ()
        | some e =>
          let u2 := { u with cellar := some e }
          laneWork 4 (1 + u.length / 16 + b2n u.part.isSome)
          match u.part with
          | none =>
            setUnit { u2 with status := some ustOk, out := unitXts b.material (!u.dir) u.lbn x }
            storRelease
          | some p => sealedUnit u2 p x b.material (((s.refKey mref).getD [])) m
    | _, _ => refuse

/-! ### Sealing (R399, R404, R406) -/

/-- Seal TU `j` at an epoch: its image and its directory entry. `none`: an access failed. -/
def sealTu (c : PartCfg) (p j e : Nat) (kt entries : Bytes) (m : Dram) : M (Option Bytes) := do
  laneWork 4 257
  let (ct, tag) := gcmSeal kt (tuIv p j e) [] (padTo 4096 entries)
  let d := beBytes 6 e ++ zeros 2 ++ tag.take 8
  return if ← dramWrite2 m (c.tuAddr j) ct (c.dirAddr j) d then some d else none

/-- Seal TUs: those that `fresh` formats are zeros, the others are read from the live table when their bit is set and
keep their directory entry otherwise. Answers the directory and how many were sealed. -/
def sealTus (c : PartCfg) (p e : Nat) (kt : Bytes) (format : Bool) (m : Dram) : List Nat → M (Option (Bytes × Nat))
  | [] => return some ([], 0)
  | j :: r => do
    let n := 16 * c.tuEntries j
    let keep : Option (Bool × Bytes) ← (do
      if format then return some (true, zeros n)
      else match ← readDram m (c.mapAddr j) 1 with
        | none => return none
        | some b =>
          if (b.getD 0 0).getLsbD (j % 8) then return (← readDram m (c.entryAddr (256 * j)) n).map fun x => (true, x)
          else return (← readDram m (c.dirAddr j) 16).map fun x => (false, x))
    match keep with
    | none => return none
    | some (dirty, x) =>
      let d : Option Bytes ← (if dirty then sealTu c p j e kt x m else return some x)
      match d with
      | none => return none
      | some d => return (← sealTus c p e kt format m r).map fun (rest, k) => (d ++ rest, k + b2n dirty)

/-- Clear the bitmap. -/
def clearMap (c : PartCfg) (m : Dram) : M Bool := dramWrite m (c.mapAddr 0) (zeros (ceilDiv (tuCount c.count) 8))

/-- The intent record has been read back: seal, write the header and enter SEALED. -/
def sealImage (p : Nat) (format : Bool) (m : Dram) : M Unit := do
  let s ← getS
  let c := (s.part p).cfg
  let e := ((s.storLive p).map StorRec.sealEpoch).getD 0
  let kt := s.slotKey c.tslot
  let ok0 : Bool ← (if format then dramWrite m (c.entryAddr 0) (zeros (16 * c.count)) else return true)
  let sealed : Option (Bytes × Nat) ← (if ok0 then sealTus c p e kt format m (List.range (tuCount c.count)) else return none)
  match sealed with
  | none => dropPart p poTable
  | some (dir, k) =>
    let h := c.header p e
    let mac := hdrMac kt p e h dir
    let ok : Bool ← (do if ← clearMap c m then dramWrite m (c.img * 4096) (h ++ mac) else return false)
    if ok then
      prim (.part p { (← getS).part p with wait := .none, digest := mac })
      wr (R.STOR_PART_DIRTY.TUS p) k
      wr (R.STOR_PART_CTL.STATE p) psSealed
      if format then wr (R.STOR_PART_CTL.OUTCOME p) poFormatted
      raise E.STOR.SEALED
      partCmdEnd p rcOk
    else dropPart p poTable

/-! ### STOR_CMD (R402 to R406) -/

/-- A partition command fails with an outcome; the partition is UNMOUNTED. -/
def partFail (p outcome : Nat) : M Unit := do
  wr (R.STOR_PART_CTL.STATE p) psUnmounted
  wr (R.STOR_PART_CTL.OUTCOME p) outcome
  if outcome = poRollback then raise E.STOR.ROLLBACK
  partCmdEnd p rcBadEntry

/-- Ask for a record of a partition and wait for it. -/
def askRecord (p : Nat) (r : StorRec) (w : PartWait) : M Unit := do
  prim (.part p { (← getS).part p with wait := w })
  askAnchor (.storage p r.bytes)

/-- Open the TUs of an image into the live table. Answers an outcome if one fails. -/
def openTus (c : PartCfg) (p e : Nat) (kt dir : Bytes) (m : Dram) : List Nat → M (Option Nat)
  | [] => return none
  | j :: r => do
    let d := slice dir (16 * j) 16
    let ej := beAt d 0 6
    match ← readDram m (c.tuAddr j) 4096 with
    | none => return some poTuFail
    | some ct =>
      laneWork 4 257
      if ej = 0 ∨ e < ej ∨ (gcmTag kt (tuIv p j ej) [] ct).take 8 ≠ slice d 8 8 then return some poTuFail
      else if ← dramWrite m (c.entryAddr (256 * j)) ((gcmOpen kt (tuIv p j ej) ct).take (16 * c.tuEntries j)) then
        openTus c p e kt dir m r
      else return some poTable

/-- The decision of R405. -/
def mountImage (p : Nat) (c : PartCfg) (r : StorRec) (m : Dram) : M Unit := do
  let s ← getS
  let kt := s.slotKey c.tslot
  let head ← readDram m (c.img * 4096) 64
  let dir : Option Bytes ← (if head.isSome then readDram m (c.dirAddr 0) (16 * tuCount c.count) else return none)
  match head, dir with
  | some h, some dir =>
    let e := beAt h 20 6
    let mac := slice h 56 8
    if h.take 5 ≠ (c.header p e).take 5 ∨ slice h 6 14 ≠ slice (c.header p e) 6 14 then partFail p poBadImage
    else if hdrMac kt p e (h.take 56) dir ≠ mac then
      tamperEvent srcInteg
      partFail p poBadImage
    else
      let current := decide (e = r.epoch) && mac = r.digest
      let rolled := !current && r.intent && decide (e = r.sealEpoch)
      if !current ∧ !rolled then
        tamperEvent srcInteg
        partFail p poRollback
      else match ← openTus c p e kt dir m (List.range (tuCount c.count)) with
        | some o => partFail p o
        | none =>
          if !(← clearMap c m) then partFail p poTable
          else if rolled then
            prim (.part p { (← getS).part p with digest := mac })
            askRecord p { r with epoch := e, digest := mac, intent := false } (.mount true)
          else if r.intent then askRecord p { r with intent := false } (.mount false)
          else
            wr (R.STOR_PART_CTL.STATE p) psMounted
            wr (R.STOR_PART_CTL.OUTCOME p) poOk
            partCmdEnd p rcOk
  | _, _ => partFail p poBadImage

/-- MOUNT. -/
def storMount (p : Nat) (m : Dram) : M Unit := do
  let s ← getS
  let c := s.partRegs p
  match s.partCheck p c with
  | some o => partFail p o
  | none =>
    wr (R.STOR_PART_CTL.STATE p) psMounting
    prim (.part p { cfg := c })
    match s.storLive p with
    | none => partFail p poNoRecord
    | some r =>
      if r.first ≠ c.first ∨ r.count ≠ c.count ∨ r.dus4k ≠ c.dus4k then partFail p poConfig
      else mountImage p c r m

/-- FORMAT (R406). -/
def storFormat (p : Nat) : M Unit := do
  let s ← getS
  let c := s.partRegs p
  let r := (s.storLive p).getD c.fresh
  match s.partCheck p c with
  | some o => partFail p o
  | none =>
    if s.fld R.KEYS_LC.STATE = 2 ∧ r.epoch ≠ 0 ∧ s.fld R.STOR_CFG.REFORMAT = 0 then partFail p poConfig
    else
      wr (R.STOR_PART_CTL.STATE p) psSealing
      prim (.part p { cfg := c })
      pageEntry 0x30 0x0038 [BitVec.ofNat 96 (p + r.epoch * 2 ^ 16)]
      askRecord p { r with first := c.first, count := c.count, dus4k := c.dus4k, sealEpoch := r.sealEpoch + 1, intent := true }
        .format

/-- Units of a partition in flight; writes that have not written their entry. -/
def State.unitsOf (s : State) (p : Nat) (writes : Bool) : Bool :=
  s.units.any fun u => u.part = some p && u.cellar.isSome && (!writes || (!u.dir && u.status.isNone))

/-- Go on with a command that waits for units. -/
def partAdvance (p : Nat) : M Unit := do
  let s ← getS
  let w := (s.part p).wait
  if w = .commitUnits ∧ !s.unitsOf p true then
    match s.storLive p with
    | some r => askRecord p { r with sealEpoch := r.sealEpoch + 1, intent := true } .commit
    | none => pure ()
  else if w = .unmount ∧ !s.unitsOf p false then
    prim (.part p { s.part p with wait := .none })
    wr (R.STOR_PART_CTL.STATE p) psUnmounted
    partCmdEnd p rcOk

/-- All partitions. -/
def partsAdvance : M Unit := forM (List.range 8) partAdvance

/-- STOR_CMD. -/
def fxStorCmd (op p : Nat) (m : Dram) : M Unit := do
  if (← rd R.STOR_CMD_STAT.BUSY) = 0 then wr R.STOR_CMD_STAT.PART p
  cmdActive U.stor do
    let s ← getS
    let st := s.partState p
    let wait (w : PartWait) : M Unit := do
      prim (.part p { s.part p with wait := w })
      partAdvance p
    if op = 0 ∨ 5 < op then cmdEnd U.stor rcBadCmd
    else if op = 1 ∧ st = psUnmounted then storMount p m
    else if op = 2 ∧ st = psUnmounted then storFormat p
    else if op = 3 ∧ st = psMounted then
      wr (R.STOR_PART_CTL.STATE p) psSealing
      wait .commitUnits
    else if op = 4 ∧ st = psSealed then
      match s.storLive p with
      | some r => askRecord p { r with epoch := r.sealEpoch, digest := (s.part p).digest, intent := false } .confirm
      | none => cmdEnd U.stor rcState
    else if op = 5 ∧ (st = psMounted ∨ st = psSealed) then wait .unmount
    else cmdEnd U.stor rcState

def storCmd (rid : BitVec 12) (op p : Nat) (m : Dram) (s : State) : Host.Outcome State Fault Refusal :=
  exec1 (hostWrite (fullWrite rid R.STOR_CMD.OP.addr (BitVec.ofNat 32 (op * 2 ^ 28 + p))) (fxStorCmd op p m)) s

def execMount (rid : BitVec 12) (part : Fin 8) (dram : Dram) (s : State) : Host.Outcome State Fault Refusal :=
  storCmd rid 1 part dram s
def execFormat (rid : BitVec 12) (part : Fin 8) (s : State) : Host.Outcome State Fault Refusal := storCmd rid 2 part {} s
def execStorCommit (rid : BitVec 12) (part : Fin 8) (s : State) : Host.Outcome State Fault Refusal := storCmd rid 3 part {} s
def execConfirm (rid : BitVec 12) (part : Fin 8) (s : State) : Host.Outcome State Fault Refusal := storCmd rid 4 part {} s
def execUnmount (rid : BitVec 12) (part : Fin 8) (s : State) : Host.Outcome State Fault Refusal := storCmd rid 5 part {} s

def execStorageUnitAccept (data : List Byte) (dram : Dram) (s : State) : Host.Outcome State Fault Refusal :=
  exec1 (do
    storageAccept data dram
    partsAdvance) s

/-- A unit's entry and bitmap writes have answered: with OKAY its output is released (R395), else R397 applies. -/
def execStorageEntryWritten (buffer : Bool) (ok : Bool) (s : State) : Host.Outcome State Fault Refusal :=
  exec1 (do
    match (← getS).units.find? fun u => u.buffer = b2n buffer && u.written.isSome && u.status.isNone with
    | none => pure ()
    | some u =>
      if ok then
        setUnit { u with status := some ustOk }
        storRelease
      else unitTable u
      partsAdvance) s

/-! ### Drops (R407) -/

/-- A mounted partition whose table's region no longer serves, or that the STOR page finds configured otherwise. -/
def partCheckDrop (p : Nat) : M Unit := do
  let s ← getS
  if psMounted ≤ s.partState p then
    if !s.tableOk (s.part p).cfg then dropPart p poTable
    else if s.active 0x30 ∧ s.partRegs p ≠ (s.part p).cfg then dropPart p poConfig

def execPartDrop (part : Fin 8) (s : State) : Host.Outcome State Fault Refusal := exec1 (partCheckDrop part) s

/-! ### Records read back -/

/-- A STORAGE record has been read back. -/
def storageWritten (p : Nat) (m : Dram) : M Unit := do
  let s ← getS
  let q := s.part p
  let mounted (outcome : Nat) : M Unit := do
    prim (.part p { q with wait := .none })
    wr (R.STOR_PART_CTL.STATE p) psMounted
    wr (R.STOR_PART_CTL.OUTCOME p) outcome
    partCmdEnd p rcOk
  match q.wait with
  | .mount rolled =>
    mounted (if rolled then poRolledForward else poAbandoned)
    if rolled then raise E.STOR.ROLLED_FWD
  | .confirm => mounted poConfirmed
  | .format => sealImage p true m
  | .commit => sealImage p false m
  | _ => pure ()

end Sys2Proof.Machine
end

