-- ==== Sys2Proof/Machine/AnchorReadback.lean ====
section
/-! DEFINITION. An anchor record's write is answered and read back (R52, R53, R287): what waits for the record follows. -/
namespace Sys2Proof.Machine
open Sys2Proof

/-- The first BALLAST record of a start-up after OT_PORESET_N sets PARK_EPOCH (R456). -/
def firstEpoch : M Unit := do
  let s ← getS
  if s.fld R.KEYS_PARK_EPOCH.EPOCH = 0 then
    if s.lostMode then askEpoch
    else wr R.KEYS_PARK_EPOCH.EPOCH (s.fld R.ANCHOR_RESETS.COUNT * 2 ^ 32)

/-- The record has been read back. -/
def recordDone (u : AnchorUse) (m : Dram) : M Unit := match u with
  | .ballast c r _ => do
    ballastDone c r
    firstEpoch
  | .root n p => rootWritten n p
  | .storage p _ => storageWritten p m

/-- The write of the record in progress is over: `err` on a word, or what the read-back answers; `us`: how long it took. -/
def anchorReadback (err : Bool) (read : Bytes) (us : Nat) (m : Dram) : M Unit := do
  match (← getS).anchor.writing with
  | none => pure ()
  | some w =>
    if 20 < us then unitAlarm 0x25 0
    if err ∨ read ≠ w.record then anchorFailed w
    else
      anchorLive w
      recordDone w.use m

def execAnchorReadback (err : Bool) (read : List Byte) (us : BitVec 16) (dram : Dram) (s : State) :
    Host.Outcome State Fault Refusal :=
  exec1 (anchorReadback err read us.toNat dram) s

end Sys2Proof.Machine
end

