-- ==== Sys2Proof/Machine/Assoc.lean ====
section
/-! DEFINITION. The association table (R242 to R257), learned senders (R258 to R263) and the egress trie (R265 to
R269), as the commands and the stream ports use them. -/
namespace Sys2Proof.Machine
open Sys2Proof

/-! ### Keys and hashing (R247, R248) -/

/-- The key value: an SCI stands in wire order, the others low word first. -/
def keyValue (ws : List Word) : Nat :=
  let k := eKind ws
  if k = 0 ∨ k = 4 then wordAt ws 1 * 2 ^ 32 + wordAt ws 2
  else if k = 5 then 0
  else wordAt ws 1 + wordAt ws 2 * 2 ^ 32

/-- A key block from its parts. -/
def keyBlockOf (kind place an value : Nat) : Bytes :=
  [BitVec.ofNat 8 kind, BitVec.ofNat 8 place, BitVec.ofNat 8 an, 0] ++ beBytes 8 value

/-- The key block of an entry. -/
def keyBlock (ws : List Word) : Bytes :=
  let k := eKind ws
  keyBlockOf k (if k = 4 then eGroup ws else ePort ws) (if k = 0 ∨ k = 4 ∨ k = 5 then eAn ws else 0) (keyValue ws)

/-- h_t of a key block. -/
def State.bucket (s : State) (t : Nat) (kb : Bytes) : Nat :=
  let salt := if t = 0 then s.lookup.salt0 else s.lookup.salt1
  ((crc32cFrom salt.toNat kb) ^^^ 0xFFFFFFFF) % 1024

/-- A table location, and the first stash location. -/
def locOf (t b w : Nat) : Nat := t * 4096 + b * 4 + w
def stashBase : Nat := 8192

/-- What stands at a location. -/
def State.at (s : State) (loc : Nat) : Option (List Word) := mget (fun _ => none) s.assoc loc

/-- The locations that a probe compares (R250). -/
def State.candidates (s : State) (kb : Bytes) : List Nat :=
  (List.range 4).map (locOf 0 (s.bucket 0 kb)) ++ (List.range 4).map (locOf 1 (s.bucket 1 kb))
    ++ (List.range 16).map (stashBase + ·)

/-- A probe (R250). Moves are single steps here, so at most one location holds the key block. Without salts, while Otist is
GROUNDED, every probe misses (R249). -/
def State.probe (s : State) (kb : Bytes) : Option (Nat × List Word) :=
  if !s.lookup.salted then none else (s.candidates kb).findSome? fun loc => match s.at loc with
    | some ws => if keyBlock ws = kb then some (loc, ws) else none
    | none => none

/-! ### Occupancy -/

/-- Stash locations in use. -/
def State.stashUsed (s : State) : Nat := (s.assocs.filter fun p => stashBase ≤ p.1).length

/-- LEARN_RESERVE as taken. -/
def State.learnReserve (s : State) : Nat := min 16 (s.fld R.ASSOC_CFG.LEARN_RESERVE)

/-- Keep the occupancy fields and STASH_LOW, and the tenants' use. -/
def assocRefresh : M Unit := do
  let s ← getS
  wr R.ASSOC_OCC.STASH s.stashUsed
  wr R.ASSOC_OCC.VALID s.assocs.length
  setCond E.ASSOC.STASH_LOW (decide (16 - s.stashUsed ≤ s.learnReserve))
  let ctx := (s.peers.filter fun p => match p.2 with | some (.ctx _) => true | _ => false).length
  wr R.LEARN_OCC.CONTEXTS ctx
  wr R.LEARN_OCC.WINBLK (s.peers.length - ctx)
  tenantsRefresh

/-- Name the entry found or installed. -/
def noteLoc (loc : Nat) (ws : List Word) : M Unit := do
  wr R.ASSOC_LOC.HANDLE (if eKind ws = 4 then 0 else eHandle ws)
  if loc < stashBase then
    wr R.ASSOC_LOC.STASH 0
    wr R.ASSOC_LOC.TABLE (loc / 4096)
    wr R.ASSOC_LOC.BUCKET (loc / 4 % 1024)
    wr R.ASSOC_LOC.WAY (loc % 4)
  else
    wr R.ASSOC_LOC.STASH 1
    wr R.ASSOC_LOC.TABLE 0
    wr R.ASSOC_LOC.BUCKET 0
    wr R.ASSOC_LOC.WAY (loc - stashBase)

/-! ### Insertion (R253 to R255) -/

/-- The lowest free way of a bucket. -/
def State.freeWay (s : State) (t : Nat) (kb : Bytes) : Option Nat :=
  ((List.range 4).map (locOf t (s.bucket t kb))).find? fun loc => (s.at loc).isNone

/-- The plan of R253: the locations to be vacated in turn, and last the free one. A parked location is never moved. -/
def State.planPath (s : State) : Nat → Bytes → Nat → Nat → Option (List Nat)
  | 0, _, _, _ => none
  | f + 1, cur, t, w =>
    let loc := locOf t (s.bucket t cur) w
    match s.at loc with
    | none => none
    | some v =>
      if s.parkedAt loc then none
      else match s.freeWay (1 - t) (keyBlock v) with
        | some d => some [loc, d]
        | none => (s.planPath f (keyBlock v) (1 - t) ((w + 1) % 4)).map fun p => loc :: p

/-- Where an entry of this key block goes in the tables: the locations of its path, the last one free. DESIGN CHOICE (log
entry 121): without salts (GROUNDED, R249) there is none, so only the stash takes it. -/
def State.tablePath (s : State) (kb : Bytes) : Option (List Nat) := if !s.lookup.salted then none else match s.freeWay 0 kb with
  | some l => some [l]
  | none => match s.freeWay 1 kb with
    | some l => some [l]
    | none => s.planPath 32 kb 0 (s.lookup.salt0.toNat % 4)

/-- Move an entry (R254): VER is inverted. -/
def moveEntry (src dst : Nat) : M Unit := do
  match (← getS).at src with
  | none => pure ()
  | some ws =>
    prim (.assoc dst (some (setWordAt ws 0 (setBits (wordAt ws 0) 30 30 (1 - bits (wordAt ws 0) 30 30)))))
    prim (.assoc src none)

/-- The moves of a path, from its last step to its first. -/
def runPath : List Nat → M Unit
  | a :: b :: r => do
    runPath (b :: r)
    moveEntry a b
  | _ => pure ()

/-- Carry out a path: its first location is then free. -/
def clearPath (p : List Nat) : M Unit := do
  runPath p
  wr R.ASSOC_MOVES.LAST (p.length - 1)
  wrMax R.ASSOC_MOVES.MAX (p.length - 1)

/-- The lowest free stash location. -/
def State.freeStash (s : State) : Option Nat :=
  ((List.range 16).map (stashBase + ·)).find? fun loc => (s.at loc).isNone

/-- Put an entry into the tables or the stash; `none` is FULL. -/
def placeAssoc (ws : List Word) : M (Option Nat) := do
  let s ← getS
  match s.tablePath (keyBlock ws) with
  | some p =>
    clearPath p
    let loc := p.headD 0
    prim (.assoc loc (some ws))
    return some loc
  | none =>
    wr R.ASSOC_MOVES.LAST 0
    let room := decide (s.learnReserve < 16 - s.stashUsed)
    match s.freeStash with
    | some loc =>
      if room then
        prim (.assoc loc (some ws))
        return some loc
      else return none
    | none => return none

/-- Retry the insertion of each stash entry into the tables, learned entries first (R255). -/
def stashRetry : M Unit := do
  let s ← getS
  let st := s.assocs.filter fun p => stashBase ≤ p.1
  forM ((st.filter fun p => eKind p.2 = 4) ++ st.filter fun p => eKind p.2 ≠ 4) fun p => do
    let s1 ← getS
    if s1.parkedAt p.1 then pure ()
    else match s1.tablePath (keyBlock p.2) with
      | some path =>
        clearPath path
        moveEntry p.1 (path.headD 0)
      | none => pure ()
  assocRefresh

/-! ### The peer-context store (R246, R260) -/

/-- The lowest free blocks, at most `n`. -/
def State.freePeers (s : State) (n : Nat) : List Nat :=
  ((List.range 4096).filter fun i => (mget (fun _ => none) s.peers i).isNone).take n

/-- A learned context. -/
def State.ctx (s : State) (n : Nat) : Option (List Word) := match mget (fun _ => none) s.peers n with
  | some (.ctx ws) => some ws
  | _ => none

/-- Fields of a learned context. -/
def cPinned (c : List Word) : Bool := (wordAt c 0).testBit 30
def cPort (c : List Word) : Nat := bits (wordAt c 0) 28 24
def cAn (c : List Word) : Nat := bits (wordAt c 0) 23 22
def cTemplate (c : List Word) : Nat := bits (wordAt c 0) 20 8
def cGroup (c : List Word) : Nat := bits (wordAt c 0) 7 0
def cSci (c : List Word) : Nat := wordAt c 1 * 2 ^ 32 + wordAt c 2

/-- The learned contexts. -/
def State.ctxs (s : State) : List (Nat × List Word) := s.peers.filterMap fun p => (s.ctx p.1).map fun c => (p.1, c)

/-- Bits of the time base that a context holds. -/
def State.sinceNow (s : State) : Nat := bits s.now.toNat 41 10
def State.seenNow (s : State) : Nat := bits s.now.toNat 61 30

/-- The payload of LEARN_COMMIT and LEARN_REMOVE. -/
def learnPayload (peer port : Nat) : BitVec 96 := BitVec.ofNat 96 (peer + port * 2 ^ 16)

/-! ### Removal (R256, R273, R295) -/

/-- The learned entry of a context. -/
def State.entryOfPeer (s : State) (n : Nat) : Option Nat :=
  (s.assocs.find? fun p => eKind p.2 = 4 && ePeer p.2 = n).map (·.1)

/-- Remove a learned context with its entry; every removal writes a chronicle entry (R264). `aged`: R263 removes it. -/
def removePeer (n : Nat) (aged : Bool) : M Unit := do
  let s ← getS
  let port := match s.ctx n with | some c => cPort c | none => 0
  match s.entryOfPeer n with
  | some loc =>
    prim (.assoc loc none)
    prim (.parked loc false)
  | none => pure ()
  prim (.peer n none)
  if aged then raiseNamed E.LEARN.AGED 0x0033 [learnPayload n port]
  else pageEntry 0x21 0x0033 [learnPayload n port]

/-- Switch records that name a handle return to IDLE (R295). -/
def dropSwitches (h : Nat) : M Unit := do
  let s ← getS
  forM (List.range 32) fun i =>
    if s.fld (R.FRESH_SW_CTL.STATE i) ≠ 0 ∧ (s.fld (R.FRESH_SW_CTL.HANDLE i) = h
        ∨ (s.fld (R.FRESH_SW_CTL.DIR i) = 1 ∧ s.kindOf (s.fld (R.FRESH_SW_CTL.HANDLE i)) = some 0 ∧ s.fld (R.FRESH_SW_AUX.NEW_HANDLE i) = h)) then do
      wr (R.FRESH_SW_CTL.STATE i) 0
      raise E.FRESH.SW_BAD
    else pure ()

/-- Remove what stands at a location: the entry, its window blocks, its binding and its counter. `lost`: its words are
not to be had, so a transmit entry's floor rises to the ceiling (R585). -/
def removeEntry (loc : Nat) (lost : Bool) : M Unit := do
  let s ← getS
  match s.at loc with
  | none => pure ()
  | some ws =>
    if eKind ws = 4 then removePeer (ePeer ws) false
    else
      let h := eHandle ws
      dropSwitches h
      if (eKind ws = 1 ∨ eKind ws = 3) ∧ lost then raiseFloor s.ceiling
      releaseAssoc h
      forM s.peers fun p => match p.2 with
        | some (.window k _) => if k = h then prim (.peer p.1 none) else pure ()
        | _ => pure ()
      prim (.assoc loc none)
      prim (.parked loc false)
      prim (.counter h {})
      exhCount

/-- The learned contexts of a template. -/
def State.learnedOf (s : State) (h : Nat) : List Nat :=
  (s.ctxs.filter fun p => cTemplate p.2 = h).map (·.1)

/-! ### Learning (R258 to R262) -/

/-- What R262 decides on a verified frame of a sender that has a context. -/
inductive Learned where
  /-- it has this context -/
  | peer (n : Nat)
  | refused
  deriving DecidableEq, Repr

/-- Refuse a commit (R261). -/
def learnRefuse (cause : Nat) : M Learned := do
  bump R.LEARN_REFUSED.COUNT
  wr R.LEARN_REFUSED.LAST_CAUSE cause
  raise E.LEARN.REFUSED
  return .refused

/-- Replace a learned context. -/
def setCtx (n : Nat) (c : List Word) : M Unit := prim (.peer n (some (.ctx c)))

/-- A verified frame finds a context: it is the sender's port, or R262 decides. -/
def contest (n : Nat) (c : List Word) (port : Nat) : M Learned := do
  let s ← getS
  let seen (x : List Word) := setWordAt x 4 s.seenNow
  if cPort c = port then
    setCtx n (seen c)
    return .peer n
  else if cPinned c then learnRefuse 4
  else
    let age := (s.sinceNow + 2 ^ 32 - wordAt c 3) % 2 ^ 32
    if age * 1024 < s.fld R.LEARN_HOLD.MOVE_HOLD_US * 1000 then
      setCtx n (setWordAt c 0 (setBits (wordAt c 0) 30 29 3))
      bump R.LEARN_MOVES.CONTESTED
      raise E.LEARN.CONTESTED
      learnRefuse 4
    else
      setCtx n (seen (setWordAt (setWordAt c 0 (setBits (wordAt c 0) 28 24 port)) 3 s.sinceNow))
      bump R.LEARN_MOVES.MOVED
      raise E.LEARN.MOVED
      return .peer n

/-- The words of a new learned context. -/
def newCtx (port an tmpl group sci win since seen pn : Nat) : List Word :=
  [BitVec.ofNat 32 (2 ^ 31 + port * 2 ^ 24 + an * 2 ^ 22 + tmpl * 2 ^ 8 + group),
    BitVec.ofNat 32 (sci / 2 ^ 32), BitVec.ofNat 32 sci, BitVec.ofNat 32 since, BitVec.ofNat 32 seen,
    BitVec.ofNat 32 win] ++ natWords 2 pn ++ natWords 8 (if win = 0 then 0 else 1)

/-- Learn a sender that has no context yet, from its first verified frame (R259, R261). Answers whether it has been learned.
DESIGN CHOICE (log entry 120): with 8192 valid entries (R242) the commit is refused as with a full stash. -/
def learnNew (tmpl : List Word) (port an sci pn : Nat) : M Bool := do
  let s ← getS
  let g := eGroup tmpl
  let refuse (cause : Nat) : M Bool := do
    let _ ← learnRefuse cause
    return false
  match s.freeStash, s.freePeers 1 with
  | none, _ => refuse 1
  | _, [] => refuse 2
  | some loc, n :: _ =>
    let quota := min 8192 (s.fld (R.QUEUE_TNT_QUOTA_B.ASSOC (eTenant tmpl)))
    if 8192 ≤ s.assocs.length then refuse 1
    else if quota ≤ s.assocUse (eTenant tmpl) then refuse 3
    else
      setCtx n (newCtx port an (eHandle tmpl) g sci (min 256 (eWin tmpl)) s.sinceNow s.seenNow pn)
      let w0 := 2 ^ 31 + 4 * 2 ^ 27 + port * 2 ^ 22 + an * 2 ^ 20 + g * 2 ^ 8
      prim (.assoc loc (some ([BitVec.ofNat 32 w0, BitVec.ofNat 32 (sci / 2 ^ 32), BitVec.ofNat 32 sci,
        BitVec.ofNat 32 n] ++ List.replicate 12 0)))
      raiseNamed E.LEARN.LEARNED 0x0032 [learnPayload n port]
      stashRetry
      return true

/-! ### The trie (R265 to R269) -/

/-- A family's address width, as far as the trie considers it. -/
def famBits (v6 : Bool) : Nat := if v6 then 64 else 32

/-- A prefix within its family, with no bit set below its length. -/
def ruleOk (len : Nat) (v6 : Bool) (pfx : Nat) : Bool := decide (len ≤ famBits v6) && decide (pfx % 2 ^ (64 - len) = 0)

/-- The longest prefix of the active bank that matches an address, given in the top bits of 64. -/
def State.trieHit (s : State) (v6 : Bool) (addr : Nat) : Option Nat :=
  let ms := s.lookup.active.filter fun r =>
    r.v6 = v6 && decide (addr / 2 ^ (64 - r.len) = r.pfx.toNat / 2 ^ (64 - r.len))
  (ms.foldl (fun (b : Option TrieRule) r => match b with
    | some x => if x.len < r.len then some r else b
    | none => some r) none).map fun r => r.handle

/-- The number of stride-8 nodes that rules need (R268). -/
def trieNodes (rs : List TrieRule) : Nat :=
  ([false, true].map fun v6 => ((List.range 7).map fun j =>
    ((rs.filter fun r => r.v6 = v6 && decide (16 + 8 * j < r.len)).map fun r =>
      r.pfx.toNat / 2 ^ (64 - (16 + 8 * j))).eraseDups.length).sum).sum

/-- Two rules share family, length and prefix. -/
def dupRule : List TrieRule → Bool
  | [] => false
  | r :: rs => (rs.any fun x => x.v6 = r.v6 && x.len = r.len && x.pfx = r.pfx) || dupRule rs

end Sys2Proof.Machine
end

