-- ==== Sys2Proof/Machine/AssocCmds.lean ====
section
/-! DEFINITION. The commands of the ASSOC, LEARN and TRIE pages (R246, R249, R255 to R257, R262, R263, R267 to R269) and a
lookup macro's parity failure (R585). -/
namespace Sys2Proof.Machine
open Sys2Proof

/-! ### INSERT (R257) -/

/-- The staged entry. -/
def State.stagedEntry (s : State) : List Word := (List.range 16).map fun w => BitVec.ofNat 32 (s.fld (R.ASSOC_ENTRY.WORD w))

/-- The bits of an entry word that are no field of a kind (R245). WINDOW of a window of more than 128 entries is
Otist's. -/
def reservedBits (ws : List Word) (i : Nat) : Nat :=
  let k := eKind ws
  let eth := decide (k = 0 ∨ k = 1 ∨ k = 5)
  let all : Nat := 0xFFFFFFFF
  let used := match i with
    | 0 => 0xFFCE00FF + (if eth then 0x00300000 else 0) + (if k = 5 then 0xFF00 else 0)
    | 1 | 2 => all
    | 3 => if eth then 0x01FF0000 else 0x01FF01FF
    | 4 => if k = 1 then 0xF8000000 else if eth then 0xE4000000 else 0xFFFFFFF8
    | 5 => if k = 1 ∨ k = 3 then 0x1FFF0000 else 0x1FFF07FF
    | 6 | 7 => if k = 5 then 0 else all
    | 8 => if eth then all else 0xFF
    | 9 | 10 | 11 => if eth then all else 0
    | 12 => if k = 1 then all else if k = 0 ∨ k = 2 then (if eWin ws ≤ 128 then all else 0x0FFF0FFF) else 0
    | 13 => if k = 1 then all else if (k = 0 ∨ k = 2) ∧ eWin ws ≤ 128 then all else 0
    | _ => if k = 1 ∨ k = 3 then all else if (k = 0 ∨ k = 2) ∧ eWin ws ≤ 128 then all else 0
  all - used

/-- A staged entry that is refused with BAD_ENTRY. -/
def badEntry (ws : List Word) : Bool :=
  let k := eKind ws
  let eth := decide (k = 0 ∨ k = 1 ∨ k = 5)
  k = 4 || decide (6 ≤ k) || ((List.range 16).any fun i => decide (wordAt ws i &&& reservedBits ws i ≠ 0))
    || decide (eth ≠ decide (ePort ws < 16)) || decide (1024 < eWin ws)
    || (if eth then
        !eXpn ws && decide (wordAt ws 8 ≠ 0 ∨ wordAt ws 9 ≠ 0 ∨ wordAt ws 10 ≠ 0 ∨ wordAt ws 11 ≠ 0)
      else decide (32 < eTfvBits ws) || decide (eMacBytes ws < 3) || decide (16 < eMacBytes ws)
        || (!eEnc ws && decide (eSlotB ws ≠ 0)))

/-- The window blocks of an entry. -/
def entryBlocks (ws : List Word) : Nat := if eKind ws = 0 ∨ eKind ws = 2 then winBlocks (eWin ws) else 0

/-- The window's place in an entry whose blocks are `bs`: their indices, or the words themselves. -/
def withBlocks (ws : List Word) (bs : List Nat) : List Word :=
  if entryBlocks ws = 0 then ws
  else ws.take 12 ++ [BitVec.ofNat 32 (bs.getD 0 0 + bs.getD 1 0 * 2 ^ 16), 0, 0, 0]

/-- Allocate blocks to a handle, with the window bits. -/
def putBlocks (h : Nat) (bs : List Nat) (win : Nat) : M Unit :=
  forM bs.zipIdx fun (n, i) => prim (.peer n (some (.window h (natWords 16 (win / 2 ^ (512 * i))))))

/-- The entry as Otist installs it: VALID, VER 0, generation 0, and LEASE_END of a transmit kind (R289). -/
def State.installed (s : State) (ws : List Word) : List Word :=
  let w := setWordAt ws 0 (setBits (setBits (setBits (wordAt ws 0) 31 31 1) 30 30 0) 7 0 0)
  if eKind ws = 1 ∨ eKind ws = 3 then setLease w (if ctr32 ws then 2 ^ 32 else s.ceiling) else w

/-- An insertion that ends FULL. -/
def insertFull : M Unit := do
  bump R.ASSOC_FULL.COUNT
  raise E.ASSOC.INSERT_FULL
  cmdEnd U.assoc rcFull

/-- Install a new entry. -/
def insertNew (ws : List Word) : M Unit := do
  let s ← getS
  let h := eHandle ws
  let bs := s.freePeers (entryBlocks ws)
  if 8192 ≤ s.assocs.length ∨ bs.length < entryBlocks ws then insertFull
  else
    let e := withBlocks (s.installed ws) bs
    match ← placeAssoc e with
    | none => insertFull
    | some loc =>
      putBlocks h bs 0
      prim (.counter h {})
      noteLoc loc e
      assocRefresh
      cmdEnd U.assoc rcOk

/-- The entry that a REPLACE makes of an old one: it keeps VALID, VER, FRESH and LEASE_END, and GEN goes up. -/
def replaced (old ws : List Word) : List Word :=
  let w0 := setBits (setBits (wordAt ws 0) 31 30 (bits (wordAt old 0) 31 30)) 7 0 (eGen old + 1)
  let a := setFresh (setWordAt ws 0 w0) (eFresh old)
  if eKind ws = 1 then a.take 14 ++ old.drop 14
  else if eKind ws = 5 then a
  else a.take 12 ++ old.drop 12

/-- REPLACE (R257, R273, R293). The window is kept; its blocks follow REPLAY_WIN. -/
def replaceEntry (loc : Nat) (old ws : List Word) : M Unit := do
  let s ← getS
  let h := eHandle ws
  let rx := decide (eKind ws = 0 ∨ eKind ws = 2)
  let have_ := if entryBlocks old = 0 then [] else [eWblkA old] ++ (if entryBlocks old = 2 then [eWblkB old] else [])
  let need := entryBlocks ws
  let bs := (have_ ++ s.freePeers (need - have_.length)).take need
  if bs.length < need then insertFull
  else
    let r := s.rxState (.entry loc) false
    let e0 := replaced old ws
    let e := if need = 0 then (if rx ∧ have_ ≠ [] then e0.take 12 ++ natWords 4 r.win else e0) else withBlocks e0 bs
    if ctrSlot ws ≠ ctrSlot old ∧ (eKind ws = 1 ∨ eKind ws = 3) then
      releaseAssoc h
      retryExhausted h
    setAssoc loc e
    if have_ ≠ bs then
      forM have_ fun n => prim (.peer n none)
      putBlocks h bs r.win
    noteLoc loc e
    assocRefresh
    cmdEnd U.assoc rcOk

/-- INSERT. -/
def assocInsert (opt : Bool) : M Unit := do
  let s ← getS
  let ws := s.stagedEntry
  if badEntry ws then cmdEnd U.assoc rcBadEntry
  else match s.anyHandle (eHandle ws) with
    | some (loc, old) =>
      if !opt then cmdEnd U.assoc rcHandleUsed
      else if keyBlock old ≠ keyBlock ws ∨ s.parkedAt loc then cmdEnd U.assoc rcBadEntry
      else replaceEntry loc old ws
    | none =>
      if (s.probe (keyBlock ws)).isSome then cmdEnd U.assoc rcKeyUsed
      else if min 8192 (s.fld (R.QUEUE_TNT_QUOTA_B.ASSOC (eTenant ws))) ≤ s.assocUse (eTenant ws) then
        cmdEnd U.assoc rcQuota
      else insertNew ws

/-! ### The other ASSOC commands (R256) -/

/-- Copy an entry into ASSOC_ENTRY. -/
def showEntry (loc : Nat) (ws : List Word) : M Unit := do
  forM (List.range 16) fun i => wr (R.ASSOC_ENTRY.WORD i) (wordAt ws i)
  noteLoc loc ws

def assocSearch : M Unit := do
  let s ← getS
  match s.probe (keyBlock s.stagedEntry) with
  | some (loc, ws) =>
    showEntry loc ws
    cmdEnd U.assoc rcOk
  | none => cmdEnd U.assoc rcNotFound

/-- The installed entry with the lowest handle above `h`. -/
def State.nextHandle (s : State) (h : Nat) : Option (Nat × List Word) :=
  (s.assocs.filter fun p => eKind p.2 ≠ 4 && decide (h < eHandle p.2)).foldl (fun (b : Option (Nat × List Word)) p =>
    match b with
    | some x => if eHandle p.2 < eHandle x.2 then some p else b
    | none => some p) none

def assocNext (h : Nat) : M Unit := do
  match (← getS).nextHandle h with
  | some (loc, ws) =>
    showEntry loc ws
    cmdEnd U.assoc rcOk
  | none => cmdEnd U.assoc rcEnd

/-- Count the entries removed since the table held `before`, and end. -/
def removedEnd (before code : Nat) : M Unit := do
  wr R.ASSOC_CMD_STAT.COUNT (before - (← getS).assocs.length)
  assocRefresh
  cmdEnd U.assoc code

def assocDelete (h : Nat) : M Unit := do
  let s ← getS
  let before := s.assocs.length
  match s.anyHandle h with
  | none => removedEnd before rcNotFound
  | some (loc, ws) =>
    if eKind ws = 5 then forM (s.learnedOf h) fun n => removePeer n false
    removeEntry loc false
    wr R.ASSOC_CMD_STAT.COUNT (before - (← getS).assocs.length)
    stashRetry
    cmdEnd U.assoc rcOk

def assocFlush (port : Nat) (learned : Bool) : M Unit := do
  let s ← getS
  forM (s.assocs.filter fun p => ePort p.2 = port && (!learned || eKind p.2 = 4)) fun p => removeEntry p.1 false
  removedEnd s.assocs.length rcOk

/-- An aging pass (R263). -/
def agingPass : M Unit := do
  let s ← getS
  let limit := s.fld R.LEARN_AGE.LIMIT
  if limit ≠ 0 then
    forM s.ctxs fun p =>
      let parked := match s.entryOfPeer p.1 with | some l => s.parkedAt l | none => false
      if !cPinned p.2 ∧ !parked ∧ limit ≤ (s.seenNow + 2 ^ 32 - wordAt p.2 4) % 2 ^ 32 then removePeer p.1 true
      else pure ()
  wr R.ASSOC_CMD_STAT.COUNT (s.assocs.length - (← getS).assocs.length)
  stashRetry

/-- SEARCH and INSERT probe, so before the salts are derived they wait (R88, R249); while Otist is GROUNDED they miss. -/
def assocProbing (op : Nat) (opt : Bool) : M Unit := do
  let s ← getS
  if !s.lookup.salted ∧ !s.grounded then prim (.lookup { s.lookup with held := some (op, opt) })
  else if op = 1 then assocSearch
  else assocInsert opt

/-- ASSOC_CMD. -/
def fxAssocCmd (op : Nat) (opt : Bool) (port h : Nat) : M Unit :=
  cmdActive U.assoc do
    if op = 1 ∨ op = 3 then assocProbing op opt
    else if op = 2 then assocNext h
    else if op = 4 then assocDelete h
    else if op = 5 then assocFlush port opt
    else if op = 6 then
      agingPass
      cmdEnd U.assoc rcOk
    else cmdEnd U.assoc rcBadCmd

def assocWrite (rid : BitVec 12) (op : Nat) (opt : Bool) (port h : Nat) : M Unit :=
  hostWrite (fullWrite rid R.ASSOC_CMD.OP.addr (BitVec.ofNat 32 (op * 2 ^ 28 + bitAt opt 27 + port * 2 ^ 16 + h)))
    (fxAssocCmd op opt port h)

def execSearch (rid : BitVec 12) (s : State) : Host.Outcome State Fault Refusal := exec1 (assocWrite rid 1 false 0 0) s

def execNext (rid : BitVec 12) (h : BitVec 13) (s : State) : Host.Outcome State Fault Refusal :=
  exec1 (assocWrite rid 2 false 0 h.toNat) s

def execInsert (rid : BitVec 12) (replace : Bool) (s : State) : Host.Outcome State Fault Refusal :=
  exec1 (assocWrite rid 3 replace 0 0) s

def execDelete (rid : BitVec 12) (h : BitVec 13) (s : State) : Host.Outcome State Fault Refusal :=
  exec1 (assocWrite rid 4 false 0 h.toNat) s

def execFlushPort (rid : BitVec 12) (port : Fin 32) (learnedOnly : Bool) (s : State) : Host.Outcome State Fault Refusal :=
  exec1 (assocWrite rid 5 learnedOnly port 0) s

def execAge (rid : BitVec 12) (s : State) : Host.Outcome State Fault Refusal := exec1 (assocWrite rid 6 false 0 0) s

/-! ### What the unit does by itself -/

/-- The period of LEARN_AGE ends. -/
def autoAging : M Unit := do
  let s ← getS
  let period := max 1 (s.fld R.LEARN_AGE.PERIOD_S) * 1000000000
  if s.active 0x21 ∧ s.fld R.LEARN_AGE.AUTO = 1 ∧ s.lookup.lastAge + period ≤ s.now.toNat then
    prim (.lookup { s.lookup with lastAge := s.now.toNat })
    agingPass

def execAutoAgingPass (s : State) : Host.Outcome State Fault Refusal := exec1 autoAging s

def execStashRetry (s : State) : Host.Outcome State Fault Refusal :=
  exec1 (do if (← getS).active 0x20 then stashRetry) s

/-- The salts of R249, derived from when the page first enters ACTIVE; a command that waited for them then runs. -/
def saltDerived : M Unit := do
  let s ← getS
  match s.assocSalt, s.initRuns with
  | some v, true =>
    let a := BitVec.ofNat 32 (beAt v 0 4)
    let b := BitVec.ofNat 32 (beAt v 4 4)
    prim (.lookup { s.lookup with salt0 := a, salt1 := if a = b then b ^^^ 1 else b, salted := true, held := none })
    match s.lookup.held with
    | some (op, opt) => assocProbing op opt
    | none => pure ()
  | _, _ => pure ()

def execSaltDerived (s : State) : Host.Outcome State Fault Refusal := exec1 saltDerived s

/-- A parity failure in an association word, or in a block of the peer-context store (R585). -/
def lookupParity (peer : Bool) (n : Nat) : M Unit := do
  let s ← getS
  if peer then
    match mget (fun _ => none) s.peers n with
    | some (.ctx _) =>
      removePeer n false
      raise E.CELLAR.LOOKUP_LOSS
    | some (.window h _) => match s.anyHandle h with
      | some (loc, _) =>
        removeEntry loc true
        raise E.CELLAR.LOOKUP_LOSS
      | none => pure ()
    | none => pure ()
  else if (s.at n).isSome then
    removeEntry n true
    raise E.CELLAR.LOOKUP_LOSS
  assocRefresh

def execLookupParityFault (peer : Bool) (n : BitVec 14) (s : State) : Host.Outcome State Fault Refusal :=
  exec1 (lookupParity peer n.toNat) s

/-! ### LEARN_CMD -/

/-- LEARN_CMD. -/
def fxLearnCmd (op n : Nat) : M Unit :=
  cmdActive U.learn do
    let s ← getS
    if op < 1 ∨ 3 < op then cmdEnd U.learn rcBadCmd
    else match s.ctx n with
      | none => cmdEnd U.learn rcNotFound
      | some c =>
        if op = 1 then forM (List.range 16) fun i => wr (R.LEARN_CTX.WORD i) (wordAt c i)
        else if op = 2 then
          setCtx n (setWordAt (setWordAt c 0 (setBits (wordAt c 0) 30 29 0)) 3 s.sinceNow)
        else
          removePeer n false
          stashRetry
        cmdEnd U.learn rcOk

def learnWrite (rid : BitVec 12) (op n : Nat) : M Unit :=
  hostWrite (fullWrite rid R.LEARN_CMD.OP.addr (BitVec.ofNat 32 (op * 2 ^ 28 + n))) (fxLearnCmd op n)

def execLearnRead (rid : BitVec 12) (peer : BitVec 12) (s : State) : Host.Outcome State Fault Refusal :=
  exec1 (learnWrite rid 1 peer.toNat) s

def execUnpin (rid : BitVec 12) (peer : BitVec 12) (s : State) : Host.Outcome State Fault Refusal :=
  exec1 (learnWrite rid 2 peer.toNat) s

def execLearnDelete (rid : BitVec 12) (peer : BitVec 12) (s : State) : Host.Outcome State Fault Refusal :=
  exec1 (learnWrite rid 3 peer.toNat) s

/-! ### TRIE_CMD (R267 to R269) -/

/-- A rule. -/
def State.rule (s : State) (i : Nat) : TrieRule := mget (fun _ => {}) s.rules i

/-- RuleState as TRIE_RULE_CTL.STATE encodes it. -/
def RuleState.code : RuleState → Nat
  | .free => 0
  | .pendingAdd => 1
  | .live => 2
  | .pendingDel => 3

/-- Keep TRIE_COUNT. -/
def trieRefresh : M Unit := do
  let s ← getS
  let n (st : RuleState) := (s.rules.filter fun p => p.2.st = st).length
  wr R.TRIE_COUNT.PENDING (n .pendingAdd + n .pendingDel)
  wr R.TRIE_COUNT.LIVE (n .live + n .pendingDel)

/-- Change a rule; a BUILD made before no longer stands. -/
def setRule (i : Nat) (r : TrieRule) : M Unit := do
  prim (.rule i r)
  prim (.lookup { (← getS).lookup with built := false })
  trieRefresh
  cmdEnd U.trie rcOk

def ruleSet (i : Nat) : M Unit := do
  let s ← getS
  let v6 := decide (s.fld R.TRIE_RULE_CTL.FAMILY = 1)
  let len := s.fld R.TRIE_RULE_CTL.LEN
  let pfx := s.fld R.TRIE_RULE_PREFIX.PREFIX
  if (s.rule i).st ≠ .free then cmdEnd U.trie rcState
  else if !ruleOk len v6 pfx then cmdEnd U.trie rcBadRule
  else setRule i ⟨.pendingAdd, v6, len, BitVec.ofNat 64 pfx, s.fld R.TRIE_RULE_CTL.HANDLE⟩

def ruleDel (i : Nat) : M Unit := do
  let r := (← getS).rule i
  match r.st with
  | .live => setRule i { r with st := .pendingDel }
  | .pendingAdd => setRule i {}
  | _ => cmdEnd U.trie rcState

def ruleRead (i : Nat) : M Unit := do
  let r := (← getS).rule i
  wr R.TRIE_RULE_CTL.STATE r.st.code
  wr R.TRIE_RULE_CTL.FAMILY (b2n r.v6)
  wr R.TRIE_RULE_CTL.LEN r.len
  wr R.TRIE_RULE_CTL.HANDLE r.handle
  wr R.TRIE_RULE_PREFIX.PREFIX r.pfx.toNat
  cmdEnd U.trie rcOk

def trieBuild : M Unit := do
  let s ← getS
  let rs := (s.rules.filter fun p => p.2.st = .live ∨ p.2.st = .pendingAdd).map (·.2)
  let n := trieNodes rs
  wr R.TRIE_CMD_STAT.NODES (min n 0xFFF)
  if dupRule rs ∨ 2048 < n then
    raise E.TRIE.BUILD_FAIL
    cmdEnd U.trie (if dupRule rs then rcDupRule else rcTooManyNodes)
  else
    prim (.lookup { s.lookup with shadow := rs, built := true })
    raise E.TRIE.BUILD_DONE
    cmdEnd U.trie rcOk

def trieSwap : M Unit := do
  let s ← getS
  if !s.lookup.built then cmdEnd U.trie rcNotBuilt
  else
    prim (.lookup { s.lookup with
      active := s.lookup.shadow, shadow := s.lookup.active, built := false, bank1 := !s.lookup.bank1 })
    forM s.rules fun p => match p.2.st with
      | .pendingAdd => prim (.rule p.1 { p.2 with st := .live })
      | .pendingDel => prim (.rule p.1 {})
      | _ => pure ()
    trieRefresh
    raise E.TRIE.SWAPPED
    cmdEnd U.trie rcOk

/-- TRIE_CMD. -/
def fxTrieCmd (op i : Nat) : M Unit :=
  cmdActive U.trie do
    if op = 1 then ruleSet i
    else if op = 2 then ruleDel i
    else if op = 3 then ruleRead i
    else if op = 4 then trieBuild
    else if op = 5 then trieSwap
    else cmdEnd U.trie rcBadCmd

def trieWrite (rid : BitVec 12) (op i : Nat) : M Unit :=
  hostWrite (fullWrite rid R.TRIE_CMD.OP.addr (BitVec.ofNat 32 (op * 2 ^ 28 + i))) (fxTrieCmd op i)

def execRuleSet (rid : BitVec 12) (i : BitVec 11) (s : State) : Host.Outcome State Fault Refusal :=
  exec1 (trieWrite rid 1 i.toNat) s

def execRuleDel (rid : BitVec 12) (i : BitVec 11) (s : State) : Host.Outcome State Fault Refusal :=
  exec1 (trieWrite rid 2 i.toNat) s

def execRuleRead (rid : BitVec 12) (i : BitVec 11) (s : State) : Host.Outcome State Fault Refusal :=
  exec1 (trieWrite rid 3 i.toNat) s

def execBuild (rid : BitVec 12) (s : State) : Host.Outcome State Fault Refusal := exec1 (trieWrite rid 4 0) s

def execSwap (rid : BitVec 12) (s : State) : Host.Outcome State Fault Refusal := exec1 (trieWrite rid 5 0) s

end Sys2Proof.Machine
end

