-- ==== Sys2Proof/Machine/Streams.lean ====
section
/-! DEFINITION. Stream items from their SOF beat to their release (R180 to R187, R203 to R213), and Bridle frames (R216 to
R236), as the commands of every path use them. -/
namespace Sys2Proof.Machine
open Sys2Proof

/-- An item of a port. -/
def State.item (s : State) (n id : Nat) : Option SItem := (s.port n).items.find? fun i => i.id = id

/-- Void an item whose frame is bad (R187, R198, R231): an accepted one is truncated. -/
def badFrame (n : Nat) (i : SItem) (cause : Nat) : M Unit :=
  if i.entry.isSome then truncItem n i (if cause = lwTruncated then 0 else cause) else voidItem n i cause

/-- An item takes bytes, up to MAX_ITEM units; one that would grow past them is bad (R187). -/
def takeBytes (n : Nat) (i : SItem) (bytes : Bytes) : M Unit := do
  growItem n i (i.fitting bytes)
  if i.maxItem < itemUnits bytes.length then
    match (← getS).item n i.id with
    | some j => badFrame n j lwOversize
    | none => pure ()

/-- An SOF beat of a direction is held under R182 or R190, or no longer (WAIT_ADMIT). -/
def setWait (n : Nat) (tx held : Bool) : M Unit := do
  let p := (← getS).port n
  let q := if tx then { p with waitTx := held } else { p with waitRx := held }
  prim (.port n q)
  wr (R.STRM_P_STAT.WAIT_ADMIT n) (b2n (q.waitRx || q.waitTx))

/-- An SOF beat, with the beats that follow it so far. Answers the item admitted. -/
def admitFrame (n : Nat) (tx : Bool) (bytes : Bytes) : M (Option Nat) := do
  let s ← getS
  if !s.mayAdmit n tx then return none
  else if !s.room n ∨ (!tx ∧ (s.port n).xoff) then
    setWait n tx true
    return none
  else if tx ∧ s.txoTaken n then
    prim (.port n { s.port n with sofHeld := true })
    return none
  else
    if tx then prim (.port n { s.port n with sofHeld := false })
    setWait n tx false
    let id ← newItem n tx
    match (← getS).item n id with
    | some i => takeBytes n i bytes
    | none => pure ()
    return some id

/-! ### Probes (R251, R252) -/

/-- What a lookup finds. -/
inductive Found where
  /-- it waits: INIT (R249), a parked location (R526), or slots about to be rewritten (R297) -/
  | wait
  | miss
  | hit (c : AssocCopy)
  deriving DecidableEq, Repr

/-- The copy that an item takes of an entry software installed. -/
def copyOf (ws : List Word) : AssocCopy := ⟨eHandle ws, eGen ws, ws, false, none⟩

/-- One probe. -/
def State.look (s : State) (kb : Bytes) : Found :=
  if !s.active 0x20 then .miss
  else if !s.lookup.salted then (if s.grounded then .miss else .wait)
  else match s.probe kb with
    | none => .miss
    | some (loc, ws) =>
      if s.parkedAt loc then .wait
      else if eKind ws = 4 then
        match (s.ctx (ePeer ws)).bind fun c => s.anyHandle (cTemplate c) with
        | some (l, t) => if s.parkedAt l then .wait else .hit { copyOf t with peer := some (ePeer ws) }
        | none => .miss
      else if (s.counter (eHandle ws)).rewrite.isSome then .wait
      else .hit (copyOf ws)

/-- The learning group of a port (R258). -/
def State.portGroup (s : State) (n : Nat) : Nat :=
  (regWord s.regs (R.LEARN_GRP.GRP_0 (n / 4)).addr).toNat / 2 ^ (8 * (n % 4)) % 256

/-- The first of two lookups that does not miss. -/
def Found.orElse (a : Found) (b : Found) : Found := match a with
  | .miss => b
  | x => x

/-- The probes of an IEEE 802.1AE receive frame. -/
def State.lookRx (s : State) (n an sci : Nat) : Found :=
  let learn := s.active 0x21 && (s.fld R.LEARN_PORTS.EN).testBit n
  let t := if learn then
      match s.look (keyBlockOf 5 n an 0) with
      | .hit c => .hit { c with learn := true }
      | x => x
    else .miss
  let f := ((s.look (keyBlockOf 0 n an sci)).orElse (s.look (keyBlockOf 4 (s.portGroup n) an sci))).orElse t
  match f with
  | .hit c => if (s.counter c.handle).retired then .miss else f
  | x => x

/-- The offset of a frame's EtherType after at most one VLAN tag, and the VID with UNTAGGED of the probe key (R247). -/
def vlanTag (b : Bytes) : Nat × Nat :=
  let t := beAt b 12 2
  let vid := beAt b 14 2 % 4096
  if t = 0x8100 ∨ t = 0x88A8 then (16, if vid = 0 then 4096 else vid) else (12, 4096)

/-- The destination that the trie considers (R265). -/
def trieAddr (b : Bytes) : Option (Bool × Nat) :=
  let o := (vlanTag b).1
  let t := beAt b o 2
  if t = 0x0800 then some (false, beAt b (o + 18) 4 * 2 ^ 32)
  else if t = 0x86DD then some (true, beAt b (o + 26) 8)
  else none

/-- The lookup of an IEEE 802.1AE transmit frame. -/
def lookTx (n : Nat) (b : Bytes) : M Found := do
  let s ← getS
  let hash := s.look (keyBlockOf 1 n 0 (vlanTag b).2)
  let hit := if s.active 0x22 && (s.fld R.TRIE_PORTS.EN).testBit n then
      (trieAddr b).bind fun (v6, a) => s.trieHit v6 a
    else none
  match hit with
  | none => return hash
  | some h => match s.anyHandle h with
    | some (loc, ws) =>
      if s.parkedAt loc then return .wait
      else if eKind ws = 1 ∧ ePort ws = n then return .hit (copyOf ws)
      else
        bump R.TRIE_MISMATCH.COUNT
        raise E.TRIE.MISMATCH
        return .miss
    | none =>
      bump R.TRIE_MISMATCH.COUNT
      raise E.TRIE.MISMATCH
      return .miss

/-! ### Receive state of an item's association (R252, R298) -/

/-- The association is still installed as the item copied it. -/
def State.current (s : State) (c : AssocCopy) : Option (Nat × List Word) :=
  (s.byHandle c.handle).filter fun p => eGen p.2 = c.gen

/-- Where the receive state of an item's association lies; an access whose handle or GEN has gone finds none. A learned
sender carries the handle and GEN of its template. -/
def State.rxPlace (s : State) (c : AssocCopy) : Option RxPlace := (s.current c).bind fun p => match c.peer with
  | some n => (s.ctx n).bind fun x => if cTemplate x = c.handle then some (.peer n) else none
  | none => some (.entry p.1)

/-- Its state. -/
def State.rxOf (s : State) (c : AssocCopy) : RxState := match s.rxPlace c with
  | some p => s.rxState p (eReplay c.words)
  | none => ⟨0, 0, false, 0⟩

/-- The inbound value of an Ethernet frame: for a sender to be learned its window is still empty. -/
def State.ethValue (s : State) (c : AssocCopy) (b : Bytes) : Nat :=
  let r := if c.learn then ⟨0, min 256 (eWin c.words), false, 0⟩ else s.rxOf c
  if eXpn c.words then recoverPn r (tagPn b) else tagPn b

/-- The inbound value of a CAN frame with `n` payload bytes (R301). -/
def State.canRxValue (s : State) (c : AssocCopy) (b : Bytes) (n : Nat) : Nat :=
  canValue (s.rxOf c) (eTfvBits c.words) (canTrailer c.words b n).1

/-! ### Outcomes of a receive frame (R207) -/

/-- How a receive frame fails. -/
inductive RxFail where
  | authFail | late | noSa | badTag
  deriving DecidableEq, Repr

/-- Its counter and its bit in the length word. -/
def RxFail.counter (f : RxFail) (n : Nat) : RegField := match f with
  | .authFail => R.STRM_P_RX_AUTH_FAIL.COUNT n
  | .late => R.STRM_P_RX_LATE.COUNT n
  | .noSa => R.STRM_P_RX_NOSA.COUNT n
  | .badTag => R.STRM_P_RX_BADTAG.COUNT n

def RxFail.bit : RxFail → Nat
  | .authFail => lwAuthFail
  | .late => lwLate
  | .noSa => lwNoSa
  | .badTag => lwBadTag

/-- A receive frame fails: it is counted once and voided; a frame of a Bridle pair is counted there too. -/
def rxFails (n : Nat) (i : SItem) (f : RxFail) : M Unit := do
  bumpMod (f.counter n)
  match i.pair with
  | some k => if f = .authFail ∨ f = .badTag then bump (R.BRIDLE_PAIR_CTL.FAILED k)
  | none => pure ()
  voidItem n i f.bit

/-- The steps of R207 before verification that need the whole frame, and the value accepted; an Ethernet frame's replay
check was made at its lookup, with the value found then. -/
def State.rxCheck (s : State) (n : Nat) (i : SItem) (c : AssocCopy) : Except RxFail Nat :=
  if isCan n then match canPayload c.words i.bytes with
    | none => .error .badTag
    | some p =>
      let v := s.canRxValue c i.bytes p.length
      if rxLate (s.rxOf c) v then .error .late else .ok v
  else if slBad i.bytes then .error .badTag
  else .ok i.value

/-! ### Verification (R206, R210, R297) -/

/-- Open a received frame under given keys: its content in the clear. -/
def openWith (n : Nat) (c : AssocCopy) (v : Nat) (k1 k2 b : Bytes) : Option Bytes :=
  if isCan n then match canPayload c.words b with
    | none => none
    | some p =>
      if canMac k1 c.words b p v = (canTrailer c.words b p.length).2 then
        some (if eEnc c.words then canCtr k2 c.words b p v else p)
      else none
  else ethOpen k1 c.words (rxSci c b) v b

/-- The receive switch record, not IDLE or DONE, that names a handle (R295). -/
def State.rxSwitch (s : State) (h : Nat) (new : Bool) : Option Nat :=
  (List.range 32).find? fun i =>
    let st := s.fld (R.FRESH_SW_CTL.STATE i)
    (st = 1 || st = 2) && s.fld (R.FRESH_SW_CTL.DIR i) = 1
      && (if new then s.fld (R.FRESH_SW_AUX.NEW_HANDLE i) = h && s.kindOf (s.fld (R.FRESH_SW_CTL.HANDLE i)) = some 0
        else s.fld (R.FRESH_SW_CTL.HANDLE i) = h)

/-- The new slots of a CAN_RX entry, from its switch record's arming until they are its slots (R297). -/
def State.rxNewSlots (s : State) (h : Nat) : Option (Nat × Nat) :=
  ((s.counter h).rewrite).orElse fun _ => (s.rxSwitch h false).map fun i =>
    (s.fld (R.FRESH_SW_SLOTS.NEW_SLOT_A i), s.fld (R.FRESH_SW_SLOTS.NEW_SLOT_B i))

/-- The content of a receive item, and whether the successor keys of a CAN_RX switch opened it. -/
def State.openItem (s : State) (n : Nat) (c : AssocCopy) (e : CEntry) (b : Bytes) : Option (Bytes × Bool) :=
  let v := e.valueA.toNat
  let old := match s.entryKey e 0 with
    | some k1 => (openWith n c v k1.material ((s.entryKey e 1).map (·.material) |>.getD []) b).map fun x => (x, false)
    | none => none
  match (if isCan n then s.rxNewSlots c.handle else none) with
  | none => old
  | some (a, b2) =>
    let key (slot : Nat) : Bytes := (((s.slot slot).active).map (·.material)).getD []
    match openWith n c v (key a) (key b2) b with
    | some x => some (x, true)
    | none => old

/-- The first frame verified under the new key starts the overlap (R295). -/
def overlapStart (c : AssocCopy) (isNew : Bool) (n : Nat) : M Unit := do
  let s ← getS
  match (if isCan n then (if isNew then s.rxSwitch c.handle false else none) else s.rxSwitch c.handle true) with
  | some i => if s.fld (R.FRESH_SW_CTL.STATE i) = 1 then wr (R.FRESH_SW_CTL.STATE i) 2
  | none => pure ()

/-- A verified frame of a sender that has a context: it must still pass the replay check against the context's window, and
only then may R262 bind or move the context. -/
def peerCommit (p n : Nat) (c : AssocCopy) (v : Nat) : M (Option RxFail) := do
  let s ← getS
  match s.ctx p, rxUpdate (s.rxState (.peer p) (eReplay c.words)) v with
  | none, _ => return none
  | _, none => return some .late
  | some x, some r =>
    if (← contest p x n) = .refused then return some .noSa
    putRxState (.peer p) r
    return none

/-- Step 5 of R207: the window is updated, with its repeated check, and a new sender is learned. Answers whether the frame
goes on, or how it fails. -/
def rxCommit (n : Nat) (c : AssocCopy) (b : Bytes) (v : Nat) : M (Option RxFail) := do
  let s ← getS
  if c.learn then
    match s.probe (keyBlockOf 4 (eGroup c.words) (tagAn b) (tagSci b)) with
    | some (_, e) => peerCommit (ePeer e) n c v
    | none => return if ← learnNew c.words n (tagAn b) (tagSci b) v then none else some .noSa
  else match s.rxPlace c with
    | none => return none
    | some (.peer p) => peerCommit p n c v
    | some (.entry l) => match rxUpdate (s.rxState (.entry l) (eReplay c.words)) v with
      | some r =>
        putRxState (.entry l) r
        return none
      | none => return some .late

/-! ### Entries of the stream reserve (R571, R574) -/

/-- It is the item's turn for a stream entry; otherwise it asks for one. -/
def entryTurn (n : Nat) (i : SItem) : M Bool := do
  let s ← getS
  let before := s.ports.any fun p => p.2.items.any fun x => match x.asked, i.asked with
    | some a, some b => decide (a < b)
    | some _, none => true
    | none, _ => false
  if (s.freeEntry .stream).isSome ∧ !before then
    modItem n i.id fun x => { x with asked := none }
    return true
  else
    if i.asked.isNone then
      prim (.streams { s.streams with nextAsk := s.streams.nextAsk + 1 })
      modItem n i.id fun x => { x with asked := some s.streams.nextAsk }
    cellarOccupancy
    return false

/-- The key references of an association. -/
def State.keyRefs (s : State) (ws : List Word) : List (Option KeyRef) :=
  [s.refOf (eSlotA ws),
    if (eKind ws = 2 ∨ eKind ws = 3) ∧ eEnc ws then s.refOf (eSlotB ws) else none]

/-- HANDLE_B of a learned sender. -/
def peerHandle (c : AssocCopy) : Nat := match c.peer with
  | some n => 0x8000 + n
  | none => 0

/-- Journal a stream item: it is accepted. -/
def journalItem (n : Nat) (i : SItem) (kind : CKind) (c out : Option AssocCopy) (va vb : Nat) : M (Option Nat) := do
  let s ← getS
  let keys (x : Option AssocCopy) : List (Option KeyRef) := match x with
    | some a => s.keyRefs a.words
    | none => [none, none]
  let o := s.egressPort n i
  let gen (x : Option AssocCopy) : Nat := match x with | some a => a.gen | none => 0
  let ref := i.units.headD 0 + bitAt i.bankB 10 + gen c * 2 ^ 11 + gen out * 2 ^ 19
  let ha := match c with | some a => a.handle | none => 0
  let hb := match out, c with
    | some a, _ => a.handle
    | none, some a => peerHandle a
    | none, none => 0
  match ← journal kind fun order st => {
      kind := kind, source := BitVec.ofNat 16 (n + (if kind = .bridle then o * 2 ^ 8 else 0)), ref := BitVec.ofNat 32 ref,
      stamp := st, keys := keys c ++ keys out, valueA := BitVec.ofNat 64 va, valueB := BitVec.ofNat 64 vb,
      handleA := BitVec.ofNat 16 ha, handleB := BitVec.ofNat 16 hb, order := order } with
  | none => return none
  | some e =>
    foldEntry e i.bytes (!i.isOpen)
    modItem n i.id fun x => { x with entry := some e, asked := none, held := false }
    rewriteLength n i.id
    return some e

/-! ### Egress (R208, R213) -/

/-- What an accepted transmit item has produced for TXO. -/
def State.txOut (s : State) (n : Nat) (i : SItem) (e : CEntry) : Bytes := match i.look with
  | .hit c =>
    let v := e.valueA.toNat
    let key (j : Nat) : Bytes := ((s.entryKey e j).map (·.material)).getD []
    if isCan n then (canSeal (key 0) (key 1) c.words (i.bytes.take 12) (i.bytes.drop 12) v).getD []
    else
      let data := i.bytes.drop 12
      let r := ethSeal (key 0) c.words v (i.bytes.take 12) data
      if !i.isOpen then r.1 ++ r.2 else if data.length < 48 then [] else r.1
  | _ => i.bytes

/-- An item that a lane protects has a lane in service; one in the clear needs none. -/
def State.laneReady (s : State) (i : SItem) : Bool := match i.look with
  | .hit _ => decide (s.laneCount ≠ 0)
  | _ => true

/-- Keep the output of an accepted transmit item, as far as a lane is there to make it. -/
def produceTx (n id : Nat) : M Unit := do
  let s ← getS
  match s.item n id with
  | some i => match i.entry.bind s.entry with
    | some e => if s.laneReady i then modItem n id fun x => { x with out := s.txOut n i e }
    | none => pure ()
  | none => pure ()

/-- Accept the first transmit item that has been looked up (R288, R568, R571). -/
def egressAccept (n : Nat) : M Unit := do
  let s ← getS
  match (s.port n).items.find? fun i => i.tx && !i.skip && i.entry.isNone with
  | none => pure ()
  | some i => match i.look with
    | .waiting => pure ()
    | .miss =>
      if ← entryTurn n i then
        if (← journalItem n i .egress none none 0 0).isSome then
          produceTx n i.id
          startNext n
    | .hit c =>
      if s.noLane ∨ (isCan n ∧ i.isOpen) then pure ()
      else match s.current c with
        | none => modItem n i.id fun x => { x with look := .waiting }
        | some (_, ws) =>
          if s.keyRefused ws (some .stream) true then voidItem n i lwNoSa
          else if isCan n ∧ (canFit c.words i.bytes (i.bytes.length - 12)).isNone then voidItem n i lwBadTag
          else if ← entryTurn n i then
            match ← reserveAssoc .stream c.handle with
            | .waits =>
              countCeilWait i.ceilWaited
              modItem n i.id fun x => { x with ceilWaited := true }
            | .exhausted => modItem n i.id fun x => { x with look := .waiting, held := true }
            | .value v => match (← getS).byHandle c.handle with
              | none => pure ()
              | some (_, w) =>
                modItem n i.id fun x => { x with look := .hit (copyOf w) }
                if (← journalItem n i .egress (some (copyOf w)) none v 0).isSome then
                  produceTx n i.id
                  startNext n

/-! ### Bridle (R216 to R234) -/

/-- The ingress profile does not match the pair's FORMAT (R221). -/
def State.profileBad (s : State) (n k : Nat) : Bool :=
  let f := s.fld (R.BRIDLE_PAIR_CFG.FORMAT k)
  let o := isCan (s.fld (R.BRIDLE_PAIR_CFG.OUT_PORT k))
  if f = 0 then isCan n != o else if f = 1 then !isCan n else isCan n

/-- OUT_SA, present and of the transmit kind that the egress frame needs. -/
def State.outEntry (s : State) (k : Nat) : Option (Nat × List Word) :=
  let kind := if isCan (s.fld (R.BRIDLE_PAIR_CFG.OUT_PORT k)) then 3 else 1
  (s.byHandle (s.fld (R.BRIDLE_PAIR_SA.OUT_SA k))).filter fun p => eKind p.2 = kind

/-- The egress side may take a frame (R233). -/
def State.outReady (s : State) (k : Nat) : Bool :=
  let o := s.fld (R.BRIDLE_PAIR_CFG.OUT_PORT k)
  s.fld (R.STRM_P_STAT.STATE o) = pgActive && s.fld (R.STRM_P_STAT.FLUSH_TX o) = 0
    && (match s.outEntry k with
      | some (_, ws) => ([0, 5, exhRetry].contains (s.counter (eHandle ws)).exhausted)
          && s.keysOk ws (some .bridle) true
      | none => false)

/-- A transmit entry is not EXHAUSTED yet, and a slot that it names holds no key (R291). -/
def State.outEmpty (s : State) (ws : List Word) : Bool :=
  (s.counter (eHandle ws)).exhausted = 0 && (entrySlots ws).any fun n => (s.slot n).active.isNone

/-- The egress frame of a pair for its content in the clear: all but the ICV, and the ICV. `none`: R223 refuses it. -/
def State.bridleOut (s : State) (k : Nat) (i : SItem) (e : CEntry) (plain : Bytes) : Option (Bytes × Bytes) :=
  match i.outCopy with
  | none => none
  | some c =>
    let v := e.valueB.toNat
    let key (j : Nat) : Bytes := ((s.entryKey e j).map (·.material)).getD []
    let f := s.fld (R.BRIDLE_PAIR_CFG.FORMAT k)
    let t := templateOf i.tmpl
    let can (header payload : Bytes) := (canSeal (key 2) (key 3) c.words header payload v).map fun b => (b, ([] : Bytes))
    if f = 0 then
      if isCan (s.fld (R.BRIDLE_PAIR_CFG.OUT_PORT k)) then can (i.bytes.take 12) plain
      else some (ethSeal (key 2) c.words v (i.bytes.take 12) plain)
    else if f = 1 then
      some (ethSeal (key 2) c.words v t.addrs
        (encapsulate t (i.bytes.take 12) plain (secTag c.words v 0).length))
    else (decapsulate t plain).bind fun (h, p) => can h p

/-- Keep what an accepted CUT frame has produced for TXO: all but its ICV. -/
def produceCut (n id : Nat) : M Unit := do
  let s ← getS
  match s.item n id with
  | some i => match i.look, i.pair, i.entry.bind s.entry with
    | .hit c, some k, some e =>
      let plain := s.cutPlain i c e
      if !s.laneReady i ∨ (i.isOpen ∧ plain.length < 48) then pure ()
      else match s.bridleOut k i e plain with
        | some (b, _) => modItem n id fun x => { x with out := b }
        | none => pure ()
    | _, _, _ => pure ()
  | none => pure ()

/-- Hold a Bridle frame under R233. -/
def holdItem (n : Nat) (i : SItem) : M Unit := modItem n i.id fun x => { x with held := true }

/-- Accept a Bridle frame of pair `k`, or hold or void it (R221, R228, R229, R233, R234, R571). -/
def bridleAccept (n : Nat) (i : SItem) (c : AssocCopy) (k : Nat) : M Unit := do
  let s ← getS
  let check := if i.isOpen then .ok i.value else s.rxCheck n i c
  let outBad : Bool := match s.outEntry k with
    | some (_, ws) => s.keyRefused ws (some .bridle) true
    | none => false
  if s.noLane ∨ s.laneCount < 2 ∨ s.shut ∨ (s.counter c.handle).rewrite.isSome then pure ()
  else if s.profileBad n k ∨ !s.keysOk c.words (some .bridle) false ∨ outBad then rxFails n i .noSa
  else match check with
    | .error f => rxFails n i f
    | .ok v =>
      if !s.outReady k then
        match s.outEntry k with
        | some (loc, ws) => if s.outEmpty ws then exhaust loc ws 5
        | none => pure ()
        holdItem n i
      else if !(← entryTurn n i) then modItem n i.id fun x => { x with held := false }
      else match ← reserveAssoc .bridle (s.fld (R.BRIDLE_PAIR_SA.OUT_SA k)) with
        | .value u => match (← getS).outEntry k with
          | none => pure ()
          | some (_, w) =>
            let t := s.templateWords (s.fld (R.BRIDLE_PAIR_CFG.TMPL k))
            let i2 := { i with pair := some k, outCopy := some (copyOf w), cut := s.cutPair k, tmpl := t }
            modItem n i.id fun x => { x with pair := some k, outCopy := some (copyOf w), cut := s.cutPair k, tmpl := t }
            if (← journalItem n i2 .bridle (some c) (some (copyOf w)) v u).isSome ∧ s.cutPair k then
              produceCut n i.id
              startNext (s.egressPort n i2)
        | .waits =>
          countCeilWait i.ceilWaited
          modItem n i.id fun x => { x with ceilWaited := true, held := false }
        | .exhausted => holdItem n i

/-- The first Bridle frame of a port that is not accepted, with its association and pair. -/
def State.bridleNext (s : State) (n : Nat) : Option (SItem × AssocCopy × Nat) :=
  (s.port n).items.findSome? fun i => match i.look, s.pairOf i 1 with
    | .hit c, some k => if !i.tx ∧ !i.skip ∧ i.entry.isNone ∧ (!i.isOpen ∨ s.cutPair k) then some (i, c, k) else none
    | _, _ => none

/-- A Bridle frame leaves without being sent, or its underrun egress has ended: it completes. -/
def bridleGone (n : Nat) (i : SItem) : M Unit := do
  let o := (← getS).egressPort n i
  match i.entry with
  | some e => freeEntry e
  | none => pure ()
  dropItem n i.id
  startNext o

/-- A Bridle frame verified (R223, R228, R229): its egress frame is complete, or it ends with BAD_TAG. -/
def bridleVerified (n : Nat) (i : SItem) (k : Nat) (e : CEntry) (plain : Bytes) : M Unit := do
  let s ← getS
  if i.cutEnded then bridleGone n i
  else match s.bridleOut k i e plain with
    | none => rxFails n i .badTag
    | some (b, icv) =>
      modItem n i.id fun x => { x with out := b ++ icv, verdict := .passed }
      startNext (s.egressPort n i)

/-- A Bridle frame failed verification (R228). A CUT frame ends on its egress as R230 states, unless that has ended under R232. -/
def bridleFailed (n : Nat) (i : SItem) (f : RxFail) : M Unit := do
  if i.cut then
    bumpMod (f.counter n)
    bump R.BRIDLE_CUT_ABORTS.COUNT
    raise E.BRIDLE.CUT_ABORT
    if i.cutEnded then bridleGone n i else truncItem n i f.bit
  else rxFails n i f

/-! ### Ingress (R207, R568, R569) -/

/-- Accept the first ended receive item that is no Bridle frame. -/
def ingressAccept (n : Nat) : M Unit := do
  let s ← getS
  match (s.port n).items.find? fun i => !i.tx && !i.skip && !i.isOpen && i.entry.isNone && i.look ≠ .waiting
      && (s.pairOf i 1).isNone && (s.pairOf i 2).isNone with
  | none => pure ()
  | some i => match i.look with
    | .hit c =>
      if s.noLane ∨ (s.counter c.handle).rewrite.isSome then pure ()
      else if !s.keysOk c.words (some .stream) false then rxFails n i .noSa
      else match s.rxCheck n i c with
        | .error f => rxFails n i f
        | .ok v =>
          if ← entryTurn n i then
            let _ ← journalItem n i .ingress (some c) none v 0
    | _ =>
      if ← entryTurn n i then
        if (← journalItem n i .ingress none none 0 0).isSome then
          modItem n i.id fun x => { x with verdict := .passed, out := i.bytes }

/-- An item that waits for its replay. -/
def State.itemHeld (s : State) (i : SItem) : Bool := (i.entry.map s.replayHeld).getD false

/-- An accepted receive item that still waits for its verification. -/
def State.unverified (s : State) (n : Nat) : Option (SItem × AssocCopy × CEntry) :=
  (s.port n).items.findSome? fun i => match i.look, i.entry.bind s.entry with
    | .hit c, some e =>
      if !i.tx ∧ !i.isOpen ∧ !i.skip ∧ i.verdict = .waiting ∧ !s.itemHeld i then some (i, c, e) else none
    | _, _ => none

/-- What a verified frame releases on RXO (R207). -/
def rxoFrame (b plain : Bytes) : Bytes := b.take 12 ++ plain

/-- The lane work of an accepted item has been done, on both lanes of a Bridle frame (R224); else it waits. -/
def itemWork (e : Nat) (pair : Bool) : M Bool := do
  let a ← finishWork (.entry e)
  if a ∧ pair then finishWork (.half e) else return a

/-- Verification of one accepted receive item ends. -/
def verifyItem (n : Nat) (i : SItem) (c : AssocCopy) (e : CEntry) : M Unit := do
  let s ← getS
  let fails (f : RxFail) : M Unit := if i.pair.isSome then bridleFailed n i f else rxFails n i f
  if !isCan n ∧ slBad i.bytes then fails .badTag
  else match s.openItem n c e i.bytes with
  | none => fails .authFail
  | some (plain, isNew) =>
    match ← rxCommit n c i.bytes e.valueA.toNat with
    | some f => fails f
    | none =>
      overlapStart c isNew n
      match i.pair with
      | some k => bridleVerified n i k e plain
      | none => modItem n i.id fun x => { x with
          verdict := .passed, out := rxoFrame i.bytes plain, plain := some (if isCan n then 12 else 12 + tagLen i.bytes, plain) }

/-! ### Release (R184, R235) -/

/-- A frame reaches RXI of the other port of a loop: admitted and complete at once, or not at all (R239). -/
def loopFrame (q : Nat) (b : Bytes) : M Bool := do
  match ← admitFrame q false b with
  | none => return false
  | some id =>
    match (← getS).item q id with
    | some i =>
      if i.skip then dropItem q id
      else
        modItem q id fun x => { x with isOpen := false }
        writeLength q { i with isOpen := false } lwValid
    | none => pure ()
    return true

/-- The completion of a frame that has left in full: its entry and units are freed. -/
def itemDone (n : Nat) (i : SItem) : M Unit := do
  match i.entry with
  | some e => freeEntry e
  | none => pure ()
  dropItem n i.id

/-- Release the first receive item of a port on RXO. -/
def releaseRx (n : Nat) : M Unit := do
  let s ← getS
  match (s.port n).items.find? fun i => !i.tx && !i.skip with
  | none => pure ()
  | some i =>
    if !i.isOpen ∧ i.entry.isSome ∧ i.pair.isNone ∧ i.verdict = .passed ∧ i.bankB ≠ (s.port n).fillB ∧ !s.itemHeld i then
      emit (.rxo n i.out false)
      match i.look with
      | .hit _ => bumpMod (R.STRM_P_RX_OK.COUNT n)
      | _ => bumpMod (R.STRM_P_RX_UNTAGGED.COUNT n)
      itemDone n i

/-- The frame on TXO of a port leaves in full. -/
def releaseTx (o : Nat) : M Unit := do
  let s ← getS
  match s.onTxo o with
  | none => pure ()
  | some (_, n, i) =>
    if i.isOpen ∨ (!i.tx ∧ i.verdict ≠ .passed) ∨ s.itemHeld i then pure ()
    else if !(← itemWork (i.entry.getD 0) i.pair.isSome) then pure ()
    else
      if i.tx then produceTx n i.id
      let out := (((← getS).item n i.id).getD i).out
      let gone ← match s.loopPeer o with
        | some q => loopFrame q out
        | none => do
          emit (.txo o out false)
          pure true
      if gone then
        match i.pair, i.look with
        | some k, _ =>
          bumpMod (R.STRM_P_RX_OK.COUNT n)
          bumpMod (R.STRM_P_TX_PROTECTED.COUNT o)
          bumpMod (R.BRIDLE_PAIR_FRAMES.COUNT k)
        | none, .hit _ => bumpMod (R.STRM_P_TX_PROTECTED.COUNT o)
        | none, _ => bumpMod (R.STRM_P_TX_CLEAR.COUNT o)
        itemDone n i
        startNext o

end Sys2Proof.Machine
end

