-- ==== Sys2Proof/Machine/StreamCmds.lean ====
section
/-! DEFINITION. The commands of the stream ports and their staging (R176 to R199, R251). -/
namespace Sys2Proof.Machine
open Sys2Proof

/-! ### Beats on TXI and RXI -/

/-- The open item of a direction. -/
def State.openOf (s : State) (n : Nat) (tx : Bool) : Option SItem := (s.port n).items.find? fun i => i.tx = tx && i.isOpen

/-- An SOF beat from outside: RXI of a looped port takes none (R239). -/
def sofAdmit (n : Nat) (tx : Bool) (b : Bytes) : M Unit := do
  if tx ∨ ((← getS).loopPeer n).isNone then
    let _ ← admitFrame n tx b

def execSofAdmit (port : Fin 32) (tx : Bool) (frame : List Byte) (s : State) : Host.Outcome State Fault Refusal :=
  exec1 (sofAdmit port tx frame) s

/-- An item's frame is complete in staging: its length word and the rest of its digest are written (R180, R575). -/
def closeItem (n id : Nat) : M Unit := do
  modItem n id fun x => { x with isOpen := false }
  match (← getS).item n id with
  | some i =>
    writeLength n i (lwValid + (if i.cutEnded then lwTruncated else 0))
    match i.entry with
    | some e =>
      foldEntry e i.bytes true
      if i.tx then produceTx n id else produceCut n id
    | none => pure ()
  | none => pure ()

/-- The EOF beat of the open item, with the beats before it. -/
def itemEnd (n : Nat) (tx : Bool) (b : Bytes) : M Unit := do
  match (← getS).openOf n tx with
  | none => pure ()
  | some i =>
    if i.skip then dropItem n i.id
    else
      takeBytes n i (i.bytes ++ b)
      match (← getS).item n i.id with
      | some j => if j.skip then dropItem n i.id else closeItem n i.id
      | none => pure ()

def execItemEnd (port : Fin 32) (tx : Bool) (rest : List Byte) (s : State) : Host.Outcome State Fault Refusal :=
  exec1 (itemEnd port tx rest) s

/-- ERR, or a beat that breaks the KEEP rule (R50, R198, R201). `eof`: it is the frame's last beat. -/
def producerErr (n : Nat) (tx eof : Bool) : M Unit := do
  match (← getS).openOf n tx with
  | none => pure ()
  | some i =>
    if !i.skip then badFrame n i lwProdErr
    if eof then dropItem n i.id

def execProducerErr (port : Fin 32) (tx eof : Bool) (s : State) : Host.Outcome State Fault Refusal :=
  exec1 (producerErr port tx eof) s

/-- A producer stalls for EGR_GAP_NS (R199). -/
def txUnderrun (n : Nat) : M Unit := do
  match (← getS).openOf n true with
  | some i =>
    if i.started ∧ !i.skip then
      truncItem n i
      wr (R.STRM_P_EVT.UNDERRUN n) 1
  | none => pure ()

def execTxUnderrun (port : Fin 32) (s : State) : Host.Outcome State Fault Refusal := exec1 (txUnderrun port) s

/-! ### Staging macros (R177 to R179) -/

/-- Items that cannot be rebuilt: staged ones are voided, accepted ones are lost. -/
def tripleLost (k : Nat) : M Unit := do
  raise E.STREAM.TRIPLE_LOST
  unitAlarm 0x18 2
  forM (triplePorts k) fun n => do
    wr (R.STRM_P_STAT.REARM n) 0
    if (← rd (R.STRM_P_STAT.STATE n)) ≠ pgFault then setBlock (portBlock n) pgFault
    forM ((← getS).port n).items fun i => do match i.entry with
      | some e =>
        itemLost e
        dropOrSkip n i
      | none => if i.units.isEmpty then pure () else voidItem n i 0

/-- Fence a macro. -/
def fenceMacro (m : Nat) : M Unit := do
  let s ← getS
  let k := m / 3
  let before := s.fld R.STRM_MACRO_FENCED.FENCED / 8 ^ k % 8
  wrBit R.STRM_MACRO_FENCED.FENCED m true
  raise E.STREAM.MACRO_FENCED
  unitAlarm 0x18 2
  forM (triplePorts k) fun n => do
    wr (R.STRM_P_EVT.DEGRADED n) 1
    raise (E.STRMP.PORT n)
  if before ≠ 0 then tripleLost k

/-- A staging read finds a parity error in the half of a unit that a macro holds: the half is rebuilt from the other two parts and
written back (R177, R178). `bad`: the write-back reads back wrong. A macro that holds no half of an allocated unit of the port is
not read so. DESIGN CHOICE (log entry 98): where another macro of the triple is fenced, so that the half cannot be rebuilt, the
macro is fenced at once, and R179 follows. -/
def macroGust (m n : Nat) (bankB : Bool) (unit : Nat) (bad : Bool) : M Unit := do
  let s ← getS
  let k := tripleOf n
  let u := tripleUnit n bankB unit
  match (s.port n).items.find? fun i => i.bankB = bankB && i.units.contains unit with
  | some i =>
    if s.macroOut m ∨ k ≠ m / 3 ∨ macroPart m u = 2 then pure ()
    else
      bump R.STRM_MACRO_RECON.COUNT
      unitAlarm 0x18 0
      raise E.STREAM.MACRO_GUST
      modItem n i.id fun x => { x with recon := true }
      rewriteLength n i.id
      let (_, lasting) ← countGust (0x200 + m) (s.fld R.STRM_MACRO_CFG.GUST_LIMIT) (s.fld R.STRM_MACRO_CFG.GUST_WIN_MS)
      let whole := s.readUnit k u (i.unitBytes (i.units.idxOf unit)) (· = m)
      if lasting ∨ bad ∨ whole.isNone then fenceMacro m
  | none => pure ()

def execMacroGust (m : Fin 24) (port : Fin 32) (bankB : Bool) (unit : BitVec 9) (bad : Bool) (s : State) :
    Host.Outcome State Fault Refusal := exec1 (macroGust m port bankB unit.toNat bad) s

/-! ### Lookup (R251, R207) -/

/-- The header bytes that the lookup needs are staged. -/
def headerIn (n : Nat) (i : SItem) : Bool := !i.isOpen || decide ((if isCan n then 12 else 60) ≤ i.bytes.length)

/-- The item has its answer. -/
def setLook (n : Nat) (i : SItem) (l : Look) (value : Nat := 0) : M Unit := do
  modItem n i.id fun x => { x with look := l, value := value }
  rewriteLength n i.id

/-- A receive frame without protection, or whose association is not found: the port passes it or not. -/
def unsecured (n : Nat) (i : SItem) (counter : RegField) : M Unit := do
  if (← rd (R.STRM_P_CFG.UNTAGGED n)) = 1 then setLook n i .miss
  else
    bumpMod counter
    voidItem n i lwNoSa

/-- The lookup of a receive frame, and its replay check where the header carries the value. -/
def lookupRx (n : Nat) (i : SItem) : M Unit := do
  let s ← getS
  let b := i.bytes
  let mka := isMka b && decide (s.fld R.STRM_GCFG.MKA_PASS = 1)
  if isCan n ∧ canFormat b = 3 then rxFails n i .badTag
  else if !isCan n ∧ mka then setLook n i .miss
  else if !isCan n ∧ !isSecTag b then unsecured n i (R.STRM_P_RX_UNTAGGED.COUNT n)
  else if !isCan n ∧ (tciBad b ∨ (!i.isOpen ∧ slBad b)) then rxFails n i .badTag
  else
    match (if isCan n then s.look (keyBlockOf 2 n 0 (canKeyValue b)) else s.lookRx n (tagAn b) (tagSci b)) with
    | .wait => pure ()
    | .miss => unsecured n i (R.STRM_P_RX_NOSA.COUNT n)
    | .hit c =>
      if !isCan n ∧ !c.learn ∧ rxLate (s.rxOf c) (s.ethValue c b) then rxFails n i .late
      else setLook n i (.hit c) (if isCan n then 0 else s.ethValue c b)

/-- The lookup of a transmit frame. -/
def lookupTx (n : Nat) (i : SItem) : M Unit := do
  let s ← getS
  let b := i.bytes
  let mka := isMka b && decide (s.fld R.STRM_GCFG.MKA_PASS = 1)
  if isCan n ∧ canFormat b = 3 then voidItem n i lwBadTag
  else if !isCan n ∧ mka then setLook n i .miss
  else
    match ← (if isCan n then pure (s.look (keyBlockOf 3 n 0 (canKeyValue b))) else lookTx n b) with
    | .wait => pure ()
    | .hit c => setLook n i (.hit c)
    | .miss =>
      if s.fld (R.STRM_P_CFG.EGR_NOSA n) = 1 then setLook n i .miss
      else voidItem n i lwNoSa

/-- The lookup of the first item of a direction that has none yet. -/
def assocLookup (n : Nat) (tx : Bool) : M Unit := do
  match ((← getS).port n).items.find? fun i => i.tx = tx && !i.skip && i.look = .waiting with
  | none => pure ()
  | some i => if headerIn n i then (if tx then lookupTx n i else lookupRx n i)

def execAssocLookup (port : Fin 32) (tx : Bool) (s : State) : Host.Outcome State Fault Refusal :=
  exec1 (assocLookup port tx) s

/-! ### Acceptance, verification and release -/

def execEgressAccept (port : Fin 32) (s : State) : Host.Outcome State Fault Refusal := exec1 (egressAccept port) s

def execIngressAccept (port : Fin 32) (s : State) : Host.Outcome State Fault Refusal := exec1 (ingressAccept port) s

/-- The tag comparison of the first accepted receive frame ends. -/
def ingressVerify (n : Nat) : M Unit := do
  let s ← getS
  match s.unverified n with
  | some (i, c, e) => if ← itemWork (i.entry.getD 0) i.pair.isSome then verifyItem n i c e
  | none => pure ()

def execIngressVerifyDone (port : Fin 32) (s : State) : Host.Outcome State Fault Refusal := exec1 (ingressVerify port) s

def execStreamRelease (port : Fin 32) (tx : Bool) (s : State) : Host.Outcome State Fault Refusal :=
  exec1 (if tx then releaseTx port else releaseRx port) s

/-! ### Flushes (R193 to R197, R236) -/

/-- FLUSH_NOW_RX on the open item. -/
def flushNowRx (n : Nat) : M Unit := do
  match (← getS).openOf n false with
  | some i => if !i.skip then badFrame n i lwTruncated
  | none => pure ()

/-- FLUSH_NOW_TX: the open item ends, frames that an EXHAUSTED association holds are voided (R292), and a Bridle frame on
TXO ends. -/
def flushNowTx (n : Nat) : M Unit := do
  let s ← getS
  forM (s.port n).items fun i =>
    if i.tx ∧ !i.skip ∧ (i.isOpen ∨ (i.held ∧ i.entry.isNone)) then badFrame n i lwTruncated else pure ()
  match (← getS).onTxo n with
  | some (_, p, i) => if i.pair.isSome then truncItem p i
  | none => pure ()

/-- A flush command of one direction. -/
def flush (n : Nat) (tx now : Bool) : M Unit := do
  let s ← getS
  let f := if tx then R.STRM_P_STAT.FLUSH_TX n else R.STRM_P_STAT.FLUSH_RX n
  let p := s.port n
  wr f 1
  if now then
    prim (.port n (if tx then { p with nowTx := true } else { p with nowRx := true }))
    if tx then flushNowTx n else flushNowRx n

/-- Nothing of a direction is open or staged; accepted Bridle frames for TXO count as transmit items. FLUSH_NOW_RX waits for
the EOF beat of a frame that is being discarded. -/
def State.flushed (s : State) (n : Nat) (tx : Bool) : Bool :=
  !((s.port n).items.any fun i => i.tx = tx && (!i.skip || (!tx && (s.port n).nowRx)))
    && (!tx || !(s.ports.any fun p => p.2.items.any fun i =>
      i.entry.isSome && !i.cutEnded && (match i.pair with
        | some k => s.fld (R.BRIDLE_PAIR_CFG.OUT_PORT k) = n
        | none => false)))

/-- Disabling a port starts both flushes. -/
def portDrain (n : Nat) : M Unit := do
  flush n false false
  flush n true false

/-- A port's drain ends when both flushes have (STREAM port pages). -/
def portDrained (n : Nat) : M Unit := do
  let t ← getS
  if t.fld (R.STRM_P_STAT.STATE n) = pgDraining ∧ t.fld (R.STRM_P_STAT.FLUSH_RX n) = 0
      ∧ t.fld (R.STRM_P_STAT.FLUSH_TX n) = 0 then
    blockDrained (portBlock n) (t.active (0x19 + n / 8)) (pure ())

/-- A flush ends. -/
def flushEnd (n : Nat) (tx : Bool) : M Unit := do
  let s ← getS
  let f := if tx then R.STRM_P_STAT.FLUSH_TX n else R.STRM_P_STAT.FLUSH_RX n
  if s.fld f = 1 ∧ s.flushed n tx then
    wr f 0
    let p := s.port n
    prim (.port n (if tx then { p with nowTx := false } else { p with nowRx := false }))
    wr (if tx then R.STRM_P_EVT.FLUSH_TX_DONE n else R.STRM_P_EVT.FLUSH_RX_DONE n) 1
    raise (E.STRMP.PORT n)
    portDrained n

def execFlushEnd (port : Fin 32) (tx : Bool) (s : State) : Host.Outcome State Fault Refusal := exec1 (flushEnd port tx) s

/-- STRM_P_CTL written: EN and the flush commands. -/
def fxPortCtl (n : Nat) (old : Bool) (v : Word) : M Unit := do
  let up := decide ((← getS).pageState (0x19 + n / 8) = pgActive)
  blockEnable (portBlock n) old (v.getLsbD 0) up (portDrain n) (pure ())
  if v.getLsbD 1 then flush n false false
  if v.getLsbD 2 then flush n true false
  if v.getLsbD 3 then flush n false true
  if v.getLsbD 4 then flush n true true

/-- A write to STRM_P_CTL with EN kept but for the command. -/
def portCtlWrite (rid : BitVec 12) (n : Nat) (v : Word) : M Unit := do
  let en := (← getS).fld (R.STRM_P_CTL.EN n)
  hostWrite (fullWrite rid (R.STRM_P_CTL.EN n).addr v) (fxPortCtl n (en = 1) v)

def portFlush (rid : BitVec 12) (n : Nat) (bit : Nat) : M Unit := do
  let en := (← getS).fld (R.STRM_P_CTL.EN n)
  portCtlWrite rid n (BitVec.ofNat 32 (2 ^ bit + en))

def execFlushRx (rid : BitVec 12) (port : Fin 32) (s : State) : Host.Outcome State Fault Refusal :=
  exec1 (portFlush rid port 1) s

def execFlushTx (rid : BitVec 12) (port : Fin 32) (s : State) : Host.Outcome State Fault Refusal :=
  exec1 (portFlush rid port 2) s

def execFlushNowRx (rid : BitVec 12) (port : Fin 32) (s : State) : Host.Outcome State Fault Refusal :=
  exec1 (portFlush rid port 3) s

def execFlushNowTx (rid : BitVec 12) (port : Fin 32) (s : State) : Host.Outcome State Fault Refusal :=
  exec1 (portFlush rid port 4) s

def execPortEn (rid : BitVec 12) (port : Fin 32) (en : Bool) (s : State) : Host.Outcome State Fault Refusal :=
  exec1 (portCtlWrite rid port (BitVec.ofNat 32 (b2n en))) s

/-- STRM_P_WM written (R192): XOFF that is high falls without an event once the level is at the new LOW. -/
def fxPortWm (n : Nat) : M Unit := do
  let s ← getS
  let p := s.port n
  if p.xoff ∧ p.level ≤ s.lowMark n then
    prim (.port n { p with xoff := false })
    wr (R.STRM_P_STAT.XOFF n) 0

def execStrmPWm (rid : BitVec 12) (port : Fin 32) (value : Word) (s : State) : Host.Outcome State Fault Refusal :=
  exec1 (hostWrite (fullWrite rid (R.STRM_P_WM.LOW port).addr value) (fxPortWm port)) s

end Sys2Proof.Machine
end

