-- ==== Sys2Proof/Machine/BridleCmds.lean ====
section
/-! DEFINITION. The commands of Bridle pairs and loopback tunnels (R216 to R241). -/
namespace Sys2Proof.Machine
open Sys2Proof

/-! ### Pairs (R217 to R220) -/

/-- A pair. -/
def pairBlock (k : Nat) : Block := ⟨R.BRIDLE_PAIR_CTL.STATE k, R.BRIDLE_PAIR_CTL.REARM k, E.BRIDLE.PAIR_CHG, k⟩

/-- Keep BRIDLE_STAT.ACTIVE. -/
def pairsRefresh : M Unit := do
  let s ← getS
  wr R.BRIDLE_STAT.ACTIVE ((List.range 128).filter fun k =>
    s.fld (R.BRIDLE_PAIR_CTL.STATE k) = pgActive && s.fld (R.BRIDLE_PAIR_CTL.BAD k) = 0).length
  heldRefresh

/-- The configuration fails a check of R218. -/
def State.pairBad (s : State) (k : Nat) : Bool :=
  let f := s.fld (R.BRIDLE_PAIR_CFG.FORMAT k)
  let o := isCan (s.fld (R.BRIDLE_PAIR_CFG.OUT_PORT k))
  ((List.range 128).any fun j => j ≠ k && s.fld (R.BRIDLE_PAIR_CTL.STATE j) ≠ pgOff
      && s.fld (R.BRIDLE_PAIR_SA.IN_SA j) = s.fld (R.BRIDLE_PAIR_SA.IN_SA k))
    || f = 3 || (f = 1 && o) || (f = 2 && !o)

/-- A pair enters ACTIVE. -/
def pairEnter (k : Nat) : M Unit := do
  let bad := (← getS).pairBad k
  wr (R.BRIDLE_PAIR_CTL.BAD k) (b2n bad)
  if bad then raise E.BRIDLE.PAIR_BAD
  pairsRefresh

/-- BRIDLE_PAIR_CTL.EN written. -/
def fxPairEn (k : Nat) (old en : Bool) : M Unit := do
  blockEnable (pairBlock k) old en ((← getS).active 0x1D) (pure ()) (pairEnter k)
  pairsRefresh

def pairEnWrite (rid : BitVec 12) (k : Nat) (en : Bool) : M Unit := do
  let old := (← getS).fld (R.BRIDLE_PAIR_CTL.EN k)
  hostWrite (fullWrite rid (R.BRIDLE_PAIR_CTL.EN k).addr (BitVec.ofNat 32 (b2n en))) (fxPairEn k (old = 1) en)

def execPairEn (rid : BitVec 12) (k : Fin 128) (en : Bool) (s : State) : Host.Outcome State Fault Refusal :=
  exec1 (pairEnWrite rid k en) s

/-- None of a pair's frames is accepted and incomplete. -/
def State.pairIdle (s : State) (k : Nat) : Bool := !(s.ports.any fun p => p.2.items.any fun i => i.pair = some k)

/-- A pair's drain ends (R217, R220). -/
def pairDrained (k : Nat) : M Unit := do
  let s ← getS
  if s.fld (R.BRIDLE_PAIR_CTL.STATE k) = pgDraining ∧ s.pairIdle k then
    blockDrained (pairBlock k) (s.active 0x1D) (pairEnter k)
    pairsRefresh

/-! ### Frames (R228 to R234) -/

/-- CUT_LEAD as taken. -/
def State.cutLead (s : State) (n k : Nat) : Nat := max 1 (min (s.maxItem n) (s.fld (R.BRIDLE_PAIR_CFG.CUT_LEAD k)))

def bridleHoldAccept (n : Nat) : M Unit := do
  let s ← getS
  match s.bridleNext n with
  | some (i, c, k) => if !i.held ∧ !s.cutPair k then bridleAccept n i c k
  | none => pure ()

def execBridleHoldAccept (port : Fin 32) (s : State) : Host.Outcome State Fault Refusal :=
  exec1 (bridleHoldAccept port) s

def bridleCutAccept (n : Nat) : M Unit := do
  let s ← getS
  match s.bridleNext n with
  | some (i, c, k) =>
    if !i.held ∧ s.cutPair k ∧ (!i.isOpen ∨ s.cutLead n k ≤ i.units.length) then bridleAccept n i c k
  | none => pure ()

def execBridleCutAccept (port : Fin 32) (s : State) : Host.Outcome State Fault Refusal :=
  exec1 (bridleCutAccept port) s

/-- The first held frame of a port is tried again. -/
def outHeldRelease (n : Nat) : M Unit := do
  match (← getS).bridleNext n with
  | some (i, c, k) => if i.held then bridleAccept n i c k
  | none => pure ()

def execOutHeldRelease (port : Fin 32) (s : State) : Host.Outcome State Fault Refusal := exec1 (outHeldRelease port) s

/-- A CUT frame's egress outruns its ingress (R232): its egress ends, and its ingress is still verified. -/
def bridleUnderrun (n : Nat) : M Unit := do
  let s ← getS
  match (s.port n).items.find? fun i => i.cut && i.started && i.isOpen && !i.skip && !i.cutEnded with
  | none => pure ()
  | some i =>
    let o := s.egressPort n i
    writeLength n i lwTruncated
    cutTxo o i.out
    noteTrunc o
    (match i.pair with
    | some k => bump (R.BRIDLE_PAIR_CTL.FAILED k)
    | none => pure ())
    bump R.BRIDLE_UNDERRUNS.COUNT
    raise E.BRIDLE.UNDERRUN
    modItem n i.id fun x => { x with cutEnded := true, out := [] }
    startNext o

def execBridleUnderrun (port : Fin 32) (s : State) : Host.Outcome State Fault Refusal := exec1 (bridleUnderrun port) s

/-! ### Loopback tunnels (R239, R240) -/

/-- A loop that R240 refuses. -/
def State.loopBad (s : State) (j : Nat) : Bool :=
  let a := s.fld (R.BRIDLE_LOOP.PORT_A j)
  let b := s.fld (R.BRIDLE_LOOP.PORT_B j)
  let cls (n : Nat) : Nat := if n < 2 then 0 else if n < 8 then 1 else 2
  cls a ≠ cls b || cls a = 2 || a = b
    || (List.range 4).any fun k => k ≠ j && s.fld (R.BRIDLE_LOOP.ACTIVE k) = 1
        && [a, b].any fun n => s.fld (R.BRIDLE_LOOP.PORT_A k) = n || s.fld (R.BRIDLE_LOOP.PORT_B k) = n

/-- A loop takes effect or not: a request is checked; while the page is OFF every loop is inactive. -/
def loopEval (j : Nat) : M Unit := do
  let s ← getS
  wr (R.BRIDLE_LOOP.ACTIVE j) 0
  if s.fld (R.BRIDLE_LOOP.EN j) = 1 ∧ s.pageState 0x1D ≠ pgOff then
    if (← getS).loopBad j then raise E.BRIDLE.LOOP_BAD else wr (R.BRIDLE_LOOP.ACTIVE j) 1
  portRefresh (s.fld (R.BRIDLE_LOOP.PORT_A j))
  portRefresh (s.fld (R.BRIDLE_LOOP.PORT_B j))

def execBridleLoop (rid : BitVec 12) (j : Fin 4) (value : Word) (s : State) : Host.Outcome State Fault Refusal :=
  exec1 (hostWrite (fullWrite rid (R.BRIDLE_LOOP.EN j).addr value) (loopEval j)) s

end Sys2Proof.Machine
end

