-- ==== Sys2Proof/Machine/Queues.lean ====
section
/-! DEFINITION. The Pontilar engine (R136 to R175): rings, descriptors and their checks, acceptance, dispatch and
completion records. -/
namespace Sys2Proof.Machine
open Sys2Proof

/-! ### Status codes (R162, R499) -/

def stOk : Nat := 0x0000
def stAuthFail : Nat := 0x0001
def stVerifyFail : Nat := 0x0002
def stBadDesc : Nat := 0x0010
def stBadLen : Nat := 0x0011
def stVersion : Nat := 0x0012
def stUnsupported : Nat := 0x0013
def stKeyEmpty : Nat := 0x0020
def stKeyPolicy : Nat := 0x0021
def stKeyOrphaned : Nat := 0x0022
def stKeyErased : Nat := 0x0023
def stQuota : Nat := 0x0030
def stExhausted : Nat := 0x0031
def stBusErr : Nat := 0x0040
def stInputChanged : Nat := 0x0041
def stNoEntropy : Nat := 0x0052

/-! ### The checks of R153 and R155 -/

/-- What an opcode uses (R156): the least version, whether it uses SLOT_A, SLOT_B, SRC, DST and AUX, the PARAM bits,
bytes of OPDATA, and the lengths LEN and AUX_LEN may have. -/
structure OpUse where
  version : Nat
  a : Bool := false
  b : Bool := false
  src : Bool := false
  dst : Bool := false
  aux : Bool := false
  param : Nat := 0
  opdata : List Nat := []
  len : Nat × Nat := (0, 0)
  auxLen : Nat × Nat := (0, 0)

/-- Bytes i to j of OPDATA. -/
def range' (i j : Nat) : List Nat := (List.range (j + 1)).drop i

/-- The row of the opcode table for a descriptor; `none` is an unknown opcode. DESIGN CHOICE (log entry 130): the table states no LEN
range for AEAD_OPEN and BRIDLE and no AUX_LEN range for BRIDLE; they are those of AEAD_SEAL. -/
def QDesc.use (d : QDesc) : Option OpUse :=
  let m24 := 2 ^ 24
  let m32 := 2 ^ 32 - 1
  match d.opcode with
  | 0x01 => some {
      version := 1, a := true, src := true, dst := true, param := 3, len := (0, m24), auxLen := (0, 65535),
      opdata := if d.ivGen then range' 0 3 else range' 0 11 }
  | 0x02 => some {
      version := 1, a := true, src := true, dst := true, param := 3, len := (0, m24), auxLen := (0, 65535),
      opdata := range' 0 11 }
  | 0x03 | 0x04 => some { version := 1, a := true, src := true, dst := true, len := (16, m24), opdata := range' 0 15 }
  | 0x05 => some { version := 1, a := true, src := true, dst := true, param := 0x1F, len := (0, m24) }
  | 0x06 => some { version := 1, a := true, src := true, param := 0x1F, len := (0, m24), opdata := range' 0 15 }
  | 0x07 => some {
      version := 3, a := true, b := true, src := true, dst := true, param := 0xF, len := (0, m24),
      auxLen := (0, 65535), opdata := if d.ivGen then range' 0 15 else range' 0 23 }
  | 0x10 => some { version := 2, a := true, b := true, src := true, len := (32, 32), opdata := range' 0 3 }
  | 0x11 => some { version := 2, b := true, dst := 2 ≤ bits d.param 2 0, param := 7, opdata := range' 0 3 }
  | 0x12 => some { version := 2, a := true, b := true, dst := true, auxLen := (0, m32) }
  | 0x13 => some { version := 2, a := true, b := true, src := true, len := (0, m32) }
  | 0x20 => some { version := 2, a := true, src := true, dst := true, len := (32, 48) }
  | 0x21 =>
    let x := d.param.testBit 3
    some {
      version := 2, a := !x, src := true, aux := x, param := if x then 0xF else 0x8, len := (32, 48),
      auxLen := if x then (64, 96) else (0, 0) }
  | 0x22 => some { version := 2, a := true, b := true, src := true, len := (64, 96), opdata := range' 0 3 }
  | 0x28 => some { version := 1, src := true, dst := true, param := 1, len := (0, m32) }
  | 0x30 => some { version := 1, dst := true, param := 1, len := (1, m24) }
  | _ => none

/-- A field of `n` bytes whose bits from `hi` are reserved: it is zero where the opcode does not use it. -/
def fieldBad (b : Bytes) (at' n hi : Nat) (used : Bool) : Bool :=
  decide (leAt b at' n ≠ 0) && (!used || decide (2 ^ hi ≤ leAt b at' n))

/-- A set reserved bit, or a field that must be zero and is not (R155, R156). -/
def QDesc.reservedBad (d : QDesc) (u : OpUse) : Bool :=
  decide (4 ≤ leAt d.bytes 1 1)
    || fieldBad d.bytes 2 2 9 u.a || fieldBad d.bytes 4 2 9 u.b
    || decide (d.param &&& u.param ≠ d.param)
    || fieldBad d.bytes 8 8 40 u.src || fieldBad d.bytes 16 8 40 u.dst || fieldBad d.bytes 0x20 8 40 u.aux
    || ((List.range 24).any fun i => !u.opdata.contains i && decide (beAt d.opdata i 1 ≠ 0))
    || (decide (u.len = (0, 0)) && decide (d.len ≠ 0)) || (decide (u.auxLen = (0, 0)) && decide (d.auxLen ≠ 0))

/-- A length outside its range (R155); the digest and point lengths are those of the curves. -/
def QDesc.lenBad (d : QDesc) (u : OpUse) : Bool :=
  decide (d.len < u.len.1 ∨ u.len.2 < d.len) || decide (d.auxLen < u.auxLen.1 ∨ u.auxLen.2 < d.auxLen)
    || (decide (d.opcode = 0x05 ∨ d.opcode = 0x06) && decide (d.param < 4 ∨ 16 < d.param))
    || (decide (d.opcode = 0x20 ∨ d.opcode = 0x21) && decide (d.len ≠ 32 ∧ d.len ≠ 48))
    || (decide (d.opcode = 0x22) && decide (d.len ≠ 64 ∧ d.len ≠ 96))
    || (decide (d.opcode = 0x21) && u.aux && decide (d.auxLen ≠ 64 ∧ d.auxLen ≠ 96))

/-- A code in PARAM that names no option of R15. -/
def QDesc.optionBad (d : QDesc) : Bool :=
  (decide (d.opcode = 0x01 ∨ d.opcode = 0x02 ∨ d.opcode = 0x07) && decide (bits d.param 1 0 = 3))
    || (decide (d.opcode = 0x07) && decide (bits d.param 3 2 = 3))
    || (decide (d.opcode = 0x11) && decide (paramType (bits d.param 2 0) = 0))
    || (decide (d.opcode = 0x21) && d.param.testBit 3 && decide (bits d.param 2 0 < 2 ∨ 5 < bits d.param 2 0))

/-- The features that the granted version lacks (R153). -/
def QDesc.versionBad (d : QDesc) (u : OpUse) : Bool :=
  decide (d.version < u.version) || ((d.barrier || d.ivGen) && decide (d.version < 3))
    || (decide (d.opcode = 0x01 ∨ d.opcode = 0x02) && decide (bits d.param 1 0 ≠ 0) && decide (d.version < 2))

/-- The refusal status of a malformed descriptor; `none` where it is well formed (R153, R155, R429). -/
def QDesc.refusal (d : QDesc) : Option Nat := match d.use with
  | none => some stBadDesc
  | some u =>
    if d.reservedBad u then some stBadDesc
    else if d.versionBad u then some stVersion
    else if d.lenBad u then some stBadLen
    else if d.optionBad then some stUnsupported
    else if (d.opcode = 0x10 ∨ d.opcode = 0x11 ∨ d.opcode = 0x22) ∧ !policyValid d.policy then some stBadDesc
    else none

/-! ### Conditions of a fetch (R142) -/

/-- A descriptor is placed and the queue pair could fetch it. -/
def State.wantsFetch (s : State) (q : Nat) : Bool :=
  s.fld (R.QUEUE_Q_STAT.STATE q) = pgActive && decide (s.fld (R.QUEUE_Q_VER.GRANT q) ≠ 0)
    && decide (s.fld (R.QUEUE_Q_CTAIL.INDEX q) ≠ s.fld (R.QUEUE_Q_CHEAD.INDEX q))

/-- Every condition of R142, and those of R129, R548, R577 and of a reset or a descent, holds. -/
def State.mayFetch (s : State) (q : Nat) : Bool :=
  s.wantsFetch q && s.ringRoom q && s.queueEntryFree && s.cellarQuotaFree (s.queueTenant q)
    && !s.tokensOut (s.queueTenant q)
    && decide (s.fld (R.QUEUE_Q_STAT.HALT_FETCH q) = 0) && decide (s.fld (R.QUEUE_Q_STAT.HALT_CMPL q) = 0)
    && !s.shut && !s.grounded && !s.noLane

/-! ### Tokens (R170) -/

/-- A 1 ms boundary for every tenant. -/
def tokenRefill : M Unit :=
  forM (List.range 8) fun t => do
    let s ← getS
    setTokens t (min (4 * (s.chronRate t : Int)) (s.tokens t + s.chronRate t))

/-! ### Halts (R167) -/

def haltFetch (q : Nat) : M Unit := do
  wr (R.QUEUE_Q_STAT.HALT_FETCH q) 1
  raiseTenant (E.QUEUE.QERR q) q ((← getS).queueTenant q)

def haltCmpl (q : Nat) : M Unit := do
  wr (R.QUEUE_Q_STAT.HALT_CMPL q) 1
  raiseTenant (E.QUEUE.QERR q) q ((← getS).queueTenant q)

/-- Change one descriptor of a queue pair. -/
def modDesc (q : Nat) (seq : BitVec 32) (f : QDesc → QDesc) : M Unit := do
  setDescs q (((← getS).descs q).map fun d => if d.seq = seq then f d else d)

/-! ### Completion records (R145, R146, R160, R161) -/

/-- A record's 32 bytes. -/
def recordBytes (st : Stamp) (seq : BitVec 32) (status q flags : Nat) (result : Bytes) : Bytes :=
  leBytes 8 st.ts.toNat ++ leBytes 4 seq.toNat ++ leBytes 2 status ++ [BitVec.ofNat 8 q, BitVec.ofNat 8 flags]
    ++ padTo 14 result ++ leBytes 2 st.seq.toNat

/-- Take the next place in the completion ring: its address, and the PHASE flag there. -/
def takeRecord (q : Nat) : M (Nat × Nat) := do
  let s ← getS
  let i := s.fld (R.QUEUE_Q_RTAIL.INDEX q)
  wr (R.QUEUE_Q_RTAIL.INDEX q) ((i + 1) % 2 ^ 16)
  return (s.recAddr q i, if i.testBit (s.rlog q) then 0 else 1)

/-- Write an ACCEPTED record; a BUSERR holds it. -/
def writeAccepted (q : Nat) (d : QDesc) (e : Nat) (at' : Nat) (rcd : Bytes) (m : Dram) : M Unit := do
  let s ← getS
  if ← dramWrite m at' rcd (s.queueRid q) then
    modDesc q d.seq fun x => { x with accHeld := none }
    modEntry e fun c => { c with ackDone := true }
    raiseTenant (E.QUEUE.ACC q) q d.tenant
  else
    modDesc q d.seq fun x => { x with accHeld := some (at', rcd) }
    haltCmpl q

/-- The ACCEPTED record of a descriptor with the entry. -/
def acceptedRecord (q : Nat) (d : QDesc) (e : Nat) (iv : Bytes) (m : Dram) : M Unit := do
  match (← getS).entry e with
  | none => pure ()
  | some c =>
    let (a, ph) ← takeRecord q
    let rcd := recordBytes c.stamp d.seq 0 q ph (padTo 12 iv ++ leBytes 2 e)
    if (← getS).fld (R.QUEUE_Q_STAT.HALT_CMPL q) = 1 then modDesc q d.seq fun x => { x with accHeld := some (a, rcd) }
    else writeAccepted q d e a rcd m

/-! ### Fetch (R142, R143, R147, R171) -/

/-- The queue pair that is served next: first among tenants, then among the tenant's pairs. -/
def State.fetchNext (s : State) : Option Nat :=
  let ts := (List.range 8).map fun i => (s.engine.lastTenant + 1 + i) % 8
  ts.findSome? fun t =>
    let last := s.engine.lastPair.getD t 31
    ((List.range 32).map fun i => (last + 1 + i) % 32).find? fun q => s.queueTenant q = t && s.mayFetch q

def fetchDesc (m : Dram) : M Unit := do
  let s ← getS
  match s.fetchNext with
  | none => pure ()
  | some q =>
    let t := s.queueTenant q
    prim (.engine { lastTenant := t, lastPair := s.engine.lastPair.set t q })
    let head := s.fld (R.QUEUE_Q_CHEAD.INDEX q)
    match ← readDram m (s.descAddr q head) 64 (s.queueRid q) with
    | none => haltFetch q
    | some b =>
      let seq := s.fld (R.QUEUE_Q_SEQ.NEXT q)
      wr (R.QUEUE_Q_CHEAD.INDEX q) ((head + 1) % 2 ^ 16)
      wr (R.QUEUE_Q_SEQ.NEXT q) ((seq + 1) % 2 ^ 32)
      setDescs q (s.descs q ++ [{
        bytes := b, seq := BitVec.ofNat 32 seq, tenant := t,
        version := s.fld (R.QUEUE_Q_VER.GRANT q), exec := 0, slots := 0, weight := 0 }])

/-! ### Acceptance (R144, R155, R158, R568) -/

/-- The reference that R20 fixes for a named slot: its active bank, where the slot is LIVE. -/
def State.fixRef (s : State) (n : Nat) : Option KeyRef := if (s.slot n).st = .live then s.refOf n else none

/-- The key references of a well-formed descriptor: K0 for SLOT_A, K1 for SLOT_B where it is no target. -/
def State.descKeys (s : State) (d : QDesc) : List (Option KeyRef) := match d.use with
  | some u => [if u.a then s.fixRef d.slotA else none, if u.b ∧ d.target.isNone then s.fixRef d.slotB else none]
  | none => [none, none]

/-- Journal a fetched descriptor with the counter value reserved for it; `none`: an IV_GEN counter that is EXHAUSTED. -/
def acceptWith (q : Nat) (d : QDesc) (refusal : Option Nat) (iv : Option (Option Nat)) (m : Dram) : M Unit := do
  let s ← getS
  let hd ← takeHd
  let v := (iv.bind id).getD 0
  match ← journal .queue fun ord st => {
      kind := .queue, stamp := st, order := ord, source := BitVec.ofNat 16 (q + d.tenant * 2 ^ 8), ref := d.seq,
      keys := if refusal.isSome then [] else s.descKeys d, valueA := BitVec.ofNat 64 v,
      input := d.bytes, digest := digestFold hd d.bytes } with
  | none => pure ()
  | some e =>
    modDesc q d.seq fun x => { x with
      entry := some e, exhausted := iv = some none,
      exec := min 64 (s.fld (R.QUEUE_TNT_QUOTA_A.EXEC d.tenant)), slots := s.slotsQuotaOf d.tenant,
      weight := max 1 (s.fld (R.QUEUE_TNT_QUOTA_C.LANE_WEIGHT d.tenant)) }
    if 2 ≤ d.version then
      acceptedRecord q d e (if d.ivGen then match iv.bind id with | some n => d.genIv n | none => [] else []) m
    match refusal with
    | some st => endDesc q d.seq st false
    | none => pure ()

/-- Accept the queue pair's first descriptor that is fetched and not yet accepted. -/
def acceptDesc (q : Nat) (m : Dram) : M Unit := do
  let s ← getS
  if s.grounded ∨ (s.freeEntry .queue).isNone then pure ()
  else match (s.descs q).find? fun d => d.entry.isNone with
    | none => pure ()
    | some d => match d.refusal, d.counterSlot with
      | none, some n =>
        match ← reserveInv n with
        | .waits =>
          countCeilWait d.ceilWaited
          modDesc q d.seq fun x => { x with ceilWaited := true }
        | .exhausted =>
          takeToken d.tenant
          acceptWith q d none (some none) m
        | .value v => acceptWith q d none (some (some v)) m
      | r, _ => acceptWith q d r none m

/-! ### Keys of a descriptor (R430, R431) -/

/-- What each named key needs, as K0 and K1; BRIDLE needs two. -/
def QDesc.needs (d : QDesc) : List (Nat × Nat × KeyNeed) :=
  let gcm : List Nat := [0x01, 0x02]
  let ecc : List Nat := [0x10, 0x11, 0x12, 0x13]
  let q (enc : Bool) (ty : List Nat) : KeyNeed := { types := ty, engine := some .queue, enc := some enc }
  let pke (enc : Bool) (ty : List Nat) : KeyNeed := { types := ty, engine := some .pke, enc := some enc }
  match d.opcode with
  | 0x01 | 0x05 => [(0, d.slotA, q true gcm)]
  | 0x02 | 0x06 => [(0, d.slotA, q false gcm)]
  | 0x03 => [(0, d.slotA, q true [0x03, 0x04])]
  | 0x04 => [(0, d.slotA, q false [0x03, 0x04])]
  | 0x07 => [(0, d.slotA, { types := gcm, engine := some .bridle, enc := some false }),
      (1, d.slotB, { types := gcm, engine := some .bridle, enc := some true })]
  | 0x10 => [(0, d.slotA, parentNeed)]
  | 0x12 => [(0, d.slotA, { types := [0x02], use := some useWrap, enc := some true })]
  | 0x13 => [(0, d.slotA, { types := [0x02], use := some useWrap, enc := some false })]
  | 0x20 | 0x22 => [(0, d.slotA, pke true ecc)]
  | 0x21 => if d.param.testBit 3 then [] else [(0, d.slotA, pke false [0x18, 0x19, 0x1A, 0x1B])]
  | _ => []

/-- The key for a need: the bank that acceptance fixed, or, where the slot held none then, the slot's key at dispatch. A descriptor
is one use (R431), so one that is dispatched again needs no second. -/
def State.descKey (s : State) (d : QDesc) (c : CEntry) (i n : Nat) (need : KeyNeed) : Except Nat Bank :=
  match c.keys.getD i none with
  | some k => match s.bankOf k with
    | none => .error stKeyErased
    | some b =>
      if n = attestSlot ∨ !s.admits (s.slot n).type.toNat b.policy need ∨ (!d.counted && s.usedUp b) then .error stKeyPolicy
      else .ok b
  | none => (s.useKey n need).mapError KeyFail.status

/-- The key of a bank that is not derived as a parent: one that a SWAP has removed is invalidated (R441, R442). -/
def State.slotParent (s : State) (n : Nat) (b : Bank) : Except Nat (Parent × Nat) :=
  if (s.slot n).active.any fun x => x.gen = b.gen then .ok (.slot n b.gen, 1) else .error stKeyOrphaned

/-- The key that a descriptor holds as a parent, its use being counted. -/
def State.heldParent (s : State) (n : Nat) (b : Bank) : Except Nat (Parent × Nat) := match b.node with
  | some k => match (s.node k).st with
    | .free => .error stKeyEmpty
    | .orphaned => .error stKeyOrphaned
    | .valid => .ok (.node k, (s.node k).depth + 1)
  | none => s.slotParent n b

/-- The parent of a KEY_DERIVE and its children's depth (R423, R621). -/
def State.descParent (s : State) (d : QDesc) (c : CEntry) (n : Nat) : Except Nat (Parent × Nat) :=
  match s.descKey d c 0 n parentNeed with
  | .error e => .error e
  | .ok b => match b.node, d.counted with
    | some k, false => (s.parentNode k).mapError KeyFail.status
    | _, _ => s.heldParent n b

/-- The key that KEY_WRAP exports (R445). -/
def State.wrapped (s : State) (c : CEntry) (n : Nat) : Except Nat Bank :=
  let ok (b : Bank) : Except Nat Bank := if n = attestSlot ∨ !polExport b.policy then .error stKeyPolicy else .ok b
  match c.keys.getD 1 none with
  | some k => match s.bankOf k with
    | none => .error stKeyErased
    | some b => ok b
  | none => match (s.slot n).st, (s.slot n).active with
    | .live, some b => ok b
    | .empty, _ | .wideTail, _ | .live, none => .error stKeyEmpty
    | .orphaned, _ | .clearing, _ => .error stKeyOrphaned
    | .suspended, _ => .error stKeyPolicy

/-- Whether a descriptor's keys refuse it at dispatch: the status of the first that does. -/
def State.keysRefuse (s : State) (d : QDesc) (c : CEntry) : Option Nat :=
  let err {α : Type} (r : Except Nat α) : Option Nat := match r with | .error e => some e | .ok _ => none
  if d.keyOp ∧ s.servicesRefused then some stKeyPolicy
  else match d.needs.findSome? fun x => err (s.descKey d c x.1 x.2.1 x.2.2) with
    | some e => some e
    | none =>
      if d.opcode = 0x10 then err (s.descParent d c d.slotA)
      else if d.opcode = 0x12 then err (s.wrapped c d.slotB)
      else none

/-- Count one use of the key in a bank of a slot. -/
def countBank (n : Nat) (b : Bank) : M Unit := do
  let s ← getS
  match b.node with
  | some k => prim (.node k { s.node k with uses := (s.node k).uses + 1 })
  | none => prim (.slot n ((s.slot n).mapBanks fun x => if x.gen = b.gen then { x with uses := x.uses + 1 } else x))

/-! ### Dispatch (R150, R172, R586) -/

/-- Descriptors executing on an engine; the engine a descriptor may go to, and the limit of R150. -/
def State.onEngine (s : State) (g : Nat) : Nat :=
  (s.allDescs.filter fun d => d.phase = .executing && d.engine = g).length

def State.engineFree (s : State) : Option Nat :=
  (List.range 2).find? fun g => !(s.fld R.CELLAR_STAT.ENGINES_FENCED).testBit g && decide (s.onEngine g < 32)

/-- The descriptors of a pair before one in SEQ order. -/
def earlier (ds : List QDesc) (seq : BitVec 32) : List QDesc := ds.takeWhile fun x => x.seq ≠ seq

/-- The descriptor names slot `n` as SLOT_A or SLOT_B, in a field that its opcode uses (R156). -/
def QDesc.names (d : QDesc) (n : Nat) : Bool := match d.use with
  | some u => (u.a && d.slotA = n) || (u.b && d.slotB = n)
  | none => false

/-- The conditions of R150, and a lane to run on (R115, R129). -/
def State.mayDispatch (s : State) (q : Nat) (d : QDesc) : Bool :=
  let before := earlier (s.descs q) d.seq
  (s.allDescs.filter fun x => x.tenant = d.tenant && x.phase = .executing).length < d.exec
    && (before.all fun x => !(x.phase = .executing && x.target.any d.names))
    && (!(d.barrier || d.version = 1) || before.all fun x => x.phase = .done)
    && (!d.onLanes || decide ((if d.opcode = 0x07 then 2 else 1) ≤ s.laneCount))

/-- Random bytes that an operation draws before it runs: of class KEY or PR, and for blinding (R457 to R459, R495). -/
def State.draws (s : State) (d : QDesc) (c : CEntry) : Option (RandClass × Nat) × Option Nat :=
  let width (t : Nat) : Nat := (curveOf (curveCode t)).width
  match d.opcode with
  | 0x11 =>
    let t := paramType (bits d.param 2 0)
    if isPriv t then (some (.key, width t + 8), some (width t + 8)) else (some (.key, keyLen t), none)
  | 0x20 | 0x22 => match s.descKey d c 0 d.slotA { types := [0x10, 0x11, 0x12, 0x13] } with
    | .ok _ =>
      let w := width (s.slot d.slotA).type.toNat
      (if d.opcode = 0x20 then some (.key, w + 8) else none, some (w + 8))
    | .error _ => (none, none)
  | 0x30 => (some (if d.param.testBit 0 then .pr else .ordinary, min 128 (d.len - d.done)), none)
  | _ => (none, none)

/-- The entropy that the operation needs cannot be had (R499, R502). -/
def State.drawRefused (s : State) (d : QDesc) (c : CEntry) : Bool := match s.draws d c with
  | (some (.ordinary, _), _) => s.srcFault
  | (some _, _) => s.noKeyBits
  | (none, some _) => s.srcFault
  | (none, none) => false

/-- Ask for an operation's random bytes. -/
def askDraws (d : QDesc) (c : CEntry) (e : Nat) : M Unit := do
  let (a, b) := (← getS).draws d c
  match a with
  | some (cls, n) => askRandom cls (.entry e) n
  | none => pure ()
  match b with
  | some n => askRandom .ordinary (.blind e) n
  | none => pure ()

/-- Dispatch a descriptor: the refusals of R292, R430, R172 and R499, and otherwise it executes and its keys' uses are
counted, once (R431). -/
def dispatchNow (q : Nat) (d : QDesc) (c : CEntry) (e g : Nat) : M Unit := do
  let s ← getS
  match (if d.exhausted then some stExhausted else s.keysRefuse d c) with
  | some st => endDesc q d.seq st false
  | none =>
    if (match d.target with | some n => s.slotsQuota n d.tenant d.slots | none => false) then
      endDesc q d.seq stQuota false
    else if s.drawRefused d c then endDesc q d.seq stNoEntropy true
    else
      modDesc q d.seq fun x => { x with phase := .executing, engine := g, counted := true }
      forM d.needs fun x => match s.descKey d c x.1 x.2.1 x.2.2 with
        | .ok b => do
          modEntry e fun y => { y with keys := y.keys.set x.1 (some ⟨x.2.1, gen16 b⟩) }
          if !d.counted then countBank x.2.1 b
        | .error _ => pure ()
      if d.opcode = 0x12 then
        match s.wrapped c d.slotB with
        | .ok b => modEntry e fun y => { y with keys := y.keys.set 1 (some ⟨d.slotB, gen16 b⟩) }
        | .error _ => pure ()
      askDraws { d with counted := true } c e

def dispatchDesc (e : Nat) : M Unit := do
  let s ← getS
  match s.descOf e, s.entry e, s.engineFree with
  | some (q, d), some c, some g =>
    if d.phase = .accepted ∧ !s.replayHeld e ∧ s.mayDispatch q d then dispatchNow q d c e g
  | _, _, _ => pure ()

/-! ### DONE records (R145, R149) -/

/-- Write the DONE record of the queue pair's first descriptor without one, if its operation has ended. -/
def doneRecord (q : Nat) : M Unit := do
  let s ← getS
  match (s.descs q).find? fun d => d.phase ≠ .done with
  | none => pure ()
  | some d =>
    if d.phase = .ended ∧ s.fld (R.QUEUE_Q_STAT.HALT_CMPL q) = 0 then
      let st ← stamp
      let (a, ph) ← takeRecord q
      let rcd := recordBytes st d.seq d.status q (ph + 2 + bitAt d.replayed 2) d.result
      modDesc q d.seq fun x => { x with phase := .done, doneRec := (a, rcd) }
      emit (.initWrite (s.queueRid q) a rcd)
      raiseTenant (E.QUEUE.DONE q) q d.tenant

/-- The response to the queue pair's oldest DONE write. -/
def doneAck (q : Nat) (ok : Bool) : M Unit := do
  let s ← getS
  match (s.descs q).find? fun d => d.phase = .done && !d.doneHeld with
  | none => pure ()
  | some d =>
    if ok then
      match d.entry with
      | some e => freeEntry e
      | none => pure ()
      setDescs q ((s.descs q).filter fun x => x.seq ≠ d.seq)
    else
      modDesc q d.seq fun x => { x with doneHeld := true }
      haltCmpl q

/-- RESUME: both halts clear, and held records are written in SEQ order (R167). -/
def resumePair (q : Nat) (m : Dram) : M Unit := do
  wr (R.QUEUE_Q_STAT.HALT_FETCH q) 0
  wr (R.QUEUE_Q_STAT.HALT_CMPL q) 0
  let s ← getS
  forM (s.descs q) fun d => do
    match d.accHeld, d.entry with
    | some (a, rcd), some e =>
      if (← getS).fld (R.QUEUE_Q_STAT.HALT_CMPL q) = 0 then writeAccepted q d e a rcd m
    | _, _ => pure ()
    if d.doneHeld ∧ (← getS).fld (R.QUEUE_Q_STAT.HALT_CMPL q) = 0 then
      modDesc q d.seq fun x => { x with doneHeld := false }
      emit (.initWrite (s.queueRid q) d.doneRec.1 d.doneRec.2)

/-! ### Queue pairs (R86, R152) -/

/-- A queue pair's states. -/
def queueBlock (q : Nat) : Block := ⟨R.QUEUE_Q_STAT.STATE q, R.QUEUE_Q_STAT.REARM q, E.QUEUE.QSTATE q, q % 4⟩

/-- The highest version in a mask of PG_CAP's three, as GRANT encodes it. -/
def grantOf (mask : Nat) : Nat :=
  if mask.testBit 2 then 3 else if mask.testBit 1 then 2 else if mask.testBit 0 then 1 else 0

/-- A queue pair enters ACTIVE: its version is negotiated. -/
def queueEnter (q : Nat) : M Unit := do
  let g := grantOf (← rd (R.QUEUE_Q_VER.PROPOSE q))
  wr (R.QUEUE_Q_VER.GRANT q) g
  wr (R.QUEUE_Q_STAT.NO_VER q) (b2n (g = 0))
  if g = 0 then raise (E.QUEUE.QERR q)

/-- A queue pair's drain ends when every descriptor it has fetched has its DONE record written. -/
def queueDrained (q : Nat) : M Unit := do
  let s ← getS
  if s.fld (R.QUEUE_Q_STAT.STATE q) = pgDraining ∧ (s.descs q).all fun d => d.phase = .done then
    blockDrained (queueBlock q) (s.active (0x10 + q / 4)) (queueEnter q)

end Sys2Proof.Machine
end

