-- ==== Sys2Proof/Machine/QueueCmds.lean ====
section
/-! DEFINITION. The commands of the Pontilar client queues (R136 to R175): index writes, queue pairs, the engine's own events
and the engine fault of R586. -/
namespace Sys2Proof.Machine
open Sys2Proof

/-! ### Register writes -/

/-- An index write that breaks R139. -/
def badIndex (q : Nat) : M Unit := do
  bump (R.QUEUE_Q_ERR.DB_BAD q)
  raise (E.QUEUE.QERR q)

/-- The doorbell. -/
def fxCtail (q new : Nat) : M Unit := do
  let s ← getS
  let n := 2 ^ s.clog q
  if idxSub new (s.fld (R.QUEUE_Q_CHEAD.INDEX q)) ≤ n ∧ idxSub new (s.fld (R.QUEUE_Q_CTAIL.INDEX q)) ≤ n then
    wr (R.QUEUE_Q_CTAIL.INDEX q) new
  else badIndex q

/-- A return of completion space. -/
def fxRhead (q new : Nat) : M Unit := do
  let s ← getS
  let tail := s.fld (R.QUEUE_Q_RTAIL.INDEX q)
  if idxSub tail new ≤ idxSub tail (s.fld (R.QUEUE_Q_RHEAD.INDEX q)) then
    wr (R.QUEUE_Q_RHEAD.INDEX q) new
  else badIndex q

def execDoorbell (rid : BitVec 12) (q : Fin 32) (value : Word) (s : State) : Host.Outcome State Fault Refusal :=
  exec1 (hostWrite (fullWrite rid (R.QUEUE_Q_CTAIL.INDEX q).addr value) (fxCtail q (value.toNat % 2 ^ 16))) s

def execRheadReturn (rid : BitVec 12) (q : Fin 32) (value : Word) (s : State) : Host.Outcome State Fault Refusal :=
  exec1 (hostWrite (fullWrite rid (R.QUEUE_Q_RHEAD.INDEX q).addr value) (fxRhead q (value.toNat % 2 ^ 16))) s

/-- QUEUE_Q_CTL written: `old` is EN before the write. -/
def fxQueueCtl (q : Nat) (old : Bool) (v : Nat) (m : Dram) : M Unit := do
  let s ← getS
  blockEnable (queueBlock q) old (v.testBit 0) (s.active (0x10 + q / 4)) (pure ()) (queueEnter q)
  if v.testBit 2 then resumePair q m

/-- A write of QUEUE_Q_CTL. -/
def queueCtlWrite (rid : BitVec 12) (q v : Nat) (m : Dram) : M Unit := do
  let old := (← getS).fld (R.QUEUE_Q_CTL.EN q)
  hostWrite (fullWrite rid (R.QUEUE_Q_CTL.EN q).addr (BitVec.ofNat 32 v)) (fxQueueCtl q (old = 1) v m)

def execQueuePairEn (rid : BitVec 12) (q : Fin 32) (en : Bool) (s : State) : Host.Outcome State Fault Refusal :=
  exec1 (queueCtlWrite rid q (b2n en) {}) s

def execResume (rid : BitVec 12) (q : Fin 32) (dram : Dram) (s : State) : Host.Outcome State Fault Refusal :=
  exec1 (do queueCtlWrite rid q (4 + (← getS).fld (R.QUEUE_Q_CTL.EN q)) dram) s

/-! ### The engine -/

def execDescriptorFetch (dram : Dram) (s : State) : Host.Outcome State Fault Refusal := exec1 (fetchDesc dram) s

def execDescriptorAccept (q : Fin 32) (dram : Dram) (s : State) : Host.Outcome State Fault Refusal :=
  exec1 (acceptDesc q dram) s

def execDescriptorDispatch (e : BitVec 11) (s : State) : Host.Outcome State Fault Refusal :=
  exec1 (dispatchDesc e.toNat) s

def execDoneRecord (q : Fin 32) (s : State) : Host.Outcome State Fault Refusal := exec1 (doneRecord q) s

def execDoneWriteAck (q : Fin 32) (ok : Bool) (s : State) : Host.Outcome State Fault Refusal := exec1 (doneAck q ok) s

def execTokenRefill (s : State) : Host.Outcome State Fault Refusal := exec1 tokenRefill s

/-! ### BUSERR (R39, R167) -/

/-- A descriptor's operation ends with BUS_ERR. -/
def busFail (q : Nat) (d : QDesc) (result : Bytes := []) : M Unit := do
  endDesc q d.seq stBusErr false result
  raiseTenant (E.QUEUE.QERR q) q d.tenant

/-- BUSERR answers the initiator port for a queue pair: a descriptor fetch, or a request of the descriptor that holds a
Cellar entry. -/
def initiatorBuserr : BusOp → M Unit
  | .fetch q => do if (← getS).fld (R.QUEUE_Q_STAT.STATE q) = pgActive then haltFetch q
  | .desc e => do
    match (← getS).descOf e.toNat with
    | none => pure ()
    | some (q, d) =>
      if d.phase = .executing then busFail q d
      else if d.phase = .done ∧ !d.doneHeld then
        modDesc q d.seq fun x => { x with doneHeld := true }
        haltCmpl q

def execInitiatorBuserr (op : BusOp) (s : State) : Host.Outcome State Fault Refusal := exec1 (initiatorBuserr op) s

/-! ### Engine faults (R586) -/

/-- Void a descriptor's execution: it is replayed. -/
def voidDesc (q : Nat) (d : QDesc) (e : Nat) : M Unit := do
  modDesc q d.seq fun x => { x with phase := .accepted }
  dropWork (.entry e)
  dropWork (.half e)
  prim (.drawn e [])
  prim (.blinded e [])
  dropQueuedOf e
  let r := (← getS).rng
  prim (.rng { r with reqs := r.reqs.filter fun x => x.user ≠ .entry e ∧ x.user ≠ .blind e })
  modEntry e fun c => { c with resumed := false }

/-- Entries to replay join those that wait, in acceptance order (R579). -/
def addReplays (es : List Nat) : M Unit := do
  let s ← getS
  let ord (e : Nat) : Nat := match s.entry e with | some c => c.order | none => 0
  let all := sortOn ord (s.cellar.replay ++ es.filter fun e => !s.cellar.replay.contains e)
  prim (.cellar { s.cellar with replay := all })

/-- Parity fails in the state of an engine. -/
def engineFault (g : Nat) : M Unit := do
  let s ← getS
  let hit := (s.queues.map fun p => p.2.descs.filterMap fun d =>
    if d.phase = .executing ∧ d.engine = g then d.entry.map fun e => (p.1, d, e) else none).flatten
  forM hit fun x => voidDesc x.1 x.2.1 x.2.2
  addReplays (hit.map fun x => x.2.2)
  raise E.CELLAR.ENGINE_GUST
  let (_, lasting) ← countGust (0x400 + g) (s.fld R.CELLAR_CFG.GUST_LIMIT) (s.fld R.CELLAR_CFG.GUST_WIN_MS)
  if lasting ∧ !(s.fld R.CELLAR_STAT.ENGINES_FENCED).testBit g then
    wrBit R.CELLAR_STAT.ENGINES_FENCED g true
    unitAlarm 0x04 2

def execEngineParityFault (g : Fin 2) (s : State) : Host.Outcome State Fault Refusal := exec1 (engineFault g) s

end Sys2Proof.Machine
end

