-- ==== Sys2Proof/Machine/QueueOps.lean ====
section
/-! DEFINITION. The operations of queue descriptors (R156 to R166, R423 to R428, R444 to R447, R457, R583). Each command
names the Cellar entry of an executing descriptor; `dram` is what memory answers to its first pass over the input and to
its writes, `again` what it answers to a second pass. -/
namespace Sys2Proof.Machine
open Sys2Proof

/-- A load of the descriptor waits for a retiring bank (R434). -/
def State.loadWaits (s : State) (e : Nat) : Bool := s.slots.any fun p => p.2.queued.any fun l => l.entry = some e

/-- Run `body` for the descriptor of entry `e` if it executes this opcode. -/
def runOp (op e : Nat) (body : Nat → QDesc → CEntry → M Unit) : M Unit := do
  let s ← getS
  match s.descOf e, s.entry e with
  | some (q, d), some c =>
    if d.opcode = op ∧ d.phase = .executing ∧ !s.loadWaits e then
      if !d.onLanes then body q d c
      else if ← itemWork e (op = 0x07) then body q d c
  | _, _ => pure ()

/-- A descriptor reads SRC, then AUX, under its queue's requester ID. -/
def readInput (q : Nat) (m : Dram) (d : QDesc) (n k : Nat) : M (Option (Bytes × Bytes)) := do
  let rid := (← getS).queueRid q
  match ← readDram m d.src n rid with
  | none => return none
  | some a => return (← readDram m d.aux k rid).map fun b => (a, b)

/-- RESULT of a sealing operation that has used its IV, whatever its status (R161). -/
def QDesc.sealResult (d : QDesc) (c : CEntry) : Bytes :=
  if d.ivGen ∧ (d.opcode = 0x01 ∨ d.opcode = 0x07) then d.sealIv c else []

/-- The input is not the input of the first execution: DST is overwritten with zeros (R165, R583). -/
def inputChanged (q : Nat) (d : QDesc) (c : CEntry) (out : Nat) : M Unit := do
  let s ← getS
  forM (writeReqs {} d.dst (zeros out) (s.queueRid q)) emit
  bump R.CELLAR_CHANGED.COUNT
  raiseTenant E.CELLAR.INPUT_CHANGED q d.tenant (some (0x0016, c.changedPayload))
  endDesc q d.seq stInputChanged false (d.sealResult c)

/-- Read the input, `n` bytes of SRC and `k` of AUX, and go on with SRC, AUX and what a second pass over SRC reads. A
descriptor whose input was read whole before a replay is verified in both passes (R583); `out` is the length of what it
may have written. -/
def withInput (q : Nat) (d : QDesc) (c : CEntry) (e n k out : Nat) (dram again : Dram)
    (go : Bytes → Bytes → M (Option Bytes) → M Unit) : M Unit := do
  match ← readInput q dram d n k with
  | none => busFail q d
  | some (a, b) =>
    if c.replayed ∧ c.digestDone then
      let hd ← takeHd
      if digestOf hd (d.bytes ++ a ++ b) ≠ c.digest then inputChanged q d c out
      else match ← readInput q again d n k with
        | none => busFail q d
        | some (a2, b2) =>
          if digestOf hd (d.bytes ++ a2 ++ b2) ≠ c.digest then inputChanged q d c out else go a2 b2 (return some a2)
    else
      foldEntry e (d.bytes ++ a ++ b) true
      modEntry e fun x => { x with input := d.bytes }
      go a b do readDram again d.src n ((← getS).queueRid q)

/-- Write output; then go on. -/
def writeOut (q : Nat) (d : QDesc) (b : Bytes) (dram : Dram) (result : Bytes) (go : M Unit) : M Unit := do
  let s ← getS
  if b.isEmpty then go
  else
    modDesc q d.seq fun x => { x with written := [(d.dst, b.length)] }
    if ← dramWrite dram d.dst b (s.queueRid q) then go else busFail q d result

/-- The operation ends OK. -/
def opDone (q : Nat) (d : QDesc) (result : Bytes) : M Unit := endDesc q d.seq stOk false result

/-- Write the output and end OK. -/
def finish (q : Nat) (d : QDesc) (b : Bytes) (dram : Dram) (result : Bytes) : M Unit :=
  writeOut q d b dram result (opDone q d result)

/-- Go on with the key of K0 or K1. -/
def withKey (q : Nat) (d : QDesc) (c : CEntry) (i : Nat) (go : Bank → M Unit) : M Unit := do
  match (← getS).entryKey c i with
  | some b => go b
  | none => endDesc q d.seq stKeyErased true

/-! ### Lane operations -/

def aeadSeal (q : Nat) (d : QDesc) (c : CEntry) (e : Nat) (dram again : Dram) : M Unit :=
  withKey q d c 0 fun b =>
    withInput q d c e (d.auxLen + d.len) 0 (d.len + d.tagIn) dram again fun x _ _ =>
      let r := gcmSeal b.material (d.sealIv c) (x.take d.auxLen) (x.drop d.auxLen)
      finish q d (r.1 ++ r.2.take d.tagIn) dram (d.sealResult c)

def execAeadSeal (e : BitVec 11) (dram again : Dram) (s : State) : Host.Outcome State Fault Refusal :=
  exec1 (runOp 0x01 e.toNat fun q d c => aeadSeal q d c e.toNat dram again) s

/-- AAD, ciphertext and tag of what an opening operation reads. -/
def splitInput (d : QDesc) (x : Bytes) : Bytes × Bytes × Bytes :=
  (x.take d.auxLen, slice x d.auxLen d.len, x.drop (d.auxLen + d.len))

/-- The tag of an opening operation's input is right. -/
def tagOk (key iv : Bytes) (d : QDesc) (x : Bytes) : Bool :=
  let (a, ct, t) := splitInput d x
  (gcmTag key iv a ct).take d.tagIn = t

def aeadOpen (q : Nat) (d : QDesc) (c : CEntry) (e : Nat) (dram again : Dram) : M Unit :=
  withKey q d c 0 fun b =>
    withInput q d c e (d.auxLen + d.len + d.tagIn) 0 d.len dram again fun x _ second => do
      let iv := slice d.opdata 0 12
      let good := tagOk b.material iv d x
      let plain (y : Bytes) : Bytes := gcmOpen b.material iv (splitInput d y).2.1
      if d.version = 1 then
        writeOut q d (plain x) dram [] do
          if good then opDone q d []
          else endDesc q d.seq stAuthFail true
      else if !good then endDesc q d.seq stAuthFail false
      else match ← second with
        | none => busFail q d
        | some y =>
          writeOut q d (plain y) dram [] do
            if tagOk b.material iv d y then opDone q d []
            else inputChanged q d c d.len

def execAeadOpen (e : BitVec 11) (dram again : Dram) (s : State) : Host.Outcome State Fault Refusal :=
  exec1 (runOp 0x02 e.toNat fun q d c => aeadOpen q d c e.toNat dram again) s

/-- XTS under a key pair. -/
def xtsOp (enc : Bool) (q : Nat) (d : QDesc) (c : CEntry) (e : Nat) (dram again : Dram) : M Unit :=
  withKey q d c 0 fun b =>
    withInput q d c e d.len 0 d.len dram again fun x _ _ =>
      let h := b.material.length / 2
      finish q d (xts (b.material.take h) (b.material.drop h) enc (slice d.opdata 0 16) x) dram []

def execXtsEnc (e : BitVec 11) (dram again : Dram) (s : State) : Host.Outcome State Fault Refusal :=
  exec1 (runOp 0x03 e.toNat fun q d c => xtsOp true q d c e.toNat dram again) s

def execXtsDec (e : BitVec 11) (dram again : Dram) (s : State) : Host.Outcome State Fault Refusal :=
  exec1 (runOp 0x04 e.toNat fun q d c => xtsOp false q d c e.toNat dram again) s

def cmacGen (q : Nat) (d : QDesc) (c : CEntry) (e : Nat) (dram again : Dram) : M Unit :=
  withKey q d c 0 fun b =>
    withInput q d c e d.len 0 d.param dram again fun x _ _ =>
      finish q d ((cmac b.material x).take d.param) dram []

def execCmacGen (e : BitVec 11) (dram again : Dram) (s : State) : Host.Outcome State Fault Refusal :=
  exec1 (runOp 0x05 e.toNat fun q d c => cmacGen q d c e.toNat dram again) s

def cmacVerify (q : Nat) (d : QDesc) (c : CEntry) (e : Nat) (dram again : Dram) : M Unit :=
  withKey q d c 0 fun b =>
    withInput q d c e d.len 0 0 dram again fun x _ _ =>
      if (cmac b.material x).take d.param = slice d.opdata 0 d.param then opDone q d []
      else endDesc q d.seq stAuthFail false

def execCmacVerify (e : BitVec 11) (dram again : Dram) (s : State) : Host.Outcome State Fault Refusal :=
  exec1 (runOp 0x06 e.toNat fun q d c => cmacVerify q d c e.toNat dram again) s

def bridleOp (q : Nat) (d : QDesc) (c : CEntry) (e : Nat) (dram again : Dram) : M Unit :=
  withKey q d c 0 fun bi => withKey q d c 1 fun bo =>
    withInput q d c e (d.auxLen + d.len + d.tagIn) 0 (d.len + d.tagOut) dram again fun x _ second => do
      let iv := slice d.opdata 0 12
      if !tagOk bi.material iv d x then endDesc q d.seq stAuthFail false
      else match ← second with
        | none => busFail q d
        | some y =>
          let (a, ct, _) := splitInput d y
          let r := gcmSeal bo.material (d.sealIv c) a (gcmOpen bi.material iv ct)
          if tagOk bi.material iv d y then finish q d (r.1 ++ r.2.take d.tagOut) dram (d.sealResult c)
          else writeOut q d r.1 dram (d.sealResult c) (inputChanged q d c d.len)

def execBridle (e : BitVec 11) (dram again : Dram) (s : State) : Host.Outcome State Fault Refusal :=
  exec1 (runOp 0x07 e.toNat fun q d c => bridleOp q d c e.toNat dram again) s

/-! ### Keys -/

/-- Load the target (R427, R434): the descriptor ends, or waits for a retiring bank. Nothing is loaded while key services are
refused (R621). -/
def loadTarget (q : Nat) (d : QDesc) (e type : Nat) (m : Bytes) (policy : Word) (prov : Prov) (node : Option Nat) :
    M Unit := do
  let s ← getS
  let n := d.slotB
  match (if s.servicesRefused then some .policy else s.loadRefused n type) with
  | some f => endDesc q d.seq f.status true
  | none =>
    if s.wideBad n type then endDesc q d.seq stBadDesc true
    else
      let r ← loadSlot n type (BitVec.ofNat 3 d.tenant) m policy prov node (some e)
      tenantsRefresh
      match r with
      | .waits => pure ()
      | .loaded g =>
        slotFilled n
        let kcv := kcvOf type m
        modEntry e fun c => { c with loaded := true, valueB := BitVec.ofNat 64 (kcv.toNat + g.toNat * 2 ^ 32) }
        opDone q d (loadedBytes n ⟨m, kcv, g, policy, prov, startKeyOf type m, node, 0⟩)

def keyDerive (q : Nat) (d : QDesc) (c : CEntry) (e : Nat) (dram again : Dram) : M Unit :=
  withInput q d c e 32 0 0 dram again fun label _ _ => do
    let s ← getS
    let type := (label.getD 0 0).toNat
    match (match s.entryKey c 0 with
      | none => .error stKeyErased
      | some b => s.heldParent d.slotA b : Except Nat (Parent × Nat)) with
    | .error st => endDesc q d.seq st true
    | .ok (p, depth) =>
      if 8 < depth ∨ derivedBits type = 0 then endDesc q d.seq stBadDesc true
      else match s.loadRefused d.slotB type with
        | some f => endDesc q d.seq f.status true
        | none =>
          if s.wideBad d.slotB type then endDesc q d.seq stBadDesc true
          else match ← defineNode p depth label d.policy (BitVec.ofNat 3 d.tenant) with
            | none => endDesc q d.seq stQuota true
            | some k => match (← getS).nodeKey chainFuel k with
              | .error f => endDesc q d.seq f.status true
              | .ok m => loadTarget q d e type m d.policy .derived (some k)

def execKeyDerive (e : BitVec 11) (dram again : Dram) (s : State) : Host.Outcome State Fault Refusal :=
  exec1 (runOp 0x10 e.toNat fun q d c => keyDerive q d c e.toNat dram again) s

/-- The random bytes drawn for an entry, and those for its blinding. -/
def State.drawnFor (s : State) (e : Nat) : Bytes := mget (fun _ => []) s.drawn e
def State.blindFor (s : State) (e : Nat) : Bytes := mget (fun _ => []) s.blinded e

/-- Everything that the operation draws has been drawn. -/
def State.drawsReady (s : State) (d : QDesc) (c : CEntry) (e : Nat) : Bool :=
  let (a, b) := s.draws d c
  (a.isNone || !(s.drawnFor e).isEmpty) && (b.isNone || !(s.blindFor e).isEmpty)

/-- Provenance of a generated key (R433). -/
def genProv (p : Word) : Prov := if !polExport p ∧ polExpire p then .sole else .generated

def keyGenerate (q : Nat) (d : QDesc) (c : CEntry) (e : Nat) (dram : Dram) : M Unit := do
  let s ← getS
  if s.drawsReady d c e then
    let t := paramType (bits d.param 2 0)
    let m := derivedMaterial t (s.drawnFor e)
    prim (.drawn e [])
    prim (.blinded e [])
    foldEntry e d.bytes true
    let out := if isPriv t then publicPoint t m else []
    writeOut q d out dram [] do
      if isPriv t then bumpMod R.PKE_OPS.COUNT
      loadTarget q d e t m d.policy (genProv d.policy) none

def execKeyGenerate (e : BitVec 11) (dram : Dram) (s : State) : Host.Outcome State Fault Refusal :=
  exec1 (runOp 0x11 e.toNat fun q d c => keyGenerate q d c e.toNat dram) s

def keyWrap (q : Nat) (d : QDesc) (c : CEntry) (e : Nat) (dram : Dram) : M Unit :=
  withKey q d c 0 fun w => withKey q d c 1 fun b => do
    let s ← getS
    foldEntry e d.bytes true
    let blob := keyBlob w.material (s.slot d.slotB).type.toNat b.policy b.prov b.material (beBytes 8 c.valueA.toNat)
    if d.auxLen < blob.length then endDesc q d.seq stBadLen false
    else finish q d blob dram (leBytes 4 blob.length)

def execKeyWrap (e : BitVec 11) (dram : Dram) (s : State) : Host.Outcome State Fault Refusal :=
  exec1 (runOp 0x12 e.toNat fun q d c => keyWrap q d c e.toNat dram) s

def keyUnwrap (q : Nat) (d : QDesc) (c : CEntry) (e : Nat) (dram again : Dram) : M Unit :=
  withKey q d c 0 fun w =>
    withInput q d c e d.len 0 0 dram again fun blob _ _ => do
      match (← getS).openBlob w.material blob with
      | .error st => endDesc q d.seq st false
      | .ok (t, p, m) => loadTarget q d e t m p .imported none

def execKeyUnwrap (e : BitVec 11) (dram again : Dram) (s : State) : Host.Outcome State Fault Refusal :=
  exec1 (runOp 0x13 e.toNat fun q d c => keyUnwrap q d c e.toNat dram again) s

/-! ### Public keys (R457, R459) -/

/-- The operation ends with VERIFY_FAIL. -/
def verifyFail (q : Nat) (d : QDesc) : M Unit := do
  bump R.PKE_FAILS.COUNT
  endDesc q d.seq stVerifyFail false

def ecdsaSignOp (q : Nat) (d : QDesc) (c : CEntry) (e : Nat) (dram again : Dram) : M Unit := do
  let s ← getS
  if s.drawsReady d c e then
    let cv := curveOf (curveCode (s.slot d.slotA).type.toNat)
    if d.len ≠ cv.width then endDesc q d.seq stBadLen false
    else withKey q d c 0 fun b =>
      withInput q d c e d.len 0 (2 * cv.width) dram again fun x _ _ =>
        match ecdsaSign cv (beNat b.material) (beNat (s.drawnFor e) % (cv.n - 1) + 1) x with
        | none => do
          prim (.drawn e [])
          askRandom .key (.entry e) (cv.width + 8)
        | some sig => do
          bumpMod R.PKE_OPS.COUNT
          finish q d sig dram []

def execEcdsaSign (e : BitVec 11) (dram again : Dram) (s : State) : Host.Outcome State Fault Refusal :=
  exec1 (runOp 0x20 e.toNat fun q d c => ecdsaSignOp q d c e.toNat dram again) s

def ecdsaVerifyOp (q : Nat) (d : QDesc) (c : CEntry) (e : Nat) (dram again : Dram) : M Unit := do
  let s ← getS
  let given := d.param.testBit 3
  let t := if given then paramType (bits d.param 2 0) else (s.slot d.slotA).type.toNat
  let cv := curveOf (curveCode t)
  if d.len ≠ cv.width ∨ (given ∧ d.auxLen ≠ 2 * cv.width) then endDesc q d.seq stBadLen false
  else
    let go (slotKey : Bytes) : M Unit :=
      withInput q d c e (d.len + 2 * cv.width) d.auxLen 0 dram again fun x a _ => do
        let p := bytesPoint cv (if given then a else slotKey)
        bumpMod R.PKE_OPS.COUNT
        if onCurve cv p.1 p.2 && ecdsaVerify cv p.1 p.2 (x.take d.len) (x.drop d.len) then opDone q d []
        else verifyFail q d
    if given then go [] else withKey q d c 0 fun b => go b.material

def execEcdsaVerify (e : BitVec 11) (dram again : Dram) (s : State) : Host.Outcome State Fault Refusal :=
  exec1 (runOp 0x21 e.toNat fun q d c => ecdsaVerifyOp q d c e.toNat dram again) s

def ecdhAgree (q : Nat) (d : QDesc) (c : CEntry) (e : Nat) (dram again : Dram) : M Unit := do
  let s ← getS
  if s.drawsReady d c e then
    let cv := curveOf (curveCode (s.slot d.slotA).type.toNat)
    if d.len ≠ 2 * cv.width then endDesc q d.seq stBadLen false
    else withKey q d c 0 fun b =>
      withInput q d c e d.len 0 0 dram again fun x _ _ => do
        let p := bytesPoint cv x
        bumpMod R.PKE_OPS.COUNT
        match (if onCurve cv p.1 p.2 then ecMul cv (beNat b.material) (some p) else none) with
        | none => verifyFail q d
        | some (z, _) =>
          loadTarget q d e (if cv.width = 32 then 0x20 else 0x21) (beBytes cv.width z) d.policy .agreed none

def execEcdhAgree (e : BitVec 11) (dram again : Dram) (s : State) : Host.Outcome State Fault Refusal :=
  exec1 (runOp 0x22 e.toNat fun q d c => ecdhAgree q d c e.toNat dram again) s

/-! ### HASH and RANDOM_FILL -/

def hashOp (q : Nat) (d : QDesc) (c : CEntry) (e : Nat) (dram again : Dram) : M Unit :=
  let wide := d.param.testBit 0
  withInput q d c e d.len 0 (if wide then 48 else 32) dram again fun x _ _ =>
    finish q d (if wide then sha384 x else sha256 x) dram []

def execHash (e : BitVec 11) (dram again : Dram) (s : State) : Host.Outcome State Fault Refusal :=
  exec1 (runOp 0x28 e.toNat fun q d c => hashOp q d c e.toNat dram again) s

/-- Write the piece that has been drawn; then the next is drawn, until LEN bytes are written (R496). -/
def randomFill (q : Nat) (d : QDesc) (c : CEntry) (e : Nat) (dram : Dram) : M Unit := do
  let s ← getS
  let b := s.drawnFor e
  if !b.isEmpty then
    prim (.drawn e [])
    if d.done = 0 then foldEntry e d.bytes true
    modDesc q d.seq fun x => { x with written := [(d.dst, d.done + b.length)] }
    if ← dramWrite dram (d.dst + d.done) b (s.queueRid q) then
      let d2 := { d with done := d.done + b.length }
      modDesc q d.seq fun x => { x with done := d2.done }
      if d.len ≤ d2.done then opDone q d []
      else if (← getS).drawRefused d2 c then endDesc q d.seq stNoEntropy true
      else askDraws d2 c e
    else busFail q d

def execRandomFill (e : BitVec 11) (dram : Dram) (s : State) : Host.Outcome State Fault Refusal :=
  exec1 (runOp 0x30 e.toNat fun q d c => randomFill q d c e.toNat dram) s

end Sys2Proof.Machine
end

