-- ==== Sys2Proof/Machine/CellarCmds.lean ====
section
/-! DEFINITION. The CELLAR page's command (R605), parity failures of the Cellar (R577) and replay (R579 to R584). -/
namespace Sys2Proof.Machine
open Sys2Proof

/-! ### CELLAR_CMD (R605) -/

/-- READ: an entry that is free reads as zeros. -/
def fxCellarCmd (op e : Nat) : M Unit :=
  cmdActive U.cellar do
    if op = 1 then
      let b := match (← getS).entry e with
        | some c => c.bytes
        | none => zeros 64
      forM (List.range 16) fun w => wr (R.CELLAR_ENTRY.WORD w) (leAt b (4 * w) 4)
      cmdEnd U.cellar rcOk
    else cmdEnd U.cellar rcBadCmd

def execCellarRead (rid : BitVec 12) (entry : BitVec 11) (s : State) : Host.Outcome State Fault Refusal :=
  exec1 (hostWrite (fullWrite rid R.CELLAR_CMD.OP.addr (BitVec.ofNat 32 (2 ^ 28 + entry.toNat))) (fxCellarCmd 1 entry.toNat)) s

/-! ### Parity (R577) -/

/-- The owner of an entry that is lost lets go of the item: the memory port and the storage interface get the answer of a
refused access, and the other paths release nothing further. -/
def forgetItem (e : Nat) (c : CEntry) : M Unit := do
  let s ← getS
  match c.kind with
  | .memRd | .memWr => match s.txn e with
    | some t =>
      answerTxn t (match t.region with | some n => s.denied n | none => .buserr)
      prim (.txn e none)
    | none => pure ()
  | .storage => refuseUnits fun u => u.cellar = some e
  | .queue =>
    forM s.queues fun p => do
      if (p.2.descs.any fun d => d.entry = some e) then setDescs p.1 (p.2.descs.filter fun d => d.entry ≠ some e)
  | .egress | .ingress | .bridle =>
    forM s.ports fun p => forM p.2.items fun i =>
      if i.entry = some e then dropOrSkip p.1 i else pure ()
  | .data => pure ()

/-- Both copies of an entry are lost. -/
def loseEntry (e : Nat) : M Unit := do
  match (← getS).entry e with
  | none => pure ()
  | some c =>
    itemLost e
    if c.kind = .memWr then freeEntry (c.handleA.toNat % 2048)
    forgetItem e c

/-- Fence a macro: what lay in it is lost. A third fenced macro sets FAULT. -/
def fenceCellar (m : Nat) : M Unit := do
  wrBit R.CELLAR_FENCED.MACROS m true
  raise E.CELLAR.MACRO_FENCED .immediate
  unitAlarm 0x04 2
  let s ← getS
  let f := s.fld R.CELLAR_FENCED.MACROS
  if 3 ≤ ((List.range 8).filter fun i => f.testBit i).length then wr R.CELLAR_STAT.FAULT 1
  forM s.inUse fun p =>
    if f.testBit (macrosOf p.1).1 ∧ f.testBit (macrosOf p.1).2 then loseEntry p.1 else pure ()
  cellarOccupancy

/-- A copy of an entry fails parity. -/
def cellarParity (e : Nat) (copyB rewriteBad : Bool) : M Unit := do
  let s ← getS
  let f := s.fld R.CELLAR_FENCED.MACROS
  let m := if copyB then (macrosOf e).2 else (macrosOf e).1
  let other := if copyB then (macrosOf e).1 else (macrosOf e).2
  if f.testBit m then pure ()
  else
    if f.testBit other then loseEntry e
    raise E.CELLAR.MACRO_GUST
    let (_, lasting) ← countGust (0x600 + m) (s.fld R.CELLAR_CFG.GUST_LIMIT) (s.fld R.CELLAR_CFG.GUST_WIN_MS)
    if lasting ∨ rewriteBad then fenceCellar m

def execCellarParityError (entry : BitVec 11) (copyB rewriteBad : Bool) (s : State) : Host.Outcome State Fault Refusal :=
  exec1 (cellarParity entry.toNat copyB rewriteBad) s

/-! ### Replay (R579 to R583) -/

/-- The replay goes on with an item. `again`: it runs again, and is not only released, so that its entry has REPLAYED set (R581). -/
def replayOn (e : Nat) (again : Bool) : M Unit := do
  bump R.CELLAR_REPLAYS.COUNT
  modEntry e fun c => { c with resumed := true, replayed := c.replayed || again }
  match (← getS).descOf e with
  | some (q, d) => modDesc q d.seq fun x => { x with replayed := true }
  | none => pure ()

/-- A stream item's association, and a Bridle frame's outbound one, are still installed. -/
def State.itemAssoc (s : State) (i : SItem) : Bool :=
  (match i.look with
    | .hit c => c.learn || (s.rxPlace c).isSome || (i.tx && (s.current c).isSome)
    | _ => true)
    && (match i.outCopy with
      | some c => (s.current c).isSome
      | none => true)

/-- A replayed item completes as a frame with no association (R251). -/
def noAssociation (n : Nat) (i : SItem) : M Unit := do
  let s ← getS
  if i.tx then
    if s.fld (R.STRM_P_CFG.EGR_NOSA n) = 1 then
      modItem n i.id fun x => { x with look := .miss, out := x.bytes }
      startNext n
    else voidItem n i lwNoSa
  else if i.pair.isSome then rxFails n i .noSa
  else
    unsecured n i (R.STRM_P_RX_NOSA.COUNT n)
    modItem n i.id fun x => { x with verdict := .passed, out := x.bytes }

/-- The path's input-changed outcome (R582). -/
def replayChanged (e : Nat) (c : CEntry) : M Unit := do
  let s ← getS
  noteChanged c
  match c.kind with
  | .memRd | .memWr => match s.txn e with
    | some t =>
      dropTxn e
      refuseWrite t (t.region.getD 0)
    | none => pure ()
  | .storage => refuseUnits fun u => u.cellar = some e
  | .ingress => match s.itemOf e with
    | some (n, i) => voidItem n i lwAuthFail
    | none => pure ()
  | _ => match s.itemOf e with
    | some (n, i) => truncItem n i
    | none => pure ()

/-- A memory write that had gone downstream is written again under the same counter; any other goes on from its data. -/
def replayMem (e : Nat) (c : CEntry) (v : MemView) : M Unit := do
  match (← getS).txn e with
  | none => pure ()
  | some t =>
    if t.phase = .writing then emit (.dramWrite t.line c.output (if t.region.isNone then t.strb else BitVec.allOnes 64))
    else if t.isWrite then pump v

/-- A unit of a sealed partition writes its entry again. -/
def replayUnit (e : Nat) (m : Dram) : M Unit := do
  let s ← getS
  match s.units.find? fun u => u.cellar = some e with
  | none => pure ()
  | some u => match u.part, u.written with
    | some p, some (v, tag) =>
      let c := (s.part p).cfg
      let i := u.lbn - c.first
      if !(← writeTable c i v tag m) then unitTable u
    | _, _ => pure ()

/-- A queue entry (R583): its ACCEPTED record if that has not been written; a load that had taken place is reported again. -/
def replayQueue (e : Nat) (c : CEntry) (m : Dram) : M Unit := do
  match (← getS).descOf e with
  | none => pure ()
  | some (q, d) =>
    if !c.ackDone ∧ 2 ≤ d.version ∧ d.accHeld.isNone then
      acceptedRecord q d e (if d.ivGen ∧ !d.exhausted then d.genIv c.valueA.toNat else []) m
    if c.loaded then
      endDesc q d.seq stOk false
        (beBytes 4 (c.valueB.toNat % 2 ^ 32) ++ leBytes 2 (d.target.getD 0) ++ leBytes 4 (c.valueB.toNat / 2 ^ 32))
    else match d.refusal with
      | some st => endDesc q d.seq st false
      | none => pure ()

/-- A stream item that has no output yet runs again from its input. -/
def replayStream (e : Nat) : M Unit := do
  match (← getS).itemOf e with
  | none => pure ()
  | some (n, i) =>
    if i.tx then
      produceTx n i.id
      startNext n

/-- The decision of R581 on the first entry that waits for its replay. -/
def cellarReplay (v : MemView) (m : Dram) : M Unit := do
  let s ← getS
  match s.cellar.replay.find? s.replayHeld with
  | none => pure ()
  | some e => match s.entry e with
    | none => pure ()
    | some c =>
      if c.kind ≠ .queue ∧ (c.keys.any Option.isSome) ∧ s.laneCount = 0 then return ()
      let stream := decide (c.kind = .egress ∨ c.kind = .ingress ∨ c.kind = .bridle)
      let gone : Bool := match s.itemOf e with
        | some (_, i) => stream && !s.itemAssoc i
        | none => false
      let computed := c.st ≠ .accepted ∧ (stream ∨ c.kind = .storage)
      replayOn e (¬computed)
      let s1 ← getS
      if c.keys.any fun k => k.isSome && (k.bind s.bankOf).isNone then abortHolder e c
      else if computed then
        match s1.itemOf e with
        | some (n, i) => startNext (s1.egressPort n i)
        | none => pure ()
      else if gone then
        match s1.itemOf e with
        | some (n, i) => noAssociation n i
        | none => pure ()
      else if c.kind = .queue then replayQueue e c m
      else if c.digest ≠ 0 ∧ c.digestDone ∧ digestOf (← takeHd) c.input ≠ c.digest then replayChanged e c
      else match c.kind with
        | .memRd | .memWr => replayMem e c v
        | .storage => replayUnit e m
        | .egress | .ingress | .bridle => replayStream e
        | .queue | .data => pure ()

def execCellarReplay (mem : MemView) (dram : Dram) (s : State) : Host.Outcome State Fault Refusal :=
  exec1 (cellarReplay mem dram) s

end Sys2Proof.Machine
end

