-- ==== Sys2Proof/Machine/ChronCmds.lean ====
section
/-! DEFINITION. The chronicle's commands and events: entries on their way to a sink (R592, R597, R599), the ring's HEAD and
stop (R592), CHRON_CMD (R594, R596), and the reader's side of TRACE (R601, R602). -/
namespace Sys2Proof.Machine
open Sys2Proof

/-! ### Entries on their way (R590 to R600) -/

/-- An entry of the writer can go: to TRACE at once; to the ring once nothing older is owed; or into the hold. -/
def State.entryGoes (s : State) (w : WriterEntry) : Bool :=
  if !w.audit then true
  else if s.auditTakes then !s.holdOwed && (s.chron.waiting.isEmpty || w.entry.held)
  else holdRoom w.cls s.chron.hold.length || w.cls ≠ .other

/-- The oldest entry that can go, and the writer without it. -/
def State.takeEntry (s : State) : List WriterEntry → Option (WriterEntry × List WriterEntry)
  | [] => none
  | w :: ws => if s.entryGoes w then some (w, ws) else
    match s.takeEntry ws with
    | some (x, r) => some (x, w :: r)
    | none => none

/-- One entry leaves the writer. -/
def chronEntry : M Unit := do
  match (← getS).chron.writer with
  | w :: _ => if !w.entry.cont then sealIfDue
  | [] => pure ()
  let s ← getS
  match s.takeEntry s.chron.writer with
  | none => pure ()
  | some (w, r) =>
    prim (.chron { s.chron with writer := r })
    if !w.audit then traceWrite w.entry
    else if s.auditTakes then ringWrite w.entry
    else if ← placeHeld w then raiseDeferred

def execChronEntry (s : State) : Host.Outcome State Fault Refusal := exec1 chronEntry s

/-- Everything owed is written while the ring takes it (R597, steps 1 to 4); step 5 follows with the waiting commands. -/
def releaseHold : M Unit := do
  let s ← getS
  if s.auditTakes then drainHold (s.chron.hold.length + s.counted.length + 2)

def execHoldDrain (s : State) : Host.Outcome State Fault Refusal := exec1 releaseHold s

/-! ### The ring (R592) -/

/-- A write of CHRON_AUDIT_HEAD. -/
def fxAuditHead (v : Nat) : M Unit := do
  let s ← getS
  if (v + 2 ^ 32 - s.fld R.CHRON_AUDIT_HEAD.INDEX) % 2 ^ 32 ≤ s.auditUsed then
    wr R.CHRON_AUDIT_HEAD.INDEX v
    wr R.CHRON_AUDIT_STAT.STOPPED 0
    auditLevel
    releaseHold
  else raise E.CHRON.AUDIT_BAD

def execChronAuditHead (rid : BitVec 12) (value : Word) (s : State) : Host.Outcome State Fault Refusal :=
  exec1 (hostWrite (fullWrite rid R.CHRON_AUDIT_HEAD.INDEX.addr value) (fxAuditHead value.toNat)) s

/-- A ring write is answered with BUSERR. -/
def auditBuserr : M Unit := do
  wr R.CHRON_AUDIT_STAT.STOPPED 1
  raise E.CHRON.AUDIT_BUSERR
  auditLevel

def execAuditBuserr (s : State) : Host.Outcome State Fault Refusal := exec1 auditBuserr s

/-! ### CHRON_CMD (R594, R596) -/

/-- The attestation key is in slot 511. -/
def State.attestLoaded (s : State) : Bool := (s.slot attestSlot).st = .live

/-- Words of a register array, byte 4w of the string in bits [31:24] of word w. -/
def State.wordsBytes (s : State) (f : Nat → RegField) (n : Nat) : Bytes :=
  ((List.range n).map fun w => beBytes 4 (s.fld (f w))).flatten

/-- CHECK. -/
def chronCheck : M Unit := do
  let s ← getS
  match s.auditKey with
  | none => cmdEnd U.chron rcState
  | some k =>
    let m := sealMac k (s.fld R.CHRON_CHECK_INDEX.INDEX) (s.wordsBytes R.CHRON_CHECK_CHAIN.WORD 8)
    cmdEnd U.chron (if m = s.wordsBytes R.CHRON_CHECK_MAC.WORD 3 then rcOk else rcBadEntry)

/-- SIGN draws the blinding of its signature; without KEY bits it ends as PKE's ATTEST does. -/
def chronSign : M Unit := do
  let s ← getS
  match s.attestLoaded && !s.noKeyBits, s.useKey attestSlot attestNeed with
  | true, .ok _ => askRandom .ordinary .chronBlind 40
  | _, _ => cmdEnd U.chron rcState

/-- The blinding has been drawn: the per-signature secret follows. -/
def chronBlindDrawn : M Unit := askRandom .key .chronSign 40

/-- The checkpoint but for its signature. -/
def State.checkpoint (s : State) (st : Stamp) : Bytes :=
  beBytes 2 0xB418 ++ [0x01, BitVec.ofNat 8 s.lcCode] ++ beBytes 4 (s.fld R.ANCHOR_RESETS.COUNT)
    ++ beBytes 4 (s.fld R.CHRON_AUDIT_TAIL.INDEX) ++ beBytes 8 st.ts.toNat ++ beBytes 32 s.chron.chain.toNat ++ zeros 12

/-- The secret has been drawn: SIGN signs and writes the checkpoint. -/
def chronSignDone (k : Bytes) (d : Dram) : M Unit := do
  let s ← getS
  match s.useKey attestSlot attestNeed with
  | .error _ => cmdEnd U.chron rcState
  | .ok a =>
    let body := s.checkpoint (← stamp)
    match ecdsaSign p256 (beNat a.material) (beNat k % (p256.n - 1) + 1) (sha256 body) with
    | none => askRandom .key .chronSign 40
    | some sig =>
      countUse attestSlot
      bumpMod R.PKE_OPS.COUNT
      let ok ← dramWrite d (s.fld R.CHRON_SIGN_BUF.ADDR * 64) (body ++ sig)
      cmdEnd U.chron (if ok then rcOk else rcState)

/-- CHRON_CMD. -/
def fxChronCmd (op : Nat) : M Unit :=
  cmdActive U.chron do
    if op = 1 then
      raiseSeal
      cmdEnd U.chron rcOk
    else if op = 2 then chronCheck
    else if op = 3 then chronSign
    else cmdEnd U.chron rcBadCmd

/-- A write of CHRON_CMD. -/
def chronCmdWrite (rid : BitVec 12) (op : Nat) : M Unit :=
  hostWrite (fullWrite rid R.CHRON_CMD.OP.addr (BitVec.ofNat 32 (op * 2 ^ 28))) (fxChronCmd op)

def execSealNow (rid : BitVec 12) (s : State) : Host.Outcome State Fault Refusal := exec1 (chronCmdWrite rid 1) s

def execCheck (rid : BitVec 12) (s : State) : Host.Outcome State Fault Refusal := exec1 (chronCmdWrite rid 2) s

def execSign (rid : BitVec 12) (s : State) : Host.Outcome State Fault Refusal := exec1 (chronCmdWrite rid 3) s

/-! ### TRACE (R601, R602) -/

/-- FLUSH: it waits for the open item to close. -/
def traceFlush : M Unit := do
  let c := (← getS).chron
  if c.openAt.isSome then prim (.chron { c with flushing := true })
  else
    if !c.fill.words.isEmpty then traceSwitch
    raise E.CHRON.FLUSH_DONE

/-- FLUSH_NOW: the open item is split. -/
def traceFlushNow : M Unit := do
  let c := (← getS).chron
  if c.openAt.isSome then traceSplit
  else if !c.fill.words.isEmpty then traceSwitch
  raise E.CHRON.FLUSH_DONE

/-- CHRON_TRACE_CTL. -/
def fxTraceCtl (flushNow flush : Bool) : M Unit := do
  if flushNow then traceFlushNow
  if flush then traceFlush
  traceLevel

def execFlush (rid : BitVec 12) (s : State) : Host.Outcome State Fault Refusal :=
  exec1 (hostWrite (fullWrite rid R.CHRON_TRACE_CTL.FLUSH.addr 1) (fxTraceCtl false true)) s

def execFlushNow (rid : BitVec 12) (s : State) : Host.Outcome State Fault Refusal :=
  exec1 (hostWrite (fullWrite rid R.CHRON_TRACE_CTL.FLUSH.addr 2) (fxTraceCtl true false)) s

/-- A read of CHRON_TRACE_DATA. -/
def traceDataRead : M Unit := do
  let c := (← getS).chron
  let a := R.CHRON_TRACE_DATA.WORD.addr
  if c.cut ≠ 0 then
    emit (.hostRead a 0)
    prim (.chron { c with cut := c.cut - 1 })
  else match c.drain.words[c.drain.read]? with
    | none => emit (.hostRead a 0)
    | some w =>
      emit (.hostRead a w)
      prim (.chron (c.withBanks c.fillB c.fill { c.drain with read := c.drain.read + 1 }))
      traceBoundary
      traceLevel

def execChronTraceData (s : State) : Host.Outcome State Fault Refusal := exec1 traceDataRead s

end Sys2Proof.Machine
end

