-- ==== Sys2Proof/Machine/Modid.lean ====
section
/-! DEFINITION. Module identity (R554 to R563): identity records, challenges and the states of the presence inputs. -/
namespace Sys2Proof.Machine
open Sys2Proof

/-! ### Identity records (R556 to R558) -/

def causeNoResponse : Nat := 0x1
def causeBus : Nat := 0x2
def causeFormat : Nat := 0x3
def causePolicy : Nat := 0x4
def causeAnchor : Nat := 0x5
def causeSignature : Nat := 0x6
def causeChallenge : Nat := 0x7
def causeChalTimeout : Nat := 0x8

/-- A record's parts. -/
structure IdRecord where
  version : Nat
  cls : Nat
  vendor : Nat
  challenge : Bool
  keyType : Nat
  sigType : Nat
  pub : Bytes
  sig : Bytes
  /-- the bytes that the signature covers: to the last byte of the public key -/
  signed : Bytes
  whole : Bytes

/-- The bytes of the whole record (R556). -/
def IdRecord.length (x : IdRecord) : Nat :=
  if x.version = 1 then 152 else 32 + keyLen x.keyType + keyLen x.sigType

/-- The bytes of a public key of a type. -/
def pubLen (t : Nat) : Nat := keyLen t

/-- A record in one of the two layouts of R556; `none` is FORMAT. -/
def parseRecord (r : Bytes) : Option IdRecord :=
  if beAt r 0 2 ≠ 0x4E44 then none
  else if r.getD 2 0 = 0x01 then
    some ⟨1, beAt r 3 1, beAt r 4 2, false, 0x18, 0x18, slice r 24 64, slice r 88 64, r.take 88, r.take 152⟩
  else if r.getD 2 0 = 0x02 then
    let kt := beAt r 25 1
    let st := beAt r 26 1
    if !isPub kt ∨ !isPub st ∨ 2 ≤ beAt r 24 1 ∨ beAt r 27 1 ≠ 0 ∨ beAt r 30 2 ≠ 0
        ∨ beAt r 28 2 ≠ 32 + pubLen kt + pubLen st then none
    else
      let p := pubLen kt
      some ⟨2, beAt r 3 1, beAt r 4 2, decide (beAt r 24 1 = 1), kt, st, slice r 32 p, slice r (32 + p) (pubLen st),
        r.take (32 + p), r.take (32 + p + pubLen st)⟩
  else none

/-- The public key lies on its curve. -/
def recordOnCurve (x : IdRecord) : Bool :=
  let c := curveOf (curveCode x.keyType)
  let q := bytesPoint c x.pub
  onCurve c q.1 q.2

/-- The trust anchors that name a vendor, by slot (R557). -/
def State.anchorsOf (s : State) (vendor : Nat) : List Nat :=
  ((List.range 8).filter fun k => s.fld (R.MODID_TRUST.VALID k) = 1 && s.fld (R.MODID_TRUST.VENDOR_ID k) = vendor).map
    fun k => s.fld (R.MODID_TRUST.SLOT k)

/-- A vendor's public key in a slot. -/
def State.vendorKey (s : State) (t n : Nat) : Option Bank :=
  s.inlineKey n { types := [t], engine := some .pke, enc := some false }

/-- The slot of the trust anchor that a record is checked under (R557). -/
def State.anchorSlot (s : State) (x : IdRecord) : Option Nat :=
  (s.anchorsOf x.vendor).find? fun n => (s.vendorKey x.sigType n).isSome

/-- The checks of R557: the record, or the cause of the first that fails; and the slot of the vendor key used. -/
def State.verifyRecord (s : State) (i : Nat) (r : Bytes) : Except Nat (IdRecord × Nat) :=
  match parseRecord r with
  | none => .error causeFormat
  | some x =>
    if r.length < x.length then .error causeNoResponse
    else if !recordOnCurve x then .error causeFormat
    else
      let min0 := s.fld (R.MODID_PRES_CFG.VER_MIN i)
      let vmin := if min0 = 0 then 1 else min 2 min0
      let cls := s.fld (R.MODID_PRES_CFG.CLASS i)
      if x.version < vmin ∨ (cls ≠ 0 ∧ x.cls ≠ cls) ∨ (s.fld (R.MODID_PRES_CFG.CHAL_REQ i) = 1 ∧ !x.challenge) then
        .error causePolicy
      else match s.anchorSlot x with
        | none => .error causeAnchor
        | some n => match s.vendorKey x.sigType n with
          | none => .error causeAnchor
          | some b =>
            let c := curveOf (curveCode x.sigType)
            let q := bytesPoint c b.material
            if ecdsaVerify c q.1 q.2 (curveHash c x.signed) x.sig then .ok (x, n) else .error causeSignature

/-- The binding digest (R558). -/
def bindingDigest (i : Nat) (x : IdRecord) : Bytes :=
  sha256 (beBytes 4 0x4E444244 ++ beBytes 1 i ++ x.signed)

/-! ### States of an input (R560) -/

/-- STATE of MODID_IN_STAT. -/
def miIdle : Nat := 0
def miReading : Nat := 1
def miChallenging : Nat := 2
def miVerified : Nat := 3
def miFailed : Nat := 4

/-- An input is served: its EN bit is 1 and the page is ACTIVE (R554). -/
def State.served (s : State) (i : Nat) : Bool := s.active 0x3D && s.fld (R.MODID_PRES_CFG.EN i) = 1

/-- Change an input. -/
def modModule (i : Nat) (f : ModInput → ModInput) : M Unit := do prim (.modInput i (f ((← getS).module i)))

/-- A read begins. -/
def startRead (i : Nat) : M Unit := do
  let s ← getS
  let was := decide (s.fld (R.MODID_IN_STAT.STATE i) = miVerified)
  wr (R.MODID_IN_STAT.STATE i) miReading
  modModule i fun m => { m with fromVerified := was, nonce := none, lastRead := s.now.toNat }

/-- A check or challenge fails. -/
def moduleFail (i cause : Nat) : M Unit := do
  wr (R.MODID_IN_STAT.STATE i) miFailed
  wr (R.MODID_IN_STAT.CAUSE i) cause
  modModule i fun m => { m with digest := none, nonce := none, fromVerified := false }
  suspendModule i
  if cause = causeNoResponse ∨ cause = causeBus then raise E.MODID.BUS_FAIL
  else if cause = causeChallenge ∨ cause = causeChalTimeout then
    bump R.MODID_COUNTS.CHAL_FAILS
    raise E.MODID.CHAL_FAIL
  else raise E.MODID.SIG_FAIL
  tamperEvent srcModule

/-- The input reaches VERIFIED. -/
def moduleVerified (i : Nat) : M Unit := do
  let m := (← getS).module i
  match parseRecord m.record with
  | none => pure ()
  | some x =>
    let d := bindingDigest i x
    wr (R.MODID_IN_STAT.STATE i) miVerified
    modModule i fun m => { m with digest := some d, bound := some d, nonce := none, fromVerified := false }
    if m.bound.isNone ∨ m.bound = some d then resumeModule i
    else
      orphanModule i
      bump R.MODID_COUNTS.SWAPS
      raise E.MODID.SWAPPED
      unitAlarm 0x3D 0
    raise E.MODID.VERIFIED

/-- An enabled input goes to IDLE, from any state: its module is absent, or the page has left ACTIVE. -/
def moduleIdle (i : Nat) : M Unit := do
  if (← getS).fld (R.MODID_PRES_CFG.EN i) = 1 then
    wr (R.MODID_IN_STAT.STATE i) miIdle
    modModule i fun m => { m with digest := none, nonce := none, fromVerified := false }
    suspendModule i
    raise E.MODID.ABSENT

/-- Every present module is read again, at the end of start-up and of an ascent. -/
def modulesReread : M Unit := do
  let s ← getS
  forM (List.range 6) fun i => if s.served i ∧ (s.module i).present then startRead i else pure ()

/-- The page leaves ACTIVE: every input reads IDLE, and bound slots are SUSPENDED (R554). -/
def modidLeave : M Unit := forM (List.range 6) moduleIdle

/-! ### Events -/

/-- A debounced presence input changes. While Otist is asleep, it wakes only (R561, R517). -/
def presenceChange (i : Nat) (present : Bool) : M Unit := do
  let s ← getS
  modModule i fun m => { m with present := present }
  if (s.fld R.WAKE_SRC_EN.MODULE).testBit i then wakeBy 0x4 0 (bitAt present 8 + i)
  if s.served i then
    if !present then moduleIdle i
    else if s.power' = pwAwake ∧ (s.fld (R.MODID_IN_STAT.STATE i) = miIdle ∨ s.fld (R.MODID_IN_STAT.STATE i) = miFailed) then
      startRead i

def execPresenceChange (i : Fin 6) (present : Bool) (s : State) : Host.Outcome State Fault Refusal :=
  exec1 (waitable (.presenceChange i present) 0x3D (presenceChange i present)) s

/-- SCL held low for more than 25 ms on the bus of a read in progress (R60). -/
def execSclHeldTimeout (i : Fin 6) (s : State) : Host.Outcome State Fault Refusal :=
  exec1 (do
    let st := (← getS).fld (R.MODID_IN_STAT.STATE i)
    if st = miReading ∨ st = miChallenging then
      unitAlarm 0x3D 0
      moduleFail i causeBus) s

/-- The record has been read; `none`: the address was not acknowledged three times (R555). -/
def moduleRead (i : Nat) (got : Option Bytes) : M Unit := do
  let s ← getS
  if s.fld (R.MODID_IN_STAT.STATE i) = miReading then
    match got with
    | none => moduleFail i causeNoResponse
    | some r =>
      (match parseRecord (r.take 224) with
      | some x => do
        wr (R.MODID_IN_STAT.VERSION i) x.version
        wr (R.MODID_IN_STAT.CLASS i) x.cls
      | none => pure ())
      match s.verifyRecord i (r.take 224) with
      | .error c =>
        (match (parseRecord (r.take 224)).bind s.anchorSlot with
        | some n => if c = causeSignature then countUse n else pure ()
        | none => pure ())
        modModule i fun m => { m with record := match parseRecord r with | some x => x.whole | none => r.take 224 }
        moduleFail i c
      | .ok (x, n) =>
        countUse n
        modModule i fun m => { m with record := x.whole }
        if x.challenge then
          wr (R.MODID_IN_STAT.STATE i) miChallenging
          askRandom .ordinary (.modNonce i) 32
        else moduleVerified i

def execModuleReadDone (i : Fin 6) (got : Option Bytes) (s : State) : Host.Outcome State Fault Refusal :=
  exec1 (waitable (.moduleReadDone i got) 0x3D (moduleRead i got)) s

/-- The message a module signs in a challenge (R559). -/
def challengeMessage (r nonce : Bytes) : Bytes := beBytes 4 0x4E444348 ++ slice r 8 16 ++ nonce

/-- The status byte of a challenge is read, and on 0x01 the signature (R559). `got`: the status byte and the
signature; `none`: no acknowledge. -/
def challengePoll (i : Nat) (got : Option (Byte × Bytes)) : M Unit := do
  let s ← getS
  let m := s.module i
  if s.fld (R.MODID_IN_STAT.STATE i) = miChallenging then
    match m.nonce, got, parseRecord m.record with
    | some _, none, _ => moduleFail i causeNoResponse
    | some n, some (st, sig), some x =>
      if st = 0x01 then
        let c := curveOf (curveCode x.keyType)
        let q := bytesPoint c x.pub
        if ecdsaVerify c q.1 q.2 (curveHash c (challengeMessage m.record n)) (padTo (2 * c.width) sig) then moduleVerified i
        else moduleFail i causeChallenge
    | _, _, _ => pure ()

def execChallengePoll (i : Fin 6) (got : Option (Byte × Bytes)) (s : State) : Host.Outcome State Fault Refusal :=
  exec1 (waitable (.challengePoll i got) 0x3D (challengePoll i got)) s

/-- CHAL_TIMEOUT_MS passes without status 0x01. -/
def execChalTimeout (i : Fin 6) (s : State) : Host.Outcome State Fault Refusal :=
  exec1 (waitable (.chalTimeout i) 0x3D do
    let s ← getS
    if s.fld (R.MODID_IN_STAT.STATE i) = miChallenging ∧ (s.module i).nonce.isSome then moduleFail i causeChalTimeout) s

/-- CHAL_PERIOD_S elapses since the last read. -/
def execChalPeriod (i : Fin 6) (s : State) : Host.Outcome State Fault Refusal :=
  exec1 (do
    let s ← getS
    let st := s.fld (R.MODID_IN_STAT.STATE i)
    if s.served i ∧ (s.module i).present ∧ s.power' = pwAwake ∧ (st = miVerified ∨ st = miFailed) then startRead i) s

/-! ### MODID_CMD -/

/-- Load an input's record and digests into the page. -/
def loadRec (i : Nat) : M Unit := do
  let m := (← getS).module i
  forM (List.range 56) fun w => wr (R.MODID_REC.WORD w) (beAt m.record (4 * w) 4)
  forM (List.range 8) fun w => wr (R.MODID_DIG.WORD w) (beAt (m.digest.getD []) (4 * w) 4)
  forM (List.range 8) fun w => wr (R.MODID_BOUND.WORD w) (beAt (m.bound.getD []) (4 * w) 4)

/-- MODID_CMD. -/
def fxModidCmd (op i : Nat) : M Unit :=
  cmdActive U.modid do
    if op ≠ 1 ∧ op ≠ 2 then cmdEnd U.modid rcBadCmd
    else if 6 ≤ i then cmdEnd U.modid rcBadEntry
    else
      if op = 2 then loadRec i
      else
        let s ← getS
        let st := s.fld (R.MODID_IN_STAT.STATE i)
        if s.served i ∧ (s.module i).present ∧ (st = miIdle ∨ st = miFailed) then startRead i
      cmdEnd U.modid rcOk

/-- A write of MODID_CMD. -/
def modidCmdWrite (rid : BitVec 12) (op : Nat) (i : BitVec 3) : M Unit :=
  hostWrite (fullWrite rid R.MODID_CMD.OP.addr (BitVec.ofNat 32 (op * 2 ^ 28 + i.toNat))) (fxModidCmd op i.toNat)

def execReread (rid : BitVec 12) (i : BitVec 3) (s : State) : Host.Outcome State Fault Refusal :=
  exec1 (modidCmdWrite rid 1 i) s

def execReadRec (rid : BitVec 12) (i : BitVec 3) (s : State) : Host.Outcome State Fault Refusal :=
  exec1 (modidCmdWrite rid 2 i) s

end Sys2Proof.Machine
end

