-- ==== Sys2Proof/Machine/TimeCmds.lean ====
section
/-! DEFINITION. The time base (R505 to R516): ticks, holdover, discipline, steps and sets, challenges and the alarm. -/
namespace Sys2Proof.Machine
open Sys2Proof

/-! ### The accumulator (R505, R508) -/

/-- Add to the accumulator, in units of 2^-32 ns. -/
def timeAdd (units : Nat) : M Unit := do
  let t := (← getS).time
  let v := (t.acc.toNat * 2 ^ 32 + t.frac.toNat + units) % 2 ^ 96
  prim (.time { t with acc := BitVec.ofNat 64 (v / 2 ^ 32), frac := BitVec.ofNat 32 v, clk := 0 })

/-- A tick of OT_CLK_32K, with the RC cycles since the last one, adds the increment of the interval that it ends; r takes effect. The
first tick after the clock is healthy again leaves holdover; the RC has already counted the time up to it. -/
def timeTick (rc : Nat) : M Unit := do
  let s ← getS
  if s.time.clkFailed then pure ()
  else
    if s.fld R.TIME_STAT.HOLDOVER = 1 then
      wr R.TIME_STAT.HOLDOVER 0
      setCond E.TIME.HOLDOVER false
    else timeAdd s.increment
    let t := { (← getS).time with rate := BitVec.ofNat 32 (s.fld R.TIME_RATE.R_PPB) }
    if t.ticks + 1 = 1024 then
      wr R.TIME_RC.RATIO (t.rcCycles + rc)
      prim (.time { t with ticks := 0, rcCycles := 0 })
    else prim (.time { t with ticks := t.ticks + 1, rcCycles := t.rcCycles + rc })

def execTimeTick (rc : BitVec 16) (s : State) : Host.Outcome State Fault Refusal := exec1 (timeTick rc.toNat) s

/-- What an RC cycle adds: increment × 1,024 / RATIO (R508). While no span of 1,024 ticks has been counted, RATIO is 0 and the
rule states no result: a free value. -/
def rcIncrement : M Nat := do
  let s ← getS
  let ratio := s.fld R.TIME_RC.RATIO
  if ratio = 0 then return (← fresh).toNat
  else return s.increment * 1024 / ratio

/-- OT_CLK_32K has failed: the time base advances on the RC (R508). -/
def holdover (cycles : Nat) : M Unit := do
  let s ← getS
  prim (.time { s.time with clkFailed := true, ticks := 0, rcCycles := 0 })
  wr R.TIME_STAT.HOLDOVER 1
  setCond E.TIME.HOLDOVER true
  wr R.TIME_STAT.SUSPENDED 1
  wr R.TIME_STAT.DISCIPLINED 0
  if cycles ≠ 0 then timeAdd (cycles * (← rcIncrement))

def execHoldover (cycles : BitVec 16) (s : State) : Host.Outcome State Fault Refusal :=
  exec1 (waitable (.holdover cycles) 0x02 (holdover cycles.toNat)) s

def execClk32Healthy (s : State) : Host.Outcome State Fault Refusal :=
  exec1 (do prim (.time { (← getS).time with clkFailed := false })) s

/-! ### Records of adjustments (R513, R614) -/

def adjSet : Nat := 1
def adjStep : Nat := 2
def adjRefused : Nat := 3
def adjRate : Nat := 4

/-- The two payloads of TIME_ADJUST. -/
def adjustPayloads (before kind after : Nat) : List (BitVec 96) :=
  [BitVec.ofNat 96 (before + kind * 2 ^ 64), BitVec.ofNat 96 after]

/-- A refusal (R514, R515). -/
def stepRefused (code : Nat) : M Unit := do
  let t := (← getS).now.toNat
  raiseNamed E.TIME.STEP_REFUSED 0x0030 (adjustPayloads t adjRefused t)
  cmdEnd U.time code

/-- A step or set applies at one tick and carries the fraction unchanged: a step is added to the accumulator, a set replaces
it. -/
def adjust (kind value : Nat) : M Unit := do
  let s ← getS
  let before := s.now.toNat
  if kind = adjStep then prim (.time { s.time with acc := s.time.acc + BitVec.ofNat 64 value })
  else prim (.time { s.time with acc := BitVec.ofNat 64 value, clk := 0 })
  let after := (← getS).now.toNat
  wr R.TIME_STAT.VALID 1
  setCond E.TIME.INVALID false
  bump R.TIME_STEPS.COUNT
  raiseNamed E.TIME.STEPPED 0x0030 (adjustPayloads before kind after)
  cmdEnd U.time rcOk

/-! ### Discipline (R511, R54) -/

/-- A strobe gap or a malformed time (R54). -/
def strobeGap : M Unit := do
  wr R.TIME_STAT.SUSPENDED 1
  wr R.TIME_STAT.DISCIPLINED 0
  unitAlarm 0x02 0

/-- Discipline samples at strobes. -/
def State.disciplining (s : State) : Bool :=
  s.active 0x02 && s.fld R.TIME_DISC.EN = 1 && s.fld R.TIME_STAT.VALID = 1 && s.fld R.TIME_STAT.HOLDOVER = 0

/-- MAX, TAU_S and FAR_MS as taken. -/
def State.slewMax (s : State) : Nat := max 1 (s.fld R.TIME_DISC.SLEW_MS_PER_H) * 1000000 / 3600
def State.discTau (s : State) : Nat := max 1 (s.fld R.TIME_DISC.TAU_S)
def State.discFar (s : State) : Nat := max 1 (s.fld R.TIME_FAR.FAR_MS) * 1000000

/-- A new r; a change of more than 10 % of MAX is recorded (R513). -/
def setRate (r : Int) (limit : Nat) : M Unit := do
  let s ← getS
  let old := (BitVec.ofNat 32 (s.fld R.TIME_RATE.R_PPB)).toInt
  wr R.TIME_RATE.R_PPB (BitVec.ofInt 32 r).toNat
  if limit < 10 * (r - old).natAbs then
    pageEntry 0x02 0x0030 (adjustPayloads s.now.toNat adjRate s.now.toNat)

/-- A strobe with the gPTP time of its cycle. -/
def ptpStrobe (seconds nanos : Nat) : M Unit := do
  let s ← getS
  if s.disciplining then
    if 1000000000 ≤ nanos then strobeGap
    else
      let off : Int := ((seconds : Int) - s.fld R.TIME_EPOCH_PTP_S.SECONDS) * 1000000000 + nanos - s.now.toNat
      wr R.TIME_OFFSET.OFF (BitVec.ofInt 64 off).toNat
      if s.discFar < off.natAbs then
        setRate 0 s.slewMax
        wr R.TIME_STAT.SUSPENDED 1
        wr R.TIME_STAT.DISCIPLINED 0
        setCond E.TIME.DISC_FAR true
      else
        setRate (max (-(s.slewMax : Int)) (min s.slewMax (off.tdiv s.discTau))) s.slewMax
        wr R.TIME_STAT.SUSPENDED 0
        wr R.TIME_STAT.DISCIPLINED 1
        setCond E.TIME.DISC_FAR false

def execPtpStrobe (seconds : BitVec 48) (nanos : Word) (s : State) : Host.Outcome State Fault Refusal :=
  exec1 (waitable (.ptpStrobe seconds nanos) 0x02 (ptpStrobe seconds.toNat nanos.toNat)) s

/-- More than 2 s without a strobe while discipline is enabled. -/
def execPtpStrobeGap (s : State) : Host.Outcome State Fault Refusal :=
  exec1 (do if (← getS).disciplining then strobeGap) s

/-! ### TIME_CMD (R513 to R515) -/

/-- SET and STEP as written. -/
def timeSet : M Unit := do
  let s ← getS
  if s.fielded ∨ s.fld R.TIME_STAT.VALID = 1 then stepRefused rcState
  else adjust adjSet (s.fld R.TIME_VALUE.VALUE)

def timeStep : M Unit := do
  let s ← getS
  if s.fielded then stepRefused rcState
  else adjust adjStep (s.fld R.TIME_VALUE.VALUE)

/-- CHALLENGE draws the nonce; the one before it is no longer live. -/
def timeChallenge : M Unit := do
  prim (.time { (← getS).time with nonceAt := none })
  askRandom .ordinary .timeNonce 32

/-- The nonce has been drawn. -/
def nonceDrawn (b : Bytes) : M Unit := do
  forM (List.range 8) fun w => wr (R.TIME_NONCE.WORD w) (beAt b (4 * w) 4)
  let s ← getS
  prim (.time { s.time with nonceAt := some s.now.toNat })
  raise E.TIME.NONCE_READY
  cmdEnd U.time rcOk

/-- The nonce, while it is live. -/
def State.liveNonce (s : State) : Option Bytes := match s.time.nonceAt with
  | some t => if s.now.toNat < t + 60000000000 then
      some ((List.range 8).map fun w => beBytes 4 (s.fld (R.TIME_NONCE.WORD w))).flatten
    else none
  | none => none

/-- The parts of a statement. -/
def authFormatOk (b : Bytes) (valid : Bool) : Bool :=
  let kind := beAt b 3 1
  decide (beAt b 0 2 = 0xB417 ∧ beAt b 2 1 = 1 ∧ beAt b 4 4 = 0)
    && ((kind = 1 && decide (1 ≤ beAt b 8 8)) || (kind = 2 && !valid))

/-- AUTH: the first check that fails decides (R515); BUSERR on its reads ends it with STATE. -/
def timeAuth (d : Dram) : M Unit := do
  let s ← getS
  let nonce := s.liveNonce
  prim (.time { s.time with nonceAt := none })
  let at0 := s.fld R.TIME_AUTH_BUF.ADDR * 16
  let slot := s.fld R.TIME_AUTH_KEY.SLOT
  match ← readDram d at0 48 with
  | none => stepRefused rcState
  | some b =>
    if !authFormatOk b (s.fld R.TIME_STAT.VALID = 1) then stepRefused rcBadEntry
    else match s.useKey slot { types := [0x18, 0x19, 0x1A, 0x1B], engine := some .pke, enc := some false } with
      | .error _ => stepRefused rcState
      | .ok k =>
        let c := curveOf (curveCode (s.slot slot).type.toNat)
        if nonce ≠ some (slice b 16 32) then stepRefused rcState
        else match ← readDram d (at0 + 48) (2 * c.width) with
          | none => stepRefused rcState
          | some sig =>
            countUse slot
            bumpMod R.PKE_OPS.COUNT
            let q := bytesPoint c k.material
            if ecdsaVerify c q.1 q.2 (curveHash c b) sig then
              if beAt b 3 1 = 1 then adjust adjStep (beAt b 8 8) else adjust adjSet (beAt b 8 8)
            else
              bump R.PKE_FAILS.COUNT
              stepRefused rcBadEntry

/-- TIME_CMD. -/
def fxTimeCmd (op : Nat) (d : Dram) : M Unit :=
  cmdActive U.time do
    if op = 1 then timeSet
    else if op = 2 then timeStep
    else if op = 3 then timeChallenge
    else if op = 4 then timeAuth d
    else cmdEnd U.time rcBadCmd

def timeCmdWrite (rid : BitVec 12) (op : Nat) (d : Dram) : M Unit :=
  hostWrite (fullWrite rid R.TIME_CMD.OP.addr (BitVec.ofNat 32 (op * 2 ^ 28))) (fxTimeCmd op d)

def execSet (rid : BitVec 12) (s : State) : Host.Outcome State Fault Refusal := exec1 (timeCmdWrite rid 1 {}) s

def execStep (rid : BitVec 12) (s : State) : Host.Outcome State Fault Refusal := exec1 (timeCmdWrite rid 2 {}) s

def execChallenge (rid : BitVec 12) (s : State) : Host.Outcome State Fault Refusal := exec1 (timeCmdWrite rid 3 {}) s

def execAuth (rid : BitVec 12) (dram : Dram) (s : State) : Host.Outcome State Fault Refusal :=
  exec1 (timeCmdWrite rid 4 dram) s

/-- 60 s after it was drawn, a nonce is no longer live. -/
def execNonceExpire (s : State) : Host.Outcome State Fault Refusal :=
  exec1 (do
    let s ← getS
    if s.liveNonce.isNone then prim (.time { s.time with nonceAt := none })) s

/-- The time base reaches TIME_ALARM (R516). -/
def timeAlarm : M Unit := do
  let s ← getS
  if s.fld R.TIME_ALARM_CTL.EN = 1 ∧ s.fld R.TIME_ALARM.AT ≤ s.now.toNat then
    wr R.TIME_ALARM_CTL.EN 0
    raise E.TIME.ALARM
    if s.fld R.WAKE_SRC_EN.ALARM = 1 then wakeBy 0x5 0 0

def execAlarm (s : State) : Host.Outcome State Fault Refusal := exec1 (waitable .alarm 0x02 timeAlarm) s

end Sys2Proof.Machine
end

