-- ==== Sys2Proof/Machine/DrbgCmds.lean ====
section
/-! DEFINITION. The generate request (R494 to R498): which waiting request the DRBG core serves next, its reseed, and what
becomes of the bytes. -/
namespace Sys2Proof.Machine
open Sys2Proof

/-- The four seeds of the tamper loops: 15 bits each; none is zero and all differ (R543). -/
def loopSeeds (b : Bytes) : Option (List (BitVec 15)) :=
  let v := beNat b
  let l := (List.range 4).map fun i => BitVec.ofNat 15 (v / 2 ^ (15 * i))
  if l.contains 0 ∨ !decide (l.Nodup) then none else some l

/-- The nonce of a challenge has been drawn and is written to the module (R559). -/
def modNonceDrawn (i : Nat) (b : Bytes) : M Unit := do
  let s ← getS
  if s.fld (R.MODID_IN_STAT.STATE i) = miChallenging then
    emit (.moduleWrite i 0x8000 b)
    modModule i fun m => { m with nonce := some b, since := s.now.toNat }

/-- The bytes reach the unit that asked for them; `d`: what memory answers to a command that ends with them. -/
def serveBytes (u : RandUser) (b : Bytes) (d : Dram) : M Unit :=
  match u with
  | .rootGen => rootGenDone b
  | .attestKey => attestKeyDrawn b
  | .attestBlind => attestBlindDrawn
  | .attestCounter => attestGenDone b d
  | .attestSign => attestDone b d
  | .ballastEpoch => epochDrawn b
  | .chronBlind => chronBlindDrawn
  | .chronSign => chronSignDone b d
  | .timeNonce => nonceDrawn b
  | .modNonce i => modNonceDrawn i b
  | .fifo => do
    let g := (← getS).rng
    if (← getS).active 0x3A then prim (.rng { g with fifo := g.fifo ++ (chunks (b.length / 4) 4 b).map fun w => BitVec.ofNat 32 (beNat w) })
  | .mask => masksDone b
  | .loopSeed => do
    match loopSeeds b with
    | some l => prim (.tamper { (← getS).tamper with loops := l })
    | none => askRandom .ordinary .loopSeed 8
  | .entry e => prim (.drawn e b)
  | .blind e => prim (.blinded e b)

/-- Reseed from the oldest buffered seed: COUNT is 0 and the interval 4096 again. -/
def reseedNow : M Unit := do
  let g := (← getS).rng
  match g.drbg, g.seeds with
  | some d, seed :: rest =>
    prim (.rng { g with drbg := some (drbgUpdate d seed), seeds := rest, reseed := false })
    wr R.RNG_RESEED.COUNT 0
    wr R.RNG_RESEED.INTERVAL 1
  | _, _ => pure ()

/-- Generate for a request and take it off the list. -/
def generateFor (r : RandReq) (d : Dram) : M Unit := do
  let s ← getS
  match s.rng.drbg with
  | none => pure ()
  | some g =>
    let (b, g1) := drbgGenerate g r.bytes
    prim (.rng { s.rng with drbg := some g1, reqs := s.rng.reqs.filter (· ≠ r) })
    wr R.RNG_RESEED.COUNT (s.fld R.RNG_RESEED.COUNT + 1)
    wr R.RNG_BYTES.COUNT (s.fld R.RNG_BYTES.COUNT + r.bytes)
    if r.cls ≠ .ordinary then wrMax R.RNG_WAITS.KEY_WAIT_MAX_US ((s.now.toNat - r.since) / 1000)
    serveBytes r.user b d
    fifoRefill
    rngRefresh

/-- An ORDINARY request (R494): it may reseed, stretch the interval, or find the DRBG blocked. -/
def generateOrdinary (r : RandReq) (d : Dram) : M Unit := do
  let s ← getS
  let n := s.fld R.RNG_RESEED.INTERVAL
  let due := s.rng.reseed || decide (4096 * n ≤ s.fld R.RNG_RESEED.COUNT)
  if due ∧ !s.rng.seeds.isEmpty then
    reseedNow
    generateFor r d
  else if s.fld R.RNG_RESEED.COUNT < 4096 * n then generateFor r d
  else if s.fld R.RNG_CFG.DEPTH_HI < s.rng.reqs.length ∧ n < 16 then
    wr R.RNG_RESEED.INTERVAL (n + 1)
    raise E.RNG.STRETCH
    generateFor r d
  else if s.fld R.RNG_STAT.BLOCKED = 0 then
    wr R.RNG_STAT.BLOCKED 1
    bump R.RNG_WAITS.BLOCKED
    setCond E.RNG.BLOCKED true

/-- The next request by class, the oldest first within a class. -/
def nextRequest (l : List RandReq) (seeds : Bool) : Option RandReq :=
  match (if seeds then l.find? fun r => r.cls = .key else none), (if seeds then l.find? fun r => r.cls = .pr else none) with
  | some r, _ => some r
  | none, some r => some r
  | none, none => l.find? fun r => r.cls = .ordinary

/-- The DRBG core serves one request. KEY and PR requests wait until a seed is buffered. -/
def drbgServe (d : Dram) : M Unit := do
  let s ← getS
  match s.rng.drbg, s.srcFault, nextRequest s.rng.reqs (!s.rng.seeds.isEmpty) with
  | some _, false, some r =>
    if r.cls = .ordinary then generateOrdinary r d
    else
      reseedNow
      generateFor r d
  | _, _, _ => pure ()

def execDrbgGenerate (dram : Dram) (s : State) : Host.Outcome State Fault Refusal :=
  exec1 (waitable (.drbgGenerate dram) 0x3A (drbgServe dram)) s

end Sys2Proof.Machine
end

