-- ==== Sys2Proof/Machine/TamperCmds.lean ====
section
/-! DEFINITION. What reaches the tamper supervisor from outside (R543, R544, R57) and its commands (TAMPER_CMD). -/
namespace Sys2Proof.Machine
open Sys2Proof

/-! ### While only VBAT is present (R546, R551) -/

/-- Sources that stay armed on VBAT alone: the four loops and VBAT_LOW. -/
def vbatArmed (src : Nat) : Bool := src = srcVbatLow || (8 ≤ src && src ≤ 0x0B)

/-- Its grade then: TETHER, which holds TAMPER_SRC_CFG, is off, so the reset lasting grade applies, with the floor in FIELD
and RETIRED. -/
def State.vbatGrade (s : State) (src : Nat) : Nat :=
  if s.tamper.lcVbat = 2 ∨ s.tamper.lcVbat = 3 then max 2 (srcFloor src) else 2

/-- An event on VBAT alone: its log entry carries the count of the VBAT oscillator, and a grade 3 event erases the VBAT
words and the presence marker. -/
def vbatEvent (src : Nat) (osc : Word) : M Unit := do
  let g := (← getS).vbatGrade src
  if vbatArmed src then
    vbatLog src g osc.toNat 0 true false
    if g = 3 then wipeVbat

/-- An event of a counted source that its detector reports. -/
def sourceEvent (src : Nat) (osc : Word) : M Unit := do
  let s ← getS
  if s.bnd.mainOff then vbatEvent src osc
  else if !srcCounted src ∨ (s.asleep ∧ src = srcClkCore) then pure ()
  else tamperEvent src

def execTamperEvent (src : BitVec 8) (osc : Word) (s : State) : Host.Outcome State Fault Refusal :=
  exec1 (sourceEvent src.toNat osc) s

/-! ### Loops (R543) -/

/-- One step of loop `n`: the next bit of its sequence is driven and the return sampled. -/
def loopStep (returned : BitVec 4) (osc : Word) (n : Nat) : M Unit := do
  let s ← getS
  let t := s.tamper
  let next := Config.loopNext (t.loops.getD n 0)
  let differs := next.getLsbD 0 != returned.getLsbD n
  let before := t.differ.getLsbD n
  prim (.tamper { t with
    loops := t.loops.set n next,
    differ := if differs then t.differ ||| BitVec.ofNat 4 (2 ^ n) else t.differ &&& ~~~(BitVec.ofNat 4 (2 ^ n)) })
  let mismatch := differs && before
  if mismatch && s.fld (R.TAMPER_SRC_STAT.ACTIVE (srcLoop n)) = 0 then
    wr (R.TAMPER_SRC_STAT.ACTIVE (srcLoop n)) 1
    sourceEvent (srcLoop n) osc
  else if !mismatch then wr (R.TAMPER_SRC_STAT.ACTIVE (srcLoop n)) 0

/-- Every loop steps. A LOOP_SCAN is one command here, so that no step falls in it (R610). -/
def execTloopStep (returned : BitVec 4) (osc : Word) (s : State) : Host.Outcome State Fault Refusal :=
  exec1 (forM (List.range 4) (loopStep returned osc)) s

/-! ### Self-check (R544) -/

/-- The sources that the self-check covers: glitch, clock and temperature detectors, loops and shields. -/
def selfCheckMask : Nat := 0x3F3A

/-- A self-check whose failures are `fails`. -/
def selfCheck (fails : BitVec 16) : M Unit := do
  let f := fails.toNat &&& selfCheckMask
  wr R.TAMPER_SELFCHECK.FAILED f
  if f ≠ 0 then raise E.TAMPER.SELFCHECK_FAIL .immediate
  forM (List.range 16) fun i => do
    if f.testBit i ∧ (← getS).fielded then
      tamperEvent (if 8 ≤ i then i else srcSelfcheck)

/-- The self-check of each second. -/
def execSelfCheck (fails : BitVec 16) (s : State) : Host.Outcome State Fault Refusal :=
  exec1 (do
    let s ← getS
    if s.bnd.mainOff then pure () else selfCheck fails) s

/-! ### TAMPER_CMD -/

/-- TAMPER_CMD (TAMPER page). `fails`: what a self-check finds. -/
def fxTamperCmd (op src : Nat) (fails : BitVec 16) : M Unit :=
  cmdActive U.tamper do
    if op = 1 then
      if src < 32 then wr (R.TAMPER_SRC_STAT.LASTING src) 0
      let s ← getS
      setCondQuiet E.TAMPER.LASTING ((List.range 32).any fun i => s.fld (R.TAMPER_SRC_STAT.LASTING i) = 1)
      cmdEnd U.tamper rcOk
    else if op = 2 then
      if (← getS).fielded then cmdEnd U.tamper rcState
      else
        forM (List.range 64) fun w => wrWord (0x6200 + 4 * w) 0
        wr R.TAMPER_LOG_PTR.COUNT 0
        wr R.TAMPER_LOG_PTR.NEXT 0
        prim (.tamper { (← getS).tamper with logOrder := [], uncopied := [] })
        logFull
        cmdEnd U.tamper rcOk
    else if op = 3 then
      selfCheck fails
      cmdEnd U.tamper rcOk
    else if op = 4 then
      tamperEvent srcTrip
      cmdEnd U.tamper rcOk
    else cmdEnd U.tamper rcBadCmd

/-- A write of TAMPER_CMD. -/
def tamperCmdWrite (rid : BitVec 12) (op src : Nat) (fails : BitVec 16) : M Unit :=
  hostWrite (fullWrite rid R.TAMPER_CMD.OP.addr (BitVec.ofNat 32 (op * 2 ^ 28 + src))) (fxTamperCmd op src fails)

def execClearLasting (rid : BitVec 12) (src : BitVec 8) (s : State) : Host.Outcome State Fault Refusal :=
  exec1 (tamperCmdWrite rid 1 src.toNat 0) s

def execClearLog (rid : BitVec 12) (s : State) : Host.Outcome State Fault Refusal :=
  exec1 (tamperCmdWrite rid 2 0 0) s

def execSelfcheckNow (rid : BitVec 12) (fails : BitVec 16) (s : State) : Host.Outcome State Fault Refusal :=
  exec1 (tamperCmdWrite rid 3 0 fails) s

def execTrip (rid : BitVec 12) (s : State) : Host.Outcome State Fault Refusal :=
  exec1 (tamperCmdWrite rid 4 0 0) s

/-! ### The debug port (R57) -/

/-- OT_DBG_ACTIVE rises, with the level of OT_DBG_AUTH. -/
def execDebugActive (auth : Bool) (s : State) : Host.Outcome State Fault Refusal :=
  exec1 (do
    let s ← getS
    prim (.bnd { s.bnd with dbgActive := true, dbgAuth := auth })
    if s.bnd.mainOff then pure ()
    else if s.inField && !auth then
      wr (R.TAMPER_SRC_STAT.ACTIVE srcDebug) 1
      tamperEvent srcDebug
    else
      wr (R.TAMPER_SRC_STAT.ACTIVE srcDebug) 0
      tamperNotice srcDebug) s

/-- OT_DBG_AUTH falls while OT_DBG_ACTIVE is high. -/
def execDbgAuthLow (s : State) : Host.Outcome State Fault Refusal :=
  exec1 (do
    let s ← getS
    prim (.bnd { s.bnd with dbgAuth := false })
    if s.bnd.dbgActive ∧ s.bnd.dbgAuth ∧ s.inField ∧ !s.bnd.mainOff then
      wr (R.TAMPER_SRC_STAT.ACTIVE srcDebug) 1
      tamperEvent srcDebug) s

end Sys2Proof.Machine
end

