-- ==== Sys2Proof/Machine/LaneCmds.lean ====
section
/-! DEFINITION. The LANE and SCHED pages' commands and the lanes' own events (R100 to R135, R622). -/
namespace Sys2Proof.Machine
open Sys2Proof

/-- The block that a command names: block `index` of the item that was opened as the `order`-th, or of the known-answer test. -/
def namedBlock (o : BlockOwner) (order index : Nat) : BlockOf := match o with
  | .entry e => .item (.entry e) order index
  | .half e => .item (.half e) order index
  | .loose c => .item (.loose c) order index
  | .known => .known index

/-- The block named leaves O2 of a lane: the lanes' clock runs through the stages that the block has before it, and gives its result
to its path and tag unit (R100, R104 to R106, R225). Where the lane does not hold the block nothing happens, and where an injected
error shows first (R134) that is all that happens. -/
def blockDone (l : Nat) (b : BlockOf) : M Unit := do
  let x := (← getS).lane l
  match x.powered, x.pipe.find? fun p => p.2.what = b with
  | true, some p =>
    let _ ← laneClocks (laneStages - p.1) fun _ => false
  | _, _ => pure ()

def execLaneBlockDone (l : Fin 4) (owner : BlockOwner) (order index : Nat) (s : State) : Host.Outcome State Fault Refusal :=
  exec1 (blockDone l (namedBlock owner order index)) s

/-- Bits that a fault flips in a stage's 128-bit register show in the byte parity that the stage predicts if some byte has an odd
number of them (R119). -/
def parityShows (flips : BitVec 128) : Bool :=
  (List.range 16).any fun i => popCount 8 (flips.toNat / 2 ^ (8 * i) % 2 ^ 8) % 2 = 1

/-- A fault at a stage is a lane fault: by its parity, or as disagreement of the two copies of a committed context (stage 38), which
are compared bit by bit. The stages of R134 are 0 to 38, so a number above names none. -/
def faultShows (stage : Nat) (flips : BitVec 128) : Bool :=
  if stage = 38 then flips ≠ 0 else decide (stage < 38) && parityShows flips

/-- The cause code of a mismatch at a stage (R119): the data path or, of E0 to O2, the key pipeline; the tag units; the copies. -/
def faultCause (stage : Nat) (keyPipe : Bool) : Nat :=
  if stage = 38 then 0x4 else if 32 ≤ stage then 0x3 else if keyPipe then 0x2 else 0x1

/-- A fault flips bits of a stage's register, of the data or of the key pipeline, or of one copy of a context. What does not show is
no lane fault (R119, R120); log entry 33. -/
def execLaneFault (l : Fin 4) (stage : BitVec 6) (flips : BitVec 128) (keyPipe : Bool) (s : State) :
    Host.Outcome State Fault Refusal :=
  exec1 (do
    let x := (← getS).lane l
    if x.powered ∧ !x.fenced ∧ faultShows stage.toNat flips then laneFault l stage.toNat (faultCause stage.toNat keyPipe)) s

/-- The known-answer blocks that a lane still has, entered or not, pass through it (R120, R135). -/
def katBlocks (l : Nat) : M Unit := do
  let a := (← getS).lane l
  countSlots 7 a.katLeft
  countBlocks l (a.katLeft + (a.pipe.filter fun p => p.2.known).length)
  modLane l fun x => { x with pipe := x.pipe.filter fun p => !p.2.known, katLeft := 0 }

/-- A known-answer test ends (R117, R120, R124, R125). A pass after a lane fault is a gust, unless the count made the fault lasting;
the affected items then move (R121, R122). -/
def katComplete (l : Nat) (pass : Bool) : M Unit := do
  let s ← getS
  match (s.lane l).kat with
  | none => pure ()
  | some r =>
    let good := pass && (s.lane l).katGood
    katBlocks l
    modLane l fun x => { x with kat := none, tested := x.tested || good }
    let stage := s.fld (R.LANE_FAULT_STAT.STAGE l)
    let cause := s.fld (R.LANE_FAULT_STAT.LAST_CAUSE l)
    if !good then
      raise (E.LANE.KAT_FAIL l) .immediate
      fenceLane l 0x5
    else if r = .fault ∧ (s.lane l).lasting then fenceLane l cause
    else
      if r = .fault then
        bump (R.LANE_GUSTS.COUNT l)
        raiseNamed (E.LANE.GUST l) 0x0022 [lanePayload l stage cause] .immediate
        unitAlarm (0x08 + l) 1
      assignAll
      laneRefresh

def execKatComplete (l : Fin 4) (pass : Bool) (s : State) : Host.Outcome State Fault Refusal :=
  exec1 (katComplete l pass) s

/-- A lane in service starts its known-answer set. DESIGN CHOICE (log entry 128): a periodic or commanded set that falls due while
another set of the lane is in progress is not run beside it, nor after it. -/
def katStart (l : Nat) (r : KatReason) : M Unit := do
  let s ← getS
  if s.inService l ∧ (s.lane l).kat.isNone then katBegin l r

def execKatPeriod (l : Fin 4) (s : State) : Host.Outcome State Fault Refusal := exec1 (katStart l .periodic) s

/-- LANE_CMD (R120, R125, R134). DESIGN CHOICES (log entry 124): with FENCE and KAT_NOW both set only the fence is carried out; FENCE
for a lane that is not available - its page OFF, also while the lane serves Cellar replay, or the lane fenced already - does
nothing; INJECT waits for the lane's next block, and the lane's next fault or its power-off drops it. -/
def fxLaneCmd (l : Nat) (inject fence kat : Bool) : M Unit := do
  let s ← getS
  if inject then
    if s.inField then unitAlarm (0x08 + l) 0
    else modLane l fun x => { x with inject := true }
  if fence ∧ s.laneAvail l then fenceLane l 0x6
  else if kat then katStart l .commanded

def laneCmdWrite (rid : BitVec 12) (l : Nat) (inject fence kat : Bool) : M Unit :=
  hostWrite (fullWrite rid (R.LANE_CMD.KAT_NOW l).addr (BitVec.ofNat 32 (bitAt inject 2 + bitAt fence 1 + bitAt kat 0)))
    (fxLaneCmd l inject fence kat)

def execKatNow (rid : BitVec 12) (l : Fin 4) (s : State) : Host.Outcome State Fault Refusal :=
  exec1 (laneCmdWrite rid l false false true) s

def execFence (rid : BitVec 12) (l : Fin 4) (s : State) : Host.Outcome State Fault Refusal :=
  exec1 (laneCmdWrite rid l false true false) s

def execInject (rid : BitVec 12) (l : Fin 4) (s : State) : Host.Outcome State Fault Refusal :=
  exec1 (laneCmdWrite rid l true false false) s

/-- A lane's domain powers up, and its entry test begins (R117, R118); the lane serves once KAT_COMPLETE has passed. -/
def lanePowerUp (l : Nat) : M Unit := do
  let s ← getS
  let x := s.lane l
  if !x.powered ∧ (s.laneAvail l ∨ x.replaying) then
    setDomain (6 + l) true
    modLane l fun x => { x with powered := true, tested := false }
    katBegin l .entry
    laneRefresh

def execLanePowerUp (l : Fin 4) (s : State) : Host.Outcome State Fault Refusal := exec1 (lanePowerUp l) s

/-- The idle condition of a lane, but for its own tests: no path that uses the lanes is ACTIVE or DRAINING, and no Cellar item
awaits replay. -/
def State.lanesIdle (s : State) : Bool :=
  s.cellar.replay.isEmpty && [0x28, 0x29, 0x2A, 0x18, 0x1D, 0x30, 0x10, 0x11, 0x12, 0x13, 0x14, 0x15, 0x16, 0x17, 0x38, 0x2C].all
    fun p => s.pageState p ≠ pgActive && s.pageState p ≠ pgDraining

/-- Idle lanes in service are powered off (R29, R117). DESIGN CHOICE (log entry 129): R117 only allows it; the model does it at a
register clock. -/
def idleOff : M Unit := do
  let s ← getS
  let off := (List.range 4).filter fun l => s.inService l && (s.lane l).kat.isNone
  if s.lanesIdle ∧ off ≠ [] then
    forM off laneOff
    laneRefresh

/-- A window boundary (R111, R116, R622). A page that is DRAINING keeps its set in force, so it takes a waiting one too. -/
def schedWindow : M Unit := do
  let s ← getS
  match s.sched.waiting, (s.active 0x0C || s.pageState 0x0C = pgDraining) with
  | some set, true =>
    prim (.sched { s.sched with committed := some set, waiting := none })
    raise E.SCHED.COMMIT_DONE
    laneRefresh
  | _, _ => pure ()
  let s1 ← getS
  let cs := s1.classes
  prim (.sched { s1.sched with
    credit := cs.map fun c => c.share * s1.laneCount, used := [0, 0, 0, 0, 0, 0, 0, 0] })

def execSchedWindow (s : State) : Host.Outcome State Fault Refusal := exec1 schedWindow s

/-- SCHED_CMD.COMMIT (R116). -/
def fxSchedCommit (commit : Bool) : M Unit := do
  if commit then
    let s ← getS
    let set : List ClassSet := (List.range 8).map fun c =>
      ⟨s.fld (R.SCHED_CLASS.SHARE c), s.fld (R.SCHED_CLASS.CAP c), s.fld (R.SCHED_CLASS.PRIO c)⟩
    if (set.map fun c => c.share).sum ≤ 256 ∧ set.all fun c => c.cap = 0 || decide (c.share ≤ c.cap) then
      prim (.sched { s.sched with waiting := some set })
    else raise E.SCHED.SHARE_BAD

def execCommit (rid : BitVec 12) (s : State) : Host.Outcome State Fault Refusal :=
  exec1 (hostWrite (fullWrite rid R.SCHED_CMD.COMMIT.addr 1) (fxSchedCommit true)) s

end Sys2Proof.Machine
end

