-- ==== Sys2Proof/Machine/WakeCmds.lean ====
section
/-! DEFINITION. Wakes, the wake guard and the clock handshakes (R37, R62, R63, R68, R517, R529 to R535). -/
namespace Sys2Proof.Machine
open Sys2Proof

/-- Entry `i` of a list of one element for each channel. -/
def setAt {α : Type} (l : List α) (i : Nat) (x : α) : List α := l.set i x

/-! ### The guard (R529, R531) -/

/-- The guard listens: GUARD_EN is 1 and the page is ACTIVE. -/
def State.guarding (s : State) : Bool := s.active 0x3C && s.fld R.WAKE_CFG.GUARD_EN = 1

/-- The guard key that WAKE_KEY names. -/
def State.guardBank (s : State) : Option Bank :=
  s.inlineKey (s.fld R.WAKE_KEY.SLOT) { types := [0x01], engine := some .stream, enc := some false }

/-- Copy the guard key, if the guard listens. -/
def loadGuard : M Unit := do
  let s ← getS
  if s.guarding then prim (.wake { s.wake with guardKey := s.guardBank.map (·.material) })
  setCond E.WAKE.KEY_ABSENT (s.guarding && s.guardBank.isNone)

/-- The guard is enabled or disabled: its domain follows (R29, R30). -/
def guardRefresh : M Unit := do
  let s ← getS
  if s.guarding then
    if !s.domainOn 2 then
      setDomain 2 true
      loadGuard
  else
    setDomain 2 false
    prim (.wake { s.wake with guardKey := none })
    setCond E.WAKE.KEY_ABSENT false

/-- A listen window lasts this long. -/
def State.listenNs (s : State) : Nat := max 1 (min 48 (s.fld R.WAKE_CFG.WIN_MS)) * 1000000

/-- A rising OT_WAKE_TRIG. -/
def wakeTrig (n : Nat) : M Unit := do
  let s ← getS
  let w := s.wake
  if s.guarding ∧ (s.fld R.WAKE_CFG.CHAN_EN).testBit n ∧ (w.backoff.getD n none).isNone ∧ (w.windows.getD n none).isNone then
    prim (.wake { w with windows := setAt w.windows n (some s.now.toNat) })

def execWakeTrig (n : Fin 4) (s : State) : Host.Outcome State Fault Refusal := exec1 (wakeTrig n) s

/-- The next data length that a DLC can express. -/
def dlcLength (n : Nat) : Nat :=
  if n ≤ 8 then n else if n ≤ 12 then 12 else if n ≤ 16 then 16 else if n ≤ 20 then 20 else if n ≤ 24 then 24 else 32

/-- MAC_BYTES of a filter as taken. -/
def State.filtMac (s : State) (f : Nat) : Nat := max 4 (min 8 (s.fld (R.WAKE_FILT_AUTH.MAC_BYTES f)))

/-- A frame fits a filter but for its MAC and counter (R529). -/
def State.filtFits (s : State) (n f : Nat) (ide fd crcOk : Bool) (id : Nat) (data : Bytes) : Bool :=
  let len := s.fld (R.WAKE_FILT_AUTH.D f) + 4 + s.filtMac f
  s.fld (R.WAKE_FILT_CTL.VALID f) = 1 && (s.fld (R.WAKE_FILT_AUTH.CHAN f)).testBit n
    && (s.fld (R.WAKE_FILT_CTL.IDE f) = 1) == ide && s.fld (R.WAKE_FILT_CTL.ID f) = id
    && crcOk && data.length = dlcLength len && (fd || decide (data.length ≤ 8)) && (data.drop len).all (· = 0)

/-- WCTR of a frame under a filter, and whether its MAC matches (R529). -/
def State.filtCheck (s : State) (key : Bytes) (f : Nat) (ide : Bool) (id : Nat) (data : Bytes) : Nat × Bool :=
  let d := s.fld (R.WAKE_FILT_AUTH.D f)
  let m := s.filtMac f
  let input := beBytes 2 (s.fld (R.WAKE_FILT_AUTH.DATA_ID f)) ++ beBytes 4 (id + bitAt ide 31) ++ data.take (d + 4)
  (beAt data d 4, (cmac key input).take m = slice data (d + 4) m)

/-- A frame in a listen window (R529, R530). A confirmation that finds OT_WAKE_REQ high is logged while AWAKE too (R534). -/
def wakeFrame (n : Nat) (ide fd crcOk : Bool) (id : Nat) (data : Bytes) : M Unit := do
  let s ← getS
  match s.wake.windows.getD n none, s.wake.guardKey, s.guarding with
  | some _, some key, true =>
    let fs := (List.range 8).filter fun f => s.filtFits n f ide fd crcOk id data
    let ok := fs.filter fun f => (s.filtCheck key f ide id data).2
    match ok.find? fun f => decide (s.fld (R.WAKE_FILT_WCTR.LAST_WCTR f) < (s.filtCheck key f ide id data).1) with
    | some f =>
      wr (R.WAKE_FILT_WCTR.LAST_WCTR f) (s.filtCheck key f ide id data).1
      prim (.wake { s.wake with
        windows := setAt s.wake.windows n none, falseRun := setAt s.wake.falseRun n 0, req := true })
      raise E.WAKE.CONFIRMED
      if s.power' = pwAwake ∧ s.wake.req then logWake 0x2 n (id + bitAt ide 31) false false
      else wakeBy 0x2 n (id + bitAt ide 31)
    | none =>
      if !ok.isEmpty then raise E.WAKE.REPLAY
      else if !fs.isEmpty then raise E.WAKE.MAC_FAIL
  | _, _, _ => pure ()

def execWakeFrame (n : Fin 4) (ide fd crcOk : Bool) (id : BitVec 29) (data : Bytes) (s : State) :
    Host.Outcome State Fault Refusal :=
  exec1 (waitable (.wakeFrame n ide fd crcOk id data) 0x3C (wakeFrame n ide fd crcOk id.toNat data)) s

/-- BACKOFF is held while any channel backs off. -/
def backoffCond : M Unit := do
  setCond E.WAKE.BACKOFF ((← getS).wake.backoff.any Option.isSome)

/-- A window ends unconfirmed: one false wake (R530, R532). -/
def listenEnd (n : Nat) : M Unit := do
  let s ← getS
  match s.wake.windows.getD n none with
  | none => pure ()
  | some t =>
    if t + s.listenNs ≤ s.now.toNat then
      let all := s.fld R.WAKE_FALSE.COUNT
      wr R.WAKE_FALSE.COUNT (setBits all (8 * n + 7) (8 * n) (min 255 (bits all (8 * n + 7) (8 * n) + 1)))
      let run := s.wake.falseRun.getD n 0 + 1
      let w := { s.wake with windows := setAt s.wake.windows n none, falseRun := setAt s.wake.falseRun n run }
      prim (.wake w)
      raise E.WAKE.FALSE_WAKE
      if max 1 (s.fld R.WAKE_CFG.FALSE_LIMIT) ≤ run then
        prim (.wake { w with
          falseRun := setAt w.falseRun n 0, episodes := setAt w.episodes n (w.episodes.getD n 0 + 1),
          backoff := setAt w.backoff n (some (s.now.toNat + s.fld R.WAKE_CFG.BACKOFF_S * 1000000000)) })
        backoffCond

def execListenWindowEnd (n : Fin 4) (s : State) : Host.Outcome State Fault Refusal :=
  exec1 (waitable (.listenWindowEnd n) 0x3C (listenEnd n)) s

/-- The backoff of a channel ends. -/
def execBackoffEnd (n : Fin 4) (s : State) : Host.Outcome State Fault Refusal :=
  exec1 (do
    let s ← getS
    match s.wake.backoff.getD n none with
    | some t =>
      if t ≤ s.now.toNat then
        prim (.wake { s.wake with backoff := setAt s.wake.backoff n none })
        backoffCond
    | none => pure ()) s

/-- WAKE_CLEAR.CLEAR (R534). -/
def fxWakeClear (clear : Bool) : M Unit := do
  if clear then prim (.wake { (← getS).wake with req := false })

def execWakeClear (rid : BitVec 12) (s : State) : Host.Outcome State Fault Refusal :=
  exec1 (hostWrite (fullWrite rid R.WAKE_CLEAR.CLEAR.addr 1) (fxWakeClear true)) s

/-- A write of LAST_WCTR takes the maximum (R533). -/
def fxWakeWctr (f v : Nat) : M Unit := wrMax (R.WAKE_FILT_WCTR.LAST_WCTR f) v

def execWakeFiltWctr (rid : BitVec 12) (f : Fin 8) (value : Word) (s : State) : Host.Outcome State Fault Refusal :=
  exec1 (hostWrite (fullWrite rid (R.WAKE_FILT_WCTR.LAST_WCTR f).addr value) (fxWakeWctr f value.toNat)) s

/-! ### Wakes (R517) -/

/-- OT_VBAT returns into range. -/
def execVbatRestore (s : State) : Host.Outcome State Fault Refusal :=
  exec1 (waitable .vbatRestore 0x3C do
    let s ← getS
    if s.fld R.WAKE_SRC_EN.VBAT = 1 ∧ !s.bnd.mainOff then wakeBy 0x6 0 0) s

/-- A VALID on a memory, storage or stream input (R68): the group of GLOBAL_BND_ERR and the stream port. -/
def execHostRequestWake (group : BitVec 4) (port : BitVec 5) (s : State) : Host.Outcome State Fault Refusal :=
  exec1 (waitable (.hostRequestWake group port) 0x3C (wakeBy 0x1 0 (group.toNat * 2 ^ 24 + port.toNat * 2 ^ 16))) s

/-- A wake that finds a descent before its step 3: the descent is aborted (R519). -/
def execDescentAbort (code : BitVec 4) (chan : BitVec 2) (detail : Word) (s : State) : Host.Outcome State Fault Refusal :=
  exec1 (waitable (.descentAbort code chan detail) 0x05 do
    let s ← getS
    if s.power' = pwDescending ∧ s.fld R.POWER_STAT.STEP < 3 then wakeBy code.toNat chan.toNat detail.toNat) s

/-- A descent starts at its step 1 (R518). -/
def startDescent : M Unit := do
  let s ← getS
  wr R.POWER_STAT.STATE pwDescending
  wr R.POWER_STAT.STEP 1
  wr R.POWER_STAT.LATE_WAKE 0
  let up := ((List.range 8).map fun g => if bits (s.fld R.POWER_SEG_STAT.STATE) (2 * g + 1) (2 * g) = 0 then 2 ^ g else 0).sum
  prim (.power { s.power with began := s.now.toNat, wereAwake := up, noImage := false })

/-- POWER_CMD; ignored while the page is not ACTIVE, and for every other operation. -/
def fxPowerCmd (op : Nat) : M Unit := do
  let s ← getS
  if s.active 0x05 then
    if op = 1 then
      if s.power' = pwAwake then startDescent
      else if s.power' = pwAscending then wr R.POWER_STAT.SLEEP_QUEUED 1
    else if op = 2 then wakeBy 0x1 0 0

def powerCmdWrite (rid : BitVec 12) (op : Nat) : M Unit :=
  hostWrite (fullWrite rid R.POWER_CMD.OP.addr (BitVec.ofNat 32 (op * 2 ^ 28))) (fxPowerCmd op)

def execSleep (rid : BitVec 12) (s : State) : Host.Outcome State Fault Refusal := exec1 (powerCmdWrite rid 1) s

def execWake (rid : BitVec 12) (s : State) : Host.Outcome State Fault Refusal := exec1 (powerCmdWrite rid 2) s

/-! ### Host accesses while asleep (R37) and clock handshakes (R62, R63) -/

def execHostAccessAsleep (s : State) : Host.Outcome State Fault Refusal :=
  exec1 (do
    let s ← getS
    if s.asleep then
      raiseClk .reg
      if s.clkRuns .reg then setDomain 4 true
      prim (.power { (← getS).power with hostSince := some s.now.toNat })) s

def execHostRetentionTimeout (s : State) : Host.Outcome State Fault Refusal :=
  exec1 (do
    let s ← getS
    match s.power.hostSince with
    | some t =>
      if s.asleep ∧ t + 100000 ≤ s.now.toNat then
        prim (.power { s.power with hostSince := none })
        setDomain 4 false
        lowerClk .reg
    | none => pure ()) s

/-- The clock of a number: core, register, sampling. -/
def clkOf (n : Nat) : Clk := if n = 0 then .core else if n = 1 then .reg else .smp

/-- An ACK arrives; one later than 20 µs is a grade 0 alarm (R63). -/
def clockAck (c : Clk) : M Unit := do
  let s ← getS
  match s.power.req.find? fun p => p.1 = c with
  | some p =>
    if !s.power.ack.contains c then
      prim (.power { s.power with ack := s.power.ack ++ [c] })
      if c = .reg ∧ s.power.hostSince.isSome then setDomain 4 true
      if p.2 + 20000 < s.now.toNat then unitAlarm 0x05 0
  | none => pure ()

def execClockAck (c : Fin 3) (s : State) : Host.Outcome State Fault Refusal := exec1 (clockAck (clkOf c)) s

end Sys2Proof.Machine
end

