-- ==== Sys2Proof/Machine/Park.lean ====
section
/-! DEFINITION. Images in DRAM: the key park image (R453 to R456), the lookup image (R522) and the records of parked
segments (R524 to R528). -/
namespace Sys2Proof.Machine
open Sys2Proof

/-! ### The park areas (R453, R454, R528) -/

/-- Write bytes to DRAM as Otist's own traffic, line by line, with the strobes of the bytes written. -/
def putBytes (a : Nat) (b : Bytes) : M Unit :=
  forM (List.range (ceilDiv (a % 64 + b.length) 64)) fun k =>
    let line := a / 64 * 64 + 64 * k
    let at' (i : Nat) : Bool := decide (a ≤ line + i ∧ line + i < a + b.length)
    emit (.dramWrite line ((List.range 64).map fun i => if at' i then b.getD (line + i - a) 0 else 0)
      (BitVec.ofNat 64 (((List.range 64).map fun i => if at' i then 2 ^ i else 0).sum)))

/-- Bytes that DRAM answers, with whether a line of them drew an uncorrectable report. -/
def memBytes (v : MemView) (a n : Nat) : Bool × Bytes :=
  let ls := (List.range (ceilDiv (a % 64 + n) 64)).map fun k => memLine v (a / 64 * 64 + 64 * k)
  (ls.any fun l => l.1 ≠ .ok, slice (ls.map (·.2)).flatten (a % 64) n)

/-- An area may not hold an image: it has no place, or it overlaps an area of a region that is not OFF. -/
def State.parkBad (s : State) (base len : Nat) : Bool :=
  base = 0 || (List.range 16).any fun n => decide (s.rgnState n ≠ pgOff)
    && (overlaps (base * 4096, len) (s.dataRange n) || (s.metaAreas n).any (overlaps (base * 4096, len)))

/-- The park key, once PARK_EPOCH is set. -/
def State.parkKeyNow (s : State) : Option Bytes :=
  let e := s.fld R.KEYS_PARK_EPOCH.EPOCH
  if e = 0 then none else s.parkKey e

/-! ### The key park image (R453 to R456) -/

/-- Slots and nodes of the image. -/
def State.parkSlots (s : State) : List (Nat × Slot) := s.slots.filter fun p => p.2.st ≠ .empty
def State.parkNodes (s : State) : List (Nat × Node) := s.nodes.filter fun p => p.2.st ≠ .free

/-- The header, little-endian as R11 has what Otist writes to DRAM: bit i of a bitmap is bit i % 8 of its byte i / 8. -/
def parkHeader (key : Bytes) (epoch : Nat) (slots nodes : List Nat) : Bytes :=
  let h := leBytes 2 0xB414 ++ [0x01, 0] ++ leBytes 8 epoch ++ leBytes 64 ((slots.map fun n => 2 ^ n).sum)
    ++ leBytes 128 ((nodes.map fun n => 2 ^ n).sum)
  h ++ gcmTag key ([0x03, 0x00] ++ beBytes 2 0 ++ beBytes 8 epoch) h []

/-- Every slot and node is lost: KEYCORE is off, or reset. A slot's next generation and invocation counter stay (R433). -/
def loseKeys : M Unit := do
  forM (← getS).slots fun p => prim (.slot p.1 { nextGen := p.2.nextGen, inv := p.2.inv })
  prim .nodesClear
  keyOccupancy
  tenantsRefresh

/-- Every slot and node is lost for good: the bindings are released (R273). -/
def dropKeys : M Unit := do
  forM (← getS).slots fun p => releaseSlot p.1
  loseKeys

/-- Write the image, or lose what it would hold. Answers the bytes written. -/
def keyPark : M Nat := do
  let s ← getS
  let epoch := s.fld R.KEYS_PARK_EPOCH.EPOCH
  let base := s.fld R.KEYS_PARK_BASE.ADDR
  match (if s.power.noImage then none else s.parkKeyNow) with
  | none =>
    wr R.KEYS_PARK_STAT.OUTCOME 4
    if !s.parkSlots.isEmpty ∨ !s.parkNodes.isEmpty then raise E.KEYS.PARK_FAIL
    prim (.keys { s.keys with park := none })
    dropKeys
    return 0
  | some key =>
    if s.parkBad base (172 * 1024) then
      wr R.KEYS_PARK_STAT.OUTCOME 5
      raise E.KEYS.PARK_FAIL
      prim (.keys { s.keys with park := none })
      dropKeys
      return 0
    else
      putBytes (base * 4096) (parkHeader key epoch (s.parkSlots.map (·.1)) (s.parkNodes.map (·.1)))
      wr R.KEYS_PARK_STAT.OUTCOME 1
      wr R.KEYS_PARK_STAT.FAILED 0
      prim (.keys { s.keys with park := some ⟨epoch, s.parkSlots, s.parkNodes⟩ })
      loseKeys
      return 220 + 176 * s.parkSlots.length + 80 * s.parkNodes.length

/-- A slot whose key does not outlive a reset. -/
def Slot.expires (l : Slot) : Bool := l.banks.any fun b => polExpire b.policy

/-- Restore the image, after a reset or in an ascent; it restores once. A slot that is not restored has its binding released (R273);
after a reset no counter is bound, since every counter is new then (R275, R278). -/
def keyRestore (afterReset : Bool) (r : ImageReads) : M Unit := do
  let s ← getS
  match s.keys.park with
  | none =>
    wr R.KEYS_PARK_STAT.OUTCOME 4
    advanceEpoch
  | some p =>
    let usable := s.parkKeyNow.isSome && decide (p.epoch = s.fld R.KEYS_PARK_EPOCH.EPOCH)
    prim (.keys { s.keys with park := none })
    if !usable then
      forM p.slots fun x => releaseBinding x.2
      wr R.KEYS_PARK_STAT.OUTCOME 4
    else match r.header with
      | some u =>
        forM p.slots fun x => releaseBinding x.2
        wr R.KEYS_PARK_STAT.OUTCOME 3
        bump R.KEYS_PARK_STAT.FAILED
        raise E.KEYS.PARK_FAIL
        if !u then tamperEvent srcInteg
      | none =>
        let bad (nd : Bool) (i : Nat) : Bool := r.records.any fun f => f.node == nd && f.index = i
        let fails := r.records.filter fun f =>
          if f.node then p.nodes.any fun x => x.1 = f.index else p.slots.any fun x => x.1 = f.index
        forM p.nodes fun x => if bad true x.1 then pure () else prim (.node x.1 x.2)
        forM p.slots fun x =>
          if bad false x.1 ∨ (afterReset ∧ x.2.expires) then releaseBinding x.2
          else prim (.slot x.1 (if afterReset then { x.2 with bound := .none } else x.2))
        keyOccupancy
        wr R.KEYS_PARK_STAT.OUTCOME (if fails.isEmpty then 2 else 3)
        forM fails fun f => do
          bump R.KEYS_PARK_STAT.FAILED
          raise E.KEYS.PARK_FAIL
          if !f.uncorrectable then tamperEvent srcInteg
        tenantsRefresh
    advanceEpoch

/-! ### Segments (R524 to R528) -/

/-- Change a segment's state. -/
def setSeg (g st : Nat) : M Unit := do
  let v ← rd R.POWER_SEG_STAT.STATE
  wr R.POWER_SEG_STAT.STATE (setBits v (2 * g + 1) (2 * g) st)
  wrBit R.STRM_SEG_PARKED.PARKED g (st = 2)

/-- The segment of an entry: of its port, or of the port that its learned context is bound to. -/
def State.entrySeg (s : State) (ws : List Word) : Nat :=
  if eKind ws = 4 then (match s.ctx (ePeer ws) with
    | some c => s.segOf (cPort c)
    | none => s.segOf (ePort ws))
  else s.segOf (ePort ws)

/-- The segment of the association that a handle names. -/
def State.handleSeg (s : State) (h : Nat) : Option Nat := (s.anyHandle h).map fun p => s.entrySeg p.2

/-- An item's association, or its peer context, lies in a segment. -/
def State.copyIn (s : State) (g : Nat) (c : AssocCopy) : Bool :=
  s.handleSeg c.handle = some g
    || (match c.peer.bind s.ctx with
      | some x => s.segOf (cPort x) = g
      | none => false)

/-- An accepted item carries a handle of a segment. -/
def State.segHeld (s : State) (g : Nat) : Bool := s.ports.any fun p => p.2.items.any fun i => i.entry.isSome &&
  ((match i.look with | .hit c => s.copyIn g c | _ => false)
    || (match i.outCopy with | some c => s.copyIn g c | none => false))

/-- The records of a segment (R524), as kind and index (R525): entries by location, learned contexts and window blocks. -/
def State.segRecords (s : State) (g : Nat) : List (Nat × Nat) :=
  let es := s.assocs.filter fun p => s.entrySeg p.2 = g && !s.parkedAt p.1
  let hs := (es.filter fun p => eKind p.2 ≠ 4).map fun p => eHandle p.2
  es.map (fun p => (3, p.1))
    ++ s.peers.filterMap fun p => match p.2 with
      | some (.ctx c) => if s.segOf (cPort c) = g then some (4, p.1) else none
      | some (.window h _) => if hs.contains h then some (5, p.1) else none
      | none => none

/-- A record's 64 bytes: its sixteen words, each least significant byte first. -/
def wordsBytes (ws : List Word) : Bytes := ((List.range 16).map fun i => leBytes 4 (ws.getD i 0).toNat).flatten
def bytesWords (b : Bytes) : List Word := (List.range 16).map fun i => BitVec.ofNat 32 (leAt b (4 * i) 4)

/-- The words of a record. -/
def State.recWords (s : State) (kind index : Nat) : List Word :=
  if kind = 3 then (s.at index).getD []
  else match mget (fun _ => none) s.peers index with
    | some (.ctx c) => c
    | some (.window _ w) => w
    | none => []

/-- The IV of a record (R525). -/
def segIv (kind g index epoch : Nat) : Bytes :=
  [0x04, BitVec.ofNat 8 kind, BitVec.ofNat 8 g, 0] ++ beBytes 2 index ++ beBytes 6 epoch

/-- The place of a segment's records. -/
def State.segAddr (s : State) (g j : Nat) : Nat := s.fld R.POWER_PARK_BASE.ADDR * 4096 + g * 786432 + 80 * j

/-- What a parked location keeps: its key block, and the handle or the context that it is found by. -/
def parkedWords (ws : List Word) : List Word :=
  (List.range 16).map fun i =>
    if i < 3 ∨ (i = 5 ∧ eKind ws ≠ 4) ∨ (i = 3 ∧ eKind ws = 4) then ws.getD i 0 else 0

/-- Keep of a parked record only what names it. -/
def stripRecord (kind index : Nat) : M Unit := do
  let s ← getS
  if kind = 3 then
    let ws := s.recWords 3 index
    if eKind ws = 1 ∨ eKind ws = 3 then
      prim (.counter (eHandle ws) { s.counter (eHandle ws) with parkedNext := some (BitVec.ofNat 64 (eFresh ws)) })
    setAssoc index (parkedWords ws)
    prim (.parked index true)
  else match mget (fun _ => none) s.peers index with
    | some (.ctx c) => prim (.peer index (some (.ctx (c.take 3))))
    | some (.window h _) => prim (.peer index (some (.window h [])))
    | none => pure ()

/-- A segment may be parked: the park area of R528 can hold its image. -/
def State.segKey (s : State) : Option Bytes :=
  if s.power.noImage ∨ s.parkBad (s.fld R.POWER_PARK_BASE.ADDR) (0x620 * 4096) then none else s.parkKeyNow

/-- Park a segment. Answers the bytes written, `none` where no image can be. -/
def parkSegment (g : Nat) : M (Option Nat) := do
  let s ← getS
  match s.segKey with
  | none => return none
  | some key =>
    let epoch := s.fld (R.SEG_EPOCH.EPOCH g)
    let recs := s.segRecords g
    forM recs.zipIdx fun x => do
      let c := gcmSeal key (segIv x.1.1 g x.1.2 epoch) [] (wordsBytes (s.recWords x.1.1 x.1.2))
      putBytes (s.segAddr g x.2) (c.1 ++ c.2)
    forM recs fun x => stripRecord x.1 x.2
    prim (.power { (← getS).power with segRecs := s.power.segRecs.set g recs })
    wr (R.SEG_KEY_EPOCH.EPOCH g) (s.fld R.KEYS_PARK_EPOCH.EPOCH)
    wr (R.SEG_EPOCH.EPOCH g) (epoch + 1)
    setSeg g 2
    raise E.POWER.SEG_PARKED
    return some (80 * recs.length)

/-- A record of a segment fails (R527): its location is empty. -/
def recordFails (kind index : Nat) : M Unit := do
  let s ← getS
  bump R.POWER_PARK_FAILS.COUNT
  raise E.POWER.PARK_FAIL
  if kind = 3 then removeEntry index true
  else match mget (fun _ => none) s.peers index with
    | some (.ctx _) => removePeer index false
    | some (.window h _) => match s.anyHandle h with
      | some (loc, _) => removeEntry loc true
      | none => prim (.peer index none)
    | none => pure ()

/-- The record still stands parked at its place. -/
def State.recordParked (s : State) (g kind index : Nat) : Bool :=
  if kind = 3 then s.parkedAt index
  else match mget (fun _ => none) s.peers index with
    | some (.ctx c) => kind = 4 && s.segOf (cPort c) = g && decide (c.length = 3)
    | some (.window _ w) => kind = 5 && w.isEmpty
    | none => false

/-- Restore one record at place `j` of a segment's image. -/
def restoreRecord (key : Option Bytes) (g epoch j kind index : Nat) (v : MemView) : M Unit := do
  let s ← getS
  if s.recordParked g kind index then
    match key with
    | none => recordFails kind index
    | some k =>
      let (u, b) := memBytes v (s.segAddr g j) 80
      let iv := segIv kind g index epoch
      if u ∨ gcmTag k iv [] (b.take 64) ≠ b.drop 64 then
        recordFails kind index
        if !u then tamperEvent srcInteg
      else
        let ws := bytesWords (gcmOpen k iv (b.take 64))
        if kind = 3 then
          setAssoc index ws
          prim (.parked index false)
          if eKind ws = 1 ∨ eKind ws = 3 then
            prim (.counter (eHandle ws) { s.counter (eHandle ws) with parkedNext := none })
        else match mget (fun _ => none) s.peers index with
          | some (.ctx _) => prim (.peer index (some (.ctx ws)))
          | some (.window h _) => prim (.peer index (some (.window h ws)))
          | none => pure ()

/-- Restore every record of a segment: it is AWAKE. -/
def unparkSegment (g : Nat) (v : MemView) : M Unit := do
  let s ← getS
  let key := s.parkKey (s.fld (R.SEG_KEY_EPOCH.EPOCH g))
  let epoch := s.fld (R.SEG_EPOCH.EPOCH g) - 1
  forM (s.power.segRecs.getD g []).zipIdx fun x => restoreRecord key g epoch x.2 x.1.1 x.1.2 v
  prim (.power { (← getS).power with segRecs := s.power.segRecs.set g [] })
  assocRefresh
  setSeg g 0
  bump R.POWER_SEG_HOLD.UNPARKS
  match s.power.segSince.getD g none with
  | some t =>
    wrMax R.POWER_SEG_HOLD.MAX_NS (s.now.toNat - t)
    prim (.power { (← getS).power with segSince := s.power.segSince.set g none })
  | none => pure ()
  raise E.POWER.SEG_UNPARKED

/-- The entries of a segment that no image can hold are discarded (R528). -/
def discardSegment (g : Nat) : M Unit := do
  let s ← getS
  if s.assocs.any fun p => s.entrySeg p.2 = g && !s.parkedAt p.1 then raise E.POWER.PARK_FAIL
  forM s.assocs fun p => if s.entrySeg p.2 = g ∧ !s.parkedAt p.1 then removeEntry p.1 false else pure ()
  assocRefresh

/-! ### The lookup image (R522) -/

/-- The lookup image is lost: the rules, the stash and every parked location are empty. -/
def loseLookup : M Unit := do
  let s ← getS
  forM s.assocs fun p => if s.parkedAt p.1 ∨ stashBase ≤ p.1 then removeEntry p.1 true else pure ()
  prim .rulesClear
  let l := (← getS).lookup
  prim (.lookup { l with active := [], shadow := [], built := false, bank1 := false })
  bump R.POWER_PARK_FAILS.COUNT
  raise E.POWER.PARK_FAIL
  assocRefresh

/-- Write the lookup image. Its length is the spec's to at most 104 KiB. -/
def writeLookup : M Nat := do
  let s ← getS
  let ok := s.segKey.isSome
  prim (.power { s.power with lookupImage := ok })
  if ok then return (← fresh).toNat % (104 * 1024 + 1)
  else
    raise E.POWER.PARK_FAIL
    return 0

/-- Restore it in an ascent. -/
def restoreLookup (r : ImageReads) : M Unit := do
  let s ← getS
  prim (.power { s.power with lookupImage := false })
  if !s.power.lookupImage ∨ s.parkKeyNow.isNone then loseLookup
  else match r.lookup with
    | none => pure ()
    | some u =>
      loseLookup
      if !u then tamperEvent srcInteg

end Sys2Proof.Machine
end

