-- ==== Sys2Proof/Machine/PowerCmds.lean ====
section
/-! DEFINITION. Segments (R524 to R528), the end of a descent (R518 to R522) and of an ascent (R523). -/
namespace Sys2Proof.Machine
open Sys2Proof

/-! ### Segments (R524, R526) -/

/-- A segment is to be unparked; `frame`: a frame meets it, and is held from now. -/
def wakeSegment (g : Nat) (frame : Bool) : M Unit := do
  let s ← getS
  let st := s.segState g
  let since := if frame ∧ (s.power.segSince.getD g none).isNone then s.power.segSince.set g (some s.now.toNat) else s.power.segSince
  if st = 1 then
    prim (.power { s.power with segWake := s.power.segWake ||| 2 ^ g, segSince := since })
  else if st = 2 then
    prim (.power { s.power with segSince := since })
    setSeg g 3
  else if st = 3 then prim (.power { s.power with segSince := since })

/-- POWER_SEG_CTL written; ignored while the page is not ACTIVE. -/
def fxSegCtl (park : Nat) : M Unit := do
  if (← getS).active 0x05 then
    forM (List.range 8) fun g => do
      let s ← getS
      if park.testBit g then
        if s.segState g = 0 then
          if s.segKey.isSome then setSeg g 1 else raise E.POWER.PARK_FAIL
      else wakeSegment g false

def execPowerSegCtl (rid : BitVec 12) (park : BitVec 8) (s : State) : Host.Outcome State Fault Refusal :=
  exec1 (hostWrite (fullWrite rid R.POWER_SEG_CTL.PARK.addr (park.setWidth 32)) (fxSegCtl park.toNat)) s

/-- No item holds a handle of a PARKING segment: it is parked, and unparked at once if that has been asked for. -/
def segParked (g : Nat) : M Unit := do
  let s ← getS
  if s.segState g = 1 ∧ !s.segHeld g then
    match ← parkSegment g with
    | none =>
      setSeg g 0
      raise E.POWER.PARK_FAIL
    | some _ => if s.power.segWake.testBit g then setSeg g 3
    let p := (← getS).power
    prim (.power { p with
      segWake := p.segWake &&& (255 - 2 ^ g),
      segSince := if s.power.segWake.testBit g then p.segSince.set g ((p.segSince.getD g none).map fun _ => s.now.toNat)
        else p.segSince })

def execSegParked (g : Fin 8) (s : State) : Host.Outcome State Fault Refusal := exec1 (segParked g) s

def execParkedFrame (g : Fin 8) (s : State) : Host.Outcome State Fault Refusal := exec1 (wakeSegment g true) s

def execSegUnparked (g : Fin 8) (mem : MemView) (s : State) : Host.Outcome State Fault Refusal :=
  exec1 (do if (← getS).segState g = 3 then unparkSegment g mem) s

/-! ### What stops short (R580) -/

/-- Stream items whose input has been cut short, or that have begun on TXO, end truncated. -/
def cutItems : M Unit := do
  forM (← getS).ports fun p => forM p.2.items fun i => do
    match i.entry.bind (← getS).entry with
    | some e =>
      if (e.kind = .egress ∨ e.kind = .bridle) ∧ (!e.digestDone ∨ i.started) then truncItem p.1 i
    | none => pure ()

/-- Staging is drained: a staged item that is not accepted is voided (R29). -/
def voidStaged : M Unit := do
  forM (← getS).ports fun p => forM p.2.items fun i =>
    if i.entry.isNone ∧ !i.skip then voidItem p.1 i lwTruncated else pure ()

/-! ### Descent (R518 to R522) -/

/-- No anchor record is requested or being written, but for records that the store can write no longer. -/
def State.anchorIdle (s : State) : Bool :=
  s.anchor.writing.isNone
    && (s.anchor.reqs.isEmpty || s.grounded || s.pageState 0x25 = pgFault || !s.anchor.scanned || s.anchorKey.isNone)

/-- The work that steps 2 to 5 complete and that other commands carry out has ended: anchor records, commits of Kiln passes
(R377) and overflow entries (R355). -/
def State.settled (s : State) : Bool :=
  s.anchorIdle && s.passes.all (fun p => p.prepared.isEmpty) && s.mem.overflows.isEmpty

/-- No operation is pending that KEYCORE stays on for: a Loose operation, PKE_CMD or CHRON_CMD (R29, R30). -/
def State.keycoreIdle (s : State) : Bool :=
  decide (s.fld U.pke.busy = 0) && decide (s.fld U.chron.busy = 0)
    && (List.range 4).all fun c => s.fld (R.LOOSE_CTX_STAT.BUSY c) = 0

/-- The caches are written back and empty. -/
def flushCaches (v : MemView) : M Unit := do
  writeAll false v
  writeAll true v
  dropLines false fun _ => true
  dropLines true fun _ => true

/-- Step 4: segments, lookup image, key park image and guard key. Answers the bytes written. -/
def parkAll : M Nat := do
  let segs ← (List.range 8).foldlM (fun (n : Nat) g => do
    let st := (← getS).segState g
    if st = 0 ∨ st = 1 then
      match ← parkSegment g with
      | some k => return n + k
      | none =>
        discardSegment g
        setSeg g 0
        return n
    else
      if st = 3 then setSeg g 2
      return n) 0
  let l ← writeLookup
  let k ← keyPark
  loadGuard
  return segs + l + k

/-- Bytes that step 4 may write within the bound. -/
def parkBudget : Nat := 400 * 1024

/-- Switch off what R29 switches off in sleep: trace banks, engine states and generator lose their contents. -/
def domainsOff : M Unit := do
  let s ← getS
  setDomain 3 (!s.inUse.isEmpty)
  setDomain 4 false
  prim (.chron { s.chron with
    bankA := {}, bankB := {}, openAt := none, fillB := false, flushing := false, cut := 0, high := false, openCont := false })
  prim .drawnClear
  prim (.keys { (← getS).keys with attest := [] })
  prim (.passes (s.passes.map fun p => { p with taken := [] }))
  forM (List.range 4) laneOff
  laneRefresh
  prim (.rng { s.rng with r := 0, last := false, run := 0, seeds := [], drbg := none, fifo := [], reseed := false })
  wr R.RNG_STAT.SRC srcOff
  rngRefresh
  setDomain 15 false
  lowerClk .smp

/-- Descent from the end of its drain to the switching off of the domains. -/
def commitPoint (v : MemView) : M Unit := do
  let s ← getS
  if s.power' = pwDescending ∧ s.fld R.POWER_STAT.STEP < 7 then
    if s.fld R.POWER_STAT.STEP < 3 then
      wr R.POWER_STAT.STEP 2
      cutItems
      voidStaged
      wr R.POWER_STAT.STEP 3
    let s1 ← getS
    if s1.settled ∧ s1.keycoreIdle then
      raiseSeal
      let n ← parkAll
      let excess := ceilDiv (n - parkBudget) 1024
      wr R.POWER_EXCESS.KIB excess
      if excess ≠ 0 then
        raise E.POWER.OVER_BUDGET
        unitAlarm 0x05 0
      flushCaches v
      domainsOff
      wr R.POWER_STAT.STEP 7

def execAnchorCommitPoint (mem : MemView) (s : State) : Host.Outcome State Fault Refusal := exec1 (commitPoint mem) s

/-- Microseconds since the descent or ascent in progress began. -/
def State.powerUs (s : State) : Nat := (s.now.toNat - s.power.began) / 1000

/-- A descent completes (R517): ASLEEP, or with LATE_WAKE straight into an ascent. -/
def descentEnd : M Unit := do
  let s ← getS
  if s.power' = pwDescending ∧ s.fld R.POWER_STAT.STEP = 7 then
    wrMax R.POWER_TIMES.DESC_MAX_US s.powerUs
    bump R.POWER_SLEEPS.COUNT
    if s.fld R.POWER_STAT.LATE_WAKE = 1 then
      wr R.POWER_STAT.LATE_WAKE 0
      bump R.POWER_COUNTS.LATE_WAKES
      raise E.POWER.LATE_WAKE
      startAscent
    else
      lowerClk .core
      lowerClk .reg
      wr R.POWER_STAT.STATE pwAsleep
      wr R.POWER_STAT.STEP 0

def execDescentComplete (s : State) : Host.Outcome State Fault Refusal := exec1 descentEnd s

/-! ### Ascent (R523) -/

/-- Every execution in an engine is void: its descriptor is replayed (R564, R583). -/
def voidEngines : M Unit := do
  forM (← getS).queues fun p => forM p.2.descs fun d => match d.entry with
    | some e => if d.phase = .executing ∨ d.phase = .ended ∨ d.doneHeld then do
        voidDesc p.1 d e
        modDesc p.1 d.seq fun x => { x with doneHeld := false, done := 0, written := [] }
        modEntry e fun c => { c with st := .accepted, result := none }
      else pure ()
    | none => pure ()

/-- Every journalled item but the ones that are complete joins the replay. -/
def replayAll : M Unit := do
  let s ← getS
  let es := s.inUse.filter fun p => p.2.kind ≠ .data
    && !(s.allDescs.any fun d => d.entry = some p.1 && d.phase = .done)
  forM es fun p => modEntry p.1 fun c => { c with resumed := false }
  addReplays (es.map (·.1))

/-- Steps 2 to 4 of an ascent: domains, key park image, lookup image and segments. A GROUNDED part restores nothing. -/
def ascentRestore (r : ImageReads) (v : MemView) : M Unit := do
  setDomain 3 true
  keyRestore false r
  let s ← getS
  restoreLookup r
  forM (List.range 8) fun g => if s.power.wereAwake.testBit g ∧ s.segState g = 2 then unparkSegment g v else pure ()
  voidEngines
  replayAll
  wr R.POWER_STAT.STEP 5

/-- The ascent completes once the journal has been replayed. -/
def ascentEnd (r : ImageReads) (v : MemView) : M Unit := do
  let s ← getS
  if s.power' = pwAscending ∧ s.power.ack.contains .core ∧ s.power.ack.contains .reg then
    if s.fld R.POWER_STAT.STEP < 5 then ascentRestore r v
    let s1 ← getS
    if s1.cellar.replay.isEmpty then
      wrMax R.POWER_TIMES.ASC_MAX_US s1.powerUs
      wr R.POWER_STAT.STATE pwAwake
      wr R.POWER_STAT.STEP 0
      raise E.POWER.AWAKE
      modulesReread
      if s1.fld R.POWER_STAT.SLEEP_QUEUED = 1 then
        wr R.POWER_STAT.SLEEP_QUEUED 0
        startDescent

def execAscentComplete (images : ImageReads) (mem : MemView) (s : State) : Host.Outcome State Fault Refusal :=
  exec1 (ascentEnd images mem) s

end Sys2Proof.Machine
end

