-- ==== Sys2Proof/Machine/Resets.lean ====
section
/-! DEFINITION. The resets (R64 to R66, R566): the warm reset in its four steps, OT_PORESET_N and the loss of the TETHER
supply. -/
namespace Sys2Proof.Machine
open Sys2Proof

/-! ### Warm reset, step 2 (R65, R580, R453) -/

/-- No DONE record waits for its answer: its descriptor is about to complete. -/
def State.doneSettled (s : State) : Bool := s.allDescs.all fun d => d.phase ≠ .done || d.doneHeld

/-- A transmit item's output is complete in its staging units, or its MAX_ITEM does not hold it. -/
def computeTx (n : Nat) (id e : Nat) : M Unit := do
  if ← itemWork e false then
    produceTx n id
    match (← getS).item n id with
    | some i => if i.maxItem < itemUnits i.out.length then truncItem n i else modEntry e fun c => { c with st := .computed }
    | none => pure ()

/-- A receive or Bridle item has verified, or ends with its outcome. -/
def computeRx (n : Nat) (i : SItem) (e : Nat) : M Unit := do
  let s ← getS
  if ← itemWork e i.pair.isSome then
    match i.look, s.entry e with
    | .hit c, some x => if i.verdict = .waiting then verifyItem n i c x
    | _, _ => pure ()
    modEntry e fun c => { c with st := .computed }

/-- Every other stream, Bridle and storage item: its output is computed, and nothing of it is sent. -/
def computeItems : M Unit := do
  forM (← getS).ports fun p => forM p.2.items fun i => match i.entry with
    | some e => if i.tx then computeTx p.1 i.id e else computeRx p.1 i e
    | none => pure ()
  forM (← getS).ports fun p => forM p.2.items fun i => modItem p.1 i.id fun x => { x with started := false }
  forM (← getS).units fun u => match u.cellar with
    | some e => if u.status.isSome then modEntry e fun c => { c with st := .computed } else pure ()
    | none => pure ()

/-- Loose operations and commands that have not ended are discarded (R475). -/
def discardLoose : M Unit := forM (List.range 4) fun c => do
  match ((← getS).looseCtx c).busy with
  | .op .. => looseEnd c 0x0051 true
  | .cmd _ => looseEnd c 0x0051 false
  | .idle => pure ()

/-- Descriptors that have been fetched and not accepted are accepted, so that they are journalled; CHEAD and SEQ stay as they
are (R141). One that cannot be accepted yet stays fetched. -/
def acceptFetched (q : Nat) : M Unit := do
  forM (((← getS).descs q).filter fun d => d.entry.isNone) fun _ => acceptDesc q {}

/-- Requests on the memory port that no Cellar entry journals are answered with BUSERR. -/
def answerLoose : M Unit := do
  forM (← getS).txnsInOrder fun p =>
    if 2048 ≤ p.1 then do
      answerTxn p.2 .buserr
      prim (.txn p.1 none)
    else pure ()

/-- Count an abandoned action by code (R597). -/
def abandon (i : Instr) : M Unit := do
  let s ← getS
  let k := (Config.waitCode i).toNat
  prim (.counted k (some (countUp (mget (fun _ => none) s.counted k) s.now)))
  raiseQuiet E.CHRON.DEFERRED

/-- Entries of the AUDIT sink that are on their way find the hold, or are counted; those of TRACE are lost with the banks. -/
def holdWriter : M Unit := do
  let w := (← getS).chron.writer
  prim (.chron { (← getS).chron with writer := [] })
  forM w fun x => do
    let c := (← getS).chron
    if x.audit then
      if holdRoom x.cls c.hold.length then
        prim (.chron { c with hold := c.hold ++ [{ x with entry := { x.entry with held := true } }] })
      else
        let k := x.entry.code.toNat
        prim (.counted k (some (countUp (mget (fun _ => none) (← getS).counted k) x.entry.ts)))

/-- Step 2, once the work that other commands carry out has ended. -/
def drainWork (v : MemView) : M Unit := do
  cutItems
  computeItems
  let s ← getS
  if s.keys.park.isNone ∨ !s.parkSlots.isEmpty ∨ !s.parkNodes.isEmpty then
    let _ ← keyPark
  flushCaches v
  discardLoose
  voidEngines
  forM (List.range 32) acceptFetched
  answerLoose
  forM (← getS).chron.waiting abandon
  holdWriter

/-! ### Warm reset, step 3 (R65, R89) -/

/-- Units of gust windows that TETHER and CELLAR keep: tamper sources, engines and Cellar macros. -/
def keptGusts : List Nat :=
  (List.range 32).map (0x100 + ·) ++ (List.range 2).map (0x400 + ·) ++ (List.range 8).map (0x600 + ·)

/-- Keep the status that follows from what is kept. -/
def refreshAll (far : Bool) : M Unit := do
  cellarOccupancy
  forM (List.range 32) portRefresh
  forM (List.range 32) pairRefresh
  assocRefresh
  keyOccupancy
  cacheRefresh
  overflowRefresh
  kilnRefresh
  laneRefresh
  rngRefresh
  backoffCond
  rootCond
  logFull
  let s ← getS
  setCond E.FRESH.LOST_MODE s.lostMode
  setCond E.TAMPER.GROUNDED s.grounded
  setCondQuiet E.TAMPER.LASTING ((List.range 32).any fun i => s.fld (R.TAMPER_SRC_STAT.LASTING i) = 1)
  setCond E.TIME.INVALID (decide (s.fld R.TIME_STAT.VALID = 0))
  setCond E.TIME.HOLDOVER (decide (s.fld R.TIME_STAT.HOLDOVER = 1))
  setCond E.TIME.DISC_FAR far
  auditLevel
  setCond E.KEYS.LC_FAIL (decide (s.fld R.KEYS_LC.LC_FAIL = 1))

/-- The stream items that the staging banks keep: those that are journalled. -/
def Port.kept (p : Port) : Port :=
  { items := (p.items.filter fun i => i.entry.isSome).map fun i => { i with started := false, held := false, asked := none },
    fillB := p.fillB, lastWord := p.lastWord }

/-- Everything is reset but VBAT, TETHER, CELLAR, the staging banks, the anchor store and the root blocks. -/
def warmReset : M Unit := do
  let s ← getS
  prim .regsKeep
  forM (List.range 8) fun g => wr (R.SEG_EPOCH.EPOCH g) (s.fld (R.SEG_EPOCH.EPOCH g) + 1)
  prim .srstClear
  prim .slowedClear
  prim .shadowsClear
  prim .cmdLateClear
  prim (.gustsKeep keptGusts)
  prim (.time { s.time with nonceAt := none })
  prim (.chron { hold := s.chron.hold, rejected := s.chron.rejected, chain := s.chron.chain, sinceSeal := s.chron.sinceSeal })
  prim (.keys { s.keys with attest := [], attestOf := 0, swapWait := none, swapForce := false })
  loseKeys
  prim (.rng { scrambled := s.rng.scrambled })
  prim .drawnClear
  prim (.cellar { s.cellar with replay := [] })
  prim .assocClear
  prim .parkedClear
  prim .peersClear
  prim .rulesClear
  prim (.lookup {})
  prim .countersClear
  prim (.anchor { times := s.anchor.times })
  forM s.ports fun p => prim (.port p.1 p.2.kept)
  prim (.power { req := s.power.req, ack := s.power.ack, owed := s.power.owed })
  prim (.wake { falseRun := s.wake.falseRun, backoff := s.wake.backoff, episodes := s.wake.episodes })
  prim (.tamper { s.tamper with restored := false })
  forM s.modules fun p => prim (.modInput p.1 { present := p.2.present, bound := p.2.bound })
  forM (List.range 4) fun l => prim (.lane l { fencedAtReset := (s.lane l).fencedAtReset })
  prim (.sched {})
  prim (.engine {})
  prim (.mem { fenced := s.mem.fenced, media := s.mem.media, quar := s.mem.quar, corrected := s.mem.corrected, spent := s.mem.spent })
  prim (.passes (s.passes.map fun p => { p with taken := [] }))
  prim (.units (s.units.filter fun u => u.cellar.isSome))
  prim .looseClear
  prim (.bnd { s.bnd with phase := .resetDone })
  lowerClk .smp
  refreshAll ((s.fld (R.PG_EVT_RAW.EVT 0x02)).testBit E.TIME.DISC_FAR.bit)

/-! ### Warm reset, step 4 (R65, R118, R579) -/

/-- The payload of START (R614). -/
def State.startPayload (s : State) : BitVec 96 := BitVec.ofNat 96 (s.resetCount + s.chron.startAfter * 2 ^ 32)

/-- A start-up begins (R550), whose self-check finds `fails`: its START entry, the first, is put into the hold, where it waits for the RESET_COUNT of the record that
this start-up writes (R589). The START of an earlier start-up that is held still is one of the other held entries now (R597). -/
def startUp (after : Nat) (fails : BitVec 16) : M Unit := do
  wr R.TAMPER_STAT.STARTUP 1
  prim (.tamper { (← getS).tamper with startFails := fails })
  let st ← stamp
  let c := (← getS).chron
  prim (.chron { c with
    startAt := some st, startAfter := after
    hold := c.hold.map fun w => if w.cls = .start then { w with cls := .chronWrite } else w })
  raiseItem st 0x03 (Config.entryReq 0x0010) 0x0010 [(← getS).startPayload] .start true

/-- OT_RESET_N is released: keys are restored, and the journal is replayed. -/
def warmStart (r : WarmStart) : M Unit := do
  let s ← getS
  prim (.bnd { s.bnd with phase := .run, resetLow := false })
  raiseClk .core
  raiseClk .reg
  startUp 1 r.fails
  keyRestore true r.images
  prim (.tamper { (← getS).tamper with restored := true })
  replayAll
  let t ← getS
  forM (List.range 4) fun l =>
    if !(t.lane l).fencedAtReset ∧ !t.cellar.replay.isEmpty then modLane l fun x => { x with replaying := true } else pure ()
  laneRefresh

/-- OT_RESET_N is asserted. Asleep, Otist is at step 3 at once (R66); a life-cycle transition that has not been answered
is abandoned (R452). -/
def resetAssert : M Unit := do
  let s ← getS
  if s.bnd.phase = .run ∧ !s.bnd.mainOff then
    (match s.keys.lc with
    | .burning _ => lcFailed
    | _ => pure ())
    prim (.bnd { s.bnd with phase := .draining, resetLow := true })
    forM (List.range 4) fun l => modLane l fun x => { x with fencedAtReset := x.fenced }
    if s.asleep then
      raiseClk .core
      raiseClk .reg
      warmReset

def execOtResetAssert (s : State) : Host.Outcome State Fault Refusal := exec1 resetAssert s

/-- The drain ends: OT_RESET_DONE rises. Where OT_RESET_N has been released before, step 4 follows at once (R66). -/
def drainDone (r : WarmStart) (v : MemView) : M Unit := do
  let s ← getS
  if s.bnd.phase = .draining ∧ s.settled ∧ s.doneSettled then
    drainWork v
    warmReset
    if !s.bnd.resetLow then warmStart r

def execResetDrainDone (start : WarmStart) (mem : MemView) (s : State) : Host.Outcome State Fault Refusal :=
  exec1 (drainDone start mem) s

/-- OT_RESET_N is released. -/
def resetRelease (r : WarmStart) : M Unit := do
  let s ← getS
  if s.bnd.phase = .resetDone then warmStart r
  else if s.bnd.phase = .draining then prim (.bnd { s.bnd with resetLow := false })

def execOtResetRelease (start : WarmStart) (s : State) : Host.Outcome State Fault Refusal := exec1 (resetRelease start) s

/-! ### OT_PORESET_N and the TETHER supply (R64, R456, R566) -/

/-- The registers of the VBAT log. -/
def vbatLogWords : List Nat := R.TAMPER_LOG_PTR.NEXT.addr :: (List.range 64).map fun w => 0x6200 + 4 * w

/-- Every domain but VBAT is reset, at once and without a drain. A partition that was not UNMOUNTED reads OUTCOME RESET. -/
def coldReset (off : Bool) : M Unit := do
  let s ← getS
  let log := vbatLogWords.map fun a => (a, regWord s.regs a)
  let mounted := (List.range 8).filter fun p => s.fld (R.STOR_PART_CTL.STATE p) ≠ 0
  prim .regsClear
  forM log fun p => wrWord p.1 p.2
  forM mounted fun p => wr (R.STOR_PART_CTL.OUTCOME p) poReset
  prim .srstClear
  prim .slowedClear
  prim .shadowsClear
  prim .cmdLateClear
  prim (.gustsKeep [])
  prim (.time {})
  prim (.chron {})
  forM s.counted fun p => prim (.counted p.1 none)
  prim (.keys {
    vbatA := s.keys.vbatA, vbatB := s.keys.vbatB, markA := s.keys.markA, markB := s.keys.markB, perm := s.keys.perm,
    lfsr := s.keys.lfsr })
  prim .slotsClear
  prim .nodesClear
  prim (.rng {})
  prim .drawnClear
  forM s.inUse fun p => prim (.centry p.1 none)
  prim (.cellar { vbatOpen := s.cellar.vbatOpen })
  prim .assocClear
  prim .parkedClear
  prim .peersClear
  prim .rulesClear
  prim (.lookup {})
  prim .countersClear
  prim (.anchor {})
  prim .portsClear
  prim (.streams {})
  prim (.power {})
  prim (.wake {})
  prim (.tamper { lcVbat := if s.bnd.mainOff then s.tamper.lcVbat else s.fld R.KEYS_LC.STATE, loops := s.tamper.loops, differ := s.tamper.differ, logOrder := s.tamper.logOrder, uncopied := s.tamper.uncopied })
  forM s.modules fun p => prim (.modInput p.1 {})
  forM s.lanes fun p => prim (.lane p.1 {})
  prim (.sched {})
  prim .queuesClear
  prim (.engine {})
  prim (.mem {})
  prim .txnsClear
  prim .rootsClear
  prim (.passes [])
  prim (.units [])
  prim .partsClear
  prim .looseClear
  prim (.bnd { dbgActive := s.bnd.dbgActive, dbgAuth := s.bnd.dbgAuth, mainOff := off || s.bnd.mainOff })

def execOtPoreset (s : State) : Host.Outcome State Fault Refusal := exec1 (coldReset false) s

def execTetherPowerLoss (s : State) : Host.Outcome State Fault Refusal := exec1 (coldReset true) s

end Sys2Proof.Machine
end

