-- ==== Sys2Proof/Machine/StartUp.lean ====
section
/-! DEFINITION. Start-up: the release of OT_PORESET_N (R64, R510, R578), the fuse inputs (R55, R449) and its end (R550, R553,
R589). -/
namespace Sys2Proof.Machine
open Sys2Proof

/-! ### The release of OT_PORESET_N -/

/-- The open-work check (R578). -/
def openWork : M Unit := do
  let s ← getS
  let n := s.cellar.vbatOpen
  let unknown := !s.vbatPresent
  if unknown then wr R.CELLAR_STAT.LOST_UNKNOWN 1 else wr R.CELLAR_STAT.LOST_MAX n
  prim (.cellar { s.cellar with vbatOpen := 0 })
  if n ≠ 0 ∨ unknown then
    let _ ← setEvent E.CELLAR.LOST_POSSIBLE
    auditEntry 0x04 0x0015 [BitVec.ofNat 96 (n + bitAt unknown 12)]

/-- OT_PORESET_N is released: clocks, entropy source, scheduler windows, start-up. Main power is present again. Staging macros that do
not pass their power-up test stay out of service (R179). -/
def poresetRelease (p : PowerUp) : M Unit := do
  let s ← getS
  if s.bnd.phase = .poreset then
    prim (.bnd { s.bnd with phase := .run, mainOff := false })
    raiseClk .core
    raiseClk .reg
    sourcePowerUp p.katOk
    wr R.STRM_MACRO_FENCED.FENCED p.staging.toNat
    prim (.sched {})
    startUp (if s.bnd.mainOff then 2 else 0) p.fails
    prim (.tamper { (← getS).tamper with restored := true })
    openWork
    setCond E.TIME.INVALID true
    rootCond
    laneRefresh
    tenantsRefresh

def execPoresetRelease (tests : PowerUp) (s : State) : Host.Outcome State Fault Refusal :=
  exec1 (poresetRelease tests) s

/-! ### The fuse inputs (R55, R449) -/

/-- The life-cycle state of a word, if its three copies agree on a code. -/
def lcOfWord (w : Word) : Option Nat :=
  let c := bits w.toNat 7 0
  if bits w.toNat 15 8 = c ∧ bits w.toNat 23 16 = c ∧ bits w.toNat 31 24 = 0 then lcState c else none

/-- The inputs have even parity: eight words of the share, and the life-cycle word. -/
def fuseParity (share : BitVec 256) (lc : Word) (par : BitVec 9) : Bool :=
  (List.range 9).all fun k =>
    let w := if k < 8 then (share.toNat / 2 ^ (32 * k)) % 2 ^ 32 else lc.toNat
    (popCount 32 w + b2n (par.getLsbD k)) % 2 = 0

/-- OT_FUSE_VALID rises: the inputs are latched and OT_FUSE_TAKEN rises. -/
def fuseValid (share : BitVec 256) (lc : Word) (par : BitVec 9) : M Unit := do
  let s ← getS
  if s.bnd.phase = .run ∧ !s.tamper.fuseDone then
    prim (.tamper { s.tamper with fuseDone := true })
    prim (.keys { s.keys with fuseA := share, fuseB := 0, fuseHeld := true })
    wr R.KEYS_LC.FUSE_CODE (bits lc.toNat 7 0)
    match lcOfWord lc with
    | some st => wr R.KEYS_LC.STATE st
    | none => pure ()
    rootCond
    debugInField
    if !fuseParity share lc par then startupEvent srcFuse
    if (lcOfWord lc).isNone then startupEvent srcLcWord

def execFuseValid (share : BitVec 256) (lc : Word) (par : BitVec 9) (s : State) : Host.Outcome State Fault Refusal :=
  exec1 (fuseValid share lc par) s

/-- OT_FUSE_SHARE is not zero 64 register clocks after OT_FUSE_TAKEN, or OT_FUSE_VALID is still low after 1 ms. -/
def fuseTimeout : M Unit := do
  let s ← getS
  if s.bnd.phase = .run ∧ !s.bnd.mainOff then
    startupEvent srcFuse

def execFuseTimeout (s : State) : Host.Outcome State Fault Refusal := exec1 fuseTimeout s

/-! ### The end of start-up (R550) -/

/-- Nothing that start-up waits for is left. Without a root, the fixed derivations and the scan run outside start-up. -/
def State.startUpDone (s : State) : Bool :=
  s.bnd.phase = .run && s.fld R.TAMPER_STAT.STARTUP = 1 && s.tamper.fuseDone && s.tamper.restored
    && (s.anchor.scanned || !s.rootUsable)

/-- A VBAT log entry as its registers hold it: sixteen bytes over two chronicle entries. -/
def copyLog (i : Nat) : M Unit := do
  let s ← getS
  let w (k : Nat) : Nat := (regWord s.regs (0x6200 + 16 * i + 4 * k)).toNat
  auditEntry 0x06 0x0039 [BitVec.ofNat 96 (w 0 + w 1 * 2 ^ 32 + w 2 * 2 ^ 64), BitVec.ofNat 96 (w 3)]

/-- The held START entry takes its RESET_COUNT. -/
def startReady : M Unit := do
  let s ← getS
  prim (.chron { s.chron with
    startAt := none
    hold := s.chron.hold.map fun w => if w.cls = .start then { w with entry := { w.entry with payload := s.startPayload } } else w })

/-- Start-up ends: ROOT_ABSENT is decided, START is complete, and the ring takes a SEAL entry (page 0x03); then the supervisor (page 0x06)
runs a self-check (R544) and copies the VBAT log's new entries (R553): the page order of R507. -/
def startUpEnd : M Unit := do
  let s ← getS
  if s.startUpDone then
    if !s.rootOk ∧ s.fielded then startupEvent srcRootAbsent
    wr R.TAMPER_STAT.STARTUP 0
    startReady
    raiseSeal
    selfCheck s.tamper.startFails
    forM (← getS).tamper.uncopied copyLog
    prim (.tamper { (← getS).tamper with uncopied := [] })
    modulesReread

def execStartupEnd (s : State) : Host.Outcome State Fault Refusal := exec1 startUpEnd s

end Sys2Proof.Machine
end

