-- ==== Sys2Proof/Machine/Factory.lean ====
section
/-! DEFINITION. The FACTORY page's production tests (R608 to R611). -/
namespace Sys2Proof.Machine
open Sys2Proof

/-- A command in a life-cycle state that refuses it, or while GROUNDED: `blankOnly` runs in BLANK alone. -/
def State.factoryRefused (s : State) (blankOnly : Bool) : Bool :=
  s.grounded || decide ((if blankOnly then 1 else 2) ≤ s.fld R.KEYS_LC.STATE)

/-- The condition under which MBIST runs a group (R609). -/
def State.mbistMay (s : State) (g : Nat) : Bool :=
  let off (p : Nat) : Bool := decide (s.pageState p = pgOff)
  if g = 0 then
    [0x18, 0x19, 0x1A, 0x1B, 0x1C, 0x1D, 0x30].all off && (s.ports.all fun p => p.2.items.isEmpty) && s.units.isEmpty
  else if g = 1 then s.inUse.isEmpty
  else if g = 2 ∨ g = 3 then off 0x28
  else if g = 4 then off 0x20 && s.assocs.isEmpty
  else if g = 5 then off 0x20 && s.peers.isEmpty
  else if g = 6 then off 0x22
  else if g = 7 then off 0x03
  else s.slots.all fun p => p.2.st = .empty

/-- What a group's macros held is gone. -/
def mbistClear (g : Nat) : M Unit := do
  if g = 2 ∨ g = 3 then dropLines (decide (g = 3)) fun _ => true
  else if g = 6 then
    prim .rulesClear
    prim (.lookup { (← getS).lookup with active := [], shadow := [], built := false })
  else if g = 7 then
    prim (.chron { (← getS).chron with
      bankA := {}, bankB := {}, openAt := none, fillB := false, flushing := false, cut := 0, high := false, openCont := false })
  else if g = 8 then
    prim .slotsClear
    keyOccupancy

/-- MBIST; `fails`: the groups in which a macro mismatches. -/
def mbist (fails : BitVec 9) : M Unit := do
  let s ← getS
  let sel := (List.range 9).filter fun g => (s.fld R.FACTORY_MBIST_SEL.GROUPS).testBit g
  let runs := sel.filter s.mbistMay
  let mask (l : List Nat) : Nat := (l.map fun g => 2 ^ g).sum
  forM runs mbistClear
  wr R.FACTORY_MBIST_RES.SKIPPED (mask (sel.filter fun g => !s.mbistMay g))
  let bad := runs.filter fun g => fails.getLsbD g
  wr R.FACTORY_MBIST_RES.FAIL (mask bad)
  if !bad.isEmpty then raise E.FACTORY.MBIST_FAIL
  cmdEnd U.factory rcOk

/-- LOOP_SCAN; `differs`: at which of the sixteen steps each loop's return differed, loop n in bits 16n + 15 to 16n. -/
def loopScan (differs : BitVec 64) : M Unit := do
  forM (List.range 4) fun n => do
    let l := (List.range 16).filter fun k => differs.getLsbD (16 * n + k)
    wr (R.FACTORY_LOOP_RESULT.MISMATCH n) l.length
    wr (R.FACTORY_LOOP_RESULT.ANY n) (b2n !l.isEmpty)
    wr (R.FACTORY_LOOP_RESULT.FIRST n) (l.headD 0)
  cmdEnd U.factory rcOk

/-- SENSOR_TRIP; `reported`: whether the detector reported within 10 µs. -/
def sensorTrip (arg : Nat) (reported : Bool) : M Unit := do
  if arg = srcVglitch ∨ arg = srcClk32 ∨ arg = srcClkCore ∨ arg = srcTemp then
    wr R.FACTORY_SENSOR_RESULT.REPORTED (b2n reported)
    wr R.FACTORY_SENSOR_RESULT.SRC arg
    cmdEnd U.factory rcOk
  else cmdEnd U.factory rcBadEntry

/-- FUSE_KCV (R611). -/
def fuseKcv : M Unit := do
  let k := (← getS).keys
  wr R.FACTORY_FUSE_KCV.KCV (beAt (aesEnc (beBytes 32 (k.fuseA ^^^ k.fuseB).toNat) kcvBlock) 0 4)
  cmdEnd U.factory rcOk

/-- FACTORY_CMD (R608), with what the tests find. -/
def fxFactoryCmd (op arg : Nat) (fails : BitVec 9) (differs : BitVec 64) (reported : Bool) : M Unit :=
  cmdActive U.factory do
    if (← getS).factoryRefused (op = 4) then
      raise E.FACTORY.REFUSED
      unitAlarm 0x3E 0
      cmdEnd U.factory rcState
    else if op = 1 then mbist fails
    else if op = 2 then loopScan differs
    else if op = 3 then sensorTrip arg reported
    else if op = 4 then fuseKcv
    else cmdEnd U.factory rcBadCmd

/-- A write of FACTORY_CMD. -/
def factoryWrite (rid : BitVec 12) (op arg : Nat) (effect : M Unit) : M Unit :=
  hostWrite (fullWrite rid R.FACTORY_CMD.OP.addr (BitVec.ofNat 32 (op * 2 ^ 28 + arg))) effect

def execMbist (rid : BitVec 12) (fails : BitVec 9) (s : State) : Host.Outcome State Fault Refusal :=
  exec1 (factoryWrite rid 1 0 (fxFactoryCmd 1 0 fails 0 false)) s

def execLoopScan (rid : BitVec 12) (differs : BitVec 64) (s : State) : Host.Outcome State Fault Refusal :=
  exec1 (factoryWrite rid 2 0 (fxFactoryCmd 2 0 0 differs false)) s

def execSensorTrip (rid : BitVec 12) (arg : BitVec 8) (reported : Bool) (s : State) : Host.Outcome State Fault Refusal :=
  exec1 (factoryWrite rid 3 arg.toNat (fxFactoryCmd 3 arg.toNat 0 0 reported)) s

def execFuseKcv (rid : BitVec 12) (s : State) : Host.Outcome State Fault Refusal :=
  exec1 (factoryWrite rid 4 0 (fxFactoryCmd 4 0 0 0 false)) s

end Sys2Proof.Machine
end

