-- ==== Sys2Proof/Machine/FreshCmds.lean ====
section
/-! DEFINITION. The FRESH page's commands and switch records (R294 to R297, R302). -/
namespace Sys2Proof.Machine
open Sys2Proof

/-! ### FRESH_CMD -/

/-- SWITCH_NOW triggers a transmit switch record that is ARMED (R294). -/
def switchNow (i : Nat) : M Unit := do
  let s ← getS
  if s.fld (R.FRESH_SW_CTL.STATE i) ≠ 1 ∨ s.fld (R.FRESH_SW_CTL.DIR i) = 1 then cmdEnd U.fresh rcState
  else match s.byHandle (s.fld (R.FRESH_SW_CTL.HANDLE i)) with
    | none => cmdEnd U.fresh rcNotFound
    | some (loc, ws) =>
      switchTx i loc ws
      cmdEnd U.fresh rcOk

/-- RESYNC raises H of a CAN receive association and clears its window (R302). -/
def resync (h v : Nat) : M Unit := do
  let s ← getS
  match s.byHandle h with
  | none => cmdEnd U.fresh rcNotFound
  | some (loc, ws) =>
    if eKind ws ≠ 2 then cmdEnd U.fresh rcNotFound
    else
      let r := s.rxState (.entry loc) false
      putRxState (.entry loc) { r with h := max r.h v, win := 0 }
      cmdEnd U.fresh rcOk

/-- FRESH_CMD. -/
def fxFreshCmd (op sw h : Nat) : M Unit :=
  cmdActive U.fresh do
    if op = 1 then switchNow sw
    else if op = 2 then resync h ((← getS).fld R.FRESH_VALUE.VALUE)
    else cmdEnd U.fresh rcBadCmd

def execSwitchNow (rid : BitVec 12) (sw : Fin 32) (s : State) : Host.Outcome State Fault Refusal :=
  exec1 (hostWrite (fullWrite rid R.FRESH_CMD.OP.addr (BitVec.ofNat 32 (2 ^ 28 + sw.val * 2 ^ 16))) (fxFreshCmd 1 sw 0)) s

def execResync (rid : BitVec 12) (h : BitVec 13) (s : State) : Host.Outcome State Fault Refusal :=
  exec1 (hostWrite (fullWrite rid R.FRESH_CMD.OP.addr (BitVec.ofNat 32 (2 * 2 ^ 28 + h.toNat))) (fxFreshCmd 2 0 h.toNat)) s

/-! ### Switch records (R295) -/

/-- The handles of a record are installed and of the kind required by DIR. -/
def State.switchOk (s : State) (i : Nat) : Bool :=
  let k := s.kindOf (s.fld (R.FRESH_SW_CTL.HANDLE i))
  if s.fld (R.FRESH_SW_CTL.DIR i) = 0 then k = some 1 || k = some 3
  else (k = some 0 && s.kindOf (s.fld (R.FRESH_SW_AUX.NEW_HANDLE i)) = some 0) || k = some 2

/-- FRESH_SW_CTL written: ARM arms an IDLE record, and its clearing returns any other to IDLE. -/
def fxSwitchCtl (i : Nat) : M Unit := do
  let s ← getS
  let st := s.fld (R.FRESH_SW_CTL.STATE i)
  if s.fld (R.FRESH_SW_CTL.ARM i) = 1 then
    if st = 0 then
      if s.switchOk i then
        wr (R.FRESH_SW_CTL.BAD i) 0
        wr (R.FRESH_SW_CTL.STATE i) 1
      else switchBad i
  else if st ≠ 0 then wr (R.FRESH_SW_CTL.STATE i) 0

def execSwitchArm (rid : BitVec 12) (sw : Fin 32) (value : Word) (s : State) : Host.Outcome State Fault Refusal :=
  exec1 (hostWrite (fullWrite rid (R.FRESH_SW_CTL.STATE sw).addr value) (fxSwitchCtl sw)) s

/-- The overlap timer expires (R295): the old ETH_RX entry is retired, or the CAN_RX entry's slots are to be rewritten. -/
def overlapExpire (i : Nat) : M Unit := do
  let s ← getS
  if s.fld (R.FRESH_SW_CTL.STATE i) = 2 then
    let h := s.fld (R.FRESH_SW_CTL.HANDLE i)
    let c := s.counter h
    if s.kindOf h = some 2 then
      prim (.counter h { c with rewrite := some (s.fld (R.FRESH_SW_SLOTS.NEW_SLOT_A i), s.fld (R.FRESH_SW_SLOTS.NEW_SLOT_B i)) })
    else prim (.counter h { c with retired := true })
    wr (R.FRESH_SW_CTL.STATE i) 3
    switchStamp i
    raise E.FRESH.OVERLAP_END

def execOverlapExpire (sw : Fin 32) (s : State) : Host.Outcome State Fault Refusal :=
  exec1 (waitable (.overlapExpire sw) 0x24 (overlapExpire sw)) s

/-- An accepted item carries the handle. -/
def State.carried (s : State) (h : Nat) : Bool :=
  s.inUse.any fun p => (p.2.kind = .ingress || p.2.kind = .bridle) && (p.2.handleA.toNat = h || p.2.handleB.toNat = h)

/-- The frames of an entry that are not accepted look it up again. -/
def lookAgain (h : Nat) : M Unit := do
  forM (← getS).ports fun p => do
    let hits (i : SItem) : Bool := i.entry.isNone && (match i.look with
      | .hit c => c.handle = h
      | _ => false)
    if p.2.items.any hits then setItems p.1 (((← getS).port p.1).items.map fun i => if hits i then { i with look := .waiting } else i)

/-- The slots of a CAN_RX entry are rewritten once no accepted item carries its handle (R297). -/
def execCanRxSlotRewrite (h : BitVec 13) (s : State) : Host.Outcome State Fault Refusal :=
  exec1 (do
    let s ← getS
    let c := s.counter h.toNat
    match c.rewrite, s.byHandle h.toNat with
    | some (a, b), some (loc, ws) =>
      if s.carried h.toNat then pure ()
      else
        let w3 := setBits (setBits (wordAt ws 3) 24 16 a) 8 0 b
        setAssoc loc (setWordAt (setWordAt ws 3 w3) 0 (setBits (wordAt ws 0) 7 0 (eGen ws + 1)))
        prim (.counter h.toNat { c with rewrite := none })
        lookAgain h.toNat
    | _, _ => pure ()) s

end Sys2Proof.Machine
end

