-- ==== Sys2Proof/Machine/Loose.lean ====
section
/-! DEFINITION. The Loose block service (chapter 14): one AES block per operation on a context, and saving and restoring
a context. -/
namespace Sys2Proof.Machine
open Sys2Proof

/-! ### Mode words (R468, R469) -/

/-- A mode word that R472 accepts. -/
def modeOk (m : Nat) : Bool := decide (bits m 30 29 ≠ 3 ∧ bits m 26 25 ≠ 3 ∧ bits m 13 0 = 0)

/-- The step of a chaining word (INC). -/
def stepWord (inc : Nat) (w : Bytes) : Bytes :=
  if inc = 1 then w.take 12 ++ beBytes 4 ((beAt w 12 4 + 1) % 2 ^ 32)
  else if inc = 2 then beBytes 16 ((beNat w + 1) % 2 ^ 128)
  else if inc = 3 then xtsNext w
  else w

/-- One operation: OUT and the chaining words after it (R469). -/
def looseBlockOp (key : Bytes) (m : Nat) (inp : Bytes) (st : List Bytes) : Bytes × List Bytes :=
  let sw (i : Nat) : Bytes := st.getD i (zeros 16)
  let x := if bits m 30 29 = 0 then inp else if bits m 30 29 = 1 then xorBytes inp (sw (bits m 28 27)) else sw (bits m 28 27)
  let y := if m.testBit 31 then aesDec key x else aesEnc key x
  let out := if bits m 26 25 = 0 then y else if bits m 26 25 = 1 then xorBytes y (sw (bits m 24 23)) else xorBytes y inp
  let u := bits m 19 18
  let v := if u = 0 then inp else if u = 1 then out else if u = 2 then y else xorBytes inp out
  let st1 := if m.testBit 22 then st.set (bits m 21 20) v else st
  let k := bits m 15 14
  (out, st1.set k (stepWord (bits m 17 16) (st1.getD k (zeros 16))))

/-- The chaining words of a context. -/
def State.looseState (s : State) (c : Nat) : List Bytes :=
  (List.range 4).map fun k => s.looseBlock R.LOOSE_CTX_STATE.WORD c k

/-! ### Operations (R470 to R473) -/

/-- OVERRUN (R471, R476). -/
def looseOverrun (c : Nat) : M Unit := do
  wr (R.LOOSE_CTX_STAT.OVERRUN c) 1
  raise E.LOOSE.OVERRUN

/-- The checks of R472, in order: the status, or the bank that the operation uses. -/
def State.looseCheck (s : State) (c : Nat) : Except Nat Bank :=
  let m := s.fld (R.LOOSE_CTX_MODE.MODE c)
  let n := s.fld (R.LOOSE_CTX_KEY.SLOT c)
  if s.grounded then .error 0x0050
  else if s.noLane then .error 0x0051
  else if !modeOk m then .error 0x0010
  else if s.fld (R.LOOSE_CTX_KEY.BOUND c) ≠ 1 then .error 0x0020
  else match s.useKey n { types := [0x01, 0x02], engine := some .loose, enc := some !(m.testBit 31) } with
    | .error e => .error e.status
    | .ok b => if b.kcv.toNat = s.fld (R.LOOSE_CTX_KCV.KCV c) then .ok b else .error 0x0024

/-- A GO written (R470, R471); a descent closes the page to it (R518). -/
def fxLooseGo (c : Nat) : M Unit := do
  let s ← getS
  if !s.active 0x38 ∨ s.shut then pure ()
  else if s.fld (R.LOOSE_CTX_STAT.BUSY c) = 1 then looseOverrun c
  else
    wr (R.LOOSE_CTX_STAT.BUSY c) 1
    match s.looseCheck c with
    | .error st => looseEnd c st true
    | .ok b =>
      dropWork (.loose c)
      let n := s.fld (R.LOOSE_CTX_KEY.SLOT c)
      prim (.loose c { s.looseCtx c with
        busy := .op ⟨n, gen16 b⟩ (BitVec.ofNat 32 (s.fld (R.LOOSE_CTX_MODE.MODE c)))
          (s.looseBlock R.LOOSE_CTX_IN.WORD c 0) (s.looseState c) })
      countUse n

/-! ### Save and restore (R476 to R482) -/

/-- The record's header (R477). -/
def State.looseHeader (s : State) (c kind : Nat) (wkcv : Nat) (iv : Bytes) : Bytes :=
  leBytes 2 0xB416 ++ [0x01, BitVec.ofNat 8 kind] ++ leBytes 2 (s.fld (R.LOOSE_CTX_KEY.SLOT c)) ++ zeros 2
    ++ leBytes 4 (s.fld (R.LOOSE_CTX_MODE.MODE c)) ++ beBytes 4 (s.fld (R.LOOSE_CTX_KCV.KCV c)) ++ beBytes 4 wkcv ++ iv

/-- The save area, its bits [3:0] taken as zero. -/
def State.looseArea (s : State) (c : Nat) : Nat := s.fld (R.LOOSE_CTX_SAVE.ADDR c) / 16 * 16

/-- Write a record and end the command. -/
def looseSave (c : Nat) (d : Dram) (rec : Bytes) : M Unit := do
  let ok ← dramWrite d ((← getS).looseArea c) rec
  looseEnd c (if ok then 0 else 0x0040) false

/-- What a wrapped save or restore needs of the wrap key (R478, R480). -/
def wrapNeed (enc : Bool) : KeyNeed :=
  { types := [0x02], engine := some .loose, use := some useCtxWrap, enc := some enc }

/-- SAVE_CLEAR. -/
def looseSaveClear (c : Nat) (d : Dram) : M Unit := do
  let s ← getS
  if (s.fld R.LOOSE_CFG.PRIVATE).testBit c then looseEnd c 0x0021 false
  else looseSave c d (s.looseHeader c 1 0 (zeros 12) ++ (s.looseState c).flatten)

/-- SAVE_WRAP; it waits while its IV counter waits for a ceiling. -/
def looseSaveWrap (c : Nat) (d : Dram) : M Unit := do
  let s ← getS
  let w := s.fld (R.LOOSE_CTX_KEY.WSLOT c)
  match s.useKey w (wrapNeed true) with
  | .error e => looseEnd c e.status false
  | .ok b => match ← reserveInv w with
    | .exhausted => looseEnd c 0x0031 false
    | .waits =>
      countCeilWait (decide ((s.looseCtx c).busy = .cmd 2))
      prim (.loose c { s.looseCtx c with busy := .cmd 2 })
    | .value v =>
      countUse w
      laneWork 7 5
      let iv := beBytes 4 0x4C435458 ++ beBytes 8 v
      let h := s.looseHeader c 2 b.kcv.toNat iv
      let (ct, tag) := gcmSeal b.material iv h (s.looseState c).flatten
      looseSave c d (h ++ ct ++ tag)

/-- The context is loaded from a record that passed every check (R480). -/
def looseLoad (c : Nat) (rec st : Bytes) : M Unit := do
  wr (R.LOOSE_CTX_KEY.SLOT c) (leAt rec 4 2)
  wr (R.LOOSE_CTX_KEY.BOUND c) 1
  wr (R.LOOSE_CTX_KCV.KCV c) (beAt rec 12 4)
  wr (R.LOOSE_CTX_MODE.MODE c) (leAt rec 8 4)
  forM (List.range 4) fun k => putBlock R.LOOSE_CTX_STATE.WORD c k (slice st (16 * k) 16)
  putBlock R.LOOSE_CTX_IN.WORD c 0 (zeros 16)
  putBlock R.LOOSE_CTX_OUT.WORD c 0 (zeros 16)
  looseEnd c 0 false

/-- AUTH_FAIL of a RESTORE; under G4 compatibility the context is zeroed (R482). -/
def looseAuthFail (c : Nat) : M Unit := do
  if ((← getS).fld R.LOOSE_CFG.COMPAT).testBit c then
    forM (List.range 4) fun k => putBlock R.LOOSE_CTX_STATE.WORD c k (zeros 16)
    putBlock R.LOOSE_CTX_IN.WORD c 0 (zeros 16)
    putBlock R.LOOSE_CTX_OUT.WORD c 0 (zeros 16)
    wr (R.LOOSE_CTX_MODE.MODE c) 0
    wr (R.LOOSE_CTX_KCV.KCV c) 0
    wr (R.LOOSE_CTX_KEY.BOUND c) 0
  raise E.LOOSE.AUTH_FAIL
  looseEnd c 0x0001 false

/-- The record's slot holds the key it names (R480). -/
def State.looseKeyThere (s : State) (rec : Bytes) : Bool :=
  decide (leAt rec 4 2 < 512) && (match (s.slot (leAt rec 4 2)).active with
    | some b => b.kcv.toNat = beAt rec 12 4
    | none => false)

/-- A record's format (R480, first check). -/
def looseFormatOk (rec : Bytes) (wrapped : Bool) : Bool :=
  decide (leAt rec 0 2 = 0xB416) && rec.getD 2 0 = 0x01 && (rec.getD 3 0 = 0x01 || rec.getD 3 0 = 0x02)
    && slice rec 6 2 = zeros 2 && (wrapped || slice rec 16 16 = zeros 16) && modeOk (leAt rec 8 4)

/-- RESTORE. -/
def looseRestore (c : Nat) (d : Dram) : M Unit := do
  let s ← getS
  match ← readDram d (s.looseArea c) 96 with
  | none => looseEnd c 0x0040 false
  | some r96 =>
    let wrapped := decide (r96.getD 3 0 = 0x02)
    match (← readDram d (s.looseArea c + 96) (if wrapped then 16 else 0)).map (r96 ++ ·) with
    | none => looseEnd c 0x0040 false
    | some rec =>
      if !looseFormatOk rec wrapped then looseEnd c 0x0010 false
      else if !wrapped then
        if s.looseKeyThere rec then looseLoad c rec (slice rec 32 64) else looseEnd c 0x0024 false
      else
        let w := s.fld (R.LOOSE_CTX_KEY.WSLOT c)
        match s.useKey w (wrapNeed false) with
        | .error e => looseEnd c e.status false
        | .ok b =>
          countUse w
          laneWork 7 5
          let iv := slice rec 20 12
          if beAt rec 16 4 ≠ b.kcv.toNat then looseEnd c 0x0010 false
          else if gcmTag b.material iv (rec.take 32) (slice rec 32 64) ≠ slice rec 96 16 then looseAuthFail c
          else if !s.looseKeyThere rec then looseEnd c 0x0024 false
          else looseLoad c rec (gcmOpen b.material iv (slice rec 32 64))

/-- Run a command of a context. One that may need a lane waits while none is in service (R117, R129). -/
def looseRun (c op : Nat) (d : Dram) : M Unit := do
  let s ← getS
  if op = 1 then looseSaveClear c d
  else if (op = 2 ∨ op = 3) ∧ s.laneCount = 0 then prim (.loose c { s.looseCtx c with busy := .cmd op })
  else if op = 2 then looseSaveWrap c d
  else if op = 3 then looseRestore c d
  else looseEnd c 0x0010 false

/-- A command written (R476). -/
def fxLooseCmd (c op : Nat) (d : Dram) : M Unit := do
  let s ← getS
  let x := s.looseCtx c
  if !s.active 0x38 then pure ()
  else match x.busy with
    | .idle =>
      wr (R.LOOSE_CTX_STAT.BUSY c) 1
      looseRun c op d
    | .op .. =>
      if x.waiting.isSome then looseOverrun c else prim (.loose c { x with waiting := some op })
    | .cmd _ => looseOverrun c

/-! ### Commands -/

/-- Write LOOSE_CTX_KEY (R467); while an operation runs, the binding follows at its completion (R471). -/
def fxLooseKey (c : Nat) : M Unit := do
  match ((← getS).looseCtx c).busy with
  | .op .. => pure ()
  | _ => looseBind c

def execLooseCtxKey (rid : BitVec 12) (c : Fin 4) (value : Word) (s : State) : Host.Outcome State Fault Refusal :=
  exec1 (hostWrite (fullWrite rid (R.LOOSE_CTX_KEY.SLOT c).addr value) (fxLooseKey c)) s

/-- LOOSE_CTX_GO.GO written 1. -/
def execGo (rid : BitVec 12) (c : Fin 4) (s : State) : Host.Outcome State Fault Refusal :=
  exec1 (hostWrite (fullWrite rid (R.LOOSE_CTX_GO.GO c).addr 1) (fxLooseGo c)) s

/-- An operation completes: OUT, the chaining words and the status in one clock (R470); then a command that waits
runs (R476). -/
def execLooseDone (c : Fin 4) (dram : Dram) (s : State) : Host.Outcome State Fault Refusal :=
  exec1 (waitable (.looseDone c dram) 0x38 do
    let x := (← getS).looseCtx c
    match x.busy with
    | .idle => pure ()
    | .cmd op => looseRun c op dram
    | .op k m inp st => match (← getS).bankOf k with
      | none => pure ()
      | some b => if ← finishWork (.loose c) then
        dropWork (.loose c)
        let (out, st1) := looseBlockOp b.material m.toNat inp st
        putBlock R.LOOSE_CTX_OUT.WORD c 0 out
        forM (List.range 4) fun i => putBlock R.LOOSE_CTX_STATE.WORD c i (st1.getD i (zeros 16))
        looseEnd c 0 true
        match x.waiting with
        | none => pure ()
        | some op =>
          prim (.loose c { (← getS).looseCtx c with waiting := none })
          wr (R.LOOSE_CTX_STAT.BUSY c) 1
          looseRun c op dram) s

/-- LOOSE_CTX_CMD, by its operation code. -/
def looseCmdWrite (rid : BitVec 12) (c : Fin 4) (op : Nat) (dram : Dram) : M Unit :=
  hostWrite (fullWrite rid (R.LOOSE_CTX_CMD.OP c).addr (BitVec.ofNat 32 (op * 2 ^ 28))) (fxLooseCmd c op dram)

def execSaveClear (rid : BitVec 12) (c : Fin 4) (dram : Dram) (s : State) : Host.Outcome State Fault Refusal :=
  exec1 (looseCmdWrite rid c 1 dram) s

def execSaveWrap (rid : BitVec 12) (c : Fin 4) (dram : Dram) (s : State) : Host.Outcome State Fault Refusal :=
  exec1 (looseCmdWrite rid c 2 dram) s

def execRestore (rid : BitVec 12) (c : Fin 4) (dram : Dram) (s : State) : Host.Outcome State Fault Refusal :=
  exec1 (looseCmdWrite rid c 3 dram) s

end Sys2Proof.Machine
end

