-- ==== Sys2Proof/Machine/Kiln.lean ====
section
/-! DEFINITION. Kiln (R358 to R378): starting a pass, its chunks, prepares and commits, its end; and TREE_CMD (R381). -/
namespace Sys2Proof.Machine
open Sys2Proof

/-! ### KILN_CMD (R360, R374) -/

/-- The staged configuration of a region. -/
def State.staged (s : State) (n : Nat) : RegionCfg :=
  { s.regionCfg n with
    size := s.fld R.KILN_NEW_SIZE.UNITS, kslot := s.fld R.KILN_NEW_KEY.KSLOT, mslot := s.fld R.KILN_NEW_KEY.MSLOT,
    metaAddr := s.fld R.KILN_NEW_META.ADDR, mirror := s.fld R.KILN_NEW_MIRROR.ADDR }

/-- A staged pass changes a key that its mode uses. -/
def keysChange (old new : RegionCfg) : Bool := old.kslot ≠ new.kslot || (decide (2 ≤ old.mode) && old.mslot ≠ new.mslot)

/-- Its kind, once it changes something. -/
def kindOf' (old new : RegionCfg) : PassKind :=
  if keysChange old new then (if old.size = new.size then .rekey else .rekeyGrow) else .grow

/-- The cases of BAD_ENTRY (R360). -/
def State.startBad (s : State) (n : Nat) (old new : RegionCfg) : Bool :=
  let data := (new.baseAddr, new.size * 4096)
  let all (m : Nat) : List (Nat × Nat) := s.dataRange m :: s.metaAreas m
  old.mode = mdClear || (!keysChange old new && old.size = new.size)
    || (decide (old.mode = mdTree) && (old.kslot = new.kslot || old.mslot = new.mslot
      || s.kcvOf old.kslot = s.kcvOf new.kslot || s.kcvOf old.mslot = s.kcvOf new.mslot))
    || decide (new.size < old.size ∨ 0x100000 < new.size ∨ 2 ^ 40 < new.baseAddr + new.size * 4096)
    || ((s.others n).any fun m => (all m).any (overlaps data))
    || (decide (old.mode = mdTree) && decide (1048576 < new.size + s.treeUnits n))
    || (new.areas.any fun a => overlaps a data || old.areas.any (overlaps a)
      || (s.others n).any fun m => (all m).any (overlaps a))
    || s.keysBad new.mode new.kslot new.mslot

/-- START. -/
def kilnStart : M Unit := do
  let s ← getS
  let n := s.fld R.KILN_PASS.REGION
  let old := s.regionCfg n
  let new := s.staged n
  let bad (code : Nat) : M Unit := do
    raise E.KILN.START_BAD
    cmdEnd U.kiln code
  if !s.active 0x2C then bad rcNotActive
  else if s.rgnState n ≠ pgActive ∨ s.fld (R.MEMRGN_CTL.BAD n) = 1 ∨ s.fld (R.MEMRGN_CTL.RESTING n) = 1
      ∨ s.fld (R.MEMRGN_CTL.POISONED n) = 1 ∨ (s.passes.any fun p => p.kind ≠ .format) then bad rcState
  else if s.startBad n old new then bad rcBadEntry
  else
    setPasses (s.passes ++ [{ region := n, kind := kindOf' old new, old := old, new := new, root := blkZero }])
    pageEntry 0x2C 0x0034 [← freshPayload, ← freshPayload]
    cmdEnd U.kiln rcOk

/-- Change the pass that KILN_CMD acts on; STATE if there is none. -/
def withPass (f : Pass → M Unit) : M Unit := do
  match (← getS).shownPass with
  | none => cmdEnd U.kiln rcState
  | some p => f p

/-- Replace the pass in progress. -/
def setPass (p : Pass) : M Unit := do setPasses (p :: (← getS).passes.drop 1)

def kilnPause (b : Bool) : M Unit := withPass fun p => do
  setPasses ((← getS).passes.map fun x => if x = p then { p with paused := b } else x)
  cmdEnd U.kiln rcOk

/-- DISCARD: only while the pass's region is OFF. -/
def kilnDiscard : M Unit := withPass fun p => do
  if (← getS).rgnState p.region ≠ pgOff then cmdEnd U.kiln rcState
  else
    dropHeld p.region true
    setPasses ((← getS).passes.filter fun x => x ≠ p)
    raise E.KILN.PASS_END
    cmdEnd U.kiln rcOk

/-- KILN_CMD. -/
def fxKilnCmd (op : Nat) : M Unit :=
  if op = 1 then cmdStart U.kiln kilnStart
  else cmdActive U.kiln do
    if op = 2 then kilnPause true
    else if op = 3 then kilnPause false
    else if op = 4 then kilnDiscard
    else cmdEnd U.kiln rcBadCmd

def kilnCmd (rid : BitVec 12) (op : Nat) (s : State) : Host.Outcome State Fault Refusal :=
  exec1 (hostWrite (fullWrite rid R.KILN_CMD.OP.addr (BitVec.ofNat 32 (op * 2 ^ 28))) (fxKilnCmd op)) s

def execStart (rid : BitVec 12) (s : State) : Host.Outcome State Fault Refusal := kilnCmd rid 1 s
def execPause (rid : BitVec 12) (s : State) : Host.Outcome State Fault Refusal := kilnCmd rid 2 s
def execKilnResume (rid : BitVec 12) (s : State) : Host.Outcome State Fault Refusal := kilnCmd rid 3 s
def execDiscard (rid : BitVec 12) (s : State) : Host.Outcome State Fault Refusal := kilnCmd rid 4 s

/-! ### Chunks (R364, R365, R368, R372) -/

/-- The walker works: the pass in progress, not paused, waits for nothing and Otist is not drained. -/
def State.walking (s : State) : Option Pass := match s.passes with
  | p :: _ => if !p.paused && s.passWait p = 0 && !s.shut then some p else none
  | [] => none

/-- The new L0 block and the nodes whose first chunk this is, dirty, highest level first (R364). -/
def newBlocks (d : Side) (chunk : Nat) (v : MemView) : M Unit := do
  let km := (← getS).macKey d
  forM ((List.range (d.top + 1)).reverse) fun l =>
    if chunk % 64 ^ l = 0 then dirtyBlock d km v l (chunk / 64 ^ l) blkZero else pure ()

/-- COPY: the chunk's 8 tag lines become dirty entries at the new area's addresses. -/
def copyTags (old new : Side) (chunk : Nat) (v : MemView) : M Unit :=
  forM (List.range 8) fun i => do
    let t ← fetchTags old (8 * chunk + i) v
    putCache true ⟨new.n, true, 0, 8 * chunk + i, t, true⟩
    if (← getS).banks true < 2 then writeTags new (8 * chunk + i)

/-- KILN_CFG.LINES as taken. -/
def State.kilnLines (s : State) : Nat := max 1 (min 8 (s.fld R.KILN_CFG.LINES))

/-- A transaction accepted on the old side of a line is in flight; of a line of the chunk in progress. -/
def State.oldInFlight (s : State) (n a : Nat) : Bool := s.mem.txns.any fun p => match p.2 with
  | some t => t.region = some n && t.line = a && !t.newSide
  | none => false
def State.oldInChunk (s : State) (p : Pass) : Bool :=
  (List.range 64).any fun k => s.oldInFlight p.region (p.new.baseAddr + p.bound * 4096 + 64 * k)

/-- Lines that the walker may begin to prepare, in ascending order. -/
def Pass.idleLines (p : Pass) : List Nat := (List.range 64).filter fun k =>
  !p.doneBits.getLsbD k && !(p.prepared.any fun x => x.line = k) && !(p.taken.any fun x => x.1 = k)

/-- Begin as many prepares of a TREE pass as KILN_CFG.LINES leaves room for: each takes its line's next minor (R321, R366). A prepare
in another mode takes nothing when it begins. -/
def startPrepares (v : MemView) : M Unit := do
  let s ← getS
  match s.walking with
  | none => pure ()
  | some p =>
    if p.new.mode = mdTree ∧ p.started.isSome ∧ (s.passStep p = 0 ∨ s.passStep p = 2) then
      let d := s.newSide p.region
      forM (p.idleLines.take (s.kilnLines - p.prepared.length - p.taken.length)) fun k => do
        let c ← takeCounter d (s.slotKey d.c.mslot) (d.c.baseAddr + p.bound * 4096 + 64 * k) v
        match (← getS).passes with
        | x :: _ => setPass { x with taken := x.taken ++ [(k, c.2)] }
        | [] => pure ()

/-- The walker starts the next chunk. A COPY waits for what was accepted on the old side of the chunk (R363). -/
def chunkStart (v : MemView) : M Unit := do
  let s ← getS
  match s.walking with
  | none => pure ()
  | some p =>
    if p.started.isSome ∨ p.new.size ≤ p.bound then pure ()
    else
      let step := s.passStep p
      let n := p.region
      if step = 1 ∧ s.oldInChunk p then pure ()
      else
        setPass { p with started := some s.now.toNat, lastStart := s.now.toNat, doneBits := 0, taken := [] }
        if step = 3 then chunkDone n
        else if step = 1 then
          copyTags (s.oldSide n) (s.newSide n) p.bound v
          chunkDone n
        else if p.new.mode = mdTree then
          newBlocks (s.newSide n) p.bound v
          startPrepares v

def execKilnChunkStart (mem : MemView) (s : State) : Host.Outcome State Fault Refusal := exec1 (chunkStart mem) s

/-! ### Lines (R363, R366, R369) -/

/-- The plaintext that a prepare encrypts: zeros for FORMAT, and for a line that fails (R369). -/
def preparePlain (n a : Nat) (transform : Bool) (v : MemView) : M Bytes := do
  if !transform then return zeros 64
  else
    let s ← getS
    let d := s.oldSide n
    let w : Who := { region := n, addr := a }
    let failed : M Unit := do
      let _ ← addMedia (spanOf a) (BitVec.ofNat 8 (2 ^ (a / 64 % 8)))
      bump R.KILN_LINES_FAILED.COUNT
      raise E.KILN.LINE_FAILED
    match ← readLine d (s.slotKey d.c.kslot) (s.slotKey d.c.mslot) a false v with
    | .good pt => return pt
    | .tag _ =>
      failed
      integFail w none false
      return zeros 64
    | .block l _ =>
      failed
      integFail w (some l) false
      return zeros 64
    | .media =>
      failed
      mediaFail w
      return zeros 64

/-- Lane blocks of a line (R332). -/
def Side.lineBlocks (d : Side) : Nat :=
  if d.c.mode = mdClear then 0 else if d.c.mode = mdTag then 6 else 5

/-- A prepare of a line ends: its result is committed, or discarded where the done bit is set; the minor that it took is not used
again. A line whose prepare has not begun takes its minor now. DESIGN CHOICE (log entry 77): the model has no event for the clock in
which a prepare takes its minor, so it takes it when it begins; and one that the new tree gives no counter sets the done bit. -/
def prepareDone (k : Nat) (v : MemView) : M Unit := do
  let s ← getS
  match s.walking with
  | none => pure ()
  | some p =>
    let n := p.region
    let d := s.newSide n
    let a := d.c.baseAddr + p.bound * 4096 + 64 * k
    let step := s.passStep p
    let begun := p.taken.find? fun x => x.1 = k
    let others := p.taken.filter fun x => x.1 ≠ k
    if p.started.isNone ∨ (step ≠ 0 ∧ step ≠ 2) ∨ s.kilnLines ≤ p.prepared.length + others.length
        ∨ (p.prepared.any fun x => x.line = k) ∨ s.oldInFlight n a ∨ s.laneCount = 0 then pure ()
    else if p.doneBits.getLsbD k then
      if begun.isSome then
        setPass { p with taken := others }
        startPrepares v
    else
      laneWork 6 ((if step = 0 then (s.oldSide n).lineBlocks else 0) + d.lineBlocks)
      let pt ← preparePlain n a (decide (step = 0)) v
      let c ← (match begun with
        | some x => return x.2
        | none => do return (← takeCounter d (s.slotKey d.c.mslot) a v).2)
      match (← getS).passes with
      | x :: _ => setPass { x with taken := others }
      | [] => pure ()
      match sealUnder d (s.slotKey d.c.kslot) (s.slotKey d.c.mslot) a pt c with
      | .ok ct tag _ _ =>
        putLine a ct
        match (← getS).passes with
        | x :: _ => setPass { x with prepared := x.prepared ++ [⟨k, tag⟩] }
        | [] => pure ()
      | .block l =>
        integFail { region := n, addr := a } (some l) false
        setDone n a
        startPrepares v
      | _ =>
        setDone n a
        startPrepares v

def execKilnPrepareDone (line : Fin 64) (mem : MemView) (s : State) : Host.Outcome State Fault Refusal :=
  exec1 (prepareDone line mem) s

/-- The write of a commit has answered: with OKAY the tag is placed and the done bit set, and the hold ends. `waited`: the
longest wait of an access for it, in ns (R371). -/
def commitDone (k : Nat) (ok : Bool) (waited : Nat) (v : MemView) : M Unit := do
  let s ← getS
  match s.passes with
  | [] => pure ()
  | p :: _ =>
    let n := p.region
    match p.prepared.find? fun x => x.line = k with
    | none => pure ()
    | some x =>
      let d := s.newSide n
      let a := d.c.baseAddr + p.bound * 4096 + 64 * k
      wrMax R.KILN_STALL.MAX_NS waited
      setPass { p with prepared := p.prepared.filter fun y => y ≠ x }
      if ok then
        let failed := s.mediaBit a && s.passStep p = 0
        if 2 ≤ d.c.mode then storeTag d a x.tag v else clearMedia a
        if failed then
          let _ ← addMedia (spanOf a) (BitVec.ofNat 8 (2 ^ (a / 64 % 8)))
        setDone n a
      startPrepares v

def execKilnCommitDone (line : Fin 64) (ok : Bool) (waited : BitVec 16) (mem : MemView) (s : State) :
    Host.Outcome State Fault Refusal :=
  exec1 (commitDone line ok waited.toNat mem) s

/-! ### Completion (R373) -/

/-- MAJOR_HIGH is held while any region has it set. -/
def majorRefresh : M Unit := do
  let s ← getS
  setCond E.MEM.MAJOR_HIGH ((List.range 16).any fun n => s.fld (R.MEMRGN_STAT.MAJOR_HIGH n) = 1)

/-- The new side of a region becomes the only one. -/
def adoptNew (n : Nat) : M Unit := do
  let own (l : List CacheLine) : List CacheLine :=
    (l.filter fun x => !(x.region = n && !x.newTree)).map fun x => if x.region = n then { x with newTree := false } else x
  let s ← getS
  prim (.mem { s.mem with
    ctr := own s.mem.ctr, tag := own s.mem.tag,
    overflows := (s.mem.overflows.filter fun o => !(o.region = n && !o.newTree)).map fun o =>
      if o.region = n then { o with newTree := false } else o,
    spent := (s.mem.spent.filter fun o => !(o.1 = n && !o.2.1)).map fun o => if o.1 = n then (n, false, o.2.2) else o,
    quar := s.mem.quar.map fun q => match q with
      | some x => if x.region = n then (if x.newTree then some { x with newTree := false } else none) else some x
      | none => none })
  cacheRefresh
  overflowRefresh

/-- The walk has passed the last chunk of the new size. -/
def passComplete (v : MemView) : M Unit := do
  let s ← getS
  match s.passes with
  | [] => pure ()
  | p :: rest =>
    if p.bound < p.new.size ∨ !p.prepared.isEmpty ∨ p.paused ∨ s.passWait p ≠ 0 then pure ()
    else
      let n := p.region
      let d := s.newSide n
      forM (List.range 4) fun l => do
        forM (← getS).mem.ctr fun x =>
          if x.dirty ∧ x.region = n ∧ x.newTree ∧ x.level = l then writeBack d (s.macKey d) v treeFuel l x.index else pure ()
      forM (← getS).mem.tag fun x =>
        if x.dirty ∧ x.region = n ∧ x.newTree then writeTags d x.index else pure ()
      let root := ((← getS).root' n true).getD blkZero
      if p.new.mode = mdTree then writeShadow d root
      wr (R.MEMRGN_KEY.KSLOT n) p.new.kslot
      wr (R.MEMRGN_KEY.MSLOT n) p.new.mslot
      wr (R.MEMRGN_SIZE.UNITS n) p.new.size
      wr (R.MEMRGN_META.ADDR n) p.new.metaAddr
      wr (R.MEMRGN_MIRROR.ADDR n) p.new.mirror
      if p.new.mode = mdTree then
        setRoot n false root
        wr (R.MEMRGN_STAT.MAJOR_HIGH n) 0
        majorRefresh
      adoptNew n
      setPasses rest
      raiseNamed E.KILN.PASS_DONE 0x0035 [← freshPayload, ← freshPayload]

def execKilnPassComplete (mem : MemView) (s : State) : Host.Outcome State Fault Refusal := exec1 (passComplete mem) s

/-! ### TREE_CMD -/

/-- TREE_CMD READ loads a quarantine entry. -/
def fxTreeCmd (op i : Nat) : M Unit :=
  cmdActive U.tree do
    if op ≠ 1 then cmdEnd U.tree rcBadCmd
    else
      let q := (← getS).mem.quar.getD i none
      wr R.TREE_QUAR_ENTRY.VALID (b2n q.isSome)
      wr R.TREE_QUAR_ENTRY.REGION ((q.map Quar.region).getD 0)
      wr R.TREE_QUAR_ENTRY.LEVEL ((q.map Quar.level).getD 0)
      wr R.TREE_QUAR_ENTRY.INDEX ((q.map Quar.index).getD 0)
      wr R.TREE_QUAR_TS.TS ((q.map fun x => x.stamp.ts.toNat).getD 0)
      cmdEnd U.tree rcOk

def execTreeRead (rid : BitVec 12) (index : Fin 32) (s : State) : Host.Outcome State Fault Refusal :=
  exec1 (hostWrite (fullWrite rid R.TREE_CMD.OP.addr (BitVec.ofNat 32 (2 ^ 28 + index.val))) (fxTreeCmd 1 index)) s

end Sys2Proof.Machine
end

