-- ==== Sys2Proof/Machine/Pages.lean ====
section
/-! DEFINITION. The state table of the pages (R86 to R89): enable, disable, drains, soft reset (R98) and seal (R82, R85). -/
namespace Sys2Proof.Machine
open Sys2Proof

/-! ### Blocks of a page -/

/-- The blocks of a page that follow the table of R86 themselves, by their numbers: queue pairs, ports, pairs, regions. The
MEM page has every region. -/
def pageBlocks (p : Nat) : List Nat :=
  if 0x10 ≤ p ∧ p ≤ 0x17 then (List.range 4).map ((p - 0x10) * 4 + ·)
  else if 0x19 ≤ p ∧ p ≤ 0x1C then (List.range 8).map ((p - 0x19) * 8 + ·)
  else if p = 0x1D then List.range 128
  else if p = 0x28 then List.range 16
  else if p = 0x29 ∨ p = 0x2A then (List.range 8).map ((p - 0x29) * 8 + ·)
  else []

/-- A page's block and its EN field. -/
def blockOf (p n : Nat) : Block × RegField :=
  if p ≤ 0x17 then (queueBlock n, R.QUEUE_Q_CTL.EN n)
  else if p ≤ 0x1C then (portBlock n, R.STRM_P_CTL.EN n)
  else if p = 0x1D then (pairBlock n, R.BRIDLE_PAIR_CTL.EN n)
  else (regionBlock n, R.MEMRGN_CTL.EN n)

/-- What a block does on entering ACTIVE, and on entering DRAINING. -/
def blockEnter (p n : Nat) (m : MemView) : M Unit :=
  if p ≤ 0x17 then queueEnter n else if p ≤ 0x1C then pure () else if p = 0x1D then pairEnter n else regionEnter n m

def blockDrains (p n : Nat) : M Unit :=
  if p ≤ 0x17 then pure () else if p ≤ 0x1C then portDrain n else if p = 0x1D then pure () else dropTables n

/-- A block of the page is in a state. -/
def State.blockIs (s : State) (p n st : Nat) : Bool := s.fld (blockOf p n).1.state = st

/-- The pages that can be ACTIVE only while page `p` is: the port pages with STREAM, LEARN and TRIE with ASSOC. -/
def childPages (p : Nat) : List Nat :=
  if p = 0x18 then [0x19, 0x1A, 0x1B, 0x1C] else if p = 0x20 then [0x21, 0x22] else []

/-- The page that page `p` needs is ACTIVE. -/
def State.mayEnter (s : State) (p : Nat) : Bool :=
  if 0x19 ≤ p ∧ p ≤ 0x1C then s.active 0x18 else if p = 0x21 ∨ p = 0x22 then s.active 0x20 else true

/-! ### Entry and exit actions -/

/-- A page has entered ACTIVE: its blocks with EN at 1 enter too, and the unit does what its chapter states. -/
def pageEnterOne (p : Nat) (m : MemView) : M Unit := do
  forM (pageBlocks p) fun n => do
    let s ← getS
    let b := blockOf p n
    if s.blockIs p n pgOff ∧ s.fld b.2 = 1 ∧ (p < 0x28 ∨ s.active 0x28) then
      setBlock b.1 pgActive
      blockEnter p n m
  if p = 0x1D then
    pairsRefresh
    forM (List.range 4) loopEval
  if 0x08 ≤ p ∧ p ≤ 0x0C then laneRefresh
  if 0x28 ≤ p ∧ p ≤ 0x2C then kilnRefresh
  if p = 0x30 then forM (List.range 8) partCheckDrop
  if p = 0x3A then
    fifoRefill
    rngRefresh
  if p = 0x3C then guardRefresh

/-- As `pageEnterOne`, and the pages that waited for this one with ENABLE at 1 enter ACTIVE. -/
def pageEnter (p : Nat) (m : MemView) : M Unit := do
  pageEnterOne p m
  forM (childPages p) fun c => do
    let s ← getS
    if s.pageState c = pgOff ∧ s.fld (R.PG_CTL.ENABLE c) = 1 then
      setPageState c pgActive
      pageEnterOne c m

/-- A page has entered DRAINING: its blocks drain with it. -/
def pageDrainOne (p : Nat) : M Unit := do
  forM (pageBlocks p) fun n => do
    if (← getS).blockIs p n pgActive then
      setBlock (blockOf p n).1 pgDraining
      blockDrains p n
  if p = 0x1D then pairsRefresh
  if 0x08 ≤ p ∧ p ≤ 0x0C then laneRefresh
  if 0x28 ≤ p ∧ p ≤ 0x2C then kilnRefresh
  if p = 0x3C then guardRefresh
  if p = 0x3D then modidLeave

/-- As `pageDrainOne`, and the pages that need this one drain too. -/
def pageDrain (p : Nat) : M Unit := do
  pageDrainOne p
  forM (childPages p) fun c => do
    if (← getS).active c then
      prim (.slowed c false)
      setPageState c pgDraining
      pageDrainOne c

/-- A page has reached OFF. A lane that serves a replay stays on (R118). -/
def pageLeave (p : Nat) : M Unit := do
  if 0x08 ≤ p ∧ p ≤ 0x0B then
    if (← getS).laneReplays (p - 0x08) then pure () else laneOff (p - 0x08)
    laneRefresh
  if p = 0x0C then laneRefresh
  if p = 0x1D then forM (List.range 4) loopEval

/-! ### Drain conditions (R86, R87) -/

/-- The units that only have commands: no command is running. -/
def cmdUnits : List CmdUnit :=
  [U.time, U.chron, U.cellar, U.tamper, U.trie, U.tree, U.stor, U.keys, U.derive, U.slots, U.pke, U.factory, U.assoc, U.learn]

/-- The page's drain condition is met, as its chapter states it. -/
def State.pageDone (s : State) (p : Nat) : Bool :=
  let cmds := cmdUnits.all fun u => u.page ≠ p || decide (s.fld u.busy = 0)
  let blocks := (pageBlocks p).all fun n => s.blockIs p n pgOff
  cmds && blocks && (childPages p).all (fun c => p ≠ 0x18 || s.pageState c = pgOff)
    && (if 0x08 ≤ p ∧ p ≤ 0x0B then s.laneClear (p - 0x08)
      else if p = 0x1D then (List.range 4).all fun j => s.fld (R.BRIDLE_LOOP.ACTIVE j) = 0
        || (s.fld (R.STRM_P_STAT.STATE (s.fld (R.BRIDLE_LOOP.PORT_A j))) = 0
          && s.fld (R.STRM_P_STAT.STATE (s.fld (R.BRIDLE_LOOP.PORT_B j))) = 0)
      else if p = 0x03 then s.chron.openAt.isNone
      else if p = 0x05 then (List.range 8).all fun g => s.segState g = 0 || s.segState g = 2
      else if p = 0x24 then s.counters.all fun c => c.2.rewrite.isNone
      else if p = 0x25 then s.fld R.ANCHOR_CMD_STAT.BUSY = 0
      else if p = 0x2B then !s.mem.flushAll
      else if p = 0x2C then s.passes.all fun x => x.prepared.isEmpty
      else if p = 0x30 then s.units.all fun u => u.cellar.isNone
      else if p = 0x38 then (List.range 4).all fun c => s.fld (R.LOOSE_CTX_STAT.BUSY c) = 0
      else if p = 0x3A then !s.rng.reqs.any fun r => r.user = .fifo
      else if p = 0x3C then s.wake.windows.all Option.isNone
      else true)

/-! ### ENABLE written (R86) -/

/-- ENABLE of a page takes a value. -/
def pageEnable (p : Nat) (en : Bool) (m : MemView) : M Unit := do
  let s ← getS
  let old := s.fld (R.PG_CTL.ENABLE p) = 1
  wr (R.PG_CTL.ENABLE p) (b2n en)
  let st := s.pageState p
  if st = pgOff then
    if !old && en && s.mayEnter p then
      setPageState p pgActive
      pageEnter p m
  else if st = pgActive then
    if !en then
      prim (.slowed p false)
      setPageState p pgDraining
      pageDrain p
  else if st = pgDraining then
    if old != en then wr (R.PG_STAT.REARM p) (b2n en)

/-- A page's drain ends: to OFF, or with REARM through OFF to ACTIVE in the same register clock, the two STATE entries
standing together. -/
def pageDrained (p : Nat) (m : MemView) : M Unit := do
  let s ← getS
  if s.pageState p = pgDraining ∧ s.pageDone p then
    let again := decide (s.fld (R.PG_STAT.REARM p) = 1) && s.mayEnter p
    wr (R.PG_STAT.REARM p) 0
    prim (.slowed p false)
    setPageState p pgOff
    if again then setPageState p pgActive
    pageLeave p
    if again then pageEnter p m

/-- The page of the block whose drain ends. -/
def drainPage : DrainOf → Nat
  | .page n => n.toNat
  | .queue n => 0x10 + n.val / 4
  | .port n => 0x19 + n.val / 8
  | .pair _ => 0x1D
  | .region n => 0x29 + n.val / 8

/-- A drain condition is met. -/
def drainMet (d : DrainOf) (m : MemView) : M Unit := match d with
  | .page n => pageDrained n.toNat m
  | .queue n => queueDrained n
  | .port n => portDrained n
  | .pair n => pairDrained n
  | .region n => regionDrained n m

def execDrainComplete (d : DrainOf) (mem : MemView) (s : State) : Host.Outcome State Fault Refusal :=
  exec1 (waitable (.drainComplete d mem) (drainPage d) (drainMet d mem)) s

/-- The drain timer of a DRAINING page reaches 1 ms. -/
def drainSlow (p : Nat) : M Unit := do
  let s ← getS
  if s.pageState p = pgDraining ∧ mget (fun _ => false) s.slowed p = false then
    prim (.slowed p true)
    raiseQuiet (E.PG.DRAIN_SLOW p)

def execDrainSlow (page : BitVec 6) (s : State) : Host.Outcome State Fault Refusal := exec1 (drainSlow page.toNat) s

/-! ### Soft reset (R98) -/

/-- Register clocks that a soft reset takes. -/
def softResetClocks : Nat := 16

/-- The unit's own part of a soft reset, before its fields return. -/
def softResetUnit (p : Nat) : M Unit := do
  if 0x10 ≤ p ∧ p ≤ 0x17 then
    forM (pageBlocks p) fun q => do
      wr (R.QUEUE_Q_CHEAD.INDEX q) 0
      wr (R.QUEUE_Q_RTAIL.INDEX q) 0
      wr (R.QUEUE_Q_SEQ.NEXT q) 0
  forM (if p = 0x28 then [] else pageBlocks p) fun n => do
    if (← getS).blockIs p n pgFault then setBlock (blockOf p n).1 pgOff
  if 0x08 ≤ p ∧ p ≤ 0x0B then
    modLane (p - 0x08) fun x => { x with fenced := false }
    setCondQuiet (E.LANE.FENCED (p - 0x08)) false
  if p = 0x0C then prim (.sched { (← getS).sched with committed := none, waiting := none })
  if p = 0x20 then
    forM (← getS).assocs fun e => removeEntry e.1 false
    prim (.lookup { (← getS).lookup with held := none })
    prim .assocClear
    prim .parkedClear
    prim .peersClear
  if p = 0x21 then forM (← getS).ctxs fun c => removePeer c.1 false
  if p = 0x22 then
    prim .rulesClear
    prim (.lookup { (← getS).lookup with active := [], shadow := [], built := false })
    trieRefresh
  if p = 0x38 then
    prim .looseClear
    forM ((← getS).regs.filter fun w => decide (0x38100 ≤ w.1 ∧ w.1 < 0x38300)) fun w => wrWord w.1 (resetWord w.1)

/-- The RW and RWS bits of a word. -/
def rwMask (a : Nat) : Word := wordMask (fun f => f.ty = .rw ∨ f.ty = .rws) a

/-- Status that follows from the fields of a page. -/
def pageRefresh (p : Nat) : M Unit := do
  if p = 0x03 then auditLevel
  if p = 0x04 then cellarOccupancy
  if 0x08 ≤ p ∧ p ≤ 0x0C then laneRefresh
  if 0x10 ≤ p ∧ p ≤ 0x17 then
    forM (pageBlocks p) pairRefresh
    tenantRefresh (p - 0x10)
  if 0x19 ≤ p ∧ p ≤ 0x1C then forM (pageBlocks p) portRefresh
  if p = 0x1D then
    forM (List.range 4) loopEval
    pairsRefresh
  if p = 0x20 ∨ p = 0x21 then assocRefresh
  if p = 0x2B then cacheRefresh
  if 0x28 ≤ p ∧ p ≤ 0x2C then kilnRefresh
  if p = 0x3A then rngRefresh
  if p = 0x3C then guardRefresh

/-- A soft reset of an OFF or FAULT page. -/
def softReset (p : Nat) : M Unit := do
  let s ← getS
  softResetUnit p
  forM ((← getS).regs.filter fun w => decide (w.1 / 0x1000 = p ∧ 0x40 ≤ w.1 % 0x1000)) fun w =>
    wrWord w.1 ((w.2 &&& ~~~(rwMask w.1)) ||| (resetWord w.1 &&& rwMask w.1))
  wr (R.PG_CTL.ENABLE p) 0
  wr (R.PG_EVT_RAW.EVT p) ((← rd (R.PG_EVT_RAW.EVT p)) &&& (pageEvents p).cond)
  wr (R.PG_EVT_EN.EVT p) (pageEvents p).always
  if s.pageState p = pgFault then setPageState p pgOff
  prim (.srst p softResetClocks)
  pageRefresh p

/-! ### PG_CTL (R76, R82) -/

/-- Seal a page: its SEAL bit is set and PG_STAT.SEALED reads 1. -/
def sealPage (p : Nat) : M Unit := do
  wr (R.PG_CTL.SEAL p) 1
  wr (R.PG_STAT.SEALED p) 1

/-- PG_CTL written with a value: SOFT_RESET in OFF or FAULT, else ENABLE; then SEAL. On GLOBAL only SEAL acts (R77). -/
def fxPgCtl (p : Nat) (v : Word) (m : MemView) : M Unit := do
  if 1 < p then
    if v.getLsbD 2 then softReset p else pageEnable p (v.getLsbD 0) m
  if v.getLsbD 1 then sealPage p

/-- A write of PG_CTL. -/
def pgCtlWrite (rid : BitVec 12) (page : BitVec 6) (v : Word) (m : MemView) : M Unit :=
  hostWrite (fullWrite rid (0x1000 * page.toNat + 0x08) v) (fxPgCtl page.toNat v m)

def execPageEnable (rid : BitVec 12) (page : BitVec 6) (mem : MemView) (s : State) : Host.Outcome State Fault Refusal :=
  exec1 (pgCtlWrite rid page 1 mem) s

def execPageDisable (rid : BitVec 12) (page : BitVec 6) (s : State) : Host.Outcome State Fault Refusal :=
  exec1 (pgCtlWrite rid page 0 {}) s

/-- SOFT_RESET written 1, ENABLE as it is given. -/
def execSoftReset (rid : BitVec 12) (page : BitVec 6) (en : Bool) (s : State) : Host.Outcome State Fault Refusal :=
  exec1 (pgCtlWrite rid page (BitVec.ofNat 32 (4 + b2n en)) {}) s

/-- SEAL written 1, with SOFT_RESET and ENABLE as they are given. -/
def execSeal (rid : BitVec 12) (page : BitVec 6) (soft en : Bool) (mem : MemView) (s : State) :
    Host.Outcome State Fault Refusal :=
  exec1 (pgCtlWrite rid page (BitVec.ofNat 32 (bitAt soft 2 + 2 + b2n en)) mem) s

/-- GLOBAL_SEAL_ALL (R85): every carried page, in page order. -/
def fxSealAll (rid : BitVec 12) (v : Word) : M Unit := do
  if v.getLsbD 0 then
    let ps := (List.range 64).filter carried
    forM ps sealPage
    forM ps fun p => do raiseItem (← stamp) p (rid.setWidth 16) 0x0004 [BitVec.ofNat 96 p] .other (auditPage p)

def execGlobalSealAll (rid : BitVec 12) (s : State) : Host.Outcome State Fault Refusal :=
  exec1 (hostWrite (fullWrite rid R.GLOBAL_SEAL_ALL.SEAL.addr 1) (fxSealAll rid 1)) s

end Sys2Proof.Machine
end

