-- ==== Sys2Proof/Machine/Effects.lean ====
section
/-! DEFINITION. A host write to any register (R78, R79): what the register's own rule does with an accepted write, whichever
command made it; and the plain reads and writes of the window (R7, R75, R91). -/
namespace Sys2Proof.Machine
open Sys2Proof

/-- What the outside answers to the commands that a write can start: the memory behind the initiator port, DRAM, the record in
the anchor slot that ANCHOR_CMD names, and the findings of a test: the failing groups, nets, sources or KAT of a test
command in its low bits, and in bit 63 whether a sensor that is tripped reports. -/
structure WriteAnswers where
  dram : Dram
  mem : MemView
  tests : BitVec 64
  record : Bytes

/-- A field of a written value. -/
def vbits (v : Word) (hi lo : Nat) : Nat := bits v.toNat hi lo

/-- OP of a command register. -/
def vop (v : Word) : Nat := vbits v 31 28

/-- The block index of an address in an array of blocks, and the offset within its block. -/
def blkIdx (a base stride : Nat) : Nat := (a - base) / stride
def blkOff (a base stride : Nat) : Nat := (a - base) % stride

/-- What a write of `v` to the word at `a` does beyond taking its fields, on the pages 0x00 to 0x0F. -/
def fxLow (rid : BitVec 12) (a : Nat) (v : Word) (x : WriteAnswers) : M Unit :=
  if a = R.GLOBAL_SEAL_ALL.SEAL.addr then fxSealAll rid v
  else if a = R.TIME_CMD.OP.addr then fxTimeCmd (vop v) x.dram
  else if a = R.CHRON_AUDIT_HEAD.INDEX.addr then fxAuditHead v.toNat
  else if a = R.CHRON_CFG.AUDIT_LOG2.addr then auditLevel
  else if a = R.CHRON_CMD.OP.addr then fxChronCmd (vop v)
  else if a = R.CHRON_TRACE_CTL.FLUSH.addr then fxTraceCtl (v.getLsbD 1) (v.getLsbD 0)
  else if a = R.CHRON_TRACE_WM.LOW.addr then traceLevel
  else if a = R.CELLAR_CMD.OP.addr then fxCellarCmd (vop v) (vbits v 10 0)
  else if a = R.POWER_CMD.OP.addr then fxPowerCmd (vop v)
  else if a = R.POWER_SEG_CTL.PARK.addr then fxSegCtl (vbits v 7 0)
  else if a = R.TAMPER_CMD.OP.addr then fxTamperCmd (vop v) (vbits v 7 0) (x.tests.setWidth 16)
  else if 0x08 ≤ a / 0x1000 ∧ a / 0x1000 ≤ 0x0B ∧ a % 0x1000 = 0x48 then
    fxLaneCmd (a / 0x1000 - 0x08) (v.getLsbD 2) (v.getLsbD 1) (v.getLsbD 0)
  else if a = R.SCHED_CMD.COMMIT.addr then fxSchedCommit (v.getLsbD 0)
  else pure ()

/-- As `fxLow`, on the pages 0x10 to 0x1F; `s0` is the state before the write. -/
def fxStreams (s0 : State) (a : Nat) (v : Word) (x : WriteAnswers) : M Unit :=
  let p := a / 0x1000
  let o := a % 0x1000
  if 0x10 ≤ p ∧ p ≤ 0x17 then
    if 0x40 ≤ o ∧ o < 0x4C then do
      tenantRefresh (p - 0x10)
    else if 0x80 ≤ o ∧ o < 0x180 then
      let q := (p - 0x10) * 4 + blkIdx o 0x80 0x40
      let b := blkOff o 0x80 0x40
      if b = 0x18 then fxCtail q (vbits v 15 0)
      else if b = 0x20 then fxRhead q (vbits v 15 0)
      else if b = 0x28 then fxQueueCtl q (s0.fld (R.QUEUE_Q_CTL.EN q) = 1) v.toNat x.dram
      else pure ()
    else pure ()
  else if 0x19 ≤ p ∧ p ≤ 0x1C then
    if 0x80 ≤ o ∧ o < 0x280 then
      let n := (p - 0x19) * 8 + blkIdx o 0x80 0x40
      let b := blkOff o 0x80 0x40
      if b = 0x04 then fxPortWm n
      else if b = 0x08 then fxPortCtl n (s0.fld (R.STRM_P_CTL.EN n) = 1) v
      else pure ()
    else pure ()
  else if p = 0x1D then
    if 0x100 ≤ o ∧ o < 0x110 then loopEval (blkIdx o 0x100 4)
    else if 0x800 ≤ o ∧ blkOff o 0x800 16 = 8 then
      let k := blkIdx o 0x800 16
      fxPairEn k (s0.fld (R.BRIDLE_PAIR_CTL.EN k) = 1) (v.getLsbD 0)
    else pure ()
  else pure ()

/-- As `fxLow`, on the pages 0x20 to 0x30. -/
def fxMiddle (s0 : State) (a : Nat) (v : Word) (x : WriteAnswers) : M Unit :=
  let p := a / 0x1000
  let o := a % 0x1000
  if a = R.ASSOC_CMD.OP.addr then fxAssocCmd (vop v) (v.getLsbD 27) (vbits v 20 16) (vbits v 12 0)
  else if a = R.ASSOC_CFG.LEARN_RESERVE.addr then assocRefresh
  else if a = R.LEARN_CMD.OP.addr then fxLearnCmd (vop v) (vbits v 11 0)
  else if a = R.TRIE_CMD.OP.addr then fxTrieCmd (vop v) (vbits v 10 0)
  else if a = R.FRESH_CFG.EXP_MAX.addr then clampLease
  else if a = R.FRESH_CMD.OP.addr then fxFreshCmd (vop v) (vbits v 20 16) (vbits v 12 0)
  else if p = 0x24 ∧ 0x400 ≤ o ∧ o < 0xC00 ∧ blkOff o 0x400 0x40 = 0 then fxSwitchCtl (blkIdx o 0x400 0x40)
  else if a = R.ANCHOR_CMD.OP.addr then fxAnchorCmd (vop v) (vbits v 5 0) x.record
  else if a = R.MEM_CMD.OP.addr then fxMemCmd (vop v) (vbits v 3 0)
  else if (p = 0x29 ∨ p = 0x2A) ∧ 0x80 ≤ o ∧ o < 0x280 ∧ blkOff o 0x80 0x40 = 0 then
    let n := (p - 0x29) * 8 + blkIdx o 0x80 0x40
    fxRegionCtl n (s0.fld (R.MEMRGN_CTL.EN n) = 1) v x.mem
  else if a = R.MEMCACHE_CMD.WRITEBACK.addr then fxCacheCmd v
  else if a = R.MEMCACHE_CDIRTY.LOW.addr ∨ a = R.MEMCACHE_TDIRTY.LOW.addr then cacheRefresh
  else if a = R.KILN_CMD.OP.addr then fxKilnCmd (vop v)
  else if a = R.KILN_CFG.PACE_US.addr then kilnRefresh
  else if a = R.TREE_CMD.OP.addr then fxTreeCmd (vop v) (vbits v 4 0)
  else if a = R.STOR_CMD.OP.addr then fxStorCmd (vop v) (vbits v 2 0) x.dram
  else pure ()

/-- As `fxLow`, on the pages 0x34 to 0x3E. -/
def fxHigh (a : Nat) (v : Word) (x : WriteAnswers) : M Unit :=
  let p := a / 0x1000
  let o := a % 0x1000
  if a = R.KEYS_CMD.OP.addr then fxKeysCmd (vop v) (vbits v 7 0)
  else if a = R.DERIVE_CMD.OP.addr then
    fxDeriveCmd (vop v) (v.getLsbD 27) (vbits v 26 24) (vbits v 20 12) (vbits v 9 0)
  else if a = R.SLOTS_CMD.OP.addr then fxSlotsCmd (vop v) (v.getLsbD 27) (vbits v 8 0)
  else if a = R.PKE_CMD.OP.addr then fxPkeCmd (vop v) (vbits v 8 0) x.dram
  else if p = 0x38 ∧ 0x100 ≤ o ∧ o < 0x300 then
    let c := blkIdx o 0x100 0x80
    let b := blkOff o 0x100 0x80
    if b = 0 then fxLooseKey c
    else if b = 0x0C then (if v.getLsbD 0 then fxLooseGo c else pure ())
    else if b = 0x14 then fxLooseCmd c (vop v) x.dram
    else pure ()
  else if a = R.RNG_CMD.RESEED.addr then fxRngCmd (v.getLsbD 1) (v.getLsbD 0) (x.tests.getLsbD 0)
  else if a = R.RNG_TEST_CTL.TEST_EN.addr then fxTestCtl
  else if a = R.WAKE_CFG.GUARD_EN.addr then guardRefresh
  else if a = R.WAKE_CLEAR.CLEAR.addr then fxWakeClear (v.getLsbD 0)
  else if p = 0x3C ∧ 0x80 ≤ o ∧ o < 0x100 ∧ blkOff o 0x80 0x10 = 8 then fxWakeWctr (blkIdx o 0x80 0x10) v.toNat
  else if a = R.MODID_CMD.OP.addr then fxModidCmd (vop v) (vbits v 2 0)
  else if a = R.FACTORY_CMD.OP.addr then
    fxFactoryCmd (vop v) (vbits v 7 0) (x.tests.setWidth 9) x.tests (x.tests.getLsbD 63)
  else pure ()

/-- What an accepted write of `v` to the word at `a` does beyond taking its fields. -/
def fxWrite (s0 : State) (rid : BitVec 12) (a : Nat) (v : Word) (x : WriteAnswers) : M Unit :=
  let p := a / 0x1000
  if a % 0x1000 = 0x08 then fxPgCtl p v x.mem
  else if p < 0x10 then fxLow rid a v x
  else if p < 0x20 then fxStreams s0 a v x
  else if p < 0x34 then fxMiddle s0 a v x
  else fxHigh a v x

/-- A host write of any shape. -/
def registerWrite (w : HostWr) (x : WriteAnswers) : M Unit := do
  hostWrite w (fxWrite (← getS) w.rid w.at w.value x)

def execRegisterWrite (rid : BitVec 12) (strb : BitVec 4) (addr : BitVec 18) (value : Word) (dram : Dram) (mem : MemView)
    (tests : BitVec 64) (record : List Byte) (s : State) : Host.Outcome State Fault Refusal :=
  exec1 (registerWrite ⟨rid, strb, addr, value⟩ ⟨dram, mem, tests, record⟩) s

/-- The high word of a 64-bit register is written (R75). -/
def execReg64HighWrite (rid : BitVec 12) (addr : BitVec 18) (value : Word) (s : State) : Host.Outcome State Fault Refusal :=
  exec1 (registerWrite ⟨rid, 0xF, addr, value⟩ ⟨{}, {}, 0, []⟩) s

/-- A W1C write to PG_EVT_RAW or PG_EVT_STICKY (R91). -/
def execEventClear (rid : BitVec 12) (page : BitVec 6) (sticky : Bool) (value : Word) (s : State) :
    Host.Outcome State Fault Refusal :=
  exec1 (hostWrite (fullWrite rid (0x1000 * page.toNat + (if sticky then 0x1C else 0x10)) value) (pure ())) s

/-! ### Reads -/

/-- A read of a register with an RC field (R7); the data registers of RNG and TRACE answer as their rules say. `raw`: the
32 raw samples that a read of RNG_RAW takes. -/
def readClear (a : Nat) (raw : Word) : M Unit :=
  if a = R.RNG_DATA.WORD.addr then rngDataRead
  else if a = R.RNG_RAW.WORD.addr then rngRawRead raw
  else if a = R.CHRON_TRACE_DATA.WORD.addr then traceDataRead
  else hostRead a

def execReadClearRegister (addr : BitVec 18) (raw : Word) (s : State) : Host.Outcome State Fault Refusal :=
  exec1 (readClear (addr.toNat / 4 * 4) raw) s

/-- The word is the low word of a 64-bit register (R75), PG_LASTWR_TS among them. -/
def lowWord64 (a : Nat) : Bool :=
  if a % 0x1000 < 0x40 then decide (a % 0x1000 = 0x28)
  else match findReg a with
    | some h => decide (h.spec.words = 2 ∧ h.word = 0)
    | none => false

/-- A read of the low word of a 64-bit register; of any other word, a plain read. -/
def execReg64LowRead (addr : BitVec 18) (s : State) : Host.Outcome State Fault Refusal :=
  let a := addr.toNat / 4 * 4
  exec1 (if lowWord64 a then hostReadLow a else hostRead a) s

end Sys2Proof.Machine
end

