-- ==== Sys2Proof/Machine/Dispatch.lean ====
section
/-! DEFINITION. One arm per command: a direct call of its meaning. -/
namespace Sys2Proof.Machine
open Sys2Proof

/-- The effect of a command on everything but the queue. -/
def exec (i : Instr) (s : State) : Host.Outcome State Fault Refusal :=
  match i with
  | .registerWrite rid strb addr value dram mem tests record => Sys2Proof.Machine.execRegisterWrite rid strb addr value dram mem tests record s
  | .readClearRegister addr raw => Sys2Proof.Machine.execReadClearRegister addr raw s
  | .reg64LowRead addr => Sys2Proof.Machine.execReg64LowRead addr s
  | .reg64HighWrite rid addr value => Sys2Proof.Machine.execReg64HighWrite rid addr value s
  | .eventClear rid page sticky value => Sys2Proof.Machine.execEventClear rid page sticky value s
  | .pageEnable rid page mem => Sys2Proof.Machine.execPageEnable rid page mem s
  | .pageDisable rid page => Sys2Proof.Machine.execPageDisable rid page s
  | .softReset rid page en => Sys2Proof.Machine.execSoftReset rid page en s
  | .seal rid page soft en mem => Sys2Proof.Machine.execSeal rid page soft en mem s
  | .globalSealAll rid => Sys2Proof.Machine.execGlobalSealAll rid s
  | .drainSlow page => Sys2Proof.Machine.execDrainSlow page s
  | .drainComplete d mem => Sys2Proof.Machine.execDrainComplete d mem s
  | .hostAccessAsleep => Sys2Proof.Machine.execHostAccessAsleep s
  | .hostRetentionTimeout => Sys2Proof.Machine.execHostRetentionTimeout s
  | .handshakeViolation group port => Sys2Proof.Machine.execHandshakeViolation group port s
  | .memReadRequest addr two tid rid attr => Sys2Proof.Machine.execMemReadRequest addr two tid rid attr s
  | .memWriteRequest addr two tid rid attr data strb mem => Sys2Proof.Machine.execMemWriteRequest addr two tid rid attr data strb mem s
  | .downstreamReadResponse txn mem => Sys2Proof.Machine.execDownstreamReadResponse txn mem s
  | .downstreamWriteResponse txn ok mem => Sys2Proof.Machine.execDownstreamWriteResponse txn ok mem s
  | .downstreamReadTimeout => Sys2Proof.Machine.execDownstreamReadTimeout s
  | .derrReport txn kind late => Sys2Proof.Machine.execDerrReport txn kind late s
  | .overflowReencrypt mem => Sys2Proof.Machine.execOverflowReencrypt mem s
  | .cacheWriteback tag mem => Sys2Proof.Machine.execCacheWriteback tag mem s
  | .cacheParityError tag place bankB rewriteBad mem => Sys2Proof.Machine.execCacheParityError tag place bankB rewriteBad mem s
  | .writeback rid => Sys2Proof.Machine.execWriteback rid s
  | .checkpoint rid region => Sys2Proof.Machine.execCheckpoint rid region s
  | .openRegion rid region => Sys2Proof.Machine.execOpen rid region s
  | .specResume rid region => Sys2Proof.Machine.execSpecResume rid region s
  | .regionEn rid region en mem => Sys2Proof.Machine.execRegionEn rid region en mem s
  | .storageHeader kslot dus4k dir lbn dram => Sys2Proof.Machine.execStorageHeader kslot dus4k dir lbn dram s
  | .storageUnitAccept data dram => Sys2Proof.Machine.execStorageUnitAccept data dram s
  | .storageEntryWritten buffer ok => Sys2Proof.Machine.execStorageEntryWritten buffer ok s
  | .mount rid part dram => Sys2Proof.Machine.execMount rid part dram s
  | .format rid part => Sys2Proof.Machine.execFormat rid part s
  | .storCommit rid part => Sys2Proof.Machine.execStorCommit rid part s
  | .confirm rid part => Sys2Proof.Machine.execConfirm rid part s
  | .unmount rid part => Sys2Proof.Machine.execUnmount rid part s
  | .partDrop part => Sys2Proof.Machine.execPartDrop part s
  | .sofAdmit port tx frame => Sys2Proof.Machine.execSofAdmit port tx frame s
  | .itemEnd port tx rest => Sys2Proof.Machine.execItemEnd port tx rest s
  | .producerErr port tx eof => Sys2Proof.Machine.execProducerErr port tx eof s
  | .macroGust m port bankB unit bad => Sys2Proof.Machine.execMacroGust m port bankB unit bad s
  | .assocLookup port tx => Sys2Proof.Machine.execAssocLookup port tx s
  | .egressAccept port => Sys2Proof.Machine.execEgressAccept port s
  | .ingressVerifyDone port => Sys2Proof.Machine.execIngressVerifyDone port s
  | .ingressAccept port => Sys2Proof.Machine.execIngressAccept port s
  | .streamRelease port tx => Sys2Proof.Machine.execStreamRelease port tx s
  | .txUnderrun port => Sys2Proof.Machine.execTxUnderrun port s
  | .flushRx rid port => Sys2Proof.Machine.execFlushRx rid port s
  | .flushTx rid port => Sys2Proof.Machine.execFlushTx rid port s
  | .flushNowRx rid port => Sys2Proof.Machine.execFlushNowRx rid port s
  | .flushNowTx rid port => Sys2Proof.Machine.execFlushNowTx rid port s
  | .flushEnd port tx => Sys2Proof.Machine.execFlushEnd port tx s
  | .portEn rid port en => Sys2Proof.Machine.execPortEn rid port en s
  | .strmPWm rid port value => Sys2Proof.Machine.execStrmPWm rid port value s
  | .pairEn rid k en => Sys2Proof.Machine.execPairEn rid k en s
  | .bridleHoldAccept port => Sys2Proof.Machine.execBridleHoldAccept port s
  | .bridleCutAccept port => Sys2Proof.Machine.execBridleCutAccept port s
  | .bridleUnderrun port => Sys2Proof.Machine.execBridleUnderrun port s
  | .outHeldRelease port => Sys2Proof.Machine.execOutHeldRelease port s
  | .bridleLoop rid j value => Sys2Proof.Machine.execBridleLoop rid j value s
  | .laneBlockDone l owner order index => Sys2Proof.Machine.execLaneBlockDone l owner order index s
  | .laneFault l stage flips keyPipe => Sys2Proof.Machine.execLaneFault l stage flips keyPipe s
  | .katComplete l pass => Sys2Proof.Machine.execKatComplete l pass s
  | .katPeriod l => Sys2Proof.Machine.execKatPeriod l s
  | .katNow rid l => Sys2Proof.Machine.execKatNow rid l s
  | .fence rid l => Sys2Proof.Machine.execFence rid l s
  | .inject rid l => Sys2Proof.Machine.execInject rid l s
  | .lanePowerUp l => Sys2Proof.Machine.execLanePowerUp l s
  | .schedWindow => Sys2Proof.Machine.execSchedWindow s
  | .commit rid => Sys2Proof.Machine.execCommit rid s
  | .doorbell rid q value => Sys2Proof.Machine.execDoorbell rid q value s
  | .rheadReturn rid q value => Sys2Proof.Machine.execRheadReturn rid q value s
  | .queuePairEn rid q en => Sys2Proof.Machine.execQueuePairEn rid q en s
  | .resume rid q dram => Sys2Proof.Machine.execResume rid q dram s
  | .descriptorFetch dram => Sys2Proof.Machine.execDescriptorFetch dram s
  | .descriptorAccept q dram => Sys2Proof.Machine.execDescriptorAccept q dram s
  | .descriptorDispatch e => Sys2Proof.Machine.execDescriptorDispatch e s
  | .doneRecord q => Sys2Proof.Machine.execDoneRecord q s
  | .doneWriteAck q ok => Sys2Proof.Machine.execDoneWriteAck q ok s
  | .initiatorBuserr op => Sys2Proof.Machine.execInitiatorBuserr op s
  | .tokenRefill => Sys2Proof.Machine.execTokenRefill s
  | .aeadSeal e dram again => Sys2Proof.Machine.execAeadSeal e dram again s
  | .aeadOpen e dram again => Sys2Proof.Machine.execAeadOpen e dram again s
  | .xtsEnc e dram again => Sys2Proof.Machine.execXtsEnc e dram again s
  | .xtsDec e dram again => Sys2Proof.Machine.execXtsDec e dram again s
  | .cmacGen e dram again => Sys2Proof.Machine.execCmacGen e dram again s
  | .cmacVerify e dram again => Sys2Proof.Machine.execCmacVerify e dram again s
  | .bridle e dram again => Sys2Proof.Machine.execBridle e dram again s
  | .keyDerive e dram again => Sys2Proof.Machine.execKeyDerive e dram again s
  | .keyGenerate e dram => Sys2Proof.Machine.execKeyGenerate e dram s
  | .keyWrap e dram => Sys2Proof.Machine.execKeyWrap e dram s
  | .keyUnwrap e dram again => Sys2Proof.Machine.execKeyUnwrap e dram again s
  | .ecdsaSign e dram again => Sys2Proof.Machine.execEcdsaSign e dram again s
  | .ecdsaVerify e dram again => Sys2Proof.Machine.execEcdsaVerify e dram again s
  | .ecdhAgree e dram again => Sys2Proof.Machine.execEcdhAgree e dram again s
  | .hash e dram again => Sys2Proof.Machine.execHash e dram again s
  | .randomFill e dram => Sys2Proof.Machine.execRandomFill e dram s
  | .search rid => Sys2Proof.Machine.execSearch rid s
  | .nextEntry rid h => Sys2Proof.Machine.execNext rid h s
  | .insert rid replace => Sys2Proof.Machine.execInsert rid replace s
  | .delete rid h => Sys2Proof.Machine.execDelete rid h s
  | .flushPort rid port learnedOnly => Sys2Proof.Machine.execFlushPort rid port learnedOnly s
  | .age rid => Sys2Proof.Machine.execAge rid s
  | .autoAgingPass => Sys2Proof.Machine.execAutoAgingPass s
  | .stashRetry => Sys2Proof.Machine.execStashRetry s
  | .saltDerived => Sys2Proof.Machine.execSaltDerived s
  | .learnRead rid peer => Sys2Proof.Machine.execLearnRead rid peer s
  | .unpin rid peer => Sys2Proof.Machine.execUnpin rid peer s
  | .learnDelete rid peer => Sys2Proof.Machine.execLearnDelete rid peer s
  | .ruleSet rid n => Sys2Proof.Machine.execRuleSet rid n s
  | .ruleDel rid n => Sys2Proof.Machine.execRuleDel rid n s
  | .ruleRead rid n => Sys2Proof.Machine.execRuleRead rid n s
  | .build rid => Sys2Proof.Machine.execBuild rid s
  | .swap rid => Sys2Proof.Machine.execSwap rid s
  | .anchorWriteStart => Sys2Proof.Machine.execAnchorWriteStart s
  | .anchorReadback err read us dram => Sys2Proof.Machine.execAnchorReadback err read us dram s
  | .startUpScan store => Sys2Proof.Machine.execStartUpScan store s
  | .leaseExpAdjust => Sys2Proof.Machine.execLeaseExpAdjust s
  | .switchNow rid sw => Sys2Proof.Machine.execSwitchNow rid sw s
  | .resync rid h => Sys2Proof.Machine.execResync rid h s
  | .switchArm rid sw value => Sys2Proof.Machine.execSwitchArm rid sw value s
  | .overlapExpire sw => Sys2Proof.Machine.execOverlapExpire sw s
  | .canRxSlotRewrite h => Sys2Proof.Machine.execCanRxSlotRewrite h s
  | .anchorRead rid slot words => Sys2Proof.Machine.execAnchorRead rid slot words s
  | .start rid => Sys2Proof.Machine.execStart rid s
  | .pause rid => Sys2Proof.Machine.execPause rid s
  | .kilnResume rid => Sys2Proof.Machine.execKilnResume rid s
  | .discard rid => Sys2Proof.Machine.execDiscard rid s
  | .kilnChunkStart mem => Sys2Proof.Machine.execKilnChunkStart mem s
  | .kilnPrepareDone line mem => Sys2Proof.Machine.execKilnPrepareDone line mem s
  | .kilnCommitDone line ok waited mem => Sys2Proof.Machine.execKilnCommitDone line ok waited mem s
  | .kilnPassComplete mem => Sys2Proof.Machine.execKilnPassComplete mem s
  | .treeRead rid index => Sys2Proof.Machine.execTreeRead rid index s
  | .rootGen rid => Sys2Proof.Machine.execRootGen rid s
  | .lcTransition rid target => Sys2Proof.Machine.execLcTransition rid target s
  | .lcProgAck ok => Sys2Proof.Machine.execLcProgAck ok s
  | .lcProgTimeout => Sys2Proof.Machine.execLcProgTimeout s
  | .define rid tenant => Sys2Proof.Machine.execDefine rid tenant s
  | .materialise rid tenant slot node => Sys2Proof.Machine.execMaterialise rid tenant slot node s
  | .invalidate rid force node => Sys2Proof.Machine.execInvalidate rid force node s
  | .deriveRead rid node => Sys2Proof.Machine.execDeriveRead rid node s
  | .slotsRead rid slot => Sys2Proof.Machine.execSlotsRead rid slot s
  | .slotSwap rid force slot => Sys2Proof.Machine.execSlotSwap rid force slot s
  | .erase rid force slot => Sys2Proof.Machine.execErase rid force slot s
  | .dropPending rid slot => Sys2Proof.Machine.execDropPending rid slot s
  | .bankRetire n => Sys2Proof.Machine.execBankRetire n s
  | .slotClearing n => Sys2Proof.Machine.execSlotClearing n s
  | .rootRemask => Sys2Proof.Machine.execRootRemask s
  | .attestGen rid => Sys2Proof.Machine.execAttestGen rid s
  | .attestLoad rid dram => Sys2Proof.Machine.execAttestLoad rid dram s
  | .attest rid slot => Sys2Proof.Machine.execAttest rid slot s
  | .looseCtxKey rid c value => Sys2Proof.Machine.execLooseCtxKey rid c value s
  | .go rid c => Sys2Proof.Machine.execGo rid c s
  | .looseDone c dram => Sys2Proof.Machine.execLooseDone c dram s
  | .saveClear rid c dram => Sys2Proof.Machine.execSaveClear rid c dram s
  | .saveWrap rid c dram => Sys2Proof.Machine.execSaveWrap rid c dram s
  | .restore rid c dram => Sys2Proof.Machine.execRestore rid c dram s
  | .entropyPowerUp katOk => Sys2Proof.Machine.execEntropyPowerUp katOk s
  | .seedReady raw => Sys2Proof.Machine.execSeedReady raw s
  | .drbgInstantiate => Sys2Proof.Machine.execDrbgInstantiate s
  | .healthFail apt => Sys2Proof.Machine.execHealthFail apt s
  | .restartDiscardEnd => Sys2Proof.Machine.execRestartDiscardEnd s
  | .drbgGenerate dram => Sys2Proof.Machine.execDrbgGenerate dram s
  | .rngRestart rid katOk => Sys2Proof.Machine.execRngRestart rid katOk s
  | .reseed rid => Sys2Proof.Machine.execReseed rid s
  | .rngDataRead => Sys2Proof.Machine.execRngDataRead s
  | .rngRawRead raw => Sys2Proof.Machine.execRngRawRead raw s
  | .testEn rid en => Sys2Proof.Machine.execTestEn rid en s
  | .timeTick rc => Sys2Proof.Machine.execTimeTick rc s
  | .holdover cycles => Sys2Proof.Machine.execHoldover cycles s
  | .ptpStrobe seconds nanos => Sys2Proof.Machine.execPtpStrobe seconds nanos s
  | .ptpStrobeGap => Sys2Proof.Machine.execPtpStrobeGap s
  | .setTime rid => Sys2Proof.Machine.execSet rid s
  | .step rid => Sys2Proof.Machine.execStep rid s
  | .challenge rid => Sys2Proof.Machine.execChallenge rid s
  | .auth rid dram => Sys2Proof.Machine.execAuth rid dram s
  | .nonceExpire => Sys2Proof.Machine.execNonceExpire s
  | .alarm => Sys2Proof.Machine.execAlarm s
  | .sleep rid => Sys2Proof.Machine.execSleep rid s
  | .wake rid => Sys2Proof.Machine.execWake rid s
  | .descentAbort code chan detail => Sys2Proof.Machine.execDescentAbort code chan detail s
  | .anchorCommitPoint mem => Sys2Proof.Machine.execAnchorCommitPoint mem s
  | .descentComplete => Sys2Proof.Machine.execDescentComplete s
  | .hostRequestWake group port => Sys2Proof.Machine.execHostRequestWake group port s
  | .ascentComplete images mem => Sys2Proof.Machine.execAscentComplete images mem s
  | .powerSegCtl rid park => Sys2Proof.Machine.execPowerSegCtl rid park s
  | .segParked g => Sys2Proof.Machine.execSegParked g s
  | .parkedFrame g => Sys2Proof.Machine.execParkedFrame g s
  | .segUnparked g mem => Sys2Proof.Machine.execSegUnparked g mem s
  | .wakeTrig n => Sys2Proof.Machine.execWakeTrig n s
  | .wakeFrame n ide fd crcOk id data => Sys2Proof.Machine.execWakeFrame n ide fd crcOk id data s
  | .listenWindowEnd n => Sys2Proof.Machine.execListenWindowEnd n s
  | .backoffEnd n => Sys2Proof.Machine.execBackoffEnd n s
  | .wakeClear rid => Sys2Proof.Machine.execWakeClear rid s
  | .wakeFiltWctr rid f value => Sys2Proof.Machine.execWakeFiltWctr rid f value s
  | .vbatRestore => Sys2Proof.Machine.execVbatRestore s
  | .tamperEvent src osc => Sys2Proof.Machine.execTamperEvent src osc s
  | .tloopStep returned osc => Sys2Proof.Machine.execTloopStep returned osc s
  | .selfCheck fails => Sys2Proof.Machine.execSelfCheck fails s
  | .clearLasting rid src => Sys2Proof.Machine.execClearLasting rid src s
  | .clearLog rid => Sys2Proof.Machine.execClearLog rid s
  | .selfcheckNow rid fails => Sys2Proof.Machine.execSelfcheckNow rid fails s
  | .trip rid => Sys2Proof.Machine.execTrip rid s
  | .debugActive auth => Sys2Proof.Machine.execDebugActive auth s
  | .fuseValid share lc par => Sys2Proof.Machine.execFuseValid share lc par s
  | .fuseTimeout => Sys2Proof.Machine.execFuseTimeout s
  | .startupEnd => Sys2Proof.Machine.execStartupEnd s
  | .presenceChange n present => Sys2Proof.Machine.execPresenceChange n present s
  | .sclHeldTimeout n => Sys2Proof.Machine.execSclHeldTimeout n s
  | .moduleReadDone n got => Sys2Proof.Machine.execModuleReadDone n got s
  | .challengePoll n got => Sys2Proof.Machine.execChallengePoll n got s
  | .chalTimeout n => Sys2Proof.Machine.execChalTimeout n s
  | .chalPeriod n => Sys2Proof.Machine.execChalPeriod n s
  | .reread rid n => Sys2Proof.Machine.execReread rid n s
  | .readRec rid n => Sys2Proof.Machine.execReadRec rid n s
  | .clockAck c => Sys2Proof.Machine.execClockAck c s
  | .otPoreset => Sys2Proof.Machine.execOtPoreset s
  | .otResetAssert => Sys2Proof.Machine.execOtResetAssert s
  | .resetDrainDone start mem => Sys2Proof.Machine.execResetDrainDone start mem s
  | .otResetRelease start => Sys2Proof.Machine.execOtResetRelease start s
  | .cellarReplay mem dram => Sys2Proof.Machine.execCellarReplay mem dram s
  | .cellarParityError entry copyB rewriteBad => Sys2Proof.Machine.execCellarParityError entry copyB rewriteBad s
  | .engineParityFault g => Sys2Proof.Machine.execEngineParityFault g s
  | .lookupParityFault peer n => Sys2Proof.Machine.execLookupParityFault peer n s
  | .cellarRead rid entry => Sys2Proof.Machine.execCellarRead rid entry s
  | .chronEntry => Sys2Proof.Machine.execChronEntry s
  | .chronAuditHead rid value => Sys2Proof.Machine.execChronAuditHead rid value s
  | .holdDrain => Sys2Proof.Machine.execHoldDrain s
  | .auditBuserr => Sys2Proof.Machine.execAuditBuserr s
  | .sealNow rid => Sys2Proof.Machine.execSealNow rid s
  | .check rid => Sys2Proof.Machine.execCheck rid s
  | .sign rid => Sys2Proof.Machine.execSign rid s
  | .flush rid => Sys2Proof.Machine.execFlush rid s
  | .flushNow rid => Sys2Proof.Machine.execFlushNow rid s
  | .chronTraceData => Sys2Proof.Machine.execChronTraceData s
  | .mbist rid fails => Sys2Proof.Machine.execMbist rid fails s
  | .loopScan rid differs => Sys2Proof.Machine.execLoopScan rid differs s
  | .sensorTrip rid arg reported => Sys2Proof.Machine.execSensorTrip rid arg reported s
  | .fuseKcv rid => Sys2Proof.Machine.execFuseKcv rid s
  | .poresetRelease tests => Sys2Proof.Machine.execPoresetRelease tests s
  | .tetherPowerLoss => Sys2Proof.Machine.execTetherPowerLoss s
  | .clk32Healthy => Sys2Proof.Machine.execClk32Healthy s
  | .dbgAuthLow => Sys2Proof.Machine.execDbgAuthLow s

end Sys2Proof.Machine
end

