-- ==== Sys2Proof/Machine/Idle.lean ====
section
/-! DEFINITION. What the block does on an empty queue: one register clock passes, and a command that waits with its
action for a chronicle entry (R597) is carried out once the AUDIT sink takes entries again. -/
namespace Sys2Proof.Machine
open Sys2Proof

/-- Core clocks in one register clock (R7, R22). -/
def clocksPerRegClock : Nat := 4

/-- One register clock, as far as the clocks run (R62): the core clocks since the last tick are counted while OT_CLK_CORE
is acknowledged, and the lanes run through them; the soft resets in progress run on while OT_CLK_REG is. -/
def regClock : M Unit := do
  if (← getS).clkRuns .core then
    let n ← laneClocks clocksPerRegClock fun _ => false
    let t := (← getS).time
    prim (.time { t with clk := t.clk + (clocksPerRegClock - n) })
    idleOff
  let s ← getS
  if !s.passes.isEmpty then kilnRefresh
  if s.clkRuns .reg then forM s.srst fun p => prim (.srst p.1 (p.2 - 1))

/-- The waiting command that may be carried out now. -/
def State.ready (s : State) : Option (Instr × List Instr) :=
  if s.auditTakes && !s.holdOwed then
    match s.chron.waiting with
    | c :: r => some (c, r)
    | [] => none
  else none

/-- The block with an empty queue. -/
def idle (s : State) : Host.Outcome State Fault Refusal :=
  match s.ready with
  | none => exec1 regClock s
  | some (c, r) =>
    match exec c { s with chron := { s.chron with waiting := r, late := true } } with
    | .next t => .next { t with chron := { t.chron with late := false } }
    | o => o

end Sys2Proof.Machine
end

