-- ==== Sys2Proof/WellFormed.lean ====
section
/-! DEFINITION. Which commands the boundary of the block can present: the lengths of byte strings that its interfaces fix, and
the lists that name each thing once. -/
namespace Sys2Proof

/-- Length of the data of a memory write request: one or two beats of 32 bytes (R41). -/
def requestBytes (two : Bool) : Nat := if two then 64 else 32

/-- A list names no element twice. -/
def onceEach {α : Type} [DecidableEq α] : List α → Bool
  | [] => true
  | x :: xs => !xs.contains x && onceEach xs

/-- The command is one that the boundary can present. -/
def Instr.wf : Instr → Bool
  | .registerWrite _ _ _ _ _ _ _ record => decide (record.length ≤ 64)
  | .memWriteRequest _ two _ _ _ data _ _ => decide (data.length = requestBytes two)
  | .storageUnitAccept data _ => decide (data.length = 512) || decide (data.length = 4096)
  | .anchorReadback err read _ _ => err || decide (read.length = 64)
  | .startUpScan store => onceEach (store.map fun r => r.1) && store.all fun r => decide (r.1 < 64 ∧ r.2.length = 64)
  | .anchorRead _ _ words => decide (words.length = 64)
  | .wakeFrame _ _ fd _ _ data => decide (data.length ≤ (if fd then 64 else 8))
  | .moduleReadDone _ got => match got with
    | none => true
    | some r => decide (r.length = 224)
  | .challengePoll _ got => match got with
    | none => true
    | some r => decide (r.2.length = 64)
  | _ => true

end Sys2Proof
end

