-- ==== Sys2Proof/Safety.lean ====
section
/-! DEFINITION. The words that claims are stated in: what a step leaves unchanged, the invariant that every step keeps, and a run
that never stops. -/
namespace Sys2Proof.Machine
open Sys2Proof

/-! ### What a step leaves unchanged -/

/-- The pieces that State is made of. -/
inductive Piece where
  | pending | regs | srst | slowed | readShadow | writeShadow | gusts | cmdLate | bnd | time | chron | counted | keys | slots
  | nodes | rng | drawn | cellar | assoc | parked | peers | rules | lookup | counters | anchor | ports | streams | power
  | wake | tamper | modules | lanes | sched | queues | engine | mem | roots | passes | units | parts | loose | out | free
  deriving DecidableEq, Repr

/-- Two states agree on a piece. -/
def Piece.same : Piece → State → State → Prop
  | .pending, s, t => s.pending = t.pending
  | .regs, s, t => s.regs = t.regs
  | .srst, s, t => s.srst = t.srst
  | .slowed, s, t => s.slowed = t.slowed
  | .readShadow, s, t => s.readShadow = t.readShadow
  | .writeShadow, s, t => s.writeShadow = t.writeShadow
  | .gusts, s, t => s.gusts = t.gusts
  | .cmdLate, s, t => s.cmdLate = t.cmdLate
  | .bnd, s, t => s.bnd = t.bnd
  | .time, s, t => s.time = t.time
  | .chron, s, t => s.chron = t.chron
  | .counted, s, t => s.counted = t.counted
  | .keys, s, t => s.keys = t.keys
  | .slots, s, t => s.slots = t.slots
  | .nodes, s, t => s.nodes = t.nodes
  | .rng, s, t => s.rng = t.rng
  | .drawn, s, t => s.drawn = t.drawn ∧ s.blinded = t.blinded
  | .cellar, s, t => s.cellar = t.cellar
  | .assoc, s, t => s.assoc = t.assoc
  | .parked, s, t => s.parked = t.parked
  | .peers, s, t => s.peers = t.peers
  | .rules, s, t => s.rules = t.rules
  | .lookup, s, t => s.lookup = t.lookup
  | .counters, s, t => s.counters = t.counters
  | .anchor, s, t => s.anchor = t.anchor
  | .ports, s, t => s.ports = t.ports
  | .streams, s, t => s.streams = t.streams
  | .power, s, t => s.power = t.power
  | .wake, s, t => s.wake = t.wake
  | .tamper, s, t => s.tamper = t.tamper
  | .modules, s, t => s.modules = t.modules
  | .lanes, s, t => s.lanes = t.lanes
  | .sched, s, t => s.sched = t.sched
  | .queues, s, t => s.queues = t.queues
  | .engine, s, t => s.engine = t.engine
  | .mem, s, t => s.mem = t.mem
  | .roots, s, t => s.roots = t.roots
  | .passes, s, t => s.passes = t.passes
  | .units, s, t => s.units = t.units
  | .parts, s, t => s.parts = t.parts
  | .loose, s, t => s.loose = t.loose
  | .out, s, t => s.out = t.out
  | .free, s, t => s.free = t.free

/-- Every piece but those listed is unchanged. -/
def SameBut (l : List Piece) (s t : State) : Prop := ∀ p : Piece, p ∉ l → p.same s t

/-- The pieces listed are unchanged. -/
def Kept (l : List Piece) (s t : State) : Prop := ∀ p ∈ l, p.same s t

/-- Every word of the register window but those that `f` picks is unchanged. -/
def WordsBut (f : Nat → Bool) (s t : State) : Prop := ∀ a : Nat, f a = false → regWord t.regs a = regWord s.regs a

/-- The words that recording events of the pages `evts` changes: their PG_EVT_RAW and PG_EVT_STICKY, those of the CHRON page, and
CHRON_AUDIT_STAT, which counts the events deferred. -/
def eventWord (evts : List Nat) (a : Nat) : Bool :=
  ((3 :: evts).contains (a / 0x1000) && (a % 0x1000 = 0x10 || a % 0x1000 = 0x1C)) || a = 0x3058

/-- The header words that an accepted write to page `p` changes (R79): PG_WRCOUNT and PG_LASTWR_TS. -/
def acceptWord (p a : Nat) : Bool := a / 0x1000 = p && (a % 0x1000 = 0x20 || a % 0x1000 = 0x28 || a % 0x1000 = 0x2C)

/-- The words that something which is no write changes: `own`, and the event words of the pages `evts`. -/
def ownWords (own evts : List Nat) (a : Nat) : Bool := own.contains a || eventWord evts a

/-- The words that an accepted write to page `p` changes: what every accepted write does, `own`, and the event words of the
pages `evts` and of `p`. -/
def wrWords (p : Nat) (own evts : List Nat) (a : Nat) : Bool := acceptWord p a || ownWords own (p :: evts) a

/-- As `ownWords`, with all words of the pages `ps` that stand at or above offset 0x040. -/
def ownPages (ps evts : List Nat) (a : Nat) : Bool := (ps.contains (a / 0x1000) && decide (0x40 ≤ a % 0x1000)) || eventWord evts a

/-- As `wrWords`, with all words of the pages `ps` that stand at or above offset 0x040. -/
def wrPages (p : Nat) (ps evts : List Nat) (a : Nat) : Bool := acceptWord p a || ownPages ps (p :: evts) a

/-- The pieces that recording an event changes. -/
def recordParts : List Piece := [.regs, .time, .chron, .counted]

/-- The pages of the queues, one for each tenant. -/
def queuePages : List Nat := (List.range 8).map (0x10 + ·)

/-- The pages of the stream ports. -/
def portPages : List Nat := [0x18, 0x19, 0x1A, 0x1B, 0x1C]

/-- The pages of the lanes and of their scheduler. -/
def lanePages : List Nat := [0x08, 0x09, 0x0A, 0x0B, 0x0C]

/-- As `ownPages`, with PG_STAT of page `p`, which can go to FAULT. -/
def faultPages (p : Nat) (ps evts : List Nat) (a : Nat) : Bool := decide (a = 0x1000 * p + 0x0C) || ownPages ps evts a

/-- What a wake changes. -/
def wakeParts : List Piece := .power :: recordParts

/-- What freeing a Cellar entry changes: with the last entry of a replay, the replay is complete, and lanes that served it alone are
not available any longer. -/
def freeParts : List Piece := .cellar :: .ports :: wakeParts
def freePages : List Nat := [0x04, 0x05, 0x0C, 0x1D, 0x3C]

/-- What ending accepted items and waiting key commands before their time changes: pieces of State, and pages. -/
def abortParts : List Piece :=
  [.drawn, .cellar, .cmdLate, .counters, .keys, .loose, .nodes, .out, .parts, .passes, .ports, .power, .queues, .rng, .slots, .streams,
    .mem, .units] ++ recordParts
def abortPages : List Nat :=
  queuePages ++ portPages ++ freePages
    ++ [0x24, 0x28, 0x29, 0x2A, 0x2B, 0x2C, 0x30, 0x34, 0x35, 0x36, 0x37, 0x38, 0x3A]

/-- What the end of a stream item before or at its release changes. -/
def streamParts : List Piece := [.ports, .cellar, .out, .power, .streams] ++ recordParts
def streamPages : List Nat := portPages ++ freePages

/-- What the lanes doing an item's work at once changes (R113, R135). -/
def workParts : List Piece := [.lanes, .sched] ++ recordParts

/-- What a tamper event at some grade can change: pieces of State, and pages. -/
def tamperParts : List Piece :=
  [.drawn, .cellar, .cmdLate, .counters, .gusts, .keys, .lanes, .loose, .mem, .nodes, .out, .parts, .passes, .ports, .power, .queues,
    .rng, .roots, .sched, .slots, .tamper, .units, .wake] ++ recordParts
def tamperPages : List Nat :=
  queuePages ++ portPages ++ lanePages ++ [0x04, 0x05, 0x06, 0x1D, 0x24, 0x28, 0x29, 0x2A, 0x2B, 0x2C, 0x30, 0x34, 0x35, 0x36, 0x37, 0x38, 0x3A, 0x3C]

/-- What the commands of the queue engine change. -/
def queueParts : List Piece :=
  [.drawn, .cellar, .cmdLate, .keys, .lanes, .nodes, .out, .ports, .power, .queues, .rng, .sched, .slots] ++ recordParts
def queueWords : List Nat := queuePages ++ lanePages ++ freePages ++ [0x35, 0x36, 0x37, 0x3A]

/-- The page of a queue pair. -/
def queuePage (q : Nat) : Nat := 0x10 + q / 4

/-- The page of a port. -/
def portPage (n : Nat) : Nat := 0x19 + n / 8

/-! ### When a command runs, and how it ends -/

/-- A write of `v` to the register at `a` is accepted (R78). -/
abbrev State.accepts (s : State) (rid : BitVec 12) (a v : Nat) : Prop := s.writeOutcome (fullWrite rid a (BitVec.ofNat 32 v)) = 0

/-- A write that starts a command is accepted, the unit's page is ACTIVE, and BUSY is 0. -/
abbrev State.takes (s : State) (rid : BitVec 12) (u : CmdUnit) (a v : Nat) : Prop :=
  s.accepts rid a v ∧ s.active u.page = true ∧ s.fld u.busy = 0

/-- The command has ended with `code`: BUSY is 0, and RESULT is the code, with bit 7 when another command was written meanwhile. -/
abbrev ended (u : CmdUnit) (code : Nat) (s t : State) : Prop :=
  t.fld u.busy = 0 ∧ t.fld u.result = code + (if mget (fun _ => false) s.cmdLate u.page then 0x80 else 0)

/-- The event's bit of PG_EVT_RAW is 1. -/
abbrev State.shows (s : State) (e : PageEvent) : Prop := (s.fld (R.PG_EVT_RAW.EVT e.page)).testBit e.bit = true

/-- Nothing keeps an action of a security-class page waiting for its chronicle entry (R597). -/
abbrev State.heeds (s : State) : Prop := s.eventWaits = false

/-- An association issues its next value at once (R278, R288): the record of this start-up has been read back, its counter runs, its
keys may be used, no switch is due, and the ceiling is not reached. -/
abbrev State.issuesNow (s : State) (eng : Engine) (ws : List Word) : Prop :=
  s.anchor.leased = true ∧ (s.counter (eHandle ws)).started = true ∧ (s.counter (eHandle ws)).exhausted = 0 ∧ s.keysOk ws (some eng) true = true
  ∧ (s.slot (ctrSlot ws)).active.isSome = true ∧ s.switchDue ws = none ∧ s.spent ws = false
  ∧ (ctr32 ws = true ∨ s.nextValue ws < s.ceiling)

/-- The scheduler once it has taken what is accepted and assigned what waits (R113). -/
def State.schedNow (s : State) : SchedState :=
  let d := s.sched.fit s.laneJobs
  (State.assigned { s with sched := d } d.items).sched

/-- The lane work of an owner, if it has any left, stands on a lane in service (R113, R117). -/
abbrev State.canWork (s : State) (o : LaneOwner) : Prop :=
  ∀ x ∈ s.schedNow.items, x.owner = o → x.done = true ∨ x.lane.any s.inService = true

/-- The same of both halves of an item's lane work. -/
abbrev State.itemCanWork (s : State) (i : SItem) : Prop :=
  s.canWork (.entry (i.entry.getD 0)) ∧ (i.pair.isSome = true → s.canWork (.half (i.entry.getD 0)))

/-- No other item of a port has an item's number. -/
abbrev State.onlyItem (s : State) (n : Nat) (i : SItem) : Prop := ∀ j ∈ (s.port n).items, j.id = i.id → j = i

/-- A stream entry of the Cellar is free and no item has asked for one (R571). -/
abbrev State.entryFree (s : State) : Prop :=
  (s.freeEntry .stream).isSome = true ∧ ∀ p ∈ s.ports, ∀ x ∈ p.2.items, x.asked = none

/-- The descriptor `d` of entry `e` executes opcode `op` for the first time, and what lane work it has stands on lanes in service. -/
abbrev State.runs (s : State) (op e q : Nat) (d : QDesc) (c : CEntry) : Prop :=
  s.descOf e = some (q, d) ∧ s.entry e = some c ∧ d.opcode = op ∧ d.phase = .executing ∧ s.loadWaits e = false
  ∧ (d.onLanes = true → s.canWork (.entry e) ∧ (op = 0x07 → s.canWork (.half e))) ∧ (c.replayed && c.digestDone) = false

/-- The descriptor's operation has ended with a status and RESULT. -/
abbrev endedWith (q : Nat) (d : QDesc) (st : Nat) (result : Bytes) (t : State) : Prop :=
  ∃ x ∈ t.descs q, x.seq = d.seq ∧ x.phase = .ended ∧ x.status = st ∧ x.result = result

/-- Memory answers OKAY to a write of `n` bytes at `a`. -/
abbrev stores (m : Dram) (a n : Nat) : Prop := (m.bad.any fun x => decide (a ≤ x ∧ x < a + n)) = false

/-- The reads of `n` bytes of SRC and `k` of AUX that a descriptor drives out. -/
abbrev readsOf (s : State) (q : Nat) (d : QDesc) (m : Dram) (n k : Nat) : List Out :=
  readReqs m d.src n (s.queueRid q) ++ readReqs m d.aux k (s.queueRid q)

/-- What has been driven out since `s`: a descriptor's reads, and the writes of its output `b` to its DST. -/
abbrev wrote (s : State) (q : Nat) (d : QDesc) (reads : List Out) (m : Dram) (b : Bytes) (t : State) : Prop :=
  t.out = s.out ++ reads ++ writeReqs m d.dst b (s.queueRid q)

/-- An EMPTY slot that may take a key of a type (R427, R434), while key services are not refused (R621). -/
abbrev State.fits (s : State) (n type : Nat) : Prop := s.servicesRefused = false ∧ n ≠ attestSlot ∧ (s.slot n).st = .empty ∧ s.wideBad n type = false

/-- The descriptor has loaded its target, which was EMPTY, and has ended OK with the key's check value, slot and generation. -/
abbrev loaded (s : State) (q : Nat) (d : QDesc) (type : Nat) (m : Bytes) (p : Word) (prov : Prov) (node : Option Nat) (t : State) : Prop :=
  let n := d.slotB
  let b : Bank := ⟨m, kcvOf type m, (s.slot n).nextGen, p, prov, startKeyOf type m, node, 0⟩
  (t.slot n).st = .live ∧ (t.slot n).type = BitVec.ofNat 8 type ∧ (t.slot n).tenant = BitVec.ofNat 3 d.tenant
  ∧ (t.slot n).active = some b ∧ endedWith q d stOk (loadedBytes n b) t

/-- An entry stands among those on their way to a sink, or, with the hold full, its event has been counted (R597). -/
abbrev recorded (page : Nat) (code : BitVec 16) (payload : BitVec 96) (t : State) : Prop :=
  (∃ w ∈ t.chron.writer ++ t.chron.hold, w.entry.code = code ∧ w.entry.page = BitVec.ofNat 8 page ∧ w.entry.payload = payload)
  ∨ (mget (fun _ => none) t.counted code.toNat).isSome = true

/-- A wake has been logged (R535). -/
abbrev woken (code chan detail : Nat) (late abort : Bool) (s t : State) : Prop :=
  let i := s.fld R.WAKE_LOG_PTR.NEXT
  t.fld (R.WAKE_SRC.CODE i) = code % 2 ^ 4 ∧ t.fld (R.WAKE_SRC.CHAN i) = chan % 2 ^ 2 ∧ t.fld (R.WAKE_SRC_DETAIL.DETAIL i) = detail % 2 ^ 32
  ∧ t.fld (R.WAKE_SRC.LATE i) = b2n late ∧ t.fld (R.WAKE_SRC.ABORT i) = b2n abort
  ∧ t.fld R.WAKE_LOG_PTR.NEXT = (i + 1) % 16 ∧ t.shows E.WAKE.WOKEN

/-- What a wake does in each power state (R517, R519, R535). -/
abbrev wakes (code chan detail : Nat) (s t : State) : Prop :=
  let step := s.fld R.POWER_STAT.STEP
  (s.power' = pwAwake → t.power' = pwAwake ∧ t.power = s.power)
  ∧ (s.power' = pwAsleep → woken code chan detail false false s t ∧ t.power' = pwAscending ∧ t.fld R.POWER_STAT.STEP = 1)
  ∧ (s.power' = pwDescending → step < 3 → woken code chan detail false true s t ∧ t.power' = pwAwake ∧ t.shows E.POWER.ABORTED)
  ∧ (s.power' = pwDescending → 3 ≤ step → woken code chan detail true false s t ∧ t.fld R.POWER_STAT.LATE_WAKE = 1
      ∧ t.power' = pwDescending)
  ∧ (s.power' = pwAscending → woken code chan detail false false s t ∧ t.power' = pwAscending)

/-- The tag of a line, and the counter block over it, that the caches hold. -/
def State.tagHeld (s : State) (d : Side) (a : Nat) : Option Bytes :=
  (s.cached true d.n d.newTree 0 (d.lineOf a / 8)).map fun l => slice l.data (8 * (d.lineOf a % 8)) 8
def State.blockHeld (s : State) (d : Side) (a : Nat) : Option Bytes :=
  if s.quarCovers d.n d.newTree 0 (d.chunk a) then none else (s.cached false d.n d.newTree 0 (d.chunk a)).map CacheLine.data

/-- What verifying a line finds where the caches hold what it needs: whether the tag matches, and the plaintext. `ctr`: the counter
that a transaction has fixed for a TREE line. -/
def State.verdict (s : State) (d : Side) (k km : Bytes) (a : Nat) (ct : Bytes) (ctr : Option (Nat × Nat) := none) :
    Option (Bool × Bytes) :=
  if d.c.mode = mdConf then some (true, lineXts k false a ct)
  else if d.c.mode = mdTag then (s.tagHeld d a).map fun tag => (decide (tagTag km a ct = tag), lineXts k false a ct)
  else match s.blockHeld d a, s.tagHeld d a with
    | some b, some tag =>
      let c := ctr.getD (s.childCounter d.n d.newTree 0 (d.chunk a) b (d.lineOf a % 64))
      some (decide (treeTag km a c.1 c.2 ct = tag), lineCtr k d.n a c.1 c.2 ct)
    | _, _ => none

/-- A line cannot be read: reported, answered with an error, or in the media table (R340, R341). -/
abbrev State.mediaFails (s : State) (a : Nat) (bad : Bool) (v : MemView) : Prop :=
  bad = true ∨ (memLine v a).1 ≠ .ok ∨ s.mediaBit a = true

/-- Something has been driven out since `s`. -/
def drove (x : Out) (s t : State) : Prop := ∃ before after, t.out = s.out ++ before ++ x :: after

/-! ### The invariant -/

/-- The maps of State in their canonical form: keys rising, and no entry equal to what an unlisted key reads as. -/
abbrev State.wf (s : State) : Prop :=
  mwf resetWord s.regs ∧ mwf (fun _ => 0) s.srst ∧ mwf (fun _ => false) s.slowed ∧ mwf (fun _ => none) s.readShadow
  ∧ mwf (fun _ => none) s.writeShadow ∧ mwf (fun _ => []) s.gusts ∧ mwf (fun _ => false) s.cmdLate
  ∧ mwf (fun _ => none) s.counted ∧ mwf (fun _ => {}) s.slots ∧ mwf (fun _ => {}) s.nodes ∧ mwf (fun _ => []) s.drawn
  ∧ mwf (fun _ => []) s.blinded ∧ mwf (fun _ => none) s.cellar.entries ∧ mwf (fun _ => none) s.assoc
  ∧ mwf (fun _ => false) s.parked ∧ mwf (fun _ => none) s.peers ∧ mwf (fun _ => {}) s.rules ∧ mwf (fun _ => {}) s.counters
  ∧ mwf (fun _ => {}) s.ports ∧ mwf (fun _ => {}) s.modules ∧ mwf (fun _ => {}) s.lanes ∧ mwf (fun _ => {}) s.queues
  ∧ mwf (fun _ => none) s.mem.txns ∧ mwf (fun _ => none) s.roots ∧ mwf (fun _ => {}) s.parts ∧ mwf (fun _ => {}) s.loose

/-! ### Runs -/

/-- The state after `n` steps; a step that stops ends the run. -/
def runSteps : Nat → State → Option State
  | 0, s => some s
  | n + 1, s => match step s with
    | .next t => runSteps n t
    | _ => none

/-- A state from which no number of steps stops. -/
def State.safe (s : State) : Prop := ∀ n, (runSteps n s).isSome

end Sys2Proof.Machine
end

