-- ==== Sys2Proof/Certificates/Slice0/Obligations.lean ====
section
/-! DEFINITION. The statements for the provers. -/
open Sys2Proof Sys2Proof.Machine

/-- For every command and every state, a step of the state with the command at the front of its queue is the command's effect on the state
with the queue's rest. The queue is the model's own (log entry 1). -/
def Obligations.StepTakesFront : Prop :=
  ∀ (c : Instr) (rest : List Instr) (s : State), step { s with pending := c :: rest } = exec c { s with pending := rest }

/-- The model's choice for an empty queue (log entry 1). With no waiting command ready, the core clocks since the last tick grow by four
where OT_CLK_CORE is acknowledged and not otherwise, and the accumulator stays. With no pass of the Kiln, and either that clock stopped or no
lane in service or at work, every soft reset in progress also runs on by one clock where OT_CLK_REG is acknowledged, and nothing else changes
but the scheduler's list of items. With a waiting command ready, which needs the AUDIT sink able to take entries and nothing owed before, the
oldest one is carried out with its entries marked HELD, and its place freed. -/
def Obligations.IdleStep : Prop :=
  ∀ s : State, s.wf → s.pending = [] →
    (s.ready = none → ∃ t, step s = .next t ∧ t.time.acc = s.time.acc ∧ t.time.rate = s.time.rate
      ∧ t.time.clk = s.time.clk + (if s.clkRuns .core then 4 else 0)
      ∧ (s.passes = [] → (s.clkRuns .core = false ∨ ∀ l < 4, s.inService l = false ∧ (s.lane l).pipe = [] ∧ (s.lane l).folds = []
            ∧ (s.lane l).slots = [] ∧ (s.lane l).katLeft = 0) →
          SameBut [.time, .srst, .sched] s t ∧ t.time.seq = s.time.seq
          ∧ ∀ p, mget (fun _ => 0) t.srst p = mget (fun _ => 0) s.srst p - (if s.clkRuns .reg then 1 else 0)))
    ∧ (∀ c rest, s.chron.waiting = c :: rest → s.auditTakes = true → s.chron.hold = [] → s.chron.rejected = none → s.counted = [] →
        ∃ t u, exec c { s with chron := { s.chron with waiting := rest, late := true } } = .next u
          ∧ step s = .next t ∧ t = { u with chron := { u.chron with late := false } })

/-- exec answers a next state for every command and every state, with no fault and no refusal, and leaves the queue of waiting commands as it
is. So no number of steps stops, from any state. -/
def Obligations.NothingStops : Prop :=
  (∀ (c : Instr) (s : State), ∃ t, exec c s = .next t ∧ t.pending = s.pending) ∧ ∀ s : State, s.safe

/-- From every state whose register file, key slots and nodes, Cellar entries, association and rule tables, ports, queues, transactions, roots
and other maps are in canonical form (keys rising, and no entry equal to what an unlisted key reads as), every step that answers a next
state answers one whose maps are too. So equal contents are equal states. -/
def Obligations.StepKeepsForm : Prop := ∀ s t : State, s.wf → step s = .next t → t.wf

/-- In the state after OT_PORESET_N every register word is its reset word, every page carries its type, instance and layout version 0x01,
only IDENT and GLOBAL are ACTIVE, IDENT is sealed, event enables are the always-enabled bits, and no slot, node, entry, counter, region root
or partition is in use. The maps have their form, and the queue is empty. -/
def Obligations.ResetState : Prop :=
  let s := State.reset
  s.wf ∧ s.pending = [] ∧ (∀ a, regWord s.regs a = resetWord a)
  ∧ (∀ p < 64, ∀ d, pageSpec p = some d → s.view (0x1000 * p) = BitVec.ofNat 32 (d.type * 2 ^ 16 + d.inst * 2 ^ 8 + 1))
  ∧ (∀ p < 64, s.pageState p = (if p ≤ 1 then pgActive else pgOff) ∧ s.sealed p = decide (p = 0)
      ∧ s.fld (R.PG_EVT_RAW.EVT p) = 0 ∧ s.fld (R.PG_EVT_EN.EVT p) = (pageEvents p).always)
  ∧ (∀ n, (s.slot n).st = .empty) ∧ (∀ n, mget (fun _ => {}) s.nodes n = {}) ∧ (∀ e, s.entry e = none)
  ∧ (∀ loc, mget (fun _ => none) s.assoc loc = none) ∧ (∀ h, s.counter h = {}) ∧ (∀ n, mget (fun _ => none) s.roots n = none)
  ∧ s.time.acc = 0 ∧ s.time.frac = 0 ∧ s.fld R.TIME_STAT.VALID = 0 ∧ s.power' = pwAwake ∧ s.grounded = false

/-- While OT_CLK_CORE runs (its ACK is high), the time base is the accumulated value plus the core clocks since the last tick, capped at the
whole increment less 1 ns; else it is the accumulated value. It does not decrease over a register clock, nor over a tick of a clock that has
not failed, outside holdover and short of the end of its 64 bits, at which a rate written since the last tick takes effect. -/
def Obligations.TimeNeverDecreases : Prop :=
  ∀ s : State, s.wf → s.time.acc.toNat + 2 ^ 32 < 2 ^ 64 →
    (s.clkRuns .core = false → s.now = s.time.acc)
    ∧ (s.clkRuns .core = true → s.now.toNat = s.time.acc.toNat + min s.time.clk (s.increment / 2 ^ 32 - 1))
    ∧ (s.pending = [] → s.ready = none → ∃ t, step s = .next t ∧ s.now.toNat ≤ t.now.toNat)
    ∧ (∀ rc, s.fld R.TIME_STAT.HOLDOVER = 0 → s.time.clkFailed = false →
        ∃ t, exec (.timeTick rc) s = .next t ∧ s.now.toNat ≤ t.now.toNat ∧ t.time.rate.toNat = s.fld R.TIME_RATE.R_PPB)

/-- A rising WAKE_TRIG of a channel that listens opens its window. WAKE_FRAME in a window whose MAC matches a filter that has not seen its
counter stores the counter, raises CONFIRMED, raises OT_WAKE_REQ and wakes Otist, and one that finds OT_WAKE_REQ high is logged while AWAKE
too; one that only an old counter spoils raises REPLAY, and one whose MAC fails raises MAC_FAIL. LISTEN_WINDOW_END closes a window that has run out as a false wake, and backs the channel off at the
limit; BACKOFF_END ends the backoff. WAKE_CLEAR lowers OT_WAKE_REQ; a write of LAST_WCTR keeps the maximum. -/
def Obligations.WakeGuard : Prop :=
  ∀ (s : State) (rid : BitVec 12) (ch : Fin 4),
    let n := ch.val
    let w := s.wake
    (s.guarding = true → (s.fld R.WAKE_CFG.CHAN_EN).testBit n = true → w.backoff.getD n none = none → w.windows.getD n none = none →
      ∃ t, exec (.wakeTrig ch) s = .next t ∧ SameBut [.wake] s t
        ∧ t.wake = { w with windows := w.windows.set n (some s.now.toNat) })
    ∧ (∀ (ide fd crcOk : Bool) (id : BitVec 29) (data : Bytes) (key : Bytes), s.heeds → s.guarding = true →
        (w.windows.getD n none).isSome = true → w.guardKey = some key →
        let fs := (List.range 8).filter fun f => s.filtFits n f ide fd crcOk id.toNat data
        let ok := fs.filter fun f => (s.filtCheck key f ide id.toNat data).2
        let found := ok.find? fun f => decide (s.fld (R.WAKE_FILT_WCTR.LAST_WCTR f) < (s.filtCheck key f ide id.toNat data).1)
        ∃ t, exec (.wakeFrame ch ide fd crcOk id data) s = .next t ∧ SameBut ([.wake, .power] ++ recordParts) s t
          ∧ WordsBut (ownPages [0x05, 0x3C] [0x05, 0x3C]) s t
          ∧ (∀ f, found = some f → t.fld (R.WAKE_FILT_WCTR.LAST_WCTR f) = (s.filtCheck key f ide id.toNat data).1
              ∧ t.shows E.WAKE.CONFIRMED
              ∧ ((s.power' = pwAwake → w.req = false) → wakes 0x2 n (id.toNat + bitAt ide 31) s t)
              ∧ (s.power' = pwAwake → w.req = true → woken 0x2 n (id.toNat + bitAt ide 31) false false s t ∧ t.power' = pwAwake)
              ∧ t.wake = { w with windows := w.windows.set n none, falseRun := w.falseRun.set n 0, req := true })
          ∧ (found = none → t.wake = w ∧ t.power = s.power ∧ (ok ≠ [] → t.shows E.WAKE.REPLAY)
              ∧ (ok = [] → fs ≠ [] → t.shows E.WAKE.MAC_FAIL)))
    ∧ (∀ t0, s.heeds → w.windows.getD n none = some t0 → t0 + s.listenNs ≤ s.now.toNat →
        let run := w.falseRun.getD n 0 + 1
        let count (s : State) : Nat := bits (s.fld R.WAKE_FALSE.COUNT) (8 * n + 7) (8 * n)
        ∃ t, exec (.listenWindowEnd ch) s = .next t ∧ SameBut (.wake :: recordParts) s t
          ∧ WordsBut (ownWords [R.WAKE_FALSE.COUNT.addr] [0x3C]) s t ∧ count t = min 255 (count s + 1) ∧ t.shows E.WAKE.FALSE_WAKE
          ∧ t.wake.windows = w.windows.set n none
          ∧ (run < max 1 (s.fld R.WAKE_CFG.FALSE_LIMIT) → t.wake.falseRun = w.falseRun.set n run ∧ t.wake.backoff = w.backoff)
          ∧ (max 1 (s.fld R.WAKE_CFG.FALSE_LIMIT) ≤ run →
              t.wake.backoff = w.backoff.set n (some (s.now.toNat + s.fld R.WAKE_CFG.BACKOFF_S * 1000000000))))
    ∧ (∀ t0, w.backoff.getD n none = some t0 → t0 ≤ s.now.toNat →
        ∃ t, exec (.backoffEnd ch) s = .next t ∧ t.wake = { w with backoff := w.backoff.set n none }
          ∧ SameBut (.wake :: recordParts) s t ∧ WordsBut (ownWords [] [0x3C]) s t)
    ∧ (s.accepts rid R.WAKE_CLEAR.CLEAR.addr 1 →
        ∃ t, exec (.wakeClear rid) s = .next t ∧ t.wake = { w with req := false } ∧ SameBut (.wake :: recordParts) s t
          ∧ WordsBut (wrWords 0x3C [] []) s t)
    ∧ (∀ (f : Fin 8) (v : Word), s.accepts rid (R.WAKE_FILT_WCTR.LAST_WCTR f).addr v.toNat →
        ∃ t, exec (.wakeFiltWctr rid f v) s = .next t
          ∧ t.fld (R.WAKE_FILT_WCTR.LAST_WCTR f) = max (s.fld (R.WAKE_FILT_WCTR.LAST_WCTR f)) v.toNat
          ∧ SameBut recordParts s t ∧ WordsBut (wrWords 0x3C [(R.WAKE_FILT_WCTR.LAST_WCTR f).addr] []) s t)

/-- VBAT_RESTORE with its source enabled, HOST_REQUEST_WAKE and an accepted WAKE wake Otist from each power state as R517 says;
DESCENT_ABORT aborts a descent before its step 3. An accepted SLEEP starts a descent, or is queued in an ascent. HOST_ACCESS_ASLEEP raises
the register clock's request and takes HOST out of retention once that clock runs, and HOST_RETENTION_TIMEOUT after 100 µs undoes both.
CLOCK_ACK of a raised request marks it, that of the register clock lets HOST out where an access asked for it, and one later than 20 µs is a
grade 0 alarm. HANDSHAKE_VIOLATION counts the error, names its group and port, and alarms. -/
def Obligations.Wakes : Prop :=
  ∀ (s : State) (rid : BitVec 12),
    let pages := [0x05, 0x3C]
    let framed (t : State) : Prop := SameBut (.power :: recordParts) s t ∧ WordsBut (ownPages pages pages) s t
    let written (t : State) : Prop := SameBut (.power :: recordParts) s t ∧ WordsBut (wrPages 0x05 pages pages) s t
    (s.heeds → s.fld R.WAKE_SRC_EN.VBAT = 1 → s.bnd.mainOff = false →
      ∃ t, exec .vbatRestore s = .next t ∧ framed t ∧ wakes 0x6 0 0 s t)
    ∧ (∀ (group : BitVec 4) (port : BitVec 5), s.heeds →
        ∃ t, exec (.hostRequestWake group port) s = .next t ∧ framed t
          ∧ wakes 0x1 0 (group.toNat * 2 ^ 24 + port.toNat * 2 ^ 16) s t)
    ∧ (∀ (code : BitVec 4) (chan : BitVec 2) (detail : Word), s.heeds → s.power' = pwDescending → s.fld R.POWER_STAT.STEP < 3 →
        ∃ t, exec (.descentAbort code chan detail) s = .next t ∧ framed t ∧ woken code.toNat chan.toNat detail.toNat false true s t
          ∧ t.power' = pwAwake ∧ t.fld R.POWER_STAT.STEP = 0 ∧ t.shows E.POWER.ABORTED
          ∧ t.fld R.POWER_COUNTS.ABORTS = min (s.fld R.POWER_COUNTS.ABORTS + 1) (2 ^ 16 - 1))
    ∧ (s.accepts rid R.POWER_CMD.OP.addr (1 * 2 ^ 28) → s.active 0x05 = true →
        ∃ t, exec (.sleep rid) s = .next t ∧ written t
          ∧ (s.power' = pwAwake → t.power' = pwDescending ∧ t.fld R.POWER_STAT.STEP = 1 ∧ t.power.began = s.now.toNat)
          ∧ (s.power' = pwAscending → t.power' = pwAscending ∧ t.fld R.POWER_STAT.SLEEP_QUEUED = 1)
          ∧ (s.power' = pwDescending ∨ s.power' = pwAsleep → t.power' = s.power' ∧ t.power = s.power))
    ∧ (s.accepts rid R.POWER_CMD.OP.addr (2 * 2 ^ 28) → s.active 0x05 = true →
        ∃ t, exec (.wake rid) s = .next t ∧ written t ∧ wakes 0x1 0 0 s t)
    ∧ (s.asleep = true →
        ∃ t, exec .hostAccessAsleep s = .next t ∧ SameBut [.power, .regs] s t ∧ WordsBut (ownWords [R.POWER_STAT.STATE.addr] []) s t
          ∧ t.clkReq .reg = true ∧ t.power.ack = s.power.ack
          ∧ (s.clkRuns .reg = true → (t.fld R.POWER_STAT.DOMAINS_ON).testBit 4 = true)
          ∧ (s.clkRuns .reg = false → t.fld R.POWER_STAT.DOMAINS_ON = s.fld R.POWER_STAT.DOMAINS_ON) ∧ t.power.hostSince = some s.now.toNat)
    ∧ (∀ t0, s.asleep = true → s.power.hostSince = some t0 → t0 + 100000 ≤ s.now.toNat →
        ∃ t, exec .hostRetentionTimeout s = .next t ∧ SameBut [.power, .regs] s t
          ∧ WordsBut (ownWords [R.POWER_STAT.STATE.addr] []) s t
          ∧ t.clkReq .reg = false ∧ (t.fld R.POWER_STAT.DOMAINS_ON).testBit 4 = false ∧ t.power.hostSince = none)
    ∧ (∀ (c : Fin 3) (t0 : Nat), s.power.req.find? (fun p => decide (p.1 = clkOf c)) = some (clkOf c, t0) →
        (clkOf c) ∉ s.power.ack →
        ∃ t, exec (.clockAck c) s = .next t ∧ SameBut (.power :: recordParts) s t
          ∧ WordsBut (ownWords (if clkOf c = .reg ∧ s.power.hostSince.isSome then [R.POWER_STAT.STATE.addr] else []) []) s t
          ∧ (clkOf c = .reg → s.power.hostSince.isSome = true → (t.fld R.POWER_STAT.DOMAINS_ON).testBit 4 = true)
          ∧ t.power = { s.power with ack := s.power.ack ++ [clkOf c] }
          ∧ (t0 + 20000 < s.now.toNat → recorded 0x05 0x0020 (alarmPayload 0 0 0 false 0x05) t))
    ∧ (∀ (group : BitVec 4) (port : BitVec 8),
        ∃ t, exec (.handshakeViolation group port) s = .next t ∧ SameBut recordParts s t
          ∧ WordsBut (ownWords [R.GLOBAL_BND_ERR.COUNT.addr] []) s t
          ∧ t.fld R.GLOBAL_BND_ERR.COUNT = min (s.fld R.GLOBAL_BND_ERR.COUNT + 1) (2 ^ 16 - 1)
          ∧ t.fld R.GLOBAL_BND_ERR.GROUP = group.toNat ∧ t.fld R.GLOBAL_BND_ERR.PORT = port.toNat
          ∧ recorded 0x01 0x0020 (alarmPayload 0 0 0 false 0x01 ||| BitVec.ofNat 96 (group.toNat * 2 ^ 40)) t)

/-- POWER_SEG_CTL starts to park the awake segments named, or raises PARK_FAIL where no image can be, and unparks the others. SEG_PARKED of
a segment that nothing holds strips its records and parks it; PARKED_FRAME unparks a parked segment; SEG_UNPARKED restores a segment, an
authentic record among it. ANCHOR_COMMIT_POINT of a descent past its drain whose work has settled, with KEYCORE idle, empties the caches, powers the
lanes off, loses what sleep loses and reaches step 7. DESCENT_COMPLETE reaches ASLEEP, or ascends after a late wake. ASCENT_COMPLETE with nothing left to replay reaches AWAKE. -/
def Obligations.PowerCommands : Prop :=
  ∀ s : State, s.wf →
    let segPages := queuePages ++ [0x05, 0x18, 0x20, 0x21]
    (∀ (rid : BitVec 12) (park : BitVec 8), s.accepts rid R.POWER_SEG_CTL.PARK.addr park.toNat → s.active 0x05 = true →
      ∃ t, exec (.powerSegCtl rid park) s = .next t ∧ SameBut (.power :: recordParts) s t
        ∧ WordsBut (wrPages 0x05 [0x05, 0x18] []) s t
        ∧ ∀ g < 8, (park.toNat.testBit g = true → s.segState g = 0 → s.segKey.isSome = true → t.segState g = 1)
          ∧ (park.toNat.testBit g = true → s.segState g = 0 → s.segKey = none → t.segState g = 0 ∧ t.shows E.POWER.PARK_FAIL)
          ∧ (park.toNat.testBit g = true → s.segState g ≠ 0 → t.segState g = s.segState g)
          ∧ (park.toNat.testBit g = false → t.segState g = if s.segState g = 2 then 3 else s.segState g)
          ∧ (park.toNat.testBit g = false → s.segState g = 1 → t.power.segWake.testBit g = true))
    ∧ (∀ g : Fin 8, s.segState g = 1 → s.segHeld g = false →
        ∃ t, exec (.segParked g) s = .next t ∧ SameBut ([.assoc, .counters, .parked, .peers, .out, .power] ++ recordParts) s t
          ∧ WordsBut (ownPages segPages segPages) s t
          ∧ (s.segKey = none → t.segState g = 0 ∧ t.shows E.POWER.PARK_FAIL ∧ t.assoc = s.assoc)
          ∧ (s.segKey.isSome = true → t.segState g = (if s.power.segWake.testBit g then 3 else 2) ∧ t.shows E.POWER.SEG_PARKED
              ∧ t.fld (R.SEG_EPOCH.EPOCH g) = (s.fld (R.SEG_EPOCH.EPOCH g) + 1) % 2 ^ 48
              ∧ ∀ p ∈ s.assocs, s.entrySeg p.2 = g → t.parkedAt p.1 = true))
    ∧ (∀ g : Fin 8, s.segState g = 2 →
        ∃ t, exec (.parkedFrame g) s = .next t ∧ SameBut [.power, .regs] s t ∧ WordsBut (ownPages [0x05, 0x18] []) s t
          ∧ t.segState g = 3 ∧ ∀ k < 8, k ≠ g.val → t.segState k = s.segState k)
    ∧ (∀ (g : Fin 8) (m : MemView), s.segState g = 3 →
        ∃ t, exec (.segUnparked g m) s = .next t ∧ t.segState g = 0 ∧ t.shows E.POWER.SEG_UNPARKED
          ∧ Kept [.pending, .srst, .slowed, .readShadow, .writeShadow, .bnd, .rules, .lookup, .anchor, .streams, .modules, .engine, .free] s t
          ∧ (s.power.segRecs.getD g [] = [] → SameBut (.power :: recordParts) s t ∧ WordsBut (ownPages segPages segPages) s t)
          ∧ (∀ loc k, s.power.segRecs.getD g [] = [(3, loc)] → s.parkedAt loc = true →
              s.parkKey (s.fld (R.SEG_KEY_EPOCH.EPOCH g)) = some k →
              let b := (memBytes m (s.segAddr g 0) 80).2
              let iv := segIv 3 g loc (s.fld (R.SEG_EPOCH.EPOCH g) - 1)
              (memBytes m (s.segAddr g 0) 80).1 = false → gcmTag k iv [] (b.take 64) = b.drop 64 →
              t.at loc = some (bytesWords (gcmOpen k iv (b.take 64))) ∧ t.parkedAt loc = false))
    ∧ (∀ m : MemView, s.power' = pwDescending → 3 ≤ s.fld R.POWER_STAT.STEP → s.fld R.POWER_STAT.STEP < 7 → s.settled = true →
        s.keycoreIdle = true →
        ∃ t, exec (.anchorCommitPoint m) s = .next t ∧ t.power' = pwDescending ∧ t.fld R.POWER_STAT.STEP = 7
          ∧ t.mem.ctr = [] ∧ t.mem.tag = [] ∧ t.drawn = [] ∧ t.blinded = [] ∧ t.nodes = [] ∧ t.rng.seeds = [] ∧ t.rng.drbg = none
          ∧ t.rng.fifo = [] ∧ (∀ n, (t.slot n).st = .empty) ∧ t.clkReq .smp = false ∧ ∀ l < 4, (t.lane l).powered = false
          ∧ Kept [.pending, .srst, .slowed, .readShadow, .writeShadow, .bnd, .rules, .streams, .modules, .engine] s t)
    ∧ (s.power' = pwDescending → s.fld R.POWER_STAT.STEP = 7 →
        ∃ t, exec .descentComplete s = .next t ∧ SameBut (.power :: recordParts) s t ∧ WordsBut (ownPages [0x05] [0x05]) s t
          ∧ t.fld R.POWER_SLEEPS.COUNT = min (s.fld R.POWER_SLEEPS.COUNT + 1) (2 ^ 32 - 1)
          ∧ (s.fld R.POWER_STAT.LATE_WAKE = 0 → t.power' = pwAsleep ∧ t.fld R.POWER_STAT.STEP = 0 ∧ t.clkReq .core = false
              ∧ t.clkReq .reg = false)
          ∧ (s.fld R.POWER_STAT.LATE_WAKE = 1 → t.power' = pwAscending ∧ t.shows E.POWER.LATE_WAKE ∧ t.clkReq .core = true))
    ∧ (∀ (r : ImageReads) (m : MemView), s.power' = pwAscending → s.power.ack.contains .core = true →
        s.power.ack.contains .reg = true → s.fld R.POWER_STAT.STEP = 5 → s.cellar.replay = [] →
        ∃ t, exec (.ascentComplete r m) s = .next t ∧ SameBut ([.modules, .power] ++ recordParts) s t
          ∧ WordsBut (ownPages [0x05, 0x3D] [0x05, 0x3D]) s t ∧ t.shows E.POWER.AWAKE
          ∧ t.power' = (if s.fld R.POWER_STAT.SLEEP_QUEUED = 1 then pwDescending else pwAwake))

/-- A host write of any shape that meets a case of the table is rejected with the outcome that comes first in 0x8, 0x2, 0x3, 0x7, 0x4, 0xA,
0x5, 0x6, 0x1, 0x9. No field changes; PG_WRREJ is incremented (it saturates) and WRREJ is set, or for a reserved page GLOBAL_RSVD_WR; and the
write is recorded with the outcome, or with outcome 0x9 counted towards the SUMMARY entry. A write that meets no case is recorded with
outcome 0x0, unless it is the write of CHRON_AUDIT_HEAD that lets the hold go to the ring. A reserved page reads as zero. -/
def Obligations.RejectedWrites : Prop :=
  ∀ (s : State) (rid : BitVec 12) (strb : BitVec 4) (addr : BitVec 18) (value : Word) (dram : Dram) (mem : MemView) (tests : BitVec 64)
    (record : List Byte), s.wf →
    let p := addr.toNat / 0x1000
    let a := addr.toNat / 4 * 4
    let undefinedAt : Bool := if a % 0x1000 < 0x40 then decide (0x30 ≤ a % 0x1000) else (findReg a).isNone
    let unheld : Bool := s.domOff p && decide (0x40 ≤ a % 0x1000) && ((typesAt a).contains .wo || notHeld a)
    let fixedBits : Bool := decide (p ≤ 1) && decide (a % 0x1000 = 0x08) && (value.getLsbD 0 || value.getLsbD 2)
    let outcome :=
      if carried p = false then 0x8
      else if strb ≠ 0xF then 0x2
      else if addr.toNat % 4 ≠ 0 then 0x3
      else if s.srstBusy p = true then 0x7
      else if undefinedAt = true ∨ unheld = true then 0x4
      else if fixedBits = true then 0xA
      else if s.readOnlyAt a = true then 0x5
      else if s.offBlocked a value = true then 0x6
      else if s.sealed p = true ∧ .rws ∈ typesAt a then 0x1
      else if auditPage p = true ∧ p ≠ 0x03 ∧ s.auditTakes = false then 0x9
      else 0x0
    let count := if outcome = 0x8 then R.GLOBAL_RSVD_WR.COUNT else R.PG_WRREJ.COUNT p
    let noted (code : BitVec 16) (t : State) : Prop :=
      ∃ w ∈ t.chron.writer ++ t.chron.hold, w.entry.code = code ∧ w.entry.page.toNat = p ∧ w.entry.req.toNat = rid.toNat
        ∧ w.entry.ts = s.now ∧ w.entry.payload = writePayload value (s.view a) addr.toNat outcome
    (outcome ≠ 0 → ∃ t, exec (.registerWrite rid strb addr value dram mem tests record) s = .next t
        ∧ SameBut recordParts s t ∧ WordsBut (ownWords [count.addr] [p]) s t
        ∧ t.fld count = min (s.fld count + 1) (2 ^ 32 - 1)
        ∧ (outcome ≠ 0x8 → t.shows (E.PG.WRREJ p))
        ∧ (outcome ≠ 0x9 → p ≠ 0x03 → noted 0x0002 t)
        ∧ (outcome ≠ 0x9 → p = 0x03 → noted 0x0002 t ∨ (mget (fun _ => none) t.counted 2).isSome = true)
        ∧ (outcome = 0x9 → t.chron.rejected = some (countUp s.chron.rejected s.now)))
    ∧ (outcome = 0 → ∃ t, exec (.registerWrite rid strb addr value dram mem tests record) s = .next t
        ∧ (p ≠ 0x03 → noted 0x0001 t)
        ∧ (p = 0x03 → a ≠ R.CHRON_AUDIT_HEAD.INDEX.addr →
            noted 0x0001 t ∨ (mget (fun _ => none) t.counted 1).isSome = true))
    ∧ (carried p = false → s.view addr.toNat = 0)

/-- Every accepted write increments PG_WRCOUNT and loads PG_LASTWR_TS. On the pages below 0x10 but CHRON, a register without a WO field takes
RW and RWS fields, clears and sets W1C and W1S bits, and nothing else changes; the low word of a 64-bit register is held, and
REG64_HIGH_WRITE commits both. EVENT_CLEAR clears the bits written, but not those of conditions; a write of PG_EVT_EN leaves the
always-enabled bits 1. READ_CLEAR_REGISTER answers and then clears RC fields, a highest value since the last read to the value that stands;
REG64_LOW_READ latches the high word. -/
def Obligations.WritesAndReads : Prop :=
  ∀ (s : State) (rid : BitVec 12), s.wf →
    (∀ (addr : BitVec 18) (value : Word) (dram : Dram) (mem : MemView) (tests : BitVec 64) (record : List Byte),
      s.accepts rid addr.toNat value.toNat →
      let p := addr.toNat / 0x1000
      let a := addr.toNat
      ∃ t, exec (.registerWrite rid 0xF addr value dram mem tests record) s = .next t
        ∧ t.fld (R.PG_WRCOUNT.COUNT p) = (s.fld (R.PG_WRCOUNT.COUNT p) + 1) % 2 ^ 32 ∧ t.fld (R.PG_LASTWR_TS.TS p) = s.now.toNat
        ∧ (a % 0x1000 = 0x14 → SameBut recordParts s t ∧ WordsBut (wrWords p [a] []) s t
            ∧ regWord t.regs a = (value &&& BitVec.ofNat 32 (eventBits p)) ||| BitVec.ofNat 32 (pageEvents p).always)
        ∧ (p < 0x10 → p ≠ 3 → 0x40 ≤ a % 0x1000 → a ≠ R.POWER_SEG_CTL.PARK.addr → .wo ∉ typesAt a → .w1s ∉ typesAt a → fixedSource a = false →
            (low64 a = false → high64 a = false → SameBut recordParts s t ∧ WordsBut (wrWords p [a] []) s t
              ∧ regWord t.regs a = appliedWord a (regWord s.regs a) value)
            ∧ (low64 a = true → SameBut (.writeShadow :: recordParts) s t ∧ WordsBut (wrWords p [] []) s t
              ∧ mget (fun _ => none) t.writeShadow a = some value)))
    ∧ (∀ (addr : BitVec 18) (value low : Word), s.accepts rid addr.toNat value.toNat → high64 addr.toNat = true →
        addr.toNat / 0x1000 < 0x10 → addr.toNat / 0x1000 ≠ 3 → .wo ∉ typesAt addr.toNat → .w1s ∉ typesAt addr.toNat →
        let a := addr.toNat
        mget (fun _ => none) s.writeShadow (a - 4) = some low →
        ∃ t, exec (.reg64HighWrite rid addr value) s = .next t ∧ SameBut (.writeShadow :: recordParts) s t
          ∧ WordsBut (wrWords (a / 0x1000) [a, a - 4] []) s t ∧ mget (fun _ => none) t.writeShadow (a - 4) = none
          ∧ regWord t.regs a = appliedWord a (regWord s.regs a) value
          ∧ regWord t.regs (a - 4) = appliedWord (a - 4) (regWord s.regs (a - 4)) low)
    ∧ (∀ (page : BitVec 6) (sticky : Bool) (value : Word),
        let a := 0x1000 * page.toNat + if sticky then 0x1C else 0x10
        s.accepts rid a value.toNat →
        ∃ t, exec (.eventClear rid page sticky value) s = .next t ∧ SameBut recordParts s t
          ∧ WordsBut (wrWords page.toNat [] []) s t
          ∧ (page.toNat ≠ 3 → regWord t.regs a =
              regWord s.regs a &&& ~~~(if sticky then value else value &&& ~~~(BitVec.ofNat 32 (pageEvents page.toNat).cond))))
    ∧ (∀ (addr : BitVec 18) (raw : Word),
        let a := addr.toNat / 4 * 4
        a ≠ R.RNG_DATA.WORD.addr → a ≠ R.RNG_RAW.WORD.addr → a ≠ R.CHRON_TRACE_DATA.WORD.addr →
        ∃ t, exec (.readClearRegister addr raw) s = .next t ∧ SameBut [.out, .readShadow, .regs] s t
          ∧ t.out = s.out ++ [.hostRead a (s.readWord a)] ∧ mget (fun _ => none) t.readShadow a = none
          ∧ WordsBut (fun x => decide (x = a)) s t
          ∧ (0x40 ≤ a % 0x1000 → (∀ n < 32, a ≠ (R.STRM_P_LEVEL.MAX n).addr) → a ≠ R.MEM_OVF.MAX.addr →
              a ≠ R.CHRON_TRACE_LEVEL.MAX.addr → regWord t.regs a = regWord s.regs a &&& ~~~(wordMask (fun f => f.ty = .rc) a))
          ∧ (∀ n < 32, a = (R.STRM_P_LEVEL.MAX n).addr → t.fld (R.STRM_P_LEVEL.MAX n) = s.fld (R.STRM_P_LEVEL.LEVEL n)
              ∧ t.fld (R.STRM_P_LEVEL.LEVEL n) = s.fld (R.STRM_P_LEVEL.LEVEL n))
          ∧ (a = R.MEM_OVF.MAX.addr → t.fld R.MEM_OVF.MAX = s.mem.overflows.length % 2 ^ 6)
          ∧ (a = R.CHRON_TRACE_LEVEL.MAX.addr → t.fld R.CHRON_TRACE_LEVEL.MAX = s.chron.level % 2 ^ 10)
          ∧ (a % 0x1000 < 0x40 → t.regs = s.regs))
    ∧ (∀ addr : BitVec 18,
        let a := addr.toNat / 4 * 4
        ∃ t, exec (.reg64LowRead addr) s = .next t ∧ SameBut [.out, .readShadow, .regs] s t
          ∧ t.out = s.out ++ [.hostRead a (s.readWord a)] ∧ WordsBut (fun x => decide (x = a)) s t
          ∧ (lowWord64 a = true → mget (fun _ => none) t.readShadow (a + 4) = some (s.view (a + 4)))
          ∧ (lowWord64 a = false → mget (fun _ => none) t.readShadow a = none))

/-- PAGE_ENABLE of an OFF page makes it ACTIVE, of a DRAINING page sets REARM, of a FAULT page is stored. PAGE_DISABLE of an ACTIVE page
starts its drain, of a DRAINING page clears REARM. SOFT_RESET of an OFF or FAULT page leaves it OFF with ENABLE 0, its RW and RWS fields at their
reset values, and the page busy for 16 register clocks. SEAL does the same, sets its own bit and seals the page. DRAIN_COMPLETE of a page or block
whose condition is met leaves it OFF, or with REARM ACTIVE. DRAIN_SLOW marks a long drain once. -/
def Obligations.PageStates : Prop :=
  ∀ (s : State) (rid : BitVec 12) (page : BitVec 6) (mem : MemView), s.wf →
    let p := page.toNat
    let ctl := 0x1000 * p + 0x08
    let kept : List Piece := [.pending, .readShadow, .writeShadow, .bnd, .engine, .free]
    let moved (st : Nat) (t : State) : Prop := t.pageState p = st ∧ t.shows (E.PG.STATE_CHG p)
    let enabled (en : Bool) (t : State) : Prop := 1 < p →
      t.fld (R.PG_CTL.ENABLE p) = b2n en
      ∧ (s.pageState p = pgOff → en = true → s.fld (R.PG_CTL.ENABLE p) = 0 → s.mayEnter p = true →
          moved pgActive t)
      ∧ (s.pageState p = pgOff → en = false ∨ s.fld (R.PG_CTL.ENABLE p) = 1 ∨ s.mayEnter p = false → t.pageState p = pgOff)
      ∧ (s.pageState p = pgActive → en = false → moved pgDraining t)
      ∧ (s.pageState p = pgActive → en = true → t.pageState p = pgActive)
      ∧ (s.pageState p = pgDraining → t.pageState p = pgDraining
          ∧ (s.fld (R.PG_CTL.ENABLE p) ≠ b2n en → t.fld (R.PG_STAT.REARM p) = b2n en))
      ∧ (s.pageState p = pgFault → t.pageState p = pgFault)
    let softReset (t : State) : Prop := 1 < p →
      t.pageState p = pgOff ∧ t.fld (R.PG_CTL.ENABLE p) = 0 ∧ t.srstBusy p = true
      ∧ t.fld (R.PG_EVT_EN.EVT p) = (pageEvents p).always
      ∧ (∀ a, a / 0x1000 = p → 0x40 ≤ a % 0x1000 → regWord t.regs a &&& rwMask a = resetWord a &&& rwMask a)
      ∧ (p ≠ 0x20 → t.slots = s.slots) ∧ (∀ n, (t.slot n).st = (s.slot n).st ∧ (t.slot n).active = (s.slot n).active) ∧ t.anchor = s.anchor ∧ t.keys = s.keys ∧ ∀ q < 64, q ≠ p → t.pageState q = s.pageState q
    (s.accepts rid ctl 1 → ∃ t, exec (.pageEnable rid page mem) s = .next t ∧ Kept (.streams :: kept) s t ∧ enabled true t
        ∧ t.fld (R.PG_STAT.SEALED p) = s.fld (R.PG_STAT.SEALED p))
    ∧ (s.accepts rid ctl 0 → ∃ t, exec (.pageDisable rid page) s = .next t ∧ Kept kept s t ∧ enabled false t
        ∧ t.fld (R.PG_STAT.SEALED p) = s.fld (R.PG_STAT.SEALED p)
        ∧ (s.pageState p = pgOff ∨ p ≤ 1 → SameBut recordParts s t ∧ WordsBut (wrWords p [ctl] []) s t))
    ∧ (∀ en : Bool, s.accepts rid ctl (4 + b2n en) →
        ∃ t, exec (.softReset rid page en) s = .next t ∧ Kept (.streams :: kept) s t ∧ softReset t
          ∧ t.fld (R.PG_STAT.SEALED p) = s.fld (R.PG_STAT.SEALED p))
    ∧ (∀ soft en : Bool, s.accepts rid ctl (4 * b2n soft + 2 + b2n en) →
        ∃ t, exec (.seal rid page soft en mem) s = .next t ∧ Kept kept s t ∧ t.fld (R.PG_STAT.SEALED p) = 1
          ∧ t.fld (R.PG_CTL.SEAL p) = 1
          ∧ (soft = true → softReset t) ∧ (soft = false → enabled en t))
    ∧ (auditPage p = false ∨ s.heeds → s.pageState p = pgDraining → s.pageDone p = true → 1 < p →
        ∃ t, exec (.drainComplete (.page page) mem) s = .next t ∧ Kept (.streams :: kept) s t ∧ t.fld (R.PG_STAT.REARM p) = 0
          ∧ (s.fld (R.PG_STAT.REARM p) = 1 → s.mayEnter p = true → t.pageState p = pgActive)
          ∧ (s.fld (R.PG_STAT.REARM p) = 0 ∨ s.mayEnter p = false → t.pageState p = pgOff))
    ∧ (∀ q : Fin 32, s.fld (R.QUEUE_Q_STAT.STATE q) = pgDraining → (∀ d ∈ s.descs q, d.phase = .done) →
        ∃ t, exec (.drainComplete (.queue q) mem) s = .next t ∧ SameBut recordParts s t
          ∧ t.fld (R.QUEUE_Q_STAT.REARM q) = 0
          ∧ t.fld (R.QUEUE_Q_STAT.STATE q) = (if s.fld (R.QUEUE_Q_STAT.REARM q) = 1 ∧ s.active (queuePage q) = true then pgActive else pgOff))
    ∧ (∀ n : Fin 32, s.fld (R.STRM_P_STAT.STATE n) = pgDraining → s.fld (R.STRM_P_STAT.FLUSH_RX n) = 0 →
        s.fld (R.STRM_P_STAT.FLUSH_TX n) = 0 →
        ∃ t, exec (.drainComplete (.port n) mem) s = .next t ∧ SameBut recordParts s t ∧ t.fld (R.STRM_P_STAT.REARM n) = 0
          ∧ t.fld (R.STRM_P_STAT.STATE n) = (if s.fld (R.STRM_P_STAT.REARM n) = 1 ∧ s.active (portPage n) = true then pgActive else pgOff))
    ∧ (∀ k : Fin 128, s.heeds → s.fld (R.BRIDLE_PAIR_CTL.STATE k) = pgDraining → s.pairIdle k = true →
        ∃ t, exec (.drainComplete (.pair k) mem) s = .next t ∧ SameBut recordParts s t ∧ t.fld (R.BRIDLE_PAIR_CTL.REARM k) = 0
          ∧ t.fld (R.BRIDLE_PAIR_CTL.STATE k) = (if s.fld (R.BRIDLE_PAIR_CTL.REARM k) = 1 ∧ s.active 0x1D = true then pgActive else pgOff))
    ∧ (∀ n : Fin 16, s.heeds → s.rgnState n = pgDraining → s.regionDone n = true →
        ∃ t, exec (.drainComplete (.region n) mem) s = .next t ∧ Kept (.streams :: kept) s t ∧ t.fld (R.MEMRGN_CTL.REARM n) = 0
          ∧ (s.fld (R.MEMRGN_CTL.REARM n) = 0 ∨ s.active 0x28 = false → t.rgnState n = pgOff ∧ t.roots = s.roots))
    ∧ (s.pageState p = pgDraining → mget (fun _ => false) s.slowed p = false →
        ∃ t, exec (.drainSlow page) s = .next t ∧ SameBut [.slowed, .regs] s t ∧ WordsBut (ownWords [] [p]) s t
          ∧ mget (fun _ => false) t.slowed p = true ∧ t.shows (E.PG.DRAIN_SLOW p))

/-- An accepted write of 1 to GLOBAL_SEAL_ALL.SEAL leaves SEALED and the SEAL bit at 1 on every carried page, GLOBAL included. It is recorded as
one accepted write on GLOBAL, and after it one SEAL notice of each carried page, whose sequence numbers follow on from the write's in page order.
Nothing else changes. -/
def Obligations.SealAll : Prop :=
  ∀ (s : State) (rid : BitVec 12), s.wf → s.accepts rid R.GLOBAL_SEAL_ALL.SEAL.addr 1 →
    ∃ t, exec (.globalSealAll rid) s = .next t ∧ SameBut recordParts s t
      ∧ WordsBut (fun a => decide (a % 0x1000 = 0x08) || decide (a % 0x1000 = 0x0C) || wrWords 0x01 [] [] a) s t
      ∧ (∀ p < 64, carried p = true → t.fld (R.PG_STAT.SEALED p) = 1 ∧ t.fld (R.PG_CTL.SEAL p) = 1
          ∧ t.fld (R.PG_CTL.ENABLE p) = s.fld (R.PG_CTL.ENABLE p) ∧ t.pageState p = s.pageState p)
      ∧ (∃ w ∈ t.chron.writer ++ t.chron.hold, w.entry.code = 1 ∧ w.entry.page = 1 ∧ w.entry.seq = s.time.seq)
      ∧ ∀ p < 64, carried p = true → ∃ w ∈ t.chron.writer ++ t.chron.hold, w.entry.code = 4 ∧ w.entry.page = BitVec.ofNat 8 p
          ∧ w.entry.payload = BitVec.ofNat 96 p ∧ w.entry.ts = s.now
          ∧ w.entry.seq = s.time.seq + 1 + BitVec.ofNat 16 ((List.range p).filter carried).length

/-- SOFT_RESET, and SEAL with SOFT_RESET at 1, written to a carried page beyond GLOBAL that is ACTIVE or DRAINING is rejected: no field changes,
PG_WRREJ counts it, and its record carries outcome 0x6, or 0x7 where a soft reset of the page is in progress, which R78 places before it. -/
def Obligations.SoftResetRefused : Prop :=
  ∀ (s : State) (rid : BitVec 12) (page : BitVec 6) (en sealing : Bool) (mem : MemView), s.wf →
    let p := page.toNat
    carried p = true → 1 < p → s.pageState p = pgActive ∨ s.pageState p = pgDraining →
    let value : Word := BitVec.ofNat 32 (4 + (if sealing then 2 else 0) + b2n en)
    let outcome := if s.srstBusy p = true then 7 else 6
    ∃ t, exec (if sealing then .seal rid page true en mem else .softReset rid page en) s = .next t ∧ SameBut recordParts s t
      ∧ WordsBut (ownWords [(R.PG_WRREJ.COUNT p).addr] [p]) s t
      ∧ t.fld (R.PG_WRREJ.COUNT p) = min (s.fld (R.PG_WRREJ.COUNT p) + 1) (2 ^ 32 - 1)
      ∧ recorded p 2 (writePayload value (s.view (0x1000 * p + 8)) 8 outcome) t

/-- TAMPER_EVENT of a counted source counts it, decides its grade by its window and its settings, records source, grade and alarm, marks
a grade 2 source as lasting, and at grade 3 runs Ripcord; on VBAT alone an armed source is logged, and erases the share at grade 3.
TLOOP_STEP steps the loops and marks a mismatch. SELF_CHECK and SELFCHECK_NOW store what fails. CLEAR_LASTING clears a lasting mark;
CLEAR_LOG clears the log outside FIELD and RETIRED; TRIP is an event. DEBUG_ACTIVE and DBG_AUTH_LOW are debug events in FIELD without
authentication, and DEBUG_ACTIVE is otherwise a notice. -/
def Obligations.TamperSupervisor : Prop :=
  ∀ (s : State) (rid : BitVec 12), s.wf →
    let framed (t : State) : Prop := SameBut tamperParts s t ∧ WordsBut (ownPages tamperPages tamperPages) s t
    let startup := decide (s.fld R.TAMPER_STAT.STARTUP = 1)
    let wiped (t : State) : Prop := t.keys.vbatA = 0 ∧ t.keys.vbatB = 0 ∧ t.keys.markA = false ∧ t.keys.markB = false
    let occurs (src : Nat) (t : State) : Prop :=
      let n := ((mget (fun _ => []) s.gusts (0x100 + src)).filter fun x => decide (s.now.toNat < x + gustWindow (s.srcWin src))).length + 1
      let g0 := if max 1 (s.srcLimit src) ≤ n then s.srcLasting src else s.srcEvent src
      let g := if s.fld (R.TAMPER_SRC_STAT.LASTING src) = 1 then max 2 g0 else g0
      t.fld (R.TAMPER_SRC_STAT.EVENTS src) = min (s.fld (R.TAMPER_SRC_STAT.EVENTS src) + 1) (2 ^ 16 - 1)
      ∧ t.fld R.TAMPER_STAT.LAST_SRC = src ∧ t.fld R.TAMPER_STAT.LAST_GRADE = g
      ∧ recorded 0x06 0x0020 (alarmPayload src g n startup 0) t
      ∧ (g = 2 → t.fld (R.TAMPER_SRC_STAT.LASTING src) = 1)
      ∧ (g = 3 → wiped t ∧ t.keys.fuseHeld = false ∧ t.roots = [] ∧ t.grounded = true ∧ t.shows E.TAMPER.RIPCORD)
      ∧ (1 ≤ g → startup = true → t.grounded = true) ∧ (g < 2 → startup = false → t.keys.vbatA = s.keys.vbatA ∧ t.slots = s.slots)
    (∀ (src : BitVec 8) (osc : Word), s.bnd.mainOff = false → srcCounted src.toNat = true →
      (s.asleep = false ∨ src.toNat ≠ srcClkCore) → ∃ t, exec (.tamperEvent src osc) s = .next t ∧ framed t ∧ occurs src.toNat t)
    ∧ (∀ (src : BitVec 8) (osc : Word), s.bnd.mainOff = true → vbatArmed src.toNat = true →
        ∃ t, exec (.tamperEvent src osc) s = .next t ∧ SameBut ([.tamper, .keys] ++ recordParts) s t
          ∧ WordsBut (ownPages [0x06] [0x06]) s t
          ∧ (∀ i, s.logPlace = some i → i < 16 → t.fld (R.TAMPER_LOG_A.CODE i) = src.toNat ∧ t.fld (R.TAMPER_LOG_A.VBAT_ONLY i) = 1)
          ∧ (srcFloor src.toNat = 3 → wiped t) ∧ (srcFloor src.toNat ≠ 3 → t.keys = s.keys))
    ∧ (∀ (returned : BitVec 4) (osc : Word),
        let next (n : Nat) : BitVec 15 := Config.loopNext (s.tamper.loops.getD n 0)
        let differs (n : Nat) : Bool := (next n).getLsbD 0 != returned.getLsbD n
        ∃ t, exec (.tloopStep returned osc) s = .next t ∧ framed t
          ∧ (∀ n < 4, (n < s.tamper.loops.length → t.tamper.loops.getD n 0 = next n) ∧ t.tamper.differ.getLsbD n = differs n
            ∧ t.fld (R.TAMPER_SRC_STAT.ACTIVE (srcLoop n)) = b2n (differs n && s.tamper.differ.getLsbD n))
          ∧ ((∀ n < 4, (differs n && s.tamper.differ.getLsbD n) = false) → SameBut [.tamper, .regs] s t))
    ∧ (∀ fails : BitVec 16,
        let f := fails.toNat &&& selfCheckMask
        let found (t : State) : Prop := t.fld R.TAMPER_SELFCHECK.FAILED = f ∧ (f ≠ 0 → t.shows E.TAMPER.SELFCHECK_FAIL)
        (s.bnd.mainOff = false → ∃ t, exec (.selfCheck fails) s = .next t ∧ framed t ∧ found t
          ∧ (f = 0 ∨ s.fielded = false → SameBut recordParts s t ∧ WordsBut (ownWords [R.TAMPER_SELFCHECK.FAILED.addr] [0x06]) s t))
        ∧ (s.takes rid U.tamper R.TAMPER_CMD.OP.addr (3 * 2 ^ 28) →
          ∃ t, exec (.selfcheckNow rid fails) s = .next t ∧ ended U.tamper rcOk s t ∧ found t
            ∧ SameBut tamperParts s t ∧ WordsBut (wrPages 0x06 tamperPages tamperPages) s t))
    ∧ (∀ src : BitVec 8, s.takes rid U.tamper R.TAMPER_CMD.OP.addr (1 * 2 ^ 28 + src.toNat) →
        ∃ t, exec (.clearLasting rid src) s = .next t ∧ ended U.tamper rcOk s t ∧ SameBut (.cmdLate :: recordParts) s t
          ∧ WordsBut (wrWords 0x06 [R.TAMPER_CMD_STAT.BUSY.addr, (R.TAMPER_SRC_STAT.LASTING src.toNat).addr] []) s t
          ∧ (src.toNat < 32 → t.fld (R.TAMPER_SRC_STAT.LASTING src.toNat) = 0))
    ∧ (s.takes rid U.tamper R.TAMPER_CMD.OP.addr (2 * 2 ^ 28) →
        ∃ t, exec (.clearLog rid) s = .next t ∧ SameBut ([.cmdLate, .tamper] ++ recordParts) s t ∧ WordsBut (wrPages 0x06 [0x06] []) s t
          ∧ (s.fielded = true → ended U.tamper rcState s t ∧ t.tamper = s.tamper)
          ∧ (s.fielded = false → ended U.tamper rcOk s t ∧ t.fld R.TAMPER_LOG_PTR.COUNT = 0 ∧ t.tamper.uncopied = []
              ∧ ∀ i < 16, t.fld (R.TAMPER_LOG_A.VALID i) = 0))
    ∧ (s.takes rid U.tamper R.TAMPER_CMD.OP.addr (4 * 2 ^ 28) →
        ∃ t, exec (.trip rid) s = .next t ∧ ended U.tamper rcOk s t ∧ SameBut tamperParts s t
          ∧ WordsBut (wrPages 0x06 tamperPages tamperPages) s t
          ∧ t.fld (R.TAMPER_SRC_STAT.EVENTS srcTrip) = min (s.fld (R.TAMPER_SRC_STAT.EVENTS srcTrip) + 1) (2 ^ 16 - 1)
          ∧ t.fld R.TAMPER_STAT.LAST_SRC = srcTrip)
    ∧ (∀ auth : Bool, s.bnd.mainOff = false →
        ∃ t, exec (.debugActive auth) s = .next t ∧ SameBut (.bnd :: tamperParts) s t ∧ WordsBut (ownPages tamperPages tamperPages) s t
          ∧ t.bnd = { s.bnd with dbgActive := true, dbgAuth := auth } ∧ t.fld R.TAMPER_STAT.LAST_SRC = srcDebug
          ∧ (s.inField = true → auth = false → occurs srcDebug t ∧ t.fld (R.TAMPER_SRC_STAT.ACTIVE srcDebug) = 1)
          ∧ (s.inField = false ∨ auth = true → t.fld R.TAMPER_STAT.LAST_GRADE = 0 ∧ t.shows E.TAMPER.NOTICE
              ∧ SameBut (.bnd :: recordParts) s t))
    ∧ (s.bnd.mainOff = false → ∃ t, exec .dbgAuthLow s = .next t ∧ SameBut (.bnd :: tamperParts) s t
          ∧ WordsBut (ownPages tamperPages tamperPages) s t ∧ t.bnd = { s.bnd with dbgAuth := false }
          ∧ (s.bnd.dbgActive = true → s.bnd.dbgAuth = true → s.inField = true → occurs srcDebug t)
          ∧ (s.bnd.dbgActive = false ∨ s.inField = false → SameBut [.bnd] s t))

/-- PORESET_RELEASE raises the clock requests, starts the entropy source and start-up, leaves the staging macros that fail their test out of
service, and declares open work that may be lost. FUSE_VALID latches the share and the life-cycle state, with bad parity or an invalid word
enters GROUNDED, and in FIELD with an unauthenticated debugger is a debug event. FUSE_TIMEOUT enters GROUNDED. STARTUP_END of a start-up that
waits for nothing clears STARTUP, completes the held START, runs a self-check and copies the VBAT log, and grounds a part in FIELD or RETIRED
without a root. -/
def Obligations.StartUp : Prop :=
  ∀ s : State, s.wf →
    let framed (t : State) : Prop := SameBut tamperParts s t ∧ WordsBut (ownPages tamperPages tamperPages) s t
    (∀ (staging : BitVec 24) (fails : BitVec 16), s.bnd.phase = .poreset →
      ∃ t, exec (.poresetRelease ⟨true, staging, fails⟩) s = .next t ∧ t.bnd = { s.bnd with phase := .run, mainOff := false }
        ∧ SameBut ([.bnd, .cellar, .cmdLate, .drawn, .keys, .out, .ports, .power, .queues, .rng, .sched, .slots, .tamper] ++ recordParts) s t
        ∧ t.fld R.STRM_MACRO_FENCED.FENCED = staging.toNat ∧ t.tamper.startFails = fails
        ∧ t.clkReq .core = true ∧ t.clkReq .reg = true ∧ t.clkReq .smp = true ∧ t.fld R.TAMPER_STAT.STARTUP = 1
        ∧ t.fld R.RNG_STAT.SRC = srcStartup ∧ t.sched = {} ∧ t.chron.startAt.isSome = true
        ∧ t.chron.startAfter = (if s.bnd.mainOff then 2 else 0) ∧ t.cellar.vbatOpen = 0
        ∧ (s.cellar.vbatOpen ≠ 0 ∨ s.vbatPresent = false → t.shows E.CELLAR.LOST_POSSIBLE)
        ∧ (s.vbatPresent = true → t.fld R.CELLAR_STAT.LOST_MAX = s.cellar.vbatOpen % 2 ^ 12)
        ∧ (s.vbatPresent = false → t.fld R.CELLAR_STAT.LOST_UNKNOWN = 1))
    ∧ (∀ (staging : BitVec 24) (fails : BitVec 16), s.bnd.phase = .poreset →
      ∃ t, exec (.poresetRelease ⟨false, staging, fails⟩) s = .next t ∧ t.bnd = { s.bnd with phase := .run, mainOff := false }
        ∧ t.fld R.RNG_STAT.SRC = srcFaulted ∧ t.fld R.TAMPER_STAT.STARTUP = 1)
    ∧ (∀ (share : BitVec 256) (lc : Word) (par : BitVec 9), s.bnd.phase = .run → s.tamper.fuseDone = false →
        ∃ t, exec (.fuseValid share lc par) s = .next t ∧ framed t ∧ t.tamper.fuseDone = true
          ∧ t.fld R.KEYS_LC.FUSE_CODE = bits lc.toNat 7 0
          ∧ (∀ st, lcOfWord lc = some st → t.fld R.KEYS_LC.STATE = st)
          ∧ ((t.inField && s.bnd.dbgActive && !s.bnd.dbgAuth) = false →
              t.keys.fuseHeld = true ∧ t.keys.fuseA ^^^ t.keys.fuseB = share
              ∧ (fuseParity share lc par = true → (lcOfWord lc).isSome = true → SameBut ([.tamper, .keys] ++ recordParts) s t
                ∧ t.grounded = s.grounded))
          ∧ ((t.inField && s.bnd.dbgActive && !s.bnd.dbgAuth) = true → t.fld (R.TAMPER_SRC_STAT.ACTIVE srcDebug) = 1
              ∧ t.fld (R.TAMPER_SRC_STAT.EVENTS srcDebug) = min (s.fld (R.TAMPER_SRC_STAT.EVENTS srcDebug) + 1) (2 ^ 16 - 1))
          ∧ (fuseParity share lc par = false ∨ lcOfWord lc = none → t.grounded = true))
    ∧ (s.bnd.phase = .run → s.bnd.mainOff = false →
        ∃ t, exec .fuseTimeout s = .next t ∧ framed t ∧ t.grounded = true ∧ t.fld R.TAMPER_STAT.LAST_SRC = srcFuse
          ∧ t.fld (R.TAMPER_SRC_STAT.EVENTS srcFuse) = min (s.fld (R.TAMPER_SRC_STAT.EVENTS srcFuse) + 1) (2 ^ 16 - 1))
    ∧ (let fails := s.tamper.startFails
      s.startUpDone = true →
        ∃ t, exec .startupEnd s = .next t ∧ SameBut (.modules :: tamperParts) s t
          ∧ WordsBut (ownPages (0x3D :: tamperPages) tamperPages) s t ∧ t.fld R.TAMPER_STAT.STARTUP = 0
          ∧ t.tamper.uncopied = [] ∧ t.chron.startAt = none ∧ t.fld R.TAMPER_SELFCHECK.FAILED = fails.toNat &&& selfCheckMask
          ∧ ((∃ w ∈ s.chron.hold, w.cls = .start ∧ w.entry.code = 0x0010 ∧ w.entry.page = 0x03) →
              recorded 0x03 0x0010 (BitVec.ofNat 96 (s.resetCount + s.chron.startAfter * 2 ^ 32)) t)
          ∧ (s.fielded = false ∨ (s.rootOk = true ∧ fails.toNat &&& selfCheckMask = 0) → t.grounded = s.grounded ∧ SameBut ([.modules, .tamper] ++ recordParts) s t)
          ∧ (s.rootOk = false → s.fielded = true → t.grounded = true))

/-- OT_RESET_ASSERT begins the drain, or asleep resets at once. RESET_DRAIN_DONE of a drain whose work has settled resets everything but
what R89 keeps: pages return to their reset state, and keys, tables and caches are empty. OT_RESET_RELEASE after it begins a start-up
and replays the journal; during the drain it is only noted. OT_PORESET and TETHER_POWER_LOSS clear every domain but VBAT at once. -/
def Obligations.Resets : Prop :=
  ∀ s : State, s.wf →
    let clear (t : State) : Prop := t.assoc = [] ∧ t.parked = [] ∧ t.peers = [] ∧ t.rules = [] ∧ t.lookup = {} ∧ t.counters = []
      ∧ t.nodes = [] ∧ (∀ n, (t.slot n).st = .empty) ∧ t.drawn = [] ∧ t.blinded = [] ∧ t.loose = [] ∧ t.srst = [] ∧ t.cmdLate = []
      ∧ t.mem.ctr = [] ∧ t.mem.tag = [] ∧ t.sched = {} ∧ t.engine = {} ∧ t.cellar.replay = [] ∧ t.rng.seeds = [] ∧ t.rng.drbg = none
      ∧ ∀ p < 64, t.pageState p = (if p ≤ 1 then pgActive else pgOff)
    (s.bnd.phase = .run → s.bnd.mainOff = false → (∀ b, s.keys.lc ≠ .burning b) →
      ∃ t, exec .otResetAssert s = .next t
        ∧ (s.asleep = false → SameBut [.bnd, .lanes] s t
            ∧ (∀ l < 4, t.lane l = { s.lane l with fencedAtReset := (s.lane l).fenced }) ∧ t.bnd = { s.bnd with phase := .draining, resetLow := true })
        ∧ (s.asleep = true → clear t ∧ t.bnd = { s.bnd with phase := .resetDone, resetLow := true }))
    ∧ (∀ (r : WarmStart) (m : MemView), s.bnd.phase = .draining → s.settled = true → s.doneSettled = true → s.bnd.resetLow = true →
        ∃ t, exec (.resetDrainDone r m) s = .next t ∧ Kept [.pending, .free] s t ∧ clear t
          ∧ t.bnd = { s.bnd with phase := .resetDone })
    ∧ (∀ r : WarmStart,
        (s.bnd.phase = .draining → ∃ t, exec (.otResetRelease r) s = .next t ∧ SameBut [.bnd] s t
          ∧ t.bnd = { s.bnd with resetLow := false })
        ∧ (s.bnd.phase = .resetDone → ∃ t, exec (.otResetRelease r) s = .next t
          ∧ t.bnd = { s.bnd with phase := .run, resetLow := false } ∧ t.fld R.TAMPER_STAT.STARTUP = 1 ∧ t.clkReq .core = true
          ∧ t.clkReq .reg = true ∧ t.keys.park = none ∧ t.tamper.restored = true ∧ t.tamper.startFails = r.fails
          ∧ Kept [.pending, .srst, .slowed, .readShadow, .writeShadow, .assoc, .parked, .peers, .rules, .lookup, .anchor, .streams,
              .modules, .engine, .free] s t
          ∧ (s.keys.park = none → SameBut ([.bnd, .power, .keys, .tamper, .cellar, .lanes, .ports] ++ recordParts) s t
              ∧ ∀ p ∈ s.inUse, p.2.kind ≠ .data → (∀ d ∈ s.allDescs, d.entry = some p.1 → d.phase ≠ .done) →
                  p.1 ∈ t.cellar.replay)))
    ∧ (∀ loss : Bool, ∃ t, exec (if loss then .tetherPowerLoss else .otPoreset) s = .next t ∧ clear t
        ∧ Kept [.pending, .out, .free] s t ∧ t.bnd.phase = .poreset ∧ t.bnd.mainOff = (loss || s.bnd.mainOff)
        ∧ t.keys.vbatA = s.keys.vbatA ∧ t.keys.vbatB = s.keys.vbatB ∧ t.keys.fuseHeld = false ∧ t.keys.park = none
        ∧ t.cellar.vbatOpen = s.cellar.vbatOpen ∧ t.inUse = [] ∧ t.time = {} ∧ t.chron = {} ∧ t.ports = [] ∧ t.queues = [] ∧ t.roots = []
        ∧ t.passes = [] ∧ t.units = [] ∧ t.parts = [] ∧ t.mem = {} ∧ t.anchor = {} ∧ t.power = {} ∧ t.wake = {} ∧ t.lanes = []
        ∧ (∀ a, a / 0x1000 ≠ 0x30 → regWord t.regs a = if vbatLogWords.contains a then regWord s.regs a else resetWord a)
        ∧ ∀ p < 8, t.fld (R.STOR_PART_CTL.STATE p) = 0 ∧ (s.fld (R.STOR_PART_CTL.STATE p) ≠ 0 → t.fld (R.STOR_PART_CTL.OUTCOME p) = poReset))

/-- TIME_TICK adds the increment in force to the accumulator, modulo 2^96, unless the clock has failed, and the rate written takes effect; the
first tick after holdover leaves it and adds nothing. HOLDOVER marks the clock as failed and adds what the RC counted, once the RC has been measured. CLK32_HEALTHY takes the mark back. PTP_STROBE measures the
offset and sets the rate within its bound, or suspends discipline where it is too far; PTP_STROBE_GAP suspends it. NONCE_EXPIRE drops a
nonce that is no longer live. ALARM at its time disables itself, raises ALARM and, with its source enabled, wakes Otist. -/
def Obligations.TimeBase : Prop :=
  ∀ s : State,
    let whole (s : State) : Nat := s.time.acc.toNat * 2 ^ 32 + s.time.frac.toNat
    let stat := R.TIME_STAT.VALID.addr
    let framed (t : State) : Prop := SameBut recordParts s t
      ∧ WordsBut (ownWords [stat, R.TIME_RATE.R_PPB.addr, R.TIME_OFFSET.OFF.addr, R.TIME_OFFSET.OFF.addr + 4] [0x02]) s t
    (∀ rc : BitVec 16,
      ∃ t, exec (.timeTick rc) s = .next t ∧ SameBut [.time, .regs] s t
        ∧ WordsBut (ownWords [stat, R.TIME_RC.RATIO.addr] [0x02]) s t ∧ t.time.seq = s.time.seq
        ∧ (s.time.clkFailed = true → t.time = s.time ∧ t.regs = s.regs)
        ∧ (s.time.clkFailed = false → t.time.clk = (if s.fld R.TIME_STAT.HOLDOVER = 1 then s.time.clk else 0)
            ∧ t.fld R.TIME_STAT.HOLDOVER = 0 ∧ t.time.rate.toNat = s.fld R.TIME_RATE.R_PPB
            ∧ whole t = (whole s + if s.fld R.TIME_STAT.HOLDOVER = 1 then 0 else s.increment) % 2 ^ 96
            ∧ (s.time.ticks + 1 = 1024 → t.time.ticks = 0 ∧ t.fld R.TIME_RC.RATIO = (s.time.rcCycles + rc.toNat) % 2 ^ 16)
            ∧ (s.time.ticks + 1 ≠ 1024 → t.time.ticks = s.time.ticks + 1 ∧ t.time.rcCycles = s.time.rcCycles + rc.toNat)))
    ∧ (∀ cycles : BitVec 16, s.heeds →
        ∃ t, exec (.holdover cycles) s = .next t ∧ SameBut (.free :: recordParts) s t ∧ WordsBut (ownWords [stat] [0x02]) s t ∧ t.time.clkFailed = true ∧ t.fld R.TIME_STAT.HOLDOVER = 1
          ∧ t.fld R.TIME_STAT.DISCIPLINED = 0 ∧ t.fld R.TIME_STAT.SUSPENDED = 1 ∧ t.shows E.TIME.HOLDOVER
          ∧ (cycles = 0 → t.time.acc = s.time.acc ∧ t.time.frac = s.time.frac ∧ t.time.clk = s.time.clk)
          ∧ (cycles ≠ 0 → t.time.clk = 0) ∧ (s.fld R.TIME_RC.RATIO ≠ 0 → t.free = s.free ∧
              whole t = (whole s + cycles.toNat * (s.increment * 1024 / s.fld R.TIME_RC.RATIO)) % 2 ^ 96))
    ∧ (∃ t, exec .clk32Healthy s = .next t ∧ SameBut [.time] s t ∧ t.time = { s.time with clkFailed := false })
    ∧ (∀ (seconds : BitVec 48) (nanos : Word), s.heeds → s.disciplining = true →
        let off : Int := ((seconds.toNat : Int) - s.fld R.TIME_EPOCH_PTP_S.SECONDS) * 1000000000 + nanos.toNat - s.now.toNat
        let near : Int := max (-(s.slewMax : Int)) (min s.slewMax (off.tdiv s.discTau))
        ∃ t, exec (.ptpStrobe seconds nanos) s = .next t ∧ framed t
          ∧ (1000000000 ≤ nanos.toNat → t.fld R.TIME_STAT.SUSPENDED = 1 ∧ t.fld R.TIME_STAT.DISCIPLINED = 0
              ∧ recorded 0x02 0x0020 (alarmPayload 0 0 0 false 0x02) t ∧ t.fld R.TIME_RATE.R_PPB = s.fld R.TIME_RATE.R_PPB)
          ∧ (nanos.toNat < 1000000000 → t.fld R.TIME_OFFSET.OFF = (BitVec.ofInt 64 off).toNat
              ∧ (s.discFar < off.natAbs → t.fld R.TIME_RATE.R_PPB = 0 ∧ t.fld R.TIME_STAT.SUSPENDED = 1
                  ∧ t.fld R.TIME_STAT.DISCIPLINED = 0 ∧ t.shows E.TIME.DISC_FAR)
              ∧ (off.natAbs ≤ s.discFar → t.fld R.TIME_RATE.R_PPB = (BitVec.ofInt 32 near).toNat
                  ∧ t.fld R.TIME_STAT.SUSPENDED = 0 ∧ t.fld R.TIME_STAT.DISCIPLINED = 1)))
    ∧ (s.disciplining = true → ∃ t, exec .ptpStrobeGap s = .next t ∧ framed t ∧ t.fld R.TIME_STAT.SUSPENDED = 1
        ∧ t.fld R.TIME_STAT.DISCIPLINED = 0 ∧ recorded 0x02 0x0020 (alarmPayload 0 0 0 false 0x02) t)
    ∧ (∃ t, exec .nonceExpire s = .next t ∧ SameBut [.time] s t
        ∧ (s.liveNonce = none → t.time = { s.time with nonceAt := none }) ∧ (s.liveNonce.isSome = true → t.time = s.time))
    ∧ (s.heeds → s.fld R.TIME_ALARM_CTL.EN = 1 → s.fld R.TIME_ALARM.AT ≤ s.now.toNat →
        ∃ t, exec .alarm s = .next t ∧ SameBut (.power :: recordParts) s t ∧ WordsBut (ownPages [0x02, 0x05, 0x3C] [0x02, 0x05, 0x3C]) s t
          ∧ t.fld R.TIME_ALARM_CTL.EN = 0 ∧ t.shows E.TIME.ALARM
          ∧ (s.fld R.WAKE_SRC_EN.ALARM = 1 → wakes 0x5 0 0 s t) ∧ (s.fld R.WAKE_SRC_EN.ALARM = 0 → t.power = s.power))

/-- Written while TIME is ACTIVE and idle: SET outside FIELD and RETIRED, while the time is not valid, and STEP outside FIELD and RETIRED
take their value, loaded or added, with VALID 1 and the adjustment recorded; elsewhere each ends with STATE and leaves the time base. CHALLENGE
asks for its nonce. AUTH of a well-formed statement over the live nonce, signed by the key, steps or sets; with a bad signature it ends with
BAD_ENTRY, and with another nonce with STATE. -/
def Obligations.TimeCommands : Prop :=
  ∀ (s : State) (rid : BitVec 12),
    let own := [R.TIME_STAT.VALID.addr, R.TIME_CMD_STAT.BUSY.addr, R.TIME_STEPS.COUNT.addr]
    let cmd (op : Nat) : Prop := s.takes rid U.time R.TIME_CMD.OP.addr (op * 2 ^ 28)
    let framed (t : State) : Prop := SameBut (.cmdLate :: recordParts) s t ∧ WordsBut (wrWords 0x02 own []) s t
    let adjusted (acc : BitVec 64) (clk : Nat) (t : State) : Prop := ended U.time rcOk s t ∧ t.time.acc = acc ∧ t.time.frac = s.time.frac
      ∧ t.time.clk = clk ∧ t.fld R.TIME_STAT.VALID = 1 ∧ t.shows E.TIME.STEPPED
      ∧ t.fld R.TIME_STEPS.COUNT = min (s.fld R.TIME_STEPS.COUNT + 1) (2 ^ 32 - 1)
    let refused (code : Nat) (t : State) : Prop := ended U.time code s t ∧ t.time.acc = s.time.acc ∧ t.time.clk = s.time.clk
      ∧ t.fld R.TIME_STAT.VALID = s.fld R.TIME_STAT.VALID ∧ t.shows E.TIME.STEP_REFUSED
    (cmd 1 → ∃ t, exec (.setTime rid) s = .next t ∧ framed t
      ∧ (s.fielded = false → s.fld R.TIME_STAT.VALID = 0 → adjusted (BitVec.ofNat 64 (s.fld R.TIME_VALUE.VALUE)) 0 t)
      ∧ (s.fielded = true ∨ s.fld R.TIME_STAT.VALID = 1 → refused rcState t))
    ∧ (cmd 2 → ∃ t, exec (.step rid) s = .next t ∧ framed t
      ∧ (s.fielded = false → adjusted (s.time.acc + BitVec.ofNat 64 (s.fld R.TIME_VALUE.VALUE)) s.time.clk t) ∧ (s.fielded = true → refused rcState t))
    ∧ (cmd 3 → ∃ t, exec (.challenge rid) s = .next t ∧ SameBut ([.cmdLate, .rng] ++ recordParts) s t
      ∧ WordsBut (wrWords 0x02 own []) s t ∧ t.fld R.TIME_CMD_STAT.BUSY = 1 ∧ t.time.nonceAt = none
      ∧ t.rng = { s.rng with reqs := s.rng.reqs ++ [⟨.ordinary, .timeNonce, 32, s.now.toNat⟩] })
    ∧ (∀ (d : Dram) (b sig : Bytes) (k : Bank),
      let at0 := s.fld R.TIME_AUTH_BUF.ADDR * 16
      let slot := s.fld R.TIME_AUTH_KEY.SLOT
      let cv := curveOf (curveCode (s.slot slot).type.toNat)
      let p := bytesPoint cv k.material
      cmd 4 → dramRead d at0 48 = some b → authFormatOk b (s.fld R.TIME_STAT.VALID = 1) = true →
      s.useKey slot { types := [0x18, 0x19, 0x1A, 0x1B], engine := some .pke, enc := some false } = .ok k →
      dramRead d (at0 + 48) (2 * cv.width) = some sig →
      ∃ t, exec (.auth rid d) s = .next t ∧ SameBut ([.cmdLate, .slots, .nodes, .out] ++ recordParts) s t
        ∧ (s.liveNonce ≠ some (slice b 16 32) → t.out = s.out ++ readReqs d at0 48)
        ∧ (s.liveNonce = some (slice b 16 32) → t.out = s.out ++ readReqs d at0 48 ++ readReqs d (at0 + 48) (2 * cv.width))
        ∧ WordsBut (wrWords 0x02 (own ++ [R.PKE_OPS.COUNT.addr, R.PKE_FAILS.COUNT.addr]) []) s t ∧ t.time.nonceAt = none
        ∧ (s.liveNonce ≠ some (slice b 16 32) → refused rcState t)
        ∧ (s.liveNonce = some (slice b 16 32) → t.fld R.PKE_OPS.COUNT = (s.fld R.PKE_OPS.COUNT + 1) % 2 ^ 32
            ∧ (ecdsaVerify cv p.1 p.2 (curveHash cv b) sig = true →
                if beAt b 3 1 = 1 then adjusted (s.time.acc + BitVec.ofNat 64 (beAt b 8 8)) s.time.clk t
                else adjusted (BitVec.ofNat 64 (beAt b 8 8)) 0 t)
            ∧ (ecdsaVerify cv p.1 p.2 (curveHash cv b) sig = false → refused rcBadEntry t
                ∧ t.fld R.PKE_FAILS.COUNT = min (s.fld R.PKE_FAILS.COUNT + 1) (2 ^ 32 - 1))))

/-- CHRON_ENTRY with an entry of the AUDIT sink that can go writes its 32 bytes at the ring's next place, moves TAIL and chains it; with one
of the TRACE sink it appends the item to the filling bank, or counts it as lost while the page is not ACTIVE. HOLD_DRAIN writes the one
held entry. A write of HEAD within the ring frees entries and starts a stopped ring again, and one beyond TAIL raises AUDIT_BAD.
AUDIT_BUSERR stops the ring. -/
def Obligations.ChronicleRing : Prop :=
  ∀ (s : State) (rid : BitVec 12), s.wf →
    let tail := s.fld R.CHRON_AUDIT_TAIL.INDEX
    let notDue := s.sealDue = false ∧ s.chron.sinceSeal + 1 < max 1 (s.fld R.CHRON_CFG.SEAL_EVERY)
    let rung (e0 : Entry) (t : State) : Prop :=
      let e := if e0.code = 0x0011 then s.sealed1 e0 else e0
      t.out = s.out ++ [.initWrite Config.selfRid (s.auditBase + 32 * (tail % 2 ^ s.auditLog2)) (entryBytes e)]
      ∧ t.fld R.CHRON_AUDIT_TAIL.INDEX = (tail + 1) % 2 ^ 32
      ∧ t.chron.chain = BitVec.ofNat 256 (beNat (sha256 (beBytes 32 s.chron.chain.toNat ++ entryBytes e)))
      ∧ t.chron.sinceSeal = if e0.code = 0x0011 then 0 else s.chron.sinceSeal + 1
    let framed (t : State) : Prop := SameBut (.out :: recordParts) s t ∧ WordsBut (ownWords [R.CHRON_AUDIT_TAIL.INDEX.addr] []) s t
    (∀ w r, s.takeEntry s.chron.writer = some (w, r) →
      (w.audit = true → s.auditTakes = true → notDue → ∃ t, exec .chronEntry s = .next t ∧ framed t ∧ rung w.entry t
        ∧ ∀ x ∈ r, x ∈ t.chron.writer)
      ∧ (w.audit = false → ∃ t, exec .chronEntry s = .next t ∧ SameBut recordParts s t ∧ WordsBut (ownPages [0x03] []) s t
        ∧ (∀ x ∈ r, x ∈ t.chron.writer)
        ∧ (s.active 0x03 = false → s.chron.openAt = none → w.entry.cont = false →
            t.fld R.CHRON_TRACE_LOST.COUNT = min (s.fld R.CHRON_TRACE_LOST.COUNT + 1) (2 ^ 32 - 1))
        ∧ (s.active 0x03 = true → s.chron.openAt = none → w.entry.part.toNat + 1 = w.entry.parts.toNat → s.chron.flushing = false →
            s.chron.fill.words.length + 9 ≤ bankWords → s.chron.remain ≠ 0 →
            t.chron.fill.words = s.chron.fill.words ++ [lengthWord false false 32] ++ entryWords w.entry)))
    ∧ (∀ w, s.auditTakes = true → s.chron.hold = [w] → w.cls ≠ .start → w.entry.code ≠ 0x0011 → s.chron.rejected = none → s.counted = [] →
        notDue → s.auditUsed + 1 < 2 ^ s.auditLog2 →
        ∃ t, exec .holdDrain s = .next t ∧ framed t ∧ rung w.entry t ∧ t.chron.hold = [])
    ∧ (∀ v : Word, s.accepts rid R.CHRON_AUDIT_HEAD.INDEX.addr v.toNat →
        let head := s.fld R.CHRON_AUDIT_HEAD.INDEX
        ∃ t, exec (.chronAuditHead rid v) s = .next t ∧ SameBut (.out :: recordParts) s t ∧ WordsBut (wrPages 0x03 [0x03] []) s t
          ∧ ((v.toNat + 2 ^ 32 - head) % 2 ^ 32 ≤ s.auditUsed → t.fld R.CHRON_AUDIT_HEAD.INDEX = v.toNat
              ∧ t.fld R.CHRON_AUDIT_STAT.STOPPED = 0)
          ∧ (s.auditUsed < (v.toNat + 2 ^ 32 - head) % 2 ^ 32 → t.fld R.CHRON_AUDIT_HEAD.INDEX = head ∧ t.shows E.CHRON.AUDIT_BAD))
    ∧ (∃ t, exec .auditBuserr s = .next t ∧ SameBut recordParts s t ∧ WordsBut (ownWords [] []) s t
        ∧ t.fld R.CHRON_AUDIT_STAT.STOPPED = 1 ∧ t.shows E.CHRON.AUDIT_BUSERR ∧ t.auditTakes = false)

/-- Written while CHRON is ACTIVE and idle: SEAL_NOW raises a SEAL entry; CHECK ends OK exactly where the MAC that stands in CHRON_CHECK_MAC is
that of the index and chain, and with BAD_ENTRY otherwise; SIGN with the attestation key and KEY bits asks for its blinding. FLUSH
switches the banks, or waits for the open item; FLUSH_NOW splits an open item. A read of CHRON_TRACE_DATA answers the next unread word of the
draining bank, or zero. -/
def Obligations.ChronicleCommands : Prop :=
  ∀ (s : State) (rid : BitVec 12),
    let c := s.chron
    let cmd (op : Nat) : Prop := s.takes rid U.chron R.CHRON_CMD.OP.addr (op * 2 ^ 28)
    let stat := R.CHRON_CMD_STAT.BUSY.addr
    let framed (t : State) : Prop := SameBut (.cmdLate :: recordParts) s t ∧ WordsBut (wrWords 0x03 [stat] []) s t
    let flushed (t : State) : Prop := SameBut recordParts s t ∧ WordsBut (wrPages 0x03 [0x03] []) s t
    (cmd 1 → ∃ t, exec (.sealNow rid) s = .next t ∧ framed t ∧ ended U.chron rcOk s t ∧ recorded 0x03 0x0011 0 t)
    ∧ (cmd 2 → ∃ t, exec (.check rid) s = .next t ∧ framed t ∧ (s.auditKey = none → ended U.chron rcState s t)
        ∧ ∀ k, s.auditKey = some k →
            let m := sealMac k (s.fld R.CHRON_CHECK_INDEX.INDEX) (s.wordsBytes R.CHRON_CHECK_CHAIN.WORD 8)
            ended U.chron (if m = s.wordsBytes R.CHRON_CHECK_MAC.WORD 3 then rcOk else rcBadEntry) s t)
    ∧ (cmd 3 → ∃ t, exec (.sign rid) s = .next t ∧ SameBut ([.cmdLate, .rng] ++ recordParts) s t ∧ WordsBut (wrWords 0x03 [stat] []) s t
        ∧ (let may := (s.attestLoaded && !s.noKeyBits) = true ∧ ∃ b, s.useKey attestSlot attestNeed = .ok b
          (may → t.fld R.CHRON_CMD_STAT.BUSY = 1
            ∧ t.rng = { s.rng with reqs := s.rng.reqs ++ [⟨.ordinary, .chronBlind, 40, s.now.toNat⟩] })
          ∧ (¬ may → ended U.chron rcState s t ∧ t.rng = s.rng)))
    ∧ (s.accepts rid R.CHRON_TRACE_CTL.FLUSH.addr 1 →
        ∃ t, exec (.flush rid) s = .next t ∧ flushed t
          ∧ (c.openAt.isSome = true → t.chron.flushing = true ∧ t.chron.fill = c.fill ∧ t.chron.drain = c.drain)
          ∧ (c.openAt = none → t.shows E.CHRON.FLUSH_DONE)
          ∧ (c.openAt = none → c.fill.words ≠ [] → t.chron.fillB = !c.fillB ∧ t.chron.fill.words = []
              ∧ t.chron.drain.words = c.fill.words ∧ t.chron.drain.read = 0))
    ∧ (s.accepts rid R.CHRON_TRACE_CTL.FLUSH.addr 2 →
        ∃ t, exec (.flushNow rid) s = .next t ∧ flushed t ∧ t.shows E.CHRON.FLUSH_DONE
          ∧ (c.openAt.isSome = true → t.fld R.CHRON_TRACE_SPLIT.COUNT = min (s.fld R.CHRON_TRACE_SPLIT.COUNT + 1) (2 ^ 32 - 1)
              ∧ t.chron.openAt = some 0 ∧ t.chron.openCont = true ∧ t.chron.fill.words = [0] ∧ t.chron.fillB = !c.fillB)
          ∧ (c.openAt = none → c.fill.words ≠ [] → t.chron.fill.words = [] ∧ t.chron.drain.words = c.fill.words))
    ∧ (let a := R.CHRON_TRACE_DATA.WORD.addr
      ∃ t, exec .chronTraceData s = .next t ∧ SameBut (.out :: recordParts) s t ∧ WordsBut (ownPages [0x03] []) s t
        ∧ (c.cut ≠ 0 → t.out = s.out ++ [.hostRead a 0] ∧ t.chron = { c with cut := c.cut - 1 })
        ∧ (c.cut = 0 → c.drain.words[c.drain.read]? = none → t.out = s.out ++ [.hostRead a 0] ∧ t.chron = c)
        ∧ (∀ w, c.cut = 0 → c.drain.words[c.drain.read]? = some w → t.out = s.out ++ [.hostRead a w]
            ∧ (c.drain.read + 1 < c.drain.words.length → t.chron.drain = { c.drain with read := c.drain.read + 1 })))

/-- LANE_BLOCK_DONE of a powered lane runs the lanes' clock until the block named leaves O2 and is counted, a known-answer block judged by
its result; a block that the lane does not hold changes nothing; an injected error that reaches S1 faults the lane. LANE_FAULT shows where some
byte has an odd number of flipped bits, or context copies differ: it stores stage and cause, voids what is in flight, sends the affected item
back to its committed context, counts the gust and starts the known-answer set; what does not show changes nothing. KAT_COMPLETE counts the blocks
left and passes the lane, whose item then moves, or fences it. KAT_PERIOD, KAT_NOW and LANE_POWER_UP start a set. FENCE fences; INJECT waits, or
in FIELD is an alarm. COMMIT takes a set that fits or raises SHARE_BAD; SCHED_WINDOW puts it in force and gives the credits again. A slot goes to
a ready class below its cap: to one with credit while there is any, else to one of the least priority code. -/
def Obligations.LaneCommands : Prop :=
  ∀ (s : State) (l : Fin 4) (rid : BitVec 12), s.wf →
    let page : Nat := 0x08 + l
    let parts : List Piece := [.lanes, .sched, .power, .ports] ++ recordParts
    let pages : List Nat := lanePages ++ [0x05, 0x1D, 0x3C]
    let a := s.lane l
    let framed (t : State) : Prop := SameBut parts s t ∧ WordsBut (faultPages page pages pages) s t
    let written (t : State) : Prop :=
      SameBut parts s t ∧ WordsBut (fun a => decide (a = 0x1000 * page + 0x0C) || wrPages page pages pages a) s t
    let cmd (v : Nat) : Prop := s.accepts rid (R.LANE_CMD.KAT_NOW l).addr v
    let begins (r : KatReason) (t : State) : Prop :=
      t.lane l = if s.inService l = true ∧ a.kat = none then { a with kat := some r, katLeft := 6, katGood := true } else a
    let isFenced (cause : Nat) (t : State) : Prop :=
      (t.lane l).fenced = true ∧ (t.lane l).powered = false ∧ (t.lane l).tested = false ∧ (t.lane l).kat = none
      ∧ (t.lane l).pipe = [] ∧ (t.lane l).subkeys = [] ∧ t.inService l = false
      ∧ t.fld (R.LANE_FAULT_STAT.LAST_CAUSE l) = cause ∧ t.shows (E.LANE.FENCED l)
      ∧ t.fld (R.LANE_FAULT_STAT.FENCE_COUNT l) = min (s.fld (R.LANE_FAULT_STAT.FENCE_COUNT l) + 1) (2 ^ 8 - 1)
      ∧ recorded page 0x0023 (lanePayload l (t.fld (R.LANE_FAULT_STAT.STAGE l)) cause) t
      ∧ (s.pageState page = pgActive ∨ s.pageState page = pgDraining → t.pageState page = pgFault)
    let faulted (stage cause : Nat) (t : State) : Prop :=
      let now := t.now.toNat
      let gusts := ((mget (fun _ => []) s.gusts page).filter fun x =>
        decide (now < x + gustWindow (s.fld (R.LANE_CFG.GUST_WIN_MS l)))) ++ [now]
      t.fld (R.LANE_FAULT_STAT.STAGE l) = stage ∧ t.fld (R.LANE_FAULT_STAT.LAST_CAUSE l) = cause
      ∧ t.fld (R.LANE_LAST_FAULT_TS.TS l) = now ∧ mget (fun _ => []) t.gusts page = gusts
      ∧ t.shows (E.LANE.PARITY l) ∧ recorded page 0x0021 (lanePayload l stage cause) t
      ∧ t.lane l = { a with
          pipe := [], folds := [], slots := [], kat := some .fault, katLeft := 6, katGood := true, inject := false,
          faultAt := some now, lasting := decide (max 1 (s.fld (R.LANE_CFG.GUST_LIMIT l)) ≤ gusts.length) }
      ∧ ((∃ k : Fin 4, k ≠ l ∧ ∃ u, (s.lane k).faultAt = some u ∧ now < u + 1000) → t.shows (E.LANE.MULTI_LANE l))
    (∀ (o : BlockOwner) (n j : Nat), let w := namedBlock o n j
      ∃ t, exec (.laneBlockDone l o n j) s = .next t
      ∧ (a.powered = false ∨ (∀ p ∈ a.pipe, p.2.what ≠ w) → SameBut [] s t)
      ∧ (∀ b, a.powered = true → b.what = w → a.pipe.find? (fun p => p.2.what = w) = some (31, b) →
          a.pipe.filter (fun p => decide (31 ≤ p.1)) = [(31, b)] → (∀ k < 4, ∀ p ∈ (s.lane k).pipe, p.2.bad = false) →
          SameBut ([.lanes, .sched] ++ recordParts) s t ∧ WordsBut (ownPages lanePages lanePages) s t
          ∧ t.time.clk = s.time.clk + 1 ∧ t.fld (R.LANE_BLOCKS.COUNT l) = (s.fld (R.LANE_BLOCKS.COUNT l) + 1) % 2 ^ 64
          ∧ ∀ i x, b.what = .known i → knownBlocks[i]? = some x → (t.lane l).katGood = (a.katGood && x.good b.st))
      ∧ (∀ b, a.powered = true → b.what = w → a.pipe = [(1, b)] → b.bad = true → (∀ k < 4, k ≠ l → (s.lane k).pipe = []) → a.folds = [] →
          SameBut tamperParts s t ∧ t.time.clk = s.time.clk + 1 ∧ faulted 2 7 t))
    ∧ (∀ (stage : BitVec 6) (flips : BitVec 128) (keyPipe : Bool), a.powered = true → a.fenced = false →
        let shows : Prop := (stage.toNat = 38 ∧ flips ≠ 0) ∨ (stage.toNat < 38
          ∧ ∃ b < 16, popCount 8 (flips.toNat / 2 ^ (8 * b) % 2 ^ 8) % 2 = 1)
        let cause := if stage.toNat = 38 then 4 else if 32 ≤ stage.toNat then 3 else if keyPipe then 2 else 1
        ∃ t, exec (.laneFault l stage flips keyPipe) s = .next t ∧ (¬shows → SameBut [] s t) ∧ SameBut tamperParts s t
          ∧ WordsBut (faultPages page tamperPages tamperPages) s t ∧ (shows → faulted stage.toNat cause t)
          ∧ (∀ x, shows → s.sched.items = [x] → x.lane = some l.val → x.done = false → x.tagged = true → (∀ k < 4, (s.lane k).faultAt = none) →
              t.sched.items = [{ x with
                next := min x.ctxA.index x.next, out := min x.ctxA.index x.out, replayTo := max x.replayTo x.next, since := none,
                lane := none, was := some l.val }]))
    ∧ (∀ (r : KatReason) (pass : Bool), a.kat = some r →
        let good := pass && a.katGood
        ∃ t, exec (.katComplete l pass) s = .next t ∧ framed t
          ∧ t.fld (R.LANE_BLOCKS.COUNT l) =
              (s.fld (R.LANE_BLOCKS.COUNT l) + a.katLeft + (a.pipe.filter fun p => p.2.known).length) % 2 ^ 64
          ∧ t.fld (R.SCHED_SLOTS.COUNT 7) = (s.fld (R.SCHED_SLOTS.COUNT 7) + a.katLeft) % 2 ^ 64
          ∧ (good = false → isFenced 5 t ∧ t.shows (E.LANE.KAT_FAIL l))
          ∧ (good = true → r = .fault → a.lasting = true → isFenced (s.fld (R.LANE_FAULT_STAT.LAST_CAUSE l)) t)
          ∧ (good = true → r ≠ .fault ∨ a.lasting = false →
              t.lane l = { a with pipe := a.pipe.filter (fun p => !p.2.known), katLeft := 0, kat := none, tested := true }
              ∧ t.fld (R.LANE_GUSTS.COUNT l) = (if r = .fault then min (s.fld (R.LANE_GUSTS.COUNT l) + 1) (2 ^ 32 - 1)
                  else s.fld (R.LANE_GUSTS.COUNT l))
              ∧ (r = .fault → t.shows (E.LANE.GUST l) ∧ recorded page 0x0020 (alarmPayload 0 1 0 false page) t)
              ∧ (∀ (x : LaneItem) (k : Fin 4), s.sched.items = [x] → x.lane = none → x.was = some l.val → x.done = false → k ≠ l →
                  s.takesItems k = true → (∀ j < 4, j ≠ k.val → j ≠ l.val → s.takesItems j = false) →
                  t.fld (R.LANE_REPLAYS.COUNT l) = min (s.fld (R.LANE_REPLAYS.COUNT l) + 1) (2 ^ 32 - 1)
                  ∧ t.sched.items = [{ x with lane := some k.val, was := none }] ∧ t.shows (E.LANE.REPLAY_OUT l)
                  ∧ recorded page 0x0024 (BitVec.ofNat 96 (l + k.val * 4 + 1 * 2 ^ 8)) t)))
    ∧ (∃ t, exec (.katPeriod l) s = .next t ∧ SameBut [.lanes] s t ∧ begins .periodic t)
    ∧ (cmd 1 → ∃ t, exec (.katNow rid l) s = .next t ∧ SameBut (.lanes :: recordParts) s t ∧ WordsBut (wrWords page [] []) s t
        ∧ begins .commanded t)
    ∧ (cmd 2 → ∃ t, exec (.fence rid l) s = .next t ∧ written t
        ∧ (s.laneAvail l = true → isFenced 6 t) ∧ (s.laneAvail l = false → t.lane l = a))
    ∧ (cmd 4 → ∃ t, exec (.inject rid l) s = .next t ∧ written t
        ∧ (s.inField = true → t.lane l = a ∧ recorded page 0x0020 (alarmPayload 0 0 0 false page) t)
        ∧ (s.inField = false → t.lane l = { a with inject := true }))
    ∧ (a.powered = false → s.laneAvail l = true ∨ a.replaying = true →
        ∃ t, exec (.lanePowerUp l) s = .next t ∧ framed t
          ∧ t.lane l = { a with powered := true, tested := false, kat := some .entry, katLeft := 6, katGood := true }
          ∧ (t.fld R.POWER_STAT.DOMAINS_ON).testBit (6 + l) = true)
    ∧ (let runs : Prop := s.active 0x0C = true ∨ s.pageState 0x0C = pgDraining
      ∃ t, exec .schedWindow s = .next t ∧ SameBut ([.sched, .power, .ports] ++ recordParts) s t
        ∧ WordsBut (ownPages [0x05, 0x0C, 0x1D, 0x3C] [0x05, 0x0C, 0x1D, 0x3C]) s t
        ∧ t.sched.credit = t.classes.map (fun c => c.share * s.laneCount) ∧ t.sched.used = [0, 0, 0, 0, 0, 0, 0, 0]
        ∧ (∀ set, s.sched.waiting = some set → runs →
            t.sched.committed = some set ∧ t.sched.waiting = none ∧ t.shows E.SCHED.COMMIT_DONE)
        ∧ (s.sched.waiting = none ∨ ¬ runs →
            t.sched.committed = s.sched.committed ∧ t.sched.waiting = s.sched.waiting ∧ t.regs = s.regs))
    ∧ (s.accepts rid R.SCHED_CMD.COMMIT.addr 1 →
        let set : List ClassSet := (List.range 8).map fun c =>
          ⟨s.fld (R.SCHED_CLASS.SHARE c), s.fld (R.SCHED_CLASS.CAP c), s.fld (R.SCHED_CLASS.PRIO c)⟩
        let fits : Prop := (set.map ClassSet.share).sum ≤ 256 ∧ ∀ c ∈ set, c.cap = 0 ∨ c.share ≤ c.cap
        ∃ t, exec (.commit rid) s = .next t ∧ SameBut (.sched :: recordParts) s t ∧ WordsBut (wrWords 0x0C [] []) s t
          ∧ (fits → t.sched = { s.sched with waiting := some set }) ∧ (¬ fits → t.sched = s.sched ∧ t.shows E.SCHED.SHARE_BAD))
    ∧ (∀ ready : Nat → Bool,
        let cls (c : Nat) : ClassSet := s.classes.getD c ⟨0, 0, 3⟩
        let d := s.sched
        let may (c : Nat) : Prop := c < 8 ∧ ready c = true ∧ ((cls c).cap = 0 ∨ d.used.getD c 0 < (cls c).cap * s.laneCount)
        (∀ k ∈ s.classes, k.prio ≤ 3) →
        (d.pick s.classes s.laneCount ready = none ↔ ∀ c, ¬ may c)
        ∧ ∀ c d', d.pick s.classes s.laneCount ready = some (c, d') → may c
          ∧ ((∃ b, may b ∧ 0 < d.credit.getD b 0) → 0 < d.credit.getD c 0 ∧ d' = { d with lastA := c })
          ∧ ((∀ b, may b → d.credit.getD b 0 = 0) → (∀ b, may b → (cls c).prio ≤ (cls b).prio) ∧ d' = { d with lastB := c }))
    ∧ (∀ (f : Nat → Nat) (c : List Nat), (leastLane f c = none ↔ c = []) ∧ ∀ m, leastLane f c = some m → m ∈ c ∧ ∀ k ∈ c, f m ≤ f k)

/-- ENTROPY_POWER_UP and RESTART of a source in FAULT start the source anew; with a failed test of the core it goes to FAULT. SEED_READY puts
samples through the continuous tests and buffers their seed. HEALTH_FAIL restarts the source, or at its limit is lasting. DRBG_INSTANTIATE
uses the first seed. DRBG_GENERATE serves the next request by class, reseeding before KEY and PR requests. RNG_DATA_READ takes a word of the
FIFO or raises UNDERRUN; RNG_RAW_READ answers samples in BLANK; TEST_EN changes the test mode in BLANK and elsewhere is refused. -/
def Obligations.RngCommands : Prop :=
  ∀ (s : State) (rid : BitVec 12), s.wf →
    let parts : List Piece := [.power, .gusts] ++ abortParts
    let pages : List Nat := [0x03, 0x05, 0x3C] ++ abortPages
    let src := s.fld R.RNG_STAT.SRC
    let framed (t : State) : Prop := SameBut parts s t ∧ WordsBut (faultPages 0x3A pages pages) s t
    let written (t : State) : Prop :=
      SameBut parts s t ∧ WordsBut (fun a => decide (a = 0x3A00C) || wrPages 0x3A pages pages a) s t
    let inFault (t : State) : Prop := t.fld R.RNG_STAT.SRC = srcFaulted ∧ t.rng.drbg = none ∧ t.rng.seeds = [] ∧ t.rng.fifo = []
      ∧ t.shows E.RNG.SRC_FAULT ∧ recorded 0x3A 0x0020 (alarmPayload 0 2 0 false 0x3A) t
      ∧ (s.pageState 0x3A = pgActive ∨ s.pageState 0x3A = pgDraining → t.pageState 0x3A = pgFault)
    let started (test : Bool) (t : State) : Prop := t.fld R.RNG_STAT.SRC = srcStartup ∧ t.rng.seeds = [] ∧ t.rng.drbg = none
      ∧ t.fld R.RNG_TEST_CTL.TEST_ACTIVE = b2n test ∧ t.fld R.RNG_RESEED.INTERVAL = 1 ∧ t.fld R.RNG_RESEED.COUNT = 0
      ∧ t.fld R.RNG_STAT.BLOCKED = 0
      ∧ (test = false → t.rng = { s.rng with r := 0, last := false, run := 0, seeds := [], drbg := none })
    let failed (test : Nat) (t : State) : Prop :=
      let n := ((mget (fun _ => []) s.gusts 0x3A).filter fun x =>
        decide (s.now.toNat < x + gustWindow (s.fld R.RNG_CFG.GUST_WIN_MS))).length + 1
      t.fld R.RNG_HEALTH.LAST_TEST = test ∧ t.fld R.RNG_HEALTH.FAILURES = min (s.fld R.RNG_HEALTH.FAILURES + 1) (2 ^ 16 - 1)
      ∧ (mget (fun _ => []) t.gusts 0x3A).length = n ∧ t.rng.seeds = []
      ∧ (max 1 (s.fld R.RNG_CFG.GUST_LIMIT) ≤ n → inFault t)
      ∧ (n < max 1 (s.fld R.RNG_CFG.GUST_LIMIT) → t.fld R.RNG_STAT.SRC = srcRestart ∧ t.shows E.RNG.GUST
          ∧ recorded 0x3A 0x0020 (alarmPayload 0 1 0 false 0x3A) t
          ∧ t.rng = { s.rng with r := 0, last := false, run := 0, seeds := [] })
    let testOn := decide (s.fld R.RNG_TEST_CTL.TEST_EN = 1 ∧ s.fld R.KEYS_LC.STATE = 0)
    let poweredUp (katOk : Bool) (t : State) : Prop := t.clkReq .smp = true ∧ (t.fld R.POWER_STAT.DOMAINS_ON).testBit 15 = true
      ∧ (katOk = true → started testOn t ∧ ¬ t.shows E.RNG.SRC_FAULT)
      ∧ (katOk = false → inFault t ∧ t.fld R.RNG_HEALTH.LAST_TEST = 3)
    (∀ katOk : Bool, s.heeds → ∃ t, exec (.entropyPowerUp katOk) s = .next t ∧ framed t ∧ poweredUp katOk t)
    ∧ (∀ katOk : Bool, s.accepts rid R.RNG_CMD.RESEED.addr 2 →
        ∃ t, exec (.rngRestart rid katOk) s = .next t ∧ written t
          ∧ (src = srcFaulted → poweredUp katOk t ∧ mget (fun _ => []) t.gusts 0x3A = [])
          ∧ (src ≠ srcFaulted → SameBut recordParts s t ∧ WordsBut (wrWords 0x3A [] []) s t))
    ∧ (s.accepts rid R.RNG_CMD.RESEED.addr 1 →
        ∃ t, exec (.reseed rid) s = .next t ∧ SameBut (.rng :: recordParts) s t ∧ WordsBut (wrWords 0x3A [] []) s t
          ∧ t.rng = { s.rng with reseed := true })
    ∧ (∀ raw : BitVec 6144, s.heeds → s.clkRuns .smp = true → src = srcStartup ∨ src = srcRun ∨ src = srcTest → s.rng.seeds.length < 2 →
        ∃ t, exec (.seedReady raw) s = .next t ∧ framed t
          ∧ match healthRun s.rctC s.aptC ⟨s.rng.last, s.rng.run, false, 0, 0⟩ (s.samples raw) with
            | .error test => failed test t
            | .ok h => SameBut (.rng :: recordParts) s t ∧ t.fld R.RNG_STAT.BLOCKED = 0
              ∧ (let (ws, r) := compress 24 s.rng.r (s.samples raw)
                 t.rng = { s.rng with r := r, last := h.last, run := h.run, seeds := s.rng.seeds ++ [seedOf ws] }))
    ∧ (∀ apt : Bool, s.clkRuns .smp = true → src ≠ srcOff → src ≠ srcFaulted →
        ∃ t, exec (.healthFail apt) s = .next t ∧ framed t ∧ failed (if apt then 2 else 1) t)
    ∧ (∃ t, exec .restartDiscardEnd s = .next t ∧ SameBut [.regs] s t ∧ WordsBut (ownWords [R.RNG_STAT.SRC.addr] []) s t
        ∧ t.fld R.RNG_STAT.SRC = (if s.clkRuns .smp = false ∨ src ≠ srcRestart then src else if s.rng.drbg = none then srcStartup
            else if s.testActive = true then srcTest else srcRun))
    ∧ (∀ (seed : Bytes) (rest : List Bytes), s.heeds → src = srcStartup → s.rng.drbg = none → s.rng.seeds = seed :: rest →
        let resets := if s.anchor.scanned then s.fld R.ANCHOR_RESETS.COUNT else 0
        let pers := beBytes 8 s.now.toNat ++ beBytes 4 resets ++ zeros 36
        ∃ t, exec .drbgInstantiate s = .next t ∧ SameBut ([.rng, .keys, .free] ++ recordParts) s t
          ∧ WordsBut (ownPages [0x34, 0x3A] [0x3A]) s t ∧ t.rng.drbg = some (drbgInit (xorBytes seed pers)) ∧ t.rng.seeds = rest
          ∧ t.fld R.RNG_STAT.SRC = (if s.testActive then srcTest else srcRun) ∧ t.shows E.RNG.SEEDED
          ∧ (s.rng.scrambled = true → t.keys = s.keys)
          ∧ (s.rng.scrambled = false → t.rng.scrambled = true ∧ t.fld R.KEYS_ROOT_STAT.SCRAMBLED = 1
              ∧ t.keys = { s.keys with perm := t.keys.perm } ∧ ∃ r ∈ t.rng.reqs, r.user = .loopSeed))
    ∧ (∃ t, exec .rngDataRead s = .next t ∧ SameBut ([.rng, .out] ++ recordParts) s t ∧ WordsBut (ownPages [0x3A] [0x3A]) s t
        ∧ (∀ w ws, s.active 0x3A = true → s.domainOn 15 = true → s.rng.fifo = w :: ws →
            t.out = s.out ++ [.hostRead R.RNG_DATA.WORD.addr w] ∧ t.rng.fifo = ws)
        ∧ (s.active 0x3A = false ∨ s.domainOn 15 = false ∨ s.rng.fifo = [] →
            t.out = s.out ++ [.hostRead R.RNG_DATA.WORD.addr 0] ∧ t.rng = s.rng ∧ t.fld R.RNG_STAT.UNDERRUN = 1
            ∧ t.shows E.RNG.UNDERRUN))
    ∧ (∀ raw : Word, ∃ t, exec (.rngRawRead raw) s = .next t ∧ SameBut [.out] s t
        ∧ t.out = s.out ++ [.hostRead R.RNG_RAW.WORD.addr
            (if s.fld R.KEYS_LC.STATE ≠ 0 ∨ src = srcOff ∨ src = srcFaulted then 0
              else if s.testActive then BitVec.ofNat 32 (s.fld R.RNG_TEST_PAT.PATTERN) else raw)])
    ∧ (∀ en : Bool, s.accepts rid R.RNG_TEST_CTL.TEST_EN.addr (b2n en) →
        ∃ t, exec (.testEn rid en) s = .next t ∧ SameBut parts s t ∧ WordsBut (wrPages 0x3A pages pages) s t
          ∧ t.fld R.RNG_TEST_CTL.TEST_EN = b2n en
          ∧ (s.fld R.KEYS_LC.STATE ≠ 0 → t.rng = s.rng ∧ t.testActive = s.testActive
              ∧ (en = true → t.shows E.RNG.TEST_REFUSED ∧ recorded 0x3A 0x0020 (alarmPayload 0 0 0 false 0x3A) t))
          ∧ (s.fld R.KEYS_LC.STATE = 0 → en = s.testActive → t.rng = s.rng ∧ t.testActive = s.testActive)
          ∧ (s.fld R.KEYS_LC.STATE = 0 → en ≠ s.testActive →
              if src = srcOff ∨ src = srcFaulted then t.rng = s.rng ∧ t.testActive = false else started en t))
    ∧ (∀ (dram : Dram) (g : Drbg) (r : RandReq), s.heeds → s.srcFault = false → s.rng.drbg = some g →
        nextRequest s.rng.reqs (!s.rng.seeds.isEmpty) = some r →
        let n := s.fld R.RNG_RESEED.INTERVAL
        let served (g0 : Drbg) (t : State) : Prop := t.rng.drbg = some (drbgGenerate g0 r.bytes).2
          ∧ t.fld R.RNG_BYTES.COUNT = (s.fld R.RNG_BYTES.COUNT + r.bytes) % 2 ^ 64
          ∧ ∀ e, r.user = .entry e → mget (fun _ => []) t.drawn e = (drbgGenerate g0 r.bytes).1
        ∃ t, exec (.drbgGenerate dram) s = .next t
          ∧ SameBut ([.drawn, .cmdLate, .keys, .modules, .nodes, .out, .rng, .slots, .tamper] ++ recordParts) s t
          ∧ WordsBut (ownPages [0x02, 0x03, 0x34, 0x35, 0x36, 0x37, 0x3A] [0x02, 0x03, 0x34, 0x35, 0x36, 0x37, 0x3A]) s t
          ∧ (∀ seed rest, s.rng.seeds = seed :: rest →
              (r.cls ≠ .ordinary ∨ s.rng.reseed = true ∨ 4096 * n ≤ s.fld R.RNG_RESEED.COUNT) →
              served (drbgUpdate g seed) t ∧ t.rng.seeds = rest ∧ t.rng.reseed = false ∧ t.fld R.RNG_RESEED.COUNT = 1
              ∧ t.fld R.RNG_RESEED.INTERVAL = 1)
          ∧ (r.cls = .ordinary → s.rng.seeds = [] ∨ s.rng.reseed = false → s.fld R.RNG_RESEED.COUNT < 4096 * n →
              served g t ∧ t.rng.seeds = s.rng.seeds ∧ t.fld R.RNG_RESEED.COUNT = s.fld R.RNG_RESEED.COUNT + 1
              ∧ t.fld R.RNG_RESEED.INTERVAL = n)
          ∧ (r.cls = .ordinary → s.rng.seeds = [] → 4096 * n ≤ s.fld R.RNG_RESEED.COUNT →
              (s.fld R.RNG_CFG.DEPTH_HI < s.rng.reqs.length → n < 16 →
                served g t ∧ t.fld R.RNG_RESEED.INTERVAL = n + 1 ∧ t.shows E.RNG.STRETCH)
              ∧ (s.rng.reqs.length ≤ s.fld R.RNG_CFG.DEPTH_HI ∨ 16 ≤ n → t.rng = s.rng ∧ t.fld R.RNG_STAT.BLOCKED = 1)))

/-- SOF_ADMIT of a frame that its port may admit and has room for stages one item with the frame's bytes, still open; a port without
room, or a receive port above HIGH, sets WAIT_ADMIT instead, and a transmit frame is held, untold, while another source has TXO. ITEM_END of an open staged item that stays within MAX_ITEM adds the last
bytes, closes it and writes VALID into its length word. PRODUCER_ERR voids the open staged item, which leaves at its EOF beat and is
skipped until then. TX_UNDERRUN truncates the open item that has begun on TXO and sets UNDERRUN. -/
def Obligations.StreamStaging : Prop :=
  ∀ (s : State) (port : Fin 32) (tx : Bool) (b : List Byte),
    let n := port.val
    (s.mayAdmit n tx = true → (tx = true ∨ s.loopPeer n = none) → itemUnits b.length ≤ s.maxItem n →
      (∀ j ∈ (s.port n).items, j.id < s.streams.nextId) →
      ∃ t, exec (.sofAdmit port tx b) s = .next t ∧ SameBut ([.ports, .streams] ++ recordParts) s t
        ∧ WordsBut (ownPages (portPages ++ [0x1D]) (portPages ++ [0x1D])) s t
        ∧ (s.room n = true → (tx = true ∨ (s.port n).xoff = false) → (tx = true → s.txoTaken n = false) →
            t.streams.nextId = s.streams.nextId + 1
            ∧ t.fld (R.STRM_P_STAT.WAIT_ADMIT n) = b2n (if tx then (s.port n).waitRx else (s.port n).waitTx)
            ∧ ∃ j ∈ (t.port n).items, j.id = s.streams.nextId ∧ j.tx = tx ∧ j.bytes = b ∧ j.isOpen = true ∧ j.skip = false)
        ∧ (s.room n = false ∨ (tx = false ∧ (s.port n).xoff = true) →
            t.fld (R.STRM_P_STAT.WAIT_ADMIT n) = 1 ∧ t.streams = s.streams
            ∧ t.port n = if tx then { s.port n with waitTx := true } else { s.port n with waitRx := true })
        ∧ (s.room n = true → tx = true → s.txoTaken n = true →
            t.streams = s.streams ∧ t.port n = { s.port n with sofHeld := true }))
    ∧ (∀ i, s.openOf n tx = some i → i.skip = false → i.entry = none → itemUnits (i.bytes ++ b).length ≤ i.maxItem → i.maxItem ≤ 512 → s.onlyItem n i →
        ∃ t, exec (.itemEnd port tx b) s = .next t ∧ SameBut (.ports :: recordParts) s t
          ∧ WordsBut (ownPages (portPages ++ [0x1D]) (portPages ++ [0x1D])) s t ∧ (t.port n).lastWord.getLsbD 31 = true
          ∧ ∃ j ∈ (t.port n).items, j.id = i.id ∧ j.isOpen = false ∧ j.bytes = i.bytes ++ b)
    ∧ (∀ i eof, s.openOf n tx = some i → i.skip = false → i.entry = none →
        ∃ t, exec (.producerErr port tx eof) s = .next t ∧ SameBut streamParts s t ∧ WordsBut (ownPages streamPages streamPages) s t
          ∧ t.fld (R.STRM_P_EVT.VOID n) = 1 ∧ t.fld (R.STRM_P_VOIDED.COUNT n) = (s.fld (R.STRM_P_VOIDED.COUNT n) + 1) % 2 ^ 32
          ∧ (eof = true → ∀ j ∈ (t.port n).items, j.id ≠ i.id)
          ∧ (eof = false → ∃ j ∈ (t.port n).items, j.id = i.id ∧ j.skip = true))
    ∧ (∀ i, s.openOf n true = some i → i.started = true → i.skip = false → i.id < s.streams.nextId →
        ∃ t, exec (.txUnderrun port) s = .next t ∧ SameBut streamParts s t ∧ WordsBut (ownPages streamPages streamPages) s t
          ∧ t.fld (R.STRM_P_EVT.UNDERRUN n) = 1 ∧ ∃ j ∈ (t.port n).items, j.id = i.id ∧ j.skip = true)

/-- ASSOC_LOOKUP of the first item without an answer, whose header is staged and is no MKA frame: a receive frame whose probe hits an
association that is not late takes that association; one that hits none passes where UNTAGGED is 1 and is otherwise voided and counted
in RX_NOSA; a transmit frame, with the trie off, takes the association of its destination, or passes where EGR_NOSA is 1. MACRO_GUST of a
macro in service that holds a half of an allocated unit counts the reconstruction and raises MACRO_GUST; it fences the macro where the
write-back reads back wrong or another macro of the triple is fenced, and otherwise leaves the fences alone while the gusts in the window
stay below the limit. -/
def Obligations.LookupAndMacroGust : Prop :=
  (∀ (s : State) (port : Fin 32) (i : SItem),
    let n := port.val
    let b := i.bytes
    let pages := streamPages ++ [0x22]
    let first (tx : Bool) : Prop := (s.port n).items.find? (fun i => i.tx = tx && !i.skip && decide (i.look = .waiting)) = some i
    let plain := headerIn n i = true ∧ (isCan n = true → canFormat b ≠ 3)
      ∧ (isCan n = false → (isMka b && decide (s.fld R.STRM_GCFG.MKA_PASS = 1)) = false)
    let found := if isCan n then s.look (keyBlockOf 2 n 0 (canKeyValue b)) else s.lookRx n (tagAn b) (tagSci b)
    let sent := s.look (if isCan n then keyBlockOf 3 n 0 (canKeyValue b) else keyBlockOf 1 n 0 (vlanTag b).2)
    let gets (l : Look) (t : State) : Prop := ∃ j ∈ (t.port n).items, j.id = i.id ∧ j.look = l
    (first false → plain → (isCan n = false → isSecTag b = true ∧ tciBad b = false ∧ (i.isOpen = true ∨ slBad b = false)) →
      ∃ t, exec (.assocLookup port false) s = .next t ∧ SameBut streamParts s t ∧ WordsBut (ownPages pages pages) s t
        ∧ (∀ c, found = .hit c → (isCan n = true ∨ c.learn = true ∨ rxLate (s.rxOf c) (s.ethValue c b) = false) → gets (.hit c) t)
        ∧ (found = .miss → s.fld (R.STRM_P_CFG.UNTAGGED n) = 1 → gets .miss t)
        ∧ (found = .miss → s.fld (R.STRM_P_CFG.UNTAGGED n) = 0 →
            t.fld (R.STRM_P_RX_NOSA.COUNT n) = (s.fld (R.STRM_P_RX_NOSA.COUNT n) + 1) % 2 ^ 32))
    ∧ (first true → plain → s.active 0x22 = false →
      ∃ t, exec (.assocLookup port true) s = .next t ∧ SameBut streamParts s t ∧ WordsBut (ownPages pages pages) s t
        ∧ (∀ c, sent = .hit c → gets (.hit c) t)
        ∧ (sent = .miss → s.fld (R.STRM_P_CFG.EGR_NOSA n) = 1 → gets .miss t)))
  ∧ (∀ (s : State) (m : Fin 24) (port : Fin 32) (bankB bad : Bool) (unit : BitVec 9) (i : SItem),
    let n := port.val
    let recent := (mget (fun _ => []) s.gusts (0x200 + m.val)).filter fun x =>
      decide (s.now.toNat < x + gustWindow (s.fld R.STRM_MACRO_CFG.GUST_WIN_MS))
    let others := ∀ k, k / 3 = m.val / 3 → s.macroOut k = false
    s.macroOut m = false → tripleOf n = m.val / 3 → macroPart m (tripleUnit n bankB unit.toNat) ≠ 2 →
    (s.port n).items.find? (fun i => i.bankB = bankB && i.units.contains unit.toNat) = some i →
    ∃ t, exec (.macroGust m port bankB unit bad) s = .next t ∧ SameBut (.gusts :: streamParts) s t
      ∧ WordsBut (ownPages streamPages streamPages) s t ∧ t.shows E.STREAM.MACRO_GUST
      ∧ t.fld R.STRM_MACRO_RECON.COUNT = min (s.fld R.STRM_MACRO_RECON.COUNT + 1) (2 ^ 32 - 1)
      ∧ (bad = true ∨ ¬ others → t.macroOut m = true)
      ∧ (bad = false → others → recent.length + 1 < max 1 (s.fld R.STRM_MACRO_CFG.GUST_LIMIT) →
          t.fld R.STRM_MACRO_FENCED.FENCED = s.fld R.STRM_MACRO_FENCED.FENCED))

/-- With a stream entry free and no item asking: EGRESS_ACCEPT of the first transmit item accepts a clear frame, and a frame of an
association that issues its next value at once with that value in the entry. INGRESS_ACCEPT of the first ended receive item accepts a
clear frame as passed, and one whose keys and check are good with the value checked in the entry. INGRESS_VERIFY_DONE of a frame of an
installed association whose lane is in service keeps the plaintext of one that opens, and counts one that does not in RX_AUTH_FAIL. -/
def Obligations.StreamAcceptance : Prop :=
  ∀ (s : State) (port : Fin 32) (i : SItem), s.wf →
    let n := port.val
    let pages := streamPages ++ [0x24]
    let framed (t : State) : Prop :=
      SameBut (streamParts ++ [.anchor, .assoc, .counters, .slots]) s t ∧ WordsBut (ownPages pages pages) s t
    let accepted (v : Option Nat) (t : State) : Prop := ∃ e, ∃ j ∈ (t.port n).items, j.id = i.id ∧ j.entry = some e ∧ s.entry e = none
      ∧ ∃ x, t.entry e = some x ∧ ∀ u, v = some u → x.valueA = BitVec.ofNat 64 u
    let toSend := (s.port n).items.find? (fun i => i.tx && !i.skip && i.entry.isNone) = some i
    let toCheck := (s.port n).items.find? (fun i => !i.tx && !i.skip && !i.isOpen && i.entry.isNone && decide (i.look ≠ .waiting)
      && (s.pairOf i 1).isNone && (s.pairOf i 2).isNone) = some i
    (s.entryFree → toSend → i.look = .miss → ∃ t, exec (.egressAccept port) s = .next t ∧ framed t ∧ accepted none t)
    ∧ (∀ c loc ws, s.entryFree → toSend → i.look = .hit c → s.noLane = false → s.current c = some (loc, ws) →
        (isCan n = true → i.isOpen = false ∧ (canFit c.words i.bytes (i.bytes.length - 12)).isSome = true) →
        s.keyRefused ws (some .stream) true = false → s.issuesNow .stream ws →
        ∃ t, exec (.egressAccept port) s = .next t ∧ framed t ∧ accepted (some (s.nextValue ws)) t)
    ∧ (s.entryFree → toCheck → i.look = .miss →
        ∃ t, exec (.ingressAccept port) s = .next t ∧ framed t ∧ accepted none t
          ∧ ∃ j ∈ (t.port n).items, j.id = i.id ∧ j.verdict = .passed ∧ j.out = i.bytes)
    ∧ (∀ c v, s.entryFree → toCheck → i.look = .hit c → s.noLane = false → s.keysOk c.words (some .stream) false = true →
        (s.counter c.handle).rewrite = none → s.rxCheck n i c = .ok v → ∃ t, exec (.ingressAccept port) s = .next t ∧ framed t ∧ accepted (some v) t)
    ∧ (∀ c e, s.unverified n = some (i, c, e) → s.noLane = false → i.pair = none → c.learn = false → c.peer = none →
        s.itemCanWork i → (isCan n = true ∨ slBad i.bytes = false) →
        ∃ t, exec (.ingressVerifyDone port) s = .next t ∧ SameBut (streamParts ++ workParts ++ [.assoc, .peers]) s t
          ∧ WordsBut (ownPages (pages ++ lanePages) (pages ++ lanePages)) s t
          ∧ (∀ x isNew, s.openItem n c e i.bytes = some (x, isNew) →
              (∀ pl, s.rxPlace c = some pl → (rxUpdate (s.rxState pl (eReplay c.words)) e.valueA.toNat).isSome = true) →
              ∃ j ∈ (t.port n).items, j.id = i.id ∧ j.verdict = .passed ∧ j.out = rxoFrame i.bytes x)
          ∧ (s.openItem n c e i.bytes = none →
              t.fld (R.STRM_P_RX_AUTH_FAIL.COUNT n) = (s.fld (R.STRM_P_RX_AUTH_FAIL.COUNT n) + 1) % 2 ^ 32))

/-- STREAM_RELEASE drives out the first receive item of a port that is verified, or the frame on TXO that is complete, its lane work
done and the content of a transmit frame protected under its entry's keys, frees its Cellar entry, counts it, and drops it from staging. A write of STRM_P_WM that is accepted stores HIGH and LOW, and lets XOFF fall where the
level is at the new LOW. -/
def Obligations.StreamRelease : Prop :=
  (∀ (s : State) (port : Fin 32) (i : SItem),
    let n := port.val
    let freed (t : State) (n : Nat) : Prop := (∀ j ∈ (t.port n).items, j.id ≠ i.id) ∧ ∀ e, i.entry = some e → t.entry e = none
    ((s.port n).items.find? (fun i => !i.tx && !i.skip) = some i → i.isOpen = false → i.entry.isSome = true → i.pair = none →
      i.verdict = .passed → i.bankB ≠ (s.port n).fillB → s.itemHeld i = false →
      ∃ t, exec (.streamRelease port false) s = .next t ∧ SameBut streamParts s t ∧ WordsBut (ownPages streamPages streamPages) s t
        ∧ t.out = s.out ++ [.rxo n i.out false] ∧ freed t n
        ∧ (i.look = .miss → t.fld (R.STRM_P_RX_UNTAGGED.COUNT n) = (s.fld (R.STRM_P_RX_UNTAGGED.COUNT n) + 1) % 2 ^ 32)
        ∧ (∀ c, i.look = .hit c → t.fld (R.STRM_P_RX_OK.COUNT n) = (s.fld (R.STRM_P_RX_OK.COUNT n) + 1) % 2 ^ 32))
    ∧ (∀ src m, s.onTxo n = some (src, m, i) → i.isOpen = false → (i.tx = true ∨ i.verdict = .passed) → s.itemHeld i = false →
        s.loopPeer n = none → s.itemCanWork i → s.onlyItem m i →
        let sent := match i.tx, i.entry.bind s.entry with
          | true, some e => if s.laneReady i then s.txOut m i e else i.out
          | _, _ => i.out
        ∃ t, exec (.streamRelease port true) s = .next t ∧ SameBut (streamParts ++ workParts) s t
          ∧ WordsBut (ownPages (streamPages ++ lanePages) (streamPages ++ lanePages)) s t
          ∧ t.out = s.out ++ [.txo n sent false] ∧ freed t m
          ∧ (i.pair = none → i.look = .miss →
              t.fld (R.STRM_P_TX_CLEAR.COUNT n) = (s.fld (R.STRM_P_TX_CLEAR.COUNT n) + 1) % 2 ^ 32)
          ∧ (∀ c, i.pair = none → i.look = .hit c →
              t.fld (R.STRM_P_TX_PROTECTED.COUNT n) = (s.fld (R.STRM_P_TX_PROTECTED.COUNT n) + 1) % 2 ^ 32)))
  ∧ (∀ (s : State) (rid : BitVec 12) (port : Fin 32) (v : Word),
    let n := port.val
    let low := bits v.toNat 10 0
    let high := bits v.toNat 26 16
    s.accepts rid (R.STRM_P_WM.LOW n).addr v.toNat →
    ∃ t, exec (.strmPWm rid port v) s = .next t ∧ SameBut (.ports :: recordParts) s t
      ∧ WordsBut (wrWords (portPage n) [(R.STRM_P_WM.LOW n).addr, (R.STRM_P_STAT.XOFF n).addr] []) s t
      ∧ t.fld (R.STRM_P_WM.LOW n) = low ∧ t.fld (R.STRM_P_WM.HIGH n) = high
      ∧ ((s.port n).xoff = true → (s.port n).level ≤ min low (high - 1) →
          t.port n = { s.port n with xoff := false } ∧ t.fld (R.STRM_P_STAT.XOFF n) = 0)
      ∧ ((s.port n).xoff = false ∨ min low (high - 1) < (s.port n).level → t.ports = s.ports))

/-- An accepted PORT_EN takes a port that is OFF, on an ACTIVE page, to ACTIVE, and an ACTIVE one to DRAINING with both flushes begun. An
accepted flush command of an enabled port sets its flag, and the NOW forms void the open receive item, or truncate or void the open
transmit item, as well. FLUSH_END of a flush in progress with nothing of its direction left clears the flag and reports it. -/
def Obligations.PortEnableAndFlush : Prop :=
  ∀ (s : State) (rid : BitVec 12) (port : Fin 32),
    let n := port.val
    let ctl := (R.STRM_P_CTL.EN n).addr
    let own := [ctl, (R.STRM_P_STAT.STATE n).addr]
    let enabled := s.fld (R.STRM_P_CTL.EN n) = 1
    let begun (f : RegField) (t : State) : Prop :=
      t.fld f = 1 ∧ SameBut recordParts s t ∧ WordsBut (wrWords (portPage n) own []) s t
    let voided (f : RegField) (tx : Bool) (t : State) : Prop :=
      t.fld f = 1 ∧ SameBut streamParts s t ∧ WordsBut (wrPages (portPage n) streamPages streamPages) s t
      ∧ ∀ i, s.openOf n tx = some i → i.skip = false → s.onlyItem n i → i.id < s.streams.nextId →
          ∃ j ∈ (t.port n).items, j.id = i.id ∧ j.skip = true
    (s.accepts rid ctl 1 → s.fld (R.STRM_P_CTL.EN n) = 0 → s.fld (R.STRM_P_STAT.STATE n) = pgOff → s.active (portPage n) = true →
      ∃ t, exec (.portEn rid port true) s = .next t ∧ t.fld (R.STRM_P_STAT.STATE n) = pgActive ∧ t.fld (R.STRM_P_CTL.EN n) = 1
        ∧ SameBut recordParts s t ∧ WordsBut (wrWords (portPage n) own []) s t)
    ∧ (s.accepts rid ctl 0 → enabled → s.fld (R.STRM_P_STAT.STATE n) = pgActive →
      ∃ t, exec (.portEn rid port false) s = .next t ∧ t.fld (R.STRM_P_STAT.STATE n) = pgDraining ∧ t.fld (R.STRM_P_CTL.EN n) = 0
        ∧ begun (R.STRM_P_STAT.FLUSH_RX n) t ∧ begun (R.STRM_P_STAT.FLUSH_TX n) t)
    ∧ (s.accepts rid ctl 3 → enabled → ∃ t, exec (.flushRx rid port) s = .next t ∧ begun (R.STRM_P_STAT.FLUSH_RX n) t)
    ∧ (s.accepts rid ctl 5 → enabled → ∃ t, exec (.flushTx rid port) s = .next t ∧ begun (R.STRM_P_STAT.FLUSH_TX n) t)
    ∧ (s.accepts rid ctl 9 → enabled → ∃ t, exec (.flushNowRx rid port) s = .next t ∧ voided (R.STRM_P_STAT.FLUSH_RX n) false t)
    ∧ (s.accepts rid ctl 17 → enabled → ∃ t, exec (.flushNowTx rid port) s = .next t ∧ voided (R.STRM_P_STAT.FLUSH_TX n) true t)
    ∧ (∀ tx, s.fld (if tx then R.STRM_P_STAT.FLUSH_TX n else R.STRM_P_STAT.FLUSH_RX n) = 1 → s.flushed n tx = true →
        ∃ t, exec (.flushEnd port tx) s = .next t ∧ SameBut (.ports :: recordParts) s t
          ∧ WordsBut (ownWords [(R.STRM_P_STAT.STATE n).addr, (R.STRM_P_EVT.VOID n).addr] [portPage n]) s t
          ∧ t.fld (if tx then R.STRM_P_STAT.FLUSH_TX n else R.STRM_P_STAT.FLUSH_RX n) = 0
          ∧ t.fld (if tx then R.STRM_P_EVT.FLUSH_TX_DONE n else R.STRM_P_EVT.FLUSH_RX_DONE n) = 1 ∧ t.shows (E.STRMP.PORT n))

/-- An accepted PAIR_EN takes a pair that is OFF, on an ACTIVE page, to ACTIVE with BAD by the check of R218, and an ACTIVE one to
DRAINING. An accepted BRIDLE_LOOP makes the loop active exactly where it is requested, the page is not OFF and R240 does not refuse it.
BRIDLE_HOLD_ACCEPT, BRIDLE_CUT_ACCEPT and OUT_HELD_RELEASE accept the next Bridle frame of a port, not held, of a CUT pair, or held, where
both sides are ready. BRIDLE_UNDERRUN ends the frame on TXO with ERR and counts the underrun. -/
def Obligations.BridleCommands : Prop :=
  (∀ (s : State) (rid : BitVec 12) (k : Fin 128),
    let ctl := (R.BRIDLE_PAIR_CTL.EN k).addr
    (s.accepts rid ctl 1 → s.fld (R.BRIDLE_PAIR_CTL.EN k) = 0 → s.fld (R.BRIDLE_PAIR_CTL.STATE k) = pgOff → s.active 0x1D = true →
      ∃ t, exec (.pairEn rid k true) s = .next t ∧ t.fld (R.BRIDLE_PAIR_CTL.STATE k) = pgActive
        ∧ t.fld (R.BRIDLE_PAIR_CTL.BAD k) = b2n (s.pairBad k) ∧ (s.pairBad k = true → t.shows E.BRIDLE.PAIR_BAD)
        ∧ SameBut recordParts s t ∧ WordsBut (wrWords 0x1D [ctl, R.BRIDLE_STAT.ACTIVE.addr] []) s t)
    ∧ (s.accepts rid ctl 0 → s.fld (R.BRIDLE_PAIR_CTL.EN k) = 1 → s.fld (R.BRIDLE_PAIR_CTL.STATE k) = pgActive →
      ∃ t, exec (.pairEn rid k false) s = .next t ∧ t.fld (R.BRIDLE_PAIR_CTL.STATE k) = pgDraining
        ∧ SameBut recordParts s t ∧ WordsBut (wrWords 0x1D [ctl, R.BRIDLE_STAT.ACTIVE.addr] []) s t))
  ∧ (∀ (s : State) (rid : BitVec 12) (j : Fin 4) (v : Word), s.accepts rid (R.BRIDLE_LOOP.EN j).addr v.toNat →
    ∃ t, exec (.bridleLoop rid j v) s = .next t ∧ SameBut (.ports :: recordParts) s t
      ∧ WordsBut (wrPages 0x1D (portPages ++ [0x1D]) portPages) s t
      ∧ t.fld (R.BRIDLE_LOOP.EN j) = bits v.toNat 15 15 ∧ t.fld (R.BRIDLE_LOOP.PORT_A j) = bits v.toNat 4 0
      ∧ t.fld (R.BRIDLE_LOOP.PORT_B j) = bits v.toNat 12 8
      ∧ t.fld (R.BRIDLE_LOOP.ACTIVE j)
        = (if v.getLsbD 15 && decide (s.pageState 0x1D ≠ pgOff) && !t.loopBad j then 1 else 0))
  ∧ (∀ (s : State) (port : Fin 32) (i : SItem) (c : AssocCopy) (k loc v : Nat) (ws : List Word), s.wf →
    let n := port.val
    let pages := streamPages ++ [0x24]
    let ready := s.bridleNext n = some (i, c, k) ∧ s.noLane = false ∧ 2 ≤ s.laneCount ∧ s.shut = false ∧ s.profileBad n k = false
      ∧ s.keysOk c.words (some .bridle) false = true ∧ s.outEntry k = some (loc, ws)
      ∧ s.keyRefused ws (some .bridle) true = false ∧ (s.counter c.handle).rewrite = none
      ∧ (if i.isOpen then .ok i.value else s.rxCheck n i c) = Except.ok v ∧ s.outReady k = true ∧ s.entryFree
      ∧ s.issuesNow .bridle ws
    let accepted (cut : Bool) (t : State) : Prop :=
      SameBut (streamParts ++ [.anchor, .assoc, .counters, .slots]) s t ∧ WordsBut (ownPages pages pages) s t
      ∧ ∃ e, ∃ j ∈ (t.port n).items, j.id = i.id ∧ j.pair = some k ∧ j.cut = cut ∧ j.entry = some e
        ∧ ∃ x, t.entry e = some x ∧ x.valueA = BitVec.ofNat 64 v ∧ x.valueB = BitVec.ofNat 64 (s.nextValue ws)
    (ready → i.held = false → s.cutPair k = false → ∃ t, exec (.bridleHoldAccept port) s = .next t ∧ accepted false t)
    ∧ (ready → i.held = false → s.cutPair k = true → (i.isOpen = false ∨ s.cutLead n k ≤ i.units.length) →
        ∃ t, exec (.bridleCutAccept port) s = .next t ∧ accepted true t)
    ∧ (ready → i.held = true → ∃ t, exec (.outHeldRelease port) s = .next t ∧ accepted (s.cutPair k) t))
  ∧ (∀ (s : State) (port : Fin 32) (i : SItem),
    (s.port port).items.find? (fun i => i.cut && i.started && i.isOpen && !i.skip && !i.cutEnded) = some i →
    s.loopPeer (s.egressPort port i) = none →
    ∃ t, exec (.bridleUnderrun port) s = .next t ∧ SameBut ([.ports, .out] ++ recordParts) s t
      ∧ WordsBut (ownPages (portPages ++ [0x1D]) (portPages ++ [0x1D])) s t
      ∧ t.out = s.out ++ [.txo (s.egressPort port i) i.out true] ∧ t.shows E.BRIDLE.UNDERRUN
      ∧ t.fld R.BRIDLE_UNDERRUNS.COUNT = min (s.fld R.BRIDLE_UNDERRUNS.COUNT + 1) (2 ^ 32 - 1)
      ∧ ∃ j ∈ (t.port port).items, j.id = i.id ∧ j.cutEnded = true)

/-- SEARCH, written while ASSOC is ACTIVE and idle, completes: the entry whose key block stands in ASSOC_ENTRY is copied there word
for word, with its handle in ASSOC_LOC and result OK, or the words stay and the result is NOT_FOUND. NEXT does the same with the
installed entry of the lowest handle above HANDLE, or ends with END. The tables and everything else stay as they are. Before the salts
are derived, and while Otist is not GROUNDED, SEARCH waits, BUSY. -/
def Obligations.AssocSearchAndNext : Prop :=
  ∀ (s : State) (rid : BitVec 12) (h : BitVec 13),
    let shown (found : Option (Nat × List Word)) (code : Nat) (t : State) : Prop :=
      (match found with
      | some (_, ws) => ended U.assoc rcOk s t ∧ (∀ i < 16, t.fld (R.ASSOC_ENTRY.WORD i) = wordAt ws i)
          ∧ t.fld R.ASSOC_LOC.HANDLE = (if eKind ws = 4 then 0 else eHandle ws)
      | none => ended U.assoc code s t ∧ ∀ i < 16, t.fld (R.ASSOC_ENTRY.WORD i) = s.fld (R.ASSOC_ENTRY.WORD i))
      ∧ SameBut (.cmdLate :: recordParts) s t
      ∧ WordsBut (wrWords 0x20 ([R.ASSOC_CMD_STAT.BUSY.addr, R.ASSOC_LOC.HANDLE.addr]
          ++ (List.range 16).map fun i => (R.ASSOC_ENTRY.WORD i).addr) []) s t
    (s.takes rid U.assoc R.ASSOC_CMD.OP.addr (1 * 2 ^ 28) → s.lookup.salted = true ∨ s.grounded = true →
      ∃ t, exec (.search rid) s = .next t ∧ shown (s.probe (keyBlock s.stagedEntry)) rcNotFound t)
    ∧ (s.takes rid U.assoc R.ASSOC_CMD.OP.addr (1 * 2 ^ 28) → s.lookup.salted = false → s.grounded = false →
      ∃ t, exec (.search rid) s = .next t ∧ t.fld U.assoc.busy = 1 ∧ t.lookup = { s.lookup with held := some (1, false) }
        ∧ SameBut ([.cmdLate, .lookup] ++ recordParts) s t ∧ WordsBut (wrWords 0x20 [R.ASSOC_CMD_STAT.BUSY.addr] []) s t)
    ∧ (s.takes rid U.assoc R.ASSOC_CMD.OP.addr (2 * 2 ^ 28 + h.toNat) →
      ∃ t, exec (.nextEntry rid h) s = .next t ∧ shown (s.nextHandle h.toNat) rcEnd t)

/-- INSERT, written while ASSOC is ACTIVE and idle with its salts derived, completes. A staged entry that R257 calls bad ends with BAD_ENTRY; an installed
handle without REPLACE with HANDLE_USED; REPLACE under another key block with BAD_ENTRY; a key block installed under another handle
with KEY_USED; a tenant at its quota with QUOTA; each leaves the tables alone. An entry that needs no window block and whose bucket
of table 0 has a free way stands in that way afterwards, with its counter new. REPLACE of such an entry, with its transmit slot the
same, rewrites it in place, so that GEN counts up and VALID, VER, FRESH, window and LEASE_END stay. -/
def Obligations.AssocInsert : Prop :=
  ∀ (s : State) (rid : BitVec 12) (replace : Bool), s.wf →
    s.takes rid U.assoc R.ASSOC_CMD.OP.addr (3 * 2 ^ 28 + bitAt replace 27) → s.lookup.salted = true →
    ∃ t, exec (.insert rid replace) s = .next t
      ∧ SameBut ([.cmdLate, .assoc, .peers, .counters, .slots] ++ recordParts) s t
      ∧ WordsBut (wrPages 0x20 (queuePages ++ [0x20, 0x21, 0x24]) (queuePages ++ [0x24])) s t
      ∧ (let ws := s.stagedEntry
        let quota := min 8192 (s.fld (R.QUEUE_TNT_QUOTA_B.ASSOC (eTenant ws)))
        (badEntry ws = true → ended U.assoc rcBadEntry s t ∧ t.assoc = s.assoc)
        ∧ (badEntry ws = false → ∀ loc old, s.anyHandle (eHandle ws) = some (loc, old) →
            (replace = false → ended U.assoc rcHandleUsed s t ∧ t.assoc = s.assoc)
            ∧ (replace = true → keyBlock old ≠ keyBlock ws → ended U.assoc rcBadEntry s t ∧ t.assoc = s.assoc)
            ∧ (replace = true → keyBlock old = keyBlock ws → s.parkedAt loc = false → entryBlocks ws = 0 → entryBlocks old = 0 →
                ctrSlot ws = ctrSlot old → ended U.assoc rcOk s t ∧ t.at loc = some (replaced old ws)
                  ∧ ∀ l, l ≠ loc → t.at l = s.at l))
        ∧ (badEntry ws = false → s.anyHandle (eHandle ws) = none →
            ((s.probe (keyBlock ws)).isSome = true → ended U.assoc rcKeyUsed s t ∧ t.assoc = s.assoc)
            ∧ (s.probe (keyBlock ws) = none → quota ≤ s.assocUse (eTenant ws) → ended U.assoc rcQuota s t ∧ t.assoc = s.assoc)
            ∧ (s.probe (keyBlock ws) = none → s.assocUse (eTenant ws) < quota → s.assocs.length < 8192 → entryBlocks ws = 0 →
                ∀ loc, s.freeWay 0 (keyBlock (s.installed ws)) = some loc →
                  ended U.assoc rcOk s t ∧ t.at loc = some (s.installed ws) ∧ (∀ l, l ≠ loc → t.at l = s.at l)
                  ∧ t.counter (eHandle ws) = {})))

/-- With nothing in the stash, DELETE of an installed handle that is no template empties its location, and of a handle that is not
installed ends with NOT_FOUND. FLUSH_PORT empties every location whose PORT matches, or with LEARNED_ONLY only the learned ones, and
COUNT gives how many. AGE, and an AUTO_AGING_PASS that is due, free every learned context that is not pinned, not parked and not
seen for LIMIT units, and no other; a LIMIT of 0 frees none. -/
def Obligations.AssocRemovals : Prop :=
  ∀ (s : State) (rid : BitVec 12), s.wf →
    let limit := s.fld R.LEARN_AGE.LIMIT
    let aged (n : Nat) : Prop := ∃ c, s.ctx n = some c ∧ limit ≠ 0 ∧ cPinned c = false
      ∧ (∀ l, s.entryOfPeer n = some l → s.parkedAt l = false) ∧ limit ≤ (s.seenNow + 2 ^ 32 - wordAt c 4) % 2 ^ 32
    let agedOnly (t : State) : Prop := ∀ n, (aged n → mget (fun _ => none) t.peers n = none)
      ∧ (¬ aged n → mget (fun _ => none) t.peers n = mget (fun _ => none) s.peers n)
    (∀ h : BitVec 13, (∀ p ∈ s.assocs, p.1 < stashBase) → s.takes rid U.assoc R.ASSOC_CMD.OP.addr (4 * 2 ^ 28 + h.toNat) →
      ∃ t, exec (.delete rid h) s = .next t
        ∧ SameBut ([.cmdLate, .assoc, .parked, .peers, .counters, .slots] ++ recordParts) s t
        ∧ WordsBut (wrPages 0x20 (queuePages ++ [0x20, 0x21, 0x24]) (queuePages ++ [0x21, 0x24])) s t
        ∧ (s.anyHandle h.toNat = none → ended U.assoc rcNotFound s t ∧ t.assoc = s.assoc)
        ∧ (∀ loc ws, s.anyHandle h.toNat = some (loc, ws) → eKind ws ≠ 5 →
            ended U.assoc rcOk s t ∧ ∀ l, t.at l = if l = loc then none else s.at l))
    ∧ (∀ (port : Fin 32) (learnedOnly : Bool),
        (∀ p ∈ s.assocs, ∀ q ∈ s.assocs, eKind p.2 = 4 → eKind q.2 = 4 → ePeer p.2 = ePeer q.2 → p = q) →
        s.takes rid U.assoc R.ASSOC_CMD.OP.addr (5 * 2 ^ 28 + bitAt learnedOnly 27 + port * 2 ^ 16) →
        ∃ t, exec (.flushPort rid port learnedOnly) s = .next t ∧ ended U.assoc rcOk s t
          ∧ SameBut ([.cmdLate, .assoc, .parked, .peers, .counters, .slots] ++ recordParts) s t
          ∧ WordsBut (wrPages 0x20 (queuePages ++ [0x20, 0x21, 0x24]) (queuePages ++ [0x21, 0x24])) s t
          ∧ (∀ l, t.at l = match s.at l with
              | some ws => if ePort ws = port ∧ (learnedOnly = false ∨ eKind ws = 4) then none else some ws
              | none => none)
          ∧ t.fld R.ASSOC_CMD_STAT.COUNT = (s.assocs.length - t.assocs.length) % 2 ^ 14)
    ∧ (s.takes rid U.assoc R.ASSOC_CMD.OP.addr (6 * 2 ^ 28) →
        ∃ t, exec (.age rid) s = .next t ∧ ended U.assoc rcOk s t ∧ agedOnly t
          ∧ SameBut ([.cmdLate, .assoc, .parked, .peers] ++ recordParts) s t
          ∧ WordsBut (wrPages 0x20 (queuePages ++ [0x20, 0x21]) (queuePages ++ [0x21])) s t)
    ∧ (s.active 0x21 = true → s.fld R.LEARN_AGE.AUTO = 1 →
        s.lookup.lastAge + max 1 (s.fld R.LEARN_AGE.PERIOD_S) * 1000000000 ≤ s.now.toNat →
        ∃ t, exec .autoAgingPass s = .next t ∧ agedOnly t ∧ t.lookup = { s.lookup with lastAge := s.now.toNat }
          ∧ SameBut ([.lookup, .assoc, .parked, .peers] ++ recordParts) s t
          ∧ WordsBut (ownPages (queuePages ++ [0x20, 0x21]) (queuePages ++ [0x20, 0x21])) s t)

/-- STASH_RETRY moves the one entry of the stash into a free way of its bucket, with VER inverted. SALT_DERIVED takes both salts
from the derived value, the second changed when they are equal, and a SEARCH that waited for them then ends by the probe. LOOKUP_PARITY_FAULT removes what the failing location, or the failing
peer context, held, and raises LOOKUP_LOSS. -/
def Obligations.AssocOwnActions : Prop :=
  (∀ (s : State) (loc d : Nat) (ws : List Word), s.wf → s.active 0x20 = true → s.lookup.salted = true →
    s.assocs.filter (fun p => decide (stashBase ≤ p.1)) = [(loc, ws)] → s.parkedAt loc = false → s.freeWay 0 (keyBlock ws) = some d →
    ∃ t, exec .stashRetry s = .next t
      ∧ t.at d = some (setWordAt ws 0 (setBits (wordAt ws 0) 30 30 (1 - bits (wordAt ws 0) 30 30)))
      ∧ t.at loc = none ∧ (∀ l, l ≠ loc → l ≠ d → t.at l = s.at l)
      ∧ SameBut (.assoc :: recordParts) s t ∧ WordsBut (ownPages (queuePages ++ [0x20, 0x21]) (queuePages ++ [0x20])) s t)
  ∧ (∀ (s : State) (v : Bytes), s.assocSalt = some v → s.initRuns = true →
    let a := BitVec.ofNat 32 (beAt v 0 4)
    let b := BitVec.ofNat 32 (beAt v 4 4)
    let salts := { s.lookup with salt0 := a, salt1 := if a = b then b ^^^ 1 else b, salted := true, held := none }
    let found := State.probe { s with lookup := salts } (keyBlock s.stagedEntry)
    ∃ t, exec .saltDerived s = .next t
      ∧ (s.lookup.held = none → SameBut [.lookup] s t ∧ t.lookup = salts)
      ∧ (s.lookup.held = some (1, false) → SameBut ([.cmdLate, .lookup] ++ recordParts) s t ∧ t.lookup = salts
          ∧ ended U.assoc (if found.isSome then rcOk else rcNotFound) s t))
  ∧ (∀ (s : State) (n : BitVec 14) (ws : List Word), s.wf → s.at n.toNat = some ws → eKind ws ≠ 4 →
    ∃ t, exec (.lookupParityFault false n) s = .next t ∧ (∀ l, t.at l = if l = n.toNat then none else s.at l)
      ∧ t.shows E.CELLAR.LOOKUP_LOSS
      ∧ SameBut ([.assoc, .parked, .peers, .counters, .slots] ++ recordParts) s t
      ∧ WordsBut (ownPages (queuePages ++ [0x20, 0x21, 0x24]) (queuePages ++ [0x04, 0x20, 0x21, 0x24])) s t)
  ∧ (∀ (s : State) (n : BitVec 14) (c : List Word), s.ctx n.toNat = some c →
    ∃ t, exec (.lookupParityFault true n) s = .next t ∧ t.ctx n.toNat = none ∧ t.shows E.CELLAR.LOOKUP_LOSS
      ∧ SameBut ([.assoc, .parked, .peers] ++ recordParts) s t
      ∧ WordsBut (ownPages (queuePages ++ [0x20, 0x21]) (queuePages ++ [0x04, 0x20, 0x21])) s t)

/-- Written while LEARN is ACTIVE and idle, for a learned context: LEARN_READ copies its words into LEARN_CTX; UNPIN clears PINNED and
CONTESTED and sets SINCE to the present time; LEARN_DELETE frees it. For no context each ends with NOT_FOUND. -/
def Obligations.LearnCommands : Prop :=
  ∀ (s : State) (rid peer : BitVec 12),
    let n := peer.toNat
    let own := [R.LEARN_CMD_STAT.BUSY.addr] ++ (List.range 16).map fun i => (R.LEARN_CTX.WORD i).addr
    (s.takes rid U.learn R.LEARN_CMD.OP.addr (1 * 2 ^ 28 + n) →
      ∃ t, exec (.learnRead rid peer) s = .next t ∧ SameBut (.cmdLate :: recordParts) s t ∧ WordsBut (wrWords 0x21 own []) s t
        ∧ (s.ctx n = none → ended U.learn rcNotFound s t)
        ∧ ∀ c, s.ctx n = some c → ended U.learn rcOk s t ∧ ∀ i < 16, t.fld (R.LEARN_CTX.WORD i) = wordAt c i)
    ∧ (s.takes rid U.learn R.LEARN_CMD.OP.addr (2 * 2 ^ 28 + n) →
      ∃ t, exec (.unpin rid peer) s = .next t ∧ SameBut ([.cmdLate, .peers] ++ recordParts) s t
        ∧ WordsBut (wrWords 0x21 [R.LEARN_CMD_STAT.BUSY.addr] []) s t
        ∧ (s.ctx n = none → ended U.learn rcNotFound s t ∧ t.peers = s.peers)
        ∧ ∀ c, s.ctx n = some c → ended U.learn rcOk s t
            ∧ t.ctx n = some (setWordAt (setWordAt c 0 (setBits (wordAt c 0) 30 29 0)) 3 s.sinceNow)
            ∧ ∀ k, k ≠ n → mget (fun _ => none) t.peers k = mget (fun _ => none) s.peers k)
    ∧ (s.takes rid U.learn R.LEARN_CMD.OP.addr (3 * 2 ^ 28 + n) →
      ∃ t, exec (.learnDelete rid peer) s = .next t ∧ SameBut ([.cmdLate, .peers, .assoc, .parked] ++ recordParts) s t
        ∧ WordsBut (wrPages 0x21 (queuePages ++ [0x20, 0x21]) (queuePages ++ [0x20])) s t
        ∧ (s.ctx n = none → ended U.learn rcNotFound s t ∧ t.peers = s.peers)
        ∧ ∀ c, s.ctx n = some c → ended U.learn rcOk s t
            ∧ ∀ k, mget (fun _ => none) t.peers k = if k = n then none else mget (fun _ => none) s.peers k)

/-- Written while TRIE is ACTIVE and idle: RULE_SET of a FREE rule with a valid prefix makes it PENDING_ADD with the staged fields,
and of another rule ends with STATE; RULE_DEL makes a LIVE rule PENDING_DEL and a PENDING_ADD one FREE; RULE_READ copies the rule into
the staging registers; BUILD of rules that fit fills the shadow bank; SWAP after BUILD exchanges the banks and turns PENDING_ADD into
LIVE and PENDING_DEL into FREE, and without BUILD ends with NOT_BUILT. -/
def Obligations.TrieCommands : Prop :=
  ∀ (s : State) (rid : BitVec 12) (i : BitVec 11),
    let n := i.toNat
    let stat := [R.TRIE_CMD_STAT.BUSY.addr, R.TRIE_COUNT.LIVE.addr]
    let others (t : State) : Prop := ∀ k, k ≠ n → t.rule k = s.rule k
    (s.takes rid U.trie R.TRIE_CMD.OP.addr (1 * 2 ^ 28 + n) →
      ∃ t, exec (.ruleSet rid i) s = .next t ∧ SameBut ([.cmdLate, .rules, .lookup] ++ recordParts) s t
        ∧ WordsBut (wrWords 0x22 stat []) s t ∧ others t
        ∧ (let v6 := decide (s.fld R.TRIE_RULE_CTL.FAMILY = 1)
          let len := s.fld R.TRIE_RULE_CTL.LEN
          let pfx := s.fld R.TRIE_RULE_PREFIX.PREFIX
          ((s.rule n).st ≠ .free → ended U.trie rcState s t ∧ t.rule n = s.rule n)
          ∧ ((s.rule n).st = .free → ruleOk len v6 pfx = false → ended U.trie rcBadRule s t ∧ t.rule n = s.rule n)
          ∧ ((s.rule n).st = .free → ruleOk len v6 pfx = true → ended U.trie rcOk s t ∧ t.lookup.built = false
              ∧ t.rule n = ⟨.pendingAdd, v6, len, BitVec.ofNat 64 pfx, s.fld R.TRIE_RULE_CTL.HANDLE⟩)))
    ∧ (s.takes rid U.trie R.TRIE_CMD.OP.addr (2 * 2 ^ 28 + n) →
      ∃ t, exec (.ruleDel rid i) s = .next t ∧ SameBut ([.cmdLate, .rules, .lookup] ++ recordParts) s t
        ∧ WordsBut (wrWords 0x22 stat []) s t ∧ others t
        ∧ ((s.rule n).st = .live → ended U.trie rcOk s t ∧ t.rule n = { s.rule n with st := .pendingDel })
        ∧ ((s.rule n).st = .pendingAdd → ended U.trie rcOk s t ∧ t.rule n = {})
        ∧ ((s.rule n).st = .free ∨ (s.rule n).st = .pendingDel → ended U.trie rcState s t ∧ t.rule n = s.rule n))
    ∧ (s.takes rid U.trie R.TRIE_CMD.OP.addr (3 * 2 ^ 28 + n) →
      ∃ t, exec (.ruleRead rid i) s = .next t ∧ SameBut (.cmdLate :: recordParts) s t ∧ ended U.trie rcOk s t
        ∧ WordsBut (wrWords 0x22 (stat ++ [R.TRIE_RULE_CTL.STATE.addr, R.TRIE_RULE_PREFIX.PREFIX.addr,
            R.TRIE_RULE_PREFIX.PREFIX.addr + 4]) []) s t
        ∧ t.fld R.TRIE_RULE_CTL.STATE = (s.rule n).st.code ∧ t.fld R.TRIE_RULE_CTL.FAMILY = b2n (s.rule n).v6
        ∧ t.fld R.TRIE_RULE_CTL.LEN = (s.rule n).len % 2 ^ 7 ∧ t.fld R.TRIE_RULE_CTL.HANDLE = (s.rule n).handle % 2 ^ 13
        ∧ t.fld R.TRIE_RULE_PREFIX.PREFIX = (s.rule n).pfx.toNat)
    ∧ (s.takes rid U.trie R.TRIE_CMD.OP.addr (4 * 2 ^ 28) →
      ∃ t, exec (.build rid) s = .next t ∧ SameBut ([.cmdLate, .lookup] ++ recordParts) s t ∧ WordsBut (wrWords 0x22 stat []) s t
        ∧ (let rs := (s.rules.filter fun p => decide (p.2.st = .live) || decide (p.2.st = .pendingAdd)).map fun p => p.2
          (dupRule rs = true → ended U.trie rcDupRule s t ∧ t.lookup = s.lookup ∧ t.shows E.TRIE.BUILD_FAIL)
          ∧ (dupRule rs = false → 2048 < trieNodes rs →
              ended U.trie rcTooManyNodes s t ∧ t.lookup = s.lookup ∧ t.shows E.TRIE.BUILD_FAIL)
          ∧ (dupRule rs = false → trieNodes rs ≤ 2048 →
              ended U.trie rcOk s t ∧ t.lookup = { s.lookup with shadow := rs, built := true } ∧ t.shows E.TRIE.BUILD_DONE)))
    ∧ (s.wf → s.takes rid U.trie R.TRIE_CMD.OP.addr (5 * 2 ^ 28) →
      ∃ t, exec (.swap rid) s = .next t ∧ SameBut ([.cmdLate, .rules, .lookup] ++ recordParts) s t
        ∧ WordsBut (wrWords 0x22 stat []) s t
        ∧ (s.lookup.built = false → ended U.trie rcNotBuilt s t ∧ t.rules = s.rules ∧ t.lookup = s.lookup)
        ∧ (s.lookup.built = true → ended U.trie rcOk s t ∧ t.shows E.TRIE.SWAPPED
            ∧ t.lookup = { s.lookup with
                active := s.lookup.shadow, shadow := s.lookup.active, built := false, bank1 := !s.lookup.bank1 }
            ∧ ∀ k, t.rule k = match (s.rule k).st with
                | .pendingAdd => { s.rule k with st := .live }
                | .pendingDel => {}
                | _ => s.rule k))

/-- ROOT_GEN, written while KEYS is ACTIVE and idle, completes: where key services are refused, the life cycle is past PROVISION, a
VBAT share is present or no KEY bits are to be had, it ends with STATE; otherwise one KEY request for 32 bytes stands last in the
generator's queue and BUSY stays 1. ROOT_REMASK, in every state, keeps the XOR of the two VBAT words and of the two fuse words; with
main power on, the source running and no mask request waiting it asks for 72 ordinary bytes and changes nothing else. -/
def Obligations.RootCommands : Prop :=
  (∀ (s : State) (rid : BitVec 12), s.takes rid U.keys R.KEYS_CMD.OP.addr (1 * 2 ^ 28) →
    let refused := s.servicesRefused = true ∨ 2 ≤ s.fld R.KEYS_LC.STATE ∨ s.vbatPresent = true ∨ s.noKeyBits = true
    ∃ t, exec (.rootGen rid) s = .next t ∧ SameBut ([.cmdLate, .rng] ++ recordParts) s t
      ∧ WordsBut (wrWords 0x34 [R.KEYS_CMD_STAT.BUSY.addr, R.RNG_STAT.KEY_WAIT.addr] []) s t
      ∧ (refused → ended U.keys rcState s t ∧ t.rng = s.rng)
      ∧ (¬ refused → t.fld R.KEYS_CMD_STAT.BUSY = 1
          ∧ t.rng = { s.rng with reqs := s.rng.reqs ++ [⟨.key, .rootGen, 32, s.now.toNat⟩] }))
  ∧ (∀ s : State, ∃ t, exec .rootRemask s = .next t ∧ SameBut [.keys, .rng, .regs] s t
      ∧ WordsBut (ownWords [R.RNG_FALLBACK.COUNT.addr] []) s t
      ∧ t.keys.vbatA ^^^ t.keys.vbatB = s.keys.vbatA ^^^ s.keys.vbatB
      ∧ t.keys.fuseA ^^^ t.keys.fuseB = s.keys.fuseA ^^^ s.keys.fuseB
      ∧ (s.bnd.mainOff = false → s.srcRunning = true → s.rng.reqs.all (fun r => decide (r.user ≠ .mask)) = true →
          t.rng = { s.rng with reqs := s.rng.reqs ++ [⟨.ordinary, .mask, 72, s.now.toNat⟩] } ∧ t.keys = s.keys ∧ t.regs = s.regs))

/-- LC_TRANSITION of a pair that R450 does not list ends with BAD_ENTRY; a listed one whose conditions hold, with no live user, empties
every slot and node, names its target, asks the fuse controller and stays BUSY. LC_PROG_ACK of a transition in progress with OK takes
the state of the target and raises LC_DONE; without OK it sets LC_FAIL, and key services stay refused. LC_PROG_TIMEOUT completes in
every state: in the 100th millisecond of a transition it raises its grade 1 alarm, once, and leaves the transition in progress;
otherwise it changes nothing. -/
def Obligations.LifeCycle : Prop :=
  (∀ (s : State) (rid : BitVec 12) (target : BitVec 8), s.wf → s.takes rid U.keys R.KEYS_CMD.OP.addr (2 * 2 ^ 28 + target.toNat) →
    let st := s.fld R.KEYS_LC.STATE
    let code := target.toNat
    ∃ t, exec (.lcTransition rid target) s = .next t ∧ SameBut abortParts s t ∧ WordsBut (wrPages 0x34 abortPages abortPages) s t
      ∧ (lcListed st code = false → ended U.keys rcBadEntry s t ∧ t.slots = s.slots ∧ t.nodes = s.nodes ∧ t.keys = s.keys)
      ∧ (lcListed st code = true → s.keys.lc = .none → (s.grounded = true → code = 0x0B) → (st = 1 → s.vbatPresent = true) →
          (code = 0x0B → s.bnd.dbgAuth = true) → s.anyLiveUser = false →
          t.keys.lc = .burning false ∧ t.fld R.KEYS_LC.TARGET = code ∧ t.fld R.KEYS_CMD_STAT.BUSY = 1 ∧ t.nodes = []
          ∧ (∀ n, (t.slot n).st = .empty) ∧ t.out.getLast? = some (.lcProg code)))
  ∧ (∀ (s : State) (ok b : Bool), s.heeds → s.keys.lc = .burning b →
    let parts := .anchor :: tamperParts
    let quiet := [.anchor, .keys, .rng, .power, .cmdLate] ++ recordParts
    let pages := [0x05, 0x24, 0x34, 0x3A, 0x3C]
    ∃ t, exec (.lcProgAck ok) s = .next t ∧ t.fld R.KEYS_CMD_STAT.BUSY = 0 ∧ t.fld R.KEYS_LC.TARGET = 0
      ∧ SameBut parts s t ∧ WordsBut (ownPages tamperPages tamperPages) s t
      ∧ ((ok = false ∨ ((lcState (s.fld R.KEYS_LC.TARGET)).getD 0 ≠ 0 ∧ (s.bnd.dbgActive = false ∨ s.bnd.dbgAuth = true))) → SameBut quiet s t ∧ WordsBut (ownPages pages pages) s t)
      ∧ (ok = true → t.keys.lc = .none ∧ t.fld R.KEYS_LC.STATE = (lcState (s.fld R.KEYS_LC.TARGET)).getD 0 ∧ t.shows E.KEYS.LC_DONE)
      ∧ (ok = false → t.keys.lc = .failed ∧ t.fld R.KEYS_LC.LC_FAIL = 1 ∧ t.servicesRefused = true))
  ∧ (∀ s : State, ∃ t, exec .lcProgTimeout s = .next t
    ∧ (s.keys.lc = .burning false → t.keys = { s.keys with lc := .burning true }
        ∧ recorded 0x34 0x0020 (alarmPayload 0 1 0 false 0x34) t
        ∧ SameBut ([.keys, .power] ++ recordParts) s t ∧ WordsBut (ownPages [0x05, 0x3C] [0x05, 0x3C]) s t)
    ∧ (s.keys.lc ≠ .burning false → SameBut [] s t))

/-- Written while DERIVE is ACTIVE and idle. DEFINE with a valid policy and label under a usable parent makes the lowest free node
VALID with the staged label, policy, parent and depth, and NODE names it. MATERIALISE of a VALID node, into an EMPTY slot that may take
its key, loads the derived key, which ends the EMPTY_SLOT of associations that name it. INVALIDATE of a VALID node that no live user needs leaves neither it nor a descendant VALID.
DERIVE_READ shows the node. While key services are refused the first three end with STATE and change no key. -/
def Obligations.DeriveCommands : Prop :=
  ∀ (s : State) (rid : BitVec 12) (tenant : BitVec 3) (slot : BitVec 9) (node : BitVec 10) (force : Bool),
    let n := slot.toNat
    let k := node.toNat
    let d := s.node k
    let refused (t : State) : Prop := s.servicesRefused = true → ended U.derive rcState s t ∧ t.nodes = s.nodes ∧ t.slots = s.slots
    (s.takes rid U.derive R.DERIVE_CMD.OP.addr (1 * 2 ^ 28 + tenant.toNat * 2 ^ 24) →
      ∃ t, exec (.define rid tenant) s = .next t ∧ SameBut ([.cmdLate, .nodes] ++ recordParts) s t
        ∧ WordsBut (wrWords 0x35 [R.DERIVE_CMD_STAT.BUSY.addr, R.DERIVE_OCC.VALID.addr, R.SLOTS_OCC.LIVE.addr] []) s t ∧ refused t
        ∧ (let label := ((List.range 8).map fun w => beBytes 4 (s.fld (R.DERIVE_LABEL.WORD w))).flatten
          let p := BitVec.ofNat 32 (s.fld R.DERIVE_POLICY.POLICY)
          ∀ par depth j, s.servicesRefused = false → policyValid p = true → derivedBits (label.getD 0 0).toNat ≠ 0 →
            s.cmdParent = .ok (par, depth) → depth ≤ 8 → s.findNode par label p = none →
            (List.range 1024).find? (fun i => decide ((s.node i).st = .free)) = some j →
            ended U.derive rcOk s t ∧ t.fld R.DERIVE_CMD_STAT.NODE = j
              ∧ t.node j = { st := .valid, parent := par, label := label, policy := p, depth := depth, tenant := tenant }
              ∧ ∀ i, i ≠ j → t.node i = s.node i))
    ∧ (s.takes rid U.derive R.DERIVE_CMD.OP.addr (2 * 2 ^ 28 + tenant.toNat * 2 ^ 24 + n * 2 ^ 12 + k) →
      ∃ t, exec (.materialise rid tenant slot node) s = .next t ∧ SameBut ([.cmdLate, .nodes, .slots, .assoc, .counters] ++ recordParts) s t
        ∧ WordsBut (wrPages 0x35 (queuePages ++ [0x24, 0x35, 0x36]) (0x24 :: queuePages)) s t ∧ refused t
        ∧ ((∀ p ∈ s.counters, p.2.exhausted ≠ 5) → t.assoc = s.assoc ∧ t.counters = s.counters)
        ∧ (∀ m, s.servicesRefused = false → d.st = .valid → n ≠ attestSlot → (s.slot n).st = .empty → s.wideBad n d.type = false →
            s.slotsQuota n tenant.toNat (s.slotsQuotaOf tenant.toNat) = false → s.derive k = .ok m →
            ended U.derive rcOk s t ∧ (t.slot n).st = .live ∧ (t.slot n).type = BitVec.ofNat 8 d.type ∧ (t.slot n).tenant = tenant
              ∧ (t.slot n).active = some ⟨m, kcvOf d.type m, (s.slot n).nextGen, d.policy, .derived, startKeyOf d.type m, some k, 0⟩
              ∧ (t.node k).slot = some n)
        ∧ (∀ f, s.servicesRefused = false → d.st = .valid → s.loadRefused n d.type = none → s.wideBad n d.type = false →
            s.slotsQuota n tenant.toNat (s.slotsQuotaOf tenant.toNat) = false → s.derive k = .error f →
            ended U.derive f.result s t ∧ t.nodes = s.nodes ∧ t.slots = s.slots))
    ∧ (s.takes rid U.derive R.DERIVE_CMD.OP.addr (3 * 2 ^ 28 + bitAt force 27 + k) → (∀ i, s.liveUser i = false) →
      ∃ t, exec (.invalidate rid force node) s = .next t ∧ SameBut abortParts s t
        ∧ WordsBut (wrPages 0x35 abortPages abortPages) s t ∧ refused t
        ∧ (s.servicesRefused = false → d.st = .valid → t.fld R.DERIVE_CMD_STAT.BUSY = 0
            ∧ ∀ j, j = k ∨ j ∈ s.descend chainFuel [k] → (t.node j).st ≠ .valid))
    ∧ (s.takes rid U.derive R.DERIVE_CMD.OP.addr (4 * 2 ^ 28 + k) →
      ∃ t, exec (.deriveRead rid node) s = .next t ∧ ended U.derive rcOk s t ∧ SameBut (.cmdLate :: recordParts) s t
        ∧ WordsBut (wrWords 0x35 ([R.DERIVE_CMD_STAT.BUSY.addr, R.DERIVE_PARENT.KIND.addr, R.DERIVE_POLICY.POLICY.addr,
            R.DERIVE_NODE_INFO.STATE.addr, R.DERIVE_NODE_USES.COUNT.addr] ++ (List.range 8).map fun w => (R.DERIVE_LABEL.WORD w).addr)
            []) s t
        ∧ t.fld R.DERIVE_NODE_INFO.STATE = (match d.st with | .free => 0 | .valid => 1 | .orphaned => 2)
        ∧ t.fld R.DERIVE_NODE_INFO.DEPTH = d.depth % 16 
        ∧ t.fld R.DERIVE_NODE_INFO.SLOT
          = (d.slot.filter fun n => (s.slotsOf k).contains n).getD ((s.slotsOf k).head?.getD 0x1FF) % 2 ^ 9
        ∧ t.fld R.DERIVE_POLICY.POLICY = d.policy.toNat ∧ ∀ w < 8, t.fld (R.DERIVE_LABEL.WORD w) = beAt d.label (4 * w) 4 % 2 ^ 32)

/-- Written while SLOTS is ACTIVE and idle: SLOTS_READ shows the slot. SLOT_SWAP of a loaded bank whose check value is the one
expected, with no live user, exchanges the banks, leaves the former one RETIRING and raises SWAPPED; with another check value it ends
with BAD_ENTRY. ERASE of a LIVE or SUSPENDED slot, with no live user and no load queued, leaves it EMPTY; of an ORPHANED or CLEARING one it
ends with STATE (log entry 132, the model's choice). DROP_PENDING frees the loaded
bank. BANK_RETIRE of a retiring bank that nothing holds, with no load queued, frees it. SLOT_CLEARING takes an orphaned slot that
nothing holds to CLEARING, and a CLEARING one to EMPTY. -/
def Obligations.SlotCommands : Prop :=
  ∀ (s : State) (rid : BitVec 12) (slot : BitVec 9) (force : Bool),
    let n := slot.toNat
    let l := s.slot n
    (s.takes rid U.slots R.SLOTS_CMD.OP.addr (1 * 2 ^ 28 + n) →
      ∃ t, exec (.slotsRead rid slot) s = .next t ∧ ended U.slots rcOk s t ∧ SameBut (.cmdLate :: recordParts) s t
        ∧ WordsBut (wrPages 0x36 [0x36] []) s t
        ∧ t.fld R.SLOTS_INFO.STATE = l.st.code ∧ t.fld R.SLOTS_INFO.ACTIVE_BANK = b2n l.bank1
        ∧ t.fld R.SLOTS_INFO.OTHER = l.otherSt.code ∧ t.fld R.SLOTS_INFO.TYPE = l.type.toNat
        ∧ t.fld R.SLOTS_INFO.TENANT = l.tenant.toNat
        ∧ t.fld R.SLOTS_INFO.INFLIGHT = min 255 (s.inflight n + (l.banks.filter fun b => s.looseHolds n (gen16 b)).length)
        ∧ t.fld R.SLOTS_INFO_KCV.KCV = (match l.active with | some b => b.kcv.toNat | none => 0)
        ∧ t.fld R.SLOTS_INFO_GEN.GEN = (match l.active with | some b => b.gen.toNat | none => 0))
    ∧ (s.takes rid U.slots R.SLOTS_CMD.OP.addr (2 * 2 ^ 28 + bitAt force 27 + n) → s.servicesRefused = false →
      s.slotRefused n = 0 → l.otherSt = .loaded → (∀ i, s.liveUser i = false) → ∀ b, l.other = some b →
      ∃ t, exec (.slotSwap rid force slot) s = .next t ∧ SameBut abortParts s t ∧ WordsBut (wrPages 0x36 abortPages abortPages) s t
        ∧ t.fld R.SLOTS_CMD_STAT.BUSY = 0
        ∧ (b.kcv.toNat ≠ s.fld R.SLOTS_EXPECT.KCV → ended U.slots rcBadEntry s t ∧ t.slots = s.slots)
        ∧ (b.kcv.toNat = s.fld R.SLOTS_EXPECT.KCV → t.shows E.SLOTS.SWAPPED ∧ (t.slot n).active = some b
            ∧ (t.slot n).other = l.active ∧ (t.slot n).otherSt = .retiring ∧ (t.slot n).bank1 = !l.bank1))
    ∧ (s.takes rid U.slots R.SLOTS_CMD.OP.addr (3 * 2 ^ 28 + bitAt force 27 + n) → s.servicesRefused = false → n ≠ attestSlot →
      ∃ t, exec (.erase rid force slot) s = .next t
        ∧ (l.st = .empty → ended U.slots rcOk s t ∧ t.slots = s.slots)
        ∧ (l.st = .wideTail ∨ l.st = .orphaned ∨ l.st = .clearing → ended U.slots rcState s t ∧ t.slots = s.slots)
        ∧ (l.st = .live ∨ l.st = .suspended → s.liveUser n = true → force = false → ended U.slots rcLiveUser s t ∧ t.slots = s.slots)
        ∧ ((∀ i, s.liveUser i = false) → SameBut abortParts s t ∧ WordsBut (wrPages 0x36 abortPages abortPages) s t
            ∧ (l.st = .live ∨ l.st = .suspended → l.queued = [] → t.fld R.SLOTS_CMD_STAT.BUSY = 0 ∧ (t.slot n).st = .empty)))
    ∧ (s.takes rid U.slots R.SLOTS_CMD.OP.addr (4 * 2 ^ 28 + n) → s.servicesRefused = false →
      ∃ t, exec (.dropPending rid slot) s = .next t ∧ SameBut ([.cmdLate, .slots, .nodes] ++ recordParts) s t
        ∧ WordsBut (wrWords 0x36 [R.SLOTS_CMD_STAT.BUSY.addr, R.SLOTS_OCC.LIVE.addr, R.DERIVE_OCC.VALID.addr] []) s t
        ∧ (s.slotRefused n ≠ 0 → ended U.slots (s.slotRefused n) s t ∧ t.slots = s.slots ∧ t.nodes = s.nodes)
        ∧ (s.slotRefused n = 0 → l.otherSt ≠ .loaded → ended U.slots rcState s t ∧ t.slots = s.slots ∧ t.nodes = s.nodes)
        ∧ (s.slotRefused n = 0 → l.otherSt = .loaded → l.other.isSome = true → ended U.slots rcOk s t
            ∧ t.slot n = { l with otherSt := .free, other := none } ∧ ∀ i, i ≠ n → t.slot i = s.slot i))
    ∧ (s.heeds → l.otherSt = .retiring → l.queued = [] → ∀ b, l.other = some b → s.held n b = false →
      ∃ t, exec (.bankRetire slot) s = .next t ∧ t.slot n = { l with otherSt := .free, other := none }
        ∧ (∀ i, i ≠ n → t.slot i = s.slot i) ∧ SameBut [.slots, .nodes, .regs] s t
        ∧ WordsBut (ownWords [R.SLOTS_OCC.LIVE.addr, R.DERIVE_OCC.VALID.addr] []) s t)
    ∧ (s.heeds →
      ∃ t, exec (.slotClearing slot) s = .next t ∧ SameBut ([.slots, .nodes, .counters] ++ recordParts) s t
        ∧ WordsBut (ownPages (queuePages ++ [0x24, 0x35, 0x36]) (queuePages ++ [0x36])) s t
        ∧ (l.st = .orphaned → l.banks.all (fun b => !s.held n b) = true → t.slot n = { l with st := .clearing })
        ∧ (l.st = .clearing → (t.slot n).st = .empty ∧ t.shows E.SLOTS.CLEARED))

/-- Written while PKE is ACTIVE and idle and key services are not refused: ATTEST_GEN in PROVISION, with KEY bits to be had and a root,
asks for the 40 bytes of its candidate and stays BUSY, and otherwise ends with STATE. ATTEST_LOAD of an authentic blob of an
attestation key loads it into slot 511; one that the memory does not answer ends with STATE. ATTEST of a slot that it may sign about asks
for its blinding and stays BUSY, and of another slot ends with the slot's result. -/
def Obligations.AttestCommands : Prop :=
  ∀ (s : State) (rid : BitVec 12), s.servicesRefused = false →
    (s.takes rid U.pke R.PKE_CMD.OP.addr (1 * 2 ^ 28) →
      ∃ t, exec (.attestGen rid) s = .next t ∧ SameBut ([.cmdLate, .rng] ++ recordParts) s t
        ∧ WordsBut (wrWords 0x37 [R.PKE_CMD_STAT.BUSY.addr, R.RNG_STAT.KEY_WAIT.addr] []) s t
        ∧ (let may := s.fld R.KEYS_LC.STATE = 1 ∧ s.noKeyBits = false ∧ s.attestWrapKey.isSome = true
          (may → t.fld R.PKE_CMD_STAT.BUSY = 1
            ∧ t.rng = { s.rng with reqs := s.rng.reqs ++ [⟨.key, .attestKey, 40, s.now.toNat⟩] })
          ∧ (¬ may → ended U.pke rcState s t ∧ t.rng = s.rng)))
    ∧ (∀ (dram : Dram) (w : Bytes), s.takes rid U.pke R.PKE_CMD.OP.addr (2 * 2 ^ 28) → s.attestWrapKey = some w →
        s.fld R.KEYS_LC.STATE ≠ 0 → s.fld R.KEYS_LC.STATE ≠ 4 →
        ∃ t, exec (.attestLoad rid dram) s = .next t ∧ SameBut ([.cmdLate, .slots, .out] ++ recordParts) s t
          ∧ t.out = s.out ++ readReqs dram s.pkeBuf 80
          ∧ WordsBut (wrWords 0x37 [R.PKE_CMD_STAT.BUSY.addr, R.SLOTS_OCC.LIVE.addr, R.DERIVE_OCC.VALID.addr] []) s t
          ∧ (dramRead dram s.pkeBuf 80 = none → ended U.pke rcState s t ∧ t.shows E.PKE.LOAD_FAIL ∧ t.slots = s.slots)
          ∧ (∀ b m, dramRead dram s.pkeBuf 80 = some b → s.openBlob w b = .ok (0x10, attestPolicy, m) → ended U.pke rcOk s t
              ∧ (t.slot attestSlot).st = .live ∧ (t.slot attestSlot).type = 0x10
              ∧ (t.slot attestSlot).active
                = some ⟨m, kcvOf 0x10 m, (s.slot attestSlot).nextGen, attestPolicy, .attest, [], none, 0⟩))
    ∧ (∀ slot : BitVec 9, s.takes rid U.pke R.PKE_CMD.OP.addr (3 * 2 ^ 28 + slot.toNat) →
        ∃ t, exec (.attest rid slot) s = .next t ∧ SameBut ([.cmdLate, .keys, .rng] ++ recordParts) s t
          ∧ WordsBut (wrWords 0x37 [R.PKE_CMD_STAT.BUSY.addr] []) s t
          ∧ (s.attestRefused slot.toNat = 0 → t.fld R.PKE_CMD_STAT.BUSY = 1 ∧ t.keys = { s.keys with attestOf := slot.toNat }
              ∧ t.rng = { s.rng with reqs := s.rng.reqs ++ [⟨.ordinary, .attestBlind, 40, s.now.toNat⟩] })
          ∧ (s.attestRefused slot.toNat ≠ 0 → ended U.pke (s.attestRefused slot.toNat) s t ∧ t.keys = s.keys ∧ t.rng = s.rng))

/-- A write of FRESH_SW_CTL with ARM arms an IDLE record whose handles fit, or marks it BAD; without ARM it returns to IDLE. SWITCH_NOW of an
ARMED transmit record rewrites its entry, or marks the record BAD where the new key may not be bound. RESYNC raises H of a CAN receive
association and clears its window. OVERLAP_EXPIRE retires the old receive entry, or has a CAN entry's slots rewritten, which happens
once no accepted item carries the handle; frames not accepted then look the entry up again. Each second EXP moves by one where the BALLAST writes ask for it. -/
def Obligations.FreshCommands : Prop :=
  ∀ (s : State) (rid : BitVec 12), s.wf →
    let parts : List Piece := [.assoc, .peers, .counters, .slots, .cmdLate] ++ recordParts
    let written (t : State) : Prop := SameBut parts s t ∧ WordsBut (wrPages 0x24 [0x24] [0x24]) s t
    let cmd (v : Nat) : Prop := s.takes rid U.fresh R.FRESH_CMD.OP.addr v
    let entryAt (t : State) (loc : Nat) : Option (List Word) := mget (fun _ => none) t.assoc loc
    (∀ i : Fin 32, cmd (2 ^ 28 + i.val * 2 ^ 16) →
      let h := s.fld (R.FRESH_SW_CTL.HANDLE i)
      ∃ t, exec (.switchNow rid i) s = .next t ∧ written t
        ∧ (s.fld (R.FRESH_SW_CTL.STATE i) ≠ 1 ∨ s.fld (R.FRESH_SW_CTL.DIR i) = 1 → ended U.fresh rcState s t ∧ t.assoc = s.assoc)
        ∧ (s.fld (R.FRESH_SW_CTL.STATE i) = 1 → s.fld (R.FRESH_SW_CTL.DIR i) = 0 →
            (s.byHandle h = none → ended U.fresh rcNotFound s t ∧ t.assoc = s.assoc)
            ∧ ∀ loc ws, s.byHandle h = some (loc, ws) →
                let new := s.switched i ws
                let fits := s.keysOk new none true = true ∧ ∃ b, (s.slot (ctrSlot new)).active = some b
                  ∧ s.bindCause (ctrSlot new) b (.assoc (eHandle ws)) (ctrBinds new) (ctr32 new) = 0
                ended U.fresh rcOk s t
                ∧ (fits → entryAt t loc = some new ∧ t.fld (R.FRESH_SW_CTL.STATE i) = 3 ∧ t.fld (R.FRESH_SW_CTL.BAD i) = 0
                    ∧ t.fld (R.FRESH_SW_TS.TS i) = s.now.toNat ∧ t.shows E.FRESH.SWITCHED
                    ∧ (t.counter (eHandle ws)).started = false ∧ (t.counter (eHandle ws)).exhausted = 0
                    ∧ (t.counter (eHandle ws)).given = some (BitVec.ofNat 64 (s.fld (R.FRESH_SW_START.START i))))
                ∧ (¬ fits → t.assoc = s.assoc ∧ t.fld (R.FRESH_SW_CTL.STATE i) = 0 ∧ t.fld (R.FRESH_SW_CTL.BAD i) = 1
                    ∧ t.shows E.FRESH.SW_BAD)))
    ∧ (∀ h : BitVec 13, cmd (2 * 2 ^ 28 + h.toNat) →
        ∃ t, exec (.resync rid h) s = .next t ∧ written t
          ∧ (s.kindOf h.toNat ≠ some 2 → ended U.fresh rcNotFound s t ∧ t.assoc = s.assoc)
          ∧ ∀ loc ws, s.byHandle h.toNat = some (loc, ws) → eKind ws = 2 → ws.length = 16 → ended U.fresh rcOk s t
              ∧ (t.rxState (.entry loc) false).h = max (eFresh ws) (s.fld R.FRESH_VALUE.VALUE)
              ∧ (eWin ws ≤ 128 → (t.rxState (.entry loc) false).win = 0 ∧ t.peers = s.peers))
    ∧ (∀ (i : Fin 32) (value : Word), s.accepts rid (R.FRESH_SW_CTL.STATE i).addr value.toNat →
        let h := value.toNat % 2 ^ 13
        let fits := if value.getLsbD 16 = false then s.kindOf h = some 1 ∨ s.kindOf h = some 3
          else (s.kindOf h = some 0 ∧ s.kindOf (s.fld (R.FRESH_SW_AUX.NEW_HANDLE i)) = some 0) ∨ s.kindOf h = some 2
        ∃ t, exec (.switchArm rid i value) s = .next t ∧ SameBut recordParts s t
          ∧ WordsBut (wrWords 0x24 [(R.FRESH_SW_CTL.STATE i).addr] []) s t ∧ t.fld (R.FRESH_SW_CTL.HANDLE i) = h
          ∧ t.fld (R.FRESH_SW_CTL.DIR i) = b2n (value.getLsbD 16) ∧ t.fld (R.FRESH_SW_CTL.MODE i) = value.toNat / 2 ^ 28 % 4
          ∧ (value.getLsbD 17 = false → t.fld (R.FRESH_SW_CTL.STATE i) = 0)
          ∧ (value.getLsbD 17 = true → s.fld (R.FRESH_SW_CTL.STATE i) ≠ 0 →
              t.fld (R.FRESH_SW_CTL.STATE i) = s.fld (R.FRESH_SW_CTL.STATE i))
          ∧ (value.getLsbD 17 = true → s.fld (R.FRESH_SW_CTL.STATE i) = 0 →
              (fits → t.fld (R.FRESH_SW_CTL.STATE i) = 1 ∧ t.fld (R.FRESH_SW_CTL.BAD i) = 0)
              ∧ (¬ fits → t.fld (R.FRESH_SW_CTL.STATE i) = 0 ∧ t.fld (R.FRESH_SW_CTL.BAD i) = 1 ∧ t.shows E.FRESH.SW_BAD)))
    ∧ (∀ i : Fin 32, s.heeds →
        let h := s.fld (R.FRESH_SW_CTL.HANDLE i)
        ∃ t, exec (.overlapExpire i) s = .next t ∧ SameBut (.counters :: recordParts) s t ∧ WordsBut (ownPages [0x24] [0x24]) s t
          ∧ (s.fld (R.FRESH_SW_CTL.STATE i) ≠ 2 → SameBut [] s t)
          ∧ (s.fld (R.FRESH_SW_CTL.STATE i) = 2 → t.fld (R.FRESH_SW_CTL.STATE i) = 3 ∧ t.fld (R.FRESH_SW_TS.TS i) = s.now.toNat
              ∧ t.shows E.FRESH.OVERLAP_END
              ∧ t.counter h = if s.kindOf h = some 2
                then { s.counter h with
                  rewrite := some (s.fld (R.FRESH_SW_SLOTS.NEW_SLOT_A i), s.fld (R.FRESH_SW_SLOTS.NEW_SLOT_B i)) }
                else { s.counter h with retired := true }))
    ∧ (∀ (h : BitVec 13) (a b loc : Nat) (ws : List Word), (s.counter h.toNat).rewrite = some (a, b) →
        s.byHandle h.toNat = some (loc, ws) → ws.length = 16 →
        ∃ t, exec (.canRxSlotRewrite h) s = .next t ∧ SameBut ([.assoc, .counters, .ports] ++ recordParts) s t
          ∧ WordsBut (ownPages (0x1D :: portPages) (0x1D :: portPages)) s t
          ∧ (s.carried h.toNat = true → SameBut [] s t)
          ∧ (s.carried h.toNat = false → (t.counter h.toNat).rewrite = none
              ∧ (∀ n, ∀ i ∈ (t.port n).items, ∀ c, i.entry = none → i.look = .hit c → c.handle ≠ h.toNat)
              ∧ ∃ w, entryAt t loc = some w ∧ eSlotA w = a % 2 ^ 9 ∧ eSlotB w = b % 2 ^ 9
                ∧ eGen w = (eGen ws + 1) % 2 ^ 8 ∧ (w.drop 4) = (ws.drop 4)))
    ∧ (let k := s.fld R.FRESH_STAT.EXP
       let target := s.fld R.FRESH_CFG.TARGET
       let last := (s.anchor.thisSecond :: s.anchor.perSecond).take 64
       ∃ t, exec .leaseExpAdjust s = .next t ∧ SameBut [.anchor, .regs] s t ∧ WordsBut (ownWords [R.FRESH_STAT.EXP.addr] []) s t
        ∧ t.anchor = { s.anchor with perSecond := last, thisSecond := 0 }
        ∧ t.fld R.FRESH_STAT.EXP =
            if target < s.anchor.thisSecond ∧ k < s.expMax then k + 1
            else if last.length = 64 ∧ (∀ n ∈ last, n ≤ target / 8) ∧ s.expMin < k then k - 1 else k)

/-- ANCHOR_WRITE_START takes the first request when none is being written and the rate allows it; with no usable slot the store fails.
ANCHOR_READBACK makes a record live, and a BALLAST record moves the ceiling and lets values be issued; a failure retires the slot and asks again, and the fourth
fails the store. START_UP_SCAN finds the live records and from the BALLAST record C, F and Ballast-lost mode, or sets the latter where
only broken records stand. ANCHOR_READ shows a slot. -/
def Obligations.AnchorCommands : Prop :=
  ∀ (s : State) (rid : BitVec 12), s.wf →
    let storeFails (t : State) : Prop := t.shows E.ANCHOR.STORE_FAULT ∧ t.pageState 0x25 = pgFault
      ∧ recorded 0x25 0x0020 (alarmPayload 0 2 0 false 0x25) t
    (s.heeds →
      ∃ t, exec .anchorWriteStart s = .next t ∧ SameBut ([.anchor, .out, .power] ++ recordParts) s t
        ∧ WordsBut (faultPages 0x25 [0x05, 0x25, 0x3C] [0x05, 0x25, 0x3C]) s t
        ∧ (s.anchor.reqs = [] ∨ s.anchor.writing.isSome = true ∨ s.anchorKey = none ∨ s.grounded = true ∨ s.pageState 0x25 = pgFault
            ∨ s.anchor.scanned = false → SameBut [] s t)
        ∧ ∀ u fails rest key, s.anchor.reqs = (u, fails) :: rest → s.anchor.writing = none → s.anchorKey = some key →
            s.grounded = false → s.pageState 0x25 ≠ pgFault → s.anchor.scanned = true →
            (s.budgetOk u = false → t.anchor = s.anchor ∧ t.shows E.ANCHOR.BUDGET ∧ t.out = s.out)
            ∧ (s.budgetOk u = true → s.nextAnchorSlot = none → t.anchor = s.anchor ∧ storeFails t)
            ∧ ∀ n, s.budgetOk u = true → s.nextAnchorSlot = some n →
                let (k, payload) := u.key (s.fld R.FRESH_STAT.EXP) (s.fld R.ANCHOR_BAD.BAD)
                let r := anchorRecord key n (k / 16) (k % 16) s.anchor.nextSeq.toNat payload
                t.out = s.out ++ [.anchorWrite n r] ∧ t.anchor.writing = some ⟨n, u, r, fails⟩ ∧ t.anchor.reqs = rest
                ∧ t.anchor.nextSeq = s.anchor.nextSeq + 1 ∧ t.anchor.nextSlot = (n + 1) % 64 ∧ t.anchor.live = s.anchor.live
                ∧ t.fld R.ANCHOR_SEQ.SEQ = s.anchor.nextSeq.toNat ∧ ¬ t.shows E.ANCHOR.BUDGET)
    ∧ (∀ (err : Bool) (read : List Byte) (us : BitVec 16) (dram : Dram),
        let pages : List Nat := lanePages ++ [0x05, 0x24, 0x25, 0x28, 0x29, 0x2A, 0x30, 0x34, 0x3A, 0x3C]
        ∃ t, exec (.anchorReadback err read us dram) s = .next t
          ∧ SameBut ([.anchor, .cmdLate, .mem, .out, .parts, .power, .rng, .sched] ++ recordParts) s t
          ∧ WordsBut (faultPages 0x25 pages pages) s t
          ∧ (s.anchor.writing = none → SameBut [] s t)
          ∧ ∀ w, s.anchor.writing = some w → w.slot < 64 → t.anchor.writing = none
              ∧ (err = true ∨ read ≠ w.record →
                  t.fld R.ANCHOR_FAILS.COUNT = min (s.fld R.ANCHOR_FAILS.COUNT + 1) (2 ^ 32 - 1)
                  ∧ (t.fld R.ANCHOR_BAD.BAD).testBit w.slot = true ∧ t.shows E.ANCHOR.WRITE_FAIL ∧ t.shows E.ANCHOR.SLOT_RETIRED
                  ∧ t.anchor = { s.anchor with writing := none, reqs := (w.use, w.fails + 1) :: s.anchor.reqs }
                  ∧ (3 ≤ w.fails → storeFails t))
              ∧ (err = false → read = w.record →
                  let k := beAt w.record 2 1 * 16 + beAt w.record 3 1
                  t.anchor.live = s.anchor.live.filter (fun l => l.key ≠ k) ++ [⟨w.slot, k, slice w.record 16 40⟩]
                  ∧ (∀ c r lost, w.use = .ballast c r lost → t.anchor.leased = true ∧ t.fld R.FRESH_CEILING.C = c.toNat ∧ t.fld R.ANCHOR_RESETS.COUNT = r.toNat
                      ∧ t.fld R.FRESH_STAT.CEIL_WAIT = 0 ∧ ¬ t.shows E.FRESH.CEIL_WAIT)
                  ∧ (∀ n p, w.use = .root n p → n < 16 → recClosed p = false →
                      t.fld (R.MEMRGN_CTL.INIT n) = 0 ∧ t.fld (R.MEMRGN_CTL.RESTING n) = 0)
                  ∧ (∀ n p, w.use = .root n p → recClosed p = true → t.shows E.MEM.CKPT_DONE)))
    ∧ (∀ (store : List (Nat × Bytes)) (key : Bytes), s.anchorKey = some key → s.anchor.scanned = false →
        let all := (List.range 64).map fun n => (n, padTo 64 (mget (fun _ => []) store n))
        let live := foldLive (all.filter fun p => recordVerified (some key) p.1 p.2) []
        let magic := all.filter fun p => decide (beAt p.2 0 2 = 0xB411)
        let asks (c : Nat) (lost : Bool) (t : State) : Prop :=
          ∃ r, t.anchor.reqs = s.anchor.reqs ++ [(.ballast (BitVec.ofNat 64 c) r lost, 0)]
        ∃ t, exec (.startUpScan store) s = .next t ∧ SameBut ([.anchor, .power] ++ recordParts) s t
          ∧ WordsBut (ownPages [0x05, 0x24, 0x25, 0x3C] [0x05, 0x24, 0x25, 0x3C]) s t ∧ t.anchor.scanned = true
          ∧ t.anchor.live = live.map (·.2) ∧ s.expMin ≤ t.fld R.FRESH_STAT.EXP ∧ t.fld R.FRESH_STAT.EXP ≤ s.expMax
          ∧ (∀ l, live.find? (fun l => l.2.key = 0x10) = some l →
              let f := beAt l.2.payload 0 8
              t.fld R.FRESH_CEILING.C = f % 2 ^ 64 ∧ t.fld R.FRESH_FLOOR.F = f % 2 ^ 64
              ∧ t.fld R.ANCHOR_RESETS.COUNT = beAt l.2.payload 8 4 % 2 ^ 32 ∧ t.fld R.FRESH_STAT.LOST = beAt l.2.payload 13 1 % 2
              ∧ asks (f + 2 ^ t.fld R.FRESH_STAT.EXP) (decide (beAt l.2.payload 13 1 % 2 = 1)) t)
          ∧ (live.find? (fun l => l.2.key = 0x10) = none →
              t.fld R.FRESH_CEILING.C = 0 ∧ t.fld R.FRESH_FLOOR.F = 0
              ∧ (magic = [] → asks (2 ^ t.fld R.FRESH_STAT.EXP) false t)
              ∧ (magic ≠ [] → t.fld R.FRESH_STAT.LOST = 1 ∧ t.shows E.ANCHOR.LOST ∧ t.shows E.FRESH.LOST_MODE
                  ∧ recorded 0x25 0x0020 (alarmPayload 0 2 0 false 0x25) t ∧ asks (2 ^ t.fld R.FRESH_STAT.EXP) true t)))
    ∧ (∀ (slot : BitVec 6) (words : Bytes), s.accepts rid R.ANCHOR_CMD.OP.addr (2 ^ 28 + slot.toNat) →
        let r := padTo 64 words
        ∃ t, exec (.anchorRead rid slot words) s = .next t ∧ SameBut recordParts s t ∧ WordsBut (wrPages 0x25 [0x25] []) s t
          ∧ (s.active 0x25 = false → WordsBut (wrWords 0x25 [] []) s t)
          ∧ (s.active 0x25 = true → s.fld R.ANCHOR_CMD_STAT.BUSY = 0 → t.fld R.ANCHOR_CMD_STAT.SLOT = slot.toNat
              ∧ t.fld R.ANCHOR_CMD_STAT.VERIFIED = b2n (recordVerified s.anchorKey slot.toNat r)
              ∧ t.fld R.ANCHOR_CMD_STAT.LIVE = b2n (s.anchor.live.any fun l => l.slot = slot.toNat)
              ∧ (∀ w < 16, t.fld (R.ANCHOR_REC.WORD w) = beAt r (4 * w) 4 % 2 ^ 32)))

/-- PRESENCE_CHANGE stores the level, wakes where enabled, starts a read of a served input or returns it to IDLE. MODULE_READ_DONE fails
the input with the first failing check's cause, challenges the module, or verifies it; CHALLENGE_POLL with status 0x01 verifies the
signature; CHAL_TIMEOUT and SCL_HELD_TIMEOUT fail. A verified module's digest is bound, and one that differs from the bound is a
swap. CHAL_PERIOD and REREAD start a read. READ_REC shows record and digests. -/
def Obligations.ModuleCommands : Prop :=
  ∀ (s : State) (rid : BitVec 12), s.wf →
    let parts : List Piece := .modules :: tamperParts
    let pages : List Nat := 0x3D :: tamperPages
    let framed (t : State) : Prop := SameBut parts s t ∧ WordsBut (ownPages pages pages) s t
    let st (i : Nat) : Nat := s.fld (R.MODID_IN_STAT.STATE i)
    let reading (i : Nat) (t : State) : Prop := t.fld (R.MODID_IN_STAT.STATE i) = miReading ∧ (t.module i).nonce = none
      ∧ (t.module i).lastRead = s.now.toNat ∧ (t.module i).fromVerified = decide (st i = miVerified)
    let failed (i cause : Nat) (t : State) : Prop := t.fld (R.MODID_IN_STAT.STATE i) = miFailed ∧ t.fld (R.MODID_IN_STAT.CAUSE i) = cause
      ∧ (t.module i).digest = none ∧ (t.module i).nonce = none
      ∧ t.fld (R.TAMPER_SRC_STAT.EVENTS srcModule) = min (s.fld (R.TAMPER_SRC_STAT.EVENTS srcModule) + 1) (2 ^ 16 - 1)
      ∧ (cause = causeNoResponse ∨ cause = causeBus → t.shows E.MODID.BUS_FAIL)
      ∧ (cause = causeChallenge ∨ cause = causeChalTimeout → t.shows E.MODID.CHAL_FAIL
          ∧ t.fld R.MODID_COUNTS.CHAL_FAILS = min (s.fld R.MODID_COUNTS.CHAL_FAILS + 1) (2 ^ 16 - 1))
      ∧ (causeFormat ≤ cause → cause ≤ causeSignature → t.shows E.MODID.SIG_FAIL)
    let verified (i : Nat) (x : IdRecord) (t : State) : Prop := t.fld (R.MODID_IN_STAT.STATE i) = miVerified
      ∧ (t.module i).digest = some (bindingDigest i x) ∧ (t.module i).bound = some (bindingDigest i x) ∧ t.shows E.MODID.VERIFIED
      ∧ ((s.module i).bound.isSome = true → (s.module i).bound ≠ some (bindingDigest i x) →
          t.fld R.MODID_COUNTS.SWAPS = min (s.fld R.MODID_COUNTS.SWAPS + 1) (2 ^ 16 - 1) ∧ t.shows E.MODID.SWAPPED
          ∧ recorded 0x3D 0x0020 (alarmPayload 0 0 0 false 0x3D) t)
    (∀ (i : Fin 6) (present : Bool), s.heeds →
      ∃ t, exec (.presenceChange i present) s = .next t ∧ SameBut ([.modules, .power, .slots] ++ recordParts) s t
        ∧ WordsBut (ownPages [0x05, 0x35, 0x36, 0x3C, 0x3D] [0x05, 0x36, 0x3C, 0x3D]) s t ∧ (t.module i).present = present
        ∧ ((s.fld R.WAKE_SRC_EN.MODULE).testBit i = true → wakes 4 0 (i.val + if present then 256 else 0) s t)
        ∧ ((s.fld R.WAKE_SRC_EN.MODULE).testBit i = false → t.power = s.power)
        ∧ (s.served i = false → t.module i = { s.module i with present := present } ∧ t.slots = s.slots)
        ∧ (s.served i = true → present = true → s.power' = pwAwake → st i = miIdle ∨ st i = miFailed → reading i t)
        ∧ (s.served i = true → present = false → t.fld (R.MODID_IN_STAT.STATE i) = miIdle
            ∧ (st i ≠ miIdle → (t.module i).digest = none ∧ t.shows E.MODID.ABSENT
                ∧ ∀ n, (s.slot n).st = .live → (s.slot n).boundTo i = true → (t.slot n).st = .suspended)))
    ∧ (∀ i : Fin 6, ∃ t, exec (.sclHeldTimeout i) s = .next t ∧ framed t
        ∧ (st i = miReading ∨ st i = miChallenging → failed i causeBus t)
        ∧ (st i ≠ miReading → st i ≠ miChallenging → SameBut [] s t))
    ∧ (∀ (i : Fin 6) (got : Option Bytes), s.heeds → st i = miReading →
        ∃ t, exec (.moduleReadDone i got) s = .next t ∧ framed t
          ∧ match got with
            | none => failed i causeNoResponse t
            | some r => match s.verifyRecord i (r.take 224) with
              | .error c => failed i c t
              | .ok (x, _) => (t.module i).record = x.whole ∧ t.fld (R.MODID_IN_STAT.CLASS i) = x.cls % 2 ^ 8
                ∧ t.fld (R.MODID_IN_STAT.VERSION i) = x.version % 2 ^ 8
                ∧ (x.challenge = true → t.fld (R.MODID_IN_STAT.STATE i) = miChallenging ∧ ∃ q ∈ t.rng.reqs, q.user = .modNonce i ∧ q.bytes = 32)
                ∧ (x.challenge = false → ∀ y, parseRecord x.whole = some y → verified i y t))
    ∧ (∀ (i : Fin 6) (got : Option (Byte × Bytes)) (n : Bytes) (x : IdRecord), s.heeds → st i = miChallenging →
        (s.module i).nonce = some n → parseRecord (s.module i).record = some x →
        let c := curveOf (curveCode x.keyType)
        let q := bytesPoint c x.pub
        ∃ t, exec (.challengePoll i got) s = .next t ∧ framed t
          ∧ match got with
            | none => failed i causeNoResponse t
            | some (status, sig) =>
              if status ≠ 1 then SameBut [] s t
              else if ecdsaVerify c q.1 q.2 (curveHash c (challengeMessage (s.module i).record n)) (padTo (2 * c.width) sig) then verified i x t
              else failed i causeChallenge t)
    ∧ (∀ i : Fin 6, s.heeds →
        ∃ t, exec (.chalTimeout i) s = .next t ∧ framed t
          ∧ (st i = miChallenging → (s.module i).nonce.isSome = true → failed i causeChalTimeout t)
          ∧ (st i ≠ miChallenging ∨ (s.module i).nonce = none → SameBut [] s t))
    ∧ (∀ i : Fin 6,
        let due := s.served i = true ∧ (s.module i).present = true ∧ s.power' = pwAwake ∧ (st i = miVerified ∨ st i = miFailed)
        ∃ t, exec (.chalPeriod i) s = .next t ∧ SameBut [.modules, .regs] s t
          ∧ WordsBut (ownWords [(R.MODID_IN_STAT.STATE i).addr] []) s t ∧ (due → reading i t) ∧ (¬ due → SameBut [] s t))
    ∧ (∀ i : BitVec 3,
        let cmd (op : Nat) : Prop := s.takes rid U.modid R.MODID_CMD.OP.addr (op * 2 ^ 28 + i.toNat)
        let n := i.toNat
        let due := s.served n = true ∧ (s.module n).present = true ∧ (st n = miIdle ∨ st n = miFailed)
        (cmd 1 → ∃ t, exec (.reread rid i) s = .next t ∧ SameBut ([.modules, .cmdLate] ++ recordParts) s t
          ∧ WordsBut (wrPages 0x3D [0x3D] []) s t
          ∧ (6 ≤ n → ended U.modid rcBadEntry s t ∧ t.modules = s.modules)
          ∧ (n < 6 → ended U.modid rcOk s t ∧ (due → reading n t) ∧ (¬ due → t.modules = s.modules)))
        ∧ (cmd 2 → ∃ t, exec (.readRec rid i) s = .next t ∧ SameBut (.cmdLate :: recordParts) s t ∧ WordsBut (wrPages 0x3D [0x3D] []) s t
          ∧ (6 ≤ n → ended U.modid rcBadEntry s t)
          ∧ (n < 6 → ended U.modid rcOk s t
              ∧ (∀ w < 56, t.fld (R.MODID_REC.WORD w) = beAt (s.module n).record (4 * w) 4 % 2 ^ 32)
              ∧ (∀ w < 8, t.fld (R.MODID_DIG.WORD w) = beAt ((s.module n).digest.getD []) (4 * w) 4 % 2 ^ 32
                  ∧ t.fld (R.MODID_BOUND.WORD w) = beAt ((s.module n).bound.getD []) (4 * w) 4 % 2 ^ 32))))

/-- An accepted DOORBELL sets CTAIL where the new value is within the ring of both CHEAD and CTAIL; an accepted RHEAD_RETURN sets RHEAD
where it does not pass RTAIL; otherwise the index stays, DB_BAD counts and QERR is raised. QUEUE_PAIR_EN takes a pair that is OFF on an
ACTIVE page to ACTIVE with the highest version proposed, and an ACTIVE one to DRAINING. RESUME clears HALT_FETCH, and with no ACCEPTED
record held clears HALT_CMPL and sends every held DONE record again. -/
def Obligations.QueueRegisters : Prop :=
  ∀ (s : State) (rid : BitVec 12) (q : Fin 32), s.wf →
    let n := q.val
    let bad (f : RegField) (t : State) : Prop := t.fld f = s.fld f ∧ t.shows (E.QUEUE.QERR n)
      ∧ t.fld (R.QUEUE_Q_ERR.DB_BAD n) = min (s.fld (R.QUEUE_Q_ERR.DB_BAD n) + 1) (2 ^ 8 - 1)
    let framed (t : State) : Prop := SameBut recordParts s t
      ∧ WordsBut (wrPages (queuePage n) [queuePage n] [queuePage n]) s t
    (∀ v : Word, s.accepts rid (R.QUEUE_Q_CTAIL.INDEX n).addr v.toNat →
      let new := v.toNat % 2 ^ 16
      let ok := idxSub new (s.fld (R.QUEUE_Q_CHEAD.INDEX n)) ≤ 2 ^ s.clog n ∧ idxSub new (s.fld (R.QUEUE_Q_CTAIL.INDEX n)) ≤ 2 ^ s.clog n
      ∃ t, exec (.doorbell rid q v) s = .next t ∧ framed t ∧ (ok → t.fld (R.QUEUE_Q_CTAIL.INDEX n) = new)
        ∧ (¬ ok → bad (R.QUEUE_Q_CTAIL.INDEX n) t))
    ∧ (∀ v : Word, s.accepts rid (R.QUEUE_Q_RHEAD.INDEX n).addr v.toNat →
      let new := v.toNat % 2 ^ 16
      let tail := s.fld (R.QUEUE_Q_RTAIL.INDEX n)
      let ok := idxSub tail new ≤ idxSub tail (s.fld (R.QUEUE_Q_RHEAD.INDEX n))
      ∃ t, exec (.rheadReturn rid q v) s = .next t ∧ framed t ∧ (ok → t.fld (R.QUEUE_Q_RHEAD.INDEX n) = new)
        ∧ (¬ ok → bad (R.QUEUE_Q_RHEAD.INDEX n) t))
    ∧ (s.accepts rid (R.QUEUE_Q_CTL.EN n).addr 1 → s.fld (R.QUEUE_Q_CTL.EN n) = 0 → s.fld (R.QUEUE_Q_STAT.STATE n) = pgOff →
      s.active (queuePage n) = true →
      ∃ t, exec (.queuePairEn rid q true) s = .next t ∧ framed t ∧ t.fld (R.QUEUE_Q_STAT.STATE n) = pgActive
        ∧ t.fld (R.QUEUE_Q_CTL.EN n) = 1 ∧ t.fld (R.QUEUE_Q_VER.GRANT n) = grantOf (s.fld (R.QUEUE_Q_VER.PROPOSE n))
        ∧ t.fld (R.QUEUE_Q_STAT.NO_VER n) = b2n (grantOf (s.fld (R.QUEUE_Q_VER.PROPOSE n)) = 0))
    ∧ (s.accepts rid (R.QUEUE_Q_CTL.EN n).addr 0 → s.fld (R.QUEUE_Q_CTL.EN n) = 1 → s.fld (R.QUEUE_Q_STAT.STATE n) = pgActive →
      ∃ t, exec (.queuePairEn rid q false) s = .next t ∧ framed t ∧ t.fld (R.QUEUE_Q_STAT.STATE n) = pgDraining
        ∧ t.fld (R.QUEUE_Q_CTL.EN n) = 0)
    ∧ (∀ m : Dram, s.accepts rid (R.QUEUE_Q_CTL.EN n).addr (4 + s.fld (R.QUEUE_Q_CTL.EN n)) →
      ∃ t, exec (.resume rid q m) s = .next t ∧ SameBut queueParts s t ∧ WordsBut (wrPages (queuePage n) queueWords queueWords) s t
        ∧ t.fld (R.QUEUE_Q_STAT.HALT_FETCH n) = 0
        ∧ ((∀ d ∈ s.descs n, d.accHeld = none) → t.fld (R.QUEUE_Q_STAT.HALT_CMPL n) = 0
            ∧ t.out = s.out ++ ((s.descs n).filter fun d => d.doneHeld).map fun d =>
                .initWrite (s.queueRid n) d.doneRec.1 d.doneRec.2))

/-- DESCRIPTOR_FETCH reads the next descriptor of the pair that is served next, or halts its fetches on BUSERR. DESCRIPTOR_ACCEPT gives
the pair's first unaccepted descriptor a Cellar entry and ends one that R155 refuses. DESCRIPTOR_DISPATCH of an accepted descriptor that
may go executes it, or ends it with EXHAUSTED or the status of the key that refuses it. DONE_RECORD writes the 32 bytes of the record of the first
descriptor that has ended. DONE_WRITE_ACK frees the entry of the oldest one, or holds its record. TOKEN_REFILL adds each tenant's rate. -/
def Obligations.QueueEngine : Prop :=
  ∀ s : State, s.wf →
    let framed (t : State) : Prop := SameBut queueParts s t ∧ WordsBut (ownPages queueWords queueWords) s t
    let becomes (q : Nat) (d : QDesc) (t : State) (p : QDesc → Prop) : Prop := ∃ x ∈ t.descs q, x.seq = d.seq ∧ x.bytes = d.bytes ∧ p x
    (∀ (m : Dram) (q : Nat), s.fetchNext = some q →
      ∃ t, exec (.descriptorFetch m) s = .next t ∧ SameBut ([.engine, .queues, .out] ++ recordParts) s t
        ∧ WordsBut (ownPages queuePages queuePages) s t
        ∧ (let head := s.fld (R.QUEUE_Q_CHEAD.INDEX q)
          let seq := s.fld (R.QUEUE_Q_SEQ.NEXT q)
          t.out = s.out ++ readReqs m (s.descAddr q head) 64 (s.queueRid q)
          ∧ (∀ b, dramRead m (s.descAddr q head) 64 = some b → t.fld (R.QUEUE_Q_CHEAD.INDEX q) = (head + 1) % 2 ^ 16
              ∧ t.fld (R.QUEUE_Q_SEQ.NEXT q) = (seq + 1) % 2 ^ 32
              ∧ t.descs q = s.descs q ++ [{
                  bytes := b, seq := BitVec.ofNat 32 seq, tenant := s.queueTenant q, version := s.fld (R.QUEUE_Q_VER.GRANT q),
                  exec := 0, slots := 0, weight := 0 }])
          ∧ (dramRead m (s.descAddr q head) 64 = none → t.fld (R.QUEUE_Q_STAT.HALT_FETCH q) = 1 ∧ t.shows (E.QUEUE.QERR q)
              ∧ t.queues = s.queues ∧ t.fld (R.QUEUE_Q_CHEAD.INDEX q) = head)))
    ∧ (∀ (q : Fin 32) (m : Dram) (d : QDesc) (e : Nat), s.grounded = false → s.freeEntry .queue = some e →
      (s.descs q).find? (fun d => d.entry.isNone) = some d → (d.refusal.isSome = true ∨ d.counterSlot = none) →
      ∃ t, exec (.descriptorAccept q m) s = .next t ∧ framed t
        ∧ becomes q d t (fun x => x.entry = some e ∧ ∀ st, d.refusal = some st → x.phase = .ended ∧ x.status = st ∧ x.result = [])
        ∧ (∃ c, t.entry e = some c ∧ c.kind = .queue ∧ c.ref = d.seq ∧ c.stamp = ⟨s.now, s.time.seq⟩ ∧ c.input = d.bytes
            ∧ (d.refusal = none → c.keys = s.descKeys d))
        ∧ (2 ≤ d.version → s.fld (R.QUEUE_Q_STAT.HALT_CMPL q) = 0 →
            let i := s.fld (R.QUEUE_Q_RTAIL.INDEX q)
            t.fld (R.QUEUE_Q_RTAIL.INDEX q) = (i + 1) % 2 ^ 16
            ∧ t.out = s.out ++ writeReqs m (s.recAddr q i) (recordBytes ⟨s.now, s.time.seq⟩ d.seq 0 q
                (if i.testBit (s.rlog q) then 0 else 1) (zeros 12 ++ leBytes 2 e)) (s.queueRid q)))
    ∧ (∀ (e : BitVec 11) (q g : Nat) (d : QDesc) (c : CEntry), s.descOf e.toNat = some (q, d) → s.entry e.toNat = some c →
      s.engineFree = some g → d.phase = .accepted → s.replayHeld e.toNat = false → s.mayDispatch q d = true →
      ∃ t, exec (.descriptorDispatch e) s = .next t ∧ framed t
        ∧ (d.exhausted = true → endedWith q d stExhausted [] t)
        ∧ (∀ st, d.exhausted = false → s.keysRefuse d c = some st → endedWith q d st [] t)
        ∧ (s.keysRefuse d c = none → d.exhausted = false → (∀ n, d.target = some n → s.slotsQuota n d.tenant d.slots = false) →
            s.drawRefused d c = false → becomes q d t fun x => x.phase = .executing ∧ x.engine = g))
    ∧ (∀ (q : Fin 32) (d : QDesc), (s.descs q).find? (fun d => decide (d.phase ≠ .done)) = some d → d.phase = .ended →
      s.fld (R.QUEUE_Q_STAT.HALT_CMPL q) = 0 →
      let i := s.fld (R.QUEUE_Q_RTAIL.INDEX q)
      let r := recordBytes ⟨s.now, s.time.seq⟩ d.seq d.status q ((if i.testBit (s.rlog q) then 0 else 1) + 2 + bitAt d.replayed 2) d.result
      ∃ t, exec (.doneRecord q) s = .next t ∧ framed t ∧ t.fld (R.QUEUE_Q_RTAIL.INDEX q) = (i + 1) % 2 ^ 16
        ∧ t.out = s.out ++ [.initWrite (s.queueRid q) (s.recAddr q i) r]
        ∧ becomes q d t fun x => x.phase = .done ∧ x.doneRec = (s.recAddr q i, r))
    ∧ (∀ (q : Fin 32) (ok : Bool) (d : QDesc),
      (s.descs q).find? (fun d => decide (d.phase = .done) && !d.doneHeld) = some d →
      ∃ t, exec (.doneWriteAck q ok) s = .next t ∧ framed t
        ∧ (ok = true → (∀ x ∈ t.descs q, x.seq ≠ d.seq) ∧ ∀ e, d.entry = some e → t.entry e = none)
        ∧ (ok = false → t.fld (R.QUEUE_Q_STAT.HALT_CMPL q) = 1 ∧ t.shows (E.QUEUE.QERR q) ∧ becomes q d t fun x => x.doneHeld = true))
    ∧ (∃ t, exec .tokenRefill s = .next t ∧ SameBut [.regs] s t ∧ WordsBut (ownPages queuePages []) s t
        ∧ ∀ i < 8, t.tokens i = max (-(2 ^ 15)) (min (2 ^ 15 - 1) (min (4 * (s.chronRate i : Int)) (s.tokens i + s.chronRate i))))

/-- INITIATOR_BUSERR of a fetch of an ACTIVE pair halts its fetches; of an executing descriptor ends it with BUS_ERR; of a DONE write
halts completions and holds the record; each raises QERR. ENGINE_PARITY_FAULT raises ENGINE_GUST, returns every descriptor that executes
on the engine to accepted, and puts its entry among those to replay. -/
def Obligations.QueueFaults : Prop :=
  ∀ s : State, s.wf →
    let framed (t : State) : Prop := SameBut queueParts s t ∧ WordsBut (ownPages queueWords queueWords) s t
    (∀ q : Fin 32, s.fld (R.QUEUE_Q_STAT.STATE q) = pgActive →
      ∃ t, exec (.initiatorBuserr (.fetch q)) s = .next t ∧ framed t ∧ t.fld (R.QUEUE_Q_STAT.HALT_FETCH q) = 1
        ∧ t.shows (E.QUEUE.QERR q))
    ∧ (∀ (e : BitVec 11) (q : Nat) (d : QDesc), s.descOf e.toNat = some (q, d) →
      ∃ t, exec (.initiatorBuserr (.desc e)) s = .next t ∧ framed t
        ∧ (d.phase = .executing → endedWith q d stBusErr [] t ∧ t.shows (E.QUEUE.QERR q))
        ∧ (d.phase = .done → d.doneHeld = false → t.fld (R.QUEUE_Q_STAT.HALT_CMPL q) = 1 ∧ t.shows (E.QUEUE.QERR q)
            ∧ ∃ x ∈ t.descs q, x.seq = d.seq ∧ x.doneHeld = true))
    ∧ (∀ g : Fin 2, ∃ t, exec (.engineParityFault g) s = .next t ∧ SameBut ([.gusts, .power] ++ queueParts) s t
        ∧ WordsBut (ownPages (queueWords ++ [0x05, 0x3C]) (queueWords ++ [0x05, 0x3C])) s t ∧ t.shows E.CELLAR.ENGINE_GUST
        ∧ ∀ p ∈ s.queues, ∀ d ∈ p.2.descs, ∀ e, d.phase = .executing → d.engine = g → d.entry = some e →
            e ∈ t.cellar.replay ∧ ∃ x ∈ t.descs p.1, x.seq = d.seq ∧ x.phase = .accepted)

/-- For a descriptor that executes the opcode for the first time, with its key held and its input readable: AEAD_SEAL writes the AES-GCM
ciphertext and tag; AEAD_OPEN writes the plaintext of an input whose tag is right and ends with AUTH_FAIL otherwise; XTS_ENC and XTS_DEC
write the XTS transform; CMAC_GEN writes the tag, and CMAC_VERIFY compares it; BRIDLE writes the input sealed anew under the second key.
Each ends OK where memory takes the output. -/
def Obligations.LaneOperations : Prop :=
  ∀ (s : State) (e : BitVec 11) (dram again : Dram) (q : Nat) (d : QDesc) (c : CEntry) (b : Bank) (x : Bytes), s.wf →
    let n := e.toNat
    let framed (t : State) : Prop := SameBut queueParts s t ∧ WordsBut (ownPages queueWords queueWords) s t
    let iv := slice d.opdata 0 12
    let done (reads : List Out) (out result : Bytes) (t : State) : Prop :=
      framed t ∧ wrote s q d reads dram out t ∧ endedWith q d stOk result t
    s.entryKey c 0 = some b →
    (s.runs 0x01 n q d c → dramRead dram d.src (d.auxLen + d.len) = some x →
      let r := gcmSeal b.material (d.sealIv c) (x.take d.auxLen) (x.drop d.auxLen)
      let out := r.1 ++ r.2.take d.tagIn
      stores dram d.dst out.length → ∃ t, exec (.aeadSeal e dram again) s = .next t ∧ done (readsOf s q d dram (d.auxLen + d.len) 0) out (d.sealResult c) t)
    ∧ (s.runs 0x02 n q d c → dramRead dram d.src (d.auxLen + d.len + d.tagIn) = some x →
        (d.version ≠ 1 → dramRead again d.src (d.auxLen + d.len + d.tagIn) = some x) →
        let pl := gcmOpen b.material iv (splitInput d x).2.1
        let n := d.auxLen + d.len + d.tagIn
        let first := readsOf s q d dram n 0
        stores dram d.dst pl.length → ∃ t, exec (.aeadOpen e dram again) s = .next t ∧ framed t
          ∧ (tagOk b.material iv d x = true →
              done (first ++ (if d.version = 1 then [] else readReqs again d.src n (s.queueRid q))) pl [] t)
          ∧ (tagOk b.material iv d x = false → endedWith q d stAuthFail [] t ∧ (d.version ≠ 1 → t.out = s.out ++ first)))
    ∧ (∀ enc, s.runs (if enc then 0x03 else 0x04) n q d c → dramRead dram d.src d.len = some x →
        let h := b.material.length / 2
        let out := xts (b.material.take h) (b.material.drop h) enc (slice d.opdata 0 16) x
        stores dram d.dst out.length →
        ∃ t, exec (if enc then .xtsEnc e dram again else .xtsDec e dram again) s = .next t
          ∧ done (readsOf s q d dram d.len 0) out [] t)
    ∧ (s.runs 0x05 n q d c → dramRead dram d.src d.len = some x → stores dram d.dst ((cmac b.material x).take d.param).length →
        ∃ t, exec (.cmacGen e dram again) s = .next t 
          ∧ done (readsOf s q d dram d.len 0) ((cmac b.material x).take d.param) [] t)
    ∧ (s.runs 0x06 n q d c → dramRead dram d.src d.len = some x →
        ∃ t, exec (.cmacVerify e dram again) s = .next t ∧ framed t ∧ t.out = s.out ++ readsOf s q d dram d.len 0
          ∧ endedWith q d (if (cmac b.material x).take d.param = slice d.opdata 0 d.param then stOk else stAuthFail) [] t)
    ∧ (∀ b2 : Bank, s.entryKey c 1 = some b2 → s.runs 0x07 n q d c → dramRead dram d.src (d.auxLen + d.len + d.tagIn) = some x →
        (tagOk b.material iv d x = true → dramRead again d.src (d.auxLen + d.len + d.tagIn) = some x) →
        let r := gcmSeal b2.material (d.sealIv c) (splitInput d x).1 (gcmOpen b.material iv (splitInput d x).2.1)
        let out := r.1 ++ r.2.take d.tagOut
        let n := d.auxLen + d.len + d.tagIn
        let first := readsOf s q d dram n 0
        stores dram d.dst out.length → ∃ t, exec (.bridle e dram again) s = .next t ∧ framed t
          ∧ (tagOk b.material iv d x = true → done (first ++ readReqs again d.src n (s.queueRid q)) out (d.sealResult c) t)
          ∧ (tagOk b.material iv d x = false → endedWith q d stAuthFail [] t ∧ t.out = s.out ++ first))

/-- For a descriptor that executes the opcode for the first time, with its keys held, its input readable and its target EMPTY: KEY_DERIVE
defines the node and loads the derived key; KEY_GENERATE loads the key made of the bytes drawn, and writes a private key's public point;
KEY_WRAP writes the key's blob; KEY_UNWRAP loads the key of an authentic blob; ECDSA_SIGN writes the signature; ECDSA_VERIFY ends OK or
with VERIFY_FAIL; ECDH_AGREE loads the shared secret. A slot that is loaded ends the EMPTY_SLOT of associations that name it. -/
def Obligations.KeyOperations : Prop :=
  ∀ (s : State) (e : BitVec 11) (dram again : Dram) (q : Nat) (d : QDesc) (c : CEntry), s.wf →
    let n := e.toNat
    let pages := 0x24 :: queueWords
    let framed (t : State) : Prop := SameBut ([.assoc, .counters] ++ queueParts) s t ∧ WordsBut (ownPages pages pages) s t
      ∧ ((∀ p ∈ s.counters, p.2.exhausted ≠ 5) → t.assoc = s.assoc ∧ t.counters = s.counters)
    let drew := s.drawnFor n
    let cv := curveOf (curveCode (s.slot d.slotA).type.toNat)
    let counted (f : RegField) (t : State) : Prop := t.fld f = (s.fld f + 1) % 2 ^ 32
    (∀ (b : Bank) (label m : Bytes) (k : Nat), s.runs 0x10 n q d c → s.entryKey c 0 = some b → b.node = none →
      dramRead dram d.src 32 = some label →
      let type := (label.getD 0 0).toNat
      let par := Parent.slot d.slotA b.gen
      derivedBits type ≠ 0 → s.fits d.slotB type → s.findNode par label d.policy = none →
      (List.range 1024).find? (fun i => decide ((s.node i).st = .free)) = some k →
      (s.slot d.slotA).active = some b →
      s.deriveStep (prfKey (s.slot d.slotA).type.toNat b.material) label d.policy 1 = some m →
      ∃ t, exec (.keyDerive e dram again) s = .next t ∧ framed t ∧ loaded s q d type m d.policy .derived (some k) t
        ∧ t.node k = {
            st := .valid, parent := par, label := label, policy := d.policy, depth := 1,
            tenant := BitVec.ofNat 3 d.tenant, slot := some d.slotB })
    ∧ (s.runs 0x11 n q d c → s.drawsReady d c n = true →
      let type := paramType (bits d.param 2 0)
      let m := derivedMaterial type drew
      let out := if isPriv type then publicPoint type m else []
      s.fits d.slotB type → stores dram d.dst out.length →
      ∃ t, exec (.keyGenerate e dram) s = .next t ∧ framed t ∧ wrote s q d [] dram out t
        ∧ loaded s q d type m d.policy (genProv d.policy) none t)
    ∧ (∀ w b : Bank, s.runs 0x12 n q d c → s.entryKey c 0 = some w → s.entryKey c 1 = some b →
      let blob := keyBlob w.material (s.slot d.slotB).type.toNat b.policy b.prov b.material (beBytes 8 c.valueA.toNat)
      stores dram d.dst blob.length → ∃ t, exec (.keyWrap e dram) s = .next t ∧ framed t
        ∧ (blob.length ≤ d.auxLen → wrote s q d [] dram blob t ∧ endedWith q d stOk (leBytes 4 blob.length) t)
        ∧ (d.auxLen < blob.length → t.out = s.out ∧ endedWith q d stBadLen [] t))
    ∧ (∀ (w : Bank) (x : Bytes), s.runs 0x13 n q d c → s.entryKey c 0 = some w → dramRead dram d.src d.len = some x →
      ∃ t, exec (.keyUnwrap e dram again) s = .next t ∧ framed t
        ∧ (∀ st, s.openBlob w.material x = .error st → endedWith q d st [] t ∧ t.slots = s.slots)
        ∧ (∀ type p m, s.openBlob w.material x = .ok (type, p, m) → s.fits d.slotB type →
            loaded s q d type m p .imported none t))
    ∧ (∀ (b : Bank) (x sig : Bytes), s.runs 0x20 n q d c → s.drawsReady d c n = true → d.len = cv.width → s.entryKey c 0 = some b →
      dramRead dram d.src d.len = some x → ecdsaSign cv (beNat b.material) (beNat drew % (cv.n - 1) + 1) x = some sig →
      stores dram d.dst sig.length →
      ∃ t, exec (.ecdsaSign e dram again) s = .next t ∧ framed t
        ∧ wrote s q d (readsOf s q d dram d.len 0) dram sig t ∧ endedWith q d stOk [] t ∧ counted R.PKE_OPS.COUNT t)
    ∧ (∀ x a key : Bytes, s.runs 0x21 n q d c →
      let given := d.param.testBit 3
      let cv := curveOf (curveCode (if given then paramType (bits d.param 2 0) else (s.slot d.slotA).type.toNat))
      let p := bytesPoint cv key
      d.len = cv.width → (given = true → d.auxLen = 2 * cv.width ∧ key = a) →
      (given = false → ∃ b, s.entryKey c 0 = some b ∧ key = b.material) →
      dramRead dram d.src (d.len + 2 * cv.width) = some x → dramRead dram d.aux d.auxLen = some a →
      ∃ t, exec (.ecdsaVerify e dram again) s = .next t ∧ framed t
        ∧ t.out = s.out ++ readsOf s q d dram (d.len + 2 * cv.width) d.auxLen ∧ counted R.PKE_OPS.COUNT t
        ∧ endedWith q d (if onCurve cv p.1 p.2 && ecdsaVerify cv p.1 p.2 (x.take d.len) (x.drop d.len) then stOk else stVerifyFail) [] t)
    ∧ (∀ (b : Bank) (x : Bytes), s.runs 0x22 n q d c → s.drawsReady d c n = true → d.len = 2 * cv.width → s.entryKey c 0 = some b →
      dramRead dram d.src d.len = some x →
      let p := bytesPoint cv x
      let type := if cv.width = 32 then 0x20 else 0x21
      let z := if onCurve cv p.1 p.2 then ecMul cv (beNat b.material) (some p) else none
      ∃ t, exec (.ecdhAgree e dram again) s = .next t ∧ framed t ∧ counted R.PKE_OPS.COUNT t
        ∧ (z = none → endedWith q d stVerifyFail [] t)
        ∧ (∀ u v, z = some (u, v) → s.fits d.slotB type → loaded s q d type (beBytes cv.width u) d.policy .agreed none t))

/-- HASH of an input that memory gives writes its SHA-256, or with PARAM bit 0 its SHA-384, and ends OK; where the descriptor is replayed
and its input is another than before, it overwrites DST with zeros, raises INPUT_CHANGED and ends with INPUT_CHANGED. RANDOM_FILL writes
the piece drawn at its place, and ends OK with the last piece, or goes on. -/
def Obligations.HashAndRandomFill : Prop :=
  ∀ (s : State) (e : BitVec 11) (dram again : Dram) (q : Nat) (d : QDesc) (c : CEntry), s.wf →
    let n := e.toNat
    let framed (t : State) : Prop := SameBut queueParts s t ∧ WordsBut (ownPages queueWords queueWords) s t
    (∀ x : Bytes, dramRead dram d.src d.len = some x →
      let out := if d.param.testBit 0 then sha384 x else sha256 x
      (s.runs 0x28 n q d c → stores dram d.dst out.length →
        ∃ t, exec (.hash e dram again) s = .next t ∧ framed t
          ∧ wrote s q d (readsOf s q d dram d.len 0) dram out t ∧ endedWith q d stOk [] t)
      ∧ (∀ hd, s.descOf n = some (q, d) → s.entry n = some c → d.opcode = 0x28 → d.phase = .executing → s.loadWaits n = false →
        c.replayed = true → c.digestDone = true → s.cellar.hd = some hd → digestOf hd (d.bytes ++ x) ≠ c.digest →
        ∃ t, exec (.hash e dram again) s = .next t ∧ framed t ∧ endedWith q d stInputChanged [] t ∧ t.shows E.CELLAR.INPUT_CHANGED
          ∧ wrote s q d (readsOf s q d dram d.len 0) {} (zeros (if d.param.testBit 0 then 48 else 32)) t))
    ∧ (s.runs 0x30 n q d c → s.drawnFor n ≠ [] → stores dram (d.dst + d.done) (s.drawnFor n).length →
        let more := d.done + (s.drawnFor n).length
        ∃ t, exec (.randomFill e dram) s = .next t ∧ framed t
          ∧ t.out = s.out ++ writeReqs dram (d.dst + d.done) (s.drawnFor n) (s.queueRid q)
          ∧ (d.len ≤ more → endedWith q d stOk [] t)
          ∧ (more < d.len → s.drawRefused { d with done := more } c = false →
              ∃ x ∈ t.descs q, x.seq = d.seq ∧ x.phase = .executing ∧ x.done = more))

/-- MEM_READ_REQUEST and MEM_WRITE_REQUEST: while Otist holds READY low nothing happens. A request that is not aligned, that reaches metadata or
a BAD region, that its class has no right to, or that no region serves while MEM_CFG.DEFAULT is 1, is answered BUSERR and passes
nothing; a poisoned region denies a read and refuses a write. An accepted request is in flight with its keys, configuration and counter fixed, and
journalled, and answers nothing yet; a full write with nothing else in flight goes downstream once a lane works on it, encrypted. -/
def Obligations.MemRequests : Prop :=
  ∀ (s : State) (v : MemView) (i : Instr) (x : MemTxn), s.wf →
    (∃ (addr : BitVec 40) (two : Bool) (tid : BitVec 10) (rid : BitVec 12) (attr : BitVec 8),
      (i = .memReadRequest addr two tid rid attr ∧ x = { addr := addr.toNat, two := two, tid := tid, rid := rid, attr := attr })
      ∨ ∃ (data : List Byte) (strb : BitVec 64), i = .memWriteRequest addr two tid rid attr data strb v
          ∧ x = { addr := addr.toNat, two := two, tid := tid, rid := rid, attr := attr, isWrite := true, data := (placeData addr.toNat two data strb).1, strb := (placeData addr.toNat two data strb).2 }) →
    let answer (r : MemResp) : Out := if x.isWrite = true then .memWrite x.tid r else .memRead x.tid r (zeros (if x.two then 64 else 32))
    let waits := s.tidBusy x
    let flows : Prop := s.shut = false ∧ s.memOn = true ∧ s.mem.txns.length < 256
    let hidden := if s.parkAt x.addr then some 0 else s.metaAt x.addr
    let free : Prop := s.cellarFault = false ∧ s.usedOf .memory + 2 ≤ 512 ∧ ∃ e f : Fin 2048, e ≠ f ∧ s.entry e = none ∧ s.entry f = none
      ∧ s.withdrawn e = false ∧ s.withdrawn f = false ∧ ∀ k ∈ s.cellar.replay, (s.entry k).isSome = true
    ∃ t, exec i s = .next t ∧ SameBut tamperParts s t ∧ WordsBut (ownPages (0x2D :: tamperPages) (0x2D :: tamperPages)) s t
      ∧ (let bus : Prop := (waits = true → SameBut [] s t) ∧ (waits = false → t.out = s.out ++ [answer .buserr] ∧ t.mem = s.mem)
        let held : Prop := SameBut [] s t
        let lanes : Prop := s.sched.items = [] ∧ s.laneJobs = [] ∧ ∃ l < 4, s.takesItems l = true
        let accepted (n : Option Nat) (k m : Option KeyRef) (ctr : MemTxn → Prop) : Prop := ∃ e y c, t.txn e = some y ∧ ctr y ∧ y.addr = x.addr ∧ y.tid = x.tid
          ∧ y.isWrite = x.isWrite ∧ y.data = x.data ∧ y.strb = x.strb ∧ y.region = n ∧ y.kref = k ∧ y.mref = m
          ∧ t.entry e = some c ∧ c.kind = (if x.isWrite then .memWr else .memRd) ∧ c.keys = [k, m, none, none] ∧ c.ref = x.ref ∧ c.strb = x.strb
          ∧ (x.isWrite = false → y.phase = .reading ∧ t.out = s.out
              ∧ c.valueA = match y.rctr with | some (_, m) => BitVec.ofNat 64 (x.addr + m * 2 ^ 40) | none => BitVec.ofNat 64 x.addr)
        let sent (b : Bytes) : Prop := t.out = s.out ++ [.dramWrite x.line b x.strb]
        (¬ flows → held)
        ∧ (flows → x.aligned = false → bus ∧ (waits = false → recorded 0x28 0x0020 (alarmPayload 0 0 0 false 0x28) t))
        ∧ (flows → x.aligned = true → match hidden with
            | some n => bus ∧ (waits = false → t.shows E.MEM.META_ACCESS ∧ t.fld R.MEM_FAIL_INFO.KIND = 7
                ∧ t.fld R.MEM_FAIL_INFO.REGION = n % 16 ∧ t.fld R.MEM_FAIL_ADDR.ADDR = x.addr / 64 * 64)
            | none => (s.badAt x.addr = true → bus) ∧ (s.badAt x.addr = false → match s.servedAt x.addr with
              | none => (s.fld R.MEM_CFG.DEFAULT = 1 → bus)
                ∧ (s.fld R.MEM_CFG.DEFAULT = 0 → free → s.mem.txns = [] → accepted none none none (fun y => y.rctr = none) ∧ (x.isWrite = true → sent x.data))
              | some n =>
                let y : MemTxn := { x with region := some n }
                let right := s.right n y
                let refused : Prop := right = 0 ∨ (x.isWrite = true ∧ right < 3)
                let denied : Prop := (waits = true → held) ∧ (waits = false → t.out = s.out ++ [answer (s.denied n)]
                  ∧ (x.isWrite = true → t.shows E.MEM.WR_REFUSED ∧ t.fld R.MEM_FAIL_INFO.KIND = 5
                      ∧ t.fld R.MEM_REFUSED_WR.PARTIAL = min (s.fld R.MEM_REFUSED_WR.PARTIAL + 1) (2 ^ 16 - 1)))
                let mode := (s.regionCfg n).mode
                (s.rgnState n ≠ pgActive ∨ s.fld (R.MEMRGN_CTL.INIT n) = 1 ∨ s.lineHeld n x.line = true → held)
                ∧ (s.rgnState n = pgActive → s.fld (R.MEMRGN_CTL.INIT n) = 0 → s.lineHeld n x.line = false →
                    (refused → bus ∧ (waits = false → t.shows E.MEM.RIGHTS ∧ t.fld R.MEM_FAIL_INFO.KIND = 6
                      ∧ t.fld R.MEM_REFUSED_RIGHTS.COUNT = min (s.fld R.MEM_REFUSED_RIGHTS.COUNT + 1) (2 ^ 32 - 1)))
                    ∧ (¬ refused → s.fld (R.MEMRGN_CTL.POISONED n) = 1 → denied)
                    ∧ (¬ refused → s.fld (R.MEMRGN_CTL.POISONED n) = 0 → x.isWrite = true → s.fld (R.MEMRGN_CTL.RESTING n) = 1 → bus
                        ∧ (waits = false → t.fld R.MEM_REFUSED_WR.RESTING = min (s.fld R.MEM_REFUSED_WR.RESTING + 1) (2 ^ 16 - 1)))
                    ∧ (¬ refused → s.fld (R.MEMRGN_CTL.POISONED n) = 0 → (x.isWrite = true → s.fld (R.MEMRGN_CTL.RESTING n) = 0) →
                        s.passOf n = none →
                        (mode ≠ mdClear → s.grounded = true ∨ s.noLane = true ∨ s.cellarFault = true → bus)
                        ∧ ((mode = mdClear ∨ (s.grounded = false ∧ s.noLane = false)) → free →
                            (x.isWrite = true ∧ s.writeHeld mode = true → held)
                            ∧ ((x.isWrite = true → s.writeHeld mode = false) → s.mem.txns = [] →
                              let d := s.oldSide n
                              let ctr (y : MemTxn) : Prop := y.cfg = some d.c ∧ y.cipher = decide (right = 1)
                                ∧ (right = 1 → y.rctr = none) ∧ (right ≠ 1 → x.isWrite = false → y.rctr = s.counterNow d x.line)
                              (right = 1 → accepted (some n) none none ctr)
                              ∧ (right ≠ 1 → match s.sideKeys d with
                                | none => denied
                                | some (k, m) =>
                                  (¬ (x.isWrite = true ∧ mode = mdTree) → accepted (some n) k m ctr)
                                  ∧ (x.isWrite = true → mode = mdTree → s.banks false = 2 → ∀ blk, s.blockHeld d x.line = some blk →
                                      s.overflowsOf n false 0 (d.chunk x.line) = [] → blkMinor blk (d.lineOf x.line % 64) < 63 →
                                      s.mem.spent.contains (n, false, d.chunk x.line) = false →
                                      let major := blkMajor blk
                                      let minor := blkMinor blk (d.lineOf x.line % 64)
                                      accepted (some n) k m (fun y => ctr y ∧ y.rctr = some (major, minor) ∧ y.wctr = .ok major (minor + 1))
                                      ∧ (x.strb = BitVec.allOnes 64 → lanes → s.banks true = 2 →
                                          sent (lineCtr ((s.refKey k).getD []) n x.line major (minor + 1) x.data)))
                                  ∧ (x.isWrite = true → mode = mdClear → sent x.data)
                                  ∧ (x.isWrite = true → mode = mdConf ∨ (mode = mdTag ∧ s.banks true = 2) → x.strb = BitVec.allOnes 64 → lanes →
                                      sent (lineXts ((s.refKey k).getD []) true x.line x.data))
                                  ∧ (x.isWrite = true → mode = mdConf ∨ mode = mdTag → x.strb ≠ BitVec.allOnes 64 ∨ (s.sched.items = [] ∧ s.laneCount = 0) → t.out = s.out)))))))))

/-- The response to a read in flight with nothing else answers it: with the decrypted line where its tag matches, denied where it does not, which
is counted as an integrity failure, and denied as a media failure where the line cannot be read; a speculative read that fails late is
reported. A partial write merges with the verified line and goes downstream under the counter fixed at its acceptance, or is refused. The
response to a write answers it and frees its entry. A timeout is an alarm. DERR reports count, mark a read, or are boundary errors. -/
def Obligations.MemResponses : Prop :=
  ∀ (s : State) (e : BitVec 12) (v : MemView), s.wf →
    let framed (t : State) : Prop := SameBut (.anchor :: .free :: tamperParts) s t
      ∧ WordsBut (ownPages (0x2D :: tamperPages) (0x2D :: tamperPages)) s t
    let n := e.toNat
    let alone : Prop := ∀ p ∈ s.mem.txns, p.1 = n
    let mat (k : Option KeyRef) : Bytes := (s.refKey k).getD []
    let failed (kind region : Nat) (t : State) : Prop := t.fld R.MEM_FAIL_INFO.KIND = kind ∧ t.fld R.MEM_FAIL_INFO.REGION = region % 16
    let integ (r : Nat) (t : State) : Prop := t.shows E.MEM.INTEG ∧ t.fld R.MEM_INTEG.COUNT = min (s.fld R.MEM_INTEG.COUNT + 1) (2 ^ 32 - 1)
      ∧ t.fld (R.MEMRGN_FAILS.INTEG r) = min (s.fld (R.MEMRGN_FAILS.INTEG r) + 1) (2 ^ 16 - 1)
    let media (r : Nat) (t : State) : Prop := t.shows E.MEM.MEDIA ∧ t.fld R.MEM_MEDIA.COUNT = min (s.fld R.MEM_MEDIA.COUNT + 1) (2 ^ 32 - 1)
      ∧ t.fld (R.MEMRGN_FAILS.MEDIA r) = min (s.fld (R.MEMRGN_FAILS.MEDIA r) + 1) (2 ^ 16 - 1)
    let works : Prop := s.canWork (.entry n)
    let goes (x : MemTxn) : Prop := x.phase = .reading ∧ (x.isWrite = true → x.noRead s = false) ∧ alone ∧ works
    let quiet : Prop := ∀ r, s.mem.cmd ≠ .flushing r
    (∃ t, exec (.downstreamReadResponse e v) s = .next t ∧ framed t
      ∧ (s.txn n = none → SameBut [] s t)
      ∧ ∀ x, s.txn n = some x →
        (x.phase ≠ .reading → alone → quiet → SameBut [] s t)
        ∧ (x.phase = .reading → x.isWrite = true → x.noRead s = true → alone → works → s.replayHeld n = false →
            x.region = none ∨ (∃ r, x.region = some r ∧ (x.sideOf s r).c.mode = mdClear) →
            drove (.dramWrite x.line x.data x.strb) s t ∧ t.txn n = some { x with phase := .writing })
        ∧ (goes x → x.isWrite = false →
            let line := memLine v x.line
            let ok (b : Bytes) : Prop := drove (.memRead x.tid .okay (if x.two then b else slice b (x.addr % 64) 32)) s t
            let no (r : MemResp) : Prop := drove (.memRead x.tid r (zeros (if x.two then 64 else 32))) s t
            t.txn n = none ∧ match x.region with
            | none => (line.1 = .buserr → no .buserr) ∧ (line.1 ≠ .buserr → ok line.2)
            | some r =>
              let d := x.sideOf s r
              (x.cipher = true → (line.1 = .buserr → no .buserr) ∧ (line.1 ≠ .buserr → ok line.2))
              ∧ (x.cipher = false → d.c.mode = mdClear →
                  (line.1 ≠ .ok ∨ x.uncorrectable = true → no (s.denied r) ∧ media r t ∧ failed 3 r t)
                  ∧ (line.1 = .ok → x.uncorrectable = false → ok line.2))
              ∧ (x.cipher = false → d.c.mode ≠ mdClear → ∀ good pt, s.verdict d (mat x.kref) (mat x.mref) x.line line.2 x.rctr = some (good, pt) →
                  (s.mediaFails x.line x.uncorrectable v → no (s.denied r) ∧ media r t ∧ failed 3 r t)
                  ∧ (¬ s.mediaFails x.line x.uncorrectable v →
                      (good = true → ok pt)
                      ∧ (good = false → integ r t ∧ (x.spec = false → no (s.denied r) ∧ failed 1 r t)
                          ∧ (x.spec = true → ok pt ∧ failed 4 r t ∧ t.shows E.MEM.LATE_POISON ∧ t.fld (R.MEMRGN_CTL.SPEC_SUSP r) = 1)))))
        ∧ (goes x → x.isWrite = true → ∀ r, x.region = some r →
            let d := x.sideOf s r
            let from' := x.mergeSide s r
            let k := if x.mergeOld then x.okref else x.kref
            let m := if x.mergeOld then x.omref else x.mref
            let line := memLine v x.line
            let denied (kind : Nat) : Prop := t.txn n = none ∧ drove (.memWrite x.tid (s.denied r)) s t ∧ failed kind r t
            let refused : Prop := denied 5 ∧ t.shows E.MEM.WR_REFUSED
            d.c.mode ≠ mdClear → from'.c.mode ≠ mdClear → ∀ good pt, s.verdict from' (mat k) (mat m) x.line line.2 x.rctr = some (good, pt) →
              let b := mergeBytes x.strb pt x.data
              let sent (ct : Bytes) : Prop := drove (.dramWrite x.line ct (BitVec.allOnes 64)) s t ∧ t.txn n = some { x with phase := .writing }
              (s.mediaFails x.line x.uncorrectable v → refused ∧ media r t)
              ∧ (¬ s.mediaFails x.line x.uncorrectable v →
                  (good = false → refused ∧ integ r t)
                  ∧ (good = true → d.c.mode = mdConf ∨ d.c.mode = mdTag → sent (lineXts (mat x.kref) true x.line b))
                  ∧ (good = true → d.c.mode = mdTree → ∀ major minor, x.wctr = .ok major minor →
                      sent (lineCtr (mat x.kref) d.n x.line major minor b))
                  ∧ (good = true → d.c.mode = mdTree → x.wctr = .exhausted → denied 8))))
    ∧ (∀ ok : Bool, ∃ t, exec (.downstreamWriteResponse e ok v) s = .next t ∧ framed t
      ∧ (s.txn n = none → SameBut [] s t)
      ∧ ∀ x, s.txn n = some x →
        (x.phase ≠ .writing → SameBut [] s t)
        ∧ (x.phase = .writing → alone → t.txn n = none ∧ t.entry n = none
            ∧ (x.isWrite = true → drove (.memWrite x.tid (if ok then .okay else .buserr)) s t)
            ∧ ∀ r, x.region = some r → ok = false → media r t ∧ failed 3 r t))
    ∧ (∃ t, exec .downstreamReadTimeout s = .next t ∧ SameBut recordParts s t ∧ WordsBut (ownWords [] []) s t
      ∧ recorded 0x28 0x0020 (alarmPayload 0 0 0 false 0x28) t)
    ∧ (∀ (kind : BitVec 2) (late : Bool), ∃ t, exec (.derrReport e kind late) s = .next t ∧ SameBut (.mem :: recordParts) s t
      ∧ WordsBut (ownWords [R.GLOBAL_BND_ERR.COUNT.addr] []) s t
      ∧ (late = true → t.mem = s.mem ∧ t.fld R.GLOBAL_BND_ERR.GROUP = 3
          ∧ t.fld R.GLOBAL_BND_ERR.COUNT = min (s.fld R.GLOBAL_BND_ERR.COUNT + 1) (2 ^ 16 - 1))
      ∧ (late = false → t.regs = s.regs
          ∧ (kind = 1 → t.mem = { s.mem with corrected := s.mem.corrected + 1 })
          ∧ (kind = 2 → ∀ x, s.txn n = some x → x.phase = .reading → t.txn n = some { x with uncorrectable := true })
          ∧ (kind = 0 ∨ kind = 3 → t.mem = s.mem)))

/-- CHECKPOINT of a TREE region that is served, not resting and without a pass sets RESTING, and once the region is clean seals the root under
the next epoch and asks for its CLOSED record. OPEN of a resting one asks for an open record. Elsewhere both end with STATE. REGION_EN takes
a region from OFF to ACTIVE, where it comes up by its SRC or sets BAD, and from ACTIVE to DRAINING. SPEC_RESUME clears SPEC_SUSP. -/
def Obligations.RegionCommands : Prop :=
  ∀ (s : State) (rid : BitVec 12) (region : Fin 16) (v : MemView), s.wf →
    let n := region.val
    let c := s.regionCfg n
    let cmd (op : Nat) : Prop := s.takes rid U.mem R.MEM_CMD.OP.addr (op * 2 ^ 28 + n)
    let resting := s.fld (R.MEMRGN_CTL.RESTING n)
    let refused (t : State) : Prop := ended U.mem rcState s t ∧ t.mem = s.mem ∧ t.anchor = s.anchor ∧ t.fld (R.MEMRGN_CTL.RESTING n) = resting
    let asks (b : Bytes) (t : State) : Prop := t.anchor = { s.anchor with reqs := s.anchor.reqs ++ [(.root n b, 0)] }
      ∧ t.mem.cmd = .record n ∧ t.fld R.MEM_CMD_STAT.BUSY = 1
    let framed (t : State) : Prop := SameBut ([.anchor, .cmdLate, .mem, .out, .parts, .roots] ++ recordParts) s t
      ∧ WordsBut (wrPages 0x28 [0x28, 0x29, 0x2A, 0x30] [0x30]) s t
    (cmd 1 → ∃ t, exec (.checkpoint rid region) s = .next t ∧ framed t
      ∧ (s.treeActive n = false ∨ resting = 1 ∨ (s.passOf n).isSome = true → refused t)
      ∧ (s.treeActive n = true → resting = 0 → s.passOf n = none → t.fld (R.MEMRGN_CTL.RESTING n) = 1
          ∧ (s.regionClean n = false ∨ s.regionTxns n true = true → t.mem = { s.mem with cmd := .flushing n }
              ∧ t.anchor = s.anchor ∧ t.out = s.out ∧ t.fld R.MEM_CMD_STAT.BUSY = 1)
          ∧ ∀ r, s.regionClean n = true → s.regionTxns n true = false → s.root' n false = some r →
              let b := r.take 56 ++ beBytes 8 (s.rootEpoch n + 1)
              t.root' n false = some b ∧ asks (s.rootPayload n true (s.rootEpoch n + 1) (s.checkOf b)) t
              ∧ t.out = s.out ++ .dramWrite (c.metaAddr * 4096 + metaShadow c.size) b (BitVec.allOnes 64)
                  :: if c.mirrored then [.dramWrite (c.mirror * 4096 + mirrorShadow c.size) b (BitVec.allOnes 64)] else []))
    ∧ (cmd 2 → ∃ t, exec (.openRegion rid region) s = .next t ∧ framed t
      ∧ (s.treeActive n = false ∨ resting = 0 → refused t)
      ∧ (s.treeActive n = true → resting = 1 → asks (s.rootPayload n false (s.rootEpoch n) []) t ∧ t.out = s.out))
    ∧ (∀ en : Bool, s.accepts rid (R.MEMRGN_CTL.EN n).addr (if en then 1 else 0) →
      ∃ t, exec (.regionEn rid region en v) s = .next t ∧ SameBut (.anchor :: tamperParts) s t
        ∧ WordsBut (wrPages (0x29 + n / 8) tamperPages tamperPages) s t ∧ t.fld (R.MEMRGN_CTL.EN n) = b2n en
        ∧ (en = false → s.rgnState n = pgActive → t.rgnState n = pgDraining)
        ∧ (s.rgnState n = pgDraining → t.rgnState n = pgDraining
            ∧ (s.fld (R.MEMRGN_CTL.EN n) ≠ b2n en → t.fld (R.MEMRGN_CTL.REARM n) = b2n en))
        ∧ (s.rgnState n = pgOff → en = false ∨ s.active 0x28 = false → t.rgnState n = pgOff)
        ∧ (s.rgnState n = pgOff → en = true → s.fld (R.MEMRGN_CTL.EN n) = 0 → s.active 0x28 = true →
            let src := s.fld (R.MEMRGN_CFG.SRC n)
            let bad : Prop := t.fld (R.MEMRGN_CTL.BAD n) = 1 ∧ t.shows (E.MEMRGN.RGN_BAD n)
            let good : Prop := t.fld (R.MEMRGN_CTL.BAD n) = 0
            t.rgnState n = pgActive
            ∧ (s.regionBad n = true → bad)
            ∧ (s.regionBad n = false → c.mode < 2 → good)
            ∧ (s.regionBad n = false → 2 ≤ c.mode →
                (src = 3 ∨ (src = 2 ∧ c.mode = mdTag) → bad)
                ∧ (src = 0 → c.mode = mdTree → s.root' n false = none → bad)
                ∧ (src = 0 → c.mode = mdTag ∨ (s.root' n false).isSome = true → good)
                ∧ (src = 1 → good ∧ t.passes = s.passes ++ [{ region := n, kind := .format, old := { c with size := 0 }, new := c, root := zeros 64 }])
                ∧ (src = 2 → c.mode = mdTree → t.fld (R.MEMRGN_STAT.RESTORE_CAUSE n) = (s.restore n v).1
                    ∧ ((s.restore n v).1 = 0 → good ∧ t.root' n false = some (s.restore n v).2 ∧ t.fld (R.MEMRGN_CTL.RESTING n) = 1)
                    ∧ ((s.restore n v).1 ≠ 0 → bad ∧ t.shows E.MEM.RESTORE_FAIL)))))
    ∧ (s.accepts rid (R.MEMRGN_CTL.EN n).addr (0x400 + s.fld (R.MEMRGN_CTL.EN n)) →
      ∃ t, exec (.specResume rid region) s = .next t ∧ t.fld (R.MEMRGN_CTL.SPEC_SUSP n) = 0 ∧ t.fld (R.MEMRGN_CTL.EN n) = s.fld (R.MEMRGN_CTL.EN n)
        ∧ (s.rgnState n = pgOff ∨ s.rgnState n = pgDraining ∨ s.fld (R.MEMRGN_CTL.EN n) = 1 → t.rgnState n = s.rgnState n
            ∧ SameBut recordParts s t ∧ WordsBut (wrPages (0x29 + n / 8) [0x29 + n / 8, 0x2C] [0x2C]) s t))

/-- CACHE_WRITEBACK writes the least recently used line that it may, which is then clean; a block of the top level goes out under a MAC
with the root's next counter. WRITEBACK starts writing every dirty line. A cache parity error is a gust; at the limit, or where a dirty
line's rewrite fails, the bank is fenced. OVERFLOW_REENCRYPT re-encrypts the next line of an open entry under its block's new counter,
and marks it done; a line that fails is reported and marked done. -/
def Obligations.CacheWork : Prop :=
  ∀ (s : State) (v : MemView), s.wf →
    let whole (t : State) : Prop := SameBut (.anchor :: tamperParts) s t
      ∧ WordsBut (ownPages (0x2D :: tamperPages) (0x2D :: tamperPages)) s t
    let lineOut (a : Nat) (b : Bytes) (t : State) : Prop := drove (.dramWrite a b (BitVec.allOnes 64)) s t
    let clean (l : CacheLine) (lines : List CacheLine) : Prop := ∀ x ∈ lines, x.is l.region l.newTree l.level l.index = true → x.dirty = false
    (∀ tag : Bool, ∃ t, exec (.cacheWriteback tag v) s = .next t ∧ whole t
      ∧ ((∀ l ∈ s.cacheLines tag, s.mayFlush tag l = false) → SameBut [] s t)
      ∧ ∀ l, ((s.cacheLines tag).filter (s.mayFlush tag)).getLast? = some l → s.cached tag l.region l.newTree l.level l.index = some l →
        let d := s.side l.region l.newTree
        d.newTree = l.newTree →
          (tag = true → l.level = 0 → lineOut (d.tagAddr l.index) l.data t ∧ clean l t.mem.tag)
          ∧ ∀ r, tag = false → l.level = d.top → s.root' l.region l.newTree = some r → s.overflowsOf l.region l.newTree (l.level + 1) (l.index / 64) = [] →
              blkMinor r (l.index % 64) < 63 →
              let minor := blkMinor r (l.index % 64) + 1
              let b := l.data.take 56 ++ blkMac (s.slotKey d.c.mslot) l.level l.index (blkMajor r) minor l.data
              lineOut (d.blockAddr l.level l.index) b t ∧ clean l t.mem.ctr
              ∧ (1 ≤ l.level → d.c.mirrored = true → lineOut (d.mirrorAddr l.level l.index) b t))
    ∧ (∀ rid : BitVec 12, s.accepts rid R.MEMCACHE_CMD.WRITEBACK.addr 1 →
      ∃ t, exec (.writeback rid) s = .next t ∧ SameBut (.mem :: recordParts) s t ∧ WordsBut (wrPages 0x2B [0x2B] [0x2B]) s t
        ∧ t.mem.ctr = s.mem.ctr ∧ t.mem.tag = s.mem.tag
        ∧ (s.active 0x2B = true → t.mem.flushAll = decide (0 < dirtyCount s.mem.ctr + dirtyCount s.mem.tag))
        ∧ (s.active 0x2B = false → t.mem = s.mem))
    ∧ (∀ (tag : Bool) (place : BitVec 13) (bankB rewriteBad : Bool),
      let i := (if tag then 2 else 0) + b2n bankB
      let n := ((mget (fun _ => []) s.gusts (0x500 + i)).filter fun x =>
        decide (s.now.toNat < x + gustWindow (s.fld R.MEMCACHE_CFG.GUST_WIN_MS))).length + 1
      let lasting := max 1 (s.fld R.MEMCACHE_CFG.GUST_LIMIT) ≤ n
      let fences (t : State) : Prop := t.mem.fenced.getLsbD i = true ∧ t.shows E.MEMCACHE.BANK_FENCED
        ∧ recorded 0x2B 0x0020 (alarmPayload 0 2 0 false 0x2B) t
      ∃ t, exec (.cacheParityError tag place bankB rewriteBad v) s = .next t ∧ whole t
        ∧ (s.mem.fenced.getLsbD i = true → SameBut [] s t)
        ∧ (s.mem.fenced.getLsbD i = false → t.shows E.MEMCACHE.BANK_GUST
            ∧ t.fld R.MEMCACHE_RECON.COUNT = min (s.fld R.MEMCACHE_RECON.COUNT + 1) (2 ^ 32 - 1)
            ∧ ((s.cacheLines tag)[place.toNat]? = none → (lasting → fences t) ∧ (¬ lasting → t.mem = s.mem))
            ∧ (∀ l, (s.cacheLines tag)[place.toNat]? = some l → l.dirty = false → (lasting → fences t) ∧ (¬ lasting → t.mem.fenced = s.mem.fenced))
            ∧ ∀ l, (s.cacheLines tag)[place.toNat]? = some l → l.dirty = true →
                (lasting ∨ rewriteBad = true → fences t) ∧ (¬ lasting → rewriteBad = false → t.mem = s.mem)))
    ∧ (∃ t, exec (.overflowReencrypt v) s = .next t ∧ whole t
      ∧ (s.mem.overflows = [] ∨ s.laneCount = 0 → SameBut [] s t)
      ∧ ∀ o k, s.mem.overflows = [o] → o.next = some k → o.level = 0 → s.laneCount ≠ 0 →
        let d := s.side o.region o.newTree
        let a := d.c.baseAddr + o.index * 4096 + 64 * k
        let done : Prop := ∀ x ∈ t.mem.overflows, x.done.getLsbD k = true
        (∀ p ∈ s.mem.txns, ∀ x, p.2 = some x → x.line ≠ a) → d.n = o.region → d.newTree = o.newTree →
          (d.c.size * 64 ≤ o.index * 64 + k → done ∧ t.mem.ctr = s.mem.ctr ∧ t.mem.tag = s.mem.tag)
          ∧ (o.index * 64 + k < d.c.size * 64 → d.c.mode = mdTree → ∀ good pt blk,
              s.verdict d (s.slotKey d.c.kslot) (s.slotKey d.c.mslot) a (memLine v a).2 = some (good, pt) → s.blockHeld d a = some blk →
              (s.mediaFails a false v → done ∧ t.shows E.MEM.MEDIA)
              ∧ (¬ s.mediaFails a false v → good = false → done ∧ t.shows E.MEM.INTEG)
              ∧ (¬ s.mediaFails a false v → good = true → s.banks false = 2 → s.setsFit false = true →
                  done ∧ lineOut a (lineCtr (s.slotKey d.c.kslot) d.n a (blkMajor blk) (blkMinor blk k) pt) t)))

/-- START latches the staged configuration as a new pass with its entry, or fails with NOT_ACTIVE, STATE or BAD_ENTRY and raises START_BAD.
PAUSE, RESUME and DISCARD act on the pass that KILN_STAT shows (DEDUCED, log entries 75 and 78): the first two stop and start its walker.
DISCARD drops a pass whose region is OFF with what is cached of its new tree, and ends with STATE elsewhere; without a pass all three end
with STATE. READ shows the entry's region, level, index and time. -/
def Obligations.KilnCommands : Prop :=
  ∀ (s : State) (rid : BitVec 12), s.wf →
    let cmd (op : Nat) : Prop := s.takes rid U.kiln R.KILN_CMD.OP.addr (op * 2 ^ 28)
    let framed (t : State) : Prop := SameBut ([.cmdLate, .free, .mem, .passes] ++ recordParts) s t
      ∧ WordsBut (wrPages 0x2C [0x28, 0x2B, 0x2C] [0x28, 0x2B, 0x2C]) s t
    let refused (code : Nat) (t : State) : Prop := ended U.kiln code s t ∧ t.passes = s.passes ∧ t.mem = s.mem
    let n := s.fld R.KILN_PASS.REGION
    let old := s.regionCfg n
    let new := s.staged n
    let startable : Prop := s.rgnState n = pgActive ∧ s.fld (R.MEMRGN_CTL.BAD n) = 0 ∧ s.fld (R.MEMRGN_CTL.RESTING n) = 0
      ∧ s.fld (R.MEMRGN_CTL.POISONED n) = 0 ∧ ∀ p ∈ s.passes, p.kind = .format
    let paused (b : Bool) (t : State) : Prop := framed t ∧ match s.shownPass with
      | none => refused rcState t
      | some p => ended U.kiln rcOk s t ∧ t.passes = s.passes.map (fun x => if x = p then { p with paused := b } else x) ∧ t.mem = s.mem
          ∧ (b = true → t.shows E.KILN.PAUSED)
    (cmd 1 → ∃ t, exec (.start rid) s = .next t ∧ framed t
      ∧ (¬ startable → refused rcState t ∧ t.shows E.KILN.START_BAD)
      ∧ (startable → s.startBad n old new = true → refused rcBadEntry t ∧ t.shows E.KILN.START_BAD)
      ∧ (startable → s.startBad n old new = false → ended U.kiln rcOk s t
          ∧ t.passes = s.passes ++ [{ region := n, kind := kindOf' old new, old := old, new := new, root := zeros 64 }]
          ∧ ∃ payload, recorded 0x2C 0x0034 payload t))
    ∧ (s.accepts rid R.KILN_CMD.OP.addr (2 ^ 28) → s.fld R.KILN_CMD_STAT.BUSY = 0 → s.active 0x2C = false →
      ∃ t, exec (.start rid) s = .next t ∧ framed t ∧ refused rcNotActive t ∧ t.shows E.KILN.START_BAD)
    ∧ (cmd 2 → ∃ t, exec (.pause rid) s = .next t ∧ paused true t)
    ∧ (cmd 3 → ∃ t, exec (.kilnResume rid) s = .next t ∧ paused false t)
    ∧ (cmd 4 → ∃ t, exec (.discard rid) s = .next t ∧ framed t
      ∧ match s.shownPass with
        | none => refused rcState t
        | some p => (s.rgnState p.region ≠ pgOff → refused rcState t)
          ∧ (s.rgnState p.region = pgOff → ended U.kiln rcOk s t ∧ t.passes = s.passes.filter (fun x => x ≠ p) ∧ t.shows E.KILN.PASS_END
              ∧ ∀ l ∈ t.mem.ctr ++ t.mem.tag, l.region = p.region → l.newTree = false))
    ∧ (∀ index : Fin 32, s.takes rid U.tree R.TREE_CMD.OP.addr (2 ^ 28 + index.val) →
      ∃ t, exec (.treeRead rid index) s = .next t ∧ ended U.tree rcOk s t ∧ SameBut (.cmdLate :: recordParts) s t
        ∧ WordsBut (wrPages 0x2D [0x2D] []) s t
        ∧ match s.mem.quar.getD index none with
          | none => t.fld R.TREE_QUAR_ENTRY.VALID = 0
          | some q => t.fld R.TREE_QUAR_ENTRY.VALID = 1 ∧ t.fld R.TREE_QUAR_ENTRY.REGION = q.region % 2 ^ 4
            ∧ t.fld R.TREE_QUAR_ENTRY.LEVEL = q.level % 2 ^ 2 ∧ t.fld R.TREE_QUAR_ENTRY.INDEX = q.index % 2 ^ 20
            ∧ t.fld R.TREE_QUAR_TS.TS = q.stamp.ts.toNat)

/-- KILN_CHUNK_START opens the next chunk: one to skip or copy is finished at once, a copy once no transaction accepted on its old side
is left, and one to transform or format starts with no line done, in TREE mode with a fresh L0 block of which the first prepares take
their minors. KILN_PREPARE_DONE writes the line re-encrypted, in TREE mode under the counter that the prepare took, or discards it where
its done bit is set; it does nothing while no lane is in service. KILN_COMMIT_DONE with OKAY sets the done bit, and the last one moves the bound. KILN_PASS_COMPLETE past the last chunk gives the
region its new keys, size and areas and ends the pass. A walker that may not work does nothing. -/
def Obligations.KilnWalk : Prop :=
  ∀ (s : State) (v : MemView), s.wf →
    let framed (t : State) : Prop := SameBut tamperParts s t ∧ WordsBut (ownPages (0x2D :: tamperPages) (0x2D :: tamperPages)) s t
    let next (p : Pass) (t : State) : Prop := ∃ x r, t.passes = x :: r ∧ x.region = p.region ∧ x.bound = p.bound + 1
      ∧ x.chunks = p.chunks + 1 ∧ x.doneBits = 0 ∧ x.started = none ∧ x.prepared = [] ∧ x.taken = []
    (∃ t, exec (.kilnChunkStart v) s = .next t ∧ framed t
      ∧ (s.walking = none → SameBut [] s t)
      ∧ ∀ p, s.walking = some p →
        let step := s.passStep p
        (p.started.isSome = true ∨ p.new.size ≤ p.bound ∨ (step = 1 ∧ s.oldInChunk p = true) → SameBut [] s t)
        ∧ (p.started = none → p.bound < p.new.size →
            ((step = 1 ∧ s.oldInChunk p = false) ∨ step = 3 → next p t)
            ∧ (step = 1 → s.oldInChunk p = false → s.banks true = 2 → ∀ i < 8, ∃ l ∈ t.mem.tag, l.is p.region true 0 (8 * p.bound + i) = true ∧ l.dirty = true)
            ∧ (step = 0 ∨ step = 2 →
                let begun : Pass := { p with started := some s.now.toNat, lastStart := s.now.toNat, doneBits := 0, taken := [] }
                (p.new.mode ≠ mdTree → ∃ r, t.passes = begun :: r)
                ∧ (p.new.mode = mdTree → s.banks false = 2 → ∃ l ∈ t.mem.ctr, l.is p.region true 0 p.bound = true ∧ l.dirty = true
                    ∧ (p.prepared = [] → s.quarCovers p.region true 0 p.bound = false → s.overflowsOf p.region true 0 p.bound = [] →
                        s.mem.spent.contains (p.region, true, p.bound) = false →
                        l.data = (List.range s.kilnLines).foldl (fun b k => blkSet b k 1) (zeros 64)
                        ∧ ∃ r, t.passes = { begun with taken := (List.range s.kilnLines).map fun k => (k, .ok 0 1) } :: r)))))
    ∧ (∀ line : Fin 64,
      ∃ t, exec (.kilnPrepareDone line v) s = .next t ∧ framed t
        ∧ (s.walking = none → SameBut [] s t)
        ∧ ∀ p, s.walking = some p →
          let step := s.passStep p
          let a := p.new.baseAddr + p.bound * 4096 + 64 * line
          let others := p.taken.filter fun x => x.1 ≠ line.val
          let may : Prop := p.started.isSome = true ∧ (step = 0 ∨ step = 2) ∧ p.prepared.length + others.length < s.kilnLines
            ∧ (∀ x ∈ p.prepared, x.line ≠ line.val) ∧ s.oldInFlight p.region a = false ∧ s.laneCount ≠ 0
          let key := s.slotKey p.new.kslot
          let mac := s.slotKey p.new.mslot
          let done (ct tag : Bytes) : Prop := t.out = s.out ++ [.dramWrite a ct (BitVec.allOnes 64)]
            ∧ ∃ r, t.passes = { p with taken := others, prepared := p.prepared ++ [⟨line, tag⟩] } :: r
          let xtsDone (pt : Bytes) : Prop :=
            let ct := lineXts key true a pt
            done ct (if p.new.mode = mdTag then tagTag mac a ct else [])
          (¬ may → SameBut [] s t)
          ∧ (may → p.doneBits.getLsbD line = true → (∀ x ∈ p.taken, x.1 ≠ line.val) → SameBut [] s t)
          ∧ (may → p.doneBits.getLsbD line = false → p.new.mode = mdConf ∨ p.new.mode = mdTag →
              (step = 2 → xtsDone (zeros 64))
              ∧ (step = 0 → (s.regionCfg p.region).mode = mdConf → s.mediaBit a = false → (memLine v a).1 = .ok →
                  xtsDone (lineXts (s.slotKey (s.regionCfg p.region).kslot) false a (memLine v a).2)))
          ∧ (may → p.doneBits.getLsbD line = false → p.new.mode = mdTree → step = 2 → ∀ major minor,
              p.taken.find? (fun x => decide (x.1 = line.val)) = some (line.val, .ok major minor) →
              let ct := lineCtr key p.region a major minor (zeros 64)
              done ct (treeTag mac a major minor ct)))
    ∧ (∀ (line : Fin 64) (ok : Bool) (waited : BitVec 16),
      ∃ t, exec (.kilnCommitDone line ok waited v) s = .next t
        ∧ framed t
        ∧ (s.passes = [] → SameBut [] s t)
        ∧ ∀ p r, s.passes = p :: r →
          ((∀ x ∈ p.prepared, x.line ≠ line.val) → SameBut [] s t)
          ∧ ∀ x, p.prepared.find? (fun x => decide (x.line = line.val)) = some x →
            let left := p.prepared.filter fun y => y ≠ x
            let bits := p.doneBits ||| BitVec.ofNat 64 (2 ^ line.val)
            let i := (p.bound * 64 + line.val) / 8
            t.fld R.KILN_STALL.MAX_NS = max (s.fld R.KILN_STALL.MAX_NS) waited.toNat ∧
            let d := s.newSide p.region
            let calm : Prop := p.new.mode ≠ mdTree ∨ p.paused = true ∨ s.shut = true
              ∨ (s.banks false = 2 ∧ s.setsFit false = true ∧ (s.blockHeld d (p.new.baseAddr + p.bound * 4096)).isSome = true)
            let goesOn (bits : BitVec 64) : Prop := (p.new.mode ≠ mdTree → ∃ r2, t.passes = { p with prepared := left, doneBits := bits } :: r2)
              ∧ ∃ y r2, t.passes = y :: r2 ∧ y.region = p.region ∧ y.bound = p.bound ∧ y.prepared = left ∧ y.doneBits = bits
                ∧ ∀ z ∈ p.taken, z ∈ y.taken
            (ok = false → calm → goesOn p.doneBits)
            ∧ (ok = true → bits = BitVec.allOnes 64 → next p t)
            ∧ (ok = true → bits ≠ BitVec.allOnes 64 → calm → goesOn bits)
            ∧ (ok = true → calm → 2 ≤ p.new.mode → s.banks true = 2 → (∀ l ∈ s.mem.tag, l.data.length = 64) →
                ∃ l ∈ t.mem.tag, l.is p.region true 0 i = true ∧ l.dirty = true ∧ slice l.data (8 * (line.val % 8)) 8 = padTo 8 x.tag))
    ∧ (∃ t, exec (.kilnPassComplete v) s = .next t
      ∧ SameBut (.free :: tamperParts) s t ∧ WordsBut (ownPages (0x2D :: tamperPages) (0x2D :: tamperPages)) s t
      ∧ (s.passes = [] → SameBut [] s t)
      ∧ ∀ p r, s.passes = p :: r →
        let n := p.region
        let ready : Prop := p.new.size ≤ p.bound ∧ p.prepared = [] ∧ p.paused = false ∧ s.passWait p = 0
        (¬ ready → SameBut [] s t)
        ∧ (ready → t.passes = r ∧ t.fld (R.MEMRGN_KEY.KSLOT n) = p.new.kslot % 2 ^ 9 ∧ t.fld (R.MEMRGN_KEY.MSLOT n) = p.new.mslot % 2 ^ 9
            ∧ t.fld (R.MEMRGN_SIZE.UNITS n) = p.new.size % 2 ^ 21 ∧ t.fld (R.MEMRGN_META.ADDR n) = p.new.metaAddr % 2 ^ 28
            ∧ t.fld (R.MEMRGN_MIRROR.ADDR n) = p.new.mirror % 2 ^ 28 ∧ t.shows E.KILN.PASS_DONE ∧ (∃ payload, recorded 0x2C 0x0035 payload t)
            ∧ (∀ l ∈ t.mem.ctr ++ t.mem.tag, l.region = n → l.newTree = false)
            ∧ (p.new.mode = mdTree → (t.root' n false).isSome = true ∧ t.fld (R.MEMRGN_STAT.MAJOR_HIGH n) = 0)))

/-- STORAGE_HEADER takes a unit into a free buffer, and reads the entry of its sealed partition. STORAGE_UNIT_ACCEPT of its data refuses it
where a rule says so, holds it while no lane is in service, and else journals it: outside a sealed partition its XTS output returns at once; a read in one returns OK, tag
failure or version failure; a write writes its new entry and, once that is OKAY, its bitmap bit, and STORAGE_ENTRY_WRITTEN returns it;
a table access that fails ends it with version failure and drops the partition.
Only a unit that is OK carries data. -/
def Obligations.StorageUnits : Prop :=
  ∀ s : State, s.wf →
    let framed (t : State) : Prop := SameBut ([.anchor, .cmdLate, .out, .parts, .sched, .units] ++ freeParts) s t
      ∧ WordsBut (ownPages (0x30 :: lanePages ++ freePages) (0x30 :: freePages)) s t
    let first (u : StorUnit) : Prop := ∃ r, s.units = u :: r ∧ ∀ w ∈ r, w.status = none ∧ w.buffer ≠ u.buffer
    let behind (u : StorUnit) : Prop := ∃ w, s.units = [w, u] ∧ w.status = none ∧ w.buffer ≠ u.buffer
    let counted (u : StorUnit) (st : Nat) (t : State) : Prop :=
      if st = ustOk then t.fld R.STOR_UNITS.COUNT = (s.fld R.STOR_UNITS.COUNT + 1) % 2 ^ 64
      else if st = ustRefused then t.fld R.STOR_REFUSED.COUNT = min (s.fld R.STOR_REFUSED.COUNT + 1) (2 ^ 32 - 1) ∧ t.shows E.STOR.REFUSED
      else if st = ustTag then t.fld R.STOR_TAG_FAILS.COUNT = min (s.fld R.STOR_TAG_FAILS.COUNT + 1) (2 ^ 32 - 1) ∧ t.shows E.STOR.TAG_FAIL
        ∧ ∀ p, u.part = some p → t.fld (R.STOR_PART_FAILS.TAG p) = min (s.fld (R.STOR_PART_FAILS.TAG p) + 1) (2 ^ 16 - 1)
      else t.fld R.STOR_VER_FAILS.COUNT = min (s.fld R.STOR_VER_FAILS.COUNT + 1) (2 ^ 32 - 1) ∧ t.shows E.STOR.VER_FAIL
        ∧ ∀ p, u.part = some p → t.fld (R.STOR_PART_FAILS.VER p) = min (s.fld (R.STOR_PART_FAILS.VER p) + 1) (2 ^ 16 - 1)
    let done (u : StorUnit) (reqs : List Out) (st : Nat) (data : Bytes) (t : State) : Prop :=
      (first u → t.units = s.units.tail ∧ counted u st t
        ∧ t.out = s.out ++ reqs ++ [.storUnit st (if st = ustOk then data else zeros (if u.dus4k then 4096 else 512))])
      ∧ (behind u → t.out = s.out ++ reqs ∧ ∃ x ∈ t.units, x.buffer = u.buffer ∧ x.status = some st ∧ (st = ustOk → x.out = data))
    let lost (u : StorUnit) (reqs : List Out) (t : State) : Prop := done u reqs ustVersion [] t ∧ ∀ p, u.part = some p → psMounted ≤ s.partState p →
      t.partState p = psUnmounted ∧ t.fld (R.STOR_PART_CTL.OUTCOME p) = poTable ∧ t.shows E.STOR.PART_DROP
    (∀ (kslot : BitVec 6) (dus4k dir : Bool) (lbn : BitVec 64) (dram : Dram),
      let at' := s.partAt lbn.toNat
      let ready : Prop := s.active 0x30 = true ∧ s.shut = false ∧ s.units.length < 2
        ∧ (∀ u ∈ s.units, u.cellar.isSome = true ∨ u.status.isSome = true) ∧ (∀ p, at' = some p → s.partState p = psSealing → dir = true)
      ∃ t, exec (.storageHeader kslot dus4k dir lbn dram) s = .next t ∧ SameBut [.out, .units] s t
        ∧ (¬ ready → SameBut [] s t)
        ∧ (ready → t.out = s.out ++ (match at' with
            | none => []
            | some p => if s.units.any (fun u => decide (u.part = some p) && decide (u.lbn = lbn.toNat)) then []
                else readReqs dram ((s.part p).cfg.entryAddr (lbn.toNat - (s.part p).cfg.first)) 16)
          ∧ ∃ u : StorUnit, t.units = s.units ++ [u] ∧ u.kslot = kslot.toNat ∧ u.dus4k = dus4k ∧ u.dir = dir ∧ u.lbn = lbn.toNat
            ∧ u.part = at' ∧ u.cellar = none ∧ u.status = none ∧ u.written = none
            ∧ (∀ w, s.units = [w] → (w.buffer = 0 → u.buffer = 1) ∧ (w.buffer = 1 → u.buffer = 0))
            ∧ (∀ p, at' = some p → s.units = [] → u.entry =
                (dramRead dram ((s.part p).cfg.entryAddr (lbn.toNat - (s.part p).cfg.first)) 16).map fun b => (leAt b 0 4, slice b 8 8))
            ∧ (∀ p w, at' = some p → s.units = [w] → w.part = some p → w.lbn = lbn.toNat → w.written.isSome = true → u.entry = w.written)))
    ∧ (∀ (data : List Byte) (dram : Dram) (u : StorUnit), s.units.find? (fun u => u.cellar.isNone && u.status.isNone) = some u →
      let len := if u.dus4k then 4096 else 512
      let x := data.take len
      let mac : Option Bank := match u.part with
        | none => none
        | some p => s.inlineKey (s.part p).cfg.mslot storMacNeed
      let may : Prop := (s.unitKey u).isSome = true ∧ (u.part.isSome = true → mac.isSome = true) ∧ len ≤ data.length ∧ s.partRefuses u = false
        ∧ s.grounded = false ∧ s.noLane = false ∧ s.cellarFault = false
      ∃ t, exec (.storageUnitAccept data dram) s = .next t ∧ framed t
        ∧ (¬ may → done u [] ustRefused [] t)
        ∧ (may → s.laneCount = 0 ∨ s.freeEntry .storage = none → t.units = s.units ∧ t.cellar = s.cellar ∧ t.out = s.out)
        ∧ (may → s.laneCount ≠ 0 → (s.freeEntry .storage).isSome = true → ∀ k, s.unitKey u = some k →
            (behind u → ∃ w ∈ t.units, w.buffer = u.buffer ∧ ∃ e c, w.cellar = some e ∧ t.entry e = some c ∧ c.kind = .storage
              ∧ c.input = x ∧ c.valueA = BitVec.ofNat 64 u.lbn)
            ∧ match u.part with
              | none => done u [] ustOk (unitXts k.material (!u.dir) u.lbn x) t
              | some p => ∀ km, mac = some km → match u.entry with
                | none => lost u [] t
                | some (v, tag) =>
                  if u.dir = true then
                    done u [] (if v = 0 then ustVersion else if unitTag km.material p u.dus4k u.lbn v x = tag then ustOk else ustTag)
                      (unitXts k.material false u.lbn x) t
                  else if v = 0xFFFFFFFF then done u [] ustVersion [] t
                  else
                    let cfg := (s.part p).cfg
                    let i := u.lbn - cfg.first
                    let map := cfg.mapAddr (i / 256)
                    let reads := readReqs dram map 1
                    match dramRead dram map 1 with
                    | none => lost u reads t
                    | some b =>
                      let ct := unitXts k.material true u.lbn x
                      let tag := unitTag km.material p u.dus4k u.lbn (v + 1) ct
                      let entry := leBytes 4 (v + 1) ++ zeros 4 ++ padTo 8 tag
                      let bit := [b.getD 0 0 ||| BitVec.ofNat 8 (2 ^ (i / 256 % 8))]
                      let one := reads ++ writeReqs dram (cfg.entryAddr i) entry
                      let both := one ++ writeReqs dram map bit
                      (¬ stores dram (cfg.entryAddr i) 16 → lost u one t)
                      ∧ (stores dram (cfg.entryAddr i) 16 → ¬ stores dram map 1 → lost u both t)
                      ∧ (stores dram (cfg.entryAddr i) 16 → stores dram map 1 → t.out = s.out ++ both ∧ t.units.length = s.units.length
                        ∧ ∃ w ∈ t.units, w.buffer = u.buffer ∧ w.written = some (v + 1, tag) ∧ w.status = none ∧ w.out = ct ∧ w.cellar.isSome = true)))
    ∧ (∀ (buffer ok : Bool),
      ∃ t, exec (.storageEntryWritten buffer ok) s = .next t ∧ framed t
        ∧ ∀ u, s.units.find? (fun u => u.buffer = b2n buffer && u.written.isSome && u.status.isNone) = some u →
          (ok = true → done u [] ustOk u.out t) ∧ (ok = false → lost u [] t))

/-- A command not listed for a partition's state ends with STATE and changes nothing of it. MOUNT and FORMAT latch the configuration, or fail
with the outcome of the first failing check. A passed MOUNT of the committed image whose TUs all open enters MOUNTED, or asks for the
record that abandons or rolls a seal forward; one that rolls back or finds a bad image or TU fails. FORMAT and COMMIT enter SEALING and ask for the intent record, COMMIT once every accepted write has written its
entry. CONFIRM asks for the record of the new epoch, and UNMOUNT waits for the partition's units. PART_DROP drops one that no longer holds. -/
def Obligations.PartitionCommands : Prop :=
  ∀ (s : State) (rid : BitVec 12) (part : Fin 8), s.wf →
    let p := part.val
    let st := s.partState p
    let outcome (t : State) : Nat := t.fld (R.STOR_PART_CTL.OUTCOME p)
    let cmd (op : Nat) : Prop := s.takes rid U.stor R.STOR_CMD.OP.addr (op * 2 ^ 28 + p)
    let written (t : State) : Prop := SameBut ([.anchor, .cmdLate, .parts] ++ recordParts) s t ∧ WordsBut (wrPages 0x30 [0x30] []) s t
    let anyhow (t : State) : Prop := SameBut (.anchor :: tamperParts) s t ∧ WordsBut (wrPages 0x30 tamperPages tamperPages) s t
    let refused (t : State) : Prop := written t ∧ ended U.stor rcState s t ∧ t.partState p = st ∧ t.parts = s.parts ∧ t.anchor = s.anchor
    let fails (o : Nat) (t : State) : Prop := ended U.stor rcBadEntry s t ∧ t.partState p = psUnmounted ∧ outcome t = o
      ∧ (o = poRollback → t.shows E.STOR.ROLLBACK)
    let asks (r : StorRec) (t : State) : Prop := t.anchor = { s.anchor with reqs := s.anchor.reqs ++ [(.storage p r.bytes, 0)] }
      ∧ t.fld R.STOR_CMD_STAT.BUSY = 1
    let c := s.partRegs p
    (∀ dram : Dram, cmd 1 → ∃ t, exec (.mount rid part dram) s = .next t ∧ anyhow t
      ∧ (st ≠ psUnmounted → refused t)
      ∧ (st = psUnmounted → match s.partCheck p c with
          | some o => fails o t ∧ written t
          | none => t.part p = { cfg := c, wait := (t.part p).wait, digest := (t.part p).digest } ∧ match s.storLive p with
            | none => fails poNoRecord t
            | some r =>
              if r.first ≠ c.first ∨ r.count ≠ c.count ∨ r.dus4k ≠ c.dus4k then fails poConfig t
              else match dramRead dram (c.img * 4096) 64, dramRead dram (c.dirAddr 0) (16 * tuCount c.count) with
                | some h, some dir =>
                  let e := beAt h 20 6
                  let mac := slice h 56 8
                  let kt := s.slotKey c.tslot
                  let tus := tuCount c.count
                  let opens (j : Nat) : Prop := ∃ ct, dramRead dram (c.tuAddr j) 4096 = some ct ∧ (let d := slice dir (16 * j) 16
                    beAt d 0 6 ≠ 0 ∧ beAt d 0 6 ≤ e ∧ (gcmTag kt (tuIv p j (beAt d 0 6)) [] ct).take 8 = slice d 8 8)
                  let current : Prop := e = r.epoch ∧ mac = r.digest
                  if h.take 5 ≠ (c.header p e).take 5 ∨ slice h 6 14 ≠ slice (c.header p e) 6 14 ∨ hdrMac kt p e (h.take 56) dir ≠ mac then
                    fails poBadImage t
                  else if current ∨ (r.intent = true ∧ e = r.sealEpoch) then
                    (¬ (∀ j < tus, opens j) → fails poTuFail t ∨ fails poTable t)
                    ∧ ((∀ j < tus, opens j) → ¬ stores dram (c.entryAddr 0) (16 * c.count) ∨ ¬ stores dram (c.mapAddr 0) (ceilDiv tus 8) →
                        fails poTable t)
                    ∧ ((∀ j < tus, opens j) → stores dram (c.entryAddr 0) (16 * c.count) → stores dram (c.mapAddr 0) (ceilDiv tus 8) →
                        (current → r.intent = false → t.partState p = psMounted ∧ ended U.stor rcOk s t ∧ outcome t = poOk)
                        ∧ (current → r.intent = true → t.partState p = psMounting ∧ (t.part p).wait = .mount false
                            ∧ asks { r with intent := false } t)
                        ∧ (¬ current → t.partState p = psMounting ∧ (t.part p).wait = .mount true ∧ (t.part p).digest = mac
                            ∧ asks { r with epoch := e, digest := mac, intent := false } t))
                  else fails poRollback t
                | _, _ => fails poBadImage t))
    ∧ (cmd 2 → ∃ t, exec (.format rid part) s = .next t ∧ written t
      ∧ (st ≠ psUnmounted → refused t)
      ∧ (st = psUnmounted → match s.partCheck p c with
          | some o => fails o t
          | none =>
            let r := (s.storLive p).getD ⟨c.first, c.count, 0, 0, false, c.dus4k, zeros 8⟩
            if s.fld R.KEYS_LC.STATE = 2 ∧ r.epoch ≠ 0 ∧ s.fld R.STOR_CFG.REFORMAT = 0 then fails poConfig t
            else t.partState p = psSealing ∧ t.part p = { cfg := c, wait := .format } ∧ recorded 0x30 0x0038 (BitVec.ofNat 96 (p + r.epoch * 2 ^ 16)) t
              ∧ asks { r with first := c.first, count := c.count, dus4k := c.dus4k, sealEpoch := r.sealEpoch + 1, intent := true } t))
    ∧ (cmd 3 → ∃ t, exec (.storCommit rid part) s = .next t ∧ written t
      ∧ (st ≠ psMounted → refused t)
      ∧ (st = psMounted → t.partState p = psSealing ∧ t.fld R.STOR_CMD_STAT.BUSY = 1
          ∧ (s.unitsOf p true = true → (t.part p).wait = .commitUnits ∧ t.anchor = s.anchor)
          ∧ ∀ r, s.unitsOf p true = false → s.storLive p = some r →
              (t.part p).wait = .commit ∧ asks { r with sealEpoch := r.sealEpoch + 1, intent := true } t))
    ∧ (cmd 4 → ∃ t, exec (.confirm rid part) s = .next t ∧ written t
      ∧ (st ≠ psSealed → refused t)
      ∧ ∀ r, st = psSealed → s.storLive p = some r → t.partState p = psSealed ∧ (t.part p).wait = .confirm
          ∧ asks { r with epoch := r.sealEpoch, digest := (s.part p).digest, intent := false } t)
    ∧ (cmd 5 → ∃ t, exec (.unmount rid part) s = .next t ∧ written t
      ∧ (st ≠ psMounted → st ≠ psSealed → refused t)
      ∧ (st = psMounted ∨ st = psSealed →
          (s.unitsOf p false = true → t.partState p = st ∧ (t.part p).wait = .unmount ∧ t.fld R.STOR_CMD_STAT.BUSY = 1)
          ∧ (s.unitsOf p false = false → t.partState p = psUnmounted ∧ (t.part p).wait = .none ∧ ended U.stor rcOk s t)))
    ∧ (∃ t, exec (.partDrop part) s = .next t ∧ SameBut ([.cmdLate, .parts] ++ recordParts) s t ∧ WordsBut (ownPages [0x30] [0x30]) s t
      ∧ (let dropped (o : Nat) : Prop := t.partState p = psUnmounted ∧ outcome t = o ∧ t.shows E.STOR.PART_DROP ∧ (t.part p).wait = .none
        (psMounted ≤ st → s.tableOk (s.part p).cfg = false → dropped poTable)
        ∧ (psMounted ≤ st → s.tableOk (s.part p).cfg = true → s.active 0x30 = true → c ≠ (s.part p).cfg → dropped poConfig)
        ∧ (st < psMounted ∨ (s.tableOk (s.part p).cfg = true ∧ (s.active 0x30 = false ∨ c = (s.part p).cfg)) → SameBut [] s t)))

/-- LOOSE_CTX_KEY completes: it binds the slot's key, or during an operation is held. GO on an idle context whose checks pass completes with
the operation running under its key, mode, input and chaining words as they stand; it ends with the first failing check's status, and with one
running raises OVERRUN. LOOSE_DONE completes the operation: it stores output and chaining words. On an idle context SAVE_CLEAR and
SAVE_WRAP complete: they write the record, clear or sealed under the wrap key; RESTORE loads a record that passes every check. A command
written during an operation waits, and a second raises OVERRUN; one that needs a lane waits while none is in service. While LOOSE is not
ACTIVE nothing runs. -/
def Obligations.LooseCommands : Prop :=
  ∀ (s : State) (rid : BitVec 12) (c : Fin 4), s.wf →
    let x := s.looseCtx c
    let parts : List Piece := [.anchor, .loose, .nodes, .out, .sched, .slots] ++ recordParts
    let written (t : State) : Prop := SameBut parts s t ∧ WordsBut (wrPages 0x38 (lanePages ++ [0x24, 0x38]) [0x24, 0x38]) s t
    let bound (t : State) : Prop := SameBut (.loose :: recordParts) s t ∧ WordsBut (wrPages 0x38 [0x38] []) s t
    let ignored (t : State) : Prop := SameBut recordParts s t ∧ WordsBut (wrWords 0x38 [] []) s t
    let own (a : Nat) : Prop := ∃ b, 0x38100 + 0x80 * c.val + b = a ∧ b < 0x80 ∧ (b = 0 ∨ b = 8 ∨ 0x40 ≤ b)
    let ends (status : Nat) (t : State) : Prop := t.fld (R.LOOSE_CTX_STAT.BUSY c) = 0 ∧ (t.looseCtx c).busy = .idle
      ∧ t.fld (R.LOOSE_CTX_STAT.STATUS c) = status ∧ t.shows (E.LOOSE.DONE c)
      ∧ (status ≠ 0 → t.shows (E.LOOSE.FAIL c) ∧ t.fld R.LOOSE_FAILS.COUNT = min (s.fld R.LOOSE_FAILS.COUNT + 1) (2 ^ 32 - 1))
    let overruns (t : State) : Prop := t.fld (R.LOOSE_CTX_STAT.OVERRUN c) = 1 ∧ t.shows E.LOOSE.OVERRUN ∧ t.loose = s.loose
    let area := s.looseArea c
    let saved (d : Dram) (b : Bytes) (t : State) : Prop :=
      t.out = s.out ++ writeReqs d area b ∧ ends (if stores d area b.length then 0 else 0x40) t
    let loads (b st : Bytes) (t : State) : Prop := ends 0 t ∧ t.fld (R.LOOSE_CTX_KEY.SLOT c) = leAt b 4 2 ∧ t.fld (R.LOOSE_CTX_KEY.BOUND c) = 1
      ∧ t.fld (R.LOOSE_CTX_KCV.KCV c) = beAt b 12 4 % 2 ^ 32 ∧ t.fld (R.LOOSE_CTX_MODE.MODE c) = leAt b 8 4 % 2 ^ 32
      ∧ (∀ k < 4, ∀ w < 4, t.fld (R.LOOSE_CTX_STATE.WORD c (4 * k + w)) = beAt (slice st (16 * k) 16) (4 * w) 4 % 2 ^ 32)
      ∧ ∀ w < 4, t.fld (R.LOOSE_CTX_IN.WORD c w) = 0 ∧ t.fld (R.LOOSE_CTX_OUT.WORD c w) = 0
    let saveClears (d : Dram) (t : State) : Prop :=
      if (s.fld R.LOOSE_CFG.PRIVATE).testBit c then ends 0x21 t ∧ t.out = s.out
      else saved d (s.looseHeader c 1 0 (zeros 12) ++ (s.looseState c).flatten) t
    let saveWraps (d : Dram) (t : State) : Prop :=
      let w := s.fld (R.LOOSE_CTX_KEY.WSLOT c)
      if s.laneCount = 0 then (t.looseCtx c).busy = .cmd 2 ∧ t.out = s.out
      else match s.useKey w (wrapNeed true) with
      | .error e => ends e.status t
      | .ok b => (s.slot w).bound = .invocation → (s.slot w).inv ≠ 0 → s.anchor.leased = true → (s.slot w).inv.toNat < s.ceiling →
          let iv := beBytes 4 0x4C435458 ++ beBytes 8 (s.slot w).inv.toNat
          let h := s.looseHeader c 2 b.kcv.toNat iv
          let (ct, tag) := gcmSeal b.material iv h (s.looseState c).flatten
          saved d (h ++ ct ++ tag) t ∧ (t.slot w).inv = (s.slot w).inv + 1
    let restores (d : Dram) (t : State) : Prop :=
      if s.laneCount = 0 then (t.looseCtx c).busy = .cmd 3 ∧ t.out = s.out
      else
        let wrapped (b : Bytes) : Bool := decide (b.getD 3 0 = 0x02)
        t.out = s.out ++ readReqs d area 96 ++ readReqs d (area + 96) (if ((dramRead d area 96).map wrapped).getD false then 16 else 0)
        ∧ match dramRead d area 96, dramRead d area 112 with
          | none, _ => ends 0x40 t
          | some b, whole =>
            if wrapped b = false then
              if looseFormatOk b false = false then ends 0x10 t
              else if s.looseKeyThere b = true then loads b (slice b 32 64) t else ends 0x24 t
            else match whole with
              | none => ends 0x40 t
              | some b => if looseFormatOk b true = false then ends 0x10 t
                else match s.useKey (s.fld (R.LOOSE_CTX_KEY.WSLOT c)) (wrapNeed false) with
                  | .error e => ends e.status t
                  | .ok w =>
                    let iv := slice b 20 12
                    if beAt b 16 4 ≠ w.kcv.toNat then ends 0x10 t
                    else if gcmTag w.material iv (b.take 32) (slice b 32 64) ≠ slice b 96 16 then ends 1 t ∧ t.shows E.LOOSE.AUTH_FAIL
                    else if s.looseKeyThere b = true then loads b (gcmOpen w.material iv (slice b 32 64)) t else ends 0x24 t
    let cmd (op : Nat) : Prop := s.accepts rid (R.LOOSE_CTX_CMD.OP c).addr (op * 2 ^ 28)
    let runs (op : Nat) (f : State → Prop) (t : State) : Prop := written t
      ∧ (s.active 0x38 = false → ignored t)
      ∧ (s.active 0x38 = true → x.busy = .idle → f t)
      ∧ (s.active 0x38 = true → ∀ k m inp st, x.busy = .op k m inp st →
          (x.waiting = none → t.looseCtx c = { x with waiting := some op }) ∧ (x.waiting.isSome = true → overruns t))
      ∧ (s.active 0x38 = true → ∀ o, x.busy = .cmd o → overruns t)
    (∀ value : Word, s.accepts rid (R.LOOSE_CTX_KEY.SLOT c).addr value.toNat →
      ∃ t, exec (.looseCtxKey rid c value) s = .next t ∧ bound t
        ∧ match x.busy with
          | .op _ _ _ _ => (t.looseCtx c).writes.length = x.writes.length + 1 ∧ t.fld (R.LOOSE_CTX_KEY.SLOT c) = s.fld (R.LOOSE_CTX_KEY.SLOT c)
          | _ => t.loose = s.loose ∧ t.fld (R.LOOSE_CTX_KEY.SLOT c) = value.toNat % 2 ^ 9
            ∧ t.fld (R.LOOSE_CTX_KEY.WSLOT c) = value.toNat / 2 ^ 16 % 2 ^ 9
            ∧ match (s.slot (value.toNat % 2 ^ 9)).active with
              | some b => t.fld (R.LOOSE_CTX_KCV.KCV c) = b.kcv.toNat ∧ t.fld (R.LOOSE_CTX_KEY.BOUND c) = 1
              | none => t.fld (R.LOOSE_CTX_KCV.KCV c) = 0 ∧ t.fld (R.LOOSE_CTX_KEY.BOUND c) = 0)
    ∧ (s.accepts rid (R.LOOSE_CTX_GO.GO c).addr 1 →
        ∃ t, exec (.go rid c) s = .next t ∧ written t
          ∧ (s.active 0x38 = false ∨ s.shut = true → ignored t)
          ∧ (s.active 0x38 = true → s.shut = false → s.fld (R.LOOSE_CTX_STAT.BUSY c) = 1 → overruns t)
          ∧ (s.active 0x38 = true → s.shut = false → s.fld (R.LOOSE_CTX_STAT.BUSY c) = 0 → (∀ w ∈ x.writes, own w.1) →
              match s.looseCheck c with
              | .error status => ends status t
              | .ok b => t.fld (R.LOOSE_CTX_STAT.BUSY c) = 1
                ∧ (t.looseCtx c).busy = .op ⟨s.fld (R.LOOSE_CTX_KEY.SLOT c), gen16 b⟩
                    (BitVec.ofNat 32 (s.fld (R.LOOSE_CTX_MODE.MODE c))) (s.looseBlock R.LOOSE_CTX_IN.WORD c 0) (s.looseState c)))
    ∧ (∀ dram : Dram, s.heeds → (∀ w ∈ x.writes, own w.1) →
        ∃ t, exec (.looseDone c dram) s = .next t ∧ SameBut (.lanes :: parts) s t
          ∧ WordsBut (ownPages (lanePages ++ [0x24, 0x38]) (lanePages ++ [0x24, 0x38])) s t
          ∧ match x.busy with
            | .idle => SameBut [] s t
            | .cmd op => (op = 1 → saveClears dram t) ∧ (op = 2 → saveWraps dram t) ∧ (op = 3 → restores dram t)
            | .op k m inp st => match s.bankOf k with
              | none => SameBut [] s t
              | some b => s.canWork (.loose c) →
                let r := looseBlockOp b.material m.toNat inp st
                t.fld R.LOOSE_OPS.COUNT = (s.fld R.LOOSE_OPS.COUNT + 1) % 2 ^ 32 ∧ t.shows (E.LOOSE.DONE c)
                ∧ (x.waiting = none → ends 0 t ∧ t.out = s.out)
                ∧ (x.waiting ≠ some 3 → ∀ w < 4, t.fld (R.LOOSE_CTX_OUT.WORD c w) = beAt r.1 (4 * w) 4 % 2 ^ 32)
                ∧ (x.waiting ≠ some 3 → x.writes = [] → ∀ i < 4, ∀ w < 4,
                    t.fld (R.LOOSE_CTX_STATE.WORD c (4 * i + w)) = beAt (r.2.getD i (zeros 16)) (4 * w) 4 % 2 ^ 32))
    ∧ (∀ dram : Dram, cmd 1 → ∃ t, exec (.saveClear rid c dram) s = .next t ∧ runs 1 (saveClears dram) t)
    ∧ (∀ dram : Dram, cmd 2 → ∃ t, exec (.saveWrap rid c dram) s = .next t ∧ runs 2 (saveWraps dram) t)
    ∧ (∀ dram : Dram, cmd 3 → ∃ t, exec (.restore rid c dram) s = .next t ∧ runs 3 (restores dram) t)

/-- FACTORY_CMD while GROUNDED, in FIELD or later, or FUSE_KCV beyond BLANK ends with STATE and an alarm. MBIST runs the selected groups
whose condition holds, clears what their macros held, and reports failed and skipped groups. LOOP_SCAN reports the mismatches of each loop and
the first. SENSOR_TRIP of a testable source reports it. FUSE_KCV gives the check value of the fuse share. -/
def Obligations.FactoryCommands : Prop :=
  ∀ (s : State) (rid : BitVec 12), s.wf →
    let pages : List Nat := [0x03, 0x05, 0x2B, 0x35, 0x36, 0x3C, 0x3E]
    let cmd (op arg : Nat) : Prop := s.takes rid U.factory R.FACTORY_CMD.OP.addr (op * 2 ^ 28 + arg)
    let refused (t : State) : Prop := ended U.factory rcState s t ∧ t.shows E.FACTORY.REFUSED
      ∧ recorded 0x3E 0x0020 (alarmPayload 0 0 0 false 0x3E) t
    let written (t : State) : Prop := SameBut (.cmdLate :: recordParts) s t ∧ WordsBut (wrPages 0x3E [0x3E] []) s t
    let stopped := decide (s.grounded = true ∨ 2 ≤ s.fld R.KEYS_LC.STATE)
    let mask (l : List Nat) : Nat := (l.map fun g => 2 ^ g).sum
    (∀ fails : BitVec 9, cmd 1 0 →
      let sel := (List.range 9).filter fun g => (s.fld R.FACTORY_MBIST_SEL.GROUPS).testBit g
      let ran := sel.filter s.mbistMay
      let bad := ran.filter fun g => fails.getLsbD g
      ∃ t, exec (.mbist rid fails) s = .next t ∧ SameBut ([.chron, .cmdLate, .lookup, .rules, .mem, .slots] ++ recordParts) s t
        ∧ WordsBut (wrPages 0x3E pages pages) s t
        ∧ (stopped = true → refused t ∧ written t)
        ∧ (stopped = false → ended U.factory rcOk s t ∧ t.fld R.FACTORY_MBIST_RES.FAIL = mask bad
            ∧ t.fld R.FACTORY_MBIST_RES.SKIPPED = mask (sel.filter fun g => !s.mbistMay g)
            ∧ (bad ≠ [] → t.shows E.FACTORY.MBIST_FAIL)
            ∧ t.mem.ctr = (if ran.contains 2 then [] else s.mem.ctr) ∧ t.mem.tag = (if ran.contains 3 then [] else s.mem.tag)
            ∧ t.rules = (if ran.contains 6 then [] else s.rules) ∧ t.slots = (if ran.contains 8 then [] else s.slots)))
    ∧ (∀ differs : BitVec 64, cmd 2 0 → ∃ t, exec (.loopScan rid differs) s = .next t ∧ written t
        ∧ (stopped = true → refused t)
        ∧ (stopped = false → ended U.factory rcOk s t ∧ ∀ n < 4,
            let steps := (List.range 16).filter fun k => differs.getLsbD (16 * n + k)
            t.fld (R.FACTORY_LOOP_RESULT.MISMATCH n) = steps.length ∧ t.fld (R.FACTORY_LOOP_RESULT.FIRST n) = steps.headD 0
            ∧ t.fld (R.FACTORY_LOOP_RESULT.ANY n) = (if steps = [] then 0 else 1)))
    ∧ (∀ (arg : BitVec 8) (reported : Bool), cmd 3 arg.toNat → ∃ t, exec (.sensorTrip rid arg reported) s = .next t ∧ written t
        ∧ (stopped = true → refused t)
        ∧ (stopped = false → if arg.toNat ∈ [srcVglitch, srcClk32, srcClkCore, srcTemp] then
            ended U.factory rcOk s t ∧ t.fld R.FACTORY_SENSOR_RESULT.SRC = arg.toNat ∧ t.fld R.FACTORY_SENSOR_RESULT.REPORTED = b2n reported
            else ended U.factory rcBadEntry s t))
    ∧ (cmd 4 0 → ∃ t, exec (.fuseKcv rid) s = .next t ∧ written t
        ∧ (s.grounded = true ∨ s.fld R.KEYS_LC.STATE ≠ 0 → refused t)
        ∧ (s.grounded = false → s.fld R.KEYS_LC.STATE = 0 → ended U.factory rcOk s t
            ∧ t.fld R.FACTORY_FUSE_KCV.KCV = beAt (aesEnc (beBytes 32 (s.keys.fuseA ^^^ s.keys.fuseB).toNat) kcvBlock) 0 4 % 2 ^ 32))

/-- READ shows the 64 bytes of an entry, zeros for a free one. A parity failure of a copy whose macro is not fenced is a gust; with the other
copy's macro fenced the item is lost and counted; at the limit, or when the rewrite fails, the macro is fenced. CELLAR_REPLAY takes the
first entry that waits for its replay, counts it and goes on with it, marked replayed where it runs again; where its complete input no
longer matches its digest, it ends as input changed. An entry that needs a lane waits while none is in service. -/
def Obligations.CellarCommands : Prop :=
  ∀ (s : State) (rid : BitVec 12), s.wf →
    (∀ entry : BitVec 11, s.takes rid U.cellar R.CELLAR_CMD.OP.addr (2 ^ 28 + entry.toNat) →
      ∃ t, exec (.cellarRead rid entry) s = .next t ∧ ended U.cellar rcOk s t ∧ SameBut (.cmdLate :: recordParts) s t
        ∧ WordsBut (wrWords 0x04 (R.CELLAR_CMD_STAT.BUSY.addr :: (List.range 16).map fun w => (R.CELLAR_ENTRY.WORD w).addr) []) s t
        ∧ ∀ w < 16, t.fld (R.CELLAR_ENTRY.WORD w) =
            leAt (match s.entry entry.toNat with | some c => c.bytes | none => zeros 64) (4 * w) 4 % 2 ^ 32)
    ∧ (∀ (entry : BitVec 11) (copyB rewriteBad : Bool),
        let e := entry.toNat
        let fenced (m : Nat) : Bool := (s.fld R.CELLAR_FENCED.MACROS).testBit m
        let m := if copyB then (macrosOf e).2 else (macrosOf e).1
        let other := if copyB then (macrosOf e).1 else (macrosOf e).2
        let n := ((mget (fun _ => []) s.gusts (0x600 + m)).filter fun x =>
          decide (s.now.toNat < x + gustWindow (s.fld R.CELLAR_CFG.GUST_WIN_MS))).length + 1
        let lasting := decide (max 1 (s.fld R.CELLAR_CFG.GUST_LIMIT) ≤ n) || rewriteBad
        ∃ t, exec (.cellarParityError entry copyB rewriteBad) s = .next t
          ∧ Kept [.pending, .srst, .slowed, .bnd, .keys, .slots, .nodes, .rng, .assoc, .parked, .peers, .rules, .lookup, .counters, .anchor,
              .streams, .wake, .tamper, .modules, .lanes, .sched, .engine, .roots, .passes, .parts, .loose, .free] s t
          ∧ (fenced m = true → SameBut [] s t)
          ∧ (fenced m = false → t.shows E.CELLAR.MACRO_GUST ∧ (fenced other = true → t.entry e = none))
          ∧ (fenced m = false → lasting = true → (t.fld R.CELLAR_FENCED.MACROS).testBit m = true ∧ t.shows E.CELLAR.MACRO_FENCED
              ∧ recorded 0x04 0x0020 (alarmPayload 0 2 0 false 0x04) t)
          ∧ (fenced m = false → lasting = false → t.fld R.CELLAR_FENCED.MACROS = s.fld R.CELLAR_FENCED.MACROS
              ∧ (∀ c, s.entry e = some c → fenced other = true → c.kind ≠ .data →
                  t.fld R.CELLAR_LOST.COUNT = min (s.fld R.CELLAR_LOST.COUNT + 1) (2 ^ 32 - 1) ∧ t.shows E.CELLAR.ITEM_LOST
                  ∧ recorded 0x04 0x0014 c.payload t)
              ∧ (fenced other = false → t.cellar.entries = s.cellar.entries)))
    ∧ (∀ (mem : MemView) (dram : Dram),
        ∃ t, exec (.cellarReplay mem dram) s = .next t
          ∧ Kept [.pending, .srst, .slowed, .readShadow, .writeShadow, .bnd, .modules, .assoc, .parked, .peers, .rules, .lookup, .anchor,
              .engine, .free] s t
          ∧ (s.cellar.replay.find? s.replayHeld = none → SameBut [] s t)
          ∧ ∀ e c, s.cellar.replay.find? s.replayHeld = some e → s.entry e = some c →
              let lanes : Prop := c.kind = .queue ∨ (∀ k ∈ c.keys, k = none) ∨ s.laneCount ≠ 0
              (¬ lanes → SameBut [] s t)
              ∧ (lanes → t.fld R.CELLAR_REPLAYS.COUNT = min (s.fld R.CELLAR_REPLAYS.COUNT + 1) (2 ^ 32 - 1)
                ∧ (c.kind = .storage ∨ c.kind = .queue → ∀ c2, t.entry e = some c2 → c2.resumed = true
                    ∧ (c.kind = .queue ∨ c.st = .accepted → c2.replayed = true))
                ∧ (∀ hd, s.cellar.hd = some hd → c.kind = .memWr ∨ (c.kind = .storage ∧ c.st = .accepted) → c.digest ≠ 0 → c.digestDone = true →
                    digestOf hd c.input ≠ c.digest → (∀ k ∈ c.keys, ∀ x, k = some x → (s.bankOf x).isSome = true) →
                    t.fld R.CELLAR_CHANGED.COUNT = min (s.fld R.CELLAR_CHANGED.COUNT + 1) (2 ^ 32 - 1)
                    ∧ t.shows E.CELLAR.INPUT_CHANGED ∧ recorded 0x04 0x0016 c.changedPayload t)))
end

