-- ==== Sys2Proof/Laws/Map.lean ====
section
/-! SUPPORT. The laws of sparse maps: a read after a write, and the canonical form. -/
namespace Sys2Proof.Machine

theorem mget_mins_same {α : Type} (d : Nat → α) (m : SMap α) (k : Nat) (v : α) : mget d (mins k v m) k = v := by
  induction m with
  | nil => simp [mins, mget]
  | cons p r ih =>
    obtain ⟨a, x⟩ := p
    simp only [mins]
    split
    · simp [mget]
    · split
      · simp [mget]
      · rename_i h1 h2; simp [mget, ih, Ne.symm h2]

theorem mget_mins_other {α : Type} (d : Nat → α) (m : SMap α) (k j : Nat) (v : α) (h : j ≠ k) :
    mget d (mins k v m) j = mget d m j := by
  induction m with
  | nil => simp [mins, mget, Ne.symm h]
  | cons p r ih =>
    obtain ⟨a, x⟩ := p
    simp only [mins]
    split
    · simp [mget, Ne.symm h]
    · split
      · rename_i h1 h2; subst h2; simp [mget, Ne.symm h]
      · simp only [mget, ih]

theorem mget_mdel_same {α : Type} (d : Nat → α) (m : SMap α) (k : Nat) : mget d (mdel k m) k = d k := by
  induction m with
  | nil => simp [mdel, mget]
  | cons p r ih =>
    obtain ⟨a, x⟩ := p
    simp only [mdel]
    split
    · exact ih
    · rename_i h; simp [mget, h, ih]

theorem mget_mdel_other {α : Type} (d : Nat → α) (m : SMap α) (k j : Nat) (h : j ≠ k) :
    mget d (mdel k m) j = mget d m j := by
  induction m with
  | nil => simp [mdel]
  | cons p r ih =>
    obtain ⟨a, x⟩ := p
    simp only [mdel]
    split
    · rename_i h1; subst h1; simp [mget, ih, Ne.symm h]
    · simp only [mget, ih]

variable {α : Type} [DecidableEq α]

/-- What is written is read. -/
@[simp] theorem mget_mset_same (d : Nat → α) (m : SMap α) (k : Nat) (v : α) : mget d (mset d m k v) k = v := by
  simp only [mset]
  split
  · rename_i h; rw [mget_mdel_same, h]
  · exact mget_mins_same d m k v

/-- A write leaves every other key alone. -/
theorem mget_mset_other (d : Nat → α) (m : SMap α) (k j : Nat) (v : α) (h : j ≠ k) :
    mget d (mset d m k v) j = mget d m j := by
  simp only [mset]
  split
  · exact mget_mdel_other d m k j h
  · exact mget_mins_other d m k j v h

/-! ### The canonical form -/

omit [DecidableEq α] in
theorem msorted_some (b : Nat) (m : SMap α) : msorted (some b) m = true ↔ (∀ p ∈ m, b < p.1) ∧ msorted none m = true := by
  induction m generalizing b with
  | nil => simp [msorted]
  | cons p r ih =>
    obtain ⟨a, x⟩ := p
    simp only [msorted, Bool.and_eq_true, decide_eq_true_eq, List.forall_mem_cons]
    constructor
    · rintro ⟨h1, h2⟩
      have h3 := (ih a).1 h2
      exact ⟨⟨h1, fun q hq => lt_trans h1 (h3.1 q hq)⟩, h2⟩
    · rintro ⟨⟨h1, -⟩, h2⟩
      exact ⟨h1, h2⟩

omit [DecidableEq α] in
theorem mem_mins {k : Nat} {v : α} {m : SMap α} {p : Nat × α} (h : p ∈ mins k v m) : p = (k, v) ∨ p ∈ m := by
  induction m with
  | nil => simpa [mins] using h
  | cons q r ih =>
    obtain ⟨a, x⟩ := q
    simp only [mins] at h
    split at h
    · simpa using h
    · split at h
      · rcases List.mem_cons.1 h with h | h
        · exact .inl h
        · exact .inr (List.mem_cons_of_mem _ h)
      · rcases List.mem_cons.1 h with h | h
        · exact .inr (by simp [h])
        · rcases ih h with h | h
          · exact .inl h
          · exact .inr (List.mem_cons_of_mem _ h)

omit [DecidableEq α] in
theorem mem_mdel {k : Nat} {m : SMap α} {p : Nat × α} (h : p ∈ mdel k m) : p ∈ m := by
  induction m with
  | nil => simp [mdel] at h
  | cons q r ih =>
    obtain ⟨a, x⟩ := q
    simp only [mdel] at h
    split at h
    · exact List.mem_cons_of_mem _ (ih h)
    · rcases List.mem_cons.1 h with h | h
      · simp [h]
      · exact List.mem_cons_of_mem _ (ih h)

omit [DecidableEq α] in
theorem msorted_mins (k : Nat) (v : α) (m : SMap α) (h : msorted none m = true) : msorted none (mins k v m) = true := by
  induction m with
  | nil => simp [mins, msorted]
  | cons q r ih =>
    obtain ⟨a, x⟩ := q
    have hr := (msorted_some a r).1 (by simpa [msorted] using h)
    simp only [mins]
    split
    · rename_i hk
      simp only [msorted, Bool.and_eq_true, decide_eq_true_eq]
      exact ⟨hk, by simpa [msorted] using h⟩
    · split
      · rename_i h2; subst h2
        simpa [msorted] using h
      · simp only [msorted]
        refine (msorted_some a _).2 ⟨fun p hp => ?_, ih hr.2⟩
        rcases mem_mins hp with hp | hp
        · subst hp; simp; omega
        · exact hr.1 p hp

omit [DecidableEq α] in
theorem msorted_mdel (k : Nat) (m : SMap α) (h : msorted none m = true) : msorted none (mdel k m) = true := by
  induction m with
  | nil => simp [mdel, msorted]
  | cons q r ih =>
    obtain ⟨a, x⟩ := q
    have hr := (msorted_some a r).1 (by simpa [msorted] using h)
    simp only [mdel]
    split
    · exact ih hr.2
    · simp only [msorted]
      exact (msorted_some a _).2 ⟨fun p hp => hr.1 p (mem_mdel hp), ih hr.2⟩

/-- A write keeps the canonical form. -/
theorem mwf_mset (d : Nat → α) (m : SMap α) (k : Nat) (v : α) (h : mwf d m = true) : mwf d (mset d m k v) = true := by
  simp only [mwf, Bool.and_eq_true, List.all_eq_true] at h ⊢
  simp only [mset]
  split
  · exact ⟨msorted_mdel k m h.1, fun p hp => h.2 p (mem_mdel hp)⟩
  · rename_i hv
    refine ⟨msorted_mins k v m h.1, fun p hp => ?_⟩
    rcases mem_mins hp with hp | hp
    · subst hp; simpa using hv
    · exact h.2 p hp

@[simp] theorem mwf_nil (d : Nat → α) : mwf d [] = true := by simp [mwf, msorted]

/-- Dropping entries keeps it. -/
theorem mwf_filter (d : Nat → α) (m : SMap α) (f : Nat × α → Bool) (h : mwf d m = true) : mwf d (m.filter f) = true := by
  simp only [mwf, Bool.and_eq_true, List.all_eq_true] at h ⊢
  refine ⟨?_, fun p hp => h.2 p (List.mem_filter.1 hp).1⟩
  have key : ∀ l : SMap α, msorted none l = true → msorted none (l.filter f) = true := by
    intro l
    induction l with
    | nil => simp [msorted]
    | cons q r ih =>
      obtain ⟨a, x⟩ := q
      intro hl
      have hr := (msorted_some a r).1 (by simpa [msorted] using hl)
      by_cases hf : f (a, x)
      · rw [List.filter_cons_of_pos hf]
        simp only [msorted]
        exact (msorted_some a _).2 ⟨fun p hp => hr.1 p (List.mem_filter.1 hp).1, ih hr.2⟩
      · rw [List.filter_cons_of_neg hf]
        exact ih hr.2
  exact key m h.1

omit [DecidableEq α] in
/-- A key below every listed one is unlisted. -/
theorem mget_of_lt (d : Nat → α) (m : SMap α) (k : Nat) (h : ∀ p ∈ m, k < p.1) : mget d m k = d k := by
  induction m with
  | nil => rfl
  | cons q r ih =>
    obtain ⟨a, x⟩ := q
    have h1 : k < a := h (a, x) (by simp)
    simp only [mget]
    rw [if_neg (by omega)]
    exact ih fun p hp => h p (List.mem_cons_of_mem _ hp)

end Sys2Proof.Machine
end

