-- ==== Sys2Proof/Laws/Prog.lean ====
section
/-! SUPPORT. How programs run, and their footprints: which primitive changes a program can make. -/
namespace Sys2Proof.Machine
open Sys2Proof

variable {α β : Type}

@[simp] theorem M.pure_apply (a : α) (s : State) (l : List Prim) : (pure a : M α) s l = (a, l) := rfl
@[simp] theorem M.bind_apply (m : M α) (f : α → M β) (s : State) (l : List Prim) :
    (m >>= f) s l = f (m s l).1 s (m s l).2 := rfl
@[simp] theorem M.map_apply (m : M α) (f : α → β) (s : State) (l : List Prim) :
    (f <$> m) s l = (f (m s l).1, (m s l).2) := rfl
@[simp] theorem getS_apply (s : State) (l : List Prim) : getS s l = (runAll l s, l) := rfl
@[simp] theorem prim_apply (p : Prim) (s : State) (l : List Prim) : prim p s l = ((), p :: l) := rfl
@[simp] theorem runAll_nil (s : State) : runAll [] s = s := rfl
@[simp] theorem runAll_cons (p : Prim) (l : List Prim) (s : State) : runAll (p :: l) s = p.run (runAll l s) := rfl

theorem runAll_append (k l : List Prim) (s : State) : runAll (k ++ l) s = runAll k (runAll l s) := by
  induction k with
  | nil => rfl
  | cons p k ih => simp [ih]

theorem exec1_eq (m : M Unit) (s : State) : exec1 m s = .next (runAll (m s []).2 s) := rfl

/-! ### Footprints -/

/-- Every primitive change that the program makes, in whatever state, satisfies `P`. -/
def Foot (P : Prim → Prop) (m : M α) : Prop :=
  ∀ s l, ∃ k, (m s l).2 = k ++ l ∧ ∀ p ∈ k, P p

theorem foot_pure (P : Prim → Prop) (a : α) : Foot P (pure a : M α) := fun _ _ => ⟨[], by simp⟩

theorem foot_getS (P : Prim → Prop) : Foot P getS := fun _ _ => ⟨[], by simp⟩

theorem foot_prim {P : Prim → Prop} {p : Prim} (h : P p) : Foot P (prim p) := fun _ _ => ⟨[p], by simpa using h⟩

theorem foot_bind {P : Prim → Prop} {m : M α} {f : α → M β} (hm : Foot P m) (hf : ∀ a, Foot P (f a)) : Foot P (m >>= f) := by
  intro s l
  obtain ⟨k, hk, hp⟩ := hm s l
  obtain ⟨k2, hk2, hp2⟩ := hf (m s l).1 s (m s l).2
  refine ⟨k2 ++ k, by rw [M.bind_apply, hk2, hk, List.append_assoc], fun p h => ?_⟩
  rcases List.mem_append.1 h with h | h
  · exact hp2 p h
  · exact hp p h

theorem foot_ite {P : Prim → Prop} {c : Prop} [Decidable c] {m n : M α} (hm : Foot P m) (hn : Foot P n) :
    Foot P (if c then m else n) := by
  split
  · exact hm
  · exact hn

theorem foot_mono {P Q : Prim → Prop} (h : ∀ p, P p → Q p) {m : M α} (hm : Foot P m) : Foot Q m := by
  intro s l
  obtain ⟨k, hk, hp⟩ := hm s l
  exact ⟨k, hk, fun p q => h p (hp p q)⟩

theorem foot_forM {γ : Type} {P : Prim → Prop} (xs : List γ) {f : γ → M Unit} (h : ∀ x, Foot P (f x)) : Foot P (forM xs f) := by
  induction xs with
  | nil => exact foot_pure P ()
  | cons x xs ih => exact foot_bind (h x) fun _ => ih

/-- What every primitive change of a footprint keeps, the program keeps. -/
theorem foot_keeps {P : Prim → Prop} {m : M α} (hm : Foot P m) {I : State → Prop} (hI : ∀ p s, P p → I s → I (p.run s))
    (s : State) (l : List Prim) (h : I (runAll l s)) : I (runAll (m s l).2 s) := by
  obtain ⟨k, hk, hp⟩ := hm s l
  rw [hk, runAll_append]
  clear hk
  induction k with
  | nil => exact h
  | cons p k ih =>
    rw [runAll_cons]
    exact hI p _ (hp p (by simp)) (ih fun q hq => hp q (List.mem_cons_of_mem _ hq))

end Sys2Proof.Machine
end

