-- ==== Sys2Proof/Laws/Fields.lean ====
section
/-! SUPPORT. The laws of register fields: what a field reads as after it is stored, and what a store leaves alone. -/
namespace Sys2Proof.Machine
open Sys2Proof

/-! ### One word -/

theorem testBit_maskBits (hi lo i : Nat) (h : lo ≤ hi) : (maskBits hi lo).testBit i = decide (lo ≤ i ∧ i ≤ hi) := by
  have e : maskBits hi lo = 2 ^ lo * (2 ^ (hi + 1 - lo) - 1) := by
    rw [maskBits, Nat.mul_sub, ← pow_add, Nat.mul_one]
    congr 2
    omega
  rw [e, Nat.testBit_two_pow_mul, Nat.testBit_two_pow_sub_one]
  by_cases h1 : lo ≤ i
  · simp only [h1, decide_true, true_and]
    by_cases h2 : i ≤ hi
    · simp [h2]; omega
    · simp [h2]; omega
  · simp [h1]

theorem wordOf_zero (v : Nat) : wordOf v 0 = v % 2 ^ 32 := by simp [wordOf]

/-- Bit `i` of a word into which a field of its first 32 bits has been stored. -/
theorem getLsbD_spliceWord (old : Word) (f : RegField) (v i : Nat) (h : f.lo ≤ f.hi) (hi : i < 32) :
    (spliceWord old f v 0).getLsbD i = if f.lo ≤ i ∧ i ≤ f.hi then v.testBit (i - f.lo) else old.getLsbD i := by
  have e : v % 2 ^ (f.hi - f.lo + 1) * 2 ^ f.lo = 2 ^ f.lo * (v % 2 ^ (f.hi - f.lo + 1)) := Nat.mul_comm _ _
  simp only [spliceWord, wordOf_zero, e, BitVec.getLsbD_or, BitVec.getLsbD_and, BitVec.getLsbD_not, BitVec.getLsbD_ofNat, hi,
    decide_true, Bool.true_and, Nat.testBit_mod_two_pow, testBit_maskBits _ _ _ h, Nat.testBit_two_pow_mul]
  by_cases h1 : f.lo ≤ i
  · by_cases h2 : i ≤ f.hi
    · have h3 : i - f.lo < f.hi - f.lo + 1 := by omega
      simp [h1, h2, h3]
    · simp [h1, h2]
  · simp [h1]

/-- A field within the first word reads as what has been stored in it, modulo its width. -/
theorem fieldVal_setFieldVal (r : RegFile) (f : RegField) (v : Nat) (h : f.lo ≤ f.hi) (h32 : f.hi < 32) :
    fieldVal (setFieldVal r f v) f = v % 2 ^ (f.hi - f.lo + 1) := by
  have hlo : f.lo < 32 := by omega
  have e : setFieldVal r f v = setRegWord r f.addr (spliceWord (regWord r f.addr) f v 0) := by
    simp only [setFieldVal, hlo, if_true]
    rw [if_neg (by omega), if_neg (by omega)]
  rw [e, fieldVal, if_pos h32, regWord, setRegWord, mget_mset_same]
  apply Nat.eq_of_testBit_eq
  intro i
  rw [Nat.testBit_mod_two_pow, Nat.testBit_mod_two_pow, Nat.testBit_div_two_pow]
  by_cases hi : i < f.hi - f.lo + 1
  · have h2 : f.lo + i < 32 := by omega
    have := getLsbD_spliceWord (regWord r f.addr) f v (f.lo + i) h h2
    rw [if_pos (by omega)] at this
    simp only [hi, decide_true, Bool.true_and]
    rw [show i + f.lo = f.lo + i from Nat.add_comm _ _, ← BitVec.getLsbD, this]
    congr 1
    omega
  · simp [hi]

/-- A store leaves a field of another word alone. -/
theorem regWord_setFieldVal_other (r : RegFile) (f : RegField) (v a : Nat)
    (h : a ≠ f.addr) (h4 : a ≠ f.addr + 4) (h8 : a ≠ f.addr + 8) : regWord (setFieldVal r f v) a = regWord r a := by
  simp only [setFieldVal, regWord, setRegWord]
  split <;> split <;> split <;> simp only [mget_mset_other _ _ _ _ _ h, mget_mset_other _ _ _ _ _ h4, mget_mset_other _ _ _ _ _ h8]

/-- A store of a field within one word leaves every other word alone. -/
theorem regWord_setFieldVal_one (r : RegFile) (f : RegField) (v a : Nat) (h32 : f.hi < 32) (h : a ≠ f.addr) :
    regWord (setFieldVal r f v) a = regWord r a := by
  simp only [setFieldVal, regWord, setRegWord]
  rw [if_neg (by omega), if_neg (by omega)]
  split
  · rw [mget_mset_other _ _ _ _ _ h]
  · rfl

/-- A store leaves a field of the same word alone whose bits it does not touch. -/
theorem fieldVal_setFieldVal_disjoint (r : RegFile) (f g : RegField) (v : Nat) (ha : g.addr = f.addr) (h : f.lo ≤ f.hi)
    (h32 : f.hi < 32) (g32 : g.hi < 32) (hg : g.lo ≤ g.hi) (hd : f.hi < g.lo ∨ g.hi < f.lo) :
    fieldVal (setFieldVal r f v) g = fieldVal r g := by
  have hlo : f.lo < 32 := by omega
  have e : setFieldVal r f v = setRegWord r f.addr (spliceWord (regWord r f.addr) f v 0) := by
    simp only [setFieldVal, hlo, if_true]
    rw [if_neg (by omega), if_neg (by omega)]
  rw [e, fieldVal, fieldVal, if_pos g32, if_pos g32, ha]
  simp only [regWord, setRegWord, mget_mset_same]
  apply Nat.eq_of_testBit_eq
  intro i
  rw [Nat.testBit_mod_two_pow, Nat.testBit_mod_two_pow, Nat.testBit_div_two_pow, Nat.testBit_div_two_pow]
  by_cases hi : i < g.hi - g.lo + 1
  · have h2 : i + g.lo < 32 := by omega
    have := getLsbD_spliceWord (regWord r f.addr) f v (i + g.lo) h h2
    rw [if_neg (by omega)] at this
    simp only [regWord] at this
    simp only [hi, decide_true, Bool.true_and]
    exact this
  · simp [hi]

/-! ### The named operations -/

/-- The state that a program leaves, from the state `runAll l s` it starts in. -/
theorem runAll_wr (f : RegField) (v : Nat) (s : State) (l : List Prim) :
    runAll (wr f v s l).2 s = { runAll l s with regs := setFieldVal (runAll l s).regs f v } := by
  simp only [wr, wrWord, M.bind_apply, getS_apply, setFieldVal]
  split <;> split <;> split <;> simp [Prim.run]

theorem rd_apply (f : RegField) (s : State) (l : List Prim) : rd f s l = (fieldVal (runAll l s).regs f, l) := rfl

theorem foot_wr (P : Prim → Prop) (f : RegField) (v : Nat) (h : ∀ a w, a = f.addr ∨ a = f.addr + 4 ∨ a = f.addr + 8 → P (.reg a w)) :
    Foot P (wr f v) := by
  unfold wr
  refine foot_bind (foot_getS P) fun s => ?_
  dsimp only
  split
  all_goals try refine foot_bind (foot_prim (h _ _ (by simp))) fun _ => ?_
  all_goals split
  all_goals try refine foot_bind (foot_prim (h _ _ (by simp))) fun _ => ?_
  all_goals split
  all_goals first | exact foot_prim (h _ _ (by simp)) | exact foot_pure P ()

end Sys2Proof.Machine
end

