-- ==== Sys2Proof/Laws/State.lean ====
section
/-! SUPPORT. The laws of State: what each primitive change leaves in each field, which pieces it changes, and that it keeps the
canonical form of every map. Proofs cite these and never unfold a record update. -/
namespace Sys2Proof.Machine
open Sys2Proof

/-! ### One lemma per field -/

@[simp] theorem Prim.run_pending (p : Prim) (s : State) : (p.run s).pending = s.pending := by cases p <;> rfl
@[simp] theorem Prim.run_regs (p : Prim) (s : State) : (p.run s).regs = match p with
  | .reg a w => setRegWord s.regs a w 
  | .regsKeep => keepRegs s.regs 
  | .regsClear => []
  | _ => s.regs := by
  cases p <;> rfl
@[simp] theorem Prim.run_srst (p : Prim) (s : State) : (p.run s).srst = match p with
  | .srst p n => mset (fun _ => 0) s.srst p n 
  | .srstClear => []
  | _ => s.srst := by
  cases p <;> rfl
@[simp] theorem Prim.run_slowed (p : Prim) (s : State) : (p.run s).slowed = match p with
  | .slowed p b => mset (fun _ => false) s.slowed p b 
  | .slowedClear => []
  | _ => s.slowed := by
  cases p <;> rfl
@[simp] theorem Prim.run_readShadow (p : Prim) (s : State) : (p.run s).readShadow = match p with
  | .readShadow a v => mset (fun _ => none) s.readShadow a v 
  | .shadowsClear => []
  | _ => s.readShadow := by
  cases p <;> rfl
@[simp] theorem Prim.run_writeShadow (p : Prim) (s : State) : (p.run s).writeShadow = match p with
  | .writeShadow a v => mset (fun _ => none) s.writeShadow a v 
  | .shadowsClear => []
  | _ => s.writeShadow := by
  cases p <;> rfl
@[simp] theorem Prim.run_gusts (p : Prim) (s : State) : (p.run s).gusts = match p with
  | .gust u l => mset (fun _ => []) s.gusts u l 
  | .gustsKeep us => s.gusts.filter fun p => us.contains p.1
  | _ => s.gusts := by
  cases p <;> rfl
@[simp] theorem Prim.run_cmdLate (p : Prim) (s : State) : (p.run s).cmdLate = match p with
  | .cmdLate p b => mset (fun _ => false) s.cmdLate p b 
  | .cmdLateClear => []
  | _ => s.cmdLate := by
  cases p <;> rfl
@[simp] theorem Prim.run_bnd (p : Prim) (s : State) : (p.run s).bnd = match p with
  | .bnd b => b
  | _ => s.bnd := by
  cases p <;> rfl
@[simp] theorem Prim.run_time (p : Prim) (s : State) : (p.run s).time = match p with
  | .time t => t
  | _ => s.time := by
  cases p <;> rfl
@[simp] theorem Prim.run_chron (p : Prim) (s : State) : (p.run s).chron = match p with
  | .chron c => c
  | _ => s.chron := by
  cases p <;> rfl
@[simp] theorem Prim.run_counted (p : Prim) (s : State) : (p.run s).counted = match p with
  | .counted k c => mset (fun _ => none) s.counted k c
  | _ => s.counted := by
  cases p <;> rfl
@[simp] theorem Prim.run_keys (p : Prim) (s : State) : (p.run s).keys = match p with
  | .keys k => k
  | _ => s.keys := by
  cases p <;> rfl
@[simp] theorem Prim.run_slots (p : Prim) (s : State) : (p.run s).slots = match p with
  | .slot n v => mset (fun _ => {}) s.slots n v 
  | .slotsClear => []
  | _ => s.slots := by
  cases p <;> rfl
@[simp] theorem Prim.run_nodes (p : Prim) (s : State) : (p.run s).nodes = match p with
  | .node n v => mset (fun _ => {}) s.nodes n v 
  | .nodesClear => []
  | _ => s.nodes := by
  cases p <;> rfl
@[simp] theorem Prim.run_rng (p : Prim) (s : State) : (p.run s).rng = match p with
  | .rng r => r
  | _ => s.rng := by
  cases p <;> rfl
@[simp] theorem Prim.run_drawn (p : Prim) (s : State) : (p.run s).drawn = match p with
  | .drawn e b => mset (fun _ => []) s.drawn e b 
  | .drawnClear => []
  | _ => s.drawn := by
  cases p <;> rfl
@[simp] theorem Prim.run_blinded (p : Prim) (s : State) : (p.run s).blinded = match p with
  | .blinded e b => mset (fun _ => []) s.blinded e b 
  | .drawnClear => []
  | _ => s.blinded := by
  cases p <;> rfl
@[simp] theorem Prim.run_cellar (p : Prim) (s : State) : (p.run s).cellar = match p with
  | .cellar c => { c with entries := s.cellar.entries } 
  | .centry n e => { s.cellar with entries := mset (fun _ => none) s.cellar.entries n e }
  | _ => s.cellar := by
  cases p <;> rfl
@[simp] theorem Prim.run_assoc (p : Prim) (s : State) : (p.run s).assoc = match p with
  | .assoc l e => mset (fun _ => none) s.assoc l e 
  | .assocClear => []
  | _ => s.assoc := by
  cases p <;> rfl
@[simp] theorem Prim.run_parked (p : Prim) (s : State) : (p.run s).parked = match p with
  | .parked l b => mset (fun _ => false) s.parked l b 
  | .parkedClear => []
  | _ => s.parked := by
  cases p <;> rfl
@[simp] theorem Prim.run_peers (p : Prim) (s : State) : (p.run s).peers = match p with
  | .peer n b => mset (fun _ => none) s.peers n b 
  | .peersClear => []
  | _ => s.peers := by
  cases p <;> rfl
@[simp] theorem Prim.run_rules (p : Prim) (s : State) : (p.run s).rules = match p with
  | .rule n r => mset (fun _ => {}) s.rules n r 
  | .rulesClear => []
  | _ => s.rules := by
  cases p <;> rfl
@[simp] theorem Prim.run_lookup (p : Prim) (s : State) : (p.run s).lookup = match p with
  | .lookup l => l
  | _ => s.lookup := by
  cases p <;> rfl
@[simp] theorem Prim.run_counters (p : Prim) (s : State) : (p.run s).counters = match p with
  | .counter h c => mset (fun _ => {}) s.counters h c 
  | .countersClear => []
  | _ => s.counters := by
  cases p <;> rfl
@[simp] theorem Prim.run_anchor (p : Prim) (s : State) : (p.run s).anchor = match p with
  | .anchor a => a
  | _ => s.anchor := by
  cases p <;> rfl
@[simp] theorem Prim.run_ports (p : Prim) (s : State) : (p.run s).ports = match p with
  | .port n p => mset (fun _ => {}) s.ports n p 
  | .portsClear => []
  | _ => s.ports := by
  cases p <;> rfl
@[simp] theorem Prim.run_streams (p : Prim) (s : State) : (p.run s).streams = match p with
  | .streams t => t
  | _ => s.streams := by
  cases p <;> rfl
@[simp] theorem Prim.run_power (p : Prim) (s : State) : (p.run s).power = match p with
  | .power p => p
  | _ => s.power := by
  cases p <;> rfl
@[simp] theorem Prim.run_wake (p : Prim) (s : State) : (p.run s).wake = match p with
  | .wake w => w
  | _ => s.wake := by
  cases p <;> rfl
@[simp] theorem Prim.run_tamper (p : Prim) (s : State) : (p.run s).tamper = match p with
  | .tamper t => t
  | _ => s.tamper := by
  cases p <;> rfl
@[simp] theorem Prim.run_modules (p : Prim) (s : State) : (p.run s).modules = match p with
  | .modInput n m => mset (fun _ => {}) s.modules n m
  | _ => s.modules := by
  cases p <;> rfl
@[simp] theorem Prim.run_lanes (p : Prim) (s : State) : (p.run s).lanes = match p with
  | .lane n l => mset (fun _ => {}) s.lanes n l
  | _ => s.lanes := by
  cases p <;> rfl
@[simp] theorem Prim.run_sched (p : Prim) (s : State) : (p.run s).sched = match p with
  | .sched c => c
  | _ => s.sched := by
  cases p <;> rfl
@[simp] theorem Prim.run_queues (p : Prim) (s : State) : (p.run s).queues = match p with
  | .queue n q => mset (fun _ => {}) s.queues n q 
  | .queuesClear => []
  | _ => s.queues := by
  cases p <;> rfl
@[simp] theorem Prim.run_engine (p : Prim) (s : State) : (p.run s).engine = match p with
  | .engine e => e
  | _ => s.engine := by
  cases p <;> rfl
@[simp] theorem Prim.run_mem (p : Prim) (s : State) : (p.run s).mem = match p with
  | .mem m => { m with txns := s.mem.txns } 
  | .txn n t => { s.mem with txns := mset (fun _ => none) s.mem.txns n t } 
  | .txnsClear => { s.mem with txns := [] }
  | _ => s.mem := by
  cases p <;> rfl
@[simp] theorem Prim.run_roots (p : Prim) (s : State) : (p.run s).roots = match p with
  | .root n b => mset (fun _ => none) s.roots n b 
  | .rootsClear => []
  | _ => s.roots := by
  cases p <;> rfl
@[simp] theorem Prim.run_passes (p : Prim) (s : State) : (p.run s).passes = match p with
  | .passes l => l
  | _ => s.passes := by
  cases p <;> rfl
@[simp] theorem Prim.run_units (p : Prim) (s : State) : (p.run s).units = match p with
  | .units l => l
  | _ => s.units := by
  cases p <;> rfl
@[simp] theorem Prim.run_parts (p : Prim) (s : State) : (p.run s).parts = match p with
  | .part n p => mset (fun _ => {}) s.parts n p 
  | .partsClear => []
  | _ => s.parts := by
  cases p <;> rfl
@[simp] theorem Prim.run_loose (p : Prim) (s : State) : (p.run s).loose = match p with
  | .loose n c => mset (fun _ => {}) s.loose n c 
  | .looseClear => []
  | _ => s.loose := by
  cases p <;> rfl
@[simp] theorem Prim.run_out (p : Prim) (s : State) : (p.run s).out = match p with
  | .out o => s.out ++ [o]
  | _ => s.out := by
  cases p <;> rfl
@[simp] theorem Prim.run_free (p : Prim) (s : State) : (p.run s).free = match p with
  | .free n => n
  | _ => s.free := by
  cases p <;> rfl

/-! ### Pieces -/

/-- The pieces of State that a primitive change writes. -/
def Prim.pieces : Prim → List Piece
  | .reg _ _ => [.regs]
  | .regsKeep => [.regs]
  | .regsClear => [.regs]
  | .srst _ _ => [.srst]
  | .srstClear => [.srst]
  | .slowed _ _ => [.slowed]
  | .slowedClear => [.slowed]
  | .readShadow _ _ => [.readShadow]
  | .writeShadow _ _ => [.writeShadow]
  | .shadowsClear => [.readShadow, .writeShadow]
  | .gust _ _ => [.gusts]
  | .gustsKeep _ => [.gusts]
  | .cmdLate _ _ => [.cmdLate]
  | .cmdLateClear => [.cmdLate]
  | .bnd _ => [.bnd]
  | .time _ => [.time]
  | .chron _ => [.chron]
  | .keys _ => [.keys]
  | .slot _ _ => [.slots]
  | .slotsClear => [.slots]
  | .node _ _ => [.nodes]
  | .nodesClear => [.nodes]
  | .rng _ => [.rng]
  | .drawn _ _ => [.drawn]
  | .blinded _ _ => [.drawn]
  | .drawnClear => [.drawn]
  | .counted _ _ => [.counted]
  | .cellar _ => [.cellar]
  | .centry _ _ => [.cellar]
  | .assoc _ _ => [.assoc]
  | .assocClear => [.assoc]
  | .parked _ _ => [.parked]
  | .parkedClear => [.parked]
  | .peer _ _ => [.peers]
  | .peersClear => [.peers]
  | .rule _ _ => [.rules]
  | .rulesClear => [.rules]
  | .lookup _ => [.lookup]
  | .counter _ _ => [.counters]
  | .countersClear => [.counters]
  | .anchor _ => [.anchor]
  | .port _ _ => [.ports]
  | .portsClear => [.ports]
  | .streams _ => [.streams]
  | .power _ => [.power]
  | .wake _ => [.wake]
  | .tamper _ => [.tamper]
  | .modInput _ _ => [.modules]
  | .lane _ _ => [.lanes]
  | .sched _ => [.sched]
  | .queue _ _ => [.queues]
  | .queuesClear => [.queues]
  | .engine _ => [.engine]
  | .mem _ => [.mem]
  | .txn _ _ => [.mem]
  | .txnsClear => [.mem]
  | .root _ _ => [.roots]
  | .rootsClear => [.roots]
  | .passes _ => [.passes]
  | .units _ => [.units]
  | .part _ _ => [.parts]
  | .partsClear => [.parts]
  | .loose _ _ => [.loose]
  | .looseClear => [.loose]
  | .out _ => [.out]
  | .free _ => [.free]

theorem Piece.same_refl (q : Piece) (s : State) : q.same s s := by
  cases q <;> simp [Piece.same]

theorem Piece.same_trans {q : Piece} {s t u : State} (h : q.same s t) (k : q.same t u) : q.same s u := by
  cases q
  case drawn => exact ⟨h.1.trans k.1, h.2.trans k.2⟩
  all_goals exact Eq.trans h k

/-- A primitive change leaves every other piece alone. -/
theorem Prim.same (p : Prim) (q : Piece) (h : q ∉ p.pieces) (s : State) : q.same s (p.run s) := by
  cases p <;> cases q <;> first | rfl | exact ⟨rfl, rfl⟩ | exact absurd (by simp [Prim.pieces]) h

/-- It leaves every register word but its own alone. -/
theorem Prim.run_regWord (p : Prim) (a : Nat) (s : State)
    (h : match p with
      | .reg b _ => a ≠ b
      | .regsKeep | .regsClear => False
      | _ => True) : regWord (p.run s).regs a = regWord s.regs a := by
  cases p
  case reg b w => exact mget_mset_other _ _ _ _ _ h
  case regsKeep => exact h.elim
  case regsClear => exact h.elim
  all_goals rfl

/-! ### The canonical form -/

theorem mem_keepRegs {r : RegFile} {p : Nat × Word} (h : p ∈ keepRegs r) : ∃ w, (p.1, w) ∈ r ∧ p.2 ≠ resetWord p.1 := by
  induction r with
  | nil => simp [keepRegs] at h
  | cons q r ih =>
    obtain ⟨a, w⟩ := q
    simp only [keepRegs] at h
    split at h
    · obtain ⟨x, hx, hn⟩ := ih h
      exact ⟨x, List.mem_cons_of_mem _ hx, hn⟩
    · rename_i hv
      rcases List.mem_cons.1 h with h | h
      · subst h; exact ⟨w, by simp, hv⟩
      · obtain ⟨x, hx, hn⟩ := ih h
        exact ⟨x, List.mem_cons_of_mem _ hx, hn⟩

theorem msorted_keepRegs (r : RegFile) (h : msorted none r = true) : msorted none (keepRegs r) = true := by
  induction r with
  | nil => simp [keepRegs, msorted]
  | cons q r ih =>
    obtain ⟨a, w⟩ := q
    have hr := (msorted_some a r).1 (by simpa [msorted] using h)
    simp only [keepRegs]
    split
    · exact ih hr.2
    · simp only [msorted]
      refine (msorted_some a _).2 ⟨fun p hp => ?_, ih hr.2⟩
      obtain ⟨x, hx, -⟩ := mem_keepRegs hp
      exact hr.1 (p.1, x) hx

theorem mwf_keepRegs (r : RegFile) (h : mwf resetWord r = true) : mwf resetWord (keepRegs r) = true := by
  simp only [mwf, Bool.and_eq_true, List.all_eq_true] at h ⊢
  refine ⟨msorted_keepRegs r h.1, fun p hp => ?_⟩
  obtain ⟨-, -, hn⟩ := mem_keepRegs hp
  simpa using hn

/-- Every primitive change keeps the form. -/
theorem Prim.run_wf (p : Prim) (s : State) (h : s.wf) : (p.run s).wf := by
  obtain ⟨h0, h1, h2, h3, h4, h5, h6, h7, h8, h9, h10, h11, h12, h13, h14, h15, h16, h17, h18, h19, h20, h21, h22, h23, h24, h25⟩ := h
  cases p <;>
    exact ⟨(by first | exact h0 | exact mwf_mset _ _ _ _ h0 | exact mwf_keepRegs _ h0 | exact mwf_nil _),
      (by first | exact h1 | exact mwf_mset _ _ _ _ h1 | exact mwf_nil _),
      (by first | exact h2 | exact mwf_mset _ _ _ _ h2 | exact mwf_nil _),
      (by first | exact h3 | exact mwf_mset _ _ _ _ h3 | exact mwf_nil _),
      (by first | exact h4 | exact mwf_mset _ _ _ _ h4 | exact mwf_nil _),
      (by first | exact h5 | exact mwf_mset _ _ _ _ h5 | exact mwf_filter _ _ _ h5),
      (by first | exact h6 | exact mwf_mset _ _ _ _ h6 | exact mwf_nil _),
      (by first | exact h7 | exact mwf_mset _ _ _ _ h7),
      (by first | exact h8 | exact mwf_mset _ _ _ _ h8 | exact mwf_nil _),
      (by first | exact h9 | exact mwf_mset _ _ _ _ h9 | exact mwf_nil _),
      (by first | exact h10 | exact mwf_mset _ _ _ _ h10 | exact mwf_nil _),
      (by first | exact h11 | exact mwf_mset _ _ _ _ h11 | exact mwf_nil _),
      (by first | exact h12 | exact mwf_mset _ _ _ _ h12),
      (by first | exact h13 | exact mwf_mset _ _ _ _ h13 | exact mwf_nil _),
      (by first | exact h14 | exact mwf_mset _ _ _ _ h14 | exact mwf_nil _),
      (by first | exact h15 | exact mwf_mset _ _ _ _ h15 | exact mwf_nil _),
      (by first | exact h16 | exact mwf_mset _ _ _ _ h16 | exact mwf_nil _),
      (by first | exact h17 | exact mwf_mset _ _ _ _ h17 | exact mwf_nil _),
      (by first | exact h18 | exact mwf_mset _ _ _ _ h18 | exact mwf_nil _),
      (by first | exact h19 | exact mwf_mset _ _ _ _ h19),
      (by first | exact h20 | exact mwf_mset _ _ _ _ h20),
      (by first | exact h21 | exact mwf_mset _ _ _ _ h21 | exact mwf_nil _),
      (by first | exact h22 | exact mwf_mset _ _ _ _ h22 | exact mwf_nil _),
      (by first | exact h23 | exact mwf_mset _ _ _ _ h23 | exact mwf_nil _),
      (by first | exact h24 | exact mwf_mset _ _ _ _ h24 | exact mwf_nil _),
      (by first | exact h25 | exact mwf_mset _ _ _ _ h25 | exact mwf_nil _)⟩

end Sys2Proof.Machine
end

