-- ==== Sys2Proof/Laws/Within.lean ====
section
/-! SUPPORT. Footprints in the words of the claims: a program whose changes stay within some pieces of State and some register
words leaves the rest alone. One such lemma for each shared operation. -/
namespace Sys2Proof.Machine
open Sys2Proof

variable {α : Type} {ps qs : List Piece} {f g : Nat → Bool}

/-- The change writes only pieces in `ps`, and of the register words only those that `f` picks. -/
def Prim.Within (ps : List Piece) (f : Nat → Bool) (p : Prim) : Prop :=
  (∀ q ∈ p.pieces, q ∈ ps) ∧ match p with
    | .reg a _ => f a = true
    | .regsKeep | .regsClear => ∀ a, f a = true
    | _ => True

/-- Every change of a program is within `ps` and `f`. -/
abbrev Within (ps : List Piece) (f : Nat → Bool) (m : M α) : Prop := Foot (Prim.Within ps f) m

theorem Within.mono {m : M α} (h : Within ps f m) (hp : ∀ q ∈ ps, q ∈ qs) (hf : ∀ a, f a = true → g a = true) : Within qs g m := by
  refine foot_mono (fun p hpp => ⟨fun q hq => hp q (hpp.1 q hq), ?_⟩) h
  have := hpp.2
  cases p <;> simp_all

theorem Prim.Within.regWord {p : Prim} (h : p.Within ps f) (a : Nat) (ha : f a = false) (s : State) :
    regWord (p.run s).regs a = regWord s.regs a := by
  refine p.run_regWord a s ?_
  have := h.2
  cases p <;> simp_all
  intro e
  simp_all

/-- What a program within `ps` and `f` leaves alone. -/
theorem Within.leaves {m : M Unit} (h : Within ps f m) (s : State) : SameBut ps s (runM m s) ∧ WordsBut f s (runM m s) := by
  have := foot_keeps h (I := fun t => SameBut ps s t ∧ WordsBut f s t) ?_ s []
  · exact this ⟨fun q _ => q.same_refl s, fun _ _ => rfl⟩
  · intro p t hp ht
    refine ⟨fun q hq => Piece.same_trans (ht.1 q hq) (p.same q (fun hm => hq (hp.1 q hm)) t), fun a ha => ?_⟩
    rw [hp.regWord a ha]
    exact ht.2 a ha

/-- The outcome of a command whose effect is within `ps` and `f`. -/
theorem Within.exec1 {m : M Unit} (h : Within ps f m) (s : State) :
    ∃ t, Machine.exec1 m s = .next t ∧ SameBut ps s t ∧ WordsBut f s t :=
  ⟨runM m s, rfl, h.leaves s⟩

/-! ### Programs -/

theorem within_pure (a : α) : Within ps f (pure a : M α) := foot_pure _ a
theorem within_getS : Within ps f getS := foot_getS _
theorem within_rd (x : RegField) : Within ps f (rd x) := foot_bind (foot_getS _) fun _ => foot_pure _ _

theorem within_bind {β : Type} {m : M α} {k : α → M β} (hm : Within ps f m) (hk : ∀ a, Within ps f (k a)) : Within ps f (m >>= k) :=
  foot_bind hm hk

theorem within_ite {c : Prop} [Decidable c] {m n : M α} (hm : Within ps f m) (hn : Within ps f n) : Within ps f (if c then m else n) :=
  foot_ite hm hn

theorem within_forM {γ : Type} (xs : List γ) {k : γ → M Unit} (h : ∀ x, Within ps f (k x)) : Within ps f (forM xs k) :=
  foot_forM xs h

/-- A change of a piece of State that is not the registers. -/
theorem within_prim {p : Prim} (h : ∀ q ∈ p.pieces, q ∈ ps) (hr : .regs ∉ p.pieces) : Within ps f (prim p) := by
  refine foot_prim ⟨h, ?_⟩
  cases p <;> simp_all [Prim.pieces]

theorem within_wrWord (a : Nat) (w : Word) (hp : .regs ∈ ps) (ha : f a = true) : Within ps f (wrWord a w) :=
  foot_prim ⟨by simpa [Prim.pieces] using hp, ha⟩

/-- A field stored in the words that it lies in. -/
theorem within_wr (x : RegField) (v : Nat) (hp : .regs ∈ ps) (h0 : f x.addr = true) (h1 : 32 ≤ x.hi → f (x.addr + 4) = true)
    (h2 : 64 ≤ x.hi → f (x.addr + 8) = true) : Within ps f (wr x v) := by
  unfold wr
  refine within_bind within_getS fun s => ?_
  dsimp only
  split
  all_goals try refine within_bind (within_wrWord _ _ hp h0) fun _ => ?_
  all_goals split
  all_goals rename_i h
  all_goals try refine within_bind (within_wrWord _ _ hp (h1 h.2)) fun _ => ?_
  all_goals split
  all_goals rename_i h
  all_goals first | exact within_wrWord _ _ hp (h2 h) | exact within_pure _

theorem within_bump (x : RegField) (hp : .regs ∈ ps) (h0 : f x.addr = true) (h1 : 32 ≤ x.hi → f (x.addr + 4) = true)
    (h2 : 64 ≤ x.hi → f (x.addr + 8) = true) : Within ps f (bump x) :=
  within_bind (within_rd x) fun _ => within_ite (within_wr x _ hp h0 h1 h2) (within_pure _)

theorem within_bumpMod (x : RegField) (hp : .regs ∈ ps) (h0 : f x.addr = true) (h1 : 32 ≤ x.hi → f (x.addr + 4) = true)
    (h2 : 64 ≤ x.hi → f (x.addr + 8) = true) : Within ps f (bumpMod x) :=
  within_bind (within_rd x) fun _ => within_wr x _ hp h0 h1 h2

theorem within_wrBit (x : RegField) (i : Nat) (b : Bool) (hp : .regs ∈ ps) (h0 : f x.addr = true)
    (h1 : 32 ≤ x.hi → f (x.addr + 4) = true) (h2 : 64 ≤ x.hi → f (x.addr + 8) = true) : Within ps f (wrBit x i b) :=
  within_bind (within_rd x) fun _ => within_wr x _ hp h0 h1 h2

theorem within_emit (o : Out) (h : .out ∈ ps) : Within ps f (emit o) :=
  within_prim (by simpa [Prim.pieces] using h) (by simp [Prim.pieces])

theorem within_fresh (h : .free ∈ ps) : Within ps f fresh :=
  within_bind within_getS fun _ => within_bind (within_prim (by simpa [Prim.pieces] using h) (by simp [Prim.pieces])) fun _ => within_pure _

theorem within_freshPayload (h : .free ∈ ps) : Within ps f freshPayload :=
  within_bind (within_fresh h) fun _ => within_bind (within_fresh h) fun _ => within_pure _

theorem within_stamp (h : .time ∈ ps) : Within ps f stamp :=
  within_bind within_getS fun _ => within_bind (within_prim (by simpa [Prim.pieces] using h) (by simp [Prim.pieces])) fun _ => within_pure _

/-! ### Events and chronicle entries -/

/-- The words of an event's page that recording it changes. -/
theorem eventWord_raw (p : Nat) : eventWord [p] (0x1000 * p + 0x10) = true := by
  have : (0x1000 * p + 0x10) / 0x1000 = p ∧ (0x1000 * p + 0x10) % 0x1000 = 0x10 := by omega
  simp [eventWord, this]

theorem eventWord_sticky (p : Nat) : eventWord [p] (0x1000 * p + 0x1C) = true := by
  have : (0x1000 * p + 0x1C) / 0x1000 = p ∧ (0x1000 * p + 0x1C) % 0x1000 = 0x1C := by omega
  simp [eventWord, this]

/-- More pages, more words. -/
theorem eventWord_mono {l k : List Nat} (h : ∀ p ∈ l, p ∈ k) (a : Nat) (ha : eventWord l a = true) : eventWord k a = true := by
  have key : (3 :: l).contains (a / 0x1000) = true → (3 :: k).contains (a / 0x1000) = true := by
    simp only [List.contains_eq_mem, decide_eq_true_eq, List.mem_cons]
    exact Or.imp_right (h _)
  simp only [eventWord, Bool.or_eq_true, Bool.and_eq_true] at ha ⊢
  exact ha.imp_left fun x => ⟨key x.1, x.2⟩

theorem within_setEvent (e : PageEvent) (h : e.page < 64) : Within [.regs] (eventWord [e.page]) (setEvent e) := by
  have hp : e.page % 64 = e.page := Nat.mod_eq_of_lt h
  refine within_bind (within_rd _) fun _ => within_ite (within_pure _) ?_
  refine within_bind (within_wr _ _ (by simp) ?_ (by simp [R.PG_EVT_RAW.EVT]) (by simp [R.PG_EVT_RAW.EVT])) fun _ => ?_
  · simpa [R.PG_EVT_RAW.EVT, hp] using eventWord_raw e.page
  refine within_bind (within_wrBit _ _ _ (by simp) ?_ (by simp [R.PG_EVT_STICKY.EVT]) (by simp [R.PG_EVT_STICKY.EVT])) fun _ => within_pure _
  simpa [R.PG_EVT_STICKY.EVT, hp] using eventWord_sticky e.page

theorem within_placeHeld (w : WriterEntry) : Within recordParts (eventWord []) (placeHeld w) := by
  refine within_bind within_getS fun s => within_ite ?_ (within_ite ?_ (within_ite (within_pure _) ?_))
  · exact within_bind (within_prim (by simp [Prim.pieces, recordParts]) (by simp [Prim.pieces])) fun _ => within_pure _
  · exact within_bind (within_prim (by simp [Prim.pieces, recordParts]) (by simp [Prim.pieces])) fun _ => within_pure _
  · refine within_bind (within_prim (by simp [Prim.pieces, recordParts]) (by simp [Prim.pieces])) fun _ => ?_
    exact within_bind (within_bump _ (by simp [recordParts]) (by decide) (by decide) (by decide)) fun _ => within_pure _

theorem within_placeEntry (w : WriterEntry) : Within recordParts (eventWord []) (placeEntry w) := by
  refine within_bind within_getS fun s => within_ite (within_placeHeld w) ?_
  exact within_bind (within_prim (by simp [Prim.pieces, recordParts]) (by simp [Prim.pieces])) fun _ => within_pure _

theorem within_placeAll (l : List WriterEntry) : Within recordParts (eventWord []) (placeAll l) := by
  induction l with
  | nil => exact within_pure _
  | cons w l ih => exact within_bind (within_placeEntry w) fun _ => within_bind ih fun _ => within_pure _

/-- An item on its way to its sink: only the CHRON page's DEFERRED bits and count. -/
theorem within_raiseItem (st : Stamp) (page : Nat) (req code : BitVec 16) (l : List (BitVec 96)) (c : EntryClass) (audit : Bool) :
    Within recordParts (eventWord []) (raiseItem st page req code l c audit) := by
  refine within_bind within_getS fun s => ?_
  dsimp only
  refine within_bind (within_placeAll _) fun _ => within_ite ?_ (within_pure _)
  refine within_bind ((within_setEvent E.CHRON.DEFERRED (by decide)).mono (by simp [recordParts]) fun a ha => ?_) fun _ => ?_
  · simpa [eventWord, E.CHRON.DEFERRED] using ha
  refine within_bind (within_stamp (by simp [recordParts])) fun st => ?_
  dsimp only
  exact within_bind (within_rd _) fun _ => within_bind (within_placeAll _) fun _ => within_pure _

theorem within_pageEntry (page : Nat) (code : BitVec 16) (l : List (BitVec 96)) (c : EntryClass) :
    Within recordParts (eventWord []) (pageEntry page code l c) :=
  within_bind (within_stamp (by simp [recordParts])) fun _ => within_raiseItem _ _ _ _ _ _ _

theorem within_auditEntry (page : Nat) (code : BitVec 16) (l : List (BitVec 96)) (c : EntryClass) :
    Within recordParts (eventWord []) (auditEntry page code l c) :=
  within_bind (within_stamp (by simp [recordParts])) fun _ => within_raiseItem _ _ _ _ _ _ _

theorem within_recorded {l : List Nat} {m : M α} (h : Within recordParts (eventWord []) m) :
    Within recordParts (eventWord l) m := h.mono (fun _ h => h) (eventWord_mono (by simp))

/-- An event raised, in whichever way: its page's event words, and what recording it changes. -/
theorem within_raise (e : PageEvent) (h : e.page < 64) (c : EntryClass) : Within recordParts (eventWord [e.page]) (raise e c) :=
  within_bind ((within_setEvent e h).mono (by simp [recordParts]) fun _ h => h) fun _ =>
    within_bind (within_rd _) fun _ => (within_pageEntry _ _ _ _).mono (fun _ h => h) (eventWord_mono (by simp))

theorem within_raiseNamed (e : PageEvent) (h : e.page < 64) (code : BitVec 16) (l : List (BitVec 96)) (c : EntryClass) :
    Within recordParts (eventWord [e.page]) (raiseNamed e code l c) :=
  within_bind ((within_setEvent e h).mono (by simp [recordParts]) fun _ h => h) fun _ =>
    (within_pageEntry _ _ _ _).mono (fun _ h => h) (eventWord_mono (by simp))

theorem within_raiseQuiet (e : PageEvent) (h : e.page < 64) : Within [.regs] (eventWord [e.page]) (raiseQuiet e) :=
  within_bind (within_setEvent e h) fun _ => within_pure _

theorem within_clearEvent (e : PageEvent) (h : e.page < 64) :
    Within [.regs] (eventWord [e.page]) (wrBit (R.PG_EVT_RAW.EVT e.page) e.bit false) := by
  refine within_wrBit _ _ _ (by simp) ?_ (by simp [R.PG_EVT_RAW.EVT]) (by simp [R.PG_EVT_RAW.EVT])
  simpa [R.PG_EVT_RAW.EVT, Nat.mod_eq_of_lt h] using eventWord_raw e.page

theorem within_setCond (e : PageEvent) (h : e.page < 64) (b : Bool) (c : EntryClass) :
    Within recordParts (eventWord [e.page]) (setCond e b c) := by
  refine within_ite (within_bind ((within_setEvent e h).mono (by simp [recordParts]) fun _ h => h) fun r => within_ite ?_ (within_pure _))
    ((within_clearEvent e h).mono (by simp [recordParts]) fun _ h => h)
  exact within_bind (within_rd _) fun _ => (within_pageEntry _ _ _ _).mono (fun _ h => h) (eventWord_mono (by simp))

theorem within_setCondQuiet (e : PageEvent) (h : e.page < 64) (b : Bool) : Within [.regs] (eventWord [e.page]) (setCondQuiet e b) :=
  within_ite (within_bind (within_setEvent e h) fun _ => within_pure _) (within_clearEvent e h)

theorem within_countGust (u l ms : Nat) (h : .gusts ∈ ps) : Within ps f (countGust u l ms) := by
  refine within_bind within_getS fun _ => ?_
  dsimp only
  exact within_bind (within_prim (by simpa [Prim.pieces] using h) (by simp [Prim.pieces])) fun _ => within_pure _

end Sys2Proof.Machine
end

