-- ==== Sys2Proof/Laws/Shared.lean ====
section
/-! SUPPORT. What the operations shared by the families can do, each stated once: writes of the host target port, command units,
Cellar entries, key slots and nodes. -/
namespace Sys2Proof.Machine
open Sys2Proof

variable {ps : List Piece} {f : Nat → Bool}

theorem runM_eq (m : M Unit) (s : State) : runM m s = runAll (m s []).2 s := rfl

/-! ### Writes of the host target port -/

/-- A field kept in one word. -/
theorem within_wr_one (x : RegField) (v : Nat) (h : x.hi < 32) (hp : .regs ∈ ps) (h0 : f x.addr = true) : Within ps f (wr x v) :=
  within_wr x v hp h0 (fun h1 => absurd h1 (by omega)) fun h2 => absurd h2 (by omega)

/-- Applying a write: the word itself, or what a Loose operation holds back. -/
theorem within_applyWord (a : Nat) (v : Word) (hp : .regs ∈ ps) (ha : f a = true) (hl : a / 0x1000 = 0x38 → .loose ∈ ps) :
    Within ps f (applyWord a v) := by
  refine within_bind within_getS fun s => ?_
  dsimp only
  refine within_ite (within_wrWord _ _ hp ha) (within_ite (within_wrWord _ _ hp ha) (within_ite (within_wrWord _ _ hp ha)
    (within_ite (within_pure _) ?_)))
  refine within_bind within_getS fun s => ?_
  split
  · rename_i c hc
    have h38 : a / 0x1000 = 0x38 := by
      by_contra hn
      rw [State.looseHeld] at hc
      simp [hn] at hc
    exact within_bind within_getS fun _ => within_prim (by simpa [Prim.pieces] using hl h38) (by simp [Prim.pieces])
  · exact within_wrWord _ _ hp ha

/-- Applying a write to a register: its word, the low word of a 64-bit register, and the shadow (R75). -/
theorem within_applyWrite (a : Nat) (v : Word) (hp : .regs ∈ ps) (hs : .writeShadow ∈ ps) (ha : f a = true) (h4 : f (a - 4) = true)
    (hl : .loose ∈ ps) : Within ps f (applyWrite a v) := by
  have sh (b : Nat) (x : Option Word) : Within ps f (prim (.writeShadow b x)) :=
    within_prim (by simpa [Prim.pieces] using hs) (by simp [Prim.pieces])
  refine within_ite (within_bind (sh _ _) fun _ => within_pure _) (within_ite ?_ ?_)
  · refine within_bind within_getS fun s => ?_
    split
    · exact within_bind (within_applyWord _ _ hp h4 fun _ => hl) fun _ => within_bind (sh _ _) fun _ =>
        within_bind (within_applyWord _ _ hp ha fun _ => hl) fun _ => within_pure _
    · exact within_bind (within_applyWord _ _ hp ha fun _ => hl) fun _ => within_pure _
  · exact within_bind (within_applyWord _ _ hp ha fun _ => hl) fun _ => within_pure _

theorem within_recordWrite (st : Stamp) (w : HostWr) (old : Word) (o : Nat) : Within recordParts (eventWord []) (recordWrite st w old o) :=
  within_raiseItem _ _ _ _ _ _ _

/-- An accepted write (R79): the word written, the page's write count and time, its record, and its register's own effect. -/
theorem within_acceptWrite (w : HostWr) (old : Word) (effect : M Unit) (hps : ∀ q ∈ .writeShadow :: .loose :: recordParts, q ∈ ps)
    (hw : f w.at = true) (h4 : f (w.at - 4) = true) (hc : ∀ a, acceptWord (w.page % 64) a = true → f a = true)
    (he : ∀ a, eventWord [] a = true → f a = true) (heff : Within ps f effect) : Within ps f (acceptWrite w old effect) := by
  have hregs : .regs ∈ ps := hps _ (by simp [recordParts])
  have off (o : Nat) (h : o = 0x20 ∨ o = 0x28 ∨ o = 0x2C) : f (0x1000 * (w.page % 64) + o) = true := by
    refine hc _ ?_
    have h1 : (0x1000 * (w.page % 64) + o) / 0x1000 = w.page % 64 := by omega
    have h2 : (0x1000 * (w.page % 64) + o) % 0x1000 = o := by omega
    simp only [acceptWord, h1, h2]
    simpa [or_assoc] using h
  refine within_bind (within_stamp (hps _ (by simp [recordParts]))) fun st => ?_
  refine within_bind (within_applyWrite _ _ hregs (hps _ (by simp)) hw h4 (hps _ (by simp))) fun took => ?_
  refine within_bind (within_bumpMod _ hregs (off 0x20 (by simp)) (by simp [R.PG_WRCOUNT.COUNT]) (by simp [R.PG_WRCOUNT.COUNT])) fun _ => ?_
  refine within_bind (within_wr _ _ hregs (off 0x28 (by simp)) (fun _ => off 0x2C (by simp)) (by simp [R.PG_LASTWR_TS.TS])) fun _ => ?_
  refine within_bind ((within_recordWrite _ _ _ _).mono (fun q hq => hps q (by simp [hq])) he) fun _ => ?_
  exact within_ite heff (within_pure _)

/-- A write that R78 accepts. -/
theorem hostWrite_accepted (w : HostWr) (effect : M Unit) (s : State) (h : s.writeOutcome w = 0) :
    exec1 (hostWrite w effect) s = exec1 (acceptWrite w (s.view w.at) effect) s := by
  simp [exec1_eq, hostWrite, h]

/-- A write that R78 rejects. -/
theorem hostWrite_rejected (w : HostWr) (effect : M Unit) (s : State) (h : s.writeOutcome w ≠ 0) :
    exec1 (hostWrite w effect) s = exec1 (rejectWrite w (s.view w.at) (s.writeOutcome w)) s := by
  simp [exec1_eq, hostWrite, h]

/-! ### Command units -/

/-- A command's end: BUSY and RESULT, and its unit's event. -/
theorem within_cmdEnd (u : CmdUnit) (code : Nat) (hps : ∀ q ∈ .cmdLate :: recordParts, q ∈ ps) (hb : u.busy.hi < 32) (hr : u.result.hi < 32)
    (h1 : f u.busy.addr = true) (h2 : f u.result.addr = true) (he : ∀ e, u.done = some e → e.page < 64 ∧ ∀ a, eventWord [e.page] a = true → f a = true) :
    Within ps f (cmdEnd u code) := by
  have hregs : .regs ∈ ps := hps _ (by simp [recordParts])
  refine within_bind within_getS fun s => ?_
  dsimp only
  refine within_bind (within_wr_one _ _ hr hregs h2) fun _ => ?_
  refine within_bind (within_prim (by simpa [Prim.pieces] using hps .cmdLate (by simp)) (by simp [Prim.pieces])) fun _ => ?_
  refine within_bind (within_wr_one _ _ hb hregs h1) fun _ => ?_
  split
  · rename_i e hd
    exact (within_raise e (he e hd).1 _).mono (fun q hq => hps q (by simp [hq])) (he e hd).2
  · exact within_pure _

theorem within_cmdStop (u : CmdUnit) (code : Nat) (h : Within ps f (cmdEnd u code)) : Within ps f (cmdStop u code) :=
  within_bind (within_rd _) fun _ => within_ite h (within_pure _)

/-- A command written to a unit: BUSY, or the mark that one came too late, and what the command does. -/
theorem within_cmdStart (u : CmdUnit) (body : M Unit) (hp : .regs ∈ ps) (hl : .cmdLate ∈ ps) (hb : u.busy.hi < 32)
    (h1 : f u.busy.addr = true) (h : Within ps f body) : Within ps f (cmdStart u body) := by
  refine within_bind (within_rd _) fun _ => within_ite ?_ ?_
  · exact within_prim (by simpa [Prim.pieces] using hl) (by simp [Prim.pieces])
  · exact within_bind (within_wr_one _ _ hb hp h1) fun _ => h

theorem within_cmdActive (u : CmdUnit) (body : M Unit) (hp : .regs ∈ ps) (hl : .cmdLate ∈ ps) (hb : u.busy.hi < 32)
    (h1 : f u.busy.addr = true) (h : Within ps f body) (hn : Within ps f (cmdEnd u rcNotActive)) : Within ps f (cmdActive u body) :=
  within_cmdStart u _ hp hl hb h1 (within_bind within_getS fun _ => within_ite h hn)

/-- A request for random bits. -/
theorem within_askRandom (c : RandClass) (u : RandUser) (n : Nat) (hr : .rng ∈ ps) (hp : .regs ∈ ps) (h : f R.RNG_STAT.KEY_WAIT.addr = true) :
    Within ps f (askRandom c u n) := by
  refine within_bind within_getS fun s => within_bind (within_prim (by simpa [Prim.pieces] using hr) (by simp [Prim.pieces])) fun _ => ?_
  exact within_ite (within_wr_one _ _ (by decide) hp h) (within_pure _)

/-- Requests of the initiator port. -/
theorem within_emits (l : List Out) (h : .out ∈ ps) : Within ps f (forM l emit) := within_forM l fun o => within_emit o h

theorem within_readDram (d : Dram) (a n : Nat) (rid : BitVec 12) (h : .out ∈ ps) : Within ps f (readDram d a n rid) :=
  within_bind (within_emits _ h) fun _ => within_pure _

theorem within_dramWrite (d : Dram) (a : Nat) (b : Bytes) (rid : BitVec 12) (h : .out ∈ ps) : Within ps f (dramWrite d a b rid) :=
  within_bind (within_emits _ h) fun _ => within_pure _

/-! ### Wakes and unit alarms -/

theorem eventWord_ownPages (qs evts : List Nat) (a : Nat) (h : eventWord evts a = true) : ownPages qs evts a = true := by
  simp [ownPages, h]

theorem eventWord_nil_ownPages (qs evts : List Nat) (a : Nat) (h : eventWord [] a = true) : ownPages qs evts a = true :=
  eventWord_ownPages qs evts a (eventWord_mono (by simp) a h)

theorem ownPages_mono {ps qs es fs : List Nat} (hp : ∀ p ∈ ps, p ∈ qs) (he : ∀ p ∈ es, p ∈ fs) (a : Nat)
    (h : ownPages ps es a = true) : ownPages qs fs a = true := by
  simp only [ownPages, Bool.or_eq_true, Bool.and_eq_true, List.contains_eq_mem, decide_eq_true_eq] at h ⊢
  exact h.imp (fun x => ⟨hp _ x.1, x.2⟩) (eventWord_mono he a)

/-- A store in a register of a page in `qs`, at or above offset 0x040. -/
theorem within_wr_page {qs evts : List Nat} (x : RegField) (v : Nat) (hp : .regs ∈ ps) (h : x.addr / 0x1000 ∈ qs)
    (h0 : 0x40 ≤ x.addr % 0x1000) (h1 : x.hi < 32 ∨ x.hi < 64 ∧ x.addr % 0x1000 + 4 < 0x1000) : Within ps (ownPages qs evts) (wr x v) := by
  have at' (d : Nat) (hd : x.addr % 0x1000 + d < 0x1000) : ownPages qs evts (x.addr + d) = true := by
    have e1 : (x.addr + d) / 0x1000 = x.addr / 0x1000 := by omega
    have e2 : (x.addr + d) % 0x1000 = x.addr % 0x1000 + d := by omega
    simp only [ownPages, e1, e2, Bool.or_eq_true, Bool.and_eq_true, List.contains_eq_mem, decide_eq_true_eq]
    exact .inl ⟨h, by omega⟩
  exact within_wr x v hp (at' 0 (by omega)) (fun h2 => at' 4 (by omega)) fun h2 => absurd h2 (by omega)

theorem within_bump_page {qs evts : List Nat} (x : RegField) (hp : .regs ∈ ps) (h : x.addr / 0x1000 ∈ qs)
    (h0 : 0x40 ≤ x.addr % 0x1000) (h1 : x.hi < 32 ∨ x.hi < 64 ∧ x.addr % 0x1000 + 4 < 0x1000) : Within ps (ownPages qs evts) (bump x) :=
  within_bind (within_rd x) fun _ => within_ite (within_wr_page x _ hp h h0 h1) (within_pure _)

/-- A wake logged: the ring's words, and what it leaves to the next ascent. -/
theorem within_logWake (code chan detail : Nat) (late abort : Bool) :
    Within (.power :: recordParts) (ownPages [0x3C] [0x3C]) (logWake code chan detail late abort) := by
  have hr : Piece.regs ∈ Piece.power :: recordParts := by simp [recordParts]
  have ring (x : RegField) (v k : Nat) (h : x.addr = 0x3C400 + k + 16 * (v % 16)) (hk : k ≤ 8) (hh : x.hi < 64) (w : Nat) :
      Within (.power :: recordParts) (ownPages [0x3C] [0x3C]) (wr x w) :=
    within_wr_page x w hr (by simp; omega) (by omega) (by omega)
  have tail : Within (.power :: recordParts) (ownPages [0x3C] [0x3C]) (raiseQuiet E.WAKE.WOKEN) :=
    (within_raiseQuiet E.WAKE.WOKEN (by decide)).mono (by simp [recordParts]) (eventWord_ownPages _ _)
  have pw (p : PowerState) : Within (.power :: recordParts) (ownPages [0x3C] [0x3C]) (prim (.power p)) :=
    within_prim (by simp [Prim.pieces]) (by simp [Prim.pieces])
  refine within_bind (within_stamp (by simp [recordParts])) fun st => within_bind (within_rd _) fun i => within_bind (within_rd _) fun n => ?_
  refine within_bind (ring _ i 0 rfl (by omega) (by simp [R.WAKE_SRC.CODE]) _) fun _ => ?_
  refine within_bind (ring _ i 0 rfl (by omega) (by simp [R.WAKE_SRC.CHAN]) _) fun _ => ?_
  refine within_bind (ring _ i 0 rfl (by omega) (by simp [R.WAKE_SRC.LATE]) _) fun _ => ?_
  refine within_bind (ring _ i 0 rfl (by omega) (by simp [R.WAKE_SRC.ABORT]) _) fun _ => ?_
  refine within_bind (ring _ i 0 rfl (by omega) (by simp [R.WAKE_SRC.STAMP_SEQ]) _) fun _ => ?_
  refine within_bind (ring _ i 4 rfl (by omega) (by simp [R.WAKE_SRC_DETAIL.DETAIL]) _) fun _ => ?_
  refine within_bind (ring _ i 8 rfl (by omega) (by simp [R.WAKE_SRC_TS.TS]) _) fun _ => ?_
  refine within_bind (within_wr_page _ _ hr (by decide) (by decide) (by decide)) fun _ => ?_
  dsimp only
  split
  · exact within_bind (within_wr_page _ _ hr (by decide) (by decide) (by decide)) fun _ => within_bind within_getS fun _ =>
      within_bind (pw _) fun _ => tail
  · exact within_bind (within_bump_page _ hr (by decide) (by decide) (by decide)) fun _ => within_bind within_getS fun _ =>
      within_bind (pw _) fun _ => tail

/-- A wake: it is logged, and starts an ascent, aborts a descent or is late. -/
theorem within_wakeBy (code chan detail : Nat) : Within wakeParts (ownPages [0x05, 0x3C] [0x05, 0x3C]) (wakeBy code chan detail) := by
  have hr : Piece.regs ∈ wakeParts := by simp [wakeParts, recordParts]
  have w1 (x : RegField) (v : Nat) (h : x.addr / 0x1000 ∈ [0x05, 0x3C]) (h0 : 0x40 ≤ x.addr % 0x1000) (h1 : x.hi < 32) :
      Within wakeParts (ownPages [0x05, 0x3C] [0x05, 0x3C]) (wr x v) := within_wr_page x v hr h h0 (.inl h1)
  have clk (c : Clk) : Within wakeParts (ownPages [0x05, 0x3C] [0x05, 0x3C]) (raiseClk c) :=
    within_bind within_getS fun _ => within_ite (within_prim (by simp [Prim.pieces, wakeParts]) (by simp [Prim.pieces])) (within_pure _)
  have pw (p : PowerState) : Within wakeParts (ownPages [0x05, 0x3C] [0x05, 0x3C]) (prim (.power p)) :=
    within_prim (by simp [Prim.pieces, wakeParts]) (by simp [Prim.pieces])
  have ascent : Within wakeParts (ownPages [0x05, 0x3C] [0x05, 0x3C]) startAscent := by
    refine within_bind (w1 _ _ (by decide) (by decide) (by decide)) fun _ => within_bind (w1 _ _ (by decide) (by decide) (by decide)) fun _ => ?_
    refine within_bind within_getS fun _ => within_bind (pw _) fun _ => within_bind (clk _) fun _ => within_bind (clk _) fun _ => ?_
    refine within_bind (within_bind (within_rd _) fun _ => w1 _ _ (by decide) (by decide) (by decide)) fun _ => ?_
    refine within_bind within_getS fun _ => within_bind (pw _) fun _ => within_forM _ fun _ => ?_
    exact (within_auditEntry _ _ _ _).mono (fun q h => List.mem_cons_of_mem _ h) (eventWord_nil_ownPages _ _)
  have abort : Within wakeParts (ownPages [0x05, 0x3C] [0x05, 0x3C]) abortDescent := by
    refine within_bind (w1 _ _ (by decide) (by decide) (by decide)) fun _ => within_bind (w1 _ _ (by decide) (by decide) (by decide)) fun _ => ?_
    refine within_bind (within_bump_page _ hr (by decide) (by decide) (by decide)) fun _ => ?_
    exact (within_raise E.POWER.ABORTED (by decide) .other).mono (fun q h => List.mem_cons_of_mem _ h)
      fun a h => eventWord_ownPages _ _ a (eventWord_mono (by decide) a h)
  refine within_bind within_getS fun s => ?_
  dsimp only
  refine within_ite (within_pure _) ?_
  refine within_bind ((within_logWake _ _ _ _ _).mono (by simp [wakeParts]) (ownPages_mono (by simp) (by simp))) fun _ => ?_
  exact within_ite ascent (within_ite (within_ite abort (w1 _ _ (by decide) (by decide) (by decide))) (within_pure _))

/-- A unit alarm: its entry, and at grade 1 or higher a wake. -/
theorem within_unitAlarm (page grade : Nat) : Within wakeParts (ownPages [0x05, 0x3C] [0x05, 0x3C]) (unitAlarm page grade) :=
  within_bind ((within_auditEntry _ _ _ _).mono (fun _ h => List.mem_cons_of_mem _ h) (eventWord_nil_ownPages _ _)) fun _ =>
    within_ite (within_wakeBy _ _ _) (within_pure _)

/-- What keeping SCHED_STAT changes: a lane less may be an alarm, and Bridle frames count the last lane (R115, R129, R227). -/
theorem within_laneRefresh : Within (.ports :: wakeParts) (ownPages [0x05, 0x0C, 0x1D, 0x3C] [0x05, 0x0C, 0x1D, 0x3C]) laneRefresh := by
  have hr : Piece.regs ∈ Piece.ports :: wakeParts := by simp [wakeParts, recordParts]
  have w1 (x : RegField) (v : Nat) (h : x.addr = R.SCHED_STAT.COUNT.addr) (h1 : x.hi < 32) :
      Within (.ports :: wakeParts) (ownPages [0x05, 0x0C, 0x1D, 0x3C] [0x05, 0x0C, 0x1D, 0x3C]) (wr x v) :=
    within_wr_page x v hr (by rw [h]; decide) (by rw [h]; decide) (.inl h1)
  have ev {m : M Unit} (p : Nat) (h : Within recordParts (eventWord [p]) m) (hp : p ∈ [0x05, 0x0C, 0x1D, 0x3C]) :
      Within (.ports :: wakeParts) (ownPages [0x05, 0x0C, 0x1D, 0x3C] [0x05, 0x0C, 0x1D, 0x3C]) m :=
    h.mono (fun q hq => by simp [wakeParts, hq]) fun a ha => eventWord_ownPages _ _ a (eventWord_mono (by simpa using hp) a ha)
  have single : Within (.ports :: wakeParts) (ownPages [0x05, 0x0C, 0x1D, 0x3C] [0x05, 0x0C, 0x1D, 0x3C]) singleLane := by
    refine within_bind within_getS fun s => within_ite (within_bind within_getS fun s => within_forM _ fun p => ?_) (within_pure _)
    refine within_bind (within_forM _ fun _ => within_bind (within_bump_page _ hr (by decide) (by decide) (by decide)) fun _ =>
      ev 0x1D (within_raise E.BRIDLE.SINGLE_LANE (by decide) .other) (by decide)) fun _ => ?_
    exact within_ite (within_prim (by simp [Prim.pieces]) (by simp [Prim.pieces])) (within_pure _)
  refine within_bind within_getS fun s => ?_
  dsimp only
  iterate 6 refine within_bind (w1 _ _ rfl (by decide)) fun _ => ?_
  refine within_bind (ev 0x0C (within_setCond E.SCHED.BRIDLE_HELD (by decide) _ .other) (by decide)) fun _ => ?_
  refine within_bind (ev 0x0C (within_setCond E.SCHED.NO_LANE (by decide) _ .other) (by decide)) fun _ => ?_
  split
  · exact within_bind ((within_unitAlarm _ _).mono (fun q h => List.mem_cons_of_mem _ h) (ownPages_mono (by simp) (by simp))) fun _ => single
  · exact single

/-! ### The Cellar -/

/-- The words that hold the Cellar's occupancy. -/
theorem within_cellarOccupancy (hp : .regs ∈ ps) (hc : .cellar ∈ ps) (h1 : f R.CELLAR_SHARE.QUEUE.addr = true)
    (h2 : f R.CELLAR_OCC.MEM.addr = true) (h3 : f R.CELLAR_OCC.STREAM.addr = true) (h4 : f R.CELLAR_OCC.STOR.addr = true)
    (h5 : f R.CELLAR_OCC.QUEUE.addr = true) : Within ps f cellarOccupancy := by
  refine within_bind within_getS fun s => ?_
  dsimp only
  split
  on_goal 1 => refine within_bind (within_wr_one _ _ (by decide) hp h1) fun _ => ?_
  all_goals
    exact within_bind (within_wr_one _ _ (by decide) hp h2) fun _ => within_bind (within_wr_one _ _ (by decide) hp h3) fun _ =>
      within_bind (within_wr_one _ _ (by decide) hp h4) fun _ => within_bind (within_wr_one _ _ (by decide) hp h5) fun _ =>
      within_prim (by simpa [Prim.pieces] using hc) (by simp [Prim.pieces])

/-- The same with all words of the CELLAR page at or above 0x040. -/
theorem within_cellarOccupancy_page (evts : List Nat) :
    Within (.cellar :: recordParts) (ownPages [0x04] evts) cellarOccupancy :=
  within_cellarOccupancy (by simp [recordParts]) (by simp) (by simp [ownPages, R.CELLAR_SHARE.QUEUE]) (by simp [ownPages, R.CELLAR_OCC.MEM])
    (by simp [ownPages, R.CELLAR_OCC.STREAM]) (by simp [ownPages, R.CELLAR_OCC.STOR]) (by simp [ownPages, R.CELLAR_OCC.QUEUE])

theorem within_setEntry (n : Nat) (e : CEntry) (h : .cellar ∈ ps) : Within ps f (setEntry n e) :=
  within_prim (by simpa [Prim.pieces] using h) (by simp [Prim.pieces])

theorem within_modEntry (n : Nat) (g : CEntry → CEntry) (h : .cellar ∈ ps) : Within ps f (modEntry n g) := by
  refine within_bind within_getS fun s => ?_
  split
  · exact within_setEntry _ _ h
  · exact within_pure _

/-- An item journalled: its entry, and the occupancy. -/
theorem within_journal (k : CKind) (fill : Nat → Stamp → CEntry) (evts : List Nat) :
    Within (.cellar :: recordParts) (ownPages [0x04] evts) (journal k fill) := by
  have pc (p : Prim) (h : p.pieces = [.cellar]) : Within (.cellar :: recordParts) (ownPages [0x04] evts) (prim p) :=
    within_prim (by simp [h]) (by simp [h])
  refine within_bind within_getS fun s => ?_
  split
  · exact within_pure _
  · refine within_bind (within_stamp (by simp [recordParts])) fun st => within_bind (pc _ rfl) fun _ => within_bind (pc _ rfl) fun _ => ?_
    exact within_bind (within_cellarOccupancy_page evts) fun _ => within_pure _

/-- An entry freed. -/
theorem within_freeEntry (n : Nat) : Within freeParts (ownPages freePages freePages) (freeEntry n) := by
  have pc (p : Prim) (h : p.pieces = [.cellar]) : Within freeParts (ownPages freePages freePages) (prim p) :=
    within_prim (by simp [h, freeParts]) (by simp [h])
  have occ : Within freeParts (ownPages freePages freePages) cellarOccupancy :=
    (within_cellarOccupancy_page freePages).mono (fun q h => by simp only [freeParts, wakeParts, List.mem_cons] at h ⊢; tauto)
      (ownPages_mono (by simp [freePages]) fun _ h => h)
  have done : Within freeParts (ownPages freePages freePages) (raise E.CELLAR.REPLAY_DONE) :=
    (within_raise E.CELLAR.REPLAY_DONE (by decide) .other).mono (fun q h => by simp [freeParts, wakeParts, h])
      fun a h => eventWord_ownPages _ _ a (eventWord_mono (by decide) a h)
  have lanes : Within freeParts (ownPages freePages freePages) laneRefresh :=
    within_laneRefresh.mono (fun q h => by simp only [freeParts, List.mem_cons] at h ⊢; tauto) (ownPages_mono (by simp [freePages]) (by simp [freePages]))
  refine within_bind (pc _ rfl) fun _ => within_bind within_getS fun s => ?_
  dsimp only
  split
  · refine within_bind (pc _ rfl) fun _ => ?_
    split
    · exact within_bind done fun _ => within_bind lanes fun _ => occ
    · exact occ
  · exact occ

theorem within_takeHd (h : .cellar ∈ ps) : Within ps f takeHd := by
  refine within_bind within_getS fun s => ?_
  split
  · exact within_pure _
  · exact within_bind (within_prim (by simpa [Prim.pieces] using h) (by simp [Prim.pieces])) fun _ => within_pure _
  · exact within_pure _

theorem within_foldEntry (n : Nat) (b : Bytes) (c : Bool) (h : .cellar ∈ ps) : Within ps f (foldEntry n b c) :=
  within_bind (within_takeHd h) fun _ => within_modEntry _ _ h

/-- ABORT of an item. -/
theorem within_abortEntry (e : CEntry) : Within recordParts (eventWord []) (abortEntry e) :=
  within_ite (within_auditEntry _ _ _ _) (within_pure _)

/-! ### Key slots and nodes -/

/-- The words of the occupancy fields. -/
theorem within_keyOccupancy (evts : List Nat) : Within [.regs] (ownPages [0x35, 0x36] evts) keyOccupancy := by
  refine within_bind within_getS fun s => ?_
  refine within_bind (within_wr_one _ _ (by decide) (by simp) (by simp [ownPages, R.SLOTS_OCC.LIVE])) fun _ => ?_
  refine within_bind (within_wr_one _ _ (by decide) (by simp) (by simp [ownPages, R.SLOTS_OCC.LOADED])) fun _ => ?_
  refine within_bind (within_wr_one _ _ (by decide) (by simp) (by simp [ownPages, R.DERIVE_OCC.VALID])) fun _ => ?_
  exact within_wr_one _ _ (by decide) (by simp) (by simp [ownPages, R.DERIVE_OCC.ORPHANED])

theorem within_setSlot (n : Nat) (l : Slot) (evts : List Nat) : Within [.regs, .slots] (ownPages [0x35, 0x36] evts) (setSlot n l) :=
  within_bind (within_prim (by simp [Prim.pieces]) (by simp [Prim.pieces])) fun _ =>
    (within_keyOccupancy evts).mono (by simp) fun _ h => h

theorem within_setNode (n : Nat) (k : Node) (evts : List Nat) : Within [.regs, .nodes] (ownPages [0x35, 0x36] evts) (setNode n k) :=
  within_bind (within_prim (by simp [Prim.pieces]) (by simp [Prim.pieces])) fun _ =>
    (within_keyOccupancy evts).mono (by simp) fun _ h => h

/-- Counting a use: one slot, or one node. -/
theorem within_countUse (n : Nat) (hs : .slots ∈ ps) (hn : .nodes ∈ ps) : Within ps f (countUse n) := by
  refine within_bind within_getS fun s => ?_
  split
  · exact within_pure _
  · split
    · exact within_prim (by simpa [Prim.pieces] using hn) (by simp [Prim.pieces])
    · exact within_prim (by simpa [Prim.pieces] using hs) (by simp [Prim.pieces])

/-- A load: slots, the node that it attaches, and the occupancy. -/
theorem within_loadSlot (n type : Nat) (tenant : BitVec 3) (m : Bytes) (policy : Word) (prov : Prov) (node entry : Option Nat)
    (evts : List Nat) : Within [.regs, .slots, .nodes] (ownPages [0x35, 0x36] evts) (loadSlot n type tenant m policy prov node entry) := by
  have slot (i : Nat) (l : Slot) : Within [.regs, .slots, .nodes] (ownPages [0x35, 0x36] evts) (setSlot i l) :=
    (within_setSlot i l evts).mono (by simp) fun _ h => h
  have nodeW (i : Nat) (k : Node) : Within [.regs, .slots, .nodes] (ownPages [0x35, 0x36] evts) (setNode i k) :=
    (within_setNode i k evts).mono (by simp) fun _ h => h
  refine within_bind within_getS fun s => ?_
  dsimp only
  have attach : Within [.regs, .slots, .nodes] (ownPages [0x35, 0x36] evts) (match node with
      | some k => do setNode k { (← getS).node k with slot := some n }
      | none => pure ()) := by
    split
    · exact within_bind within_getS fun _ => nodeW _ _
    · exact within_pure _
  split
  · refine within_bind (slot _ _) fun _ => ?_
    split
    · exact within_bind (slot _ _) fun _ => within_bind attach fun _ => within_pure _
    · exact within_bind attach fun _ => within_pure _
  · split
    · exact within_bind (slot _ _) fun _ => within_pure _
    · refine within_bind (slot _ _) fun _ => ?_
      split
      · exact within_bind (slot _ _) fun _ => within_bind attach fun _ => within_pure _
      · exact within_bind attach fun _ => within_pure _

end Sys2Proof.Machine
end

