-- ==== Sys2Proof/Laws/Values.lean ====
section
/-! SUPPORT. What the shared operations leave in the registers: an event raised shows, and a command ended has its result. -/
namespace Sys2Proof.Machine
open Sys2Proof

variable {α : Type}

/-- A field of one word that a program's footprint leaves out keeps its value. -/
theorem Within.fld {ps : List Piece} {f : Nat → Bool} {m : M α} (h : Within ps f m) (x : RegField) (hx : x.hi < 32) (hf : f x.addr = false)
    (s : State) (l : List Prim) : (runAll (m s l).2 s).fld x = (runAll l s).fld x := by
  have := foot_keeps h (I := fun t => regWord t.regs x.addr = regWord (runAll l s).regs x.addr)
    (fun p t hp ht => by rw [hp.regWord _ hf]; exact ht) s l rfl
  simp only [State.fld, fieldVal, if_pos hx, this]

/-- A field just stored. -/
theorem fld_wr (x : RegField) (v : Nat) (h : x.lo ≤ x.hi) (hx : x.hi < 32) (s : State) (l : List Prim) :
    (runAll (wr x v s l).2 s).fld x = v % 2 ^ (x.hi - x.lo + 1) := by
  rw [runAll_wr]
  exact fieldVal_setFieldVal _ _ _ h hx

/-- A field of another word. -/
theorem fld_wr_other (x y : RegField) (v : Nat) (hx : x.hi < 32) (hy : y.hi < 32) (ha : y.addr ≠ x.addr) (s : State) (l : List Prim) :
    (runAll (wr x v s l).2 s).fld y = (runAll l s).fld y := by
  rw [runAll_wr]
  simp only [State.fld, fieldVal, if_pos hy, regWord_setFieldVal_one _ _ _ _ hx ha]

/-- A field of the same word beside the one stored. -/
theorem fld_wr_beside (x y : RegField) (v : Nat) (ha : y.addr = x.addr) (h : x.lo ≤ x.hi) (hx : x.hi < 32) (hy : y.hi < 32)
    (hyl : y.lo ≤ y.hi) (hd : x.hi < y.lo ∨ y.hi < x.lo) (s : State) (l : List Prim) :
    (runAll (wr x v s l).2 s).fld y = (runAll l s).fld y := by
  rw [runAll_wr]
  exact fieldVal_setFieldVal_disjoint _ _ _ _ ha h hx hy hyl hd

/-- A primitive change of another piece keeps every field. -/
theorem fld_prim (p : Prim) (h : .regs ∉ p.pieces) (x : RegField) (s : State) (l : List Prim) :
    (runAll (prim p s l).2 s).fld x = (runAll l s).fld x := by
  have := p.same .regs h (runAll l s)
  simp only [Piece.same] at this
  simp only [prim_apply, runAll_cons, State.fld, ← this]

/-- The event's bit is 1 once it has been set (R91). -/
theorem setEvent_shows (e : PageEvent) (hb : e.bit < 32) (s : State) (l : List Prim) : (runAll (setEvent e s l).2 s).shows e := by
  let raw := (runAll l s).fld (R.PG_EVT_RAW.EVT e.page)
  have eq : (setEvent e s l).2 = if raw.testBit e.bit then l
      else (wrBit (R.PG_EVT_STICKY.EVT e.page) e.bit true s (wr (R.PG_EVT_RAW.EVT e.page) (raw ||| 2 ^ e.bit) s l).2).2 := by
    change ((if raw.testBit e.bit then pure false else (do
      wr (R.PG_EVT_RAW.EVT e.page) (raw ||| 2 ^ e.bit)
      wrBit (R.PG_EVT_STICKY.EVT e.page) e.bit true
      return true) : M Bool) s l).2 = _
    split <;> rfl
  rw [eq]
  split
  · assumption
  · show (State.fld _ _).testBit e.bit = true
    rw [wrBit, M.bind_apply, fld_wr_other _ _ _ (by simp [R.PG_EVT_STICKY.EVT]) (by simp [R.PG_EVT_RAW.EVT])
      (by simp [R.PG_EVT_STICKY.EVT, R.PG_EVT_RAW.EVT])]
    rw [rd_apply, fld_wr _ _ (by simp [R.PG_EVT_RAW.EVT]) (by simp [R.PG_EVT_RAW.EVT])]
    show ((raw ||| 2 ^ e.bit) % 2 ^ 32).testBit e.bit = true
    rw [Nat.testBit_mod_two_pow, Nat.testBit_or, Nat.testBit_two_pow_self]
    simp [hb]

/-- What an entry's way to its sink changes is no PG_EVT_RAW but CHRON's, and there it only sets bits of DEFERRED. So an event of
another page goes on showing. -/
theorem Within.shows {ps : List Piece} {m : M α} (h : Within ps (eventWord []) m) (e : PageEvent) (hp : e.page < 64) (h3 : e.page ≠ 3)
    (s : State) (l : List Prim) : (runAll (m s l).2 s).shows e ↔ (runAll l s).shows e := by
  have hf : eventWord [] (R.PG_EVT_RAW.EVT e.page).addr = false := by
    have h1 : (0x1000 * (e.page % 64) + 0x10) / 0x1000 = e.page := by omega
    have h2 : 0x1000 * (e.page % 64) + 0x10 ≠ 0x3058 := by omega
    simp [eventWord, R.PG_EVT_RAW.EVT, h1, h2, h3]
  simp only [State.shows, h.fld (R.PG_EVT_RAW.EVT e.page) (by simp [R.PG_EVT_RAW.EVT]) hf s l]

/-- An event raised shows. -/
theorem raise_shows (e : PageEvent) (hp : e.page < 64) (h3 : e.page ≠ 3) (hb : e.bit < 32) (c : EntryClass) (s : State) (l : List Prim) :
    (runAll (raise e c s l).2 s).shows e := by
  simp only [raise, M.bind_apply, rd_apply]
  exact ((within_pageEntry _ _ _ _).shows e hp h3 s _).2 (setEvent_shows e hb s l)

/-- A command ended: BUSY is 0, and RESULT is its code, with bit 7 when another command came meanwhile (R257, R613). -/
theorem cmdEnd_ended (u : CmdUnit) (code : Nat) (s : State) (hc : code < 0x80) (ha : u.busy.addr = u.result.addr) (hbl : u.busy.lo = 31)
    (hbh : u.busy.hi = 31) (hrl : u.result.lo = 16) (hrh : u.result.hi = 23)
    (hd : ∀ e, u.done = some e → e.page < 64 ∧ eventWord [e.page] u.busy.addr = false) : ended u code s (runM (cmdEnd u code) s) := by
  have hb : u.busy.hi < 32 := by omega
  have hr : u.result.hi < 32 := by omega
  let v := code + (if mget (fun _ => false) s.cmdLate u.page then 0x80 else 0)
  let said : M Unit := match u.done with
    | some e => raise e
    | none => pure ()
  have e : runM (cmdEnd u code) s = runAll (said s (wr u.busy 0 s (prim (.cmdLate u.page false) s (wr u.result v s []).2).2).2).2 s := rfl
  have keeps (x : RegField) (hx : x.addr = u.busy.addr) (hxh : x.hi < 32) (l : List Prim) :
      (runAll (said s l).2 s).fld x = (runAll l s).fld x := by
    simp only [said]
    cases h : u.done with
    | none => rfl
    | some e => exact (within_raise e (hd e h).1 _).fld x hxh (by rw [hx]; exact (hd e h).2) s l
  rw [ended, e]
  constructor
  · rw [keeps u.busy rfl hb, fld_wr _ _ (by omega) hb]
    simp
  · rw [keeps u.result ha.symm hr, fld_wr_beside _ _ _ ha.symm (by omega) hb hr (by omega) (.inr (by omega)),
      fld_prim _ (by simp [Prim.pieces]), fld_wr _ _ (by omega) hr, hrh, hrl]
    simp only [v]
    split <;> omega

end Sys2Proof.Machine
end

