-- ==== Sys2Proof/Tests/Slice0.lean ====
section
/-! SUPPORT. Tests on fixed values: ill-formed commands are refused, and for every statement a state and operands that meet its
hypotheses, with what the spec says the command does there. Expected values come from the rules cited in the statements. -/
namespace Sys2Proof.Tests
open Sys2Proof Sys2Proof.Machine
-- One test at a time: their kernel evaluations side by side exceed the memory limit.
set_option Elab.async false

/-! ### Small states -/

/-- The state after reset with pages ACTIVE, the CHRON page among them. -/
def up (ps : List Nat) : State :=
  { State.reset with regs := (3 :: ps).foldl (fun r p => mset resetWord r (0x1000 * p + 0x0C) 1) State.reset.regs }

/-- A register field set, a word at a time. -/
def put (f : RegField) (v : Nat) (s : State) : State := runAll (wr f v s []).2 s

/-- A key slot holding a LIVE key that any engine may use. -/
def key (n type : Nat) (m : Bytes) (s : State) : State :=
  let b : Bank := ⟨m, kcvOf type m, 1, 0xFEF10F80, .imported, [], none, 0⟩
  let l : Slot := { st := .live, type := BitVec.ofNat 8 type, active := some b, nextGen := 2 }
  { s with slots := mset (fun _ => {}) s.slots n l }

/-- The clocks acknowledged. -/
def acked (s : State) : State := { s with power := { s.power with ack := [.core, .reg, .smp] } }

/-- A lane in service. -/
def serving (l : Nat) (s : State) : State :=
  { s with lanes := mset (fun _ => {}) s.lanes l { powered := true, tested := true }, regs := mset resetWord s.regs (0x1000 * (8 + l) + 0x0C) 1 }

/-- What a command answers, if it goes on, satisfies a test. -/
abbrev after (i : Instr) (s : State) (p : State → Bool) : Prop := (match exec i s with | .next t => p t | _ => false) = true

/-! ### Ill-formed commands -/

def tooLong : List Byte := List.replicate 65 0
def overlong : Instr := .registerWrite 0 0xF 0 0 {} {} 0 tooLong
theorem test_wf_registerWrite : overlong.wf = false := by decide +kernel
theorem test_wf_memWriteRequest : (Instr.memWriteRequest 0 true 0 0 0 (List.replicate 32 0) 0 {}).wf = false := by decide
theorem test_wf_storageUnitAccept : (Instr.storageUnitAccept (zeros 511) {}).wf = false := by decide +kernel
theorem test_wf_anchorReadback : (Instr.anchorReadback false [0] 0 {}).wf = false := by decide
theorem test_wf_startUpScan_twice : (Instr.startUpScan [(1, List.replicate 64 0), (1, List.replicate 64 0)]).wf = false := by decide
theorem test_wf_startUpScan_slot : (Instr.startUpScan [(64, List.replicate 64 0)]).wf = false := by decide
theorem test_wf_anchorRead : (Instr.anchorRead 0 0 [0]).wf = false := by decide
theorem test_wf_wakeFrame : (Instr.wakeFrame 0 false false true 0 (List.replicate 9 0)).wf = false := by decide
theorem test_wf_moduleReadDone : (Instr.moduleReadDone 0 (some [0])).wf = false := by decide
theorem test_wf_challengePoll : (Instr.challengePoll 0 (some (1, [0]))).wf = false := by decide
theorem test_wf_plain : (Instr.memReadRequest 0x20 false 0 0 0).wf = true := by decide

/-! ### The queue, idle steps and reset -/

/-- No row of the opcode table has bits. -/
theorem test_no_words : decodeTableWord 32 0 = none ∧ State.reset.withFetchWord 32 0 = State.reset := by decide +kernel
theorem test_idle : State.reset.wf ∧ State.reset.pending = [] ∧ State.reset.ready = none
    ∧ (match step State.reset with | .next t => t.time.clk | _ => 1) = 0
    ∧ (match step (acked State.reset) with | .next t => t.time.clk | _ => 0) = 4 := by decide +kernel
/-- A register write waits for its entry; with the AUDIT sink able to take it, the idle step carries it out. -/
def waiting : State := { up [] with chron := { (up []).chron with waiting := [.clk32Healthy] }, time := { clkFailed := true } }
theorem test_ready : waiting.wf ∧ waiting.auditTakes = true ∧ waiting.chron.hold = [] ∧ waiting.chron.rejected = none ∧ waiting.counted = []
    ∧ (match step waiting with | .next t => t.time.clkFailed = false && t.chron.waiting.isEmpty | _ => false) = true := by decide +kernel
theorem test_timeNever : State.reset.wf ∧ State.reset.time.acc.toNat + 2 ^ 32 < 2 ^ 64 ∧ State.reset.fld R.TIME_STAT.HOLDOVER = 0
    ∧ State.reset.time.clkFailed = false ∧ State.reset.asleep = false := by decide +kernel
theorem test_timeAsleep : (put R.POWER_STAT.STATE 2 State.reset).asleep = true := by decide +kernel
theorem test_reset : State.reset.wf ∧ State.reset.view 0x2000 = 0x4F020001 ∧ State.reset.pageState 1 = 1 ∧ State.reset.pageState 2 = 0 := by
  decide +kernel

/-! ### The wake guard and power -/

/-- The guard listens on channel 0 with filter 0 for identifier 0x123, four data bytes and a MAC of four bytes. -/
def guard0 : State :=
  let s := put (R.WAKE_FILT_CTL.VALID 0) 1 (put (R.WAKE_FILT_CTL.ID 0) 0x123 (put (R.WAKE_FILT_AUTH.CHAN 0) 1 (up [0x05, 0x3C])))
  put R.POWER_STAT.DOMAINS_ON 0x1F (put R.WAKE_CFG.GUARD_EN 1 (put R.WAKE_CFG.CHAN_EN 1 (put (R.WAKE_FILT_AUTH.D 0) 0 s)))
def guard1 : State := { guard0 with wake := { guardKey := some (zeros 16), windows := [some 0, none, none, none] } }

theorem test_wakeTrig : guard0.guarding = true ∧ (guard0.fld R.WAKE_CFG.CHAN_EN).testBit 0 = true
    ∧ after (.wakeTrig 0) guard0 (fun t => t.wake.windows = [some 0, none, none, none]) := by decide +kernel
/-- A frame too short for the filter confirms nothing. -/
theorem test_wakeFrame : guard1.heeds ∧ guard1.guarding = true ∧ (guard1.wake.windows.getD 0 none).isSome = true
    ∧ after (.wakeFrame 0 false true true 0x123 [0]) guard1 (fun t => t.wake = guard1.wake) := by decide +kernel
theorem test_wakeFrame_ok : guard1.heeds ∧ guard1.power' = pwAwake
    ∧ after (.wakeFrame 0 false true true 0x123 ([0, 0, 0, 1] ++ (cmac (zeros 16) [0, 0, 0, 0, 1, 0x23, 0, 0, 0, 1]).take 4)) guard1 (fun t =>
      decide (t.shows E.WAKE.CONFIRMED) && decide (t.fld (R.WAKE_FILT_WCTR.LAST_WCTR 0) = 1) && t.wake.req) := by decide +kernel
def windowOver : State := { guard1 with time := { acc := 10000000000 } }
theorem test_listenWindowEnd : windowOver.heeds ∧ 0 + windowOver.listenNs ≤ windowOver.now.toNat
    ∧ after (.listenWindowEnd 0) windowOver (fun t => decide (t.fld R.WAKE_FALSE.COUNT = 1) && t.wake.windows = [none, none, none, none]) := by
  decide +kernel
def backedOff : State := { guard0 with wake := { backoff := [some 5, none, none, none] }, time := { acc := 5 } }
theorem test_backoffEnd : backedOff.now.toNat = 5 ∧ after (.backoffEnd 0) backedOff (fun t => t.wake.backoff = [none, none, none, none]) := by decide +kernel
theorem test_wakeClear : guard1.accepts 0 R.WAKE_CLEAR.CLEAR.addr 1
    ∧ after (.wakeClear 0) { guard1 with wake := { guard1.wake with req := true } } (fun t => t.wake.req = false) := by decide +kernel
theorem test_wakeFiltWctr : (up []).accepts 0 (R.WAKE_FILT_WCTR.LAST_WCTR 0).addr 7
    ∧ after (.wakeFiltWctr 0 0 7) (up []) (fun t => decide (t.fld (R.WAKE_FILT_WCTR.LAST_WCTR 0) = 7)) := by decide +kernel

/-- AWAKE, DESCENDING at step 1 or 3, ASLEEP and ASCENDING. -/
def powered (st step : Nat) : State := put R.POWER_STAT.STEP step (put R.POWER_STAT.STATE st (put R.WAKE_SRC_EN.VBAT 1 (up [0x05, 0x3C])))
theorem test_vbatRestore : (powered 2 0).heeds ∧ (powered 2 0).fld R.WAKE_SRC_EN.VBAT = 1 ∧ (powered 2 0).bnd.mainOff = false
    ∧ after .vbatRestore (powered 2 0) (fun t => decide (t.power' = pwAscending) && decide (t.fld (R.WAKE_SRC.CODE 0) = 6)) := by decide +kernel
theorem test_hostRequestWake : (powered 1 3).heeds ∧ (powered 1 3).power' = pwDescending
    ∧ after (.hostRequestWake 2 1) (powered 1 3) (fun t => decide (t.power' = pwDescending) && decide (t.fld R.POWER_STAT.LATE_WAKE = 1)
      && decide (t.fld (R.WAKE_SRC_DETAIL.DETAIL 0) = 0x02010000)) := by decide +kernel
theorem test_descentAbort : (powered 1 2).heeds ∧ (powered 1 2).power' = pwDescending ∧ (powered 1 2).fld R.POWER_STAT.STEP < 3
    ∧ after (.descentAbort 5 0 0) (powered 1 2) (fun t => decide (t.power' = pwAwake) && decide (t.fld R.POWER_COUNTS.ABORTS = 1)) := by decide +kernel
theorem test_sleep : (powered 0 0).accepts 0 R.POWER_CMD.OP.addr (1 * 2 ^ 28) ∧ (powered 0 0).active 0x05 = true
    ∧ after (.sleep 0) (powered 0 0) (fun t => decide (t.power' = pwDescending) && decide (t.fld R.POWER_STAT.STEP = 1)) := by decide +kernel
theorem test_wake : (powered 1 1).accepts 0 R.POWER_CMD.OP.addr (2 * 2 ^ 28)
    ∧ after (.wake 0) (powered 1 1) (fun t => decide (t.power' = pwAwake) && decide (t.shows E.POWER.ABORTED)) := by decide +kernel
theorem test_hostAccessAsleep : (powered 2 0).asleep = true
    ∧ after .hostAccessAsleep (powered 2 0) (fun t => t.clkReq .reg && t.power.hostSince = some 0) := by decide +kernel
def hostOver : State := { powered 2 0 with power := { hostSince := some 0, req := [(.reg, 0)] }, time := { acc := 100000 } }
theorem test_hostRetentionTimeout : hostOver.asleep = true ∧ 0 + 100000 ≤ hostOver.now.toNat
    ∧ after .hostRetentionTimeout hostOver (fun t => !t.clkReq .reg && t.power.hostSince = none) := by decide +kernel
def asked : State := { powered 0 0 with power := { req := [(.core, 0)] }, time := { acc := 20001 } }
theorem test_clockAck : asked.power.req.find? (fun p => decide (p.1 = clkOf 0)) = some (clkOf 0, 0) ∧ (clkOf 0) ∉ asked.power.ack
    ∧ after (.clockAck 0) asked (fun t => t.power.ack = [.core] && decide (recorded 0x05 0x0020 (alarmPayload 0 0 0 false 0x05) t)) := by
  decide +kernel
theorem test_handshakeViolation : after (.handshakeViolation 3 2) State.reset (fun t =>
    decide (t.fld R.GLOBAL_BND_ERR.COUNT = 1 ∧ t.fld R.GLOBAL_BND_ERR.GROUP = 3 ∧ t.fld R.GLOBAL_BND_ERR.PORT = 2)) := by decide +kernel

theorem test_powerSegCtl : (powered 0 0).accepts 0 R.POWER_SEG_CTL.PARK.addr 1 ∧ (powered 0 0).active 0x05 = true
    ∧ after (.powerSegCtl 0 1) (powered 0 0) (fun t => decide (t.segState 0 = if (powered 0 0).segKey.isSome then 1 else 0)) := by decide +kernel
def seg (st : Nat) : State := put R.POWER_SEG_STAT.STATE st (powered 0 0)
theorem test_segParked : (seg 1).segState 0 = 1 ∧ (seg 1).segHeld 0 = false ∧ (seg 1).segKey = none
    ∧ after (.segParked 0) (seg 1) (fun t => decide (t.segState 0 = 0) && decide (t.shows E.POWER.PARK_FAIL)) := by decide +kernel
theorem test_parkedFrame : (seg 2).segState 0 = 2 ∧ after (.parkedFrame 0) (seg 2) (fun t => decide (t.segState 0 = 3)) := by decide +kernel
theorem test_segUnparked : (seg 3).segState 0 = 3 ∧ (seg 3).power.segRecs.getD 0 [] = []
    ∧ after (.segUnparked 0 {}) (seg 3) (fun t => decide (t.segState 0 = 0) && decide (t.shows E.POWER.SEG_UNPARKED)) := by decide +kernel
theorem test_anchorCommitPoint : (powered 1 3).settled = true ∧ (∀ c < 4, (powered 1 3).fld (R.LOOSE_CTX_STAT.BUSY c) = 0)
    ∧ after (.anchorCommitPoint {}) (powered 1 3) (fun t => decide (t.fld R.POWER_STAT.STEP = 7)) := by decide +kernel
theorem test_descentComplete : (powered 1 7).power' = pwDescending
    ∧ after .descentComplete (powered 1 7) (fun t => decide (t.power' = pwAsleep) && decide (t.fld R.POWER_SLEEPS.COUNT = 1)) := by decide +kernel
def risen : State := { powered 3 5 with power := { ack := [.core, .reg] } }
theorem test_ascentComplete : risen.power' = pwAscending ∧ risen.fld R.POWER_STAT.STEP = 5 ∧ risen.cellar.replay = []
    ∧ after (.ascentComplete {} {}) risen (fun t => decide (t.power' = pwAwake) && decide (t.shows E.POWER.AWAKE)) := by decide +kernel

/-! ### Host accesses and page states -/

/-- A soft reset of an ACTIVE page (outcome 0x6), a narrow write (0x2), a write to a reserved page (0x8), with the AUDIT sink unable (0x9). -/
theorem test_reject_6 : (up [0x20]).wf ∧ after (.registerWrite 5 0xF 0x20008 4 {} {} 0 []) (up [0x20]) (fun t =>
    decide (t.fld (R.PG_WRREJ.COUNT 0x20) = 1 ∧ t.shows (E.PG.WRREJ 0x20) ∧ recorded 0x20 2 (writePayload 4 0 8 6) t ∧ t.pageState 0x20 = 1)) := by
  decide +kernel
theorem test_reject_2 : after (.registerWrite 0 0x7 0x20008 1 {} {} 0 []) (up [0x20]) (fun t =>
    decide (t.fld (R.PG_WRREJ.COUNT 0x20) = 1 ∧ t.pageState 0x20 = 1)) := by decide +kernel
theorem test_reject_8 : carried 0x07 = false ∧ after (.registerWrite 0 0xF 0x07008 1 {} {} 0 []) (up []) (fun t =>
    decide (t.fld R.GLOBAL_RSVD_WR.COUNT = 1)) := by decide +kernel
theorem test_reject_9 : State.reset.auditTakes = false ∧ after (.registerWrite 0 0xF 0x05008 1 {} {} 0 []) State.reset (fun t =>
    t.chron.rejected.isSome && decide (t.fld (R.PG_WRREJ.COUNT 5) = 1)) := by decide +kernel
theorem test_accept : (up []).accepts 0 0x20014 0 ∧ after (.registerWrite 0 0xF 0x20014 0xFFFFFFFF {} {} 0 []) (up []) (fun t =>
    decide (t.fld (R.PG_WRCOUNT.COUNT 0x20) = 1) && regWord t.regs 0x20014 = (BitVec.ofNat 32 (eventBits 0x20)) ||| BitVec.ofNat 32 (pageEvents 0x20).always) := by
  decide +kernel
/-- TIME_VALUE is a 64-bit register of an ACTIVE page: the low word is held, the high word commits both. -/
theorem test_low64 : (up [2]).accepts 0 R.TIME_VALUE.VALUE.addr 7 ∧ low64 R.TIME_VALUE.VALUE.addr = true
    ∧ after (.registerWrite 0 0xF (BitVec.ofNat 18 R.TIME_VALUE.VALUE.addr) 7 {} {} 0 []) (up [2]) (fun t =>
      mget (fun _ => none) t.writeShadow R.TIME_VALUE.VALUE.addr = some 7 && decide (t.fld R.TIME_VALUE.VALUE = 0)) := by decide +kernel
def heldLow : State := { up [2] with writeShadow := [(R.TIME_VALUE.VALUE.addr, some 7)] }
theorem test_reg64HighWrite : heldLow.wf ∧ high64 (R.TIME_VALUE.VALUE.addr + 4) = true ∧ heldLow.accepts 0 (R.TIME_VALUE.VALUE.addr + 4) 1
    ∧ after (.reg64HighWrite 0 (BitVec.ofNat 18 (R.TIME_VALUE.VALUE.addr + 4)) 1) heldLow (fun t => decide (t.fld R.TIME_VALUE.VALUE = 0x100000007)) := by
  decide +kernel
def eventsUp : State := put (R.PG_EVT_RAW.EVT 0x20) 0xF (put (R.PG_EVT_STICKY.EVT 0x20) 0xF (up [0x20]))
theorem test_eventClear : eventsUp.accepts 0 0x2001C 1 ∧ after (.eventClear 0 0x20 true 1) eventsUp (fun t =>
    decide (t.fld (R.PG_EVT_STICKY.EVT 0x20) = 0xE ∧ t.fld (R.PG_EVT_RAW.EVT 0x20) = 0xF)) := by decide +kernel
theorem test_readClear : after (.readClearRegister (BitVec.ofNat 18 R.GLOBAL_BND_ERR.COUNT.addr) 0) (put R.GLOBAL_BND_ERR.COUNT 5 (up [])) (fun t =>
    decide (t.fld R.GLOBAL_BND_ERR.COUNT = 0) && t.out = [.hostRead R.GLOBAL_BND_ERR.COUNT.addr 5]) := by decide +kernel
theorem test_reg64LowRead : after (.reg64LowRead 0x02028) (put (R.PG_LASTWR_TS.TS 2) 0x500000004 (up [2])) (fun t =>
    mget (fun _ => none) t.readShadow 0x0202C = some 5 && t.out = [.hostRead 0x02028 4]) := by decide +kernel

theorem test_pageEnable : (up []).accepts 0 0x24008 1 ∧ (up []).pageState 0x24 = pgOff ∧ (up []).mayEnter 0x24 = true
    ∧ after (.pageEnable 0 0x24 {}) (up []) (fun t => decide (t.pageState 0x24 = pgActive ∧ t.shows (E.PG.STATE_CHG 0x24))) := by decide +kernel
theorem test_pageDisable : (up [0x24]).accepts 0 0x24008 0
    ∧ after (.pageDisable 0 0x24) (up [0x24]) (fun t => decide (t.pageState 0x24 = pgDraining)) := by decide +kernel
theorem test_softReset : (up []).wf ∧ (up []).accepts 0 0x24008 4
    ∧ after (.softReset 0 0x24 false) (up []) (fun t => decide (t.pageState 0x24 = pgOff) && t.srstBusy 0x24) := by decide +kernel
theorem test_seal : (up [0x24]).accepts 0 0x24008 3
    ∧ after (.seal 0 0x24 false true {}) (up [0x24]) (fun t => t.sealed 0x24 && decide (t.pageState 0x24 = pgActive)) := by decide +kernel
def draining (p : Nat) : State := put (R.PG_STAT.STATE p) 2 (up [p])
theorem test_drainComplete : (draining 0x24).pageState 0x24 = pgDraining ∧ (draining 0x24).pageDone 0x24 = true ∧ (draining 0x24).heeds
    ∧ after (.drainComplete (.page 0x24) {}) (draining 0x24) (fun t => decide (t.pageState 0x24 = pgOff)) := by decide +kernel
theorem test_drainQueue : after (.drainComplete (.queue 5) {}) (put (R.QUEUE_Q_STAT.STATE 5) 2 (up [0x11])) (fun t =>
    decide (t.fld (R.QUEUE_Q_STAT.STATE 5) = pgOff)) := by decide +kernel
theorem test_drainPort : after (.drainComplete (.port 9) {}) (put (R.STRM_P_STAT.REARM 9) 1 (put (R.STRM_P_STAT.STATE 9) 2 (up [0x18, 0x1A]))) (fun t =>
    decide (t.fld (R.STRM_P_STAT.STATE 9) = pgActive ∧ t.fld (R.STRM_P_STAT.REARM 9) = 0)) := by decide +kernel
theorem test_drainPair : after (.drainComplete (.pair 127) {}) (put (R.BRIDLE_PAIR_CTL.STATE 127) 2 (up [0x1D])) (fun t =>
    decide (t.fld (R.BRIDLE_PAIR_CTL.STATE 127) = pgOff)) := by decide +kernel
theorem test_drainRegion : after (.drainComplete (.region 15) {}) (put (R.MEMRGN_CTL.STATE 15) 2 (up [0x28])) (fun t =>
    decide (t.rgnState 15 = pgOff)) := by decide +kernel
theorem test_drainSlow : after (.drainSlow 0x24) (draining 0x24) (fun t =>
    mget (fun _ => false) t.slowed 0x24 && decide (t.shows (E.PG.DRAIN_SLOW 0x24))) := by decide +kernel
theorem test_sealAll : (up []).accepts 0 R.GLOBAL_SEAL_ALL.SEAL.addr 1
    ∧ after (.globalSealAll 0) (up []) (fun t => t.sealed 1 && t.sealed 0x3E && t.chron.writer.any fun w => w.entry.code = 4 && w.entry.payload = 0x3E) := by
  decide +kernel
theorem test_softResetRefused : carried 0x24 = true ∧ (up [0x24]).pageState 0x24 = pgActive
    ∧ after (.seal 0 0x24 true true {}) (up [0x24]) (fun t => decide (t.fld (R.PG_WRREJ.COUNT 0x24) = 1) && !t.sealed 0x24) := by decide +kernel

/-! ### Tamper, start-up and resets -/

theorem test_tamperEvent : State.reset.bnd.mainOff = false ∧ srcCounted 0x11 = true
    ∧ after (.tamperEvent 0x11 0) State.reset (fun t => decide (t.fld (R.TAMPER_SRC_STAT.EVENTS 0x11) = 1 ∧ t.fld R.TAMPER_STAT.LAST_SRC = 0x11)) := by
  decide +kernel
def vbatOnly : State := { State.reset with bnd := { mainOff := true }, tamper := { lcVbat := 2 }, keys := { State.reset.keys with vbatA := 1, markA := true } }
theorem test_tamperEvent_vbat : vbatArmed 8 = true ∧ srcFloor 8 = 3 ∧ vbatOnly.logPlace = some 0
    ∧ after (.tamperEvent 8 0) vbatOnly (fun t => decide (t.fld (R.TAMPER_LOG_A.CODE 0) = 8) && t.keys.vbatA = 0) := by decide +kernel
theorem test_selfCheck : after (.selfCheck 1) State.reset (fun t =>
    decide (t.fld R.TAMPER_SELFCHECK.FAILED = 1 &&& selfCheckMask)) := by decide +kernel
theorem test_selfcheckNow : (up [6]).takes 0 U.tamper R.TAMPER_CMD.OP.addr (3 * 2 ^ 28)
    ∧ after (.selfcheckNow 0 0) (up [6]) (fun t => decide (ended U.tamper rcOk (up [6]) t)) := by decide +kernel
def marked : State := put (R.TAMPER_SRC_STAT.LASTING 8) 1 (up [6])
theorem test_clearLasting : marked.takes 0 U.tamper R.TAMPER_CMD.OP.addr (1 * 2 ^ 28 + 8)
    ∧ after (.clearLasting 0 8) marked (fun t => decide (t.fld (R.TAMPER_SRC_STAT.LASTING 8) = 0 ∧ ended U.tamper rcOk marked t)) := by decide +kernel
theorem test_clearLog : (up [6]).takes 0 U.tamper R.TAMPER_CMD.OP.addr (2 * 2 ^ 28)
    ∧ after (.clearLog 0) (put (R.TAMPER_LOG_A.VALID 3) 1 (up [6])) (fun t => decide (t.fld (R.TAMPER_LOG_A.VALID 3) = 0)) := by decide +kernel
theorem test_trip : (up [6]).takes 0 U.tamper R.TAMPER_CMD.OP.addr (4 * 2 ^ 28)
    ∧ after (.trip 0) (up [6]) (fun t => decide (t.fld R.TAMPER_STAT.LAST_SRC = srcTrip ∧ ended U.tamper rcOk (up [6]) t)) := by decide +kernel
def field : State := put R.KEYS_LC.STATE 2 (up [])
theorem test_debugActive : field.wf ∧ field.inField = true ∧ after (.debugActive true) field (fun t =>
    decide (t.fld R.TAMPER_STAT.LAST_GRADE = 0) && t.bnd.dbgActive) := by decide +kernel
theorem test_dbgAuthLow : after .dbgAuthLow { field with bnd := { dbgActive := true, dbgAuth := true } } (fun t =>
    decide (t.fld R.TAMPER_STAT.LAST_SRC = srcDebug) && !t.bnd.dbgAuth) := by decide +kernel

theorem test_poresetRelease : State.reset.bnd.phase = .poreset
    ∧ after (.poresetRelease ⟨true, 5, 8⟩) State.reset (fun t => t.clkReq .smp
        && decide (t.fld R.TAMPER_STAT.STARTUP = 1 ∧ t.fld R.STRM_MACRO_FENCED.FENCED = 5) && t.tamper.startFails = 8) := by decide +kernel
def running : State := { put R.TAMPER_STAT.STARTUP 1 (up []) with bnd := { phase := .run } }
theorem test_fuseValid : running.bnd.phase = .run ∧ running.bnd.mainOff = false ∧ running.tamper.fuseDone = false ∧ fuseParity 0 0x00020202 0x100 = true
    ∧ after (.fuseValid 0 0x00030303 0) running (fun t => t.keys.fuseHeld && t.tamper.fuseDone) := by decide +kernel
/-- The START entry of R589 as the release of OT_PORESET_N raises it. -/
def startHeld : WriterEntry := ⟨⟨0, 0, 3, false, false, true, 0x10, 0, 0, 0, 1⟩, .start, true⟩
def started : State := { running with tamper := { running.tamper with fuseDone := true, restored := true, startFails := 8 }, chron := { running.chron with startAt := some ⟨0, 0⟩, hold := [startHeld] } }
theorem test_startupEnd : started.startUpDone = true ∧ started.fielded = false
    ∧ (started.chron.hold.any fun w => w.cls = .start && w.entry.code = 0x0010 && w.entry.page = 0x03) = true
    ∧ after .startupEnd started (fun t => decide (t.fld R.TAMPER_STAT.STARTUP = 0 ∧ recorded 0x03 0x0010 0 t
        ∧ t.fld R.TAMPER_SELFCHECK.FAILED = 8 &&& selfCheckMask)) := by decide +kernel

theorem test_otResetAssert : running.asleep = false ∧ after .otResetAssert running (fun t => t.bnd.phase = .draining && t.bnd.resetLow) := by decide +kernel
def drained : State := { running with bnd := { phase := .draining, resetLow := true } }
/-- A drain whose work has settled, the premises of RESET_DRAIN_DONE. -/
theorem test_resetDrainDone : drained.wf ∧ drained.bnd.phase = .draining ∧ drained.settled = true ∧ drained.doneSettled = true
    ∧ drained.bnd.resetLow = true := by decide +kernel
theorem test_otResetRelease : after (.otResetRelease {}) { drained with bnd := { phase := .resetDone } } (fun t =>
    t.bnd.phase = .run && decide (t.fld R.TAMPER_STAT.STARTUP = 1)) := by decide +kernel
theorem test_otPoreset : after .otPoreset running (fun t => t.bnd.phase = .poreset && !t.bnd.mainOff && decide (t.pageState 3 = 0)) := by decide +kernel
theorem test_tetherPowerLoss : after .tetherPowerLoss running (fun t => t.bnd.mainOff) := by decide +kernel

/-! ### Time and the chronicle -/

theorem test_timeTick : after (.timeTick 3) (up [2]) (fun t => decide (t.time.acc.toNat * 2 ^ 32 + t.time.frac.toNat = (up [2]).increment)
    && decide (t.time.ticks = 1 ∧ t.time.rcCycles = 3)) := by decide +kernel
theorem test_holdover : (up [2]).heeds ∧ after (.holdover 100) (up [2]) (fun t => t.time.clkFailed && decide (t.fld R.TIME_STAT.HOLDOVER = 1)) := by
  decide +kernel
theorem test_clk32Healthy : after .clk32Healthy { up [2] with time := { clkFailed := true } } (fun t => !t.time.clkFailed) := by decide +kernel
/-- Discipline is on, and the time base is valid. -/
def following : State := put R.TIME_STAT.VALID 1 (put R.TIME_DISC.EN 1 (up [2]))
theorem test_ptpStrobe : following.heeds ∧ following.disciplining = true
    ∧ after (.ptpStrobe 946684800 1000) following (fun t => decide (t.fld R.TIME_OFFSET.OFF = 1000 ∧ t.fld R.TIME_STAT.DISCIPLINED = 1)) := by decide +kernel
/-- A strobe whose nanoseconds are no part of a second. -/
theorem test_ptpStrobe_bad : after (.ptpStrobe 946684800 1000000000) following (fun t => decide (t.fld R.TIME_STAT.SUSPENDED = 1)) := by decide +kernel
theorem test_ptpStrobeGap : after .ptpStrobeGap following (fun t => decide (t.fld R.TIME_STAT.SUSPENDED = 1)) := by decide +kernel
def nonced : State := { following with time := { following.time with nonceAt := some 0, acc := 60000000000 } }
theorem test_nonceExpire : nonced.liveNonce = none ∧ after .nonceExpire nonced (fun t => t.time.nonceAt = none) := by decide +kernel
def alarmed : State := put R.TIME_ALARM_CTL.EN 1 (up [2])
theorem test_alarm : alarmed.heeds ∧ alarmed.fld R.TIME_ALARM_CTL.EN = 1 ∧ alarmed.fld R.TIME_ALARM.AT ≤ alarmed.now.toNat
    ∧ after .alarm alarmed (fun t => decide (t.fld R.TIME_ALARM_CTL.EN = 0 ∧ t.shows E.TIME.ALARM)) := by decide +kernel

def setTo (v : Nat) : State := put R.TIME_VALUE.VALUE v (up [2])
theorem test_set : (setTo 77).takes 0 U.time R.TIME_CMD.OP.addr (1 * 2 ^ 28) ∧ (setTo 77).fielded = false
    ∧ after (.setTime 0) (setTo 77) (fun t => t.time.acc = 77 && decide (t.fld R.TIME_STAT.VALID = 1 ∧ t.fld R.TIME_STEPS.COUNT = 1)) := by
  decide +kernel
def fieldTime : State := put R.KEYS_LC.STATE 2 (setTo 77)
theorem test_step : fieldTime.takes 0 U.time R.TIME_CMD.OP.addr (2 * 2 ^ 28) ∧ fieldTime.fielded = true
    ∧ after (.step 0) fieldTime (fun t => decide (t.time.acc = 0 ∧ t.shows E.TIME.STEP_REFUSED ∧ ended U.time rcState fieldTime t)) := by
  decide +kernel
theorem test_challenge : (up [2]).takes 0 U.time R.TIME_CMD.OP.addr (3 * 2 ^ 28)
    ∧ after (.challenge 0) (up [2]) (fun t => t.rng.reqs = [⟨.ordinary, .timeNonce, 32, 0⟩]) := by decide +kernel
/-- A statement that sets the time, for a nonce that is not live. -/
def stmt : Bytes := [0xB4, 0x17, 1, 2] ++ zeros 44
def authState : State := key 0 0x18 (zeros 64) (up [2, 0x37])
def authMem : Dram := ⟨[(0, stmt ++ zeros 64)], []⟩
theorem test_auth : authState.takes 0 U.time R.TIME_CMD.OP.addr (4 * 2 ^ 28) ∧ dramRead authMem 0 48 = some stmt
    ∧ authFormatOk stmt false = true ∧ dramRead authMem 48 64 = some (zeros 64)
    ∧ (match authState.useKey 0 { types := [0x18, 0x19, 0x1A, 0x1B], engine := some .pke, enc := some false } with | .ok _ => true | _ => false) = true
    ∧ after (.auth 0 authMem) authState (fun t => decide (ended U.time rcState authState t ∧ t.shows E.TIME.STEP_REFUSED)) := by decide +kernel

/-- One entry of each sink in the writer. -/
def entry0 : Entry := { ts := 5, seq := 1, page := 6, cont := false, unsealed := false, held := false, code := 0x20, req := 0, payload := 7, part := 0, parts := 1 }
def written (audit : Bool) : State := { up [] with chron := { (up []).chron with writer := [⟨entry0, .immediate, audit⟩], bankB := { (up []).chron.bankB with words := [9, 8] } } }
theorem test_chronEntry : (written true).wf ∧ (written true).takeEntry (written true).chron.writer = some (⟨entry0, .immediate, true⟩, [])
    ∧ (written true).auditTakes = true ∧ (written true).sealDue = false ∧ 1 < max 1 ((written true).fld R.CHRON_CFG.SEAL_EVERY)
    ∧ after .chronEntry (written true) (fun t => decide (t.fld R.CHRON_AUDIT_TAIL.INDEX = 1) && t.chron.sinceSeal = 1) := by decide +kernel
theorem test_chronEntry_trace : (written false).takeEntry (written false).chron.writer = some (⟨entry0, .immediate, false⟩, [])
    ∧ (written false).chron.remain ≠ 0 ∧ after .chronEntry (written false) (fun t => t.chron.fill.words.length = 9) := by decide +kernel
/-- With the page not ACTIVE the item is lost. -/
theorem test_chronEntry_lost : after .chronEntry { State.reset with chron := (written false).chron } (fun t => decide (t.fld R.CHRON_TRACE_LOST.COUNT = 1)) := by
  decide +kernel
def holding : State := { up [] with chron := { (up []).chron with hold := [⟨entry0, .immediate, true⟩] } }
theorem test_holdDrain : holding.wf ∧ holding.auditTakes = true ∧ holding.sealDue = false ∧ 1 < max 1 (holding.fld R.CHRON_CFG.SEAL_EVERY)
    ∧ holding.auditUsed + 1 < 2 ^ holding.auditLog2
    ∧ after .holdDrain holding (fun t => decide (t.fld R.CHRON_AUDIT_TAIL.INDEX = 1) && t.chron.hold = []) := by decide +kernel
/-- HEAD may go up to TAIL, and no further. -/
def ringed : State := put R.CHRON_AUDIT_TAIL.INDEX 3 (up [])
theorem test_head : ringed.accepts 0 R.CHRON_AUDIT_HEAD.INDEX.addr 3 ∧ ringed.auditUsed = 3
    ∧ after (.chronAuditHead 0 3) ringed (fun t => decide (t.fld R.CHRON_AUDIT_HEAD.INDEX = 3)) := by decide +kernel
theorem test_head_bad : ringed.accepts 0 R.CHRON_AUDIT_HEAD.INDEX.addr 4
    ∧ after (.chronAuditHead 0 4) ringed (fun t => decide (t.fld R.CHRON_AUDIT_HEAD.INDEX = 0 ∧ t.shows E.CHRON.AUDIT_BAD)) := by decide +kernel
theorem test_auditBuserr : after .auditBuserr ringed (fun t => decide (t.fld R.CHRON_AUDIT_STAT.STOPPED = 1) && !t.auditTakes) := by decide +kernel

theorem test_sealNow : (up []).takes 0 U.chron R.CHRON_CMD.OP.addr (1 * 2 ^ 28)
    ∧ after (.sealNow 0) (up []) (fun t => decide (ended U.chron rcOk (up []) t ∧ recorded 0x03 0x0011 0 t)) := by decide +kernel
theorem test_check : (up []).takes 0 U.chron R.CHRON_CMD.OP.addr (2 * 2 ^ 28) ∧ (up []).auditKey = none
    ∧ after (.check 0) (up []) (fun t => decide (ended U.chron rcState (up []) t)) := by decide +kernel
theorem test_sign : (up []).takes 0 U.chron R.CHRON_CMD.OP.addr (3 * 2 ^ 28) ∧ (up []).attestLoaded = false
    ∧ after (.sign 0) (up []) (fun t => decide (ended U.chron rcState (up []) t)) := by decide +kernel
def attesting : State := key attestSlot 0x10 (zeros 31 ++ [1]) (put R.RNG_STAT.SRC srcRun (up [0x3A, 0x37]))
theorem test_sign_asks : attesting.attestLoaded = true ∧ after (.sign 0) attesting (fun t =>
    decide (ended U.chron rcState attesting t) || t.rng.reqs = [⟨.ordinary, .chronBlind, 40, 0⟩]) := by decide +kernel
def traced (o : Option Nat) : State := { up [] with chron := { (up []).chron with bankA := { (up []).chron.bankA with words := [0x80000020, 1, 2] }, openAt := o } }
theorem test_flush : (traced none).accepts 0 R.CHRON_TRACE_CTL.FLUSH.addr 1
    ∧ after (.flush 0) (traced none) (fun t => t.chron.fillB && t.chron.drain.words = [0x80000020, 1, 2] && decide (t.shows E.CHRON.FLUSH_DONE)) := by
  decide +kernel
theorem test_flush_open : after (.flush 0) (traced (some 0)) (fun t => t.chron.flushing && !t.chron.fillB) := by decide +kernel
theorem test_flushNow : (traced (some 0)).accepts 0 R.CHRON_TRACE_CTL.FLUSH.addr 2
    ∧ after (.flushNow 0) (traced (some 0)) (fun t => t.chron.openAt = some 0 && t.chron.openCont && decide (t.fld R.CHRON_TRACE_SPLIT.COUNT = 1)) := by
  decide +kernel
def drainB : State := { up [] with chron := { (up []).chron with bankB := { (up []).chron.bankB with words := [9, 8] } } }
theorem test_traceData : after .chronTraceData drainB (fun t => t.out = [.hostRead R.CHRON_TRACE_DATA.WORD.addr 9] && t.chron.drain.read = 1) := by
  decide +kernel
/-! ### Lanes and the random-number generator -/

/-- Lane 0 is in service, lane 1 too. -/
def laned : State :=
  { put R.POWER_STAT.DOMAINS_ON 0xFFFF (up [8, 9, 0x0C]) with lanes := [(0, { powered := true, tested := true }), (1, { powered := true, tested := true })] }
def laneSet (l : LaneState) : State := { put R.POWER_STAT.DOMAINS_ON 0xFFFF (up [8, 9, 0x0C]) with lanes := [(0, l)] }
def aBlock (w : BlockOf) (bad : Bool) : LaneBlock := ⟨w, zeros 16, [], 0, false, [], [], [], bad⟩
/-- A known-answer block leaves O2, wrong. -/
def leaving : State := laneSet { powered := true, tested := true, pipe := [(31, aBlock (.known 0) false)] }
theorem test_laneBlockDone : leaving.wf ∧ (leaving.lane 0).pipe.find? (fun p => p.2.what = namedBlock .known 0 0) = some (31, aBlock (.known 0) false)
    ∧ (leaving.lane 0).pipe.filter (fun p => decide (31 ≤ p.1)) = [(31, aBlock (.known 0) false)]
    ∧ after (.laneBlockDone 0 .known 0 0) leaving (fun t =>
      decide (t.fld (R.LANE_BLOCKS.COUNT 0) = 1 ∧ t.time.clk = 1) && !(t.lane 0).katGood && (t.lane 0).pipe.isEmpty) := by decide +kernel
theorem test_laneBlockDone_still : after (.laneBlockDone 0 (.entry 0) 0 3) laned (fun t => t = laned) := by decide +kernel
/-- A block with INJECT's parity error reaches S1. -/
def injected : State := laneSet { powered := true, tested := true, pipe := [(1, aBlock (.known 0) true)] }
theorem test_laneBlockDone_inject : after (.laneBlockDone 0 .known 0 0) injected (fun t =>
    decide (t.fld (R.LANE_FAULT_STAT.LAST_CAUSE 0) = 7 ∧ t.fld (R.LANE_FAULT_STAT.STAGE 0) = 2)) := by decide +kernel
/-- An item on lane 0 with one block committed. -/
def onLane : LaneItem := { owner := .entry 0, order := 0, cls := 1, tagged := true, blocks := 5, lane := some 0, next := 3, out := 2, ctxA := { index := 1 }, ctxB := { index := 1 } }
def itemed (x : LaneItem) (s : State) : State := { s with sched := { s.sched with items := [x] } }
theorem test_laneFault : (laned.lane 0).powered = true ∧ (laned.lane 0).fenced = false
    ∧ after (.laneFault 0 38 3 false) (itemed onLane laned) (fun t => decide (t.fld (R.LANE_FAULT_STAT.LAST_CAUSE 0) = 4)
      && t.sched.items = [{ onLane with next := 1, out := 1, replayTo := 3, lane := none, was := some 0 }] && (t.lane 0).kat = some .fault) := by
  decide +kernel
/-- Two bits of one byte escape parity. -/
theorem test_laneFault_escapes : after (.laneFault 0 0 3 true) laned (fun t => t = laned) := by decide +kernel
/-- The fault that reaches GUST_LIMIT is lasting, and the lane is fenced once its test has passed. -/
theorem test_laneFault_lasting : after (.laneFault 0 0 7 true) (put (R.LANE_CFG.GUST_LIMIT 0) 1 laned) (fun t =>
    (t.lane 0).lasting && decide (t.fld (R.LANE_FAULT_STAT.LAST_CAUSE 0) = 2)) := by decide +kernel
def tested (r : KatReason) : State := laneSet { powered := true, tested := decide (r ≠ .entry), kat := some r, katLeft := 6 }
theorem test_katComplete_lasting : after (.katComplete 0 true) (laneSet { powered := true, tested := true, kat := some .fault, lasting := true }) (fun t =>
    (t.lane 0).fenced && decide (t.pageState 8 = pgFault)) := by decide +kernel
/-- A passed test sends the item on to lane 1. -/
def moving : State := itemed { onLane with lane := none, was := some 0 }
  { laned with lanes := [(0, { powered := true, tested := true, kat := some .fault }), (1, { powered := true, tested := true })] }
theorem test_katComplete_moves : moving.wf ∧ moving.takesItems 1 = true ∧ (∀ j < 4, j ≠ 1 → j ≠ 0 → moving.takesItems j = false)
    ∧ after (.katComplete 0 true) moving (fun t => decide (t.fld (R.LANE_REPLAYS.COUNT 0) = 1 ∧ t.shows (E.LANE.REPLAY_OUT 0))
      && t.sched.items = [{ onLane with lane := some 1 }]) := by decide +kernel
theorem test_katComplete : ((tested .entry).lane 0).kat = some .entry
    ∧ after (.katComplete 0 true) (tested .entry) (fun t => (t.lane 0).tested && decide (t.fld (R.LANE_BLOCKS.COUNT 0) = 6)) := by decide +kernel
theorem test_katComplete_fails : after (.katComplete 0 false) (tested .fault) (fun t =>
    (t.lane 0).fenced && decide (t.fld (R.LANE_FAULT_STAT.LAST_CAUSE 0) = 5)) := by decide +kernel
theorem test_katPeriod : after (.katPeriod 0) laned (fun t => (t.lane 0).kat = some .periodic) := by decide +kernel
theorem test_katNow : laned.accepts 0 (R.LANE_CMD.KAT_NOW 0).addr 1 ∧ after (.katNow 0 0) laned (fun t => (t.lane 0).kat = some .commanded) := by
  decide +kernel
theorem test_fence : laned.accepts 0 (R.LANE_CMD.KAT_NOW 1).addr 2 ∧ laned.laneAvail 1 = true
    ∧ after (.fence 0 1) laned (fun t => (t.lane 1).fenced && decide (t.fld (R.LANE_FAULT_STAT.LAST_CAUSE 1) = 6)) := by decide +kernel
theorem test_inject : laned.accepts 0 (R.LANE_CMD.KAT_NOW 1).addr 4 ∧ laned.inField = false
    ∧ after (.inject 0 1) laned (fun t => (t.lane 1).inject = true) := by decide +kernel
theorem test_lanePowerUp : ((up [8]).lane 0).powered = false ∧ (up [8]).laneAvail 0 = true
    ∧ after (.lanePowerUp 0) (up [8]) (fun t => t.lane 0 = { powered := true, kat := some .entry, katLeft := 6 }) := by decide +kernel
def halfSet : List ClassSet := List.replicate 8 ⟨16, 32, 1⟩
def setWaits : State := { laned with sched := { waiting := some halfSet } }
theorem test_schedWindow : setWaits.active 0x0C = true ∧ after .schedWindow setWaits (fun t =>
    t.sched.committed = some halfSet && t.sched.credit = List.replicate 8 32 && decide (t.shows E.SCHED.COMMIT_DONE)) := by decide +kernel
theorem test_commit : laned.accepts 0 R.SCHED_CMD.COMMIT.addr 1 ∧ after (.commit 0) laned (fun t => t.sched.waiting.isSome) := by decide +kernel
theorem test_commit_bad : after (.commit 0) (put (R.SCHED_CLASS.SHARE 0) 200 (put (R.SCHED_CLASS.SHARE 1) 200 laned)) (fun t =>
    t.sched.waiting.isNone && decide (t.shows E.SCHED.SHARE_BAD)) := by decide +kernel

/-- The entropy source in a state. -/
def src (v : Nat) : State := acked (put R.RNG_STAT.SRC v (put R.POWER_STAT.DOMAINS_ON 0xFFFF (up [0x3A])))
theorem test_entropyPowerUp : (src 0).wf ∧ (src 0).heeds ∧ after (.entropyPowerUp true) (src 0) (fun t =>
    t.clkReq .smp && decide (t.fld R.RNG_STAT.SRC = srcStartup)) := by decide +kernel
theorem test_rngRestart : (src srcFaulted).accepts 0 R.RNG_CMD.RESEED.addr 2
    ∧ after (.rngRestart 0 true) (src srcFaulted) (fun t => decide (t.fld R.RNG_STAT.SRC = srcStartup)) := by decide +kernel
theorem test_reseed : (src srcRun).accepts 0 R.RNG_CMD.RESEED.addr 1 ∧ after (.reseed 0) (src srcRun) (fun t => t.rng.reseed) := by decide +kernel
/-- Samples that are all alike fail the repetition count test. -/
theorem test_seedReady : (src srcRun).heeds ∧ (match healthRun (src srcRun).rctC (src srcRun).aptC ⟨false, 0, false, 0, 0⟩ ((src srcRun).samples 0) with
      | .error _ => true | .ok _ => false) = true
    ∧ after (.seedReady 0) (src srcRun) (fun t => decide (t.fld R.RNG_HEALTH.LAST_TEST = 1 ∧ t.fld R.RNG_STAT.SRC = srcRestart)) := by decide +kernel
theorem test_healthFail : after (.healthFail true) (src srcRun) (fun t =>
    decide (t.fld R.RNG_HEALTH.LAST_TEST = 2 ∧ t.fld R.RNG_HEALTH.FAILURES = 1)) := by decide +kernel
theorem test_restartDiscardEnd : after .restartDiscardEnd (src srcRestart) (fun t => decide (t.fld R.RNG_STAT.SRC = srcStartup)) := by decide +kernel
def seeded : State := { src srcStartup with rng := { (src srcStartup).rng with seeds := [zeros 48], scrambled := true } }
theorem test_drbgInstantiate : seeded.heeds ∧ seeded.rng.drbg = none
    ∧ after .drbgInstantiate seeded (fun t => t.rng.seeds = [] && decide (t.fld R.RNG_STAT.SRC = srcRun)) := by decide +kernel
def fifoed : State := { src srcRun with rng := { fifo := [5, 6] } }
theorem test_rngDataRead : fifoed.active 0x3A = true ∧ fifoed.domainOn 15 = true
    ∧ after .rngDataRead fifoed (fun t => t.rng.fifo = [6] && t.out = [.hostRead R.RNG_DATA.WORD.addr 5]) := by decide +kernel
theorem test_rngDataRead_empty : after .rngDataRead (src srcRun) (fun t =>
    t.out = [.hostRead R.RNG_DATA.WORD.addr 0] && decide (t.fld R.RNG_STAT.UNDERRUN = 1)) := by decide +kernel
theorem test_rngRawRead : after (.rngRawRead 9) (src srcRun) (fun t => t.out = [.hostRead R.RNG_RAW.WORD.addr 9])
    ∧ after (.rngRawRead 9) (put R.KEYS_LC.STATE 2 (src srcRun)) (fun t => t.out = [.hostRead R.RNG_RAW.WORD.addr 0]) := by decide +kernel
theorem test_testEn : (src srcRun).accepts 0 R.RNG_TEST_CTL.TEST_EN.addr 1
    ∧ after (.testEn 0 true) (src srcRun) (fun t => decide (t.fld R.RNG_TEST_CTL.TEST_ACTIVE = 1)) := by decide +kernel
theorem test_testEn_refused : after (.testEn 0 true) (put R.KEYS_LC.STATE 1 (src srcRun)) (fun t =>
    decide (t.fld R.RNG_TEST_CTL.TEST_ACTIVE = 0 ∧ t.shows E.RNG.TEST_REFUSED)) := by decide +kernel
def drbg0 : Drbg := ⟨zeros 32, zeros 16⟩
def asking : State := { src srcRun with rng := { drbg := some drbg0, reqs := [⟨.ordinary, .timeNonce, 32, 0⟩] } }
theorem test_drbgGenerate : asking.wf ∧ asking.heeds ∧ asking.srcFault = false ∧ asking.rng.drbg = some drbg0
    ∧ nextRequest asking.rng.reqs false = some ⟨.ordinary, .timeNonce, 32, 0⟩
    ∧ asking.fld R.RNG_RESEED.COUNT < 4096 * asking.fld R.RNG_RESEED.INTERVAL := by decide +kernel
/-! ### Streams and Bridle -/

/-- The words of an association: kind, port, handle and slot. -/
def sa (kind port h slot : Nat) : List Word :=
  [BitVec.ofNat 32 (2 ^ 31 + kind * 2 ^ 27 + port * 2 ^ 22), 0, 0, BitVec.ofNat 32 (slot * 2 ^ 16), 0, BitVec.ofNat 32 (h * 2 ^ 16)] ++ List.replicate 10 0
/-- Ports 0 to 31 enabled, with the lookup tables and two lanes in service. -/
def ported : State :=
  let s := key 0 1 (zeros 16) (up [8, 9, 0x18, 0x19, 0x1A, 0x1B, 0x1C, 0x1D, 0x20, 0x24, 0x35])
  let s := put (R.STRM_P_STAT.STATE 16) 1 (put (R.STRM_P_STAT.STATE 1) 1 (put (R.STRM_P_STAT.STATE 0) 1 s))
  let s := put R.POWER_STAT.DOMAINS_ON 0xFFFF s
  { s with lanes := [(0, { powered := true, tested := true }), (1, { powered := true, tested := true })], lookup := { salted := true } }
def withItem (n : Nat) (i : SItem) (s : State) : State := { s with ports := [(n, { s.port n with items := [i] })] }
def item0 : SItem := { id := 0, tx := false, bankB := false, units := [0], maxItem := 4, bytes := zeros 64 }

theorem test_sofAdmit : ported.wf ∧ ported.mayAdmit 0 false = true ∧ ported.loopPeer 0 = none ∧ ported.room 0 = true ∧ itemUnits 60 ≤ ported.maxItem 0
    ∧ after (.sofAdmit 0 false (zeros 60)) ported (fun t => (t.port 0).items.map SItem.bytes = [zeros 60] && t.streams.nextId = 1) := by decide +kernel
/-- Above HIGH a receive frame waits. -/
def congested : State := { ported with ports := [(0, { xoff := true })] }
theorem test_sofAdmit_xoff : congested.mayAdmit 0 false = true ∧ after (.sofAdmit 0 false [1]) congested (fun t =>
    decide (t.fld (R.STRM_P_STAT.WAIT_ADMIT 0) = 1) && (t.port 0).items = []) := by decide +kernel
theorem test_itemEnd : (withItem 0 item0 ported).openOf 0 false = some item0 ∧ itemUnits 68 ≤ item0.maxItem
    ∧ after (.itemEnd 0 false [1, 2, 3, 4]) (withItem 0 item0 ported) (fun t => (t.port 0).lastWord.getLsbD 31
      && (t.port 0).items.map (fun i => (i.isOpen, i.bytes)) = [(false, zeros 64 ++ [1, 2, 3, 4])]) := by decide +kernel
theorem test_producerErr : after (.producerErr 0 false true) (withItem 0 item0 ported) (fun t =>
    (t.port 0).items = [] && decide (t.fld (R.STRM_P_VOIDED.COUNT 0) = 1)) := by decide +kernel
def sending : SItem := { item0 with tx := true, started := true, look := .miss, entry := some 7 }
theorem test_txUnderrun : (withItem 0 sending ported).openOf 0 true = some sending
    ∧ after (.txUnderrun 0) (withItem 0 sending ported) (fun t => decide (t.fld (R.STRM_P_EVT.UNDERRUN 0) = 1)) := by decide +kernel

/-- A frame with a SecTAG, short length 4, from the SCI 0, and one without. -/
def secFrame : Bytes := zeros 12 ++ [0x88, 0xE5, 0x00, 4] ++ zeros 24
def rxItem : SItem := { item0 with bytes := secFrame, isOpen := false }
def rx0 : List Word := sa 0 0 5 0
/-- An association installed where a probe finds it. -/
def install (ws : List Word) (s : State) : State := { s with assoc := mset (fun _ => none) s.assoc (locOf 0 (s.bucket 0 (keyBlock ws)) 0) (some ws) }
theorem test_assocLookup : (withItem 0 rxItem (install rx0 ported)).wf ∧ headerIn 0 rxItem = true ∧ isSecTag secFrame = true ∧ tciBad secFrame = false
    ∧ (withItem 0 rxItem (install rx0 ported)).lookRx 0 0 0 = .hit (copyOf rx0)
    ∧ after (.assocLookup 0 false) (withItem 0 rxItem (install rx0 ported)) (fun t => (t.port 0).items.map SItem.look = [.hit (copyOf rx0)]) := by
  decide +kernel
theorem test_assocLookup_miss : (withItem 0 rxItem ported).lookRx 0 0 0 = .miss ∧ after (.assocLookup 0 false) (withItem 0 rxItem ported) (fun t =>
    decide (t.fld (R.STRM_P_RX_NOSA.COUNT 0) = 1)) := by decide +kernel
def txItem : SItem := { item0 with tx := true }
theorem test_assocLookup_tx : headerIn 0 txItem = true ∧ after (.assocLookup 0 true) (withItem 0 txItem (put (R.STRM_P_CFG.EGR_NOSA 0) 1 ported)) (fun t =>
    (t.port 0).items.map SItem.look = [.miss]) := by decide +kernel
theorem test_macroGust : ported.macroOut 0 = false ∧ tripleOf 0 = 0 / 3 ∧ macroPart 0 (tripleUnit 0 false 0) ≠ 2
    ∧ after (.macroGust 0 0 false 0 true) (withItem 0 item0 ported) (fun t =>
      decide ((t.fld R.STRM_MACRO_FENCED.FENCED).testBit 0 = true ∧ t.fld R.STRM_MACRO_RECON.COUNT = 1)) := by decide +kernel

def freshTx : State := { install (sa 1 0 5 0) ported with counters := [(5, { started := true })], anchor := { leased := true } }
def tx0 : SItem := { txItem with look := .hit (copyOf (sa 1 0 5 0)) }
theorem test_egressAccept : (withItem 0 { txItem with look := .miss } ported).entryFree
    ∧ after (.egressAccept 0) (withItem 0 { txItem with look := .miss } ported) (fun t => (t.port 0).items.all (fun i => i.entry.isSome) && decide (t.inUse.length = 1)) := by
  decide +kernel
theorem test_egressAccept_hit : (withItem 0 tx0 freshTx).wf ∧ (withItem 0 tx0 freshTx).noLane = false ∧ (freshTx.current (copyOf (sa 1 0 5 0))).isSome = true
    ∧ freshTx.keyRefused (sa 1 0 5 0) (some .stream) true = false ∧ freshTx.issuesNow .stream (sa 1 0 5 0) := by decide +kernel
def clearRx : SItem := { rxItem with look := .miss }
theorem test_ingressAccept : after (.ingressAccept 0) (withItem 0 clearRx ported) (fun t =>
    (t.port 0).items.map (fun i => (i.verdict, i.entry.isSome, i.out)) = [(.passed, true, secFrame)]) := by decide +kernel
def hitRx : SItem := { rxItem with look := .hit (copyOf rx0) }
theorem test_ingressAccept_hit : ported.keysOk rx0 (some .stream) false = true
    ∧ after (.ingressAccept 0) (withItem 0 hitRx (install rx0 ported)) (fun t => t.inUse.any fun p : Nat × CEntry => decide (p.2.valueA = 0)) := by decide +kernel
/-- An accepted item whose entry holds no key does not open. -/
def centry : CEntry := { kind := .ingress, stamp := ⟨0, 0⟩, order := 0 }
def accepted (i : SItem) (s : State) : State := let s := withItem 0 { i with entry := some 9 } s
  { s with cellar := { s.cellar with entries := [(9, some centry)], nextOrder := 1 } }
theorem test_ingressVerifyDone_lane : (accepted hitRx (install rx0 ported)).itemCanWork { hitRx with entry := some 9 } ∧ slBad hitRx.bytes = false
    ∧ (accepted hitRx (install rx0 ported)).noLane = false ∧ (accepted hitRx (install rx0 ported)).onlyItem 0 { hitRx with entry := some 9 } := by
  decide +kernel
theorem test_ingressVerifyDone : (accepted hitRx (install rx0 ported)).unverified 0 = some ({ hitRx with entry := some 9 }, copyOf rx0, centry)
    ∧ after (.ingressVerifyDone 0) (accepted hitRx (install rx0 ported)) (fun t => decide (t.fld (R.STRM_P_RX_AUTH_FAIL.COUNT 0) = 1)) := by decide +kernel

def verified : SItem := { hitRx with verdict := .passed, out := zeros 20, bankB := true }
theorem test_streamRelease : (accepted verified ported).itemHeld { verified with entry := some 9 } = false
    ∧ after (.streamRelease 0 false) (accepted verified ported) (fun t =>
      t.out = [.rxo 0 (zeros 20) false] && (t.port 0).items = [] && t.inUse = [] && decide (t.fld (R.STRM_P_RX_OK.COUNT 0) = 1)) := by decide +kernel
def onWire : SItem := { txItem with look := .miss, isOpen := false, started := true, out := zeros 64 }
theorem test_streamRelease_lane : (accepted onWire ported).itemCanWork { onWire with entry := some 9 }
    ∧ (accepted onWire ported).onlyItem 0 { onWire with entry := some 9 } ∧ (accepted onWire ported).itemHeld { onWire with entry := some 9 } = false := by
  decide +kernel
theorem test_streamRelease_tx : (accepted onWire ported).onTxo 0 = some (0, 0, { onWire with entry := some 9 })
    ∧ after (.streamRelease 0 true) (accepted onWire ported) (fun t =>
      t.out = [.txo 0 (zeros 64) false] && decide (t.fld (R.STRM_P_TX_CLEAR.COUNT 0) = 1)) := by decide +kernel
/-- With the level at the new LOW, XOFF falls. -/
theorem test_strmPWm : congested.accepts 0 (R.STRM_P_WM.LOW 0).addr 0x00100000 ∧ (congested.port 0).level = 0
    ∧ after (.strmPWm 0 0 0x00100000) congested (fun t => !(t.port 0).xoff && decide (t.fld (R.STRM_P_WM.HIGH 0) = 16)) := by decide +kernel

def portOff : State := put (R.STRM_P_STAT.STATE 0) 0 ported
theorem test_portEn : portOff.accepts 0 (R.STRM_P_CTL.EN 0).addr 1 ∧ portOff.active (portPage 0) = true
    ∧ after (.portEn 0 0 true) portOff (fun t => decide (t.fld (R.STRM_P_STAT.STATE 0) = pgActive ∧ t.fld (R.STRM_P_CTL.EN 0) = 1)) := by decide +kernel
def enabled : State := put (R.STRM_P_CTL.EN 0) 1 ported
theorem test_portEn_off : enabled.accepts 0 (R.STRM_P_CTL.EN 0).addr 0
    ∧ after (.portEn 0 0 false) enabled (fun t => decide (t.fld (R.STRM_P_STAT.STATE 0) = pgDraining ∧ t.fld (R.STRM_P_STAT.FLUSH_RX 0) = 1)) := by
  decide +kernel
theorem test_flushRx : enabled.accepts 0 (R.STRM_P_CTL.EN 0).addr 3
    ∧ after (.flushRx 0 0) enabled (fun t => decide (t.fld (R.STRM_P_STAT.FLUSH_RX 0) = 1)) := by decide +kernel
theorem test_flushTx : enabled.accepts 0 (R.STRM_P_CTL.EN 0).addr 5
    ∧ after (.flushTx 0 0) enabled (fun t => decide (t.fld (R.STRM_P_STAT.FLUSH_TX 0) = 1)) := by decide +kernel
theorem test_flushNowRx : enabled.accepts 0 (R.STRM_P_CTL.EN 0).addr 9
    ∧ after (.flushNowRx 0 0) (withItem 0 item0 enabled) (fun t => (t.port 0).items.map SItem.skip = [true]) := by decide +kernel
theorem test_flushNowTx : enabled.accepts 0 (R.STRM_P_CTL.EN 0).addr 17
    ∧ after (.flushNowTx 0 0) (withItem 0 txItem enabled) (fun t => (t.port 0).items.map SItem.skip = [true]) := by decide +kernel
def flushing : State := put (R.STRM_P_STAT.FLUSH_RX 0) 1 enabled
theorem test_flushEnd : flushing.flushed 0 false = true ∧ after (.flushEnd 0 false) flushing (fun t =>
    decide (t.fld (R.STRM_P_STAT.FLUSH_RX 0) = 0 ∧ t.fld (R.STRM_P_EVT.FLUSH_RX_DONE 0) = 1)) := by decide +kernel

/-- Pair 127 joins an inbound association of port 0 to an outbound one of port 1. -/
def pairOff : State :=
  let s := put (R.BRIDLE_PAIR_SA.OUT_SA 127) 6 (put (R.BRIDLE_PAIR_SA.IN_SA 127) 5 (put (R.BRIDLE_PAIR_CFG.OUT_PORT 127) 1 ported))
  let s := key 1 1 (zeros 16) s
  { install (sa 1 1 6 1) (install rx0 s) with counters := [(6, { started := true })], anchor := { leased := true } }
def paired : State := put (R.BRIDLE_PAIR_CTL.EN 127) 1 (put (R.BRIDLE_PAIR_CTL.STATE 127) 1 pairOff)
theorem test_pairEn : pairOff.accepts 0 (R.BRIDLE_PAIR_CTL.EN 127).addr 1
    ∧ after (.pairEn 0 127 true) pairOff (fun t => decide (t.fld (R.BRIDLE_PAIR_CTL.STATE 127) = pgActive ∧ t.fld (R.BRIDLE_PAIR_CTL.BAD 127) = 0)) := by
  decide +kernel
theorem test_pairEn_off : paired.accepts 0 (R.BRIDLE_PAIR_CTL.EN 127).addr 0
    ∧ after (.pairEn 0 127 false) paired (fun t => decide (t.fld (R.BRIDLE_PAIR_CTL.STATE 127) = pgDraining)) := by decide +kernel
theorem test_bridleLoop : (up [0x1D]).accepts 0 (R.BRIDLE_LOOP.EN 0).addr 0x8100
    ∧ after (.bridleLoop 0 0 0x8100) (up [0x1D]) (fun t => decide (t.fld (R.BRIDLE_LOOP.PORT_B 0) = 1 ∧ t.fld (R.BRIDLE_LOOP.ACTIVE 0) = 1)) := by
  decide +kernel
def bridled (held : Bool) : State := withItem 0 { hitRx with held := held } paired
theorem test_bridle : (bridled false).wf ∧ (bridled false).bridleNext 0 = some (hitRx, copyOf rx0, 127) ∧ (bridled false).laneCount = 2 ∧ (bridled false).shut = false
    ∧ (bridled false).profileBad 0 127 = false ∧ (bridled false).keysOk rx0 (some .bridle) false = true ∧ (bridled false).outReady 127 = true
    ∧ (bridled false).noLane = false ∧ (bridled false).entryFree ∧ ((bridled false).counter 5).rewrite = none
    ∧ (bridled false).cutPair 127 = false ∧ (match (bridled false).outEntry 127 with
      | some (_, ws) => decide ((bridled false).issuesNow .bridle ws) | none => false) = true := by decide +kernel
theorem test_bridleHoldAccept : after (.bridleHoldAccept 0) (bridled false) (fun t => (t.port 0).items.map SItem.pair = [some 127]) := by decide +kernel
theorem test_outHeldRelease : after (.outHeldRelease 0) (bridled true) (fun t => (t.port 0).items.map SItem.pair = [some 127]) := by decide +kernel
/-- The pair under CUT. -/
def cutting : State := put R.BRIDLE_CFG.CUT_EN 1 (put (R.BRIDLE_PAIR_CFG.POLICY 127) 1 (bridled false))
theorem test_bridleCut : cutting.cutPair 127 = true ∧ hitRx.isOpen = false ∧ (cutting.bridleNext 0).isSome = true := by decide +kernel
def cutItem : SItem := { hitRx with isOpen := true, cut := true, started := true, pair := some 127 }
theorem test_bridleUnderrun : (withItem 0 cutItem paired).loopPeer ((withItem 0 cutItem paired).egressPort 0 cutItem) = none
    ∧ after (.bridleUnderrun 0) (withItem 0 cutItem paired) (fun t => t.out = [.txo 1 [] true] && decide (t.fld R.BRIDLE_UNDERRUNS.COUNT = 1)) := by
  decide +kernel
/-- A transmit frame waits untold while a Bridle frame has its port's TXO. -/
theorem test_sofAdmit_held : (accepted cutItem paired).mayAdmit 1 true = true ∧ (accepted cutItem paired).room 1 = true
    ∧ (accepted cutItem paired).txoTaken 1 = true
    ∧ after (.sofAdmit 1 true [1]) (accepted cutItem paired) (fun t => (t.port 1).sofHeld && (t.port 1).items.isEmpty) := by decide +kernel

/-! ### Association lookup, learning and the trie -/

/-- The lookup pages are ACTIVE; an inbound association of port 0 with handle 5 is installed, another is staged in ASSOC_ENTRY. -/
def looked : State := let s := up [0x20, 0x21, 0x22, 0x24, 0x35, 0x36]
  install rx0 { s with lookup := { salted := true } }
def staged (ws : List Word) (s : State) : State :=
  (List.range 16).foldl (fun s i => put (R.ASSOC_ENTRY.WORD i) (wordAt ws i) s) s
theorem test_search : (staged rx0 looked).takes 0 U.assoc R.ASSOC_CMD.OP.addr (1 * 2 ^ 28)
    ∧ after (.search 0) (staged rx0 looked) (fun t => decide (ended U.assoc rcOk looked t ∧ t.fld R.ASSOC_LOC.HANDLE = 5)) := by decide +kernel
theorem test_search_none : after (.search 0) (staged (sa 0 1 6 0) looked) (fun t => decide (ended U.assoc rcNotFound looked t)) := by decide +kernel
/-- Before the salts are derived it waits. -/
def unsaltedLook : State := staged rx0 (up [0x20])
theorem test_search_waits : unsaltedLook.takes 0 U.assoc R.ASSOC_CMD.OP.addr (1 * 2 ^ 28) ∧ unsaltedLook.lookup.salted = false ∧ unsaltedLook.grounded = false
    ∧ after (.search 0) unsaltedLook (fun t => decide (t.fld U.assoc.busy = 1 ∧ t.lookup.held = some (1, false))) := by decide +kernel
theorem test_next : looked.takes 0 U.assoc R.ASSOC_CMD.OP.addr (2 * 2 ^ 28 + 4)
    ∧ after (.nextEntry 0 4) looked (fun t => decide (ended U.assoc rcOk looked t ∧ t.fld R.ASSOC_LOC.HANDLE = 5)) := by decide +kernel
theorem test_next_end : after (.nextEntry 0 5) looked (fun t => decide (ended U.assoc rcEnd looked t)) := by decide +kernel

theorem test_insert : (staged (sa 0 1 6 0) looked).wf ∧ (staged (sa 0 1 6 0) looked).takes 0 U.assoc R.ASSOC_CMD.OP.addr (3 * 2 ^ 28 + bitAt false 27)
    ∧ badEntry (staged (sa 0 1 6 0) looked).stagedEntry = false ∧ entryBlocks (sa 0 1 6 0) = 0
    ∧ after (.insert 0 false) (staged (sa 0 1 6 0) looked) (fun t => decide (ended U.assoc rcOk looked t) && (t.anyHandle 6).isSome) := by decide +kernel
/-- A kind that software does not install, and a handle in use. -/
theorem test_insert_bad : badEntry (staged (sa 4 1 6 0) looked).stagedEntry = true
    ∧ after (.insert 0 false) (staged (sa 4 1 6 0) looked) (fun t => decide (ended U.assoc rcBadEntry looked t)) := by decide +kernel
theorem test_insert_used : after (.insert 0 false) (staged (sa 0 1 5 0) looked) (fun t => decide (ended U.assoc rcHandleUsed looked t)) := by decide +kernel
theorem test_delete : looked.takes 0 U.assoc R.ASSOC_CMD.OP.addr (4 * 2 ^ 28 + 5) ∧ (looked.assocs.all fun p => decide (p.1 < stashBase)) = true
    ∧ after (.delete 0 5) looked (fun t => decide (ended U.assoc rcOk looked t) && t.assoc = []) := by decide +kernel
theorem test_flushPort : looked.takes 0 U.assoc R.ASSOC_CMD.OP.addr (5 * 2 ^ 28 + bitAt false 27 + 0 * 2 ^ 16)
    ∧ after (.flushPort 0 0 false) looked (fun t => t.assoc = [] && decide (t.fld R.ASSOC_CMD_STAT.COUNT = 1)) := by decide +kernel
/-- A learned context of port 0 from the template 5, seen at unit 0, and the time unit 10. -/
def ctx0 : List Word := [BitVec.ofNat 32 (2 ^ 31 + 5 * 2 ^ 8)] ++ List.replicate 15 0
def learned : State := { looked with peers := [(3, some (.ctx ctx0))], time := { acc := 10000000000 } }
def aging : State := put R.LEARN_AGE.LIMIT 1 learned
theorem test_age : aging.takes 0 U.assoc R.ASSOC_CMD.OP.addr (6 * 2 ^ 28) ∧ aging.ctx 3 = some ctx0 ∧ cPinned ctx0 = false
    ∧ aging.fld R.LEARN_AGE.LIMIT ≤ (aging.seenNow + 2 ^ 32 - wordAt ctx0 4) % 2 ^ 32
    ∧ after (.age 0) aging (fun t => decide (ended U.assoc rcOk aging t) && t.peers = []) := by decide +kernel
def autoAging : State := put R.LEARN_AGE.PERIOD_S 1 (put R.LEARN_AGE.AUTO 1 aging)
theorem test_autoAging : autoAging.active 0x21 = true ∧ autoAging.lookup.lastAge + 1000000000 ≤ autoAging.now.toNat
    ∧ after .autoAgingPass autoAging (fun t => t.peers = [] && decide (t.lookup.lastAge = 10000000000)) := by decide +kernel

def stashed : State := { looked with assoc := [(stashBase, some rx0)] }
theorem test_stashRetry : stashed.wf ∧ stashed.assocs.filter (fun p => decide (stashBase ≤ p.1)) = [(stashBase, rx0)]
    ∧ (stashed.freeWay 0 (keyBlock rx0)).isSome = true
    ∧ after .stashRetry stashed (fun t => decide (t.at stashBase = none) && decide (t.assocs.length = 1)) := by decide +kernel
/-- A root whose lookup salt is derived. -/
def rooted (s : State) : State := { s with keys := { s.keys with vbatA := 1, markA := true, markB := false, fuseHeld := true, fuseA := 1 } }
def unsalted : State := rooted (up [0x20])
theorem test_saltDerived : unsalted.assocSalt.isSome = true ∧ unsalted.initRuns = true ∧ unsalted.lookup.held = none := by decide +kernel
theorem test_saltDerived_held : ({ unsalted with lookup := { held := some (1, false) } } : State).assocSalt.isSome = true
    ∧ ({ unsalted with lookup := { held := some (1, false) } } : State).initRuns = true := by decide +kernel
theorem test_lookupParityFault : after (.lookupParityFault false (BitVec.ofNat 14 (locOf 0 (looked.bucket 0 (keyBlock rx0)) 0))) looked (fun t =>
    t.assoc = [] && decide (t.shows E.CELLAR.LOOKUP_LOSS)) := by decide +kernel
theorem test_lookupParityFault_peer : after (.lookupParityFault true 3) learned (fun t => t.peers = []) := by decide +kernel

theorem test_learnRead : learned.takes 0 U.learn R.LEARN_CMD.OP.addr (1 * 2 ^ 28 + 3)
    ∧ after (.learnRead 0 3) learned (fun t => decide (t.fld (R.LEARN_CTX.WORD 0) = wordAt ctx0 0)) := by decide +kernel
theorem test_unpin : learned.takes 0 U.learn R.LEARN_CMD.OP.addr (2 * 2 ^ 28 + 3)
    ∧ after (.unpin 0 3) learned (fun t => (t.ctx 3).map (fun c => wordAt c 3) = some learned.sinceNow) := by decide +kernel
theorem test_learnDelete : learned.takes 0 U.learn R.LEARN_CMD.OP.addr (3 * 2 ^ 28 + 3)
    ∧ after (.learnDelete 0 3) learned (fun t => t.peers = []) := by decide +kernel
theorem test_learnDelete_none : after (.learnDelete 0 4) learned (fun t => decide (ended U.learn rcNotFound learned t)) := by decide +kernel

def ruled (st : RuleState) : State := { looked with rules := [(7, ⟨st, false, 8, 0x0A00000000000000, 5⟩)] }
def ruleStaged : State := put R.TRIE_RULE_PREFIX.PREFIX 0x0A00000000000000 (put R.TRIE_RULE_CTL.HANDLE 5 (put R.TRIE_RULE_CTL.LEN 8 looked))
theorem test_ruleSet : ruleStaged.takes 0 U.trie R.TRIE_CMD.OP.addr (1 * 2 ^ 28 + 7) ∧ ruleOk 8 false 0x0A00000000000000 = true
    ∧ after (.ruleSet 0 7) ruleStaged (fun t => t.rule 7 = ⟨.pendingAdd, false, 8, 0x0A00000000000000, 5⟩) := by decide +kernel
theorem test_ruleSet_used : after (.ruleSet 0 7) (ruled .live) (fun t => decide (ended U.trie rcState (ruled .live) t)) := by decide +kernel
theorem test_ruleDel : (ruled .live).takes 0 U.trie R.TRIE_CMD.OP.addr (2 * 2 ^ 28 + 7)
    ∧ after (.ruleDel 0 7) (ruled .live) (fun t => (t.rule 7).st = .pendingDel) := by decide +kernel
theorem test_ruleRead : (ruled .live).takes 0 U.trie R.TRIE_CMD.OP.addr (3 * 2 ^ 28 + 7)
    ∧ after (.ruleRead 0 7) (ruled .live) (fun t => decide (t.fld R.TRIE_RULE_CTL.LEN = 8 ∧ t.fld R.TRIE_RULE_CTL.HANDLE = 5)) := by decide +kernel
theorem test_build : (ruled .pendingAdd).takes 0 U.trie R.TRIE_CMD.OP.addr (4 * 2 ^ 28)
    ∧ after (.build 0) (ruled .pendingAdd) (fun t => t.lookup.built && t.lookup.shadow.length = 1 && decide (t.shows E.TRIE.BUILD_DONE)) := by decide +kernel
def built : State := { ruled .pendingAdd with lookup := { (ruled .pendingAdd).lookup with built := true } }
theorem test_swap : built.wf ∧ built.takes 0 U.trie R.TRIE_CMD.OP.addr (5 * 2 ^ 28)
    ∧ after (.swap 0) built (fun t => (t.rule 7).st = .live && t.lookup.bank1 && !t.lookup.built) := by decide +kernel
theorem test_swap_unbuilt : after (.swap 0) (ruled .live) (fun t => decide (ended U.trie rcNotBuilt (ruled .live) t)) := by decide +kernel
/-! ### Keys -/

/-- Key pages ACTIVE, the entropy source running, a root. -/
def keyed : State := put R.RNG_STAT.SRC srcRun (put R.POWER_STAT.DOMAINS_ON 0xFFFF (up [0x34, 0x35, 0x36, 0x37, 0x3A]))
def withRoot : State := rooted keyed
theorem test_rootGen : keyed.takes 0 U.keys R.KEYS_CMD.OP.addr (1 * 2 ^ 28) ∧ keyed.servicesRefused = false ∧ keyed.vbatPresent = false
    ∧ keyed.noKeyBits = false ∧ after (.rootGen 0) keyed (fun t => t.rng.reqs = [⟨.key, .rootGen, 32, 0⟩]) := by decide +kernel
theorem test_rootGen_present : withRoot.vbatPresent = true
    ∧ after (.rootGen 0) withRoot (fun t => decide (ended U.keys rcState withRoot t)) := by decide +kernel
theorem test_rootRemask : keyed.bnd.mainOff = false ∧ keyed.srcRunning = true
    ∧ after .rootRemask keyed (fun t => t.rng.reqs = [⟨.ordinary, .mask, 72, 0⟩]) := by decide +kernel
/-- From BLANK to PROVISION. -/
theorem test_lcTransition : keyed.wf ∧ keyed.takes 0 U.keys R.KEYS_CMD.OP.addr (2 * 2 ^ 28 + 1) ∧ keyed.anyLiveUser = false ∧ keyed.grounded = false
    ∧ after (.lcTransition 0 1) keyed (fun t => t.keys.lc = .burning false && decide (t.fld R.KEYS_LC.TARGET = 1)) := by decide +kernel
theorem test_lcTransition_bad : after (.lcTransition 0 3) keyed (fun t => decide (ended U.keys rcBadEntry keyed t)) := by decide +kernel
def burning : State := { put R.KEYS_LC.TARGET 1 keyed with keys := { lc := .burning false } }
theorem test_lcProgAck : burning.heeds ∧ after (.lcProgAck true) burning (fun t =>
    t.keys.lc = .none && decide (t.fld R.KEYS_LC.STATE = 1 ∧ t.shows E.KEYS.LC_DONE)) := by decide +kernel
theorem test_lcProgAck_fails : after (.lcProgAck false) burning (fun t =>
    t.servicesRefused && decide (t.fld R.KEYS_LC.LC_FAIL = 1)) := by decide +kernel
theorem test_lcProgTimeout : after .lcProgTimeout burning (fun t => t.keys.lc = .burning true) := by decide +kernel

/-- A label for an AES-128 key, with a policy. -/
def pol0 : Word := 0xFEF10F80
def labelled : State := put R.DERIVE_POLICY.POLICY pol0.toNat (put (R.DERIVE_LABEL.WORD 0) 0x01000000 withRoot)
theorem test_define : labelled.takes 0 U.derive R.DERIVE_CMD.OP.addr (1 * 2 ^ 28 + 0 * 2 ^ 24) ∧ labelled.servicesRefused = false
    ∧ policyValid pol0 = true ∧ (derivedBits 1 ≠ 0) ∧ (match labelled.cmdParent with | .ok (.root, 1) => true | _ => false) = true
    ∧ after (.define 0 0) labelled (fun t => (t.node 0).st = .valid && decide (t.fld R.DERIVE_CMD_STAT.NODE = 0)) := by decide +kernel
theorem test_define_bad : after (.define 0 0) withRoot (fun t => decide (ended U.derive rcBadEntry withRoot t)) := by decide +kernel
def node0 : Node := { st := .valid, label := [1] ++ zeros 31, policy := pol0, depth := 1 }
def noded (s : State) : State := { s with nodes := [(0, node0)] }
/-- Without a root the key of the node cannot be derived. -/
theorem test_materialise : (noded keyed).takes 0 U.derive R.DERIVE_CMD.OP.addr (2 * 2 ^ 28 + 0 * 2 ^ 24 + 3 * 2 ^ 12 + 0)
    ∧ (noded keyed).loadRefused 3 node0.type = none ∧ (noded keyed).wideBad 3 node0.type = false
    ∧ (noded keyed).slotsQuota 3 0 ((noded keyed).slotsQuotaOf 0) = false ∧ (match (noded keyed).derive 0 with | .error _ => true | _ => false) = true
    ∧ after (.materialise 0 0 3 0) (noded keyed) (fun t => decide (t.fld R.DERIVE_CMD_STAT.BUSY = 0) && t.slots = []) := by decide +kernel
/-- With one it can. -/
theorem test_materialise_premises : (noded withRoot).servicesRefused = false ∧ ((noded withRoot).slot 3).st = .empty
    ∧ (match (noded withRoot).derive 0 with | .ok _ => true | _ => false) = true := by decide +kernel
theorem test_invalidate : (noded keyed).takes 0 U.derive R.DERIVE_CMD.OP.addr (3 * 2 ^ 28 + bitAt false 27 + 0)
    ∧ after (.invalidate 0 false 0) (noded keyed) (fun t => decide ((t.node 0).st ≠ .valid)) := by decide +kernel
theorem test_deriveRead : (noded keyed).takes 0 U.derive R.DERIVE_CMD.OP.addr (4 * 2 ^ 28 + 0)
    ∧ after (.deriveRead 0 0) (noded keyed) (fun t => decide (t.fld R.DERIVE_NODE_INFO.STATE = 1 ∧ t.fld R.DERIVE_POLICY.POLICY = pol0.toNat)) := by
  decide +kernel

def bank (g : Nat) : Bank := ⟨zeros 16, BitVec.ofNat 32 (0x100 * g), BitVec.ofNat 32 g, pol0, .imported, [], none, 0⟩
def slotted (o : OtherBank) : State :=
  { keyed with slots := [(3, { st := .live, type := 1, active := some (bank 1), otherSt := o, other := if o = .free then none else some (bank 2) })] }
theorem test_slotsRead : (slotted .loaded).takes 0 U.slots R.SLOTS_CMD.OP.addr (1 * 2 ^ 28 + 3)
    ∧ after (.slotsRead 0 3) (slotted .loaded) (fun t => decide (t.fld R.SLOTS_INFO.TYPE = 1 ∧ t.fld R.SLOTS_INFO_GEN.GEN = 1)) := by decide +kernel
def expecting : State := put R.SLOTS_EXPECT.KCV 0x200 (slotted .loaded)
theorem test_slotSwap : expecting.takes 0 U.slots R.SLOTS_CMD.OP.addr (2 * 2 ^ 28 + bitAt false 27 + 3) ∧ expecting.servicesRefused = false
    ∧ expecting.slotRefused 3 = 0 ∧ (expecting.liveUser 3) = false
    ∧ after (.slotSwap 0 false 3) expecting (fun t => (t.slot 3).active = some (bank 2) && (t.slot 3).otherSt = .retiring) := by decide +kernel
theorem test_slotSwap_other : after (.slotSwap 0 false 3) (slotted .loaded) (fun t => decide (ended U.slots rcBadEntry (slotted .loaded) t)) := by decide +kernel
theorem test_erase : (slotted .free).takes 0 U.slots R.SLOTS_CMD.OP.addr (3 * 2 ^ 28 + bitAt false 27 + 3) ∧ (slotted .free).liveUser 3 = false
    ∧ after (.erase 0 false 3) (slotted .free) (fun t => (t.slot 3).st = .empty && decide (t.fld R.SLOTS_CMD_STAT.BUSY = 0)) := by decide +kernel
theorem test_dropPending : (slotted .loaded).takes 0 U.slots R.SLOTS_CMD.OP.addr (4 * 2 ^ 28 + 3)
    ∧ after (.dropPending 0 3) (slotted .loaded) (fun t => (t.slot 3).otherSt = .free) := by decide +kernel
theorem test_bankRetire : (slotted .retiring).heeds ∧ (slotted .retiring).held 3 (bank 2) = false
    ∧ after (.bankRetire 3) (slotted .retiring) (fun t => (t.slot 3).otherSt = .free && (t.slot 3).other = none) := by decide +kernel
def clearing : State := { keyed with slots := [(3, { st := .clearing, type := 1 })] }
theorem test_slotClearing : clearing.heeds ∧ after (.slotClearing 3) clearing (fun t =>
    (t.slot 3).st = .empty && decide (t.shows E.SLOTS.CLEARED)) := by decide +kernel

def provision : State := put R.KEYS_LC.STATE 1 withRoot
theorem test_attestGen : provision.servicesRefused = false ∧ provision.takes 0 U.pke R.PKE_CMD.OP.addr (1 * 2 ^ 28) ∧ provision.noKeyBits = false
    ∧ provision.attestWrapKey.isSome = true ∧ after (.attestGen 0) provision (fun t => t.rng.reqs = [⟨.key, .attestKey, 40, 0⟩]) := by decide +kernel
theorem test_attestLoad : provision.takes 0 U.pke R.PKE_CMD.OP.addr (2 * 2 ^ 28) ∧ dramRead {} provision.pkeBuf 80 = none
    ∧ after (.attestLoad 0 {}) provision (fun t => decide (ended U.pke rcState provision t ∧ t.shows E.PKE.LOAD_FAIL)) := by decide +kernel
theorem test_attest : withRoot.takes 0 U.pke R.PKE_CMD.OP.addr (3 * 2 ^ 28 + 3) ∧ withRoot.attestRefused 3 = rcNotFound
    ∧ after (.attest 0 3) withRoot (fun t => decide (ended U.pke rcNotFound withRoot t)) := by decide +kernel
def generated : State :=
  { provision with slots := [(3, { st := .live, type := 1, active := some { bank 1 with policy := 0x1E300F80, prov := .generated } }),
      (attestSlot, { st := .live, type := 0x10, active := some { bank 1 with policy := attestPolicy, prov := .attest } })] }
theorem test_attest_asks : generated.attestRefused 3 = 0
    ∧ after (.attest 0 3) generated (fun t => t.rng.reqs = [⟨.ordinary, .attestBlind, 40, 0⟩]) := by decide +kernel
/-! ### Freshness, the anchor store and modules -/

/-- FRESH ACTIVE; a transmit association of handle 5 under slot 0, and its switch record 2. -/
def xpn (kind h slot : Nat) : List Word := setWordAt (sa kind 0 h slot) 4 0x80000000
def canRx : List Word := sa 2 16 7 0
def freshState : State := install canRx (install (xpn 1 5 0) (key 0 1 (zeros 16) { up [0x20, 0x24, 0x25] with lookup := { salted := true } }))
def switch (st : Nat) : State := put (R.FRESH_SW_CTL.HANDLE 2) 5 (put (R.FRESH_SW_CTL.STATE 2) st freshState)
theorem test_switchNow : (switch 1).wf ∧ (switch 1).takes 0 U.fresh R.FRESH_CMD.OP.addr (2 ^ 28 + 2 * 2 ^ 16)
    ∧ after (.switchNow 0 2) (switch 1) (fun t => decide (ended U.fresh rcOk (switch 1) t ∧ t.fld (R.FRESH_SW_CTL.STATE 2) = 3 ∧ t.shows E.FRESH.SWITCHED)) := by
  decide +kernel
theorem test_switchNow_idle : after (.switchNow 0 2) (switch 0) (fun t => decide (ended U.fresh rcState (switch 0) t)) := by decide +kernel
def resyncTo : State := put R.FRESH_VALUE.VALUE 99 freshState
theorem test_resync : resyncTo.takes 0 U.fresh R.FRESH_CMD.OP.addr (2 * 2 ^ 28 + 7) ∧ resyncTo.kindOf 7 = some 2
    ∧ after (.resync 0 7) resyncTo (fun t => match t.byHandle 7 with
      | some (loc, _) => decide ((t.rxState (.entry loc) false).h = 99) | none => false) := by decide +kernel
theorem test_switchArm : (switch 0).accepts 0 (R.FRESH_SW_CTL.STATE 2).addr 0x20005 ∧ (switch 0).kindOf 5 = some 1
    ∧ after (.switchArm 0 2 0x20005) (switch 0) (fun t => decide (t.fld (R.FRESH_SW_CTL.STATE 2) = 1)) := by decide +kernel
/-- A handle that is not installed. -/
theorem test_switchArm_bad : (switch 0).kindOf 6 = none ∧ after (.switchArm 0 2 0x20006) (switch 0) (fun t =>
    decide (t.fld (R.FRESH_SW_CTL.BAD 2) = 1 ∧ t.fld (R.FRESH_SW_CTL.STATE 2) = 0)) := by decide +kernel
def overlap : State := put (R.FRESH_SW_CTL.HANDLE 2) 7 (put (R.FRESH_SW_CTL.STATE 2) 2 freshState)
theorem test_overlapExpire : overlap.heeds ∧ after (.overlapExpire 2) overlap (fun t =>
    (t.counter 7).rewrite = some (0, 0) && decide (t.fld (R.FRESH_SW_CTL.STATE 2) = 3)) := by decide +kernel
def rewriting : State := { freshState with counters := [(7, { rewrite := some (9, 3) })] }
theorem test_canRxSlotRewrite : rewriting.carried 7 = false ∧ canRx.length = 16
    ∧ after (.canRxSlotRewrite 7) rewriting (fun t => (t.byHandle 7).map (fun p => (eSlotA p.2, eSlotB p.2)) = some (9, 3)) := by decide +kernel
def busySecond : State := { freshState with anchor := { thisSecond := 200 } }
theorem test_leaseExpAdjust : after .leaseExpAdjust busySecond (fun t => t.anchor.thisSecond = 0 && t.anchor.perSecond = [200]
    && decide (t.fld R.FRESH_STAT.EXP = busySecond.fld R.FRESH_STAT.EXP + if busySecond.fld R.FRESH_CFG.TARGET < 200 then 1 else 0)) := by decide +kernel

def use0 : AnchorUse := .ballast 0x10000 0 false
def scanned : State := { rooted (up [0x25]) with anchor := { reqs := [(use0, 0)], scanned := true } }
theorem test_anchorWriteStart : scanned.wf ∧ scanned.heeds ∧ scanned.anchorKey.isSome = true ∧ scanned.budgetOk use0 = true ∧ scanned.nextAnchorSlot = some 0 := by
  decide +kernel
def record0 : Bytes := beBytes 2 0xB411 ++ [1, 0, 1] ++ zeros 59
def writing0 (fails : Nat) : State := { scanned with anchor := { writing := some ⟨0, use0, record0, fails⟩, scanned := true } }
theorem test_anchorReadback : after (.anchorReadback false record0 100 {}) (writing0 0) (fun t =>
    t.anchor.live = [⟨0, 0x10, zeros 40⟩] && decide (t.fld R.FRESH_CEILING.C = 0x10000)) := by decide +kernel
/-- The fourth failure fails the store. -/
theorem test_anchorReadback_fails : after (.anchorReadback true [] 100 {}) (writing0 3) (fun t =>
    decide (t.pageState 0x25 = pgFault ∧ (t.fld R.ANCHOR_BAD.BAD).testBit 0 = true)) := by decide +kernel
def unscanned : State := { scanned with anchor := {} }
/-- A record with the magic number that does not verify, in a store with one retired slot. -/
def unscannedBad : State := put R.ANCHOR_BAD.BAD 2 unscanned
theorem test_startUpScan : unscannedBad.anchor.scanned = false ∧ unscannedBad.anchorKey.isSome = true
    ∧ after (.startUpScan [(0, beBytes 2 0xB411 ++ zeros 62)]) unscannedBad (fun t => t.anchor.scanned
      && decide (t.fld R.FRESH_STAT.LOST = 1 ∧ t.fld R.ANCHOR_STAT.USABLE = 63 ∧ t.shows E.ANCHOR.LOST)) := by decide +kernel
theorem test_anchorRead : (up [0x25]).accepts 0 R.ANCHOR_CMD.OP.addr (2 ^ 28 + 9)
    ∧ after (.anchorRead 0 9 record0) (up [0x25]) (fun t => decide (t.fld R.ANCHOR_CMD_STAT.SLOT = 9 ∧ t.fld R.ANCHOR_CMD_STAT.VERIFIED = 0
      ∧ t.fld (R.ANCHOR_REC.WORD 0) = 0xB4110100)) := by decide +kernel

/-- Input 0 is served and its module present, in a state. -/
def input (st : Nat) (m : ModInput) : State :=
  { put (R.MODID_IN_STAT.STATE 0) st (put (R.MODID_PRES_CFG.EN 0) 1 (up [0x3D])) with modules := [(0, m)] }
theorem test_presenceChange : (input miIdle {}).heeds ∧ (input miIdle {}).served 0 = true
    ∧ after (.presenceChange 0 true) (input miIdle {}) (fun t => (t.module 0).present && decide (t.fld (R.MODID_IN_STAT.STATE 0) = miReading)) := by
  decide +kernel
theorem test_presenceChange_gone : after (.presenceChange 0 false) (input miVerified { present := true }) (fun t =>
    decide (t.fld (R.MODID_IN_STAT.STATE 0) = miIdle ∧ t.shows E.MODID.ABSENT)) := by decide +kernel
theorem test_sclHeldTimeout : after (.sclHeldTimeout 0) (input miReading { present := true }) (fun t =>
    decide (t.fld (R.MODID_IN_STAT.STATE 0) = miFailed ∧ t.fld (R.MODID_IN_STAT.CAUSE 0) = causeBus)) := by decide +kernel
/-- A record without its magic number. -/
theorem test_moduleReadDone : (input miReading {}).heeds ∧ after (.moduleReadDone 0 (some (zeros 224))) (input miReading { present := true }) (fun t =>
    decide (t.fld (R.MODID_IN_STAT.CAUSE 0) = causeFormat ∧ t.shows E.MODID.SIG_FAIL)) := by decide +kernel
/-- A module under challenge, with a record of version 1, polled before its signature stands. -/
def idRecord : Bytes := [0x4E, 0x44, 1] ++ zeros 221
def challenged : State := input miChallenging { present := true, record := idRecord, nonce := some (zeros 32) }
theorem test_challengePoll : challenged.heeds ∧ (parseRecord (challenged.module 0).record).isSome = true
    ∧ after (.challengePoll 0 (some (2, []))) challenged (fun t => t.module 0 = challenged.module 0) := by decide +kernel
theorem test_challengePoll_none : after (.challengePoll 0 none) challenged (fun t =>
    decide (t.fld (R.MODID_IN_STAT.CAUSE 0) = causeNoResponse)) := by decide +kernel
theorem test_chalTimeout : after (.chalTimeout 0) challenged (fun t =>
    decide (t.fld (R.MODID_IN_STAT.CAUSE 0) = causeChalTimeout ∧ t.fld R.MODID_COUNTS.CHAL_FAILS = 1)) := by decide +kernel
theorem test_chalPeriod : (input miVerified { present := true }).power' = pwAwake
    ∧ after (.chalPeriod 0) (input miVerified { present := true }) (fun t => (t.module 0).fromVerified && decide (t.fld (R.MODID_IN_STAT.STATE 0) = miReading)) := by
  decide +kernel
theorem test_reread : (input miFailed { present := true }).takes 0 U.modid R.MODID_CMD.OP.addr (1 * 2 ^ 28 + 0)
    ∧ after (.reread 0 0) (input miFailed { present := true }) (fun t => decide (t.fld (R.MODID_IN_STAT.STATE 0) = miReading)) := by decide +kernel
theorem test_readRec : challenged.takes 0 U.modid R.MODID_CMD.OP.addr (2 * 2 ^ 28 + 0)
    ∧ after (.readRec 0 0) challenged (fun t => decide (t.fld (R.MODID_REC.WORD 0) = 0x4E440100 ∧ t.fld (R.MODID_DIG.WORD 7) = 0)) := by decide +kernel
theorem test_readRec_none : after (.readRec 0 6) challenged (fun t => decide (ended U.modid rcBadEntry challenged t)) := by decide +kernel
/-! ### Queues -/

/-- A descriptor's bytes, and one that executes with Cellar entry 9; input at 0x100, output at 0x200. -/
def dbytes (op a b param len auxLen : Nat) (op0 : Bytes) : Bytes :=
  leBytes 1 op ++ [0] ++ leBytes 2 a ++ leBytes 2 b ++ leBytes 2 param ++ leBytes 8 0x100 ++ leBytes 8 0x200 ++ leBytes 4 len ++ leBytes 4 auxLen
    ++ zeros 8 ++ padTo 24 op0
def desc (b : Bytes) : QDesc := { bytes := b, seq := 5, tenant := 0, version := 3, exec := 8, slots := 8, weight := 1 }
def inEngine (b : Bytes) : QDesc := { desc b with entry := some 9, phase := .executing }
def qentry : CEntry := { kind := .queue, stamp := ⟨0, 0⟩, order := 0, ref := 5, keys := [some ⟨0, 1⟩, some ⟨1, 1⟩] }
/-- Pair 0 ACTIVE, with descriptors, two lanes, the entropy source and two AES-128 keys. -/
def queued (ds : List QDesc) : State :=
  let s := put (R.QUEUE_Q_CTL.EN 0) 1 (put (R.QUEUE_Q_STAT.STATE 0) 1 (up [8, 9, 0x10, 0x34, 0x35, 0x36, 0x37, 0x3A]))
  let s := put R.RNG_STAT.SRC srcRun (put R.POWER_STAT.DOMAINS_ON 0xFFFF s)
  let s := key 1 1 (zeros 16) (key 0 1 (zeros 16) s)
  let s := { s with lanes := [(0, { powered := true, tested := true }), (1, { powered := true, tested := true })] }
  { s with queues := if ds.isEmpty then [] else [(0, { descs := ds })] }
def journaled (d : QDesc) : State := { queued [d] with cellar := { entries := [(9, some qentry)], nextOrder := 1 } }
/-- Memory that answers the bytes given at 0x100. -/
def mem100 (b : Bytes) : Dram := ⟨[(0x100, b)], []⟩

theorem test_doorbell : (queued []).wf ∧ (queued []).accepts 0 (R.QUEUE_Q_CTAIL.INDEX 0).addr 1 ∧ 1 ≤ 2 ^ (queued []).clog 0
    ∧ after (.doorbell 0 0 1) (queued []) (fun t => decide (t.fld (R.QUEUE_Q_CTAIL.INDEX 0) = 1)) := by decide +kernel
/-- One place more than the ring has. -/
theorem test_doorbell_bad : after (.doorbell 0 0 (BitVec.ofNat 32 (2 ^ (queued []).clog 0 + 1))) (queued []) (fun t =>
    decide (t.fld (R.QUEUE_Q_CTAIL.INDEX 0) = 0 ∧ t.fld (R.QUEUE_Q_ERR.DB_BAD 0) = 1 ∧ t.shows (E.QUEUE.QERR 0))) := by decide +kernel
def returned : State := put (R.QUEUE_Q_RTAIL.INDEX 0) 2 (queued [])
theorem test_rheadReturn : returned.accepts 0 (R.QUEUE_Q_RHEAD.INDEX 0).addr 2
    ∧ after (.rheadReturn 0 0 2) returned (fun t => decide (t.fld (R.QUEUE_Q_RHEAD.INDEX 0) = 2)) := by decide +kernel
theorem test_rheadReturn_bad : after (.rheadReturn 0 0 3) returned (fun t =>
    decide (t.fld (R.QUEUE_Q_RHEAD.INDEX 0) = 0 ∧ t.fld (R.QUEUE_Q_ERR.DB_BAD 0) = 1)) := by decide +kernel
def pairState (en st : Nat) : State := put (R.QUEUE_Q_CTL.EN 0) en (put (R.QUEUE_Q_STAT.STATE 0) st (queued []))
theorem test_queuePairEn : (pairState 0 0).accepts 0 (R.QUEUE_Q_CTL.EN 0).addr 1 ∧ (pairState 0 0).active (queuePage 0) = true
    ∧ after (.queuePairEn 0 0 true) (pairState 0 0) (fun t => decide (t.fld (R.QUEUE_Q_STAT.STATE 0) = pgActive)) := by decide +kernel
theorem test_queuePairEn_off : (pairState 1 1).accepts 0 (R.QUEUE_Q_CTL.EN 0).addr 0
    ∧ after (.queuePairEn 0 0 false) (pairState 1 1) (fun t => decide (t.fld (R.QUEUE_Q_STAT.STATE 0) = pgDraining)) := by decide +kernel
/-- A halted pair with one DONE record held. -/
def heldDesc : QDesc := { inEngine (dbytes 0x28 0 0 0 16 0 []) with phase := .done, doneRec := (0x40, zeros 32), doneHeld := true }
def halted : State := put (R.QUEUE_Q_STAT.HALT_CMPL 0) 1 (put (R.QUEUE_Q_STAT.HALT_FETCH 0) 1 (journaled heldDesc))
theorem test_resume : halted.accepts 0 (R.QUEUE_Q_CTL.EN 0).addr (4 + halted.fld (R.QUEUE_Q_CTL.EN 0))
    ∧ after (.resume 0 0 {}) halted (fun t => decide (t.fld (R.QUEUE_Q_STAT.HALT_FETCH 0) = 0 ∧ t.fld (R.QUEUE_Q_STAT.HALT_CMPL 0) = 0)
      && t.out = [.initWrite (halted.queueRid 0) 0x40 (zeros 32)]) := by decide +kernel

def hashDesc : Bytes := dbytes 0x28 0 0 0 16 0 []
def rung0 : State := put (R.QUEUE_TNT_STAT.TOKENS 0) 100 (put (R.QUEUE_Q_CTAIL.INDEX 0) 1 (put (R.QUEUE_Q_VER.GRANT 0) 3 (queued [])))
theorem test_descriptorFetch : rung0.fetchNext = some 0 ∧ (dramRead ⟨[(rung0.descAddr 0 0, hashDesc)], []⟩ (rung0.descAddr 0 0) 64).isSome = true
    ∧ after (.descriptorFetch ⟨[(rung0.descAddr 0 0, hashDesc)], []⟩) rung0 (fun t => (t.descs 0).map QDesc.bytes = [hashDesc]
      && decide (t.fld (R.QUEUE_Q_CHEAD.INDEX 0) = 1)) := by decide +kernel
theorem test_descriptorFetch_buserr : after (.descriptorFetch {}) rung0 (fun t => t.queues = [] && decide (t.fld (R.QUEUE_Q_STAT.HALT_FETCH 0) = 1)) := by
  decide +kernel
theorem test_descriptorAccept : (queued [desc hashDesc]).freeEntry .queue = some ((queued []).freeEntry .queue).get! ∧ (desc hashDesc).counterSlot = none
    ∧ (desc hashDesc).refusal = none ∧ after (.descriptorAccept 0 {}) (queued [desc hashDesc]) (fun t =>
      (t.descs 0).map (fun d => d.entry.isSome) = [true] && decide (t.out.length = 1)) := by decide +kernel
/-- An opcode that Otist does not have. -/
theorem test_descriptorAccept_refuses : (desc (dbytes 0x7F 0 0 0 0 0 [])).refusal = some stBadDesc
    ∧ after (.descriptorAccept 0 {}) (queued [desc (dbytes 0x7F 0 0 0 0 0 [])]) (fun t =>
      (t.descs 0).map (fun d => (d.phase, d.status)) = [(.ended, stBadDesc)]) := by decide +kernel
def acceptedDesc : QDesc := { inEngine hashDesc with phase := .accepted }
theorem test_descriptorDispatch : (journaled acceptedDesc).descOf 9 = some (0, acceptedDesc) ∧ (journaled acceptedDesc).engineFree = some 0
    ∧ (journaled acceptedDesc).replayHeld 9 = false ∧ (journaled acceptedDesc).mayDispatch 0 acceptedDesc = true
    ∧ (journaled acceptedDesc).keysRefuse acceptedDesc qentry = none ∧ (journaled acceptedDesc).drawRefused acceptedDesc qentry = false
    ∧ after (.descriptorDispatch 9) (journaled acceptedDesc) (fun t => (t.descs 0).map QDesc.phase = [.executing]) := by decide +kernel
def endedDesc : QDesc := { inEngine hashDesc with phase := .ended, status := stOk }
theorem test_doneRecord : (journaled endedDesc).fld (R.QUEUE_Q_STAT.HALT_CMPL 0) = 0
    ∧ after (.doneRecord 0) (journaled endedDesc) (fun t => (t.descs 0).map QDesc.phase = [.done] && decide (t.fld (R.QUEUE_Q_RTAIL.INDEX 0) = 1)) := by
  decide +kernel
def doneDesc : QDesc := { heldDesc with doneHeld := false }
theorem test_doneWriteAck : after (.doneWriteAck 0 true) (journaled doneDesc) (fun t => t.descs 0 = [] && t.inUse = []) := by decide +kernel
theorem test_doneWriteAck_buserr : after (.doneWriteAck 0 false) (journaled doneDesc) (fun t =>
    (t.descs 0).map QDesc.doneHeld = [true] && decide (t.fld (R.QUEUE_Q_STAT.HALT_CMPL 0) = 1)) := by decide +kernel
theorem test_tokenRefill : after .tokenRefill (queued []) (fun t => decide (t.tokens 0 = max (-(2 ^ 15)) (min (2 ^ 15 - 1)
    (min (4 * ((queued []).chronRate 0 : Int)) ((queued []).tokens 0 + (queued []).chronRate 0))))) := by decide +kernel

theorem test_initiatorBuserr_fetch : after (.initiatorBuserr (.fetch 0)) (queued []) (fun t =>
    decide (t.fld (R.QUEUE_Q_STAT.HALT_FETCH 0) = 1 ∧ t.shows (E.QUEUE.QERR 0))) := by decide +kernel
theorem test_initiatorBuserr_desc : after (.initiatorBuserr (.desc 9)) (journaled (inEngine hashDesc)) (fun t =>
    decide (endedWith 0 (inEngine hashDesc) stBusErr [] t)) := by decide +kernel
theorem test_engineParityFault : after (.engineParityFault 0) (journaled (inEngine hashDesc)) (fun t =>
    t.cellar.replay = [9] && (t.descs 0).map QDesc.phase = [.accepted]) := by decide +kernel

/-! Operations -/

/-- The descriptor executes for the first time, and its key is held. -/
abbrev execs (op : Nat) (b : Bytes) : Prop :=
  (journaled (inEngine b)).wf ∧ (journaled (inEngine b)).runs op 9 0 (inEngine b) qentry ∧ ((journaled (inEngine b)).entryKey qentry 0).isSome = true
    ∧ ((journaled (inEngine b)).entryKey qentry 1).isSome = true
/-- It ends with a status, and the bytes written to its output. -/
abbrev ends (i : Instr) (b : Bytes) (st n : Nat) : Prop := after i (journaled (inEngine b)) fun t =>
  (t.descs 0).map (fun d => (d.phase, d.status)) = [(.ended, st)]
    && decide ((t.out.filterMap fun x => match x with | .initWrite _ a b => some (a, b.length) | _ => none) = if n = 0 then [] else [(0x200, n)])
def sealDesc : Bytes := dbytes 0x01 0 0 0 0 0 []
theorem test_aeadSeal_runs : execs 0x01 sealDesc := by decide +kernel
theorem test_aeadSeal : ends (.aeadSeal 9 {} {}) sealDesc stOk 16 := by decide +kernel
def openDesc : Bytes := dbytes 0x02 0 0 0 0 0 []
theorem test_aeadOpen : execs 0x02 openDesc ∧ dramRead (mem100 (zeros 16)) 0x100 (0 + 0 + (inEngine openDesc).tagIn) = some (zeros 16)
    ∧ ends (.aeadOpen 9 (mem100 (zeros 16)) (mem100 (zeros 16))) openDesc stAuthFail 0 := by decide +kernel
def xtsDesc (op : Nat) : Bytes := dbytes op 0 0 0 16 0 []
theorem test_xtsEnc : execs 0x03 (xtsDesc 0x03) ∧ ends (.xtsEnc 9 (mem100 (zeros 16)) {}) (xtsDesc 0x03) stOk 16 := by decide +kernel
theorem test_xtsDec : execs 0x04 (xtsDesc 0x04) ∧ ends (.xtsDec 9 (mem100 (zeros 16)) {}) (xtsDesc 0x04) stOk 16 := by decide +kernel
theorem test_cmacGen : execs 0x05 (dbytes 0x05 0 0 8 0 0 []) ∧ ends (.cmacGen 9 {} {}) (dbytes 0x05 0 0 8 0 0 []) stOk 8 := by decide +kernel
theorem test_cmacVerify : execs 0x06 (dbytes 0x06 0 0 8 0 0 []) ∧ ends (.cmacVerify 9 {} {}) (dbytes 0x06 0 0 8 0 0 []) stAuthFail 0 := by decide +kernel
def bridleDesc : Bytes := dbytes 0x07 0 1 0 0 0 []
theorem test_bridle_op : execs 0x07 bridleDesc ∧ ends (.bridle 9 (mem100 (zeros 16)) (mem100 (zeros 16))) bridleDesc stAuthFail 0 := by decide +kernel
/-- The derivation's parent is the key in slot 0; the target is slot 3. -/
def deriveDesc : Bytes := dbytes 0x10 0 3 0 0 0 (leBytes 4 0xFEF10F80)
def label0 : Bytes := [1] ++ zeros 31
theorem test_keyDerive_runs : execs 0x10 deriveDesc ∧ dramRead (mem100 label0) 0x100 32 = some label0 ∧ (inEngine deriveDesc).slotB = 3 := by decide +kernel
theorem test_keyDerive : derivedBits (label0.getD 0 0).toNat ≠ 0 ∧ ((journaled (inEngine deriveDesc)).deriveStep [] [] 0 1).isSome = true
    ∧ (journaled (inEngine deriveDesc)).fits 3 1 ∧ (journaled (inEngine deriveDesc)).findNode (.slot 0 1) label0 (inEngine deriveDesc).policy = none
    ∧ ((journaled (inEngine deriveDesc)).slot 0).banks.length = 1 ∧ after (.keyDerive 9 (mem100 label0) {}) (journaled (inEngine deriveDesc)) (fun t =>
      (t.slot 3).st = .live && (t.node 0).slot = some 3) := by decide +kernel
def genDesc : Bytes := dbytes 0x11 0 3 0 0 0 (leBytes 4 0xFEF10F80)
def drew (b : Bytes) (n : Nat) : State := { journaled (inEngine b) with drawn := [(9, zeros n)] }
theorem test_keyGenerate : (drew genDesc 16).runs 0x11 9 0 (inEngine genDesc) qentry ∧ (drew genDesc 16).drawsReady (inEngine genDesc) qentry 9 = true
    ∧ (drew genDesc 16).fits 3 1 ∧ after (.keyGenerate 9 {}) (drew genDesc 16) (fun t => (t.slot 3).st = .live) := by decide +kernel
/-- A blob longer than the room for it. -/
def wrapDesc : Bytes := dbytes 0x12 0 1 0 0 0 []
theorem test_keyWrap : execs 0x12 wrapDesc ∧ after (.keyWrap 9 {}) (journaled (inEngine wrapDesc)) (fun t =>
    (t.descs 0).map QDesc.status = [stBadLen] && t.out = []) := by decide +kernel
/-- A blob that is none. -/
def unwrapDesc : Bytes := dbytes 0x13 0 3 0 80 0 []
theorem test_keyUnwrap : execs 0x13 unwrapDesc ∧ dramRead (mem100 (zeros 80)) 0x100 80 = some (zeros 80)
    ∧ after (.keyUnwrap 9 (mem100 (zeros 80)) {}) (journaled (inEngine unwrapDesc)) (fun t => decide ((t.descs 0).map QDesc.phase = [.ended]) && (t.slot 3).st = .empty) := by
  decide +kernel
/-- Premises of the operations on elliptic curves, whose arithmetic is left to the statements. -/
def signer (b : Bytes) : State := { drew b 40 with blinded := [(9, zeros 40)], slots := [(0, { st := .live, type := 0x10, active := some ⟨zeros 31 ++ [1], 7, 1, 0xFEF10F80, .imported, [], none, 0⟩ })] }
def signDesc : Bytes := dbytes 0x20 0 0 0 32 0 []
theorem test_ecdsaSign : (signer signDesc).runs 0x20 9 0 (inEngine signDesc) qentry ∧ (curveOf (curveCode ((signer signDesc).slot 0).type.toNat)).width = 32
    ∧ ((signer signDesc).entryKey qentry 0).isSome = true ∧ ((signer signDesc).drawsReady (inEngine signDesc) qentry 9) = true := by decide +kernel
def verifyDesc : Bytes := dbytes 0x21 0 0 0x0A 32 64 []
theorem test_ecdsaVerify_runs : execs 0x21 verifyDesc := by decide +kernel
theorem test_ecdsaVerify : (inEngine verifyDesc).param.testBit 3 = true ∧ paramType (bits (inEngine verifyDesc).param 2 0) = 0x10
    ∧ dramRead (mem100 (zeros 96)) 0x100 96 = some (zeros 96) ∧ dramRead ⟨[(0, zeros 64)], []⟩ 0 64 = some (zeros 64)
    ∧ after (.ecdsaVerify 9 ⟨[(0x100, zeros 96), (0, zeros 64)], []⟩ {}) (journaled (inEngine verifyDesc)) (fun t =>
      (t.descs 0).map QDesc.status = [stVerifyFail] && decide (t.fld R.PKE_OPS.COUNT = 1)) := by decide +kernel
/-- A point off the curve. -/
def agreeDesc : Bytes := dbytes 0x22 0 3 0 64 0 []
theorem test_ecdhAgree : (signer agreeDesc).runs 0x22 9 0 (inEngine agreeDesc) qentry
    ∧ after (.ecdhAgree 9 (mem100 (zeros 64)) {}) (signer agreeDesc) (fun t =>
      (t.descs 0).map QDesc.status = [stVerifyFail] && decide (t.fld R.PKE_OPS.COUNT = 1)) := by decide +kernel
def hash0 : Bytes := dbytes 0x28 0 0 0 0 0 []
theorem test_hash : execs 0x28 hash0 ∧ ends (.hash 9 {} {}) hash0 stOk 32 := by decide +kernel
/-- Replayed, with another input than before. -/
def replayed : State := { journaled (inEngine hash0) with
  cellar := { entries := [(9, some { qentry with replayed := true, digestDone := true, digest := 1 })], nextOrder := 1, hd := some (zeros 16) } }
theorem test_hash_changed : after (.hash 9 {} {}) replayed (fun t => (t.descs 0).map QDesc.status = [stInputChanged]
    && decide (t.shows E.CELLAR.INPUT_CHANGED)) := by decide +kernel
def fillDesc : Bytes := dbytes 0x30 0 0 0 16 0 []
theorem test_randomFill : (drew fillDesc 16).runs 0x30 9 0 (inEngine fillDesc) qentry
    ∧ after (.randomFill 9 {}) (drew fillDesc 16) (fun t => (t.descs 0).map QDesc.status = [stOk]
      && t.out = [.initWrite (t.queueRid 0) 0x200 (zeros 16)]) := by decide +kernel
/-! ### Memory -/

/-- Region 0 of one unit at 0x100000, in a mode and a state, with its metadata at 0x200000 and its keys. -/
def regioned (mode st : Nat) : State :=
  let s := put (R.MEMRGN_BASE.ADDR 0) 0x100 (put (R.MEMRGN_SIZE.UNITS 0) 1 (put (R.MEMRGN_META.ADDR 0) 0x200 (up [8, 0x28, 0x29, 0x2B, 0x2C])))
  let s := put (R.MEMRGN_CTL.EN 0) (b2n (st = 1)) (put (R.MEMRGN_KEY.MSLOT 0) 1 (put (R.MEMRGN_CFG.MODE 0) mode (put (R.MEMRGN_CTL.STATE 0) st s)))
  let s := put (R.MEMRGN_CFG.DMA_RIGHT 0) 3 (put R.POWER_STAT.DOMAINS_ON 0xFFFF s)
  let s := key 1 1 (zeros 16) (key 0 (if mode = mdTree then 1 else 3) (zeros (if mode = mdTree then 16 else 32)) s)
  { s with lanes := [(0, { powered := true, tested := true })] }
def clear1 : State := regioned mdClear 1
def tree1 : State := regioned mdTree 1
/-- A read that Otist accepts, and one without alignment. -/
theorem test_memRead : clear1.wf ∧ clear1.shut = false ∧ clear1.memOn = true ∧ clear1.badAt 0x100000 = false ∧ clear1.metaAt 0x100000 = none
    ∧ clear1.servedAt 0x100000 = some 0 ∧ clear1.parkAt 0x100000 = false ∧ clear1.cellarFault = false ∧ clear1.usedOf .memory + 2 ≤ 512
    ∧ clear1.lineHeld 0 0x100000 = false ∧ clear1.passOf 0 = none ∧ clear1.withdrawn 0 = false ∧ clear1.withdrawn 1 = false
    ∧ after (.memReadRequest 0x100000 false 3 0 0) clear1 (fun t => decide (t.inUse.length = 1) && t.out = [] && decide (t.mem.txns.length = 1)) := by
  decide +kernel
theorem test_memRead_aligned : after (.memReadRequest 0x100010 false 3 0 0) clear1 (fun t => t.out = [.memRead 3 .buserr (zeros 32)]) := by decide +kernel
/-- A read of the metadata. -/
theorem test_memRead_meta : tree1.metaAt 0x200000 = some 0 ∧ after (.memReadRequest 0x200000 false 3 0 0) tree1 (fun t =>
    t.out = [.memRead 3 .buserr (zeros 32)] && decide (t.shows E.MEM.META_ACCESS ∧ t.fld R.MEM_FAIL_INFO.KIND = 7)) := by decide +kernel
/-- A whole line into a CLEAR region goes downstream as it is. -/
theorem test_memWrite : clear1.writeHeld mdClear = false ∧ after (.memWriteRequest 0x100040 true 3 0 0 (List.replicate 64 7) (BitVec.allOnes 64) {}) clear1 (fun t =>
    t.out = [.dramWrite 0x100040 (List.replicate 64 7) (BitVec.allOnes 64)]) := by decide +kernel
/-- A DMA master without the right to write. -/
theorem test_memWrite_right : after (.memWriteRequest 0x100040 true 3 0 2 (zeros 64) (BitVec.allOnes 64) {}) (put (R.MEMRGN_CFG.DMA_RIGHT 0) 2 clear1) (fun t =>
    t.out = [.memWrite 3 .buserr] && decide (t.fld R.MEM_REFUSED_RIGHTS.COUNT = 1)) := by decide +kernel
/-- A TREE region with the block and the tag line of its first lines cached. -/
def cachedTree : State := { tree1 with mem := { ctr := [⟨0, false, 0, 0, zeros 64, false⟩], tag := [⟨0, false, 0, 0, zeros 64, false⟩] } }
theorem test_memWrite_tree : cachedTree.banks false = 2 ∧ cachedTree.banks true = 2 ∧ cachedTree.blockHeld (cachedTree.oldSide 0) 0x100000 = some (zeros 64)
    ∧ cachedTree.overflowsOf 0 false 0 0 = [] ∧ cachedTree.mem.spent = [] ∧ cachedTree.sched.items = [] ∧ cachedTree.laneJobs = [] ∧ cachedTree.takesItems 0 = true
    ∧ blkMinor (zeros 64) 0 < 63 ∧ (cachedTree.sideKeys (cachedTree.oldSide 0)).isSome = true := by decide +kernel

/-- A master with right 1 reads the region's ciphertext: the request carries no keys and no counter. -/
theorem test_memRead_cipher : (put (R.MEMRGN_CFG.DMA_RIGHT 0) 1 tree1).right 0 { addr := 0x100000, two := true, rid := 0, tid := 3, attr := 2, region := some 0 } = 1 := by decide +kernel

/-- A read and a write in flight, under entry 4. -/
def txn0 (w : Bool) : MemTxn := { addr := 0x100000, two := true, rid := 0, tid := 3, attr := 0, isWrite := w, region := some 0, data := if w then zeros 64 else [] }
def mentry (k : CKind) : CEntry := { kind := k, stamp := ⟨0, 0⟩, order := 0 }
def flight (x : MemTxn) (s : State) : State :=
  { s with mem := { s.mem with txns := [(4, some x)] }, cellar := { entries := [(4, some (mentry (if x.isWrite then .memWr else .memRd)))], nextOrder := 1 } }
def readView (e : DramErr) : MemView := ⟨[(0x100000, e, List.replicate 64 9)], []⟩
theorem test_readResponse : (flight (txn0 false) clear1).wf ∧ (flight (txn0 false) clear1).turn (txn0 false) = true
    ∧ after (.downstreamReadResponse 4 (readView .ok)) (flight (txn0 false) clear1) (fun t =>
      t.out = [.memRead 3 .okay (List.replicate 64 9)] && t.mem.txns = [] && t.inUse = []) := by decide +kernel
/-- A write in a CLEAR region that waited for no lane and needs no line. -/
def waited : MemTxn := { txn0 true with strb := BitVec.allOnes 64 }
theorem test_readResponse_noRead : waited.noRead (flight waited clear1) = true ∧ (flight waited clear1).canWork (.entry 4) ∧ (flight waited clear1).replayHeld 4 = false
    ∧ (waited.sideOf (flight waited clear1) 0).c.mode = mdClear := by decide +kernel
/-- The controller reports the line uncorrectable. -/
theorem test_readResponse_media : after (.downstreamReadResponse 4 (readView .uncorrectable)) (flight (txn0 false) clear1) (fun t =>
    decide (t.shows E.MEM.MEDIA ∧ t.fld R.MEM_FAIL_INFO.KIND = 3 ∧ t.fld R.MEM_MEDIA.COUNT = 1)) := by decide +kernel
theorem test_writeResponse : after (.downstreamWriteResponse 4 true {}) (flight { txn0 true with phase := .writing } clear1) (fun t =>
    t.out = [.memWrite 3 .okay] && t.mem.txns = [] && t.inUse = []) := by decide +kernel
/-- A partial write of a CONF region, whose merge needs the line. -/
def conf1 : State := regioned mdConf 1
def partial0 : MemTxn := { txn0 true with strb := 1, kref := some ⟨0, 1⟩ }
theorem test_readResponse_merge : (flight partial0 conf1).turn partial0 = true ∧ (flight partial0 conf1).canWork (.entry 4) ∧ partial0.noRead (flight partial0 conf1) = false
    ∧ (match (flight partial0 conf1).verdict ((flight partial0 conf1).oldSide 0) (zeros 32) [] 0x100000 (zeros 64) with | some (true, _) => true | _ => false) = true := by
  decide +kernel
/-- The same in a TREE region whose chunk had no counter left. -/
def partialTree : MemTxn := { partial0 with rctr := some (0, 1), wctr := .exhausted }
theorem test_readResponse_exhausted : (flight partialTree cachedTree).canWork (.entry 4) ∧ partialTree.noRead (flight partialTree cachedTree) = false
    ∧ ((flight partialTree cachedTree).verdict ((flight partialTree cachedTree).oldSide 0) (zeros 16) (zeros 16) 0x100000 (zeros 64) partialTree.rctr).isSome = true := by
  decide +kernel
theorem test_readTimeout : after .downstreamReadTimeout clear1 (fun t => decide (recorded 0x28 0x0020 (alarmPayload 0 0 0 false 0x28) t)) := by decide +kernel
theorem test_derrReport : after (.derrReport 4 2 false) (flight (txn0 false) clear1) (fun t => t.mem.txns.any fun p => match p.2 with
    | some x => x.uncorrectable | none => false) := by decide +kernel
theorem test_derrReport_late : after (.derrReport 4 2 true) clear1 (fun t => decide (t.fld R.GLOBAL_BND_ERR.GROUP = 3 ∧ t.fld R.GLOBAL_BND_ERR.COUNT = 1)) := by
  decide +kernel

/-- CHECKPOINT of a region with a dirty line, and OPEN of one that rests. -/
def dirty : State := { tree1 with mem := { ctr := [⟨0, false, 0, 0, zeros 64, true⟩] }, roots := [(0, some (zeros 64))] }
theorem test_checkpoint : dirty.takes 0 U.mem R.MEM_CMD.OP.addr (1 * 2 ^ 28 + 0) ∧ dirty.treeActive 0 = true ∧ dirty.regionClean 0 = false
    ∧ after (.checkpoint 0 0) dirty (fun t => t.mem.cmd = .flushing 0 && decide (t.fld (R.MEMRGN_CTL.RESTING 0) = 1)) := by decide +kernel
theorem test_checkpoint_refused : after (.checkpoint 0 0) clear1 (fun t => decide (ended U.mem rcState clear1 t)) := by decide +kernel
def resting : State := put (R.MEMRGN_CTL.RESTING 0) 1 dirty
theorem test_open : resting.takes 0 U.mem R.MEM_CMD.OP.addr (2 * 2 ^ 28 + 0)
    ∧ after (.openRegion 0 0) resting (fun t => t.mem.cmd = .record 0 && decide (t.anchor.reqs.length = 1)) := by decide +kernel
def clear0 : State := regioned mdClear 0
theorem test_regionEn : clear0.accepts 0 (R.MEMRGN_CTL.EN 0).addr 1 ∧ clear0.regionBad 0 = false
    ∧ after (.regionEn 0 0 true {}) clear0 (fun t => decide (t.rgnState 0 = pgActive ∧ t.fld (R.MEMRGN_CTL.BAD 0) = 0)) := by decide +kernel
/-- A TREE region that adopts a root Otist does not hold. -/
theorem test_regionEn_bad : (regioned mdTree 0).regionBad 0 = false ∧ after (.regionEn 0 0 true {}) (regioned mdTree 0) (fun t =>
    decide (t.rgnState 0 = pgActive ∧ t.fld (R.MEMRGN_CTL.BAD 0) = 1)) := by decide +kernel
theorem test_regionEn_off : clear1.accepts 0 (R.MEMRGN_CTL.EN 0).addr 0
    ∧ after (.regionEn 0 0 false {}) clear1 (fun t => decide (t.rgnState 0 = pgDraining)) := by decide +kernel
def suspended : State := put (R.MEMRGN_CTL.SPEC_SUSP 0) 1 clear1
theorem test_specResume : suspended.accepts 0 (R.MEMRGN_CTL.EN 0).addr (0x400 + suspended.fld (R.MEMRGN_CTL.EN 0))
    ∧ after (.specResume 0 0) suspended (fun t => decide (t.fld (R.MEMRGN_CTL.SPEC_SUSP 0) = 0 ∧ t.rgnState 0 = pgActive)) := by decide +kernel

def dirtyTag : CacheLine := ⟨0, false, 0, 0, List.replicate 64 5, true⟩
def flushing0 : State := { tree1 with mem := { tag := [dirtyTag], flushT := true }, roots := [(0, some (zeros 64))] }
theorem test_cacheWriteback : ((flushing0.cacheLines true).filter (flushing0.mayFlush true)).getLast? = some dirtyTag
    ∧ after (.cacheWriteback true {}) flushing0 (fun t => t.mem.tag.map CacheLine.dirty = [false] && decide (t.out.length = 1)) := by decide +kernel
/-- The block of the top level, for its write-back. -/
def topBlock : CacheLine := ⟨0, false, 0, 0, zeros 64, true⟩
def flushing1 : State := { tree1 with mem := { ctr := [topBlock], flushC := true }, roots := [(0, some (zeros 64))] }
theorem test_cacheWriteback_top : ((flushing1.cacheLines false).filter (flushing1.mayFlush false)).getLast? = some topBlock ∧ (flushing1.side 0 false).top = 0
    ∧ flushing1.root' 0 false = some (zeros 64) ∧ flushing1.overflowsOf 0 false 1 0 = [] ∧ flushing1.cached false 0 false 0 0 = some topBlock := by decide +kernel
theorem test_writeback : flushing0.accepts 0 R.MEMCACHE_CMD.WRITEBACK.addr 1 ∧ flushing0.active 0x2B = true
    ∧ after (.writeback 0) flushing0 (fun t => t.mem.flushAll && t.mem.tag = [dirtyTag]) := by decide +kernel
theorem test_cacheParity : after (.cacheParityError true 0 true true {}) flushing0 (fun t =>
    t.mem.fenced.getLsbD 3 && decide (t.shows E.MEMCACHE.BANK_FENCED ∧ t.fld R.MEMCACHE_RECON.COUNT = 1)) := by decide +kernel
theorem test_cacheParity_empty : after (.cacheParityError true 5 true false {}) flushing0 (fun t => t.mem = flushing0.mem && decide (t.shows E.MEMCACHE.BANK_GUST)) := by
  decide +kernel
/-- An open entry over the chunk, at its first line, which fails its check. -/
def over0 : Overflow := ⟨0, false, 0, 0, 0, List.replicate 64 0, 0⟩
def overflowed : State := { cachedTree with mem := { cachedTree.mem with overflows := [over0] } }
theorem test_overflow : over0.next = some 0 ∧ overflowed.laneCount ≠ 0 ∧ overflowed.setsFit false = true ∧ overflowed.blockHeld (overflowed.side 0 false) 0x100000 = some (zeros 64)
    ∧ (match overflowed.verdict (overflowed.side 0 false) (zeros 16) (zeros 16) 0x100000 (zeros 64) with | some _ => true | none => false) = true := by
  decide +kernel
/-- One that the controller reports uncorrectable. -/
theorem test_overflow_media : overflowed.mediaFails 0x100000 false (readView .uncorrectable)
    ∧ after (.overflowReencrypt (readView .uncorrectable)) overflowed (fun t => decide (t.shows E.MEM.MEDIA) && t.mem.overflows.map (fun o => o.done.getLsbD 0) = [true]) := by
  decide +kernel

/-! ### Kiln -/

/-- A CONF region with a pass staged that re-keys it to slot 2, with the page and the domains it needs. -/
def stagedPass : State :=
  key 2 3 (List.replicate 32 2) (put R.KILN_NEW_SIZE.UNITS 1 (put R.KILN_NEW_KEY.KSLOT 2 (put R.KILN_NEW_META.ADDR 0x300 conf1)))
theorem test_start : stagedPass.wf ∧ stagedPass.takes 0 U.kiln R.KILN_CMD.OP.addr (1 * 2 ^ 28) ∧ stagedPass.rgnState 0 = pgActive
    ∧ stagedPass.startBad 0 (stagedPass.regionCfg 0) (stagedPass.staged 0) = false
    ∧ after (.start 0) stagedPass (fun t => t.passes.map Pass.kind = [.rekey] && decide (t.kilnState = 1)) := by decide +kernel
/-- Nothing changes between the staged configuration and the region's own. -/
def stagedSame : State := put R.KILN_NEW_SIZE.UNITS 1 conf1
theorem test_start_bad : stagedSame.startBad 0 (stagedSame.regionCfg 0) (stagedSame.staged 0) = true
    ∧ after (.start 0) stagedSame (fun t => decide (ended U.kiln rcBadEntry stagedSame t ∧ t.shows E.KILN.START_BAD)) := by decide +kernel
theorem test_start_state : after (.start 0) (put (R.MEMRGN_CTL.RESTING 0) 1 stagedPass) (fun t => t.passes = [] && decide (t.fld R.KILN_CMD_STAT.RESULT = rcState)) := by
  decide +kernel
def kilnOff : State := put R.POWER_STAT.DOMAINS_ON 0xFFFF (up [8, 0x28])
theorem test_start_inactive : kilnOff.accepts 0 R.KILN_CMD.OP.addr (2 ^ 28) ∧ kilnOff.fld R.KILN_CMD_STAT.BUSY = 0 ∧ kilnOff.active 0x2C = false
    ∧ after (.start 0) kilnOff (fun t => decide (ended U.kiln rcNotActive kilnOff t)) := by decide +kernel

/-- A pass over one chunk, before it, in it, at its last line and past it. -/
def pass0 : Pass := { region := 0, kind := .rekey, old := stagedPass.regionCfg 0, new := stagedPass.staged 0, root := zeros 64 }
def inPass (p : Pass) : State := { stagedPass with passes := [p] }
def opened : Pass := { pass0 with started := some 0 }
def lastLine : Pass := { opened with doneBits := BitVec.ofNat 64 (2 ^ 64 - 2), prepared := [⟨0, []⟩] }
theorem test_pause : (inPass pass0).takes 0 U.kiln R.KILN_CMD.OP.addr (2 * 2 ^ 28)
    ∧ after (.pause 0) (inPass pass0) (fun t => t.passes.map Pass.paused = [true] && decide (t.shows E.KILN.PAUSED)) := by decide +kernel
theorem test_kilnResume : (inPass { pass0 with paused := true }).takes 0 U.kiln R.KILN_CMD.OP.addr (3 * 2 ^ 28)
    ∧ after (.kilnResume 0) (inPass { pass0 with paused := true }) (fun t => t.passes.map Pass.paused = [false]) := by decide +kernel
theorem test_discard : (inPass pass0).takes 0 U.kiln R.KILN_CMD.OP.addr (4 * 2 ^ 28)
    ∧ after (.discard 0) (inPass pass0) (fun t => decide (t.fld R.KILN_CMD_STAT.RESULT = rcState) && decide (t.passes.length = 1)) := by decide +kernel
theorem test_discard_off : after (.discard 0) (put (R.MEMRGN_CTL.STATE 0) 0 (inPass pass0)) (fun t => t.passes = [] && decide (t.shows E.KILN.PASS_END)) := by
  decide +kernel
theorem test_kilnChunkStart : (inPass pass0).wf ∧ (inPass pass0).walking = some pass0 ∧ (inPass pass0).passStep pass0 = 0 ∧ pass0.bound < pass0.new.size
    ∧ after (.kilnChunkStart {}) (inPass pass0) (fun t => t.passes.map Pass.started = [some (inPass pass0).now.toNat]) := by decide +kernel
/-- A chunk whose keys stay is copied. -/
def grow0 : Pass := { pass0 with kind := .grow, new := { stagedPass.regionCfg 0 with size := 2 } }
theorem test_kilnChunkStart_skip : (inPass grow0).walking = some grow0 ∧ (inPass grow0).passStep grow0 = 3
    ∧ after (.kilnChunkStart {}) (inPass grow0) (fun t => t.passes.map (fun p => (p.bound, p.chunks)) = [(1, 1)]) := by decide +kernel
def shutPass : State := inPass { pass0 with paused := true }
theorem test_kiln_waits : shutPass.walking = none ∧ after (.kilnChunkStart {}) shutPass (fun t => t.passes = shutPass.passes && t.out = [])
    ∧ after (.kilnPrepareDone 0 {}) shutPass (fun t => t.passes = shutPass.passes && t.out = []) := by decide +kernel
/-- A pass that formats a TREE region: its first prepares have their minors. -/
def formats : Pass := { region := 0, kind := .format, old := { tree1.regionCfg 0 with size := 0 }, new := tree1.regionCfg 0, root := zeros 64 }
def formatting (p : Pass) : State := { put (R.MEMRGN_SIZE.UNITS 0) 1 tree1 with passes := [p] }
theorem test_kilnChunkStart_tree : (formatting formats).walking = some formats ∧ (formatting formats).passStep formats = 2 ∧ formats.new.mode = mdTree
    ∧ (formatting formats).banks false = 2 ∧ (formatting formats).quarCovers 0 true 0 0 = false ∧ (formatting formats).overflowsOf 0 true 0 0 = []
    ∧ after (.kilnChunkStart {}) (formatting formats) (fun t => t.passes.any fun p => p.taken.take 1 = [(0, .ok 0 1)]) := by decide +kernel
def takenLine : Pass := { formats with started := some 0, taken := [(0, .ok 0 1)] }
theorem test_kilnPrepareDone_tree : (formatting takenLine).walking = some takenLine ∧ (formatting takenLine).laneCount ≠ 0
    ∧ (formatting takenLine).oldInFlight 0 0x100000 = false ∧ takenLine.doneBits.getLsbD 0 = false := by decide +kernel
/-- Line 1, of the chunk's first byte plus 64, holds zeros in DRAM. -/
theorem test_kilnPrepareDone : (inPass opened).walking = some opened ∧ (memLine {} 0x100040).1 = .ok ∧ (inPass opened).laneCount ≠ 0 ∧ opened.new.mode = mdConf
    ∧ (inPass opened).mediaBit 0x100040 = false ∧ (inPass opened).oldInFlight 0 0x100040 = false
    ∧ after (.kilnPrepareDone 1 {}) (inPass opened) (fun t => t.passes.map Pass.prepared = [[⟨1, []⟩]]) := by decide +kernel
theorem test_kilnPrepareDone_done : lastLine.doneBits.getLsbD 3 = true ∧ after (.kilnPrepareDone 3 {}) (inPass lastLine) (fun t => t.passes = [lastLine] && t.out = []) := by
  decide +kernel
theorem test_kilnCommitDone : after (.kilnCommitDone 0 true 5 {}) (inPass lastLine) (fun t =>
    t.passes.map (fun p => (p.bound, p.doneBits, p.prepared.length)) = [(1, 0, 0)] && decide (t.fld R.KILN_STALL.MAX_NS = 5)) := by decide +kernel
theorem test_kilnCommitDone_error : after (.kilnCommitDone 0 false 5 {}) (inPass lastLine) (fun t =>
    t.passes.map (fun p => (p.bound, p.doneBits, p.prepared.length)) = [(0, lastLine.doneBits, 0)]) := by decide +kernel
def lastTag : Pass := { opened with new := { stagedPass.staged 0 with cfg := BitVec.ofNat 32 (mdTag * 2 ^ 30) }, prepared := [⟨9, List.replicate 8 7⟩] }
theorem test_kilnCommitDone_tag : 2 ≤ lastTag.new.mode ∧ (inPass lastTag).banks true = 2
    ∧ after (.kilnCommitDone 9 true 0 {}) (inPass lastTag) (fun t => t.mem.tag.any fun l =>
      l.is 0 true 0 1 && l.dirty && slice l.data 8 8 = List.replicate 8 7) := by decide +kernel
def through : Pass := { pass0 with bound := 1 }
theorem test_kilnPassComplete : (inPass through).passWait through = 0 ∧ after (.kilnPassComplete {}) (inPass through) (fun t =>
    t.passes = [] && decide (t.fld (R.MEMRGN_KEY.KSLOT 0) = 2 ∧ t.shows E.KILN.PASS_DONE)) := by decide +kernel
theorem test_kilnPassComplete_early : after (.kilnPassComplete {}) (inPass pass0) (fun t => t.passes = [pass0]) := by decide +kernel
def quarantined : State := { up [8, 0x28, 0x2D] with mem := { quar := none :: some ⟨0, false, 2, 5, ⟨77, 0⟩⟩ :: List.replicate 30 none } }
theorem test_treeRead : quarantined.takes 0 U.tree R.TREE_CMD.OP.addr (2 ^ 28 + 1) ∧ after (.treeRead 0 1) quarantined (fun t =>
    decide (t.fld R.TREE_QUAR_ENTRY.LEVEL = 2 ∧ t.fld R.TREE_QUAR_ENTRY.INDEX = 5 ∧ t.fld R.TREE_QUAR_TS.TS = 77)) := by decide +kernel
theorem test_treeRead_free : after (.treeRead 0 0) quarantined (fun t => decide (t.fld R.TREE_QUAR_ENTRY.VALID = 0)) := by decide +kernel

/-! ### Storage -/

/-- Storage slot 0 uses key slot 3 (XTS), and the page is ACTIVE. -/
def stored : State :=
  let s := put R.POWER_STAT.DOMAINS_ON 0xFFFF (up [4, 8, 0x28, 0x29, 0x2B, 0x30, 0x34, 0x35, 0x36, 0x37, 0x3A])
  let s := put (R.STOR_SLOT.VALID 0) 1 (put (R.STOR_SLOT.KEYSLOT 0) 3 s)
  let s := key 5 1 (List.replicate 16 5) (key 4 1 (zeros 16) (key 3 3 (zeros 32) s))
  { s with lanes := [(0, { powered := true, tested := true })] }
theorem test_storageHeader : stored.wf ∧ stored.active 0x30 = true ∧ stored.shut = false
    ∧ after (.storageHeader 0 false false 7 {}) stored (fun t => t.units = [{ buffer := 0, kslot := 0, dus4k := false, dir := false, lbn := 7, part := none }]) := by
  decide +kernel
def unit7 : StorUnit := { buffer := 0, kslot := 0, dus4k := false, dir := false, lbn := 7, part := none }
def unitIn : State := { stored with units := [unit7] }
theorem test_storageUnit_may : unitIn.laneCount ≠ 0 ∧ (unitIn.unitKey unit7).isSome = true ∧ unitIn.partRefuses unit7 = false ∧ unitIn.grounded = false ∧ unitIn.noLane = false
    ∧ unitIn.cellarFault = false ∧ (unitIn.freeEntry .storage).isSome = true := by decide +kernel
/-- A refused unit carries zeros. -/
theorem test_storageUnit_refused : after (.storageUnitAccept (zeros 512) {}) { unitIn with units := [{ unit7 with kslot := 1 }] } (fun t =>
    t.out = [.storUnit ustRefused (zeros 512)] && t.units = [] && decide (t.fld R.STOR_REFUSED.COUNT = 1)) := by decide +kernel
/-- A second unit that is ready first waits behind the first. -/
theorem test_storageUnit_behind : after (.storageUnitAccept (zeros 512) {})
    { unitIn with units := [{ unit7 with cellar := some 9 }, { unit7 with buffer := 1, kslot := 1 }] } (fun t =>
    t.out = [] && t.units.map StorUnit.status = [none, some ustRefused]) := by decide +kernel
def sentry : CEntry := { kind := .storage, stamp := ⟨0, 0⟩, order := 0 }
def writing : StorUnit := { unit7 with part := some 0, cellar := some 9, written := some (1, zeros 8), out := zeros 512 }
def unitWriting : State :=
  { put (R.STOR_PART_CTL.STATE 0) psMounted stored with units := [writing], cellar := { entries := [(9, some sentry)], nextOrder := 1 } }
theorem test_storageEntryWritten : unitWriting.wf ∧ after (.storageEntryWritten false true) unitWriting (fun t =>
    t.out = [.storUnit ustOk (zeros 512)] && t.units = [] && t.inUse = [] && decide (t.fld R.STOR_UNITS.COUNT = 1)) := by decide +kernel
theorem test_storageEntryWritten_lost : psMounted ≤ unitWriting.partState 0 ∧ after (.storageEntryWritten false false) unitWriting (fun t =>
    t.out = [.storUnit ustVersion (zeros 512)] && decide (t.partState 0 = psUnmounted ∧ t.fld (R.STOR_PART_CTL.OUTCOME 0) = poTable)) := by decide +kernel

/-- Partition 0 of 4 sectors, its table in TREE region 0, set up and with a record of epoch 2. -/
def record2 : StorRec := ⟨16, 4, 2, 2, false, false, zeros 8⟩
def storRecord (r : StorRec) : LiveRec := { slot := 1, key := 0x30, payload := r.bytes }
def partition0 : State :=
  let s := put (R.MEMRGN_BASE.ADDR 0) 0x100 (put (R.MEMRGN_SIZE.UNITS 0) 1 (put (R.MEMRGN_CTL.STATE 0) 1 (put (R.MEMRGN_CFG.MODE 0) mdTree stored)))
  let s := put (R.MEMRGN_CFG.PRIV 0) 1 (put (R.STOR_PART_FIRST.LBN 0) 16 (put (R.STOR_PART_COUNT.UNITS 0) 4 (put (R.STOR_PART_CFG.DEFINED 0) 1 s)))
  let s := put (R.STOR_PART_KEY.MSLOT 0) 4 (put (R.STOR_PART_KEY.TSLOT 0) 5 (put (R.STOR_PART_TBL.ADDR 0) 0x100 (put (R.STOR_PART_IMG.ADDR 0) 0x300 s)))
  { s with anchor := { s.anchor with scanned := true, live := [storRecord record2] } }
def withPart (st : Nat) (s : State) : State :=
  { put (R.STOR_PART_CTL.STATE 0) st s with parts := [(0, { cfg := s.partRegs 0, digest := zeros 8 })] }
theorem test_mount : partition0.wf ∧ partition0.takes 0 U.stor R.STOR_CMD.OP.addr (1 * 2 ^ 28 + 0) ∧ partition0.partState 0 = psUnmounted
    ∧ partition0.partCheck 0 (partition0.partRegs 0) = none ∧ (partition0.storLive 0).isSome = true
    ∧ after (.mount 0 0 {}) partition0 (fun t => decide (t.fld (R.STOR_PART_CTL.OUTCOME 0) = poBadImage)) := by decide +kernel
/-- An image of epoch 2 whose one TU opens, its MACs computed outside. -/
def tu0 : Bytes := [187, 61, 122, 41, 39, 62, 212, 71]
def mac0 : Bytes := [146, 193, 3, 18, 119, 104, 146, 86]
def image : Dram := ⟨[(0x301000, zeros 4096), (0x300000, (partition0.partRegs 0).header 0 2 ++ mac0), (0x300040, beBytes 6 2 ++ zeros 2 ++ tu0)], []⟩
theorem test_mount_image : dramRead image 0x300000 64 = some ((partition0.partRegs 0).header 0 2 ++ mac0)
    ∧ dramRead image 0x300040 16 = some (beBytes 6 2 ++ zeros 2 ++ tu0)
    ∧ hdrMac (List.replicate 16 5) 0 2 ((partition0.partRegs 0).header 0 2) (beBytes 6 2 ++ zeros 2 ++ tu0) = mac0 := by decide +kernel
theorem dramRead_first (a : Nat) (d : Bytes) (r : List (Nat × Bytes)) (bad : List Nat) : ∀ n, n ≤ d.length →
    dramRead ⟨(a, d) :: r, bad⟩ a n = some (d.take n)
  | 0, _ => rfl
  | n + 1, h => by
    have hb : dramByte ((a, d) :: r) (a + n) = some d[n] := by
      simp only [dramByte, if_pos (show a ≤ a + n ∧ a + n < a + d.length by omega), Nat.add_sub_cancel_left]
      exact List.getElem?_eq_getElem h
    simp only [dramRead, dramRead_first a d r bad n (by omega), hb]
    rw [List.take_succ_eq_append_getElem h]
theorem test_mount_opens : ∃ ct, dramRead image 0x301000 4096 = some ct ∧ (gcmTag (List.replicate 16 5) (tuIv 0 0 2) [] ct).take 8 = tu0 :=
  ⟨(zeros 4096).take 4096, dramRead_first _ _ _ _ _ (by rw [zeros, List.length_replicate]), by decide +kernel⟩
/-- No record, a record of other sectors, no key. -/
def noRecord : State := { partition0 with anchor := { partition0.anchor with live := [] } }
theorem test_mount_noRecord : after (.mount 0 0 {}) noRecord (fun t => decide (t.fld (R.STOR_PART_CTL.OUTCOME 0) = poNoRecord)) := by decide +kernel
theorem test_mount_config : after (.mount 0 0 {}) (put (R.STOR_PART_FIRST.LBN 0) 17 partition0) (fun t => decide (t.fld (R.STOR_PART_CTL.OUTCOME 0) = poConfig)) := by
  decide +kernel
theorem test_mount_key : after (.mount 0 0 {}) (put (R.STOR_SLOT.VALID 0) 0 partition0) (fun t => decide (t.fld (R.STOR_PART_CTL.OUTCOME 0) = poKey)) := by
  decide +kernel
theorem test_mount_state : after (.mount 0 0 {}) (withPart psMounted partition0) (fun t => decide (t.fld R.STOR_CMD_STAT.RESULT = rcState)) := by decide +kernel
theorem test_format : noRecord.takes 0 U.stor R.STOR_CMD.OP.addr (2 * 2 ^ 28 + 0) ∧ after (.format 0 0) noRecord (fun t =>
    decide (t.partState 0 = psSealing ∧ t.fld R.STOR_CMD_STAT.BUSY = 1) && t.anchor.reqs = [(.storage 0 { record2 with epoch := 0, sealEpoch := 1, intent := true }.bytes, 0)]) := by
  decide +kernel
/-- In FIELD a committed partition is not formatted again. -/
theorem test_format_field : after (.format 0 0) (put R.KEYS_LC.STATE 2 partition0) (fun t => decide (t.fld (R.STOR_PART_CTL.OUTCOME 0) = poConfig)) := by
  decide +kernel
def mounted : State := withPart psMounted partition0
theorem test_storCommit : mounted.takes 0 U.stor R.STOR_CMD.OP.addr (3 * 2 ^ 28 + 0) ∧ mounted.unitsOf 0 true = false
    ∧ after (.storCommit 0 0) mounted (fun t => decide (t.partState 0 = psSealing) && t.anchor.reqs = [(.storage 0 { record2 with sealEpoch := 3, intent := true }.bytes, 0)]) := by
  decide +kernel
def sealedPart : State := withPart psSealed { partition0 with anchor := { partition0.anchor with live := [storRecord { record2 with sealEpoch := 3, intent := true }] } }
theorem test_confirm : sealedPart.takes 0 U.stor R.STOR_CMD.OP.addr (4 * 2 ^ 28 + 0)
    ∧ after (.confirm 0 0) sealedPart (fun t => t.anchor.reqs = [(.storage 0 { record2 with epoch := 3, sealEpoch := 3 }.bytes, 0)]) := by decide +kernel
theorem test_unmount : mounted.takes 0 U.stor R.STOR_CMD.OP.addr (5 * 2 ^ 28 + 0) ∧ mounted.unitsOf 0 false = false
    ∧ after (.unmount 0 0) mounted (fun t => decide (t.partState 0 = psUnmounted)) := by decide +kernel
/-- One of its units is accepted. -/
def mountedBusy : State := { mounted with units := [writing], cellar := { entries := [(9, some sentry)], nextOrder := 1 } }
theorem test_unmount_waits : mountedBusy.unitsOf 0 false = true ∧ after (.unmount 0 0) mountedBusy (fun t =>
    (t.part 0).wait = .unmount && decide (t.partState 0 = psMounted)) ∧ after (.storCommit 0 0) mountedBusy (fun t => (t.part 0).wait = .commitUnits) := by
  decide +kernel
theorem test_partDrop : mounted.tableOk (mounted.part 0).cfg = true ∧ mounted.partRegs 0 = (mounted.part 0).cfg
    ∧ after (.partDrop 0) mounted (fun t => decide (t.partState 0 = psMounted))
    ∧ after (.partDrop 0) (put (R.MEMRGN_CTL.STATE 0) 0 mounted) (fun t => decide (t.partState 0 = psUnmounted ∧ t.fld (R.STOR_PART_CTL.OUTCOME 0) = poTable))
    ∧ after (.partDrop 0) (put (R.STOR_PART_COUNT.UNITS 0) 5 mounted) (fun t => decide (t.fld (R.STOR_PART_CTL.OUTCOME 0) = poConfig)) := by decide +kernel
/-- A unit outside a sealed partition returns at once. -/
theorem test_storageUnit : after (.storageUnitAccept (zeros 512) {}) unitIn (fun t =>
    (match t.out with | [.storUnit st _] => st = ustOk | _ => false) && t.units = [] && decide (t.fld R.STOR_UNITS.COUNT = 1)) := by decide +kernel
/-- A read of a sector that was never written has version 0. -/
def readNew : StorUnit := { unit7 with lbn := 16, dir := true, part := some 0, entry := some (0, zeros 8) }
theorem test_storageUnit_version : mounted.partRefuses readNew = false ∧ after (.storageUnitAccept (zeros 512) {}) { mounted with units := [readNew] } (fun t =>
    t.out = [.storUnit ustVersion (zeros 512)] && decide (t.fld (R.STOR_PART_FAILS.VER 0) = 1)) := by decide +kernel

/-! ### Loose -/

/-- Context 0 with key slot 3 bound, and no lane missing. -/
def loosed : State :=
  let s := put R.POWER_STAT.DOMAINS_ON 0xFFFF (up [8, 0x24, 0x34, 0x35, 0x36, 0x37, 0x38, 0x3A])
  let s := put (R.LOOSE_CTX_KEY.SLOT 0) 3 (put (R.LOOSE_CTX_KEY.BOUND 0) 1 (put (R.LOOSE_CTX_KCV.KCV 0) 0xABCD s))
  let b : Bank := ⟨zeros 16, 0xABCD, 1, 0xFEF10F80, .imported, [], none, 0⟩
  { s with slots := [(3, { st := .live, type := 1, active := some b, nextGen := 2 })], lanes := [(0, { powered := true, tested := true }), (1, { powered := true, tested := true })] }
theorem test_looseCtxKey : loosed.wf ∧ loosed.accepts 0 (R.LOOSE_CTX_KEY.SLOT 0).addr 5 ∧ (loosed.slot 5).active = none
    ∧ after (.looseCtxKey 0 0 5) loosed (fun t => decide (t.fld (R.LOOSE_CTX_KEY.BOUND 0) = 0 ∧ t.fld (R.LOOSE_CTX_KEY.SLOT 0) = 5)) := by decide +kernel
theorem test_looseCtxKey_bound : (loosed.slot 3).active.isSome = true
    ∧ after (.looseCtxKey 0 1 3) loosed (fun t => decide (t.fld (R.LOOSE_CTX_KEY.BOUND 1) = 1 ∧ t.fld (R.LOOSE_CTX_KCV.KCV 1) = 0xABCD)) := by decide +kernel
theorem test_go : loosed.accepts 0 (R.LOOSE_CTX_GO.GO 0).addr 1 ∧ loosed.active 0x38 = true ∧ loosed.shut = false ∧ (loosed.looseCheck 0).isOk = true
    ∧ after (.go 0 0) loosed (fun t => decide (t.fld (R.LOOSE_CTX_STAT.BUSY 0) = 1) && (match (t.looseCtx 0).busy with
      | .op ⟨3, 1⟩ 0 _ _ => true | _ => false)) := by decide +kernel
/-- No key is bound, and a reserved mode. -/
theorem test_go_unbound : after (.go 0 0) (put (R.LOOSE_CTX_KEY.BOUND 0) 0 loosed) (fun t =>
    decide (t.fld (R.LOOSE_CTX_STAT.STATUS 0) = 0x20 ∧ t.fld R.LOOSE_FAILS.COUNT = 1 ∧ t.shows (E.LOOSE.FAIL 0))) := by decide +kernel
theorem test_go_mode : after (.go 0 0) (put (R.LOOSE_CTX_MODE.MODE 0) 1 loosed) (fun t => decide (t.fld (R.LOOSE_CTX_STAT.STATUS 0) = 0x10)) := by decide +kernel
theorem test_go_inactive : (up []).active 0x38 = false ∧ after (.go 0 0) (up []) (fun t => t.loose = []) := by decide +kernel
def looseBusy : State :=
  { put (R.LOOSE_CTX_STAT.BUSY 0) 1 loosed with loose := [(0, { busy := .op ⟨3, 1⟩ 0 (zeros 16) (List.replicate 4 (zeros 16)) })] }
theorem test_go_overrun : after (.go 0 0) looseBusy (fun t => decide (t.fld (R.LOOSE_CTX_STAT.OVERRUN 0) = 1) && t.loose = looseBusy.loose) := by decide +kernel
/-- AES-128 of zeros under a key of zeros. -/
theorem test_looseDone : looseBusy.heeds ∧ looseBusy.canWork (.loose 0) ∧ (looseBusy.bankOf ⟨3, 1⟩).isSome = true ∧ after (.looseDone 0 {}) looseBusy (fun t =>
    decide (t.fld (R.LOOSE_CTX_OUT.WORD 0 0) = 0x66E94BD4 ∧ t.fld (R.LOOSE_CTX_OUT.WORD 0 3) = 0xCA342B2E ∧ t.fld (R.LOOSE_CTX_STAT.BUSY 0) = 0)) := by
  decide +kernel
theorem test_looseDone_idle : after (.looseDone 0 {}) loosed (fun t => t.loose = []) := by decide +kernel
theorem test_saveClear : loosed.accepts 0 (R.LOOSE_CTX_CMD.OP 0).addr (1 * 2 ^ 28) ∧ after (.saveClear 0 0 {}) loosed (fun t =>
    (match t.out with | [.initWrite _ 0 b, .initWrite _ 64 c] => b ++ c = [0x16, 0xB4, 1, 1, 3, 0, 0, 0, 0, 0, 0, 0, 0, 0, 0xAB, 0xCD] ++ zeros 80 | _ => false)) := by decide +kernel
theorem test_saveClear_private : after (.saveClear 0 0 {}) (put R.LOOSE_CFG.PRIVATE 1 loosed) (fun t =>
    t.out = [] && decide (t.fld (R.LOOSE_CTX_STAT.STATUS 0) = 0x21)) := by decide +kernel
theorem test_saveClear_waits : after (.saveClear 0 0 {}) looseBusy (fun t => (t.looseCtx 0).waiting = some 1) := by decide +kernel
theorem test_saveWrap : loosed.accepts 0 (R.LOOSE_CTX_CMD.OP 0).addr (2 * 2 ^ 28) ∧ loosed.fld (R.LOOSE_CTX_KEY.WSLOT 0) = 0
    ∧ after (.saveWrap 0 0 {}) loosed (fun t => decide (t.fld (R.LOOSE_CTX_STAT.STATUS 0) = 0x20) && t.out = []) := by decide +kernel
/-- A wrap key bound in slot 5, with a value left. -/
def wrapSlot : Slot := { st := .live, type := 2, active := some ⟨zeros 32, 7, 1, 0xFEF10F80, .imported, [], none, 0⟩, bound := .invocation, inv := 1 }
def wraps : State := { put (R.LOOSE_CTX_KEY.WSLOT 0) 5 (put R.FRESH_CEILING.C 9 loosed) with slots := loosed.slots ++ [(5, wrapSlot)], anchor := { leased := true } }
theorem test_saveWrap_seals : wraps.laneCount ≠ 0 ∧ (match wraps.useKey 5 (wrapNeed true) with | .ok _ => true | .error _ => false) = true
    ∧ (wraps.slot 5).bound = .invocation ∧ (wraps.slot 5).inv ≠ 0 ∧ (wraps.slot 5).inv.toNat < wraps.ceiling := by decide +kernel
def looseRecord : Bytes := [0x16, 0xB4, 1, 1, 3, 0, 0, 0, 0, 0, 0, 0, 0, 0, 0xAB, 0xCD] ++ zeros 16 ++ List.replicate 64 9
theorem test_restore : loosed.accepts 0 (R.LOOSE_CTX_CMD.OP 0).addr (3 * 2 ^ 28) ∧ looseFormatOk looseRecord false = true ∧ loosed.looseKeyThere looseRecord = true
    ∧ after (.restore 0 0 ⟨[(0, looseRecord)], []⟩) loosed (fun t => decide (t.fld (R.LOOSE_CTX_STATE.WORD 0 5) = 0x09090909)) := by decide +kernel
theorem test_restore_error : after (.restore 0 0 {}) loosed (fun t => decide (t.fld (R.LOOSE_CTX_STAT.STATUS 0) = 0x40)) := by decide +kernel
theorem test_restore_format : looseFormatOk (zeros 96) false = false
    ∧ after (.restore 0 0 ⟨[(0, zeros 96)], []⟩) loosed (fun t => decide (t.fld (R.LOOSE_CTX_STAT.STATUS 0) = 0x10)) := by decide +kernel
theorem test_restore_key : after (.restore 0 0 ⟨[(0, looseRecord.set 4 5)], []⟩) loosed (fun t => decide (t.fld (R.LOOSE_CTX_STAT.STATUS 0) = 0x24)) := by decide +kernel

/-! ### Factory -/

def onFactory : State := put R.POWER_STAT.DOMAINS_ON 0xFFFF (up [0x34, 0x3E])
theorem test_mbist : onFactory.wf ∧ onFactory.takes 0 U.factory R.FACTORY_CMD.OP.addr (1 * 2 ^ 28 + 0)
    ∧ after (.mbist 0 4) (put R.FACTORY_MBIST_SEL.GROUPS 0x85 onFactory) (fun t =>
      decide (t.fld R.FACTORY_MBIST_RES.FAIL = 4 ∧ t.fld R.FACTORY_MBIST_RES.SKIPPED = 0x80 ∧ t.shows E.FACTORY.MBIST_FAIL)) := by decide +kernel
def fielded : State := put R.KEYS_LC.STATE 2 onFactory
theorem test_mbist_refused : after (.mbist 0 0) fielded (fun t => decide (ended U.factory rcState fielded t ∧ t.shows E.FACTORY.REFUSED)) := by decide +kernel
theorem test_loopScan : onFactory.takes 0 U.factory R.FACTORY_CMD.OP.addr (2 * 2 ^ 28 + 0) ∧ after (.loopScan 0 0x60000) onFactory (fun t =>
    decide (t.fld (R.FACTORY_LOOP_RESULT.MISMATCH 1) = 2 ∧ t.fld (R.FACTORY_LOOP_RESULT.FIRST 1) = 1 ∧ t.fld (R.FACTORY_LOOP_RESULT.ANY 0) = 0)) := by decide +kernel
theorem test_sensorTrip : onFactory.takes 0 U.factory R.FACTORY_CMD.OP.addr (3 * 2 ^ 28 + srcTemp)
    ∧ after (.sensorTrip 0 (BitVec.ofNat 8 srcTemp) true) onFactory (fun t => decide (t.fld R.FACTORY_SENSOR_RESULT.REPORTED = 1 ∧ t.fld R.FACTORY_SENSOR_RESULT.SRC = srcTemp))
    ∧ after (.sensorTrip 0 0xFF true) onFactory (fun t => decide (ended U.factory rcBadEntry onFactory t)) := by decide +kernel
theorem test_fuseKcv : onFactory.takes 0 U.factory R.FACTORY_CMD.OP.addr (4 * 2 ^ 28 + 0)
    ∧ after (.fuseKcv 0) onFactory (fun t => decide (t.fld R.FACTORY_FUSE_KCV.KCV = 0xC6BABFC1)) := by decide +kernel
/-- Beyond BLANK it is refused, where the other tests still run. -/
theorem test_fuseKcv_refused : after (.fuseKcv 0) (put R.KEYS_LC.STATE 1 onFactory) (fun t => decide (t.shows E.FACTORY.REFUSED)) := by decide +kernel

/-! ### Cellar -/

def onCellar : State := put R.POWER_STAT.DOMAINS_ON 0xFFFF (up [4])
def queueEntry : CEntry := { kind := .queue, stamp := ⟨0, 0⟩, order := 0, source := 7 }
def journal9 : State := { onCellar with cellar := { entries := [(9, some queueEntry)], nextOrder := 1, replay := [9] } }
theorem test_cellarRead : journal9.wf ∧ journal9.takes 0 U.cellar R.CELLAR_CMD.OP.addr (2 ^ 28 + 9) ∧ after (.cellarRead 0 9) journal9 (fun t =>
    decide (t.fld (R.CELLAR_ENTRY.WORD 0) = leAt queueEntry.bytes 0 4)) ∧ after (.cellarRead 0 10) journal9 (fun t => decide (t.fld (R.CELLAR_ENTRY.WORD 0) = 0)) := by
  decide +kernel
theorem test_cellarParity : after (.cellarParityError 9 false false) journal9 (fun t => t.inUse.length = 1 && decide (t.shows E.CELLAR.MACRO_GUST)) := by
  decide +kernel
/-- Entry 9 has its copies in macros 1 and 6; with macro 6 fenced already the item is lost. -/
theorem test_cellarParity_lost : macrosOf 9 = (1, 6) ∧ after (.cellarParityError 9 false false) (put R.CELLAR_CFG.GUST_LIMIT 4 (put R.CELLAR_CFG.GUST_WIN_MS 1 (put R.CELLAR_FENCED.MACROS 0x40 journal9))) (fun t =>
    t.inUse.isEmpty && decide (t.fld R.CELLAR_LOST.COUNT = 1 ∧ t.shows E.CELLAR.ITEM_LOST)) := by decide +kernel
theorem test_cellarParity_fenced : after (.cellarParityError 9 true true) journal9 (fun t =>
    decide (t.fld R.CELLAR_FENCED.MACROS = 0x40 ∧ t.shows E.CELLAR.MACRO_FENCED)) := by decide +kernel
theorem test_cellarReplay : journal9.cellar.replay.find? journal9.replayHeld = some 9 ∧ after (.cellarReplay {} {}) journal9 (fun t =>
    (match t.entry 9 with | some c => c.replayed | none => false) && decide (t.fld R.CELLAR_REPLAYS.COUNT = 1)) := by decide +kernel
/-- A write whose input no longer matches. -/
def changedEntry : CEntry := { kind := .storage, stamp := ⟨0, 0⟩, order := 0, input := [1], digest := 1, digestDone := true }
def changed9 : State := { onCellar with cellar := { entries := [(9, some changedEntry)], nextOrder := 1, replay := [9], hd := some (zeros 16) } }
theorem test_cellarReplay_changed : digestOf (zeros 16) [1] ≠ 1 ∧ after (.cellarReplay {} {}) changed9 (fun t =>
    decide (t.fld R.CELLAR_CHANGED.COUNT = 1 ∧ t.shows E.CELLAR.INPUT_CHANGED)) := by decide +kernel
/-- One that needs a lane, with none in service. -/
def laneless : State := { onCellar with cellar := { entries := [(9, some { changedEntry with keys := [some ⟨3, 1⟩] })], nextOrder := 1, replay := [9] } }
theorem test_cellarReplay_waits : laneless.laneCount = 0 ∧ after (.cellarReplay {} {}) laneless (fun t => t.cellar = laneless.cellar) := by decide +kernel
theorem test_cellarReplay_none : onCellar.cellar.replay.find? onCellar.replayHeld = none ∧ after (.cellarReplay {} {}) onCellar (fun t => t.cellar = onCellar.cellar) := by
  decide +kernel

end Sys2Proof.Tests
end

section
/-! The statements of the scope chapter: what every step keeps, the state after reset, and what a write of a register does. -/
namespace Sys2Proof.Machine
open Sys2Proof

/-! ### What every step keeps -/

/-- Every command is a program: it makes primitive changes and does nothing else. -/
theorem exec_eq_exec1 (i : Instr) (s : State) : ∃ m, exec i s = exec1 m s := by
  cases i <;> exact ⟨_, rfl⟩

/-- What a step can do: the command at the front of the queue, a register clock, or the oldest waiting command with its entries
marked HELD. -/
theorem step_cases {s t : State} (h : step s = .next t) :
    (∃ i r, s.pending = i :: r ∧ exec i { s with pending := r } = .next t)
    ∨ t = runM regClock s
    ∨ ∃ i r u, exec i { s with chron := { s.chron with waiting := r, late := true } } = .next u
        ∧ t = { u with chron := { u.chron with late := false } } := by
  unfold step at h
  split at h
  · rename_i i r hp
    exact .inl ⟨i, r, hp, h⟩
  · unfold idle at h
    split at h
    · rw [exec1, Host.Outcome.next.injEq] at h
      exact .inr (.inl h.symm)
    · rename_i i r _
      split at h
      · rename_i u hu
        rw [Host.Outcome.next.injEq] at h
        exact .inr (.inr ⟨i, r, u, hu, h.symm⟩)
      · rename_i hn
        exact absurd h (hn t)

section Keeps
variable {I : State → Prop} (hI : ∀ (p : Prim) (s : State), I s → I (p.run s))
include hI

theorem runM_keeps (m : M Unit) {s : State} (h : I s) : I (runM m s) := by
  rw [runM]
  induction (m s []).2 with
  | nil => exact h
  | cons p l ih => exact hI p _ ih

theorem exec_keeps {i : Instr} {s t : State} (ht : exec i s = .next t) (h : I s) : I t := by
  obtain ⟨m, hm⟩ := exec_eq_exec1 i s
  rw [hm, exec1, Host.Outcome.next.injEq] at ht
  exact ht ▸ runM_keeps hI m h

end Keeps

/-- Settles O4: every step is a list of primitive changes (`step_cases`, `exec_eq_exec1`), each of which keeps the form
(`Prim.run_wf`); the queue and the marks of the chronicle, which a step sets besides, are in no map of the form. -/
theorem stepKeepsForm : Obligations.StepKeepsForm := by
  intro s t hs ht
  obtain ⟨i, r, -, he⟩ | rfl | ⟨i, r, u, he, rfl⟩ := step_cases ht
  · exact exec_keeps Prim.run_wf he hs
  · exact runM_keeps Prim.run_wf regClock hs
  · have hu : u.wf := exec_keeps Prim.run_wf he hs
    exact hu

/-! ### The state after reset -/

/-- After reset every register word is its reset word (R9). -/
theorem regWord_reset (a : Nat) : regWord State.reset.regs a = resetWord a := rfl

/-- The first word of a carried page: its type, its number among the pages of the type, and layout version 0x01 (R76). -/
theorem view_reset_id {p : Nat} {d : PageSpec} (h : pageSpec p = some d) :
    State.reset.view (0x1000 * p) = BitVec.ofNat 32 (d.type * 2 ^ 16 + d.inst * 2 ^ 8 + 1) := by
  have hp : 0x1000 * p / 0x1000 = p := by omega
  have ho : 0x1000 * p % 0x1000 = 0 := by omega
  simp [State.view, regWord_reset, resetWord, headerReset, carried, hp, ho, h]

/-- PG_STAT, PG_EVT_RAW and PG_EVT_EN of the 64 pages (R77, R84). -/
theorem header_reset : ∀ p < 64, State.reset.pageState p = (if p ≤ 1 then pgActive else pgOff)
    ∧ State.reset.sealed p = decide (p = 0) ∧ State.reset.fld (R.PG_EVT_RAW.EVT p) = 0
    ∧ State.reset.fld (R.PG_EVT_EN.EVT p) = (pageEvents p).always := by
  decide +kernel

theorem reset_wf : State.reset.wf := by
  simp [State.wf, State.reset]

/-- Settles O5: the register file is empty, so that each word reads as its reset word, and so is every other map. -/
theorem resetState : Obligations.ResetState := by
  refine ⟨reset_wf, rfl, regWord_reset, fun p _ d h => view_reset_id h, header_reset, fun n => rfl, fun n => rfl, fun e => rfl,
    fun loc => rfl, fun h => rfl, fun n => rfl, rfl, rfl, ?_, ?_, ?_⟩
  all_goals decide +kernel

/-! ### Writes of registers -/

/-- LOOSE is ACTIVE, and context 0 holds a write back that names the page's own PG_WRCOUNT at 0x38020. No write of the host is held
back there (R471 names registers of the contexts alone), but State lists the held writes by address, and the form bounds no address. -/
def heldHeaderWrite : State :=
  { State.reset with regs := [(0x300C, 1), (0x3800C, 1)], loose := [(0, { writes := [(0x38020, 7)] })] }

/-- LOOSE_CTX_GO.GO of context 0 written 1. -/
def goWrite : HostWr := ⟨0, 0xF, 0x3810C, 1⟩

/-- With no lane in service the GO ends at once, and its end carries out the write held back (R471): the count is 7. -/
theorem wrCount_goWrite :
    (runM (registerWrite goWrite ⟨{}, {}, 0, []⟩) heldHeaderWrite).fld (R.PG_WRCOUNT.COUNT 0x38) = 7 := by
  decide +kernel

/-- Refutes O11 in its first clause, that EVERY accepted write from EVERY state in form increments PG_WRCOUNT: the effect of the write can
end a Loose operation, which stores what the context holds back at the address that stands in the state, here over PG_WRCOUNT after it
has been incremented. The count was 0 and becomes 7. -/
theorem not_writesAndReads : ¬ Obligations.WritesAndReads := by
  intro h
  have wf : heldHeaderWrite.wf := by decide +kernel
  have accepted : heldHeaderWrite.accepts 0 0x3810C 1 := by decide +kernel
  have before : heldHeaderWrite.fld (R.PG_WRCOUNT.COUNT 0x38) = 0 := by decide +kernel
  obtain ⟨t, ht, count, -⟩ := (h heldHeaderWrite 0 wf).1 0x3810C 1 {} {} 0 [] accepted
  have after : runM (registerWrite goWrite ⟨{}, {}, 0, []⟩) heldHeaderWrite = t := Host.Outcome.next.inj ht
  have seven : t.fld (R.PG_WRCOUNT.COUNT 0x38) = 7 := after ▸ wrCount_goWrite
  have one : t.fld (R.PG_WRCOUNT.COUNT 0x38) = (heldHeaderWrite.fld (R.PG_WRCOUNT.COUNT 0x38) + 1) % 2 ^ 32 := count
  rw [seven, before] at one
  exact absurd one (by decide)

end Sys2Proof.Machine
end

section
/-! The statements of the block and its boundary: what a step with an empty queue and a run without end do, and the statements that held
register writes and stale scheduler items refute. -/
namespace Sys2Proof.Machine
open Sys2Proof

/-! ### Steps and runs -/

/-- Settles O1: it is the first branch of `step`. -/
theorem stepTakesFront : Obligations.StepTakesFront := fun _ _ _ => rfl

theorem exec_next (i : Instr) (s : State) : ∃ t, exec i s = .next t := by
  obtain ⟨m, hm⟩ := exec_eq_exec1 i s
  exact ⟨runM m s, hm⟩

/-- No primitive change touches the queue. -/
theorem exec_pending {i : Instr} {s t : State} (h : exec i s = .next t) : t.pending = s.pending :=
  exec_keeps (I := fun u => u.pending = s.pending) (fun p u hu => (p.run_pending u).trans hu) h rfl

/-- The oldest waiting command is carried out by `exec` too. -/
theorem idle_next (s : State) : ∃ t, idle s = .next t := by
  unfold idle
  split
  · exact ⟨_, rfl⟩
  · rename_i i r _
    obtain ⟨t, ht⟩ := exec_next i { s with chron := { s.chron with waiting := r, late := true } }
    exact ⟨_, by rw [ht]⟩

theorem step_next (s : State) : ∃ t, step s = .next t := by
  unfold step
  split
  · exact exec_next _ _
  · exact idle_next s

/-- Every state is safe: each step of a run answers a next state. -/
theorem State.safe_all (s : State) : s.safe := by
  intro n
  induction n generalizing s with
  | zero => rfl
  | succ n ih =>
    obtain ⟨t, ht⟩ := step_next s
    simpa [runSteps, ht] using ih t

/-- Settles O3: a command is a list of primitive changes, none of which touches the queue. -/
theorem nothingStops : Obligations.NothingStops := by
  refine ⟨fun c s => ?_, State.safe_all⟩
  obtain ⟨t, ht⟩ := exec_next c s
  exact ⟨t, ht, exec_pending ht⟩

/-! ### What a held write of a Loose operation refutes

State lists the writes that a Loose operation holds back by address, and the form (`State.wf`) bounds no address, so a write of any
register can stand there, as `heldHeaderWrite` shows. A command that ends the operation carries it out. The obligations below bound the
words that a command changes from EVERY state in form, and the states here hold back a write outside the bound. -/

/-- The state that a command leaves. -/
def State.after (s : State) (i : Instr) : State :=
  match exec i s with
  | .next t => t
  | _ => s

theorem eq_after {i : Instr} {s t : State} (h : exec i s = .next t) : t = s.after i := by
  rw [State.after, h]

/-- Context 0 runs an operation under generation 1 of slot 0 and holds back the write of `w` to the register at `a`. -/
def heldBack (a : Nat) (w : Word) : SMap LooseCtx := [(0, { busy := .op ⟨0, 1⟩ 0 [] [], writes := [(a, w)] })]

/-- A word outside the bound that has changed. -/
theorem not_wordsBut {f : Nat → Bool} {i : Instr} {s t : State} (a : Nat) (ht : exec i s = .next t) (out : f a = false)
    (lands : regWord (s.after i).regs a ≠ regWord s.regs a) : ¬ WordsBut f s t := by
  intro words
  rw [← eq_after ht] at lands
  exact lands (words a out)

/-- A start-up in which an event of source `src` has grade 1, and TIME_RC.RATIO is held back. An event of that grade during start-up
enters GROUNDED, which aborts the operation. -/
def startingUp (src : Nat) : State :=
  { State.reset with
    regs := setFieldVal (setFieldVal [] R.TAMPER_STAT.STARTUP 1) (R.TAMPER_SRC_CFG.EVENT_GRADE src) 1
    bnd := { phase := .run }
    loose := heldBack R.TIME_RC.RATIO.addr 1 }

/-- Refutes O15 in its first clause, that TAMPER_EVENT changes no word outside the pages listed: source 0x13 during start-up enters
GROUNDED, and the operation's end writes TIME_RC. -/
theorem not_tamperSupervisor : ¬ Obligations.TamperSupervisor := by
  intro h
  have wf : (startingUp srcModule).wf := by decide +kernel
  obtain ⟨t, ht, ⟨-, words⟩, -⟩ := (h (startingUp srcModule) 0 wf).1 0x13 0 rfl rfl (.inl (by decide +kernel))
  exact not_wordsBut R.TIME_RC.RATIO.addr ht (by decide +kernel) (by decide +kernel) words

/-- The same with a debugger that has not been authenticated. -/
def debuggedStart : State := { startingUp srcDebug with bnd := { phase := .run, dbgActive := true } }

/-- Refutes O16 in its clause of FUSE_VALID: the life-cycle word of FIELD makes the debugger an event, and the part enters GROUNDED. -/
theorem not_startUp : ¬ Obligations.StartUp := by
  intro h
  have wf : debuggedStart.wf := by decide +kernel
  obtain ⟨t, ht, ⟨-, words⟩, -⟩ := (h debuggedStart wf).2.2.1 0 0x00030303 0 rfl rfl
  exact not_wordsBut R.TIME_RC.RATIO.addr ht (by decide +kernel) (by decide +kernel) words

/-- The same with a challenge of input 0 under way. -/
def challenged : State :=
  { startingUp srcModule with
    regs := setFieldVal (startingUp srcModule).regs (R.MODID_IN_STAT.STATE 0) miChallenging
    modules := [(0, { nonce := some [] })] }

/-- Refutes O43 in its clause of CHAL_TIMEOUT: the failure of the module is a tamper event of source 0x13. -/
theorem not_moduleCommands : ¬ Obligations.ModuleCommands := by
  intro h
  have wf : challenged.wf := by decide +kernel
  obtain ⟨t, ht, ⟨-, words⟩, -⟩ := (h challenged 0 wf).2.2.2.2.1 0 (by decide +kernel)
  exact not_wordsBut R.TIME_RC.RATIO.addr ht (by decide +kernel) (by decide +kernel) words

/-- A warm reset has ended with a park image of the keys held, and the write held back is of TAMPER_STAT. -/
def parkedReset : State :=
  { startingUp srcInteg with
    regs := setFieldVal (startingUp srcInteg).regs R.KEYS_PARK_EPOCH.EPOCH 1
    bnd := { phase := .resetDone }
    keys := { markA := true, fuseHeld := true, park := some ⟨1, [], []⟩ }
    loose := heldBack R.TAMPER_STAT.STARTUP.addr 0 }

/-- A release whose park image fails in its header. -/
def badHeader : WarmStart := { images := { header := some false } }

/-- Refutes O17 in its clause that OT_RESET_RELEASE leaves STARTUP set: the image's failure is an event of the integrity source, which
enters GROUNDED, and the operation's end clears the word that holds STARTUP. -/
theorem not_resets : ¬ Obligations.Resets := by
  intro h
  have wf : parkedReset.wf := by decide +kernel
  obtain ⟨-, -, release, -⟩ := h parkedReset wf
  obtain ⟨t, ht, -, startup, -⟩ := (release badHeader).2 rfl
  have cleared : (parkedReset.after (.otResetRelease badHeader)).fld R.TAMPER_STAT.STARTUP = 0 := by decide +kernel
  rw [← eq_after ht, startup] at cleared
  exact absurd cleared (by decide)

/-- KEYS and CHRON are ACTIVE, and slot 0 holds a LIVE key, under which the operation runs. -/
def liveKey : State :=
  { State.reset with
    regs := setFieldVal (setFieldVal [] (R.PG_STAT.STATE 3) pgActive) (R.PG_STAT.STATE 0x34) pgActive
    slots := [(0, { st := .live, active := some ⟨[], 0, 1, 0, .imported, [], none, 0⟩ })]
    loose := heldBack R.TIME_RC.RATIO.addr 1 }

/-- Refutes O37 in its clause of LC_TRANSITION: the transition from state 0 to state 1 erases the key, and the operation under it ends. -/
theorem not_lifeCycle : ¬ Obligations.LifeCycle := by
  intro h
  have wf : liveKey.wf := by decide +kernel
  obtain ⟨t, ht, -, words, -⟩ := h.1 liveKey 0 1 wf (by decide +kernel)
  exact not_wordsBut R.TIME_RC.RATIO.addr ht (by decide +kernel) (by decide +kernel) words

/-! ### What a stale scheduler item refutes

The form does not tie the scheduler's items to the work that is accepted either, so an item can stand there twice, or for an entry that is
free. -/

/-- OT_CLK_CORE runs, and the item of a Loose operation stands twice: on lane 1, whence it came from lane 0, and waiting for a lane. -/
def movedItem : State :=
  let item : LaneItem := { owner := .loose 0, order := 0, cls := 7, tenant := 0, weight := 1, tagged := false, link := none, blocks := 1 }
  { State.reset with
    power := { ack := [.core] }
    loose := heldBack 0 0
    sched := { items := [{ item with lane := some 1, was := some 0 }, item] } }

/-- The clock counts a replay in LANE_REPLAYS. -/
theorem replays_movedItem : (runM regClock movedItem).fld (R.LANE_REPLAYS.COUNT 0) = 1 := by decide +kernel

/-- Refutes O2 in its clause that a clock with no lane in service or at work changes no register: it was 0 and becomes 1. -/
theorem not_idleStep : ¬ Obligations.IdleStep := by
  intro h
  have wf : movedItem.wf := by decide +kernel
  obtain ⟨t, ht, -, -, -, rest⟩ := (h movedItem wf rfl).1 (by decide +kernel)
  obtain ⟨same, -⟩ := rest rfl (.inr (by decide +kernel))
  have regs : movedItem.regs = t.regs := same .regs (by decide)
  have after : runM regClock movedItem = t := Host.Outcome.next.inj ht
  have count : t.fld (R.LANE_REPLAYS.COUNT 0) = 1 := after ▸ replays_movedItem
  rw [State.fld, ← regs] at count
  exact absurd count (by decide +kernel)

/-- Region 0 is ACTIVE in mode CLEAR, and an item stands among the scheduler's whose entry, 0, is free. -/
def staleItem : State :=
  { State.reset with
    regs := setFieldVal (setFieldVal [] (R.MEMRGN_CTL.STATE 0) pgActive) (R.MEMRGN_SIZE.UNITS 0) 1
    bnd := { phase := .run }
    sched := { items := [{ owner := .entry 0, order := 0, cls := 2, tenant := 0, weight := 1, tagged := false, link := none, blocks := 0 }] } }

/-- A write of line 0, which region 0 serves. -/
def lineWrite : Instr := .memWriteRequest 0 true 0 0 0 (zeros 64) (BitVec.allOnes 64) {}
def lineTxn : MemTxn :=
  { addr := 0, two := true, tid := 0, rid := 0, attr := 0, isWrite := true, data := (placeData 0 true (zeros 64) (BitVec.allOnes 64)).1,
    strb := (placeData 0 true (zeros 64) (BitVec.allOnes 64)).2 }

/-- The journal gives the write entry 0, and the stale item holds the line back. -/
theorem staleItem_silent : (staleItem.after lineWrite).out = [] := by decide +kernel

theorem staleItem_takes : staleItem.shut = false ∧ staleItem.memOn = true ∧ staleItem.mem.txns.length < 256 ∧ lineTxn.aligned = true
    ∧ (if staleItem.parkAt lineTxn.addr = true then some 0 else staleItem.metaAt lineTxn.addr) = none
    ∧ staleItem.badAt lineTxn.addr = false ∧ staleItem.servedAt lineTxn.addr = some 0 := by decide +kernel

/-- Entries 0 and 1 are free. -/
theorem staleItem_free : staleItem.cellarFault = false ∧ staleItem.usedOf .memory + 2 ≤ 512 ∧ ∃ e f : Fin 2048, e ≠ f
    ∧ staleItem.entry e = none ∧ staleItem.entry f = none ∧ staleItem.withdrawn e = false ∧ staleItem.withdrawn f = false
    ∧ ∀ k ∈ staleItem.cellar.replay, (staleItem.entry k).isSome = true := by
  have fault : staleItem.cellarFault = false ∧ staleItem.usedOf .memory + 2 ≤ 512 := by decide +kernel
  have entries : staleItem.entry 0 = none ∧ staleItem.entry 1 = none ∧ staleItem.withdrawn 0 = false ∧ staleItem.withdrawn 1 = false := by
    decide +kernel
  obtain ⟨e0, e1, w0, w1⟩ := entries
  exact ⟨fault.1, fault.2, 0, 1, by decide, e0, e1, w0, w1, fun k hk => absurd hk List.not_mem_nil⟩

/-- The region is at rest, neither poisoned nor in a pass, and the write is within its right. -/
theorem staleItem_serves : staleItem.rgnState 0 = pgActive ∧ staleItem.fld (R.MEMRGN_CTL.INIT 0) = 0
    ∧ staleItem.lineHeld 0 lineTxn.line = false ∧ staleItem.right 0 { lineTxn with region := some 0 } = 3
    ∧ staleItem.fld (R.MEMRGN_CTL.POISONED 0) = 0 ∧ staleItem.fld (R.MEMRGN_CTL.RESTING 0) = 0 ∧ staleItem.passOf 0 = none
    ∧ (staleItem.regionCfg 0).mode = mdClear ∧ staleItem.writeHeld (staleItem.regionCfg 0).mode = false
    ∧ staleItem.sideKeys (staleItem.oldSide 0) = some (none, none) := by decide +kernel

/-- Refutes O50 in its clause that an accepted write to a CLEAR region goes downstream, lanes or none: the clause does not ask that the
scheduler hold nothing, as those of the encrypting modes do, and the write waits for the stale item. -/
theorem not_memRequests : ¬ Obligations.MemRequests := by
  intro h
  have wf : staleItem.wf := by decide +kernel
  obtain ⟨t, ht, -, -, -, -, request⟩ := h staleItem {} lineWrite lineTxn wf ⟨0, true, 0, 0, 0, .inr ⟨zeros 64, BitVec.allOnes 64, rfl, rfl⟩⟩
  obtain ⟨shut, on, room, aligned, hidden, bad, served⟩ := staleItem_takes
  obtain ⟨active, init, line, right, poisoned, resting, pass, clear, held, keys⟩ := staleItem_serves
  have request := request ⟨shut, on, room⟩ aligned
  rw [hidden] at request
  have request := request.2 bad
  rw [served] at request
  obtain ⟨-, -, -, request⟩ := request.2 active init line
  have within : ¬ (staleItem.right 0 { lineTxn with region := some 0 } = 0
      ∨ (lineTxn.isWrite = true ∧ staleItem.right 0 { lineTxn with region := some 0 } < 3)) := by simp [right]
  obtain ⟨-, request⟩ := request within poisoned (fun _ => resting) pass
  have plain := ((request (.inl clear) staleItem_free).2 (fun _ => held) rfl).2 (by simp [right])
  rw [keys] at plain
  have sent := plain.2.2.1 rfl clear
  have silent := staleItem_silent
  rw [← eq_after ht, sent] at silent
  exact absurd silent (by decide +kernel)
end Sys2Proof.Machine
end

section
/-! Rules for what a program keeps and where it leads, and what recording an event does. -/
namespace Sys2Proof.Machine
open Sys2Proof

variable {α β : Type}

/-! ### Where a program leads -/

/-- From a state with `P` the program leads to an answer and a state with `Q`. -/
def Leads (P : State → Prop) (m : M α) (Q : α → State → Prop) : Prop :=
  ∀ s l, P (runAll l s) → Q (m s l).1 (runAll (m s l).2 s)

/-- The program keeps `I`. -/
abbrev Keeps (I : State → Prop) (m : M α) : Prop := Leads I m fun _ => I

section Leads
variable {P : State → Prop} {Q : α → State → Prop} {R : β → State → Prop}

theorem leads_pure {a : α} (h : ∀ t, P t → Q a t) : Leads P (pure a : M α) Q := fun _ _ => h _

theorem leads_bind {m : M β} {k : β → M α} (hm : Leads P m R) (hk : ∀ b, Leads (R b) (k b) Q) : Leads P (m >>= k) Q :=
  fun s l h => hk _ s _ (hm s l h)

/-- A read answers the current state. -/
theorem leads_getS {k : State → M α} (h : ∀ s, Leads (fun t => t = s ∧ P t) (k s) Q) : Leads P (getS >>= k) Q :=
  fun s l hp => h (runAll l s) s l ⟨rfl, hp⟩

theorem leads_prim {p : Prim} {Q : Unit → State → Prop} (h : ∀ t, P t → Q () (p.run t)) : Leads P (prim p) Q := fun _ _ => h _

theorem leads_ite {c : Prop} [Decidable c] {m n : M α} (hm : c → Leads P m Q) (hn : ¬ c → Leads P n Q) :
    Leads P (if c then m else n) Q := by
  split
  · exact hm ‹_›
  · exact hn ‹_›

theorem Leads.mono {m : M α} {P' : State → Prop} {Q' : α → State → Prop} (h : Leads P m Q) (hp : ∀ t, P' t → P t)
    (hq : ∀ a t, Q a t → Q' a t) : Leads P' m Q' := fun s l hs => hq _ _ (h s l (hp _ hs))

/-- What a command's program leads to, from the state it starts in. -/
theorem Leads.runM {m : M Unit} {Q : Unit → State → Prop} (h : Leads P m Q) {s : State} (hs : P s) : Q () (runM m s) := h s [] hs

end Leads

section Keeps
variable {I J : State → Prop}

theorem keeps_pure (a : α) : Keeps I (pure a : M α) := fun _ _ h => h

theorem keeps_getS : Keeps I getS := fun _ _ h => h

theorem keeps_rd (x : RegField) : Keeps I (rd x) := fun _ _ h => h

theorem keeps_bind {m : M β} {k : β → M α} (hm : Keeps I m) (hk : ∀ b, Keeps I (k b)) : Keeps I (m >>= k) := leads_bind hm hk

theorem keeps_ite {c : Prop} [Decidable c] {m n : M α} (hm : Keeps I m) (hn : Keeps I n) : Keeps I (if c then m else n) :=
  leads_ite (fun _ => hm) fun _ => hn

theorem keeps_forM {γ : Type} (xs : List γ) {k : γ → M Unit} (h : ∀ x, Keeps I (k x)) : Keeps I (forM xs k) := by
  induction xs with
  | nil => exact keeps_pure ()
  | cons x xs ih => exact keeps_bind (h x) fun _ => ih

theorem keeps_prim {p : Prim} (h : ∀ t, I t → I (p.run t)) : Keeps I (prim p) := leads_prim h

/-- What a footprint's changes keep. -/
theorem Foot.keeps {P : Prim → Prop} {m : M α} (h : Foot P m) (hI : ∀ p t, P p → I t → I (p.run t)) : Keeps I m :=
  fun s l => foot_keeps h hI s l

theorem keeps_wr {x : RegField} (v : Nat) (h : ∀ a w t, I t → I ((Prim.reg a w).run t)) : Keeps I (wr x v) :=
  Foot.keeps (P := fun p => ∃ a w, p = .reg a w) (foot_wr _ x v fun a w _ => ⟨a, w, rfl⟩) (by rintro _ t ⟨a, w, rfl⟩ ht; exact h a w t ht)

end Keeps

/-! ### Recording -/

/-- The changes that recording an event is made of: a register word, a stamp drawn, an entry on its way to its sink or held, and an
event counted. -/
inductive Records : State → State → Prop
  | reg (a : Nat) (w : Word) (t : State) : Records t ((Prim.reg a w).run t)
  | stamp (t : State) : Records t ((Prim.time { t.time with seq := t.time.seq + 1 }).run t)
  | hold (w : WriterEntry) (t : State) : Records t ((Prim.chron { t.chron with hold := t.chron.hold ++ [w] }).run t)
  | write (w : WriterEntry) (t : State) : Records t ((Prim.chron { t.chron with writer := t.chron.writer ++ [w] }).run t)
  | count (k : Nat) (c : EventCount) (t : State) : Records t ((Prim.counted k (some c)).run t)

section Recording
variable {I : State → Prop} (hI : ∀ t u, Records t u → I t → I u)
include hI

theorem keeps_recorder_wr (x : RegField) (v : Nat) : Keeps I (wr x v) := keeps_wr v fun a w t => hI _ _ (.reg a w t)

theorem keeps_bump (x : RegField) : Keeps I (bump x) :=
  keeps_bind (keeps_rd x) fun _ => keeps_ite (keeps_recorder_wr hI x _) (keeps_pure _)

theorem keeps_wrBit (x : RegField) (i : Nat) (b : Bool) : Keeps I (wrBit x i b) := keeps_bind (keeps_rd x) fun _ => keeps_recorder_wr hI x _

theorem keeps_stamp : Keeps I stamp := by
  refine leads_getS fun s => leads_bind (R := fun _ => I) (leads_prim ?_) fun _ => keeps_pure _
  rintro t ⟨rfl, ht⟩
  exact hI _ _ (.stamp t) ht

theorem keeps_setEvent (e : PageEvent) : Keeps I (setEvent e) :=
  keeps_bind (keeps_rd _) fun _ => keeps_ite (keeps_pure _)
    (keeps_bind (keeps_recorder_wr hI _ _) fun _ => keeps_bind (keeps_wrBit hI _ _ _) fun _ => keeps_pure _)

theorem keeps_placeHeld (w : WriterEntry) : Keeps I (placeHeld w) := by
  refine leads_getS fun s => leads_ite (fun _ => ?_) fun _ => leads_ite (fun _ => ?_) fun _ => leads_ite (fun _ => ?_) fun _ => ?_
  · refine leads_bind (R := fun _ => I) (leads_prim ?_) fun _ => keeps_pure _
    rintro t ⟨rfl, ht⟩
    exact hI _ _ (.hold _ t) ht
  · refine leads_bind (R := fun _ => I) (leads_prim ?_) fun _ => keeps_pure _
    rintro t ⟨rfl, ht⟩
    exact hI _ _ (.write _ t) ht
  · exact leads_pure fun t ht => ht.2
  · refine leads_bind (R := fun _ => I) (leads_prim fun t ht => hI _ _ (.count _ _ t) ht.2) fun _ => ?_
    exact keeps_bind (keeps_bump hI _) fun _ => keeps_pure _

theorem keeps_placeEntry (w : WriterEntry) : Keeps I (placeEntry w) := by
  refine leads_getS fun s => leads_ite (fun _ => (keeps_placeHeld hI w).mono (fun t ht => ht.2) fun _ _ h => h) fun _ => ?_
  refine leads_bind (R := fun _ => I) (leads_prim ?_) fun _ => keeps_pure _
  rintro t ⟨rfl, ht⟩
  exact hI _ _ (.write _ t) ht

theorem keeps_placeAll (l : List WriterEntry) : Keeps I (placeAll l) := by
  induction l with
  | nil => exact keeps_pure _
  | cons w l ih => exact keeps_bind (keeps_placeEntry hI w) fun _ => keeps_bind ih fun _ => keeps_pure _

theorem keeps_raiseDeferred : Keeps I raiseDeferred :=
  keeps_bind (keeps_setEvent hI _) fun _ => keeps_bind (keeps_stamp hI) fun _ => keeps_bind (keeps_rd _) fun _ =>
    keeps_bind (keeps_placeAll hI _) fun _ => keeps_pure _

theorem keeps_raiseItem (st : Stamp) (page : Nat) (req code : BitVec 16) (l : List (BitVec 96)) (c : EntryClass) (audit : Bool) :
    Keeps I (raiseItem st page req code l c audit) :=
  keeps_bind keeps_getS fun _ => keeps_bind (keeps_placeAll hI _) fun _ => keeps_ite (keeps_raiseDeferred hI) (keeps_pure _)

theorem keeps_pageEntry (page : Nat) (code : BitVec 16) (l : List (BitVec 96)) (c : EntryClass) : Keeps I (pageEntry page code l c) :=
  keeps_bind (keeps_stamp hI) fun _ => keeps_raiseItem hI _ _ _ _ _ _ _

theorem keeps_auditEntry (page : Nat) (code : BitVec 16) (l : List (BitVec 96)) (c : EntryClass) : Keeps I (auditEntry page code l c) :=
  keeps_bind (keeps_stamp hI) fun _ => keeps_raiseItem hI _ _ _ _ _ _ _

theorem keeps_raise (e : PageEvent) (c : EntryClass) : Keeps I (raise e c) :=
  keeps_bind (keeps_setEvent hI e) fun _ => keeps_bind (keeps_rd _) fun _ => keeps_pageEntry hI _ _ _ _

theorem keeps_setCond (e : PageEvent) (b : Bool) (c : EntryClass) : Keeps I (setCond e b c) :=
  keeps_ite (keeps_bind (keeps_setEvent hI e) fun _ => keeps_ite (keeps_bind (keeps_rd _) fun _ => keeps_pageEntry hI _ _ _ _) (keeps_pure _))
    (keeps_wrBit hI _ _ _)

end Recording

/-- What has been recorded stays so. -/
theorem Records.recorded {page : Nat} {code : BitVec 16} {payload : BitVec 96} {t u : State} (h : Records t u)
    (r : recorded page code payload t) : recorded page code payload u := by
  cases h with
  | reg | stamp => exact r
  | hold w =>
    refine r.imp_left ?_
    rintro ⟨v, hv, h⟩
    exact ⟨v, by simpa [or_assoc] using Or.inl (List.mem_append.1 hv), h⟩
  | write w =>
    refine r.imp_left ?_
    rintro ⟨v, hv, h⟩
    exact ⟨v, by rcases List.mem_append.1 hv with hv | hv <;> simp [hv], h⟩
  | count k c =>
    refine r.imp_right fun hc => ?_
    by_cases hk : code.toNat = k
    · simp [Prim.run_counted, hk, mget_mset_same]
    · simpa [Prim.run_counted, mget_mset_other _ _ _ _ _ hk] using hc

/-- Recording does not move the time base. -/
theorem Records.now {t u : State} (h : Records t u) : u.now = t.now := by cases h <;> rfl

/-- An entry, once placed, is recorded. -/
theorem placeEntry_recorded (w : WriterEntry) (page : Nat) (hw : w.entry.cont = false) (hp : w.entry.page = BitVec.ofNat 8 page) :
    Leads (fun _ => True) (placeEntry w) fun _ => recorded page w.entry.code w.entry.payload := by
  let R (_ : Unit) : State → Prop := recorded page w.entry.code w.entry.payload
  have held : Leads (fun _ => True) (placeHeld w) fun _ => recorded page w.entry.code w.entry.payload := by
    refine leads_getS fun u => leads_ite (fun _ => ?_) fun _ => leads_ite (fun _ => ?_) fun _ =>
      leads_ite (fun h => absurd h (by simp [hw])) fun _ => ?_
    · exact leads_bind (R := R) (leads_prim fun t _ => .inl ⟨{ w with entry := { w.entry with held := true } }, by simp, rfl, hp, rfl⟩)
        fun _ => keeps_pure _
    · exact leads_bind (R := R) (leads_prim fun t _ => .inl ⟨w, by simp, rfl, hp, rfl⟩) fun _ => keeps_pure _
    · refine leads_bind (R := R) (leads_prim fun t _ => .inr (by simp [Prim.run_counted, mget_mset_same])) fun _ => ?_
      exact keeps_bind (keeps_bump (fun _ _ => Records.recorded) _) fun _ => keeps_pure _
  refine leads_getS fun s => leads_ite (fun _ => held.mono (fun _ _ => trivial) fun _ _ h => h) fun _ => ?_
  exact leads_bind (R := R) (leads_prim fun t _ => .inl ⟨w, by simp, rfl, hp, rfl⟩) fun _ => keeps_pure _

/-- An item of one entry is recorded. -/
theorem raiseItem_recorded (st : Stamp) (page : Nat) (req code : BitVec 16) (x : BitVec 96) (c : EntryClass) (audit : Bool) :
    Leads (fun _ => True) (raiseItem st page req code [x] c audit) fun _ t => recorded page code x t := by
  have keep {u v : State} (h : Records u v) : recorded page code x u → recorded page code x v := h.recorded
  refine leads_getS fun s => leads_bind (R := fun _ => recorded page code x) ?_ fun _ =>
    keeps_ite (keeps_raiseDeferred fun _ _ => keep) (keeps_pure _)
  refine leads_bind (R := fun _ => recorded page code x) ?_ fun _ => keeps_bind (keeps_pure _) fun _ => keeps_pure _
  exact (placeEntry_recorded _ page (by simp) rfl).mono (fun _ _ => trivial) fun _ _ h => h

theorem auditEntry_recorded (page : Nat) (code : BitVec 16) (x : BitVec 96) (c : EntryClass) :
    Leads (fun _ => True) (auditEntry page code [x] c) fun _ t => recorded page code x t :=
  leads_bind (R := fun _ _ => True) (fun _ _ _ => trivial) fun _ => raiseItem_recorded _ _ _ _ _ _ _

/-- A unit alarm of grade 0 is its entry alone. -/
theorem unitAlarm_recorded (page : Nat) :
    Leads (fun _ => True) (unitAlarm page 0) fun _ t => recorded page 0x0020 (alarmPayload 0 0 0 false page) t :=
  leads_bind (auditEntry_recorded _ _ _ _) fun _ => leads_pure fun _ h => h

end Sys2Proof.Machine
end

section
/-! What programs leave in the register fields. -/
namespace Sys2Proof.Machine
open Sys2Proof

variable {α β : Type} {ps : List Piece} {f : Nat → Bool}

/-! ### Programs -/

theorem M.ite_apply {c : Prop} [Decidable c] (m n : M α) (s : State) (l : List Prim) :
    (if c then m else n) s l = if c then m s l else n s l := by split <;> rfl

/-- A read hands on the field's value, and the state the current state. -/
theorem rd_bind (x : RegField) (k : Nat → M α) (s : State) (l : List Prim) : (rd x >>= k) s l = k ((runAll l s).fld x) s l := rfl

theorem getS_bind (k : State → M α) (s : State) (l : List Prim) : (getS >>= k) s l = k (runAll l s) s l := rfl

/-- A piece outside the footprint is as it was. -/
theorem Within.same {m : M α} (h : Within ps f m) (q : Piece) (hq : q ∉ ps) (s : State) (l : List Prim) :
    q.same (runAll l s) (runAll (m s l).2 s) :=
  foot_keeps h (I := fun t => q.same (runAll l s) t) (fun p t hp ht => Piece.same_trans ht (p.same q (fun hm => hq (hp.1 q hm)) t)) s l
    (q.same_refl _)

/-! ### Fields -/

/-- Two fields lie in different words, or in different bits of one word. -/
abbrev RegField.Apart (x y : RegField) : Prop :=
  x.addr + 4 * (x.hi / 32) < y.addr ∨ y.addr + 4 * (y.hi / 32) < x.addr
    ∨ (y.addr = x.addr ∧ x.lo ≤ x.hi ∧ x.hi < 32 ∧ y.hi < 32 ∧ y.lo ≤ y.hi ∧ (x.hi < y.lo ∨ y.hi < x.lo))

/-- No word of the field is one that `f` picks. -/
abbrev RegField.Clear (f : Nat → Bool) (y : RegField) : Prop :=
  f y.addr = false ∧ (32 ≤ y.hi → f (y.addr + 4) = false) ∧ (64 ≤ y.hi → f (y.addr + 8) = false)

/-- A field is a function of its words. -/
theorem fieldVal_congr {r q : RegFile} {y : RegField} (h0 : regWord r y.addr = regWord q y.addr)
    (h4 : 32 ≤ y.hi → regWord r (y.addr + 4) = regWord q (y.addr + 4)) (h8 : 64 ≤ y.hi → regWord r (y.addr + 8) = regWord q (y.addr + 8)) :
    fieldVal r y = fieldVal q y := by
  unfold fieldVal
  rw [h0]
  split
  · rfl
  · rw [h4 (by omega)]
    split
    · rfl
    · rw [h8 (by omega)]

theorem WordsBut.fld {s t : State} (h : WordsBut f s t) {y : RegField} (hy : y.Clear f) : t.fld y = s.fld y :=
  fieldVal_congr (h _ hy.1) (fun hi => h _ (hy.2.1 hi)) fun hi => h _ (hy.2.2 hi)

/-- A field clear of a program's footprint keeps its value. -/
theorem Within.fld_clear {m : M α} (h : Within ps f m) {y : RegField} (hy : y.Clear f) (s : State) (l : List Prim) :
    (runAll (m s l).2 s).fld y = (runAll l s).fld y := by
  have word (a : Nat) (ha : f a = false) : regWord (runAll (m s l).2 s).regs a = regWord (runAll l s).regs a :=
    foot_keeps h (I := fun t => regWord t.regs a = regWord (runAll l s).regs a) (fun p t hp ht => by rw [hp.regWord _ ha, ht]) s l rfl
  exact fieldVal_congr (word _ hy.1) (fun hi => word _ (hy.2.1 hi)) fun hi => word _ (hy.2.2 hi)

/-- A store leaves the words below and above the field's alone. -/
theorem regWord_setFieldVal_outside (r : RegFile) (x : RegField) (v a : Nat) (h : a < x.addr ∨ x.addr + 4 * (x.hi / 32) < a) :
    regWord (setFieldVal r x v) a = regWord r a := by
  have other (q : RegFile) (b : Nat) (w : Word) (hb : a ≠ b) : regWord (setRegWord q b w) a = regWord q a :=
    mget_mset_other _ _ _ _ _ hb
  unfold setFieldVal
  dsimp only
  split <;> split <;> split <;> simp (disch := omega) only [other]

/-- A store leaves a field apart from the one stored alone. -/
theorem fld_wr_apart {x y : RegField} (v : Nat) (h : x.Apart y) (s : State) (l : List Prim) :
    (runAll (wr x v s l).2 s).fld y = (runAll l s).fld y := by
  rw [runAll_wr]
  have outside (ho : x.addr + 4 * (x.hi / 32) < y.addr ∨ y.addr + 4 * (y.hi / 32) < x.addr) :
      fieldVal (setFieldVal (runAll l s).regs x v) y = fieldVal (runAll l s).regs y :=
    fieldVal_congr (regWord_setFieldVal_outside _ _ _ _ (by omega)) (fun hi => regWord_setFieldVal_outside _ _ _ _ (by omega))
      fun hi => regWord_setFieldVal_outside _ _ _ _ (by omega)
  rcases h with h | h | ⟨ha, hx, hx32, hy32, hy, hd⟩
  · exact outside (.inl h)
  · exact outside (.inr h)
  · exact fieldVal_setFieldVal_disjoint _ _ _ _ ha hx hx32 hy32 hy hd

/-- A store of a whole 64-bit register replaces both words. -/
theorem spliceWord_wide (old : Word) (x : RegField) (v k : Nat) (hl : x.lo = 0) (hh : x.hi = 63) (hk : k < 2) :
    spliceWord old x v k = BitVec.ofNat 32 (wordOf (v % 2 ^ 64) k) := by
  have mask : BitVec.ofNat 32 (wordOf (maskBits 63 0) k) = BitVec.allOnes 32 := by
    rcases (by omega : k = 0 ∨ k = 1) with rfl | rfl <;> decide
  simp only [spliceWord, hl, hh, mask, BitVec.and_allOnes, BitVec.not_allOnes, BitVec.and_zero, BitVec.zero_or, Nat.sub_zero,
    pow_zero, Nat.mul_one]

/-- A whole 64-bit register reads as what has been stored in it. -/
theorem fld_wr_wide (x : RegField) (v : Nat) (hl : x.lo = 0) (hh : x.hi = 63) (s : State) (l : List Prim) :
    (runAll (wr x v s l).2 s).fld x = v % 2 ^ 64 := by
  have high : x.addr + 4 ≠ x.addr := by omega
  rw [runAll_wr]
  simp only [State.fld, setFieldVal, fieldVal, hl, hh, regWord, setRegWord]
  simp [spliceWord_wide _ x v _ hl hh, wordOf, mget_mset_same, mget_mset_other _ _ _ _ _ high.symm]
  omega

/-- Of a field of one word, and of a whole 64-bit register. -/
theorem fld_wr_same (x : RegField) (v : Nat) (h : x.lo ≤ x.hi ∧ x.hi < 32 ∨ x.lo = 0 ∧ x.hi = 63) (s : State) (l : List Prim) :
    (runAll (wr x v s l).2 s).fld x = v % 2 ^ (x.hi - x.lo + 1) := by
  rcases h with ⟨hl, hh⟩ | ⟨hl, hh⟩
  · exact fld_wr x v hl hh s l
  · rw [fld_wr_wide x v hl hh, hl, hh]

/-- A count is one higher, or at the width's end. -/
theorem fld_bump (x : RegField) (hl : x.lo ≤ x.hi) (hh : x.hi < 32) (s : State) (l : List Prim) :
    (runAll (bump x s l).2 s).fld x = min ((runAll l s).fld x + 1) (2 ^ (x.hi - x.lo + 1) - 1) := by
  have lt : (runAll l s).fld x < 2 ^ (x.hi - x.lo + 1) := Nat.mod_lt _ (Nat.two_pow_pos _)
  simp only [bump, rd_bind, M.ite_apply]
  split
  · rename_i h
    rw [fld_wr x _ hl hh, Nat.mod_eq_of_lt h]
    omega
  · show (runAll l s).fld x = _
    omega

theorem fld_bump_apart {x y : RegField} (h : x.Apart y) (s : State) (l : List Prim) :
    (runAll (bump x s l).2 s).fld y = (runAll l s).fld y := by
  simp only [bump, rd_bind, M.ite_apply]
  split
  · exact fld_wr_apart _ h s l
  · rfl

theorem fld_wrBit_apart {x y : RegField} (i : Nat) (b : Bool) (h : x.Apart y) (s : State) (l : List Prim) :
    (runAll (wrBit x i b s l).2 s).fld y = (runAll l s).fld y := by
  simp only [wrBit, rd_bind, fld_wr_apart _ h]

/-- The bit of a field that has been set or cleared. -/
theorem fld_wrBit (x : RegField) (i : Nat) (b : Bool) (hl : x.lo ≤ x.hi) (hh : x.hi < 32) (hi : i ≤ x.hi - x.lo) (s : State) (l : List Prim) :
    ((runAll (wrBit x i b s l).2 s).fld x).testBit i = b := by
  simp only [wrBit, rd_bind, fld_wr x _ hl hh, Nat.testBit_mod_two_pow]
  have bit : i < x.hi - x.lo + 1 := by omega
  have wide : 2 ^ i < 2 ^ (x.hi - x.lo + 1) := Nat.pow_lt_pow_right (by omega) bit
  cases b
  · simp [bit, Nat.sub_sub, Nat.add_comm 1, Nat.testBit_two_pow_sub_succ wide, Nat.testBit_two_pow_self]
  · simp [bit, Nat.testBit_two_pow_self]

/-! ### Recording -/

theorem fld_raise {e : PageEvent} {y : RegField} (he : e.page < 64) (hy : y.Clear (eventWord [e.page])) (c : EntryClass) (s : State)
    (l : List Prim) : (runAll (raise e c s l).2 s).fld y = (runAll l s).fld y :=
  (within_raise e he c).fld_clear hy s l

theorem fld_setCond {e : PageEvent} {y : RegField} (he : e.page < 64) (hy : y.Clear (eventWord [e.page])) (b : Bool) (c : EntryClass)
    (s : State) (l : List Prim) : (runAll (setCond e b c s l).2 s).fld y = (runAll l s).fld y :=
  (within_setCond e he b c).fld_clear hy s l

theorem fld_auditEntry {y : RegField} (hy : y.Clear (eventWord [])) (page : Nat) (code : BitVec 16) (p : List (BitVec 96)) (c : EntryClass)
    (s : State) (l : List Prim) : (runAll (auditEntry page code p c s l).2 s).fld y = (runAll l s).fld y :=
  (within_auditEntry page code p c).fld_clear hy s l

theorem raiseQuiet_shows {e : PageEvent} (hb : e.bit < 32) (s : State) (l : List Prim) : (runAll (raiseQuiet e s l).2 s).shows e :=
  setEvent_shows e hb s l

/-- A condition that holds shows. -/
theorem setCond_shows {e : PageEvent} (hp : e.page < 64) (h3 : e.page ≠ 3) (hb : e.bit < 32) (c : EntryClass) (s : State) (l : List Prim) :
    (runAll (setCond e true c s l).2 s).shows e := by
  have leads : Leads (fun _ => True) (setCond e true c) fun _ t => t.shows e := by
    refine leads_bind (R := fun _ t => t.shows e) (fun s l _ => setEvent_shows e hb s l) fun _ => keeps_ite ?_ (keeps_pure _)
    exact keeps_bind (keeps_rd _) fun _ s l => ((within_pageEntry _ _ _ _).shows e hp h3 s l).2
  exact leads s l trivial

/-- One that does not hold does not show. -/
theorem setCond_not_shows {e : PageEvent} (hb : e.bit < 32) (c : EntryClass) (s : State) (l : List Prim) :
    ¬ (runAll (setCond e false c s l).2 s).shows e := by
  have := fld_wrBit (R.PG_EVT_RAW.EVT e.page) e.bit false (by simp [R.PG_EVT_RAW.EVT]) (by simp [R.PG_EVT_RAW.EVT])
    (by simp [R.PG_EVT_RAW.EVT]; omega) s l
  simpa [setCond, State.shows] using this

/-- Changes of pieces that are not the registers. -/
theorem fld_time (x : TimeState) (t : State) (y : RegField) : ((Prim.time x).run t).fld y = t.fld y := rfl
theorem fld_power (x : PowerState) (t : State) (y : RegField) : ((Prim.power x).run t).fld y = t.fld y := rfl
theorem fld_anchor (x : AnchorState) (t : State) (y : RegField) : ((Prim.anchor x).run t).fld y = t.fld y := rfl
theorem fld_out (x : Out) (t : State) (y : RegField) : ((Prim.out x).run t).fld y = t.fld y := rfl

end Sys2Proof.Machine
end

section
/-! Wakes (R517, R519, R535). -/
namespace Sys2Proof.Machine
open Sys2Proof

/-! ### The ring of wakes -/

/-- A field of one word in the ring WAKE_SRC, or its pointer. -/
def RegField.InRing (y : RegField) : Prop := y = R.WAKE_LOG_PTR.NEXT ∨ (0x3C400 ≤ y.addr ∧ y.addr < 0x3C500 ∧ y.hi < 32)

/-- The fields of entry `i` that a wake's record is read from. -/
theorem inRing (i : Nat) : (R.WAKE_SRC.CODE i).InRing ∧ (R.WAKE_SRC.CHAN i).InRing ∧ (R.WAKE_SRC_DETAIL.DETAIL i).InRing
    ∧ (R.WAKE_SRC.LATE i).InRing ∧ (R.WAKE_SRC.ABORT i).InRing := by
  simp only [RegField.InRing, R.WAKE_SRC.CODE, R.WAKE_SRC.CHAN, R.WAKE_SRC_DETAIL.DETAIL, R.WAKE_SRC.LATE, R.WAKE_SRC.ABORT]
  omega

/-- Entry `i` of the ring WAKE_SRC records a wake, and the pointer has passed it. -/
def State.logged (t : State) (i code chan detail : Nat) (late abort : Bool) : Prop :=
  t.fld (R.WAKE_SRC.CODE i) = code % 2 ^ 4 ∧ t.fld (R.WAKE_SRC.CHAN i) = chan % 2 ^ 2 ∧ t.fld (R.WAKE_SRC_DETAIL.DETAIL i) = detail % 2 ^ 32
  ∧ t.fld (R.WAKE_SRC.LATE i) = b2n late ∧ t.fld (R.WAKE_SRC.ABORT i) = b2n abort ∧ t.fld R.WAKE_LOG_PTR.NEXT = (i + 1) % 16

/-- What leaves the ring alone keeps the record. -/
theorem State.logged.congr {t u : State} {i code chan detail : Nat} {late abort : Bool} (h : t.logged i code chan detail late abort)
    (keep : ∀ y : RegField, y.InRing → u.fld y = t.fld y) : u.logged i code chan detail late abort := by
  obtain ⟨c, n, d, a, b⟩ := inRing i
  unfold State.logged
  rw [keep _ c, keep _ n, keep _ d, keep _ a, keep _ b, keep _ (.inl rfl)]
  exact h

/-- Of a program, that the fields of the ring are clear of its footprint, or apart from what it stores. -/
theorem Within.keeps_logged {α : Type} {ps : List Piece} {f : Nat → Bool} {m : M α} (h : Within ps f m) (hf : ∀ y : RegField, y.InRing → y.Clear f)
    (i code chan detail : Nat) (late abort : Bool) : Keeps (fun t => t.logged i code chan detail late abort) m :=
  fun s l hl => hl.congr fun y hy => h.fld_clear (hf y hy) s l

theorem keeps_logged_wr {x : RegField} (v : Nat) (hx : ∀ y : RegField, y.InRing → x.Apart y) (i code chan detail : Nat) (late abort : Bool) :
    Keeps (fun t => t.logged i code chan detail late abort) (wr x v) :=
  fun s l hl => hl.congr fun y hy => fld_wr_apart v (hx y hy) s l

/-- Event words of any page are clear of the ring. -/
theorem RegField.InRing.clear {y : RegField} (h : y.InRing) (p : Nat) : y.Clear (eventWord [p]) := by
  have off : y.addr % 0x1000 ≠ 0x10 ∧ y.addr % 0x1000 ≠ 0x1C ∧ y.addr ≠ 0x3058 ∧ y.hi < 32 := by
    rcases h with rfl | ⟨h1, h2, h3⟩
    · decide
    · omega
  refine ⟨?_, by omega, by omega⟩
  simp [eventWord, off]

/-- The stores of a wake's record. -/
theorem ring_written (i code chan detail : Nat) (late abort : Bool) (seq ts : Nat) (s : State) (l : List Prim) :
    (runAll ((do
      wr (R.WAKE_SRC.CODE i) code
      wr (R.WAKE_SRC.CHAN i) chan
      wr (R.WAKE_SRC.LATE i) (b2n late)
      wr (R.WAKE_SRC.ABORT i) (b2n abort)
      wr (R.WAKE_SRC.STAMP_SEQ i) seq
      wr (R.WAKE_SRC_DETAIL.DETAIL i) detail
      wr (R.WAKE_SRC_TS.TS i) ts
      wr R.WAKE_LOG_PTR.NEXT ((i + 1) % 16) : M Unit) s l).2 s).logged i code chan detail late abort := by
  have b2n_one (b : Bool) : b2n b % 2 = b2n b := by cases b <;> rfl
  simp (disch := (simp only [RegField.Apart, true_and, R.WAKE_SRC.CODE, R.WAKE_SRC.CHAN, R.WAKE_SRC.LATE, R.WAKE_SRC.ABORT, R.WAKE_SRC.STAMP_SEQ,
    R.WAKE_SRC_DETAIL.DETAIL, R.WAKE_SRC_TS.TS, R.WAKE_LOG_PTR.NEXT]; try omega)) only [State.logged, M.bind_apply, fld_wr_apart, fld_wr_same]
  simp [R.WAKE_SRC.CODE, R.WAKE_SRC.CHAN, R.WAKE_SRC.LATE, R.WAKE_SRC.ABORT, R.WAKE_SRC_DETAIL.DETAIL, R.WAKE_LOG_PTR.NEXT, b2n_one]

/-- A wake logged: its record in the ring, which the pointer then passes, and WOKEN. -/
theorem logWake_woken (code chan detail : Nat) (late abort : Bool) (s : State) (l : List Prim) :
    woken code chan detail late abort (runAll l s) (runAll (logWake code chan detail late abort s l).2 s) := by
  let i := (runAll l s).fld R.WAKE_LOG_PTR.NEXT
  let logged (t : State) : Prop := t.logged i code chan detail late abort
  have word : ∀ y : RegField, y.InRing → R.WAKE_LOG_PTR.COUNT.Apart y ∧ R.WAKE_LOG_PTR.LOST.Apart y := by
    rintro y (rfl | h)
    · decide
    · simp only [RegField.Apart, R.WAKE_LOG_PTR.COUNT, R.WAKE_LOG_PTR.LOST]
      omega
  have note (p : State → PowerState) : Leads logged (do prim (.power (p (← getS))); raiseQuiet E.WAKE.WOKEN)
      fun _ t => logged t ∧ t.shows E.WAKE.WOKEN := by
    refine leads_getS fun u => leads_bind (R := fun _ => logged) (leads_prim fun t ht => ht.2) fun _ s l ht => ?_
    exact ⟨(within_raiseQuiet E.WAKE.WOKEN (by decide)).keeps_logged (fun y hy => hy.clear _) _ _ _ _ _ _ s l ht,
      raiseQuiet_shows (by decide) s l⟩
  have tail (n : Nat) (p : State → PowerState) : Leads logged
      (if n < 16 then (do wr R.WAKE_LOG_PTR.COUNT (n + 1); prim (.power (p (← getS))); raiseQuiet E.WAKE.WOKEN)
        else (do bump R.WAKE_LOG_PTR.LOST; prim (.power (p (← getS))); raiseQuiet E.WAKE.WOKEN))
      fun _ t => logged t ∧ t.shows E.WAKE.WOKEN :=
    leads_ite (fun _ => leads_bind (keeps_logged_wr _ (fun y hy => (word y hy).1) _ _ _ _ _ _) fun _ => note p)
      fun _ => leads_bind (fun s l h => h.congr fun y hy => fld_bump_apart (word y hy).2 s l) fun _ => note p
  have ring := ring_written i code chan detail late abort (runAll l s).time.seq.toNat (runAll l s).now.toNat s (stamp s l).2
  obtain ⟨⟨c, n, d, la, ab, next⟩, shows⟩ := tail ((runAll l s).fld R.WAKE_LOG_PTR.COUNT)
    (fun s => { s.power with owed := (s.power.owed ++ [(code, detail)]).drop (s.power.owed.length - 15) }) s _ ring
  exact ⟨c, n, d, la, ab, next, shows⟩

/-! ### What follows a wake -/

theorem keeps_raiseClk {I : State → Prop} (h : ∀ p t, I t → I ((Prim.power p).run t)) (c : Clk) : Keeps I (raiseClk c) :=
  leads_getS fun _ => leads_ite (fun _ => leads_prim fun t ht => h _ t ht.2) fun _ => leads_pure fun _ ht => ht.2

theorem within_raiseClk {ps : List Piece} {f : Nat → Bool} (h : .power ∈ ps) (c : Clk) : Within ps f (raiseClk c) :=
  within_bind within_getS fun _ => within_ite (within_prim (by simpa [Prim.pieces] using h) (by simp [Prim.pieces])) (within_pure _)

theorem within_setDomain {ps : List Piece} {f : Nat → Bool} (d : Nat) (b : Bool) (hp : .regs ∈ ps) (hf : f R.POWER_STAT.STATE.addr = true) :
    Within ps f (setDomain d b) :=
  within_wrBit _ _ _ hp hf (fun h => absurd h (by decide)) fun h => absurd h (by decide)

/-- The WAKE entries owed change no register but those of recording. -/
theorem within_writeWakes : Within wakeParts (eventWord []) writeWakes :=
  within_bind within_getS fun _ => within_bind (within_prim (by simp [Prim.pieces, wakeParts]) (by simp [Prim.pieces])) fun _ =>
    within_forM _ fun _ => (within_auditEntry _ _ _ _).mono (fun _ h => List.mem_cons_of_mem _ h) fun _ h => h

theorem within_startAscent : Within wakeParts (ownWords [R.POWER_STAT.STATE.addr] []) startAscent := by
  have regs : Piece.regs ∈ wakeParts := by decide
  have power : Piece.power ∈ wakeParts := by decide
  refine within_bind (within_wr_one _ _ (by decide) regs (by decide)) fun _ => within_bind (within_wr_one _ _ (by decide) regs (by decide)) fun _ =>
    within_bind within_getS fun _ => within_bind (within_prim (by simp [Prim.pieces, wakeParts]) (by simp [Prim.pieces])) fun _ =>
    within_bind (within_raiseClk power _) fun _ => within_bind (within_raiseClk power _) fun _ =>
    within_bind (within_setDomain _ _ regs (by decide)) fun _ => within_writeWakes.mono (fun _ h => h) fun a h => ?_
  simp [ownWords, h]

theorem within_abortDescent : Within recordParts (ownWords [R.POWER_STAT.STATE.addr, R.POWER_COUNTS.ABORTS.addr] [0x05]) abortDescent := by
  have regs : Piece.regs ∈ recordParts := by decide
  refine within_bind (within_wr_one _ _ (by decide) regs (by decide)) fun _ => within_bind (within_wr_one _ _ (by decide) regs (by decide)) fun _ =>
    within_bind (within_bump _ regs (by decide) (by decide) (by decide)) fun _ => (within_raise _ (by decide) _).mono (fun _ h => h) fun a h => ?_
  exact Bool.or_eq_true_iff.2 (.inr h)

/-- A wake's record is clear of the POWER page and of what is recorded of it. -/
theorem RegField.InRing.clear_own {y : RegField} (h : y.InRing) {own : List Nat} (ho : ∀ a ∈ own, a < 0x3C000) (p : List Nat) :
    y.Clear (ownWords own p) := by
  have off : y.addr % 0x1000 ≠ 0x10 ∧ y.addr % 0x1000 ≠ 0x1C ∧ 0x3C000 ≤ y.addr ∧ y.hi < 32 := by
    rcases h with rfl | ⟨h1, h2, h3⟩
    · decide
    · omega
  obtain ⟨raw, sticky, le, hi⟩ := off
  have out : y.addr ∉ own := fun hm => absurd (ho _ hm) (by omega)
  have audit : y.addr ≠ 0x3058 := by omega
  refine ⟨?_, by omega, by omega⟩
  simp [ownWords, eventWord, raw, sticky, out, audit]

/-- An ascent starts at its step 1. -/
theorem startAscent_step (s : State) (l : List Prim) :
    (runAll (startAscent s l).2 s).power' = pwAscending ∧ (runAll (startAscent s l).2 s).fld R.POWER_STAT.STEP = 1 := by
  let I (t : State) : Prop := t.fld R.POWER_STAT.STATE = pwAscending ∧ t.fld R.POWER_STAT.STEP = 1
  have power (p : PowerState) (t : State) (h : I t) : I ((Prim.power p).run t) := h
  have clear {m : M Unit} (h : Within wakeParts (eventWord []) m) : Keeps I m := fun s l ⟨h1, h2⟩ =>
    ⟨(h.fld_clear (by decide) s l).trans h1, (h.fld_clear (by decide) s l).trans h2⟩
  have domain (d : Nat) (b : Bool) : Keeps I (setDomain d b) := fun s l ⟨h1, h2⟩ =>
    ⟨(fld_wrBit_apart d b (by decide) s l).trans h1, (fld_wrBit_apart d b (by decide) s l).trans h2⟩
  have leads : Leads (fun _ => True) startAscent fun _ => I := by
    refine leads_bind (R := fun _ t => t.fld R.POWER_STAT.STATE = pwAscending) (fun s l _ => fld_wr_same _ _ (by decide) s l) fun _ => ?_
    refine leads_bind (R := fun _ => I) (fun s l h => ⟨(fld_wr_apart _ (by decide) s l).trans h, fld_wr_same _ _ (by decide) s l⟩) fun _ => ?_
    refine leads_getS fun _ => leads_bind (R := fun _ => I) (leads_prim fun t h => power _ t h.2) fun _ => ?_
    exact keeps_bind (keeps_raiseClk power _) fun _ => keeps_bind (keeps_raiseClk power _) fun _ => keeps_bind (domain _ _) fun _ =>
      clear within_writeWakes
  exact leads s l trivial

/-- A descent aborted: AWAKE at no step, counted, and ABORTED. -/
theorem abortDescent_awake (s : State) (l : List Prim) :
    let t := runAll (abortDescent s l).2 s
    t.power' = pwAwake ∧ t.fld R.POWER_STAT.STEP = 0
      ∧ t.fld R.POWER_COUNTS.ABORTS = min ((runAll l s).fld R.POWER_COUNTS.ABORTS + 1) (2 ^ 16 - 1) ∧ t.shows E.POWER.ABORTED := by
  simp only [abortDescent, M.bind_apply, State.power']
  refine ⟨?_, ?_, ?_, raise_shows _ (by decide) (by decide) (by decide) _ _ _⟩
  · rw [fld_raise (by decide) (by decide), fld_bump_apart (by decide), fld_wr_apart _ (by decide), fld_wr_same _ _ (by decide)]
    rfl
  · rw [fld_raise (by decide) (by decide), fld_bump_apart (by decide), fld_wr_same _ _ (by decide)]
    rfl
  · rw [fld_raise (by decide) (by decide), fld_bump _ (by decide) (by decide), fld_wr_apart _ (by decide), fld_wr_apart _ (by decide)]
    rfl

/-- A wake's record under what leaves the ring and WOKEN alone. -/
theorem woken_congr {code chan detail : Nat} {late abort : Bool} {u v w : State} (h : woken code chan detail late abort u v)
    (keep : ∀ y : RegField, y.InRing ∨ y = R.PG_EVT_RAW.EVT E.WAKE.WOKEN.page → w.fld y = v.fld y) : woken code chan detail late abort u w := by
  obtain ⟨c, n, d, la, ab, next, shows⟩ := h
  obtain ⟨c', n', d', la', ab', next'⟩ := State.logged.congr ⟨c, n, d, la, ab, next⟩ fun y hy => keep y (.inl hy)
  exact ⟨c', n', d', la', ab', next', by rw [State.shows, keep _ (.inr rfl)]; exact shows⟩

/-- The same under a footprint of the POWER page and of recording. -/
theorem woken_within {ps : List Piece} {own evts : List Nat} {m : M Unit} (hm : Within ps (ownWords own evts) m)
    (ho : ∀ a ∈ own, a < 0x3C000) (hw : (R.PG_EVT_RAW.EVT E.WAKE.WOKEN.page).Clear (ownWords own evts)) {code chan detail : Nat}
    {late abort : Bool} {u : State} {s : State} {l : List Prim} (h : woken code chan detail late abort u (runAll l s)) :
    woken code chan detail late abort u (runAll (m s l).2 s) := by
  refine woken_congr h fun y hy => ?_
  rcases hy with hy | rfl
  · exact hm.fld_clear (hy.clear_own ho evts) s l
  · exact hm.fld_clear hw s l

section WakeBy
variable (code chan detail : Nat) {s : State} {l : List Prim}

theorem wakeBy_awake (h : (runAll l s).power' = pwAwake) : (wakeBy code chan detail s l).2 = l := by
  simp [wakeBy, h]

theorem wakeBy_asleep (h : (runAll l s).power' = pwAsleep) :
    (wakeBy code chan detail s l).2 = (startAscent s (logWake code chan detail false false s l).2).2 := by
  simp [wakeBy, h, pwAwake, pwAsleep, pwDescending]

theorem wakeBy_early (h : (runAll l s).power' = pwDescending) (hs : (runAll l s).fld R.POWER_STAT.STEP < 3) :
    (wakeBy code chan detail s l).2 = (abortDescent s (logWake code chan detail false true s l).2).2 := by
  have late : ¬ 3 ≤ (runAll l s).fld R.POWER_STAT.STEP := by omega
  simp [wakeBy, h, hs, late, pwAwake, pwAsleep, pwDescending]

theorem wakeBy_late (h : (runAll l s).power' = pwDescending) (hs : 3 ≤ (runAll l s).fld R.POWER_STAT.STEP) :
    (wakeBy code chan detail s l).2 = (wr R.POWER_STAT.LATE_WAKE 1 s (logWake code chan detail true false s l).2).2 := by
  have early : ¬ (runAll l s).fld R.POWER_STAT.STEP < 3 := by omega
  simp [wakeBy, h, hs, early, pwAwake, pwAsleep, pwDescending]

theorem wakeBy_ascending (h : (runAll l s).power' = pwAscending) :
    (wakeBy code chan detail s l).2 = (logWake code chan detail false false s l).2 := by
  simp [wakeBy, h, pwAwake, pwAsleep, pwDescending, pwAscending]

end WakeBy

theorem fld_logWake {y : RegField} (hy : y.Clear (ownPages [0x3C] [0x3C])) (code chan detail : Nat) (late abort : Bool) (s : State) (l : List Prim) :
    (runAll (logWake code chan detail late abort s l).2 s).fld y = (runAll l s).fld y :=
  (within_logWake code chan detail late abort).fld_clear hy s l

/-- What a wake does in each power state. -/
theorem wakeBy_wakes (code chan detail : Nat) (s : State) (l : List Prim) :
    wakes code chan detail (runAll l s) (runAll (wakeBy code chan detail s l).2 s) := by
  have word : R.POWER_STAT.STATE.Clear (ownPages [0x3C] [0x3C]) := by decide
  refine ⟨fun h => ?_, fun h => ?_, fun h hs => ?_, fun h hs => ?_, fun h => ?_⟩
  · rw [wakeBy_awake _ _ _ h]
    exact ⟨h, rfl⟩
  · rw [wakeBy_asleep _ _ _ h]
    exact ⟨woken_within within_startAscent (by decide) (by decide) (logWake_woken _ _ _ _ _ s l), startAscent_step s _⟩
  · rw [wakeBy_early _ _ _ h hs]
    obtain ⟨awake, -, -, aborted⟩ := abortDescent_awake s (logWake code chan detail false true s l).2
    exact ⟨woken_within within_abortDescent (by decide) (by decide) (logWake_woken _ _ _ _ _ s l), awake, aborted⟩
  · rw [wakeBy_late _ _ _ h hs]
    have store : Within [.regs] (ownWords [R.POWER_STAT.STATE.addr] []) (wr R.POWER_STAT.LATE_WAKE 1) :=
      within_wr_one _ _ (by decide) (by decide) (by decide)
    refine ⟨woken_within store (by decide) (by decide) (logWake_woken _ _ _ _ _ s l), ?_, ?_⟩
    · rw [fld_wr_same _ _ (by decide)]
      rfl
    · rw [State.power', fld_wr_apart _ (by decide), fld_logWake word]
      exact h
  · rw [wakeBy_ascending _ _ _ h]
    exact ⟨logWake_woken _ _ _ _ _ s l, (fld_logWake word _ _ _ _ _ s l).trans h⟩

end Sys2Proof.Machine
end

section
/-! What an accepted write to a register of one word leads to (R78, R79), and the statement of wakes. -/
namespace Sys2Proof.Machine
open Sys2Proof

/-! ### Writes -/

/-- What an accepted write does before its register's own effect (R79): the word stored, the page's count and time, and the record. -/
def acceptRecord (w : HostWr) (old : Word) : M Unit := do
  let st ← stamp
  applyWord w.at w.value
  bumpMod (R.PG_WRCOUNT.COUNT w.page)
  wr (R.PG_LASTWR_TS.TS w.page) st.ts.toNat
  recordWrite st w old 0

/-- A register of one word, none of a Loose context. -/
abbrev plainWord (a : Nat) : Prop := low64 a = false ∧ high64 a = false ∧ a / 0x1000 ≠ 0x38 ∧ a / 0x1000 < 64

variable {w : HostWr} {a : Nat}

theorem acceptWrite_plain (ha : w.at = a) (h : plainWord a) (old : Word) (effect : M Unit) (s : State) (l : List Prim) :
    (acceptWrite w old effect s l).2 = (effect s (acceptRecord w old s l).2).2 := by
  obtain ⟨low, high, -, -⟩ := h
  simp [acceptWrite, acceptRecord, applyWrite, ha, low, high]

/-- No word but the header's count and time, the event words of the CHRON page, and the word written. -/
theorem within_acceptRecord (ha : w.at = a) (hp : w.page = a / 0x1000) (h : plainWord a) (old : Word) :
    Within recordParts (wrWords w.page [a] []) (acceptRecord w old) := by
  obtain ⟨-, -, loose, lt⟩ := h
  have regs : Piece.regs ∈ recordParts := by decide
  have page : w.page % 64 = w.page := Nat.mod_eq_of_lt (hp ▸ lt)
  have off (o : Nat) (ho : o = 0x20 ∨ o = 0x28 ∨ o = 0x2C) : wrWords w.page [a] [] (0x1000 * (w.page % 64) + o) = true := by
    have h1 : (0x1000 * (w.page % 64) + o) / 0x1000 = w.page := by omega
    have h2 : (0x1000 * (w.page % 64) + o) % 0x1000 = o := by omega
    simp only [wrWords, acceptWord, h1, h2, Bool.or_eq_true, Bool.and_eq_true, decide_eq_true_eq]
    exact .inl ⟨trivial, by tauto⟩
  refine within_bind (within_stamp (by decide)) fun st => within_bind ?_ fun _ => within_bind ?_ fun _ => within_bind ?_ fun _ => ?_
  · exact within_applyWord _ _ regs (by simp [wrWords, ownWords, ha]) fun h => absurd h (ha ▸ loose)
  · exact within_bumpMod _ regs (off 0x20 (by simp)) (by simp [R.PG_WRCOUNT.COUNT]) (by simp [R.PG_WRCOUNT.COUNT])
  · exact within_wr _ _ regs (off 0x28 (by simp)) (fun _ => off 0x2C (by simp)) (by simp [R.PG_LASTWR_TS.TS])
  · refine (within_recordWrite _ _ _ _).mono (fun _ h => h) fun b hb => ?_
    simp [wrWords, ownWords, eventWord_mono (k := [w.page]) (by simp) b hb]

/-- The time base stands still over it. -/
theorem keeps_now_acceptRecord {n : BitVec 64} (old : Word) : Keeps (fun t => t.now = n) (acceptRecord w old) := by
  have record (t u : State) (h : Records t u) (ht : t.now = n) : u.now = n := h.now.trans ht
  have store (x : RegField) (v : Nat) : Keeps (fun t => t.now = n) (wr x v) := keeps_recorder_wr record x v
  refine keeps_bind (keeps_stamp record) fun st => keeps_bind ?_ fun _ => keeps_bind (keeps_bind (keeps_rd _) fun _ => store _ _) fun _ =>
    keeps_bind (store _ _) fun _ => keeps_raiseItem record _ _ _ _ _ _ _
  have word (w : Word) (b : Nat) : Keeps (fun t => t.now = n) (wrWord b w) := keeps_prim fun t h => record _ _ (.reg b w t) h
  refine keeps_bind keeps_getS fun _ => keeps_ite (word _ _) (keeps_ite (word _ _) (keeps_ite (word _ _) (keeps_ite (keeps_pure _) ?_)))
  refine keeps_bind keeps_getS fun _ => ?_
  split
  · exact keeps_bind keeps_getS fun _ => keeps_prim fun t h => h
  · exact word _ _

theorem SameBut.trans {ps : List Piece} {s t u : State} (h : SameBut ps s t) (k : SameBut ps t u) : SameBut ps s u :=
  fun q hq => Piece.same_trans (h q hq) (k q hq)

theorem SameBut.mono {ps qs : List Piece} {s t : State} (h : SameBut ps s t) (hp : ∀ q ∈ ps, q ∈ qs) : SameBut qs s t :=
  fun q hq => h q fun hm => hq (hp q hm)

theorem WordsBut.trans {f : Nat → Bool} {s t u : State} (h : WordsBut f s t) (k : WordsBut f t u) : WordsBut f s u :=
  fun b hb => (k b hb).trans (h b hb)

theorem WordsBut.mono {f g : Nat → Bool} {s t : State} (h : WordsBut f s t) (hf : ∀ b, f b = true → g b = true) : WordsBut g s t :=
  fun b hb => h b (by
    by_contra hn
    rw [hf b (by simpa using hn)] at hb
    exact absurd hb (by decide))

theorem fullWrite_at (rid : BitVec 12) (v : Word) (h : a < 2 ^ 18 ∧ a % 4 = 0) : (fullWrite rid a v).at = a := by
  simp only [HostWr.at, fullWrite, BitVec.toNat_ofNat, Nat.mod_eq_of_lt h.1]
  omega

theorem fullWrite_page (rid : BitVec 12) (v : Word) (h : a < 2 ^ 18) : (fullWrite rid a v).page = a / 0x1000 := by
  simp only [HostWr.page, fullWrite, BitVec.toNat_ofNat, Nat.mod_eq_of_lt h]

/-- An accepted write: its register's own effect starts in a state that differs by the record of the write alone. -/
theorem hostWrite_runs (ha : a < 2 ^ 18 ∧ a % 4 = 0) (h : plainWord a) (effect : M Unit) {s : State} {rid : BitVec 12} {v : Nat}
    (ok : s.accepts rid a v) :
    ∃ l, exec1 (hostWrite (fullWrite rid a (BitVec.ofNat 32 v)) effect) s = .next (runAll (effect s l).2 s)
      ∧ SameBut recordParts s (runAll l s) ∧ WordsBut (wrWords (a / 0x1000) [a] []) s (runAll l s) ∧ (runAll l s).now = s.now := by
  have at' := fullWrite_at rid (BitVec.ofNat 32 v) ha
  have page := fullWrite_page rid (BitVec.ofNat 32 v) ha.1
  let old := s.view (fullWrite rid a (BitVec.ofNat 32 v)).at
  obtain ⟨same, words⟩ := (within_acceptRecord at' page h old).leaves s
  refine ⟨(acceptRecord (fullWrite rid a (BitVec.ofNat 32 v)) old s []).2, ?_, same, page ▸ words, keeps_now_acceptRecord _ s [] rfl⟩
  rw [hostWrite_accepted _ _ _ ok, exec1_eq, acceptWrite_plain at' h]

/-! ### Wakes and clocks -/

/-- With nothing that keeps it waiting, a command of a security-class page is carried out (R597). -/
theorem waitable_heeds (i : Instr) (p : Nat) (m : M Unit) {s : State} (h : s.heeds) : exec1 (waitable i p m) s = exec1 m s := by
  have off : s.eventWaits = false := h
  simp [exec1_eq, waitable, off]

/-- The footprint and the effect of a wake, as the first statements of O8 have them. -/
theorem exec1_wakeBy (code chan detail : Nat) (s : State) :
    ∃ t, exec1 (wakeBy code chan detail) s = .next t
      ∧ (SameBut wakeParts s t ∧ WordsBut (ownPages [0x05, 0x3C] [0x05, 0x3C]) s t) ∧ wakes code chan detail s t :=
  ⟨_, rfl, (within_wakeBy code chan detail).leaves s, wakeBy_wakes code chan detail s []⟩

theorem vbatRestore_wakes {s : State} (h : s.heeds) (en : s.fld R.WAKE_SRC_EN.VBAT = 1) (main : s.bnd.mainOff = false) :
    exec .vbatRestore s = exec1 (wakeBy 0x6 0 0) s := by
  refine (waitable_heeds _ _ _ h).trans ?_
  simp [exec1_eq, en, main]

theorem descentAbort_wakes (code : BitVec 4) (chan : BitVec 2) (detail : Word) {s : State} (h : s.heeds) (hp : s.power' = pwDescending)
    (step : s.fld R.POWER_STAT.STEP < 3) :
    exec (.descentAbort code chan detail) s = exec1 (wakeBy code.toNat chan.toNat detail.toNat) s := by
  refine (waitable_heeds _ _ _ h).trans ?_
  simp [exec1_eq, hp, step]

/-! ### POWER_CMD -/

theorem within_startDescent : Within wakeParts (ownPages [0x05, 0x3C] [0x05, 0x3C]) startDescent := by
  have regs : Piece.regs ∈ wakeParts := by decide
  have store (x : RegField) (v : Nat) (h : x.addr = 0x5044 ∧ x.hi < 32) : Within wakeParts (ownPages [0x05, 0x3C] [0x05, 0x3C]) (wr x v) :=
    within_wr_page x v regs (by rw [h.1]; decide) (by rw [h.1]; decide) (.inl h.2)
  exact within_bind within_getS fun _ => within_bind (store _ _ (by decide)) fun _ => within_bind (store _ _ (by decide)) fun _ =>
    within_bind (store _ _ (by decide)) fun _ => within_prim (by simp [Prim.pieces, wakeParts]) (by simp [Prim.pieces])

theorem within_fxPowerCmd (op : Nat) : Within wakeParts (ownPages [0x05, 0x3C] [0x05, 0x3C]) (fxPowerCmd op) := by
  have regs : Piece.regs ∈ wakeParts := by decide
  refine within_bind within_getS fun _ => within_ite (within_ite (within_ite within_startDescent (within_ite ?_ (within_pure _)))
    (within_ite (within_wakeBy _ _ _) (within_pure _))) (within_pure _)
  exact within_wr_page _ _ regs (by decide) (by decide) (by decide)

section Sleep
variable {s : State} {l : List Prim} (active : (runAll l s).active 0x05 = true)
include active

theorem sleep_awake (h : (runAll l s).power' = pwAwake) : (fxPowerCmd 1 s l).2 = (startDescent s l).2 := by
  simp [fxPowerCmd, active, h]

theorem sleep_ascending (h : (runAll l s).power' = pwAscending) : (fxPowerCmd 1 s l).2 = (wr R.POWER_STAT.SLEEP_QUEUED 1 s l).2 := by
  simp [fxPowerCmd, active, h, pwAwake, pwAscending]

theorem sleep_else (h : (runAll l s).power' = pwDescending ∨ (runAll l s).power' = pwAsleep) : (fxPowerCmd 1 s l).2 = l := by
  rcases h with h | h <;> simp [fxPowerCmd, active, h, pwAwake, pwAscending, pwDescending, pwAsleep]

theorem wake_wakes : (fxPowerCmd 2 s l).2 = (wakeBy 0x1 0 0 s l).2 := by
  simp [fxPowerCmd, active]

end Sleep

/-- A descent starts at its step 1, and its time is kept. -/
theorem startDescent_step (s : State) (l : List Prim) :
    let t := runAll (startDescent s l).2 s
    t.power' = pwDescending ∧ t.fld R.POWER_STAT.STEP = 1 ∧ t.power.began = (runAll l s).now.toNat := by
  simp only [startDescent, M.bind_apply, getS_apply, prim_apply, runAll_cons, State.power', fld_power, Prim.run_power]
  refine ⟨?_, ?_, trivial⟩
  · rw [fld_wr_apart _ (by decide), fld_wr_apart _ (by decide), fld_wr_same _ _ (by decide)]
    rfl
  · rw [fld_wr_apart _ (by decide), fld_wr_same _ _ (by decide)]
    rfl

/-- What a program within `ps` and `f` leaves alone, from the state it starts in. -/
theorem Within.leaves_from {ps : List Piece} {f : Nat → Bool} {m : M Unit} (h : Within ps f m) (s : State) (l : List Prim) :
    SameBut ps (runAll l s) (runAll (m s l).2 s) ∧ WordsBut f (runAll l s) (runAll (m s l).2 s) :=
  ⟨fun q hq => h.same q hq s l, fun a ha => foot_keeps h (I := fun t => regWord t.regs a = regWord (runAll l s).regs a)
    (fun p t hp ht => by rw [hp.regWord _ ha, ht]) s l rfl⟩

/-- A word of `wrWords` is one of `wrPages`. -/
theorem wrWords_wrPages {p : Nat} {own ps es : List Nat} (ho : ∀ a ∈ own, a / 0x1000 ∈ ps ∧ 0x40 ≤ a % 0x1000) (a : Nat)
    (h : wrWords p own [] a = true) : wrPages p ps es a = true := by
  simp only [wrWords, ownWords, wrPages, ownPages, Bool.or_eq_true, Bool.and_eq_true, List.contains_eq_mem, decide_eq_true_eq] at h ⊢
  exact h.imp_right (Or.imp (ho a) (eventWord_mono (by simp) a))

/-- POWER_CMD.OP as it is written: the operation starts in a state that differs by the record of the write. -/
theorem powerCmd_runs {s : State} {rid : BitVec 12} {op : Nat} (ok : s.accepts rid R.POWER_CMD.OP.addr (op * 2 ^ 28))
    (active : s.active 0x05 = true) :
    ∃ l, exec1 (powerCmdWrite rid op) s = .next (runAll (fxPowerCmd op s l).2 s)
      ∧ (SameBut wakeParts s (runAll (fxPowerCmd op s l).2 s)
        ∧ WordsBut (wrPages 0x05 [0x05, 0x3C] [0x05, 0x3C]) s (runAll (fxPowerCmd op s l).2 s))
      ∧ (runAll l s).active 0x05 = true ∧ (runAll l s).power = s.power ∧ (runAll l s).now = s.now
      ∧ ∀ y : RegField, y.Clear (wrWords 0x05 [R.POWER_CMD.OP.addr] []) → (runAll l s).fld y = s.fld y := by
  obtain ⟨l, run, same, words, now⟩ := hostWrite_runs (a := R.POWER_CMD.OP.addr) (by decide) (by decide +kernel) (fxPowerCmd op) ok
  obtain ⟨same', words'⟩ := (within_fxPowerCmd op).leaves_from s l
  have stays (y : RegField) (hy : y.Clear (wrWords 0x05 [R.POWER_CMD.OP.addr] [])) : (runAll l s).fld y = s.fld y := words.fld hy
  refine ⟨l, run, ⟨(same.mono fun _ h => List.mem_cons_of_mem _ h).trans same', (words.mono fun a h => ?_).trans (words'.mono fun a h => ?_)⟩,
    ?_, (same .power (by decide)).symm, now, stays⟩
  · exact wrWords_wrPages (by decide) a h
  · exact Bool.or_eq_true_iff.2 (.inr (ownPages_mono (fun _ h => h) (by simp) a h))
  · rw [State.active, stays _ (by decide)]
    exact active

/-! ### Clock requests -/

/-- The words of POWER_STAT. -/
abbrev powerStat : Nat → Bool := ownWords [R.POWER_STAT.STATE.addr] []

/-- A request raised is there, and nothing else of the power state has changed. -/
theorem raiseClk_req (c : Clk) (s : State) (l : List Prim) :
    let t := runAll (raiseClk c s l).2 s
    t.clkReq c = true ∧ t.power.ack = (runAll l s).power.ack ∧ t.regs = (runAll l s).regs := by
  by_cases h : (runAll l s).clkReq c = true
  · simp [raiseClk, h]
  · have raised : (raiseClk c s l).2 = .power { (runAll l s).power with req := (runAll l s).power.req ++ [(c, (runAll l s).now.toNat)] } :: l := by
      simp [raiseClk, h]
    rw [raised]
    simp [State.clkReq]

theorem setDomain_same (d : Nat) (b : Bool) (s : State) (l : List Prim) (q : Piece) (hq : q ≠ .regs) :
    q.same (runAll l s) (runAll (setDomain d b s l).2 s) :=
  (within_setDomain (ps := [.regs]) (f := powerStat) d b (by decide) (by decide)).same q (by simpa using hq) s l

theorem setDomain_bit (d : Nat) (b : Bool) (hd : d < 16) (s : State) (l : List Prim) :
    ((runAll (setDomain d b s l).2 s).fld R.POWER_STAT.DOMAINS_ON).testBit d = b :=
  fld_wrBit R.POWER_STAT.DOMAINS_ON d b (by decide) (by decide) (Nat.le_of_lt_succ hd) s l

/-- HOST comes out of retention once the register clock runs, and the access's time is kept (R37). -/
def letHostOut : M Unit := do
  let s ← getS
  raiseClk .reg
  if s.clkRuns .reg then setDomain 4 true
  prim (.power { (← getS).power with hostSince := some s.now.toNat })

theorem within_letHostOut : Within [.power, .regs] powerStat letHostOut := by
  have note (n : Nat) : Within [.power, .regs] powerStat (do prim (.power { (← getS).power with hostSince := some n })) :=
    within_bind within_getS fun _ => within_prim (by simp [Prim.pieces]) (by simp [Prim.pieces])
  exact within_bind within_getS fun _ => within_bind (within_raiseClk (by decide) _) fun _ =>
    within_ite (within_bind (within_setDomain _ _ (by decide) (by decide)) fun _ => note _) (note _)

theorem letHostOut_runs (s : State) :
    let t := runM letHostOut s
    t.clkReq .reg = true ∧ t.power.ack = s.power.ack ∧ (s.clkRuns .reg = true → (t.fld R.POWER_STAT.DOMAINS_ON).testBit 4 = true)
      ∧ (s.clkRuns .reg = false → t.fld R.POWER_STAT.DOMAINS_ON = s.fld R.POWER_STAT.DOMAINS_ON) ∧ t.power.hostSince = some s.now.toNat := by
  obtain ⟨req, ack, regs⟩ := raiseClk_req .reg s []
  cases runs : s.clkRuns .reg
  · have e : runM letHostOut s = (Prim.power { (runAll (raiseClk .reg s []).2 s).power with hostSince := some s.now.toNat }).run
        (runAll (raiseClk .reg s []).2 s) := by
      simp [runM, letHostOut, runs]
    simp only [e, State.clkReq, Prim.run_power, fld_power]
    refine ⟨req, ack, by simp, fun _ => ?_, trivial⟩
    rw [State.fld, regs]
    rfl
  · have e : runM letHostOut s = (Prim.power { (runAll (setDomain 4 true s (raiseClk .reg s []).2).2 s).power with
        hostSince := some s.now.toNat }).run (runAll (setDomain 4 true s (raiseClk .reg s []).2).2 s) := by
      simp [runM, letHostOut, runs]
    have power : (runAll (raiseClk .reg s []).2 s).power = (runAll (setDomain 4 true s (raiseClk .reg s []).2).2 s).power :=
      setDomain_same 4 true s _ .power (by decide)
    simp only [e, State.clkReq, Prim.run_power, fld_power, ← power]
    exact ⟨req, ack, fun _ => setDomain_bit 4 true (by decide) s _, by simp, trivial⟩

/-- A host access while asleep is `letHostOut`. -/
theorem hostAccessAsleep_eq {s : State} (h : s.asleep = true) : exec .hostAccessAsleep s = exec1 letHostOut s := by
  show exec1 _ s = _
  simp [exec1_eq, h, letHostOut]

/-- The access's time is up: HOST is in retention, and the register clock's request is lowered. -/
def shutHost (t : PowerState) : M Unit := do
  prim (.power { t with hostSince := none })
  setDomain 4 false
  lowerClk .reg

theorem within_shutHost (p : PowerState) : Within [.power, .regs] powerStat (shutHost p) :=
  within_bind (within_prim (by simp [Prim.pieces]) (by simp [Prim.pieces])) fun _ =>
    within_bind (within_setDomain _ _ (by decide) (by decide)) fun _ => within_bind within_getS fun _ =>
      within_prim (by simp [Prim.pieces]) (by simp [Prim.pieces])

theorem shutHost_runs (s : State) :
    let t := runM (shutHost s.power) s
    t.clkReq .reg = false ∧ (t.fld R.POWER_STAT.DOMAINS_ON).testBit 4 = false ∧ t.power.hostSince = none := by
  have power := setDomain_same 4 false s [.power { s.power with hostSince := none }] .power (by decide)
  simp only [Piece.same, runAll_cons, runAll_nil, Prim.run_power] at power
  simp only [runM, shutHost, lowerClk, M.bind_apply, prim_apply, getS_apply, runAll_cons, fld_power, State.clkReq, Prim.run_power, ← power]
  exact ⟨by simp, setDomain_bit 4 false (by decide) s _, trivial⟩

theorem hostRetentionTimeout_eq {s : State} {t0 : Nat} (h : s.asleep = true) (since : s.power.hostSince = some t0)
    (late : t0 + 100000 ≤ s.now.toNat) : exec .hostRetentionTimeout s = exec1 (shutHost s.power) s := by
  show exec1 _ s = _
  simp [exec1_eq, h, since, late, shutHost]

/-- A unit alarm of grade 0 wakes nothing. -/
theorem within_unitAlarm_zero (page : Nat) : Within recordParts (eventWord []) (unitAlarm page 0) :=
  within_bind (within_auditEntry _ _ _ _) fun _ => within_pure _

/-- What may follow an ACK: HOST let out where an access asked for it, and an alarm where it is late. -/
def hostOut (b : Bool) : M Unit := if b then setDomain 4 true else pure ()
def lateAlarm (b : Bool) : M Unit := if b then unitAlarm 0x05 0 else pure ()

def takeAck (c : Clk) (out late : Bool) (s : State) : M Unit := do
  prim (.power { s.power with ack := s.power.ack ++ [c] })
  hostOut out
  lateAlarm late

theorem clockAck_eq {s : State} {c : Clk} {t0 : Nat} (h : s.power.req.find? (fun p => decide (p.1 = c)) = some (c, t0))
    (ack : c ∉ s.power.ack) :
    exec1 (clockAck c) s = exec1 (takeAck c (decide (c = .reg ∧ s.power.hostSince.isSome)) (decide (t0 + 20000 < s.now.toNat)) s) s := by
  by_cases out : c = .reg ∧ s.power.hostSince.isSome
  · obtain ⟨rfl, since⟩ := out
    by_cases late : t0 + 20000 < s.now.toNat <;> simp [exec1_eq, clockAck, takeAck, hostOut, lateAlarm, h, ack, since, late]
  · by_cases late : t0 + 20000 < s.now.toNat <;> simp [exec1_eq, clockAck, takeAck, hostOut, lateAlarm, h, ack, out, late]

theorem within_lateAlarm (b : Bool) : Within recordParts (eventWord []) (lateAlarm b) := within_ite (within_unitAlarm_zero _) (within_pure _)

theorem within_hostOut (b : Bool) : Within [.regs] (ownWords (if b then [R.POWER_STAT.STATE.addr] else []) []) (hostOut b) := by
  cases b
  · exact within_pure _
  · exact within_setDomain _ _ (by decide) (by decide)

theorem within_takeAck (c : Clk) (out late : Bool) (s : State) :
    Within (.power :: recordParts) (ownWords (if out then [R.POWER_STAT.STATE.addr] else []) []) (takeAck c out late s) :=
  within_bind (within_prim (by simp [Prim.pieces]) (by simp [Prim.pieces])) fun _ =>
    within_bind ((within_hostOut out).mono (by decide) fun _ h => h) fun _ =>
      (within_lateAlarm late).mono (fun _ h => List.mem_cons_of_mem _ h) fun a h => Bool.or_eq_true_iff.2 (.inr h)

theorem takeAck_runs (c : Clk) (out late : Bool) (s : State) :
    let t := runM (takeAck c out late s) s
    (out = true → (t.fld R.POWER_STAT.DOMAINS_ON).testBit 4 = true) ∧ t.power = { s.power with ack := s.power.ack ++ [c] }
      ∧ (late = true → recorded 0x05 0x0020 (alarmPayload 0 0 0 false 0x05) t) := by
  simp only [runM, takeAck, M.bind_apply, prim_apply]
  refine ⟨fun h => ?_, ?_, fun h => ?_⟩
  · rw [(within_lateAlarm late).fld_clear (by decide), h]
    exact setDomain_bit 4 true (by decide) s _
  · exact (Piece.same_trans ((within_hostOut out).same .power (by decide) s _) ((within_lateAlarm late).same .power (by decide) s _)).symm
  · rw [h]
    exact unitAlarm_recorded 0x05 s _ trivial

/-! ### Errors at the boundary -/

theorem within_bndErr (group port : Nat) : Within recordParts (ownWords [R.GLOBAL_BND_ERR.COUNT.addr] []) (bndErr group port) := by
  have regs : Piece.regs ∈ recordParts := by decide
  exact within_bind (within_bump _ regs (by decide) (by decide) (by decide)) fun _ =>
    within_bind (within_wr_one _ _ (by decide) regs (by decide)) fun _ => within_bind (within_wr_one _ _ (by decide) regs (by decide)) fun _ =>
      (within_auditEntry _ _ _ _).mono (fun _ h => h) fun a h => Bool.or_eq_true_iff.2 (.inr h)

theorem bndErr_runs (group : BitVec 4) (port : BitVec 8) (s : State) :
    let t := runM (bndErr group.toNat port.toNat) s
    t.fld R.GLOBAL_BND_ERR.COUNT = min (s.fld R.GLOBAL_BND_ERR.COUNT + 1) (2 ^ 16 - 1)
      ∧ t.fld R.GLOBAL_BND_ERR.GROUP = group.toNat ∧ t.fld R.GLOBAL_BND_ERR.PORT = port.toNat
      ∧ recorded 0x01 0x0020 (alarmPayload 0 0 0 false 0x01 ||| BitVec.ofNat 96 (group.toNat * 2 ^ 40)) t := by
  simp only [runM, bndErr, M.bind_apply]
  refine ⟨?_, ?_, ?_, auditEntry_recorded _ _ _ _ s _ trivial⟩
  · rw [fld_auditEntry (by decide), fld_wr_apart _ (by decide), fld_wr_apart _ (by decide), fld_bump _ (by decide) (by decide)]
    rfl
  · rw [fld_auditEntry (by decide), fld_wr_apart _ (by decide), fld_wr_same _ _ (by decide)]
    exact Nat.mod_eq_of_lt group.isLt
  · rw [fld_auditEntry (by decide), fld_wr_same _ _ (by decide)]
    exact Nat.mod_eq_of_lt port.isLt

/-! ### The statement -/

/-- Settles O8: each command is one of the programs above, whose footprint and effect their lemmas give. -/
theorem wakesHold : Obligations.Wakes := by
  intro s rid
  refine ⟨fun heeds en main => ?_, fun group port heeds => ?_, fun code chan detail heeds descending step => ?_, fun ok active => ?_,
    fun ok active => ?_, fun asleep => ?_, fun t0 asleep since late => ?_, fun c t0 raised ack => ?_, fun group port => ?_⟩
  · rw [vbatRestore_wakes heeds en main]
    exact exec1_wakeBy 0x6 0 0 s
  · rw [show exec (.hostRequestWake group port) s = _ from waitable_heeds _ _ _ heeds]
    exact exec1_wakeBy _ _ _ s
  · rw [descentAbort_wakes code chan detail heeds descending step]
    refine ⟨_, rfl, (within_wakeBy _ _ _).leaves s, ((wakeBy_wakes _ _ _ s []).2.2.1 descending step).1, ?_⟩
    rw [runM, wakeBy_early (s := s) (l := []) _ _ _ descending step]
    obtain ⟨awake, step0, aborts, aborted⟩ := abortDescent_awake s (logWake code.toNat chan.toNat detail.toNat false true s []).2
    exact ⟨awake, step0, aborted, aborts.trans (by rw [fld_logWake (by decide)]; rfl)⟩
  · obtain ⟨l, run, frame, active, power, now, stays⟩ := powerCmd_runs ok active
    have state : (runAll l s).power' = s.power' := stays _ (by decide)
    refine ⟨_, run, frame, fun h => ?_, fun h => ?_, fun h => ?_⟩
    · rw [sleep_awake active (state.trans h), ← now]
      exact startDescent_step s l
    · rw [sleep_ascending active (state.trans h)]
      exact ⟨(fld_wr_apart _ (by decide) s l).trans (state.trans h), fld_wr_same _ _ (by decide) s l⟩
    · rw [sleep_else active (by rwa [state])]
      exact ⟨state, power⟩
  · obtain ⟨l, run, frame, active, power, -, stays⟩ := powerCmd_runs ok active
    refine ⟨_, run, frame, ?_⟩
    rw [wake_wakes active]
    have state : (runAll l s).power' = s.power' := stays _ (by decide)
    have step : (runAll l s).fld R.POWER_STAT.STEP = s.fld R.POWER_STAT.STEP := stays _ (by decide)
    have next : (runAll l s).fld R.WAKE_LOG_PTR.NEXT = s.fld R.WAKE_LOG_PTR.NEXT := stays _ (by decide)
    have wakes := wakeBy_wakes 0x1 0 0 s l
    simp only [Machine.wakes, woken, state, step, next, power] at wakes
    exact wakes
  · rw [hostAccessAsleep_eq asleep]
    obtain ⟨same, words⟩ := within_letHostOut.leaves s
    exact ⟨_, rfl, same, words, letHostOut_runs s⟩
  · rw [hostRetentionTimeout_eq asleep since late]
    obtain ⟨same, words⟩ := (within_shutHost s.power).leaves s
    exact ⟨_, rfl, same, words, shutHost_runs s⟩
  · rw [show exec (.clockAck c) s = _ from clockAck_eq raised ack]
    obtain ⟨same, words⟩ := (within_takeAck (clkOf c) (decide (clkOf c = .reg ∧ s.power.hostSince.isSome))
      (decide (t0 + 20000 < s.now.toNat)) s).leaves s
    obtain ⟨out, power, alarm⟩ := takeAck_runs (clkOf c) (decide (clkOf c = .reg ∧ s.power.hostSince.isSome))
      (decide (t0 + 20000 < s.now.toNat)) s
    exact ⟨_, rfl, same, by simpa using words, fun hc hs => out (by simp [hc, hs]), power, fun h => alarm (by simpa using h)⟩
  · obtain ⟨same, words⟩ := (within_bndErr group.toNat port.toNat).leaves s
    exact ⟨_, rfl, same, words, bndErr_runs group port s⟩

end Sys2Proof.Machine
end

section
/-! The time base (R505 to R516). -/
namespace Sys2Proof.Machine
open Sys2Proof

/-! ### The accumulator -/

/-- The accumulator in units of 2^-32 ns. -/
def TimeState.whole (t : TimeState) : Nat := t.acc.toNat * 2 ^ 32 + t.frac.toNat

/-- The time base without the sequence number of its stamps, which recording draws. -/
def State.clock (s : State) : TimeState := { s.time with seq := 0 }

theorem State.clock_fields {u : State} {c : TimeState} (h : u.clock = c) : u.time.acc = c.acc ∧ u.time.frac = c.frac ∧ u.time.clk = c.clk
    ∧ u.time.rate = c.rate ∧ u.time.clkFailed = c.clkFailed := by
  subst h
  exact ⟨rfl, rfl, rfl, rfl, rfl⟩

/-- Recording draws stamps and leaves the clock alone. -/
theorem Records.clock {t u : State} (h : Records t u) : u.clock = t.clock := by cases h <;> rfl

/-- A time base that starts anew from an accumulator. -/
def TimeState.setAcc (t : TimeState) (acc : BitVec 64) (frac : BitVec 32) : TimeState := { t with acc := acc, frac := frac, clk := 0 }

/-- It differs in the accumulator and the count of clocks alone. -/
theorem TimeState.setAcc_rest (t : TimeState) (acc : BitVec 64) (frac : BitVec 32) : (t.setAcc acc frac).seq = t.seq
    ∧ (t.setAcc acc frac).clk = 0 ∧ (t.setAcc acc frac).ticks = t.ticks ∧ (t.setAcc acc frac).rcCycles = t.rcCycles
    ∧ (t.setAcc acc frac).clkFailed = t.clkFailed :=
  ⟨rfl, rfl, rfl, rfl, rfl⟩

/-- What `timeAdd` makes of a time base. -/
def TimeState.plus (t : TimeState) (units : Nat) : TimeState :=
  t.setAcc (BitVec.ofNat 64 ((t.whole + units) % 2 ^ 96 / 2 ^ 32)) (BitVec.ofNat 32 ((t.whole + units) % 2 ^ 96))

theorem timeAdd_apply (units : Nat) (s : State) (l : List Prim) : (timeAdd units s l).2 = .time ((runAll l s).time.plus units) :: l := rfl

/-- The sum, modulo 2^96 (R505). -/
theorem TimeState.whole_plus (t : TimeState) (units : Nat) : (t.plus units).whole = (t.whole + units) % 2 ^ 96 := by
  rw [TimeState.plus]
  generalize t.whole + units = w
  simp only [TimeState.setAcc, TimeState.whole, BitVec.toNat_ofNat]
  omega

theorem TimeState.whole_lt (t : TimeState) : t.whole < 2 ^ 96 := by
  have acc := t.acc.isLt
  have frac := t.frac.isLt
  simp only [TimeState.whole]
  omega

/-! ### A tick -/

/-- The words of TIME_STAT and TIME_RC, and of the page's events. -/
abbrev tickWords : Nat → Bool := ownWords [R.TIME_STAT.VALID.addr, R.TIME_RC.RATIO.addr] [0x02]

/-- The first tick after holdover leaves it; any other adds the increment. -/
def tickAdvance (s : State) : M Unit :=
  if s.fld R.TIME_STAT.HOLDOVER = 1 then (do wr R.TIME_STAT.HOLDOVER 0; setCond E.TIME.HOLDOVER false) else timeAdd s.increment

/-- The new rate, and the count of ticks and RC cycles, over the time base `x`. -/
def tickCount (rc rate : Nat) (x : TimeState) : M Unit :=
  if x.ticks + 1 = 1024 then (do
    wr R.TIME_RC.RATIO (x.rcCycles + rc)
    prim (.time { x with rate := BitVec.ofNat 32 rate, ticks := 0, rcCycles := 0 }))
  else prim (.time { x with rate := BitVec.ofNat 32 rate, ticks := x.ticks + 1, rcCycles := x.rcCycles + rc })

theorem timeTick_failed (rc : Nat) {s : State} (h : s.time.clkFailed = true) : (timeTick rc s []).2 = [] := by
  simp [timeTick, h]

theorem timeTick_runs (rc : Nat) {s : State} (h : s.time.clkFailed = false) :
    let l := (tickAdvance s s []).2
    (timeTick rc s []).2 = (tickCount rc (s.fld R.TIME_RATE.R_PPB) (runAll l s).time s l).2 := by
  by_cases hold : s.fld R.TIME_STAT.HOLDOVER = 1 <;> simp [timeTick, tickAdvance, tickCount, h, hold] <;> rfl

theorem within_tickAdvance (s : State) : Within [.time, .regs] tickWords (tickAdvance s) := by
  have clear := (within_clearEvent E.TIME.HOLDOVER (by decide)).mono (qs := [.time, .regs]) (g := tickWords) (by decide)
    fun a h => Bool.or_eq_true_iff.2 (.inr h)
  exact within_ite (within_bind (within_wr_one _ _ (by decide) (by decide) (by decide)) fun _ => clear)
    (within_bind within_getS fun _ => within_prim (by simp [Prim.pieces]) (by simp [Prim.pieces]))

theorem within_tickCount (rc rate : Nat) (x : TimeState) : Within [.time, .regs] tickWords (tickCount rc rate x) := by
  have time (x : TimeState) : Within [.time, .regs] tickWords (prim (.time x)) := within_prim (by simp [Prim.pieces]) (by simp [Prim.pieces])
  exact within_ite (within_bind (within_wr_one _ _ (by decide) (by decide) (by decide)) fun _ => time _) (time _)

/-- A tick leaves holdover, where the base was in it, and the time base as it was, or adds the increment. -/
theorem tickAdvance_runs (s : State) :
    let u := runAll (tickAdvance s s []).2 s
    u.time = (if s.fld R.TIME_STAT.HOLDOVER = 1 then s.time else s.time.plus s.increment) ∧ u.fld R.TIME_STAT.HOLDOVER = 0 := by
  by_cases hold : s.fld R.TIME_STAT.HOLDOVER = 1
  · simp only [tickAdvance, hold, if_true]
    have cond : Within [.regs] (eventWord [0x02]) (setCond E.TIME.HOLDOVER false) := within_clearEvent E.TIME.HOLDOVER (by decide)
    have store : Within [.regs] tickWords (wr R.TIME_STAT.HOLDOVER 0) := within_wr_one _ _ (by decide) (by decide) (by decide)
    have stored : (runAll (wr R.TIME_STAT.HOLDOVER 0 s []).2 s).time = s.time := (store.same .time (by decide) s []).symm
    refine ⟨((cond.same .time (by decide) s _).symm).trans stored, ?_⟩
    rw [M.bind_apply, cond.fld_clear (by decide), fld_wr_same _ _ (by decide), Nat.zero_mod]
  · have zero : s.fld R.TIME_STAT.HOLDOVER = 0 := by
      have lt : s.fld R.TIME_STAT.HOLDOVER < 2 ^ 1 := Nat.mod_lt _ (by decide)
      omega
    simp only [tickAdvance, hold, if_false]
    rw [timeAdd_apply]
    exact ⟨Prim.run_time _ _, (fld_time _ _ _).trans zero⟩

/-- The count of ticks and of RC cycles, and the rate. -/
theorem tickCount_runs (rc rate : Nat) (x : TimeState) (s : State) (l : List Prim) :
    let t := runAll (tickCount rc rate x s l).2 s
    t.fld R.TIME_STAT.HOLDOVER = (runAll l s).fld R.TIME_STAT.HOLDOVER ∧ t.time.seq = x.seq ∧ t.time.clk = x.clk
      ∧ t.time.rate = BitVec.ofNat 32 rate ∧ t.time.whole = x.whole
      ∧ (x.ticks + 1 = 1024 → t.time.ticks = 0 ∧ t.fld R.TIME_RC.RATIO = (x.rcCycles + rc) % 2 ^ 16)
      ∧ (x.ticks + 1 ≠ 1024 → t.time.ticks = x.ticks + 1 ∧ t.time.rcCycles = x.rcCycles + rc) := by
  by_cases full : x.ticks + 1 = 1024
  · simp only [tickCount, full, if_true, M.bind_apply, prim_apply, runAll_cons, Prim.run_time, fld_time, true_and]
    exact ⟨fld_wr_apart _ (by decide) s l, rfl, fun _ => fld_wr_same _ _ (by decide) s l, fun h => absurd rfl h⟩
  · simp only [tickCount, full, if_false, prim_apply, runAll_cons, Prim.run_time, fld_time, true_and]
    exact ⟨rfl, fun h => h.elim, fun _ => trivial⟩

theorem timeTick_frame (rc : Nat) (s : State) (h : s.time.clkFailed = false) :
    SameBut [.time, .regs] s (runM (timeTick rc) s) ∧ WordsBut tickWords s (runM (timeTick rc) s) := by
  rw [runM, timeTick_runs rc h]
  obtain ⟨same, words⟩ := (within_tickAdvance s).leaves_from s []
  obtain ⟨same', words'⟩ := (within_tickCount rc (s.fld R.TIME_RATE.R_PPB) (runAll (tickAdvance s s []).2 s).time).leaves_from s
    (tickAdvance s s []).2
  exact ⟨same.trans same', words.trans words'⟩

/-- A field of 32 bits is what it is as a word. -/
theorem fld_toNat_ofNat (s : State) {x : RegField} (h : x.hi - x.lo < 32) : (BitVec.ofNat 32 (s.fld x)).toNat = s.fld x := by
  rw [BitVec.toNat_ofNat]
  exact Nat.mod_eq_of_lt (Nat.lt_of_lt_of_le (Nat.mod_lt _ (Nat.two_pow_pos _)) (Nat.pow_le_pow_right (by decide) h))

theorem timeTick_clause (rc : BitVec 16) (s : State) (h : s.time.clkFailed = false) :
    let t := runM (timeTick rc.toNat) s
    t.time.seq = s.time.seq ∧ t.time.clk = (if s.fld R.TIME_STAT.HOLDOVER = 1 then s.time.clk else 0)
      ∧ t.fld R.TIME_STAT.HOLDOVER = 0 ∧ t.time.rate.toNat = s.fld R.TIME_RATE.R_PPB
      ∧ t.time.whole = (s.time.whole + if s.fld R.TIME_STAT.HOLDOVER = 1 then 0 else s.increment) % 2 ^ 96
      ∧ (s.time.ticks + 1 = 1024 → t.time.ticks = 0 ∧ t.fld R.TIME_RC.RATIO = (s.time.rcCycles + rc.toNat) % 2 ^ 16)
      ∧ (s.time.ticks + 1 ≠ 1024 → t.time.ticks = s.time.ticks + 1 ∧ t.time.rcCycles = s.time.rcCycles + rc.toNat) := by
  obtain ⟨time, hold⟩ := tickAdvance_runs s
  obtain ⟨hold', seq, clk, rate, whole, full, more⟩ := tickCount_runs rc.toNat (s.fld R.TIME_RATE.R_PPB) (runAll (tickAdvance s s []).2 s).time
    s (tickAdvance s s []).2
  rw [← timeTick_runs rc.toNat h] at hold' seq clk rate whole full more
  rw [time] at seq clk whole full more
  rw [runM]
  obtain ⟨plusSeq, plusClk, plusTicks, plusCycles, -⟩ := s.time.setAcc_rest (BitVec.ofNat 64 ((s.time.whole + s.increment) % 2 ^ 96 / 2 ^ 32))
    (BitVec.ofNat 32 ((s.time.whole + s.increment) % 2 ^ 96))
  have rate' := fld_toNat_ofNat s (x := R.TIME_RATE.R_PPB) (by decide)
  rw [TimeState.plus] at seq clk whole full more
  by_cases held : s.fld R.TIME_STAT.HOLDOVER = 1
  · simp only [if_pos held] at seq clk whole full more ⊢
    exact ⟨seq, clk, hold'.trans hold, by rw [rate, rate'], by rw [whole, Nat.add_zero, Nat.mod_eq_of_lt s.time.whole_lt], full, more⟩
  · simp only [if_neg held] at seq clk whole full more ⊢
    rw [plusTicks, plusCycles] at full more
    exact ⟨by rw [seq, plusSeq], by rw [clk, plusClk], hold'.trans hold, by rw [rate, rate'], by rw [whole, ← TimeState.plus, s.time.whole_plus], full, more⟩

/-! ### Holdover -/

/-- Where no span has been counted, a free value. -/
theorem rcIncrement_ratio {s : State} {l : List Prim} (h : (runAll l s).fld R.TIME_RC.RATIO ≠ 0) :
    rcIncrement s l = ((runAll l s).increment * 1024 / (runAll l s).fld R.TIME_RC.RATIO, l) := by
  simp only [rcIncrement, getS_bind, M.ite_apply, if_neg h, M.pure_apply]

/-- What the failure of the clock does before the RC's cycles are added. -/
def holdoverMarks : M Unit := do
  let s ← getS
  prim (.time { s.time with clkFailed := true, ticks := 0, rcCycles := 0 })
  wr R.TIME_STAT.HOLDOVER 1
  setCond E.TIME.HOLDOVER true
  wr R.TIME_STAT.SUSPENDED 1
  wr R.TIME_STAT.DISCIPLINED 0

/-- What the RC's cycles add (R508). -/
def holdoverAdd (cycles : Nat) : M Unit := if cycles ≠ 0 then (do timeAdd (cycles * (← rcIncrement))) else pure ()

theorem holdover_runs (cycles : Nat) (s : State) : (holdover cycles s []).2 = (holdoverAdd cycles s (holdoverMarks s []).2).2 := rfl

theorem within_rcIncrement : Within [.free] (fun _ => false) rcIncrement :=
  within_bind within_getS fun _ => within_ite (within_bind (within_fresh (by decide)) fun _ => within_pure _) (within_pure _)

theorem within_holdoverAdd (cycles : Nat) : Within [.free, .time] (fun _ => false) (holdoverAdd cycles) :=
  within_ite (within_bind (within_rcIncrement.mono (by decide) fun _ h => h) fun _ =>
    within_bind within_getS fun _ => within_prim (by simp [Prim.pieces]) (by simp [Prim.pieces])) (within_pure _)

theorem within_holdoverMarks : Within recordParts (ownWords [R.TIME_STAT.VALID.addr] [0x02]) holdoverMarks := by
  have regs : Piece.regs ∈ recordParts := by decide
  exact within_bind within_getS fun _ => within_bind (within_prim (by simp [Prim.pieces, recordParts]) (by simp [Prim.pieces])) fun _ =>
    within_bind (within_wr_one _ _ (by decide) regs (by decide)) fun _ =>
    within_bind ((within_setCond _ (by decide) _ _).mono (fun _ h => h) fun a h => Bool.or_eq_true_iff.2 (.inr h)) fun _ =>
    within_bind (within_wr_one _ _ (by decide) regs (by decide)) fun _ => within_wr_one _ _ (by decide) regs (by decide)

/-- The clock is marked as failed, and HOLDOVER shows. -/
theorem holdoverMarks_runs (s : State) :
    let u := runAll (holdoverMarks s []).2 s
    u.clock = { s.clock with clkFailed := true, ticks := 0, rcCycles := 0 } ∧ u.fld R.TIME_STAT.HOLDOVER = 1
      ∧ u.fld R.TIME_STAT.DISCIPLINED = 0 ∧ u.fld R.TIME_STAT.SUSPENDED = 1 ∧ u.shows E.TIME.HOLDOVER := by
  have keep (c : TimeState) (t u : State) (h : Records t u) (ht : t.clock = c) : u.clock = c := h.clock.trans ht
  have clock : Leads (fun t => t = s) holdoverMarks fun _ t => t.clock = { s.clock with clkFailed := true, ticks := 0, rcCycles := 0 } := by
    refine leads_getS fun u => leads_bind (leads_prim (Q := fun _ t => t.clock = { s.clock with clkFailed := true, ticks := 0, rcCycles := 0 }) ?_)
      fun _ => keeps_bind (keeps_recorder_wr (keep _) _ _) fun _ => keeps_bind (keeps_setCond (keep _) _ _ _) fun _ =>
        keeps_bind (keeps_recorder_wr (keep _) _ _) fun _ => keeps_recorder_wr (keep _) _ _
    rintro t ⟨rfl, rfl⟩
    rfl
  refine ⟨clock s [] rfl, ?_⟩
  simp only [holdoverMarks, M.bind_apply, State.shows]
  refine ⟨?_, ?_, ?_, ?_⟩
  · rw [fld_wr_apart _ (by decide), fld_wr_apart _ (by decide), fld_setCond (by decide) (by decide), fld_wr_same _ _ (by decide)]
    rfl
  · rw [fld_wr_same _ _ (by decide)]
    rfl
  · rw [fld_wr_apart _ (by decide), fld_wr_same _ _ (by decide)]
    rfl
  · rw [fld_wr_apart _ (by decide), fld_wr_apart _ (by decide)]
    exact setCond_shows (by decide) (by decide) (by decide) _ s _

theorem holdoverAdd_none (s : State) (l : List Prim) : (holdoverAdd 0 s l).2 = l := rfl

/-- The cycles add, each an RC cycle's increment, which is a free value where no span has been counted. -/
theorem holdoverAdd_runs {cycles : Nat} (hc : cycles ≠ 0) (s : State) (l : List Prim) :
    ∃ n, (runAll (holdoverAdd cycles s l).2 s).time = (runAll l s).time.plus n
      ∧ ((runAll l s).fld R.TIME_RC.RATIO ≠ 0 → n = cycles * ((runAll l s).increment * 1024 / (runAll l s).fld R.TIME_RC.RATIO)
          ∧ (runAll (holdoverAdd cycles s l).2 s).free = (runAll l s).free) := by
  have run : (holdoverAdd cycles s l).2 = (timeAdd (cycles * (rcIncrement s l).1) s (rcIncrement s l).2).2 := by
    simp only [holdoverAdd, hc, ne_eq, not_false_eq_true, if_true, M.bind_apply]
  have time : (runAll (rcIncrement s l).2 s).time = (runAll l s).time := (within_rcIncrement.same .time (by decide) s l).symm
  rw [run, timeAdd_apply, time, runAll_cons, Prim.run_time, Prim.run_free]
  refine ⟨_, rfl, fun ratio => ?_⟩
  rw [rcIncrement_ratio ratio]
  exact ⟨rfl, rfl⟩

theorem exec_holdover (cycles : BitVec 16) {s : State} (heeds : s.heeds) :
    ∃ t, exec (.holdover cycles) s = .next t ∧ SameBut (.free :: recordParts) s t ∧ WordsBut (ownWords [R.TIME_STAT.VALID.addr] [0x02]) s t
      ∧ (t.fld R.TIME_STAT.HOLDOVER = 1 ∧ t.fld R.TIME_STAT.DISCIPLINED = 0 ∧ t.fld R.TIME_STAT.SUSPENDED = 1 ∧ t.shows E.TIME.HOLDOVER)
      ∧ t.time.clkFailed = true ∧ (cycles = 0 → t.time.acc = s.time.acc ∧ t.time.frac = s.time.frac ∧ t.time.clk = s.time.clk)
      ∧ (cycles ≠ 0 → t.time.clk = 0) ∧ (s.fld R.TIME_RC.RATIO ≠ 0 → t.free = s.free ∧
          t.time.whole = (s.time.whole + cycles.toNat * (s.increment * 1024 / s.fld R.TIME_RC.RATIO)) % 2 ^ 96) := by
  let lm := (holdoverMarks s []).2
  obtain ⟨clock, hold, disc, susp, shows⟩ := holdoverMarks_runs s
  obtain ⟨same, words⟩ := within_holdoverMarks.leaves_from s []
  obtain ⟨same', words'⟩ := (within_holdoverAdd cycles.toNat).leaves_from s lm
  have stays (y : RegField) : (runAll (holdoverAdd cycles.toNat s lm).2 s).fld y = (runAll lm s).fld y :=
    (within_holdoverAdd cycles.toNat).fld_clear ⟨rfl, fun _ => rfl, fun _ => rfl⟩ s lm
  refine ⟨_, (waitable_heeds _ _ _ heeds).trans (by rw [exec1_eq, holdover_runs]), (same.mono (by decide)).trans (same'.mono (by decide)),
    words.trans (words'.mono (by simp)),
    ⟨(stays _).trans hold, (stays _).trans disc, (stays _).trans susp, by rw [State.shows, stays]; exact shows⟩, ?_⟩
  obtain ⟨acc, frac, clk, rate, failed⟩ := State.clock_fields clock
  change (runAll lm s).time.acc = s.time.acc at acc
  change (runAll lm s).time.frac = s.time.frac at frac
  change (runAll lm s).time.rate = s.time.rate at rate
  have whole : (runAll lm s).time.whole = s.time.whole := by rw [TimeState.whole, TimeState.whole, acc, frac]
  have ratio : (runAll lm s).fld R.TIME_RC.RATIO = s.fld R.TIME_RC.RATIO := words.fld (by decide)
  have increment : (runAll lm s).increment = s.increment := by rw [State.increment, State.increment, rate]
  have free : (runAll lm s).free = s.free := (same .free (by decide)).symm
  by_cases hc : cycles = 0
  · subst hc
    rw [show (0 : BitVec 16).toNat = 0 from rfl, holdoverAdd_none]
    refine ⟨failed, fun _ => ⟨acc, frac, clk⟩, fun h => absurd rfl h, fun _ => ⟨free, ?_⟩⟩
    rw [whole, Nat.zero_mul, Nat.add_zero, Nat.mod_eq_of_lt s.time.whole_lt]
  · have some : cycles.toNat ≠ 0 := fun h => hc (BitVec.eq_of_toNat_eq h)
    obtain ⟨n, time, counted⟩ := holdoverAdd_runs some s lm
    obtain ⟨-, clk0, -, -, fail⟩ := (runAll lm s).time.setAcc_rest (BitVec.ofNat 64 (((runAll lm s).time.whole + n) % 2 ^ 96 / 2 ^ 32))
      (BitVec.ofNat 32 (((runAll lm s).time.whole + n) % 2 ^ 96))
    rw [time]
    refine ⟨fail.trans failed, fun h => absurd h hc, fun _ => clk0, fun counts => ?_⟩
    obtain ⟨hn, free'⟩ := counted (by rwa [ratio])
    rw [TimeState.whole_plus, hn, whole, increment, ratio]
    exact ⟨free'.trans free, rfl⟩

end Sys2Proof.Machine
end

section
/-! Discipline, the nonce and the alarm (R511, R515, R516), and the statement of the time base. -/
namespace Sys2Proof.Machine
open Sys2Proof

/-! ### Discipline -/

/-- The words of TIME_STAT, TIME_RATE and TIME_OFFSET, and of the page's events. -/
abbrev discWords : Nat → Bool :=
  ownWords [R.TIME_STAT.VALID.addr, R.TIME_RATE.R_PPB.addr, R.TIME_OFFSET.OFF.addr, R.TIME_OFFSET.OFF.addr + 4] [0x02]

theorem within_setRate (r : Int) (limit : Nat) : Within recordParts discWords (setRate r limit) := by
  refine within_bind within_getS fun _ => within_bind (within_wr_one _ _ (by decide) (by decide) (by decide)) fun _ => within_ite ?_ (within_pure _)
  exact (within_pageEntry _ _ _ _).mono (fun _ h => h) fun a h => Bool.or_eq_true_iff.2 (.inr (eventWord_mono (by simp) a h))

theorem within_strobeGap : Within recordParts discWords strobeGap := by
  have regs : Piece.regs ∈ recordParts := by decide
  refine within_bind (within_wr_one _ _ (by decide) regs (by decide)) fun _ => within_bind (within_wr_one _ _ (by decide) regs (by decide)) fun _ => ?_
  exact (within_unitAlarm_zero _).mono (fun _ h => h) fun a h => Bool.or_eq_true_iff.2 (.inr (eventWord_mono (by simp) a h))

/-- The new rate. -/
theorem fld_setRate (r : Int) (limit : Nat) (s : State) (l : List Prim) :
    (runAll (setRate r limit s l).2 s).fld R.TIME_RATE.R_PPB = (BitVec.ofInt 32 r).toNat := by
  simp only [setRate, ↓getS_bind, M.bind_apply, M.ite_apply]
  have stored := (fld_wr_same R.TIME_RATE.R_PPB (BitVec.ofInt 32 r).toNat (by decide) s l).trans (Nat.mod_eq_of_lt (BitVec.isLt _))
  split
  · rw [(within_pageEntry _ _ _ _).fld_clear (by decide)]
    exact stored
  · exact stored

/-- A field of another word than TIME_RATE, and no event word. -/
theorem fld_setRate_apart {y : RegField} (h : R.TIME_RATE.R_PPB.Apart y) (hy : y.Clear (eventWord [])) (r : Int) (limit : Nat) (s : State)
    (l : List Prim) : (runAll (setRate r limit s l).2 s).fld y = (runAll l s).fld y := by
  simp only [setRate, ↓getS_bind, M.bind_apply, M.ite_apply]
  split
  · rw [(within_pageEntry _ _ _ _).fld_clear hy, fld_wr_apart _ h]
  · exact fld_wr_apart _ h s l

/-- A strobe gap suspends discipline and is an alarm (R54). -/
theorem strobeGap_runs (s : State) (l : List Prim) :
    let t := runAll (strobeGap s l).2 s
    t.fld R.TIME_STAT.SUSPENDED = 1 ∧ t.fld R.TIME_STAT.DISCIPLINED = 0 ∧ recorded 0x02 0x0020 (alarmPayload 0 0 0 false 0x02) t
      ∧ t.fld R.TIME_RATE.R_PPB = (runAll l s).fld R.TIME_RATE.R_PPB := by
  simp only [strobeGap, M.bind_apply]
  refine ⟨?_, ?_, unitAlarm_recorded 0x02 s _ trivial, ?_⟩
  · rw [(within_unitAlarm_zero _).fld_clear (by decide), fld_wr_apart _ (by decide), fld_wr_same _ _ (by decide)]
    rfl
  · rw [(within_unitAlarm_zero _).fld_clear (by decide), fld_wr_same _ _ (by decide)]
    rfl
  · rw [(within_unitAlarm_zero _).fld_clear (by decide), fld_wr_apart _ (by decide), fld_wr_apart _ (by decide)]

/-- What a measured strobe leads to: the rate, and whether discipline is suspended. -/
def strobeRate (far : Bool) (r : Int) (limit : Nat) : M Unit := do
  setRate r limit
  wr R.TIME_STAT.SUSPENDED (b2n far)
  wr R.TIME_STAT.DISCIPLINED (b2n !far)
  setCond E.TIME.DISC_FAR far

theorem strobeRate_runs (far : Bool) (r : Int) (limit : Nat) (s : State) (l : List Prim) :
    let t := runAll (strobeRate far r limit s l).2 s
    t.fld R.TIME_OFFSET.OFF = (runAll l s).fld R.TIME_OFFSET.OFF ∧ t.fld R.TIME_RATE.R_PPB = (BitVec.ofInt 32 r).toNat
      ∧ t.fld R.TIME_STAT.SUSPENDED = b2n far ∧ t.fld R.TIME_STAT.DISCIPLINED = b2n !far ∧ (far = true → t.shows E.TIME.DISC_FAR) := by
  simp only [strobeRate, M.bind_apply]
  refine ⟨?_, ?_, ?_, ?_, ?_⟩
  · rw [fld_setCond (by decide) (by decide), fld_wr_apart _ (by decide), fld_wr_apart _ (by decide), fld_setRate_apart (by decide) (by decide)]
  · rw [fld_setCond (by decide) (by decide), fld_wr_apart _ (by decide), fld_wr_apart _ (by decide), fld_setRate]
  · rw [fld_setCond (by decide) (by decide), fld_wr_apart _ (by decide), fld_wr_same _ _ (by decide)]
    cases far <;> rfl
  · rw [fld_setCond (by decide) (by decide), fld_wr_same _ _ (by decide)]
    cases far <;> rfl
  · rintro rfl
    exact setCond_shows (by decide) (by decide) (by decide) _ s _

/-- The offset of a strobe, and the rate that it asks for (R511). -/
def State.strobeOff (s : State) (seconds nanos : Nat) : Int := ((seconds : Int) - s.fld R.TIME_EPOCH_PTP_S.SECONDS) * 1000000000 + nanos - s.now.toNat
def State.strobeNear (s : State) (off : Int) : Int := max (-(s.slewMax : Int)) (min s.slewMax (off.tdiv s.discTau))

theorem ptpStrobe_bad {s : State} (on : s.disciplining = true) (seconds : Nat) {nanos : Nat} (h : 1000000000 ≤ nanos) :
    (ptpStrobe seconds nanos s []).2 = (strobeGap s []).2 := by
  simp [ptpStrobe, on, h]

theorem ptpStrobe_runs {s : State} (on : s.disciplining = true) (seconds : Nat) {nanos : Nat} (h : nanos < 1000000000) :
    let off := s.strobeOff seconds nanos
    let far := decide (s.discFar < off.natAbs)
    (ptpStrobe seconds nanos s []).2 = (strobeRate far (if far then 0 else s.strobeNear off) s.slewMax s
      (wr R.TIME_OFFSET.OFF (BitVec.ofInt 64 off).toNat s []).2).2 := by
  have small : ¬ 1000000000 ≤ nanos := by omega
  intro off far
  have body : (ptpStrobe seconds nanos s []).2 = (((do
      wr R.TIME_OFFSET.OFF (BitVec.ofInt 64 off).toNat
      if s.discFar < off.natAbs then strobeRate true 0 s.slewMax
      else strobeRate false (s.strobeNear off) s.slewMax) : M Unit) s []).2 := by
    rw [ptpStrobe, getS_bind, if_pos (show (runAll [] s).disciplining = true from on), if_neg small]
    rfl
  rw [body, M.bind_apply, M.ite_apply]
  by_cases h : s.discFar < off.natAbs
  · simp only [far, h, if_true, decide_true]
  · simp only [far, h, if_false, decide_false, Bool.false_eq_true]

/-- The footprint of a strobe. -/
theorem within_ptpStrobe (seconds nanos : Nat) : Within recordParts discWords (ptpStrobe seconds nanos) := by
  have regs : Piece.regs ∈ recordParts := by decide
  have stat (x : RegField) (v : Nat) (h : discWords x.addr = true ∧ x.hi < 32) : Within recordParts discWords (wr x v) :=
    within_wr_one x v h.2 regs h.1
  have cond (b : Bool) : Within recordParts discWords (setCond E.TIME.DISC_FAR b) :=
    (within_setCond _ (by decide) _ _).mono (fun _ h => h) fun a h => Bool.or_eq_true_iff.2 (.inr h)
  have measured (r : Int) (limit a b : Nat) (c : Bool) : Within recordParts discWords (do
      setRate r limit
      wr R.TIME_STAT.SUSPENDED a
      wr R.TIME_STAT.DISCIPLINED b
      setCond E.TIME.DISC_FAR c) :=
    within_bind (within_setRate _ _) fun _ => within_bind (stat _ _ (by decide)) fun _ => within_bind (stat _ _ (by decide)) fun _ => cond c
  refine within_bind within_getS fun _ => within_ite (within_ite within_strobeGap (within_bind ?_ fun _ =>
    within_ite (measured _ _ _ _ _) (measured _ _ _ _ _))) (within_pure _)
  exact within_wr _ _ regs (by decide) (fun _ => by decide) fun h => absurd h (by decide)

/-! ### The nonce and the alarm -/

theorem timeAlarm_runs {s : State} (en : s.fld R.TIME_ALARM_CTL.EN = 1) (due : s.fld R.TIME_ALARM.AT ≤ s.now.toNat) :
    (timeAlarm s []).2 = (((if s.fld R.WAKE_SRC_EN.ALARM = 1 then wakeBy 0x5 0 0 else pure ()) : M Unit) s
      (raise E.TIME.ALARM .other s (wr R.TIME_ALARM_CTL.EN 0 s []).2).2).2 := by
  rw [timeAlarm, getS_bind, if_pos (show (runAll [] s).fld R.TIME_ALARM_CTL.EN = 1 ∧ (runAll [] s).fld R.TIME_ALARM.AT ≤ (runAll [] s).now.toNat
    from ⟨en, due⟩)]
  rfl

theorem within_timeAlarm : Within wakeParts (ownPages [0x02, 0x05, 0x3C] [0x02, 0x05, 0x3C]) timeAlarm := by
  refine within_bind within_getS fun _ => within_ite ?_ (within_pure _)
  refine within_bind (within_wr_page _ _ (by decide) (by decide) (by decide) (by decide)) fun _ => within_bind ?_ fun _ => within_ite ?_ (within_pure _)
  · exact (within_raise _ (by decide) _).mono (fun _ h => List.mem_cons_of_mem _ h) fun a h => eventWord_ownPages _ _ a (eventWord_mono (by decide) a h)
  · exact (within_wakeBy _ _ _).mono (fun _ h => h) (ownPages_mono (by simp) (by simp))

/-- The alarm disables itself, shows, and with its source enabled wakes Otist. -/
theorem exec_alarm {s : State} (heeds : s.heeds) (en : s.fld R.TIME_ALARM_CTL.EN = 1) (due : s.fld R.TIME_ALARM.AT ≤ s.now.toNat) :
    ∃ t, exec .alarm s = .next t ∧ SameBut (.power :: recordParts) s t ∧ WordsBut (ownPages [0x02, 0x05, 0x3C] [0x02, 0x05, 0x3C]) s t
      ∧ t.fld R.TIME_ALARM_CTL.EN = 0 ∧ t.shows E.TIME.ALARM
      ∧ (s.fld R.WAKE_SRC_EN.ALARM = 1 → wakes 0x5 0 0 s t) ∧ (s.fld R.WAKE_SRC_EN.ALARM = 0 → t.power = s.power) := by
  let l := (raise E.TIME.ALARM .other s (wr R.TIME_ALARM_CTL.EN 0 s []).2).2
  obtain ⟨same, words⟩ := within_timeAlarm.leaves s
  have alarm : (runAll l s).fld R.TIME_ALARM_CTL.EN = 0 := by
    rw [fld_raise (by decide) (by decide), fld_wr_same _ _ (by decide), Nat.zero_mod]
  have shows : (runAll l s).shows E.TIME.ALARM := raise_shows _ (by decide) (by decide) (by decide) _ s _
  have stays (y : RegField) (h : R.TIME_ALARM_CTL.EN.Apart y) (hy : y.Clear (eventWord [0x02])) : (runAll l s).fld y = s.fld y :=
    (fld_raise (by decide) hy _ s _).trans (fld_wr_apart 0 h s [])
  have store : Within [.regs] (ownWords [R.TIME_ALARM_CTL.EN.addr] []) (wr R.TIME_ALARM_CTL.EN 0) :=
    within_wr_one _ _ (by decide) (by decide) (by decide)
  have power : (runAll l s).power = s.power :=
    ((within_raise E.TIME.ALARM (by decide) .other).same .power (by decide) s _).symm.trans (store.same .power (by decide) s []).symm
  refine ⟨_, waitable_heeds _ _ _ heeds, same, words, ?_⟩
  rw [runM, timeAlarm_runs en due]
  have foot : Within wakeParts (ownPages [0x05, 0x3C] [0x05, 0x3C]) (if s.fld R.WAKE_SRC_EN.ALARM = 1 then wakeBy 0x5 0 0 else pure ()) :=
    within_ite (within_wakeBy _ _ _) (within_pure _)
  refine ⟨(foot.fld_clear (by decide) s l).trans alarm, ?_, fun on => ?_, fun off => ?_⟩
  · rw [State.shows, foot.fld_clear (by decide)]
    exact shows
  · have wakes := wakeBy_wakes 0x5 0 0 s l
    simp only [Machine.wakes, woken, State.power', stays _ (show R.TIME_ALARM_CTL.EN.Apart R.POWER_STAT.STATE by decide) (by decide),
      stays _ (show R.TIME_ALARM_CTL.EN.Apart R.POWER_STAT.STEP by decide) (by decide),
      stays _ (show R.TIME_ALARM_CTL.EN.Apart R.WAKE_LOG_PTR.NEXT by decide) (by decide), power] at wakes
    rw [if_pos on]
    exact wakes
  · have disabled : ¬ s.fld R.WAKE_SRC_EN.ALARM = 1 := by omega
    rw [if_neg disabled]
    exact power

theorem exec_nonceExpire (s : State) : ∃ t, exec .nonceExpire s = .next t ∧ SameBut [.time] s t
    ∧ (s.liveNonce = none → t.time = { s.time with nonceAt := none }) ∧ (s.liveNonce.isSome = true → t.time = s.time) := by
  let m : M Unit := do
    let s ← getS
    if s.liveNonce.isNone then prim (.time { s.time with nonceAt := none })
  have foot : Within [.time] (fun _ => false) m :=
    within_bind within_getS fun _ => within_ite (within_prim (by simp [Prim.pieces]) (by simp [Prim.pieces])) (within_pure _)
  refine ⟨runM m s, rfl, (foot.leaves s).1, fun h => ?_, fun h => ?_⟩
  · simp [runM, m, h]
  · have live : s.liveNonce ≠ none := Option.isSome_iff_ne_none.1 h
    simp [runM, m, live]

/-! ### The statement -/

/-- Settles O18: each command is one of the programs above, whose footprint and effect their lemmas give. -/
theorem timeBase : Obligations.TimeBase := by
  intro s
  refine ⟨fun rc => ?_, fun cycles heeds => ?_, ?_, fun seconds nanos heeds on => ?_, fun on => ?_, exec_nonceExpire s, exec_alarm⟩
  · cases failed : s.time.clkFailed
    · obtain ⟨same, words⟩ := timeTick_frame rc.toNat s failed
      obtain ⟨seq, rest⟩ := timeTick_clause rc s failed
      exact ⟨_, rfl, same, words, seq, fun h => absurd h (by simp), fun _ => rest⟩
    · have still : runM (timeTick rc.toNat) s = s := by rw [runM, timeTick_failed _ failed, runAll_nil]
      refine ⟨s, (congrArg Host.Outcome.next still : exec1 _ s = _), fun _ _ => Piece.same_refl _ s, fun _ _ => rfl, rfl, fun _ => ⟨rfl, rfl⟩, fun h => absurd h (by simp)⟩
  · obtain ⟨t, run, same, words, ⟨hold, disc, susp, shows⟩, clkFailed, zero, some, counted⟩ := exec_holdover cycles heeds
    exact ⟨t, run, same, words, clkFailed, hold, disc, susp, shows, zero, some, counted⟩
  · have foot : Within [.time] (fun _ => false) (do prim (.time { (← getS).time with clkFailed := false })) :=
      within_bind within_getS fun _ => within_prim (by simp [Prim.pieces]) (by simp [Prim.pieces])
    exact ⟨_, rfl, (foot.leaves s).1, rfl⟩
  · obtain ⟨same, words⟩ := (within_ptpStrobe seconds.toNat nanos.toNat).leaves s
    refine ⟨_, waitable_heeds _ _ _ heeds, ⟨same, words⟩, fun bad => ?_, fun good => ?_⟩
    · rw [runM, ptpStrobe_bad on _ bad]
      exact strobeGap_runs s []
    · rw [runM, ptpStrobe_runs on _ good]
      obtain ⟨off, rate, susp, disc, shows⟩ := strobeRate_runs (decide (s.discFar < (s.strobeOff seconds.toNat nanos.toNat).natAbs))
        (if decide (s.discFar < (s.strobeOff seconds.toNat nanos.toNat).natAbs) then 0 else s.strobeNear (s.strobeOff seconds.toNat nanos.toNat))
        s.slewMax s (wr R.TIME_OFFSET.OFF (BitVec.ofInt 64 (s.strobeOff seconds.toNat nanos.toNat)).toNat s []).2
      refine ⟨?_, fun far => ?_, fun near => ?_⟩
      · rw [off, fld_wr_same _ _ (by decide)]
        exact Nat.mod_eq_of_lt (BitVec.isLt _)
      · have far' : s.discFar < (s.strobeOff seconds.toNat nanos.toNat).natAbs := far
        simp only [far', decide_true, if_true] at rate susp disc shows ⊢
        exact ⟨rate, susp, disc, shows trivial⟩
      · have near' : ¬ s.discFar < (s.strobeOff seconds.toNat nanos.toNat).natAbs := Nat.not_lt.2 near
        simp only [near', decide_false, Bool.false_eq_true, if_false] at rate susp disc ⊢
        exact ⟨rate, susp, disc⟩
  · obtain ⟨same, words⟩ := within_strobeGap.leaves s
    have run : exec .ptpStrobeGap s = exec1 strobeGap s := by
      show exec1 _ s = _
      simp [exec1_eq, on]
    obtain ⟨susp, disc, alarm, -⟩ := strobeGap_runs s []
    exact ⟨_, run, ⟨same, words⟩, susp, disc, alarm⟩

end Sys2Proof.Machine
end

section
/-! Faults of the queue engine (R39, R167, R586). -/
namespace Sys2Proof.Machine
open Sys2Proof

variable {α : Type}

/-! ### Footprints of the queue engine -/

/-- The words of the queue engine's pages. -/
abbrev engineWords : Nat → Bool := ownPages queueWords queueWords

theorem queuePage_mem : ∀ p < 0x18, 0x10 ≤ p → p ∈ queueWords := by decide

/-- A field in the pages of the queues, above the header. -/
abbrev RegField.OfQueue (x : RegField) : Prop := 0x10000 ≤ x.addr ∧ x.addr < 0x18000 ∧ 0x40 ≤ x.addr % 0x1000 ∧ x.hi < 32

theorem within_wr_queue {x : RegField} (v : Nat) (h : x.OfQueue) : Within recordParts engineWords (wr x v) :=
  within_wr_page x v (by decide) (queuePage_mem _ (by omega) (by omega)) h.2.2.1 (.inl h.2.2.2)

/-- What recording an event of one of the pages changes. -/
theorem within_queueEvent {m : M α} (p : Nat) (h : Within recordParts (eventWord [p]) m) (hp : p ∈ queueWords) :
    Within recordParts engineWords m :=
  h.mono (fun _ h => h) fun a ha => eventWord_ownPages _ _ a (eventWord_mono (by simpa using hp) a ha)

/-- What changes no more than recording does. -/
theorem Within.ofEngine {m : M α} (h : Within recordParts engineWords m) : Within queueParts engineWords m := h.mono (by decide) fun _ h => h

theorem within_pairRefresh (q : Nat) : Within recordParts engineWords (pairRefresh q) := by
  have tenant (t : Nat) : Within recordParts engineWords (tenantRefresh t) := by
    have store {x : RegField} (v : Nat) (h : x.OfQueue) := within_wr_queue v h
    refine within_bind within_getS fun s => ?_
    dsimp only
    refine within_bind (store _ ?_) fun _ => within_bind (store _ ?_) fun _ => within_bind (store _ ?_) fun _ => within_bind (store _ ?_) fun _ =>
      within_bind (store _ ?_) fun _ => within_bind (store _ ?_) fun _ => within_bind (store _ ?_) fun _ => within_bind (store _ ?_) fun _ =>
      within_bind (store _ ?_) fun _ => within_queueEvent _ (within_setCond _ ?_ _ _) (queuePage_mem _ ?_ ?_)
    all_goals
      simp only [RegField.OfQueue, R.QUEUE_TNT_USE_A.CELLAR, R.QUEUE_TNT_USE_A.EXEC, R.QUEUE_TNT_USE_B.SLOTS, R.QUEUE_TNT_USE_B.ASSOC,
        R.QUEUE_TNT_STAT.EXEC_OVER, R.QUEUE_TNT_STAT.CELLAR_OVER, R.QUEUE_TNT_STAT.SLOTS_OVER, R.QUEUE_TNT_STAT.ASSOC_OVER,
        R.QUEUE_TNT_STAT.CHRON_PAUSED, E.QUEUE.QUOTA_OVER]
      omega
  refine within_bind within_getS fun s => within_bind (within_wr_queue _ ?_) fun _ => within_bind (within_wr_queue _ ?_) fun _ => tenant _
  all_goals
    simp only [RegField.OfQueue, R.QUEUE_Q_STAT.EXEC, R.QUEUE_Q_STAT.HELD]
    omega

theorem within_setDescs (q : Nat) (ds : List QDesc) : Within queueParts engineWords (setDescs q ds) :=
  within_bind (within_prim (by simp [Prim.pieces, queueParts]) (by simp [Prim.pieces])) fun _ => (within_pairRefresh q).ofEngine

theorem within_modDesc (q : Nat) (seq : BitVec 32) (f : QDesc → QDesc) : Within queueParts engineWords (modDesc q seq f) :=
  within_bind within_getS fun _ => within_setDescs q _

/-- The token that an entry takes lies in QUEUE_TNT_STAT. -/
abbrev tokenWord (a : Nat) : Bool := decide (0x10000 ≤ a ∧ a < 0x18000 ∧ a % 0x1000 = 0x54)

/-- What follows the event's bit: its entry, and the token. -/
theorem within_tenantEntry (e : PageEvent) (q t : Nat) : Within recordParts (fun a => tokenWord a || eventWord [] a) (do
    let s ← getS
    let (code, payload) := (none : Option (BitVec 16 × BitVec 96)).getD (pageEventCode e, pageEventPayload (s.fld (R.PG_EVT_RAW.EVT e.page)))
    raiseItem (← stamp) e.page (tenantReq t (s.queueRid q).toNat) code [payload] .other (auditPage e.page)
    takeToken t) := by
  have store (x : RegField) (v : Nat) (h : tokenWord x.addr = true ∧ x.hi < 32) :
      Within recordParts (fun a => tokenWord a || eventWord [] a) (wr x v) :=
    within_wr_one x v h.2 (by decide) (by simp [h.1])
  have word : tokenWord (R.QUEUE_TNT_STAT.TOKENS t).addr = true ∧ tokenWord (R.QUEUE_TNT_STAT.CHRON_PAUSED t).addr = true := by
    constructor <;> refine decide_eq_true ?_ <;> simp only [R.QUEUE_TNT_STAT.TOKENS, R.QUEUE_TNT_STAT.CHRON_PAUSED] <;> omega
  refine within_bind within_getS fun s => within_bind (within_stamp (by decide)) fun st => within_bind ?_ fun _ => within_bind within_getS fun _ => ?_
  · exact (within_raiseItem _ _ _ _ _ _ _).mono (fun _ h => h) fun a h => by simp [h]
  · exact within_bind (store _ _ ⟨word.1, by simp [R.QUEUE_TNT_STAT.TOKENS]⟩) fun _ => within_bind within_getS fun _ =>
      store _ _ ⟨word.2, by simp [R.QUEUE_TNT_STAT.CHRON_PAUSED]⟩

theorem within_raiseTenant (e : PageEvent) (he : e.page < 64) (q t : Nat) :
    Within recordParts (fun a => tokenWord a || eventWord [e.page] a) (raiseTenant e q t) :=
  within_bind ((within_setEvent e he).mono (by decide) fun a h => by simp [h]) fun _ =>
    (within_tenantEntry e q t).mono (fun _ h => h) fun a h => by
      rcases Bool.or_eq_true_iff.1 h with h | h
      · simp [h]
      · simp [eventWord_mono (k := [e.page]) (by simp) a h]

/-- An event of a tenant shows. -/
theorem raiseTenant_shows {e : PageEvent} (hp : e.page < 64) (h3 : e.page ≠ 3) (hb : e.bit < 32) (q t : Nat) (s : State) (l : List Prim) :
    (runAll (raiseTenant e q t none s l).2 s).shows e := by
  have raw : (R.PG_EVT_RAW.EVT e.page).Clear (fun a => tokenWord a || eventWord [] a) := by
    have h1 : (0x1000 * (e.page % 64) + 0x10) / 0x1000 = e.page := by omega
    have h2 : 0x1000 * (e.page % 64) + 0x10 ≠ 0x3058 := by omega
    have h4 : (0x1000 * (e.page % 64) + 0x10) % 0x1000 = 0x10 := by omega
    exact ⟨by simp [tokenWord, eventWord, R.PG_EVT_RAW.EVT, h1, h2, h3], by simp [R.PG_EVT_RAW.EVT], by simp [R.PG_EVT_RAW.EVT]⟩
  have leads : Leads (fun _ => True) (raiseTenant e q t) fun _ t => t.shows e := by
    refine leads_bind (R := fun _ t => t.shows e) (fun s l _ => setEvent_shows e hb s l) fun _ s l h => ?_
    rw [State.shows, (within_tenantEntry e q t).fld_clear raw s l]
    exact h
  exact leads s l trivial

theorem within_raiseTenant_engine (e : PageEvent) (hp : e.page ∈ queueWords) (he : e.page < 64) (q t : Nat) :
    Within queueParts engineWords (raiseTenant e q t) := by
  refine (within_raiseTenant e he q t).mono (by decide) fun a h => ?_
  rcases Bool.or_eq_true_iff.1 h with h | h
  · simp only [tokenWord, decide_eq_true_eq] at h
    simp only [engineWords, ownPages, Bool.or_eq_true, Bool.and_eq_true, List.contains_eq_mem, decide_eq_true_eq]
    exact .inl ⟨queuePage_mem _ (by omega) (by omega), by omega⟩
  · exact eventWord_ownPages _ _ a (eventWord_mono (by simpa using hp) a h)

/-- What giving up an entry's work changes: the queues are no part of it. -/
abbrev entryParts : List Piece := [.drawn, .cellar, .cmdLate, .keys, .rng, .slots, .sched] ++ recordParts

theorem Within.ofEntry {m : M α} (h : Within entryParts engineWords m) : Within queueParts engineWords m := h.mono (by decide) fun _ h => h

/-- A command of the SLOTS page ended for want of its load. -/
theorem within_swapFail (n : Nat) : Within entryParts engineWords (swapFail n) := by
  have stop : Within entryParts engineWords (cmdEnd U.slots rcState) := by
    refine within_cmdEnd U.slots rcState (by decide) (by decide) (by decide) (by decide) (by decide) fun e he => ?_
    cases he
    exact ⟨by decide, fun a h => eventWord_ownPages _ _ a (eventWord_mono (by decide) a h)⟩
  refine within_bind within_getS fun _ => within_bind within_getS fun _ => within_ite (within_bind ?_ fun _ => within_bind ?_ fun _ => ?_) (within_pure _)
  · exact within_prim (by simp [Prim.pieces, entryParts]) (by simp [Prim.pieces])
  · exact (within_queueEvent _ (within_setCond _ (by decide) _ _) (by decide)).mono (by decide) fun _ h => h
  · exact within_cmdStop _ _ stop

theorem within_dropQueuedOf (e : Nat) : Within entryParts engineWords (dropQueuedOf e) :=
  within_bind within_getS fun _ => within_forM _ fun _ => within_ite
    (within_bind (within_prim (by simp [Prim.pieces, entryParts]) (by simp [Prim.pieces])) fun _ => within_swapFail _) (within_pure _)

/-! ### The end of a descriptor -/

/-- The random bytes, loads and requests that an entry's descriptor holds are given up. -/
def giveUp (e : Nat) : M Unit := do
  prim (.drawn e [])
  prim (.blinded e [])
  dropQueuedOf e
  let r := (← getS).rng
  prim (.rng { r with reqs := r.reqs.filter fun x => x.user ≠ .entry e ∧ x.user ≠ .blind e })

theorem within_giveUp (e : Nat) : Within entryParts engineWords (giveUp e) :=
  within_bind (within_prim (by simp [Prim.pieces, entryParts]) (by simp [Prim.pieces])) fun _ =>
    within_bind (within_prim (by simp [Prim.pieces, entryParts]) (by simp [Prim.pieces])) fun _ =>
    within_bind (within_dropQueuedOf e) fun _ => within_bind within_getS fun _ =>
    within_prim (by simp [Prim.pieces, entryParts]) (by simp [Prim.pieces])

/-- The end of an entry's item. -/
def releaseEntry (o : Option Nat) : M Unit := match o with
  | some e => do
    modEntry e fun c => { c with st := .releasing, result := some stBusErr }
    giveUp e
  | none => pure ()

theorem within_releaseEntry (o : Option Nat) : Within entryParts engineWords (releaseEntry o) := by
  cases o with
  | some e => exact within_bind (within_modEntry _ _ (by decide)) fun _ => within_giveUp e
  | none => exact within_pure _

/-- A descriptor that has ended with BUS_ERR. -/
def QDesc.failed (result : Bytes) (x : QDesc) : QDesc := { x with phase := .ended, status := stBusErr, result := result, written := [] }

/-- The descriptors that have a number end, and the pair's error register names the operation. -/
def markEnds (q : Nat) (seq : BitVec 32) (result : Bytes) (d : QDesc) (ds : List QDesc) : M Unit := do
  setDescs q (ds.map fun x => if x.seq = seq then x.failed result else x)
  wr (R.QUEUE_Q_ERR.LAST_OP q) (d.bytes.getD 0 0).toNat
  wr (R.QUEUE_Q_ERR.LAST_STATUS q) stBusErr

theorem ofQueue_err (q : Nat) : (R.QUEUE_Q_ERR.LAST_OP q).OfQueue ∧ (R.QUEUE_Q_ERR.LAST_STATUS q).OfQueue := by
  simp only [RegField.OfQueue, R.QUEUE_Q_ERR.LAST_OP, R.QUEUE_Q_ERR.LAST_STATUS]
  omega

theorem within_markEnds (q : Nat) (seq : BitVec 32) (result : Bytes) (d : QDesc) (ds : List QDesc) :
    Within queueParts engineWords (markEnds q seq result d ds) :=
  within_bind (within_setDescs q _) fun _ =>
    within_bind (within_wr_queue _ (ofQueue_err q).1).ofEngine fun _ => (within_wr_queue _ (ofQueue_err q).2).ofEngine

/-- BUS_ERR ends the descriptors that have the number of one that is there. -/
theorem endDesc_busErr {q : Nat} {seq : BitVec 32} {d : QDesc} {s : State} {l : List Prim}
    (found : ((runAll l s).descs q).find? (fun x => decide (x.seq = seq)) = some d) (result : Bytes) :
    (endDesc q seq stBusErr false result s l).2 = (markEnds q seq result d ((runAll l s).descs q) s (releaseEntry d.entry s l).2).2 := by
  unfold endDesc
  rw [getS_bind]
  simp only [found]
  cases d.entry <;> rfl

theorem endDesc_none {q : Nat} {seq : BitVec 32} {s : State} {l : List Prim}
    (none : ((runAll l s).descs q).find? (fun x => decide (x.seq = seq)) = none) (result : Bytes) :
    (endDesc q seq stBusErr false result s l).2 = l := by
  unfold endDesc
  rw [getS_bind]
  simp only [none, M.pure_apply]

theorem within_endDesc (q : Nat) (seq : BitVec 32) (result : Bytes) : Within queueParts engineWords (endDesc q seq stBusErr false result) := by
  intro s l
  cases h : ((runAll l s).descs q).find? fun x => decide (x.seq = seq) with
  | none => exact ⟨[], by rw [endDesc_none h, List.nil_append], by simp⟩
  | some d =>
    rw [endDesc_busErr h, ← M.bind_apply (releaseEntry d.entry) fun _ => markEnds q seq result d ((runAll l s).descs q)]
    exact within_bind (within_releaseEntry d.entry).ofEntry (fun _ => within_markEnds q seq result d _) s l

/-! ### The descriptors of a pair -/

theorem State.descs_congr {t u : State} (h : t.queues = u.queues) (q : Nat) : t.descs q = u.descs q := by rw [State.descs, State.descs, h]

/-- What leaves the queues alone leaves their descriptors. -/
theorem Within.descs {ps : List Piece} {f : Nat → Bool} {m : M α} (h : Within ps f m) (hq : .queues ∉ ps) (q : Nat) (s : State) (l : List Prim) :
    (runAll (m s l).2 s).descs q = (runAll l s).descs q := State.descs_congr (h.same .queues hq s l).symm q

/-- `setDescs` replaces the descriptors of its pair. -/
theorem setDescs_descs (q p : Nat) (ds : List QDesc) (s : State) (l : List Prim) :
    (runAll (setDescs q ds s l).2 s).descs p = if p = q then ds else (runAll l s).descs p := by
  rw [setDescs, M.bind_apply, (within_pairRefresh q).descs (by decide)]
  simp only [prim_apply, runAll_cons, State.descs, Prim.run_queues]
  split
  · rename_i h
    rw [h, mget_mset_same]
  · rename_i h
    rw [mget_mset_other _ _ _ _ _ h]

theorem modDesc_descs (q p : Nat) (seq : BitVec 32) (f : QDesc → QDesc) (s : State) (l : List Prim) :
    (runAll (modDesc q seq f s l).2 s).descs p
      = if p = q then ((runAll l s).descs q).map fun x => if x.seq = seq then f x else x else (runAll l s).descs p := by
  rw [modDesc, getS_bind, setDescs_descs]

/-- After the end every descriptor with the number has ended with BUS_ERR. -/
theorem endDesc_ended {q : Nat} {d : QDesc} {s : State} {l : List Prim} (h : d ∈ (runAll l s).descs q) (result : Bytes) :
    endedWith q d stBusErr result (runAll (endDesc q d.seq stBusErr false result s l).2 s) := by
  have some : (((runAll l s).descs q).find? fun x => decide (x.seq = d.seq)).isSome = true := List.find?_isSome.2 ⟨d, h, by simp⟩
  obtain ⟨y, found⟩ := Option.isSome_iff_exists.1 some
  rw [endDesc_busErr found, endedWith]
  have stores : Within recordParts engineWords (do
      wr (R.QUEUE_Q_ERR.LAST_OP q) (y.bytes.getD 0 0).toNat
      wr (R.QUEUE_Q_ERR.LAST_STATUS q) stBusErr) :=
    within_bind (within_wr_queue _ (ofQueue_err q).1) fun _ => within_wr_queue _ (ofQueue_err q).2
  have marks : ∀ l', (runAll (markEnds q d.seq result y ((runAll l s).descs q) s l').2 s).descs q
      = ((runAll l s).descs q).map fun x => if x.seq = d.seq then x.failed result else x := fun l' => by
    rw [markEnds, M.bind_apply, stores.descs (by decide), setDescs_descs, if_pos rfl]
  rw [marks]
  exact ⟨d.failed result, List.mem_map.2 ⟨d, h, by simp⟩, rfl, rfl, rfl, rfl⟩

/-! ### BUSERR (R39, R167) -/

/-- The event of a queue pair's errors. -/
theorem qerr_page (q : Nat) : (E.QUEUE.QERR q).page ∈ queueWords ∧ (E.QUEUE.QERR q).page < 64 ∧ (E.QUEUE.QERR q).page ≠ 3
    ∧ (E.QUEUE.QERR q).bit < 32 := by
  refine ⟨queuePage_mem _ ?_ ?_, ?_, ?_, ?_⟩ <;> simp only [E.QUEUE.QERR] <;> omega

theorem within_qerr (q n t : Nat) : Within queueParts engineWords (raiseTenant (E.QUEUE.QERR q) n t) :=
  within_raiseTenant_engine _ (qerr_page q).1 (qerr_page q).2.1 n t

theorem qerr_shows (q n t : Nat) (s : State) (l : List Prim) : (runAll (raiseTenant (E.QUEUE.QERR q) n t none s l).2 s).shows (E.QUEUE.QERR q) :=
  raiseTenant_shows (qerr_page q).2.1 (qerr_page q).2.2.1 (qerr_page q).2.2.2 n t s l

/-- A halt bit stands beside what its event changes. -/
theorem halt_clear (q : Nat) {y : RegField} (hy : y = R.QUEUE_Q_STAT.HALT_FETCH q ∨ y = R.QUEUE_Q_STAT.HALT_CMPL q) :
    y.Clear (fun a => tokenWord a || eventWord [(E.QUEUE.QERR q).page] a) ∧ y.OfQueue ∧ y.lo = y.hi := by
  have addr : y.addr = 0x100ac + 0x1000 * (q % 32 / 4) + 0x40 * (q % 4) ∧ y.hi < 32 ∧ y.lo = y.hi := by rcases hy with rfl | rfl <;> simp [R.QUEUE_Q_STAT.HALT_FETCH, R.QUEUE_Q_STAT.HALT_CMPL]
  obtain ⟨addr, hi, one⟩ := addr
  have off : y.addr % 0x1000 ≠ 0x54 ∧ y.addr % 0x1000 ≠ 0x10 ∧ y.addr % 0x1000 ≠ 0x1C ∧ y.addr ≠ 0x3058 := by omega
  exact ⟨⟨by simp [tokenWord, eventWord, off], by omega, by omega⟩, by omega, one⟩

/-- A halt: its bit is 1, and QERR shows. -/
theorem halt_runs (q n t : Nat) {y : RegField} (hy : y = R.QUEUE_Q_STAT.HALT_FETCH q ∨ y = R.QUEUE_Q_STAT.HALT_CMPL q) (s : State) (l : List Prim) :
    let t := runAll (raiseTenant (E.QUEUE.QERR q) n t none s (wr y 1 s l).2).2 s
    t.fld y = 1 ∧ t.shows (E.QUEUE.QERR q) := by
  obtain ⟨clear, queue, one⟩ := halt_clear q hy
  refine ⟨?_, qerr_shows q n t s _⟩
  rw [(within_raiseTenant _ (qerr_page q).2.1 n t).fld_clear clear, fld_wr_same _ _ (.inl ⟨by omega, queue.2.2.2⟩), one]
  simp

end Sys2Proof.Machine
end

section
/-! Faults of an engine (R586), and the statement of the queue engine's faults. -/
namespace Sys2Proof.Machine
open Sys2Proof

variable {α : Type}

/-! ### The pairs that are listed -/

/-- In a sorted map a listed value is what its key reads as. -/
theorem mget_of_mem {d : Nat → α} {m : SMap α} (h : msorted none m = true) {k : Nat} {v : α} (hm : (k, v) ∈ m) : mget d m k = v := by
  induction m with
  | nil => exact absurd hm List.not_mem_nil
  | cons p r ih =>
    obtain ⟨a, x⟩ := p
    have rest := (msorted_some a r).1 h
    rcases List.mem_cons.1 hm with heq | hr
    · rw [Prod.mk.injEq] at heq
      rw [mget, if_pos heq.1.symm, heq.2]
    · rw [mget, if_neg (Nat.ne_of_lt (rest.1 _ hr)), ih rest.2 hr]

/-- The queues of a state in form. -/
theorem State.wf.queues {s : State} (h : s.wf) : msorted none s.queues = true := by
  obtain ⟨-, -, -, -, -, -, -, -, -, -, -, -, -, -, -, -, -, -, -, -, -, queues, -⟩ := h
  simp only [mwf, Bool.and_eq_true] at queues
  exact queues.1

theorem State.wf.descs {s : State} (h : s.wf) {p : Nat × QueuePair} (hp : p ∈ s.queues) : s.descs p.1 = p.2.descs := by
  rw [State.descs, mget_of_mem h.queues (v := p.2) hp]

/-- The descriptor that holds an entry is one of its pair's. -/
theorem descOf_mem {s : State} (h : s.wf) {e q : Nat} {d : QDesc} (hd : s.descOf e = some (q, d)) : d ∈ s.descs q := by
  have mem := List.mem_of_mem_head? (Option.mem_def.2 hd)
  obtain ⟨p, hp, hf⟩ := List.mem_filterMap.1 mem
  obtain ⟨x, hx, heq⟩ := Option.map_eq_some_iff.1 hf
  rw [Prod.mk.injEq] at heq
  rw [← heq.1, h.descs hp, ← heq.2]
  exact List.mem_of_find?_eq_some hx

/-! ### BUSERR of a request -/

theorem within_busFail (q : Nat) (d : QDesc) : Within queueParts engineWords (busFail q d) :=
  within_bind (within_endDesc q d.seq []) fun _ => within_qerr q q d.tenant

theorem busFail_runs {q : Nat} {d : QDesc} {s : State} (h : d ∈ s.descs q) :
    endedWith q d stBusErr [] (runM (busFail q d) s) ∧ (runM (busFail q d) s).shows (E.QUEUE.QERR q) := by
  rw [runM, busFail, M.bind_apply]
  refine ⟨?_, qerr_shows q q d.tenant s _⟩
  rw [endedWith, (within_raiseTenant _ (qerr_page q).2.1 q d.tenant).descs (by decide)]
  exact endDesc_ended (l := []) h []

/-- A DONE write that failed: completions halt, and the record is held. -/
def holdDone (q : Nat) (d : QDesc) : M Unit := do
  modDesc q d.seq fun x => { x with doneHeld := true }
  haltCmpl q

theorem within_haltFetch (q : Nat) : Within queueParts engineWords (haltFetch q) :=
  within_bind (within_wr_queue _ (halt_clear q (.inl rfl)).2.1).ofEngine fun _ => within_bind within_getS fun _ => within_qerr q q _

theorem within_haltCmpl (q : Nat) : Within queueParts engineWords (haltCmpl q) :=
  within_bind (within_wr_queue _ (halt_clear q (.inr rfl)).2.1).ofEngine fun _ => within_bind within_getS fun _ => within_qerr q q _

theorem within_holdDone (q : Nat) (d : QDesc) : Within queueParts engineWords (holdDone q d) :=
  within_bind (within_modDesc q d.seq _) fun _ => within_haltCmpl q

theorem haltFetch_runs (q : Nat) (s : State) (l : List Prim) :
    let t := runAll (haltFetch q s l).2 s
    t.fld (R.QUEUE_Q_STAT.HALT_FETCH q) = 1 ∧ t.shows (E.QUEUE.QERR q) := by
  rw [haltFetch, M.bind_apply, getS_bind]
  exact halt_runs q q _ (.inl rfl) s l

theorem haltCmpl_runs (q : Nat) (s : State) (l : List Prim) :
    let t := runAll (haltCmpl q s l).2 s
    t.fld (R.QUEUE_Q_STAT.HALT_CMPL q) = 1 ∧ t.shows (E.QUEUE.QERR q) := by
  rw [haltCmpl, M.bind_apply, getS_bind]
  exact halt_runs q q _ (.inr rfl) s l

/-- A halt leaves the descriptors alone. -/
theorem haltCmpl_descs (q p : Nat) (s : State) (l : List Prim) : (runAll (haltCmpl q s l).2 s).descs p = (runAll l s).descs p := by
  have foot : Within recordParts (fun _ => true) (haltCmpl q) :=
    within_bind (within_wr _ _ (by decide) rfl (fun _ => rfl) fun _ => rfl) fun _ => within_bind within_getS fun _ =>
      (within_raiseTenant _ (qerr_page q).2.1 q _).mono (fun _ h => h) fun _ _ => rfl
  exact foot.descs (by decide) p s l

theorem holdDone_runs {q : Nat} {d : QDesc} {s : State} (h : d ∈ s.descs q) :
    let t := runAll (holdDone q d s []).2 s
    t.fld (R.QUEUE_Q_STAT.HALT_CMPL q) = 1 ∧ t.shows (E.QUEUE.QERR q) ∧ ∃ x ∈ t.descs q, x.seq = d.seq ∧ x.doneHeld = true := by
  rw [holdDone, M.bind_apply]
  obtain ⟨halt, shows⟩ := haltCmpl_runs q s (modDesc q d.seq (fun x => { x with doneHeld := true }) s []).2
  refine ⟨halt, shows, ?_⟩
  rw [haltCmpl_descs, modDesc_descs, if_pos rfl]
  exact ⟨{ d with doneHeld := true }, List.mem_map.2 ⟨d, h, by simp⟩, rfl, rfl⟩

/-! ### An engine's fault -/

/-- A pair has a descriptor of a number; it has one that waits to be dispatched. -/
def State.hasDesc (q : Nat) (seq : BitVec 32) (t : State) : Prop := ∃ x ∈ t.descs q, x.seq = seq
def State.waitsAgain (q : Nat) (seq : BitVec 32) (t : State) : Prop := ∃ x ∈ t.descs q, x.seq = seq ∧ x.phase = .accepted

theorem within_dropWork (o : LaneOwner) : Within entryParts engineWords (dropWork o) :=
  within_bind within_getS fun _ => within_ite (within_bind within_getS fun _ => within_prim (by simp [Prim.pieces]) (by simp [Prim.pieces]))
    (within_pure _)

/-- What follows the descriptor's return to accepted. -/
def voidEntry (e : Nat) : M Unit := do
  dropWork (.entry e)
  dropWork (.half e)
  prim (.drawn e [])
  prim (.blinded e [])
  dropQueuedOf e
  let r := (← getS).rng
  prim (.rng { r with reqs := r.reqs.filter fun x => x.user ≠ .entry e ∧ x.user ≠ .blind e })
  modEntry e fun c => { c with resumed := false }

theorem within_voidEntry (e : Nat) : Within entryParts engineWords (voidEntry e) :=
  within_bind (within_dropWork _) fun _ => within_bind (within_dropWork _) fun _ =>
    within_bind (within_prim (by simp [Prim.pieces]) (by simp [Prim.pieces])) fun _ =>
    within_bind (within_prim (by simp [Prim.pieces]) (by simp [Prim.pieces])) fun _ =>
    within_bind (within_dropQueuedOf e) fun _ => within_bind within_getS fun _ =>
    within_bind (within_prim (by simp [Prim.pieces]) (by simp [Prim.pieces])) fun _ => within_modEntry _ _ (by decide)

theorem within_voidDesc (q : Nat) (d : QDesc) (e : Nat) : Within queueParts engineWords (voidDesc q d e) :=
  within_bind (within_modDesc q d.seq _) fun _ => (within_voidEntry e).ofEntry

/-- A voided descriptor returns to accepted, with every other of its number. -/
theorem voidDesc_descs (q p : Nat) (d : QDesc) (e : Nat) (s : State) (l : List Prim) :
    (runAll (voidDesc q d e s l).2 s).descs p = if p = q then ((runAll l s).descs q).map fun x => if x.seq = d.seq then { x with phase := .accepted } else x
      else (runAll l s).descs p := by
  rw [voidDesc, M.bind_apply]
  exact ((within_voidEntry e).descs (by decide) p s _).trans (modDesc_descs q p d.seq _ s l)

theorem keeps_hasDesc (q p : Nat) (seq : BitVec 32) (d : QDesc) (e : Nat) : Keeps (State.hasDesc p seq) (voidDesc q d e) := by
  rintro s l ⟨x, hx, hseq⟩
  rw [State.hasDesc, voidDesc_descs]
  split
  · rename_i h
    exact ⟨_, List.mem_map.2 ⟨x, h ▸ hx, rfl⟩, by split <;> exact hseq⟩
  · exact ⟨x, hx, hseq⟩

theorem keeps_waitsAgain (q p : Nat) (seq : BitVec 32) (d : QDesc) (e : Nat) : Keeps (State.waitsAgain p seq) (voidDesc q d e) := by
  rintro s l ⟨x, hx, hseq, hphase⟩
  rw [State.waitsAgain, voidDesc_descs]
  split
  · rename_i h
    refine ⟨_, List.mem_map.2 ⟨x, h ▸ hx, rfl⟩, ?_⟩
    split
    · exact ⟨hseq, rfl⟩
    · exact ⟨hseq, hphase⟩
  · exact ⟨x, hx, hseq, hphase⟩

theorem voidDesc_waits (q : Nat) (d : QDesc) (e : Nat) : Leads (State.hasDesc q d.seq) (voidDesc q d e) fun _ => State.waitsAgain q d.seq := by
  rintro s l ⟨x, hx, hseq⟩
  rw [State.waitsAgain, voidDesc_descs, if_pos rfl]
  exact ⟨{ x with phase := .accepted }, List.mem_map.2 ⟨x, hx, by simp [hseq]⟩, hseq, rfl⟩

/-- Every descriptor that is voided waits again. -/
theorem forM_voidDesc {hit : List (Nat × QDesc × Nat)} {x : Nat × QDesc × Nat} (hx : x ∈ hit) :
    Leads (State.hasDesc x.1 x.2.1.seq) (forM hit fun y => voidDesc y.1 y.2.1 y.2.2) fun _ => State.waitsAgain x.1 x.2.1.seq := by
  induction hit with
  | nil => exact absurd hx List.not_mem_nil
  | cons y r ih =>
    rcases List.mem_cons.1 hx with rfl | hr
    · exact leads_bind (voidDesc_waits _ _ _) fun _ => keeps_forM r fun z => keeps_waitsAgain _ _ _ _ _
    · exact leads_bind (keeps_hasDesc _ _ _ _ _) fun _ => ih hr

end Sys2Proof.Machine
end

section
/-! An engine's fault (R586), and the statement of the queue engine's faults. -/
namespace Sys2Proof.Machine
open Sys2Proof

variable {α : Type}

/-! ### The entries to replay (R579) -/

theorem mem_insertOn {key : α → Nat} {x y : α} {l : List α} : y ∈ insertOn key x l ↔ y = x ∨ y ∈ l := by
  induction l with
  | nil => simp [insertOn]
  | cons z r ih =>
    rw [insertOn]
    split
    · simp
    · simp only [List.mem_cons, ih]
      tauto

/-- Sorting loses no entry and adds none. -/
theorem mem_sortOn {key : α → Nat} {y : α} {l : List α} : y ∈ sortOn key l ↔ y ∈ l := by
  induction l with
  | nil => simp [sortOn]
  | cons x r ih => rw [sortOn, List.foldr_cons, mem_insertOn, ← sortOn, ih, List.mem_cons]

theorem within_addReplays (es : List Nat) : Within [.cellar] engineWords (addReplays es) :=
  within_bind within_getS fun _ => within_prim (by simp [Prim.pieces]) (by simp [Prim.pieces])

/-- Every entry added is among those to replay. -/
theorem addReplays_mem {e : Nat} {es : List Nat} (h : e ∈ es) (s : State) (l : List Prim) :
    e ∈ (runAll (addReplays es s l).2 s).cellar.replay := by
  rw [addReplays, getS_bind]
  simp only [prim_apply, runAll_cons, Prim.run_cellar, mem_sortOn, List.mem_append, List.mem_filter]
  by_cases known : e ∈ (runAll l s).cellar.replay
  · exact .inl known
  · exact .inr ⟨h, by simpa using known⟩

/-! ### The fault -/

/-- The descriptors that execute on an engine, each with its pair and its entry. -/
def State.onFault (s : State) (g : Nat) : List (Nat × QDesc × Nat) :=
  (s.queues.map fun p => p.2.descs.filterMap fun d =>
    if d.phase = .executing ∧ d.engine = g then d.entry.map fun e => (p.1, d, e) else none).flatten

/-- A descriptor that executes on the engine is one of them. -/
theorem onFault_mem {s : State} {g : Nat} {p : Nat × QueuePair} (hp : p ∈ s.queues) {d : QDesc} (hd : d ∈ p.2.descs) {e : Nat}
    (run : d.phase = .executing) (eng : d.engine = g) (entry : d.entry = some e) : (p.1, d, e) ∈ s.onFault g := by
  refine List.mem_flatten.2 ⟨_, List.mem_map.2 ⟨p, hp, rfl⟩, List.mem_filterMap.2 ⟨d, hd, ?_⟩⟩
  rw [if_pos ⟨run, eng⟩, entry, Option.map_some]

/-- How the fault is reported: its event, its count, and an engine whose faults last fenced (R577). -/
def reportGust (g : Nat) (s : State) : M Unit := do
  raise E.CELLAR.ENGINE_GUST
  let (_, lasting) ← countGust (0x400 + g) (s.fld R.CELLAR_CFG.GUST_LIMIT) (s.fld R.CELLAR_CFG.GUST_WIN_MS)
  if lasting ∧ !(s.fld R.CELLAR_STAT.ENGINES_FENCED).testBit g then
    wrBit R.CELLAR_STAT.ENGINES_FENCED g true
    unitAlarm 0x04 2

theorem engineFault_eq (g : Nat) (s : State) : (engineFault g s []).2
    = (reportGust g s s (addReplays ((s.onFault g).map fun x => x.2.2) s (forM (s.onFault g) (fun x => voidDesc x.1 x.2.1 x.2.2) s []).2).2).2 := by
  rw [engineFault, getS_bind]
  rfl

/-- The words and pieces of the fault's report. -/
abbrev gustParts : List Piece := .gusts :: wakeParts
abbrev gustWords : Nat → Bool := ownPages [0x04, 0x05, 0x3C] [0x04, 0x05, 0x3C]

/-- An engine fenced, and the alarm of it. -/
theorem within_fenceEngine (g : Nat) : Within gustParts gustWords (do
    wrBit R.CELLAR_STAT.ENGINES_FENCED g true
    unitAlarm 0x04 2) :=
  within_bind (within_bind (within_rd _) fun _ => within_wr_page _ _ (by decide) (by decide) (by decide) (by decide)) fun _ =>
    (within_unitAlarm _ _).mono (fun _ h => List.mem_cons_of_mem _ h) (ownPages_mono (by decide) (by decide))

theorem within_reportGust (g : Nat) (s : State) : Within gustParts gustWords (reportGust g s) := by
  refine within_bind ?_ fun _ => within_bind (within_countGust _ _ _ (by decide)) fun _ => within_ite (within_fenceEngine g) (within_pure _)
  exact (within_raise _ (by decide) _).mono (by decide) fun a h => eventWord_ownPages _ _ a (eventWord_mono (by decide) a h)

/-- The event's word stands beside what an engine fenced and its alarm change. -/
theorem reportGust_shows (g : Nat) (s t : State) (l : List Prim) : (runAll (reportGust g s t l).2 t).shows E.CELLAR.ENGINE_GUST := by
  have alarm : Within wakeParts (ownPages [0x05, 0x3C] [0x05, 0x3C]) (unitAlarm 0x04 2) := within_unitAlarm _ _
  have fence : Keeps (fun t => t.shows E.CELLAR.ENGINE_GUST) (do
      wrBit R.CELLAR_STAT.ENGINES_FENCED g true
      unitAlarm 0x04 2) := by
    intro s l h
    rw [M.bind_apply, State.shows, alarm.fld_clear (by decide), fld_wrBit_apart _ _ (by decide)]
    exact h
  have leads : Leads (fun _ => True) (reportGust g s) fun _ t => t.shows E.CELLAR.ENGINE_GUST := by
    refine leads_bind (R := fun _ t => t.shows E.CELLAR.ENGINE_GUST)
      (fun s l _ => raise_shows _ (by decide) (by decide) (by decide) _ s l) fun _ => ?_
    refine leads_bind (R := fun _ t => t.shows E.CELLAR.ENGINE_GUST) (fun s l h => ?_) fun _ => keeps_ite fence (keeps_pure _)
    show (State.fld _ _).testBit _ = true
    rw [(within_countGust (ps := [.gusts]) (f := fun _ => false) _ _ _ (by decide)).fld_clear ⟨rfl, fun _ => rfl, fun _ => rfl⟩]
    exact h
  exact leads t l trivial

theorem within_voidAll (hit : List (Nat × QDesc × Nat)) : Within queueParts engineWords (forM hit fun x => voidDesc x.1 x.2.1 x.2.2) :=
  within_forM _ fun x => within_voidDesc x.1 x.2.1 x.2.2

/-- What an engine's fault changes. -/
theorem within_engineFault (g : Nat) : Within ([.gusts, .power] ++ queueParts) (ownPages (queueWords ++ [0x05, 0x3C]) (queueWords ++ [0x05, 0x3C]))
    (engineFault g) := by
  have words := ownPages_mono (ps := queueWords) (es := queueWords) (qs := queueWords ++ [0x05, 0x3C]) (fs := queueWords ++ [0x05, 0x3C])
    (fun _ => List.mem_append_left _) fun _ => List.mem_append_left _
  refine within_bind within_getS fun s => within_bind ?_ fun _ => within_bind ?_ fun _ => ?_
  · exact (within_voidAll _).mono (fun _ h => by simp [h]) words
  · exact (within_addReplays _).mono (by decide) words
  · exact (within_reportGust g s).mono (by decide) (ownPages_mono (by decide) (by decide))

/-- Every descriptor that executed on the engine waits again, and its entry is to be replayed. -/
theorem engineFault_replays {s : State} (wf : s.wf) {g : Nat} {p : Nat × QueuePair} (hp : p ∈ s.queues) {d : QDesc} (hd : d ∈ p.2.descs)
    {e : Nat} (run : d.phase = .executing) (eng : d.engine = g) (entry : d.entry = some e) :
    let t := runM (engineFault g) s
    e ∈ t.cellar.replay ∧ t.waitsAgain p.1 d.seq := by
  have hit := onFault_mem hp hd run eng entry
  have waits := forM_voidDesc hit s [] ⟨d, wf.descs hp ▸ hd, rfl⟩
  have report := within_reportGust g s
  rw [runM, engineFault_eq]
  generalize (forM (s.onFault g) (fun x => voidDesc x.1 x.2.1 x.2.2) s []).2 = l at waits ⊢
  constructor
  · rw [← show _ = _ from report.same .cellar (by decide) s _]
    exact addReplays_mem (List.mem_map.2 ⟨_, hit, rfl⟩) s l
  · rw [State.waitsAgain, report.descs (by decide), (within_addReplays _).descs (by decide)]
    exact waits

/-! ### The statement -/

/-- BUSERR of a descriptor's request: a failed operation, a halt, or nothing. -/
theorem within_initiatorBuserr (op : BusOp) : Within queueParts engineWords (initiatorBuserr op) := by
  cases op with
  | fetch q => exact within_bind within_getS fun _ => within_ite (within_haltFetch q) (within_pure _)
  | desc e =>
    refine within_bind within_getS fun s => ?_
    split
    · exact within_pure _
    · exact within_ite (within_busFail _ _) (within_ite (within_holdDone _ _) (within_pure _))

/-- BUSERR of a request of the descriptor that holds an entry, by the descriptor's phase. -/
theorem initiatorBuserr_desc {s : State} {e : BitVec 11} {q : Nat} {d : QDesc} (found : s.descOf e.toNat = some (q, d)) :
    (initiatorBuserr (.desc e) s []).2
      = ((if d.phase = .executing then busFail q d else if d.phase = .done ∧ !d.doneHeld then holdDone q d else pure () : M Unit) s []).2 := by
  rw [initiatorBuserr, getS_bind]
  simp only [runAll_nil, found, holdDone]

/-- Settles O46: the halts and the ends by the rules of the halt bit and of `endDesc`, the replays because a later entry's voiding keeps
what an earlier one's has done. -/
theorem queueFaults : Obligations.QueueFaults := by
  unfold Obligations.QueueFaults
  intro s wf
  dsimp only
  refine ⟨fun q active => ?_, fun e q d found => ?_, fun g => ?_⟩
  · refine ⟨_, rfl, (within_initiatorBuserr (.fetch q)).leaves s, ?_⟩
    have halts : (initiatorBuserr (.fetch q) s []).2 = (haltFetch q s []).2 := by
      rw [initiatorBuserr, getS_bind, if_pos (show State.fld (runAll [] s) _ = _ from active)]
    rw [runM, halts]
    exact haltFetch_runs q s []
  · refine ⟨_, rfl, (within_initiatorBuserr (.desc e)).leaves s, fun run => ?_, fun done open' => ?_⟩
    · rw [runM, initiatorBuserr_desc found, if_pos run]
      exact busFail_runs (descOf_mem wf found)
    · rw [runM, initiatorBuserr_desc found, if_neg (by simp [done]), if_pos (by simp [done, open'])]
      exact holdDone_runs (descOf_mem wf found)
  · obtain ⟨same, words⟩ := (within_engineFault g).leaves s
    refine ⟨runM (engineFault g) s, rfl, same, words, ?_, fun p hp d hd e run eng entry => ?_⟩
    · rw [runM, engineFault_eq]
      exact reportGust_shows _ _ _ _
    · exact engineFault_replays wf hp hd run eng entry

end Sys2Proof.Machine
end

section
/-! Unit alarms, events beside another, pages that go to FAULT, and the store of the anchor's status. -/
namespace Sys2Proof.Machine
open Sys2Proof

variable {α : Type}

/-! ### Alarms (R620) -/

section Alarm
variable {I : State → Prop} (hI : ∀ t u, Records t u → I t → I u) (hP : ∀ p t, I t → I ((Prim.power p).run t))
include hI

theorem keeps_raiseQuiet (e : PageEvent) : Keeps I (raiseQuiet e) := keeps_bind (keeps_setEvent hI e) fun _ => keeps_pure _

theorem keeps_abortDescent : Keeps I abortDescent :=
  keeps_bind (keeps_recorder_wr hI _ _) fun _ => keeps_bind (keeps_recorder_wr hI _ _) fun _ => keeps_bind (keeps_bump hI _) fun _ =>
    keeps_raise hI _ _

include hP

theorem keeps_logWake (code chan detail : Nat) (late abort : Bool) : Keeps I (logWake code chan detail late abort) := by
  have store (x : RegField) (v : Nat) := keeps_recorder_wr hI x v
  have owe : Keeps I (do
      let s ← getS
      prim (.power { s.power with owed := (s.power.owed ++ [(code, detail)]).drop (s.power.owed.length - 15) })
      raiseQuiet E.WAKE.WOKEN) :=
    keeps_bind keeps_getS fun _ => keeps_bind (keeps_prim fun t => hP _ t) fun _ => keeps_raiseQuiet hI _
  refine keeps_bind (keeps_stamp hI) fun _ => keeps_bind (keeps_rd _) fun _ => keeps_bind (keeps_rd _) fun n => ?_
  refine keeps_bind (store _ _) fun _ => keeps_bind (store _ _) fun _ => keeps_bind (store _ _) fun _ => keeps_bind (store _ _) fun _ =>
    keeps_bind (store _ _) fun _ => keeps_bind (store _ _) fun _ => keeps_bind (store _ _) fun _ => keeps_bind (store _ _) fun _ => ?_
  dsimp only
  split
  · exact keeps_bind (store _ _) fun _ => owe
  · exact keeps_bind (keeps_bump hI _) fun _ => owe

theorem keeps_writeWakes : Keeps I writeWakes :=
  keeps_bind keeps_getS fun _ => keeps_bind (keeps_prim fun t => hP _ t) fun _ => keeps_forM _ fun _ => keeps_auditEntry hI _ _ _ _

theorem keeps_startAscent : Keeps I startAscent :=
  keeps_bind (keeps_recorder_wr hI _ _) fun _ => keeps_bind (keeps_recorder_wr hI _ _) fun _ => keeps_bind keeps_getS fun _ =>
    keeps_bind (keeps_prim fun t => hP _ t) fun _ => keeps_bind (keeps_raiseClk hP _) fun _ => keeps_bind (keeps_raiseClk hP _) fun _ =>
    keeps_bind (keeps_wrBit hI _ _ _) fun _ => keeps_writeWakes hI hP

theorem keeps_wakeBy (code chan detail : Nat) : Keeps I (wakeBy code chan detail) :=
  keeps_bind keeps_getS fun _ => keeps_ite (keeps_pure _) (keeps_bind (keeps_logWake hI hP _ _ _ _ _) fun _ =>
    keeps_ite (keeps_startAscent hI hP) (keeps_ite (keeps_ite (keeps_abortDescent hI) (keeps_recorder_wr hI _ _)) (keeps_pure _)))

theorem keeps_unitAlarm (page grade : Nat) : Keeps I (unitAlarm page grade) :=
  keeps_bind (keeps_auditEntry hI _ _ _ _) fun _ => keeps_ite (keeps_wakeBy hI hP _ _ _) (keeps_pure _)

end Alarm

/-- A unit alarm is recorded, whatever it wakes. -/
theorem unitAlarm_records (page grade : Nat) :
    Leads (fun _ => True) (unitAlarm page grade) fun _ t => recorded page 0x0020 (alarmPayload 0 grade 0 false page) t :=
  leads_bind (auditEntry_recorded _ _ _ _) fun _ => keeps_ite (keeps_wakeBy (fun _ _ h => h.recorded) (fun _ _ h => h) _ _ _) (keeps_pure _)

/-! ### Two events of one page -/

/-- A store of one bit of a field leaves its other bits alone. -/
theorem fld_wrBit_beside (x : RegField) {i j : Nat} (b : Bool) (hl : x.lo ≤ x.hi) (hh : x.hi < 32) (hi : i ≤ x.hi - x.lo) (hj : j ≤ x.hi - x.lo)
    (ne : j ≠ i) (s : State) (l : List Prim) : ((runAll (wrBit x i b s l).2 s).fld x).testBit j = ((runAll l s).fld x).testBit j := by
  have bit : j < x.hi - x.lo + 1 := by omega
  have wide : 2 ^ i < 2 ^ (x.hi - x.lo + 1) := Nat.pow_lt_pow_right (by omega) (by omega)
  have power : (2 ^ i).testBit j = false := Nat.testBit_two_pow_of_ne ne.symm
  simp only [wrBit, rd_bind, fld_wr x _ hl hh, Nat.testBit_mod_two_pow]
  cases b
  · simp [bit, power, Nat.sub_sub, Nat.add_comm 1, Nat.testBit_two_pow_sub_succ wide]
  · simp [bit, power]

/-- Two different events of one page. -/
abbrev PageEvent.Beside (e d : PageEvent) : Prop := d.page = e.page ∧ d.page < 64 ∧ d.page ≠ 3 ∧ d.bit ≠ e.bit ∧ e.bit < 32 ∧ d.bit < 32

section Beside
variable {e d : PageEvent} (h : e.Beside d) (s : State) (l : List Prim)
include h

theorem setEvent_shows_beside : (runAll (setEvent e s l).2 s).shows d ↔ (runAll l s).shows d := by
  obtain ⟨page, -, -, ne, he, hd⟩ := h
  have power : (2 ^ e.bit).testBit d.bit = false := Nat.testBit_two_pow_of_ne ne.symm
  simp only [State.shows, page, setEvent, rd_bind, M.ite_apply]
  split
  · rfl
  · rw [M.bind_apply, M.bind_apply, M.pure_apply, fld_wrBit_apart _ _ (by simp only [RegField.Apart, R.PG_EVT_STICKY.EVT, R.PG_EVT_RAW.EVT]; omega),
      fld_wr_same _ _ (by simp [R.PG_EVT_RAW.EVT]), Nat.testBit_mod_two_pow, Nat.testBit_or, power]
    simp [R.PG_EVT_RAW.EVT, hd]

theorem raiseQuiet_shows_beside : (runAll (raiseQuiet e s l).2 s).shows d ↔ (runAll l s).shows d := setEvent_shows_beside h s l

theorem setCond_shows_beside (b : Bool) (c : EntryClass) : (runAll (setCond e b c s l).2 s).shows d ↔ (runAll l s).shows d := by
  have keep : Keeps (fun t => t.shows d ↔ (runAll l s).shows d) (setCond e b c) := by
    refine keeps_ite (keeps_bind (fun s l k => (setEvent_shows_beside h s l).trans k) fun _ => keeps_ite ?_ (keeps_pure _)) fun s l k => ?_
    · exact keeps_bind (keeps_rd _) fun _ s l k => ((within_pageEntry _ _ _ _).shows d h.2.1 h.2.2.1 s l).trans k
    · obtain ⟨page, -, -, ne, he, hd⟩ := h
      rw [State.shows, page, fld_wrBit_beside _ _ (by simp [R.PG_EVT_RAW.EVT]) (by simp [R.PG_EVT_RAW.EVT]) (by simp [R.PG_EVT_RAW.EVT]; omega)
        (by simp [R.PG_EVT_RAW.EVT]; omega) ne, ← page]
      exact k
  exact keep s l Iff.rfl

theorem raise_shows_beside (c : EntryClass) : (runAll (raise e c s l).2 s).shows d ↔ (runAll l s).shows d := by
  rw [raise, M.bind_apply, rd_bind]
  exact ((within_pageEntry _ _ _ _).shows d h.2.1 h.2.2.1 s _).trans (setEvent_shows_beside h s l)

end Beside

/-- An event of a page that a program's footprint leaves alone. -/
theorem Within.shows_clear {ps : List Piece} {f : Nat → Bool} {m : M α} (h : Within ps f m) {d : PageEvent}
    (hd : (R.PG_EVT_RAW.EVT d.page).Clear f) (s : State) (l : List Prim) : (runAll (m s l).2 s).shows d ↔ (runAll l s).shows d := by
  rw [State.shows, State.shows, h.fld_clear hd]

theorem shows_wr {x : RegField} {d : PageEvent} (v : Nat) (h : x.Apart (R.PG_EVT_RAW.EVT d.page)) (s : State) (l : List Prim) :
    (runAll (wr x v s l).2 s).shows d ↔ (runAll l s).shows d := by
  rw [State.shows, State.shows, fld_wr_apart _ h]

/-! ### A page that goes to FAULT (R86) -/

/-- PG_STAT of a page, and its events. -/
abbrev statWords (p a : Nat) : Bool := decide (a = 0x1000 * p + 0x0C) || eventWord [p] a

theorem within_pageToFault {p : Nat} (hp : p < 64) : Within recordParts (statWords p) (pageToFault p) := by
  have lt : p % 64 = p := Nat.mod_eq_of_lt hp
  have quiet {e : PageEvent} (he : e.page = p) : Within recordParts (statWords p) (raiseQuiet e) :=
    (within_raiseQuiet e (he ▸ hp)).mono (by decide) fun a h => Bool.or_eq_true_iff.2 (.inr (he ▸ h))
  have store {x : RegField} (v : Nat) (hx : x.addr = 0x1000 * p + 0x0C ∧ x.hi < 32) : Within recordParts (statWords p) (wr x v) :=
    within_wr_one _ _ hx.2 (by decide) (by simp [hx.1])
  refine within_bind within_getS fun _ => within_ite (within_bind (store _ ?_) fun _ => within_bind (quiet lt) fun _ =>
    within_bind (store _ ?_) fun _ => within_bind (quiet lt) fun _ => within_bind within_getS fun _ => ?_) (within_pure _)
  · simp [R.PG_STAT.REARM, lt]
  · simp [R.PG_STAT.STATE, lt]
  · exact (within_pageEntry _ _ _ _).mono (fun _ h => h) fun a h => by simp [eventWord_mono (k := [p]) (by simp) a h]

/-- PG_STAT of a page is no event's word. -/
theorem pgStat_clear {p : Nat} (x : RegField) (hx : x.addr = 0x1000 * p + 0x0C ∧ x.hi < 32) (q : List Nat) : x.Clear (eventWord q) := by
  have off : x.addr % 0x1000 ≠ 0x10 ∧ x.addr % 0x1000 ≠ 0x1C ∧ x.addr ≠ 0x3058 := by omega
  exact ⟨by simp [eventWord, off], by omega, by omega⟩

theorem pageToFault_state {p : Nat} (hp : p < 64) (s : State) (l : List Prim) : (runAll (pageToFault p s l).2 s).pageState p = pgFault := by
  have clear (q : List Nat) : (R.PG_STAT.STATE p).Clear (eventWord q) := pgStat_clear (p := p) _ (by simp [R.PG_STAT.STATE]; omega) q
  rw [pageToFault, getS_bind, M.ite_apply]
  split
  · simp only [M.bind_apply, setPageState, ↓getS_bind, State.pageState]
    rw [(within_pageEntry _ _ _ _).fld_clear (clear _), (within_raiseQuiet _ (Nat.mod_lt p (by decide))).fld_clear (clear _),
      fld_wr_same _ _ (by simp [R.PG_STAT.STATE])]
    rfl
  · rename_i h
    exact not_not.1 h

/-- A page's own event goes on showing when the page goes to FAULT. -/
theorem pageToFault_shows {d : PageEvent} (lt : d.page < 64) (h3 : d.page ≠ 3) (hb : 3 ≤ d.bit ∧ d.bit < 32) (s : State) (l : List Prim) :
    (runAll (pageToFault d.page s l).2 s).shows d ↔ (runAll l s).shows d := by
  have page : d.page % 64 = d.page := Nat.mod_eq_of_lt lt
  have fault : (E.PG.FAULT d.page).Beside d := ⟨page.symm, lt, h3, by simp only [E.PG.FAULT]; omega, by simp [E.PG.FAULT], hb.2⟩
  have changed : (E.PG.STATE_CHG d.page).Beside d := ⟨page.symm, lt, h3, by simp only [E.PG.STATE_CHG]; omega, by simp [E.PG.STATE_CHG], hb.2⟩
  rw [pageToFault, getS_bind, M.ite_apply]
  split
  · simp only [M.bind_apply, setPageState, ↓getS_bind]
    rw [(within_pageEntry _ _ _ _).shows d lt h3, raiseQuiet_shows_beside changed, shows_wr _ (by simp only [RegField.Apart, R.PG_STAT.STATE, R.PG_EVT_RAW.EVT]; omega),
      raiseQuiet_shows_beside fault, shows_wr _ (by simp only [RegField.Apart, R.PG_STAT.REARM, R.PG_EVT_RAW.EVT]; omega)]
  · rfl

end Sys2Proof.Machine
end

section
/-! The anchor store's writes (R282, R285, R287): the store's status, its fault, and the start of a write. -/
namespace Sys2Proof.Machine
open Sys2Proof

variable {α : Type}

/-! ### ANCHOR_STAT -/

/-- ANCHOR_STAT, and the events of the ANCHOR page. -/
abbrev anchorWords : Nat → Bool := ownWords [R.ANCHOR_STAT.NEXT_SLOT.addr] [0x25]

theorem within_anchorRefresh : Within recordParts anchorWords anchorRefresh := by
  have store {x : RegField} (v : Nat) (h : x.addr = R.ANCHOR_STAT.NEXT_SLOT.addr ∧ x.hi < 32) : Within recordParts anchorWords (wr x v) :=
    within_wr_one _ _ h.2 (by decide) (by rw [h.1]; decide)
  refine within_bind within_getS fun _ => within_bind (store _ (by decide)) fun _ => within_bind (store _ (by decide)) fun _ =>
    within_bind (store _ (by decide)) fun _ => within_bind ?_ fun _ => within_ite ?_ (within_pure _)
  · exact (within_setCond _ (by decide) _ _).mono (fun _ h => h) fun a h => Bool.or_eq_true_iff.2 (.inr h)
  · exact (within_unitAlarm_zero _).mono (fun _ h => h) fun a h => Bool.or_eq_true_iff.2 (.inr (eventWord_mono (by simp) a h))

/-- Every event of the ANCHOR page but WEAR goes on showing, or not showing. -/
theorem anchorRefresh_shows {d : PageEvent} (h : E.ANCHOR.WEAR.Beside d) (s : State) (l : List Prim) :
    (runAll (anchorRefresh s l).2 s).shows d ↔ (runAll l s).shows d := by
  have page : d.page = 0x25 := h.1
  have word {x : RegField} (hx : x.addr = R.ANCHOR_STAT.NEXT_SLOT.addr ∧ x.hi < 32) : x.Apart (R.PG_EVT_RAW.EVT d.page) := by
    obtain ⟨ha, hh⟩ := hx
    simp only [RegField.Apart, ha, page, R.PG_EVT_RAW.EVT, R.ANCHOR_STAT.NEXT_SLOT]
    omega
  let I (t : State) : Prop := t.shows d ↔ (runAll l s).shows d
  have store {x : RegField} (v : Nat) (hx : x.addr = R.ANCHOR_STAT.NEXT_SLOT.addr ∧ x.hi < 32) : Keeps I (wr x v) :=
    fun s l k => (shows_wr v (word hx) s l).trans k
  have keep : Keeps I anchorRefresh := by
    refine keeps_bind keeps_getS fun _ => keeps_bind (store _ (by decide)) fun _ => keeps_bind (store _ (by decide)) fun _ =>
      keeps_bind (store _ (by decide)) fun _ => keeps_bind (fun s l k => (setCond_shows_beside h s l _ _).trans k) fun _ =>
      keeps_ite (fun s l k => ((within_unitAlarm_zero _).shows d h.2.1 h.2.2.1 s l).trans k) (keeps_pure _)
  exact keep s l Iff.rfl

theorem keeps_recorded_anchorRefresh {page : Nat} {code : BitVec 16} {payload : BitVec 96} : Keeps (recorded page code payload) anchorRefresh := by
  have step (t u : State) (h : Records t u) : recorded page code payload t → recorded page code payload u := h.recorded
  have store (x : RegField) (v : Nat) := keeps_recorder_wr step x v
  exact keeps_bind keeps_getS fun _ => keeps_bind (store _ _) fun _ => keeps_bind (store _ _) fun _ => keeps_bind (store _ _) fun _ =>
    keeps_bind (keeps_setCond step _ _ _) fun _ => keeps_ite (keeps_unitAlarm step (fun _ _ h => h) _ _) (keeps_pure _)

/-! ### The store's fault -/

/-- The words of the store's fault, and the pages of the anchor store's writes. -/
abbrev faultWords : Nat → Bool := faultPages 0x25 [0x05, 0x3C] [0x05, 0x25, 0x3C]
abbrev storeWords : Nat → Bool := faultPages 0x25 [0x05, 0x25, 0x3C] [0x05, 0x25, 0x3C]

theorem ownPages_faultPages {p : Nat} {ps qs es fs : List Nat} (hp : ∀ q ∈ ps, q ∈ qs) (he : ∀ q ∈ es, q ∈ fs) (a : Nat)
    (h : ownPages ps es a = true) : faultPages p qs fs a = true := Bool.or_eq_true_iff.2 (.inr (ownPages_mono hp he a h))

theorem eventWord_faultPages {p : Nat} {ps es fs : List Nat} (h : ∀ q ∈ es, q ∈ fs) (a : Nat) (ha : eventWord es a = true) :
    faultPages p ps fs a = true := Bool.or_eq_true_iff.2 (.inr (eventWord_ownPages _ _ a (eventWord_mono h a ha)))

theorem within_anchorRefresh_store : Within recordParts storeWords anchorRefresh :=
  within_anchorRefresh.mono (fun _ h => h) fun a h => by
    rcases Bool.or_eq_true_iff.1 h with h | h
    · simp only [List.contains_eq_mem, decide_eq_true_eq, List.mem_singleton] at h
      subst h
      decide
    · exact eventWord_faultPages (by decide) a h

theorem within_storeFault : Within wakeParts faultWords storeFault := by
  refine within_bind ?_ fun _ => within_bind ((within_unitAlarm _ _).mono (fun _ h => h) (ownPages_faultPages (by decide) (by decide))) fun _ => ?_
  · exact (within_setCond _ (by decide) _ _).mono (by decide) (eventWord_faultPages (by decide))
  · refine (within_pageToFault (by decide)).mono (by decide) fun a h => ?_
    rcases Bool.or_eq_true_iff.1 h with h | h
    · exact Bool.or_eq_true_iff.2 (.inl h)
    · exact eventWord_faultPages (by decide) a h

theorem faultPages_mono {p : Nat} {ps qs es fs : List Nat} (hp : ∀ q ∈ ps, q ∈ qs) (he : ∀ q ∈ es, q ∈ fs) (a : Nat)
    (h : faultPages p ps es a = true) : faultPages p qs fs a = true := by
  rcases Bool.or_eq_true_iff.1 h with h | h
  · exact Bool.or_eq_true_iff.2 (.inl h)
  · exact ownPages_faultPages hp he a h

/-- The other events of the ANCHOR page go on showing. -/
theorem storeFault_shows {d : PageEvent} (h : E.ANCHOR.STORE_FAULT.Beside d) (hb : 3 ≤ d.bit) (s : State) (l : List Prim) :
    (runAll (storeFault s l).2 s).shows d ↔ (runAll l s).shows d := by
  have page : d.page = 0x25 := h.1
  have clear : (R.PG_EVT_RAW.EVT d.page).Clear (ownPages [0x05, 0x3C] [0x05, 0x3C]) := by
    rw [page]
    decide
  have keep : Keeps (fun t => t.shows d ↔ (runAll l s).shows d) storeFault := by
    refine keeps_bind (fun s l k => (setCond_shows_beside h s l _ _).trans k) fun _ => keeps_bind (fun s l k => ?_) fun _ => fun s l k => ?_
    · exact ((within_unitAlarm _ _).shows_clear clear s l).trans k
    · have fault := pageToFault_shows h.2.1 h.2.2.1 ⟨hb, h.2.2.2.2.2⟩ s l
      rw [page] at fault
      exact fault.trans k
  exact keep s l Iff.rfl

/-- What the store's fault shows: its event, the page's state, and its alarm. -/
def State.storeFails (t : State) : Prop :=
  t.shows E.ANCHOR.STORE_FAULT ∧ t.pageState 0x25 = pgFault ∧ recorded 0x25 0x0020 (alarmPayload 0 2 0 false 0x25) t

theorem keeps_recorded_pageToFault {page : Nat} {code : BitVec 16} {payload : BitVec 96} (p : Nat) :
    Keeps (recorded page code payload) (pageToFault p) := by
  have step (t u : State) (h : Records t u) : recorded page code payload t → recorded page code payload u := h.recorded
  exact keeps_bind keeps_getS fun _ => keeps_ite (keeps_bind (keeps_recorder_wr step _ _) fun _ => keeps_bind (keeps_raiseQuiet step _) fun _ =>
    keeps_bind (keeps_recorder_wr step _ _) fun _ => keeps_bind (keeps_raiseQuiet step _) fun _ => keeps_bind keeps_getS fun _ =>
    keeps_pageEntry step _ _ _ _) (keeps_pure _)

theorem storeFault_fails (s : State) (l : List Prim) : (runAll (storeFault s l).2 s).storeFails := by
  let noted (t : State) : Prop := recorded 0x25 0x0020 (alarmPayload 0 2 0 false 0x25) t
  have leads : Leads (fun _ => True) storeFault fun _ => State.storeFails := by
    refine leads_bind (R := fun _ t => t.shows E.ANCHOR.STORE_FAULT) (fun s l _ => setCond_shows (by decide) (by decide) (by decide) _ s l) fun _ => ?_
    refine leads_bind (R := fun _ t => t.shows E.ANCHOR.STORE_FAULT ∧ noted t) (fun s l h => ⟨?_, unitAlarm_records _ _ s l trivial⟩) fun _ => ?_
    · exact ((within_unitAlarm _ _).shows_clear (by decide) s l).2 h
    · rintro s l ⟨shows, noted⟩
      exact ⟨(pageToFault_shows (d := E.ANCHOR.STORE_FAULT) (by decide) (by decide) (by decide) s l).2 shows, pageToFault_state (by decide) s l,
        keeps_recorded_pageToFault _ s l noted⟩
  exact leads s l trivial

/-! ### A write starts (R282) -/

/-- The record of a use in a slot, as the state has it. -/
def State.recordOf (s : State) (u : AnchorUse) (key : Bytes) (n : Nat) : Bytes :=
  let (k, payload) := u.key (s.fld R.FRESH_STAT.EXP) (s.fld R.ANCHOR_BAD.BAD)
  anchorRecord key n (k / 16) (k % 16) s.anchor.nextSeq.toNat payload

/-- The store once the write of a record has begun. -/
def State.anchorBegun (s : State) (u : AnchorUse) (fails : Nat) (rest : List (AnchorUse × Nat)) (n : Nat) (r : Bytes) : AnchorState :=
  { s.anchor with
    reqs := rest, writing := some ⟨n, u, r, fails⟩, nextSeq := s.anchor.nextSeq + 1, nextSlot := (n + 1) % 64,
    times := (s.anchor.times.filter fun t => decide (s.now.toNat < t.1 + 1000000000)) ++ [(s.now.toNat, u.isBallast)],
    thisSecond := s.anchor.thisSecond + b2n u.isBallast }

/-- The record of the first request is written into a slot. -/
def beginWrite (s : State) (u : AnchorUse) (fails : Nat) (rest : List (AnchorUse × Nat)) (n : Nat) (r : Bytes) : M Unit := do
  setCond E.ANCHOR.BUDGET false
  emit (.anchorWrite n r)
  wr R.ANCHOR_SEQ.SEQ s.anchor.nextSeq.toNat
  prim (.anchor (s.anchorBegun u fails rest n r))
  anchorRefresh

/-- The first request is taken, where none is being written, the key is there and the store works. -/
def startWrite (s : State) : M Unit := match s.anchor.reqs, s.anchor.writing, s.anchorKey with
  | (u, fails) :: rest, none, some key =>
    if s.grounded ∨ s.pageState 0x25 = pgFault ∨ !s.anchor.scanned then pure ()
    else if !s.budgetOk u then setCond E.ANCHOR.BUDGET true
    else match s.nextAnchorSlot with
      | none => storeFault
      | some n => beginWrite s u fails rest n (s.recordOf u key n)
  | _, _, _ => pure ()

theorem anchorWriteStart_eq : anchorWriteStart = getS >>= startWrite := by
  unfold anchorWriteStart
  refine congrArg (getS >>= ·) (funext fun s => ?_)
  unfold startWrite
  generalize s.anchorKey = known
  generalize s.anchor.writing = writing
  generalize s.anchor.reqs = reqs
  rcases reqs with _ | ⟨⟨u, fails⟩, rest⟩
  · rfl
  · cases writing with
    | some w => rfl
    | none =>
      cases known with
      | none => rfl
      | some key =>
        refine congrArg (ite _ _) (congrArg (ite _ _) ?_)
        cases s.nextAnchorSlot with
        | none => rfl
        | some n =>
          unfold State.recordOf
          generalize u.key (s.fld R.FRESH_STAT.EXP) (s.fld R.ANCHOR_BAD.BAD) = x
          obtain ⟨k, payload⟩ := x
          rfl

section WriteStart
variable {s : State} {u : AnchorUse} {fails : Nat} {rest : List (AnchorUse × Nat)} {key : Bytes}

theorem startWrite_held (h : s.anchor.reqs = [] ∨ s.anchor.writing.isSome = true ∨ s.anchorKey = none ∨ s.grounded = true
    ∨ s.pageState 0x25 = pgFault ∨ s.anchor.scanned = false) : startWrite s = pure () := by
  unfold startWrite
  split
  · rename_i reqs writing known
    have held : s.grounded = true ∨ s.pageState 0x25 = pgFault ∨ (!s.anchor.scanned) = true := by simpa [reqs, writing, known] using h
    rw [if_pos held]
  · rfl

section Free
variable (reqs : s.anchor.reqs = (u, fails) :: rest) (writing : s.anchor.writing = none) (known : s.anchorKey = some key)
  (free : s.grounded = false) (up : s.pageState 0x25 ≠ pgFault) (scanned : s.anchor.scanned = true)
include reqs writing known free up scanned

theorem startWrite_free : startWrite s = if !s.budgetOk u then setCond E.ANCHOR.BUDGET true else match s.nextAnchorSlot with
    | none => storeFault
    | some n => beginWrite s u fails rest n (s.recordOf u key n) := by
  have held : ¬ (s.grounded = true ∨ s.pageState 0x25 = pgFault ∨ (!s.anchor.scanned) = true) := by simp [free, up, scanned]
  unfold startWrite
  simp only [reqs, writing, known, if_neg held]

end Free

end WriteStart

/-- A write that has begun: what the port has been asked, the store, and the SEQ taken. -/
def State.writing (t : State) (out : List Out) (a : AnchorState) (seq : Nat) : Prop :=
  t.out = out ∧ t.anchor = a ∧ t.fld R.ANCHOR_SEQ.SEQ = seq ∧ ¬ t.shows E.ANCHOR.BUDGET

theorem keeps_writing_anchorRefresh (out : List Out) (a : AnchorState) (seq : Nat) : Keeps (fun t => t.writing out a seq) anchorRefresh := by
  rintro s l ⟨out, anchor, seq, silent⟩
  refine ⟨?_, ?_, ?_, ?_⟩
  · rw [← show _ = _ from within_anchorRefresh.same .out (by decide) s l]
    exact out
  · rw [← show _ = _ from within_anchorRefresh.same .anchor (by decide) s l]
    exact anchor
  · rw [within_anchorRefresh.fld_clear (by decide)]
    exact seq
  · rw [anchorRefresh_shows (d := E.ANCHOR.BUDGET) (by decide)]
    exact silent

/-- The store of a begun write, and what is left to keep. -/
theorem leads_begun (out : List Out) (a b : AnchorState) (seq : Nat) :
    Leads (fun t => t.writing out a seq) (do prim (.anchor b); anchorRefresh) fun _ t => t.writing out b seq := by
  refine leads_bind (R := fun _ t => t.writing out b seq) (leads_prim fun t h => ?_) fun _ => keeps_writing_anchorRefresh out b seq
  obtain ⟨out, -, seq, silent⟩ := h
  refine ⟨?_, ?_, ?_, ?_⟩
  · rw [Prim.run_out]
    exact out
  · rw [Prim.run_anchor]
  · rw [fld_anchor]
    exact seq
  · rw [State.shows, fld_anchor]
    exact silent

/-- A record and the SEQ it takes, written: what the port is asked, and the store that results. -/
theorem beginWrite_begins (s : State) (u : AnchorUse) (fails : Nat) (rest : List (AnchorUse × Nat)) (n : Nat) (r : Bytes) :
    Leads (fun t => t.out = s.out ∧ t.anchor = s.anchor) (beginWrite s u fails rest n r) fun _ t =>
      t.writing (s.out ++ [.anchorWrite n r]) (s.anchorBegun u fails rest n r) s.anchor.nextSeq.toNat := by
  have quiet := within_setCond E.ANCHOR.BUDGET (by decide) false .other
  have wide : s.anchor.nextSeq.toNat < 2 ^ 64 := s.anchor.nextSeq.isLt
  refine leads_bind (R := fun _ t => t.out = s.out ∧ t.anchor = s.anchor ∧ ¬ t.shows E.ANCHOR.BUDGET) (fun s' l h => ⟨?_, ?_, ?_⟩) fun _ => ?_
  · rw [← show _ = _ from quiet.same .out (by decide) s' l]
    exact h.1
  · rw [← show _ = _ from quiet.same .anchor (by decide) s' l]
    exact h.2
  · exact setCond_not_shows (by decide) .other s' l
  refine leads_bind (R := fun _ t => t.out = s.out ++ [.anchorWrite n r] ∧ t.anchor = s.anchor ∧ ¬ t.shows E.ANCHOR.BUDGET)
    (leads_prim fun t h => ⟨?_, ?_, ?_⟩) fun _ => ?_
  · rw [Prim.run_out, ← h.1]
  · rw [Prim.run_anchor]
    exact h.2.1
  · rw [State.shows, fld_out]
    exact h.2.2
  refine leads_bind (R := fun _ t => t.writing (s.out ++ [.anchorWrite n r]) s.anchor s.anchor.nextSeq.toNat) (fun s' l h => ⟨?_, ?_, ?_, ?_⟩)
    fun _ => leads_begun _ _ _ _
  · rw [runAll_wr]
    exact h.1
  · rw [runAll_wr]
    exact h.2.1
  · rw [fld_wr_wide _ _ rfl rfl, Nat.mod_eq_of_lt wide]
  · rw [shows_wr _ (by decide)]
    exact h.2.2

/-! ### The footprint of a write's start -/

theorem within_beginWrite (s : State) (u : AnchorUse) (fails : Nat) (rest : List (AnchorUse × Nat)) (n : Nat) (r : Bytes) :
    Within ([.anchor, .out, .power] ++ recordParts) storeWords (beginWrite s u fails rest n r) := by
  refine within_bind ((within_setCond _ (by decide) _ _).mono (by decide) (eventWord_faultPages (by decide))) fun _ => ?_
  refine within_bind (within_emit _ (by decide)) fun _ => within_bind ?_ fun _ => within_bind ?_ fun _ =>
    within_anchorRefresh_store.mono (by decide) fun _ h => h
  · exact (within_wr_page (qs := [0x05, 0x25, 0x3C]) (evts := [0x05, 0x25, 0x3C]) _ _ (by decide) (by decide) (by decide) (by decide)).mono
      (fun _ h => h) (ownPages_faultPages (fun _ h => h) fun _ h => h)
  · exact within_prim (by simp [Prim.pieces]) (by simp [Prim.pieces])

theorem within_anchorWriteStart : Within ([.anchor, .out, .power] ++ recordParts) storeWords anchorWriteStart := by
  rw [anchorWriteStart_eq]
  refine within_bind within_getS fun s => ?_
  unfold startWrite
  split
  · refine within_ite (within_pure _) (within_ite ?_ ?_)
    · exact (within_setCond _ (by decide) _ _).mono (by decide) (eventWord_faultPages (by decide))
    · split
      · exact within_storeFault.mono (by decide) (faultPages_mono (by decide) (by decide))
      · exact within_beginWrite _ _ _ _ _ _
  · exact within_pure _

end Sys2Proof.Machine
end

section
/-! What an anchor record read back may change (R52, R274, R404, R456). -/
namespace Sys2Proof.Machine
open Sys2Proof

variable {α : Type}

/-- The pages of what waits for a record. -/
abbrev backPages : List Nat := lanePages ++ [0x05, 0x24, 0x25, 0x28, 0x29, 0x2A, 0x30, 0x34, 0x3A, 0x3C]
abbrev backWords : Nat → Bool := ownPages backPages backPages

/-- What follows a record read back, but for the anchor store. -/
abbrev doneParts : List Piece := [.cmdLate, .mem, .out, .parts, .rng, .sched] ++ recordParts

/-- A field in one of the pages, above the header. -/
abbrev RegField.OfBack (x : RegField) : Prop :=
  x.addr / 0x1000 ∈ backPages ∧ 0x40 ≤ x.addr % 0x1000 ∧ (x.hi < 32 ∨ x.hi < 64 ∧ x.addr % 0x1000 + 4 < 0x1000)

theorem within_wr_back {ps : List Piece} {x : RegField} (v : Nat) (hp : .regs ∈ ps) (h : x.OfBack) : Within ps backWords (wr x v) :=
  within_wr_page x v hp h.1 h.2.1 h.2.2

theorem within_raise_back (e : PageEvent) (h : e.page < 64 ∧ e.page ∈ backPages) (c : EntryClass) : Within recordParts backWords (raise e c) :=
  (within_raise e h.1 c).mono (fun _ h => h) fun a ha => eventWord_ownPages _ _ a (eventWord_mono (by simpa using h.2) a ha)

/-! ### The ceiling and the epoch -/

theorem within_firstEpoch : Within doneParts backWords firstEpoch := by
  have ask : Within doneParts backWords askEpoch :=
    within_bind within_getS fun _ => within_ite (within_askRandom _ _ _ (by decide) (by decide) (by decide)) (within_pure _)
  exact within_bind within_getS fun _ => within_ite (within_ite ask (within_wr_back _ (by decide) (by decide))) (within_pure _)

/-- The registers of a BALLAST record read back. -/
def moveCeiling (ceiling : BitVec 64) (resets : BitVec 32) : M Unit := do
  wr R.FRESH_CEILING.C ceiling.toNat
  wr R.ANCHOR_RESETS.COUNT resets.toNat
  wr R.FRESH_STAT.CEIL_WAIT 0
  setCond E.FRESH.CEIL_WAIT false

theorem within_moveCeiling (c : BitVec 64) (r : BitVec 32) : Within recordParts backWords (moveCeiling c r) := by
  have regs : Piece.regs ∈ recordParts := by decide
  refine within_bind (within_wr_back _ regs (by decide)) fun _ => within_bind (within_wr_back _ regs (by decide)) fun _ =>
    within_bind (within_wr_back _ regs (by decide)) fun _ => ?_
  exact (within_setCond _ (by decide) _ _).mono (fun _ h => h) fun a h => eventWord_ownPages _ _ a (eventWord_mono (by decide) a h)

/-! ### Roots -/

/-- A CKPT that waits for its record ends. -/
def endRecord (n : Nat) : M Unit := do
  let s ← getS
  if s.mem.cmd = .record n then
    prim (.mem { s.mem with cmd := .none })
    cmdEnd U.mem rcOk

theorem within_endRecord (n : Nat) : Within doneParts (ownWords [R.MEM_CMD_STAT.BUSY.addr] []) (endRecord n) := by
  refine within_bind within_getS fun _ => within_ite (within_bind (within_prim (by simp [Prim.pieces, doneParts]) (by simp [Prim.pieces])) fun _ => ?_)
    (within_pure _)
  exact within_cmdEnd U.mem rcOk (by decide) (by decide) (by decide) (by decide) (by decide) fun e he => absurd he (by simp [U.mem])

theorem ctl_back (n : Nat) : (R.MEMRGN_CTL.INIT n).OfBack ∧ (R.MEMRGN_CTL.RESTING n).OfBack := by
  have page : (R.MEMRGN_CTL.INIT n).addr / 0x1000 = 0x29 + n % 16 / 8 := by
    simp only [R.MEMRGN_CTL.INIT]
    omega
  have pages : ∀ k < 2, 0x29 + k ∈ backPages := by decide
  have at' : (R.MEMRGN_CTL.INIT n).addr / 0x1000 ∈ backPages := page ▸ pages _ (by omega)
  exact ⟨⟨at', by simp only [R.MEMRGN_CTL.INIT]; omega, .inl (by simp [R.MEMRGN_CTL.INIT])⟩,
    ⟨at', by simp only [R.MEMRGN_CTL.RESTING]; omega, .inl (by simp [R.MEMRGN_CTL.RESTING])⟩⟩

/-- Where the record closes a checkpoint, CKPT_DONE; where it opens the region, it is neither initialising nor resting. -/
theorem rootWritten_eq (n : Nat) (p : Bytes) : rootWritten n p = if recClosed p then (do raise E.MEM.CKPT_DONE; endRecord n)
    else (do wr (R.MEMRGN_CTL.INIT n) 0; wr (R.MEMRGN_CTL.RESTING n) 0; endRecord n) := by
  unfold rootWritten endRecord
  split <;> rfl

theorem within_rootWritten (n : Nat) (p : Bytes) : Within doneParts backWords (rootWritten n p) := by
  have regs : Piece.regs ∈ doneParts := by decide
  have tail : Within doneParts backWords (endRecord n) := (within_endRecord n).mono (fun _ h => h) fun a h => by
    rcases Bool.or_eq_true_iff.1 h with h | h
    · simp only [List.contains_eq_mem, decide_eq_true_eq, List.mem_singleton] at h
      subst h
      decide
    · exact eventWord_ownPages _ _ a (eventWord_mono (by decide) a h)
  rw [rootWritten_eq]
  refine within_ite (within_bind ?_ fun _ => tail) (within_bind (within_wr_back _ regs (ctl_back n).1) fun _ =>
    within_bind (within_wr_back _ regs (ctl_back n).2) fun _ => tail)
  exact (within_raise_back _ (by decide) _).mono (by decide) fun _ h => h

/-! ### Partitions -/

theorem within_laneWork (c n : Nat) : Within doneParts backWords (laneWork c n) := by
  have regs : Piece.regs ∈ doneParts := by decide
  have lanes : ∀ k < 4, 8 + k ∈ backPages := by decide
  have slots : Within doneParts backWords (countSlots c n) := by
    refine within_ite (within_bind within_getS fun _ => within_bind (within_prim (by simp [Prim.pieces, doneParts]) (by simp [Prim.pieces])) fun _ =>
      within_bind (within_rd _) fun _ => within_wr_back _ regs ⟨?_, ?_, ?_⟩) (within_pure _)
    · have page : (R.SCHED_SLOTS.COUNT c).addr / 0x1000 = 0x0C := by
        simp only [R.SCHED_SLOTS.COUNT]
        omega
      rw [page]
      decide
    · simp only [R.SCHED_SLOTS.COUNT]
      omega
    · simp only [R.SCHED_SLOTS.COUNT]
      omega
  have blocks (l : Nat) : Within doneParts backWords (countBlocks l n) := by
    refine within_ite (within_bind (within_rd _) fun _ => within_wr_back _ regs ⟨?_, ?_, ?_⟩) (within_pure _)
    · have page : (R.LANE_BLOCKS.COUNT l).addr / 0x1000 = 8 + l % 4 := by
        simp only [R.LANE_BLOCKS.COUNT]
        omega
      exact page ▸ lanes _ (by omega)
    · simp only [R.LANE_BLOCKS.COUNT]
      omega
    · simp only [R.LANE_BLOCKS.COUNT]
      omega
  refine within_bind within_getS fun s => ?_
  split
  · exact within_bind slots fun _ => blocks _
  · exact within_pure _

/-- A register of a partition. -/
theorem part_back (p : Nat) : (R.STOR_PART_CTL.STATE p).OfBack ∧ (R.STOR_PART_CTL.OUTCOME p).OfBack ∧ (R.STOR_PART_DIRTY.TUS p).OfBack := by
  have at' (x : RegField) (h : 0x30400 ≤ x.addr ∧ x.addr < 0x30600 ∧ x.hi < 32) : x.OfBack := by
    have page : x.addr / 0x1000 = 0x30 := by omega
    exact ⟨page ▸ (by decide : 0x30 ∈ backPages), by omega, .inl h.2.2⟩
  refine ⟨at' _ ?_, at' _ ?_, at' _ ?_⟩ <;> simp only [R.STOR_PART_CTL.STATE, R.STOR_PART_CTL.OUTCOME, R.STOR_PART_DIRTY.TUS] <;> omega

theorem within_partCmdEnd (p code : Nat) : Within doneParts backWords (partCmdEnd p code) := by
  refine within_bind within_getS fun _ => within_ite ?_ (within_pure _)
  refine within_cmdEnd U.stor code (by decide) (by decide) (by decide) (by decide) (by decide) fun e he => ?_
  cases he
  exact ⟨by decide, fun a h => eventWord_ownPages _ _ a (eventWord_mono (by decide) a h)⟩

theorem within_part (p : Nat) (q : Part) : Within doneParts backWords (prim (.part p q)) :=
  within_prim (by simp [Prim.pieces, doneParts]) (by simp [Prim.pieces])

theorem within_raise_part (e : PageEvent) (h : e.page < 64 ∧ e.page ∈ backPages) : Within doneParts backWords (raise e) :=
  (within_raise_back e h _).mono (by decide) fun _ h => h

theorem within_dropPart (p outcome : Nat) : Within doneParts backWords (dropPart p outcome) := by
  have regs : Piece.regs ∈ doneParts := by decide
  obtain ⟨state, out, -⟩ := part_back p
  exact within_bind within_getS fun _ => within_ite (within_bind (within_wr_back _ regs state) fun _ => within_bind (within_wr_back _ regs out) fun _ =>
    within_bind (within_part _ _) fun _ => within_bind (within_raise_part _ (by decide)) fun _ => within_partCmdEnd _ _) (within_pure _)

theorem within_sealTu (c : PartCfg) (p j e : Nat) (kt entries : Bytes) (m : Dram) : Within doneParts backWords (sealTu c p j e kt entries m) := by
  have out : Piece.out ∈ doneParts := by decide
  refine within_bind (within_laneWork _ _) fun _ => ?_
  dsimp only
  exact within_bind (within_bind (within_dramWrite _ _ _ _ out) fun _ => within_ite (within_dramWrite _ _ _ _ out) (within_pure _)) fun _ =>
    within_pure _

theorem within_sealTus (c : PartCfg) (p e : Nat) (kt : Bytes) (format : Bool) (m : Dram) (js : List Nat) :
    Within doneParts backWords (sealTus c p e kt format m js) := by
  have out : Piece.out ∈ doneParts := by decide
  have read (a n : Nat) := within_readDram (ps := doneParts) (f := backWords) m a n Config.selfRid out
  induction js with
  | nil => exact within_pure _
  | cons j r ih =>
    refine within_bind (within_ite (within_pure _) (within_bind (read _ _) fun b => ?_)) fun keep => ?_
    · cases b with
      | none => exact within_pure _
      | some b => exact within_ite (within_bind (read _ _) fun _ => within_pure _) (within_bind (read _ _) fun _ => within_pure _)
    · rcases keep with _ | ⟨dirty, x⟩
      · exact within_pure _
      · refine within_bind (within_ite (within_sealTu _ _ _ _ _ _ _) (within_pure _)) fun d => ?_
        cases d with
        | none => exact within_pure _
        | some d => exact within_bind ih fun _ => within_pure _

/-- The header and the seal of an image: the partition is SEALED, or it is dropped. -/
theorem within_sealImage (p : Nat) (format : Bool) (m : Dram) : Within doneParts backWords (sealImage p format m) := by
  have regs : Piece.regs ∈ doneParts := by decide
  have out : Piece.out ∈ doneParts := by decide
  have write (a : Nat) (b : Bytes) := within_dramWrite (ps := doneParts) (f := backWords) m a b Config.selfRid out
  obtain ⟨state, outcome, tus⟩ := part_back p
  refine within_bind within_getS fun s => ?_
  dsimp only
  refine within_bind (within_ite (write _ _) (within_pure _)) fun ok0 => within_bind (within_ite (within_sealTus _ _ _ _ _ _ _) (within_pure _)) fun x => ?_
  rcases x with _ | ⟨dir, k⟩
  · exact within_dropPart _ _
  · have ended : Within doneParts backWords (do raise E.STOR.SEALED; partCmdEnd p rcOk) :=
      within_bind (within_raise_part _ (by decide)) fun _ => within_partCmdEnd _ _
    refine within_bind (within_bind (write _ _) fun _ => within_ite (write _ _) (within_pure _)) fun _ => within_ite ?_ (within_dropPart _ _)
    refine within_bind within_getS fun _ => within_bind (within_part _ _) fun _ => within_bind (within_wr_back _ regs tus) fun _ =>
      within_bind (within_wr_back _ regs state) fun _ => ?_
    split
    · exact within_bind (within_wr_back _ regs outcome) fun _ => ended
    · exact ended

theorem within_storageWritten (p : Nat) (m : Dram) : Within doneParts backWords (storageWritten p m) := by
  have regs : Piece.regs ∈ doneParts := by decide
  obtain ⟨state, outcome, -⟩ := part_back p
  refine within_bind within_getS fun s => ?_
  have mounted (o : Nat) : Within doneParts backWords (do
      prim (.part p { s.part p with wait := .none })
      wr (R.STOR_PART_CTL.STATE p) psMounted
      wr (R.STOR_PART_CTL.OUTCOME p) o
      partCmdEnd p rcOk) :=
    within_bind (within_part _ _) fun _ => within_bind (within_wr_back _ regs state) fun _ => within_bind (within_wr_back _ regs outcome) fun _ =>
      within_partCmdEnd _ _
  dsimp only
  split
  · exact within_bind (mounted _) fun _ => within_ite (within_raise_part _ (by decide)) (within_pure _)
  · exact mounted _
  · exact within_sealImage _ _ _
  · exact within_sealImage _ _ _
  · exact within_pure _

end Sys2Proof.Machine
end

section
/-! An anchor record read back (R285, R287): a record that is live, or a slot retired. -/
namespace Sys2Proof.Machine
open Sys2Proof

variable {α : Type}

/-! ### A write that failed (R287) -/

/-- The bit of a whole 64-bit register that has been set. -/
theorem fld_wrBit_wide (x : RegField) (i : Nat) (hl : x.lo = 0) (hh : x.hi = 63) (hi : i < 64) (s : State) (l : List Prim) :
    ((runAll (wrBit x i true s l).2 s).fld x).testBit i = true := by
  simp only [wrBit, rd_bind, if_true, fld_wr_wide x _ hl hh, Nat.testBit_mod_two_pow, Nat.testBit_or, Nat.testBit_two_pow_self]
  simp [hi]

/-- A failed write has been counted, its slot is retired, and the store is `a`. -/
def State.retired (t : State) (count slot : Nat) (a : AnchorState) : Prop :=
  t.fld R.ANCHOR_FAILS.COUNT = count ∧ (t.fld R.ANCHOR_BAD.BAD).testBit slot = true ∧ t.shows E.ANCHOR.WRITE_FAIL
    ∧ t.shows E.ANCHOR.SLOT_RETIRED ∧ t.anchor = a

/-- What leaves the two registers, the two events and the store alone. -/
theorem Within.keeps_retired {ps : List Piece} {f : Nat → Bool} {m : M Unit} (h : Within ps f m) (hp : .anchor ∉ ps)
    (hf : R.ANCHOR_FAILS.COUNT.Clear f ∧ R.ANCHOR_BAD.BAD.Clear f)
    (shows : ∀ d, d = E.ANCHOR.WRITE_FAIL ∨ d = E.ANCHOR.SLOT_RETIRED → ∀ s l, (runAll (m s l).2 s).shows d ↔ (runAll l s).shows d)
    (count slot : Nat) (a : AnchorState) : Keeps (fun t => t.retired count slot a) m := by
  rintro s l ⟨fails, bad, wrote, gone, store⟩
  refine ⟨?_, ?_, (shows _ (.inl rfl) s l).2 wrote, (shows _ (.inr rfl) s l).2 gone, ?_⟩
  · rw [h.fld_clear hf.1]
    exact fails
  · rw [h.fld_clear hf.2]
    exact bad
  · rw [← show _ = _ from h.same .anchor hp s l]
    exact store

theorem keeps_retired_anchorRefresh (count slot : Nat) (a : AnchorState) : Keeps (fun t => t.retired count slot a) anchorRefresh :=
  within_anchorRefresh.keeps_retired (by decide) (by decide) (by
    rintro d (rfl | rfl) s l
    · exact anchorRefresh_shows (by decide) s l
    · exact anchorRefresh_shows (by decide) s l) _ _ _

theorem keeps_retired_storeFault (count slot : Nat) (a : AnchorState) : Keeps (fun t => t.retired count slot a) storeFault :=
  within_storeFault.keeps_retired (by decide) (by decide) (by
    rintro d (rfl | rfl) s l
    · exact storeFault_shows (by decide) (by decide) s l
    · exact storeFault_shows (by decide) (by decide) s l) _ _ _

/-- The store of a failed write: its record is asked for again, first of all. -/
def AnchorState.askAgain (a : AnchorState) (w : AnchorWrite) : AnchorState :=
  { a with writing := none, reqs := (w.use, w.fails + 1) :: a.reqs }

/-- The record asked for again, and the store's fault with the fourth failure. -/
theorem askAgain_leads (w : AnchorWrite) (count slot : Nat) (a : AnchorState) :
    Leads (fun t => t.retired count slot a) (do
      let a := (← getS).anchor
      prim (.anchor (a.askAgain w))
      anchorRefresh
      if 4 ≤ w.fails + 1 then storeFault) fun _ t => t.retired count slot (a.askAgain w) ∧ (3 ≤ w.fails → t.storeFails) := by
  refine leads_getS fun u => leads_bind (R := fun _ t => t.retired count slot (a.askAgain w)) (leads_prim fun t h => ?_) fun _ =>
    leads_bind (keeps_retired_anchorRefresh _ _ _) fun _ => ?_
  · obtain ⟨rfl, fails, bad, wrote, gone, rfl⟩ := h
    refine ⟨?_, ?_, ?_, ?_, ?_⟩
    · rw [fld_anchor]
      exact fails
    · rw [fld_anchor]
      exact bad
    · rw [State.shows, fld_anchor]
      exact wrote
    · rw [State.shows, fld_anchor]
      exact gone
    · rw [Prim.run_anchor]
  · refine leads_ite (fun _ s l h => ⟨keeps_retired_storeFault _ _ _ s l h, fun _ => storeFault_fails s l⟩) fun low => leads_pure fun t h => ⟨h, ?_⟩
    exact fun most => absurd (by omega) low

/-- What a failed write leads to. -/
theorem anchorFailed_leads (w : AnchorWrite) (h : w.slot < 64) (n : Nat) (a : AnchorState) :
    Leads (fun t => t.fld R.ANCHOR_FAILS.COUNT = n ∧ t.anchor = a) (anchorFailed w) fun _ t =>
      t.retired (min (n + 1) (2 ^ 32 - 1)) w.slot (a.askAgain w) ∧ (3 ≤ w.fails → t.storeFails) := by
  let count := min (n + 1) (2 ^ 32 - 1)
  have failed : Within recordParts (eventWord [0x25]) (raise E.ANCHOR.WRITE_FAIL) := within_raise _ (by decide) _
  have gone : Within recordParts (eventWord [0x25]) (raise E.ANCHOR.SLOT_RETIRED) := within_raise _ (by decide) _
  refine leads_bind (R := fun _ t => t.fld R.ANCHOR_FAILS.COUNT = count ∧ t.anchor = a) (fun s l h => ⟨?_, ?_⟩) fun _ => ?_
  · rw [fld_bump _ (by decide) (by decide), h.1]
    rfl
  · have word := within_bump (ps := [.regs]) (f := fun _ => true) R.ANCHOR_FAILS.COUNT (by decide) rfl (fun _ => rfl) fun _ => rfl
    rw [← show _ = _ from word.same .anchor (by decide) s l]
    exact h.2
  refine leads_bind (R := fun _ t => t.fld R.ANCHOR_FAILS.COUNT = count ∧ (t.fld R.ANCHOR_BAD.BAD).testBit w.slot = true ∧ t.anchor = a)
    (fun s l k => ⟨?_, fld_wrBit_wide _ _ rfl rfl h s l, ?_⟩) fun _ => ?_
  · rw [fld_wrBit_apart _ _ (by decide)]
    exact k.1
  · have word := within_wrBit (ps := [.regs]) (f := fun _ => true) R.ANCHOR_BAD.BAD w.slot true (by decide) rfl (fun _ => rfl) fun _ => rfl
    rw [← show _ = _ from word.same .anchor (by decide) s l]
    exact k.2
  refine leads_bind (R := fun _ t => (t.fld R.ANCHOR_FAILS.COUNT = count ∧ (t.fld R.ANCHOR_BAD.BAD).testBit w.slot = true ∧ t.anchor = a)
    ∧ t.shows E.ANCHOR.WRITE_FAIL) (fun s l k => ⟨⟨?_, ?_, ?_⟩, raise_shows _ (by decide) (by decide) (by decide) _ s l⟩) fun _ => ?_
  · rw [failed.fld_clear (by decide)]
    exact k.1
  · rw [failed.fld_clear (by decide)]
    exact k.2.1
  · rw [← show _ = _ from failed.same .anchor (by decide) s l]
    exact k.2.2
  refine leads_bind (R := fun _ t => t.retired count w.slot a) (fun s l k => ?_) fun _ => askAgain_leads w count w.slot a
  obtain ⟨⟨fails, bad, store⟩, wrote⟩ := k
  refine ⟨?_, ?_, ?_, raise_shows _ (by decide) (by decide) (by decide) _ s l, ?_⟩
  · rw [gone.fld_clear (by decide)]
    exact fails
  · rw [gone.fld_clear (by decide)]
    exact bad
  · rw [raise_shows_beside (d := E.ANCHOR.WRITE_FAIL) (by decide)]
    exact wrote
  · rw [← show _ = _ from gone.same .anchor (by decide) s l]
    exact store

/-! ### A record that is live (R285) -/

/-- The store with a record live. -/
def AnchorState.goLive (a : AnchorState) (w : AnchorWrite) : AnchorState :=
  let k := beAt w.record 2 1 * 16 + beAt w.record 3 1
  { a with writing := none, live := a.live.filter (fun l => l.key ≠ k) ++ [⟨w.slot, k, slice w.record 16 40⟩] }

theorem anchorLive_leads (w : AnchorWrite) (a : AnchorState) :
    Leads (fun t => t.anchor = a) (anchorLive w) fun _ t => t.anchor = a.goLive w := by
  refine leads_getS fun u => leads_bind (R := fun _ t => t.anchor = a.goLive w) (leads_prim fun t h => ?_) fun _ s l h => ?_
  · obtain ⟨rfl, rfl⟩ := h
    rw [Prim.run_anchor]
    rfl
  · rw [← show _ = _ from within_anchorRefresh.same .anchor (by decide) s l]
    exact h

/-- The ceiling, the count of resets and the end of the wait of a BALLAST record. -/
def State.ceilingAt (t : State) (c r : Nat) (a : AnchorState) : Prop :=
  t.anchor = a ∧ t.fld R.FRESH_CEILING.C = c ∧ t.fld R.ANCHOR_RESETS.COUNT = r ∧ t.fld R.FRESH_STAT.CEIL_WAIT = 0
    ∧ ¬ t.shows E.FRESH.CEIL_WAIT

/-- What the first epoch of a start-up stores. -/
theorem within_firstEpoch_own : Within [.regs, .rng] (ownWords [R.KEYS_PARK_EPOCH.EPOCH.addr, R.KEYS_PARK_EPOCH.EPOCH.addr + 4,
    R.RNG_STAT.KEY_WAIT.addr] []) firstEpoch := by
  have ask : Within [.regs, .rng] (ownWords [R.KEYS_PARK_EPOCH.EPOCH.addr, R.KEYS_PARK_EPOCH.EPOCH.addr + 4, R.RNG_STAT.KEY_WAIT.addr] []) askEpoch :=
    within_bind within_getS fun _ => within_ite (within_askRandom _ _ _ (by decide) (by decide) (by decide)) (within_pure _)
  exact within_bind within_getS fun _ => within_ite (within_ite ask (within_wr _ _ (by decide) (by decide) (fun _ => by decide)
    fun h => absurd h (by decide))) (within_pure _)

theorem keeps_ceilingAt_firstEpoch (c r : Nat) (a : AnchorState) : Keeps (fun t => t.ceilingAt c r a) firstEpoch := by
  rintro s l ⟨store, ceiling, resets, wait, silent⟩
  have own := within_firstEpoch_own
  refine ⟨?_, ?_, ?_, ?_, ?_⟩
  · rw [← show _ = _ from own.same .anchor (by decide) s l]
    exact store
  · rw [own.fld_clear (by decide)]
    exact ceiling
  · rw [own.fld_clear (by decide)]
    exact resets
  · rw [own.fld_clear (by decide)]
    exact wait
  · rw [own.shows_clear (by decide)]
    exact silent

theorem moveCeiling_leads (c : BitVec 64) (r : BitVec 32) (a : AnchorState) :
    Leads (fun t => t.anchor = a) (moveCeiling c r) fun _ t => t.ceilingAt c.toNat r.toNat a := by
  have c64 : c.toNat < 2 ^ 64 := c.isLt
  have r32 : r.toNat < 2 ^ 32 := r.isLt
  have quiet : Within recordParts (eventWord [0x24]) (setCond E.FRESH.CEIL_WAIT false) := within_setCond _ (by decide) _ _
  refine leads_bind (R := fun _ t => t.anchor = a ∧ t.fld R.FRESH_CEILING.C = c.toNat) (fun s l h => ⟨?_, ?_⟩) fun _ => ?_
  · rw [runAll_wr]
    exact h
  · rw [fld_wr_wide _ _ rfl rfl, Nat.mod_eq_of_lt c64]
  refine leads_bind (R := fun _ t => t.anchor = a ∧ t.fld R.FRESH_CEILING.C = c.toNat ∧ t.fld R.ANCHOR_RESETS.COUNT = r.toNat)
    (fun s l h => ⟨?_, ?_, ?_⟩) fun _ => ?_
  · rw [runAll_wr]
    exact h.1
  · rw [fld_wr_apart _ (by decide)]
    exact h.2
  · rw [fld_wr_same _ _ (by decide)]
    exact Nat.mod_eq_of_lt r32
  refine leads_bind (R := fun _ t => t.anchor = a ∧ t.fld R.FRESH_CEILING.C = c.toNat ∧ t.fld R.ANCHOR_RESETS.COUNT = r.toNat
    ∧ t.fld R.FRESH_STAT.CEIL_WAIT = 0) (fun s l h => ⟨?_, ?_, ?_, ?_⟩) fun _ s l h => ⟨?_, ?_, ?_, ?_, setCond_not_shows (by decide) .other s l⟩
  · rw [runAll_wr]
    exact h.1
  · rw [fld_wr_apart _ (by decide)]
    exact h.2.1
  · rw [fld_wr_apart _ (by decide)]
    exact h.2.2
  · rw [fld_wr_same _ _ (by decide), Nat.zero_mod]
  · rw [← show _ = _ from quiet.same .anchor (by decide) s l]
    exact h.1
  · rw [quiet.fld_clear (by decide)]
    exact h.2.1
  · rw [quiet.fld_clear (by decide)]
    exact h.2.2.1
  · rw [quiet.fld_clear (by decide)]
    exact h.2.2.2

/-- The store once values may be issued. -/
def AnchorState.lease (a : AnchorState) : AnchorState := { a with leased := true }

theorem ballastDone_leads (c : BitVec 64) (r : BitVec 32) (a : AnchorState) :
    Leads (fun t => t.anchor = a) (ballastDone c r) fun _ t => t.ceilingAt c.toNat r.toNat a.lease := by
  refine leads_getS fun u => leads_bind (R := fun _ t => t.anchor = a.lease) (leads_prim fun t h => ?_) fun _ => moveCeiling_leads c r a.lease
  obtain ⟨rfl, rfl⟩ := h
  rw [Prim.run_anchor]
  rfl

/-! ### A region's root -/

theorem rootWritten_closed {n : Nat} {p : Bytes} (closed : recClosed p = true) (s : State) (l : List Prim) :
    (runAll (rootWritten n p s l).2 s).shows E.MEM.CKPT_DONE := by
  rw [rootWritten_eq, if_pos closed, M.bind_apply, (within_endRecord n).shows_clear (by decide)]
  exact raise_shows _ (by decide) (by decide) (by decide) _ s l

theorem rootWritten_open {n : Nat} {p : Bytes} (opens : recClosed p = false) (s : State) (l : List Prim) :
    let t := runAll (rootWritten n p s l).2 s
    t.fld (R.MEMRGN_CTL.INIT n) = 0 ∧ t.fld (R.MEMRGN_CTL.RESTING n) = 0 := by
  have clear (y : RegField) (h : 0x29000 ≤ y.addr ∧ 0x80 ≤ y.addr % 0x1000 ∧ y.hi < 32) : y.Clear (ownWords [R.MEM_CMD_STAT.BUSY.addr] []) := by
    have off : y.addr % 0x1000 ≠ 0x10 ∧ y.addr % 0x1000 ≠ 0x1C ∧ y.addr ≠ 0x3058 ∧ y.addr ≠ 0x28048 := by omega
    exact ⟨by simp [ownWords, eventWord, off, R.MEM_CMD_STAT.BUSY], by omega, by omega⟩
  have init : (R.MEMRGN_CTL.INIT n).Clear (ownWords [R.MEM_CMD_STAT.BUSY.addr] []) := clear _ (by simp only [R.MEMRGN_CTL.INIT]; omega)
  have rest : (R.MEMRGN_CTL.RESTING n).Clear (ownWords [R.MEM_CMD_STAT.BUSY.addr] []) := clear _ (by simp only [R.MEMRGN_CTL.RESTING]; omega)
  rw [rootWritten_eq, opens, if_neg (by decide), M.bind_apply, M.bind_apply]
  refine ⟨?_, ?_⟩
  · rw [(within_endRecord n).fld_clear init, fld_wr_apart _ (by simp [RegField.Apart, R.MEMRGN_CTL.INIT, R.MEMRGN_CTL.RESTING]),
      fld_wr_same _ _ (by simp [R.MEMRGN_CTL.INIT]), Nat.zero_mod]
  · rw [(within_endRecord n).fld_clear rest, fld_wr_same _ _ (by simp [R.MEMRGN_CTL.RESTING]), Nat.zero_mod]

/-! ### The record read back -/

/-- What waits for a record changes neither the live records nor the write in progress. -/
theorem recordDone_store (u : AnchorUse) (m : Dram) (a : AnchorState) :
    Leads (fun t => t.anchor = a) (recordDone u m) fun _ t => t.anchor.live = a.live ∧ t.anchor.writing = a.writing := by
  have other {m : M Unit} (h : Within doneParts backWords m) : Leads (fun t => t.anchor = a) m fun _ t =>
      t.anchor.live = a.live ∧ t.anchor.writing = a.writing := by
    intro s l k
    rw [← show _ = _ from h.same .anchor (by decide) s l, k]
    exact ⟨rfl, rfl⟩
  cases u with
  | ballast c r lost =>
    refine (leads_bind (ballastDone_leads c r a) fun _ => keeps_ceilingAt_firstEpoch _ _ _).mono (fun _ h => h) fun _ t h => ?_
    rw [h.1]
    exact ⟨rfl, rfl⟩
  | root n p => exact other (within_rootWritten n p)
  | storage p x => exact other (within_storageWritten p m)

/-- A BALLAST record read back. -/
theorem recordDone_ballast (c : BitVec 64) (r : BitVec 32) (lost : Bool) (m : Dram) (a : AnchorState) :
    Leads (fun t => t.anchor = a) (recordDone (.ballast c r lost) m) fun _ t => t.ceilingAt c.toNat r.toNat a.lease :=
  leads_bind (ballastDone_leads c r a) fun _ => keeps_ceilingAt_firstEpoch _ _ _

theorem within_recordDone (u : AnchorUse) (m : Dram) : Within (.anchor :: doneParts) backWords (recordDone u m) := by
  cases u with
  | ballast c r lost =>
    refine within_bind (within_bind within_getS fun _ => within_bind ?_ fun _ => (within_moveCeiling c r).mono (by decide) fun _ h => h) fun _ =>
      within_firstEpoch.mono (fun _ => List.mem_cons_of_mem _) fun _ h => h
    exact within_prim (by simp [Prim.pieces]) (by simp [Prim.pieces])
  | root n p => exact (within_rootWritten n p).mono (fun _ => List.mem_cons_of_mem _) fun _ h => h
  | storage p x => exact (within_storageWritten p m).mono (fun _ => List.mem_cons_of_mem _) fun _ h => h

/-- The pieces and the words of a read-back. -/
abbrev readParts : List Piece := [.anchor, .cmdLate, .mem, .out, .parts, .power, .rng, .sched] ++ recordParts
abbrev readWords : Nat → Bool := faultPages 0x25 backPages backPages

theorem within_back_read {ps : List Piece} {m : M α} (h : Within ps backWords m) (hp : ∀ q ∈ ps, q ∈ readParts) : Within readParts readWords m :=
  h.mono hp fun _ h => Bool.or_eq_true_iff.2 (.inr h)

theorem within_anchor_prim (a : AnchorState) : Within readParts readWords (prim (.anchor a)) :=
  within_prim (by simp [Prim.pieces, readParts]) (by simp [Prim.pieces])

theorem within_refresh_read : Within readParts readWords anchorRefresh :=
  within_anchorRefresh_store.mono (by decide) (faultPages_mono (by decide) (by decide))

theorem within_anchorFailed (w : AnchorWrite) : Within readParts readWords (anchorFailed w) := by
  have regs : Piece.regs ∈ readParts := by decide
  have back {m : M Unit} (h : Within readParts backWords m) := within_back_read h fun _ h => h
  have event (e : PageEvent) (h : e.page < 64 ∧ e.page ∈ backPages) := within_back_read (within_raise_back e h .other) (by decide)
  refine within_bind (back (within_bump_page _ regs (by decide) (by decide) (by decide))) fun _ => within_bind (back ?_) fun _ =>
    within_bind (event _ (by decide)) fun _ => within_bind (event _ (by decide)) fun _ => within_bind within_getS fun _ =>
    within_bind (within_anchor_prim _) fun _ => within_bind within_refresh_read fun _ => within_ite ?_ (within_pure _)
  · exact within_bind (within_rd _) fun _ => within_wr_back _ regs (by decide)
  · exact within_storeFault.mono (by decide) (faultPages_mono (by decide) (by decide))

theorem within_anchorLive (w : AnchorWrite) : Within readParts readWords (anchorLive w) :=
  within_bind within_getS fun _ => within_bind (within_anchor_prim _) fun _ => within_refresh_read

/-- A write that took longer than 20 µs is a grade 0 alarm. -/
def lateWrite (us : Nat) : M Unit := if 20 < us then unitAlarm 0x25 0 else pure ()

theorem within_lateWrite (us : Nat) : Within recordParts (eventWord []) (lateWrite us) := within_ite (within_unitAlarm_zero _) (within_pure _)

/-- What the port's answer leads to. -/
def answerWrite (err : Bool) (read : Bytes) (us : Nat) (m : Dram) (w : AnchorWrite) : M Unit := do
  lateWrite us
  if err ∨ read ≠ w.record then anchorFailed w
  else
    anchorLive w
    recordDone w.use m

theorem within_answerWrite (err : Bool) (read : Bytes) (us : Nat) (m : Dram) (w : AnchorWrite) :
    Within readParts readWords (answerWrite err read us m w) := by
  refine within_bind ((within_lateWrite us).mono (by decide) (eventWord_faultPages (by decide))) fun _ => within_ite (within_anchorFailed w) ?_
  exact within_bind (within_anchorLive w) fun _ => within_back_read (within_recordDone _ _) (by decide)

section Readback
variable {err : Bool} {read : Bytes} {us : Nat} {m : Dram}

/-- What is done for the write in progress, if there is one. -/
def answerAny (err : Bool) (read : Bytes) (us : Nat) (m : Dram) : Option AnchorWrite → M Unit
  | none => pure ()
  | some w => answerWrite err read us m w

theorem anchorReadback_eq : anchorReadback err read us m = getS >>= fun s => answerAny err read us m s.anchor.writing := by
  unfold anchorReadback
  refine congrArg (getS >>= ·) (funext fun s => ?_)
  cases s.anchor.writing with
  | none => rfl
  | some w =>
    simp only [answerAny, answerWrite, lateWrite]
    split <;> rfl

theorem within_anchorReadback : Within readParts readWords (anchorReadback err read us m) := by
  rw [anchorReadback_eq]
  refine within_bind within_getS fun s => ?_
  cases s.anchor.writing with
  | none => exact within_pure _
  | some w => exact within_answerWrite err read us m w

/-- The late write's alarm leaves the store and the count of failures alone. -/
theorem lateWrite_keeps (n : Nat) (a : AnchorState) : Keeps (fun t => t.fld R.ANCHOR_FAILS.COUNT = n ∧ t.anchor = a) (lateWrite us) := by
  rintro s l ⟨fails, store⟩
  refine ⟨?_, ?_⟩
  · rw [(within_lateWrite us).fld_clear (by decide)]
    exact fails
  · rw [← show _ = _ from (within_lateWrite us).same .anchor (by decide) s l]
    exact store

/-- A failed write: four fail the store. -/
theorem answerWrite_failed {w : AnchorWrite} (h : w.slot < 64) (bad : err = true ∨ read ≠ w.record) (n : Nat) (a : AnchorState) :
    Leads (fun t => t.fld R.ANCHOR_FAILS.COUNT = n ∧ t.anchor = a) (answerWrite err read us m w) fun _ t =>
      t.retired (min (n + 1) (2 ^ 32 - 1)) w.slot (a.askAgain w) ∧ (3 ≤ w.fails → t.storeFails) :=
  leads_bind (lateWrite_keeps n a) fun _ => leads_ite (fun _ => anchorFailed_leads w h n a) fun good => absurd bad good

/-- A record read back is live, and what waits for it follows. -/
theorem answerWrite_live {w : AnchorWrite} (ok : err = false) (same : read = w.record) (n : Nat) (a : AnchorState) {Q : Unit → State → Prop}
    (after : Leads (fun t => t.anchor = a.goLive w) (recordDone w.use m) Q) :
    Leads (fun t => t.fld R.ANCHOR_FAILS.COUNT = n ∧ t.anchor = a) (answerWrite err read us m w) Q := by
  refine leads_bind (lateWrite_keeps n a) fun _ => leads_ite (fun bad => ?_) fun _ => ?_
  · exact absurd bad (by simp [ok, same])
  · exact leads_bind ((anchorLive_leads w a).mono (fun _ h => h.2) fun _ _ h => h) fun _ => after

end Readback

end Sys2Proof.Machine
end

section
/-! The start-up scan of the anchor store (R278, R281, R286). -/
namespace Sys2Proof.Machine
open Sys2Proof

variable {α : Type}

/-! ### A list of fields, and the anchor store -/

theorem Leads.and {P : State → Prop} {m : M α} {Q R : α → State → Prop} (hq : Leads P m Q) (hr : Leads P m R) :
    Leads P m fun a t => Q a t ∧ R a t := fun s l h => ⟨hq s l h, hr s l h⟩

/-- The anchor store, and what fields hold. -/
def State.has (t : State) (a : AnchorState) (ys : List RegField) (vs : List Nat) : Prop := t.anchor = a ∧ ys.map t.fld = vs

theorem Within.keeps_has {ps : List Piece} {f : Nat → Bool} {m : M α} (h : Within ps f m) (hp : .anchor ∉ ps) {ys : List RegField}
    (hf : ∀ y ∈ ys, y.Clear f) (a : AnchorState) (vs : List Nat) : Keeps (fun t => t.has a ys vs) m := by
  rintro s l ⟨store, rfl⟩
  refine ⟨?_, List.map_congr_left fun y hy => h.fld_clear (hf y hy) s l⟩
  rw [← show _ = _ from h.same .anchor hp s l]
  exact store

/-- A store adds its field to the list. -/
theorem leads_wr_has {x : RegField} (v : Nat) (hx : x.lo ≤ x.hi ∧ x.hi < 32 ∨ x.lo = 0 ∧ x.hi = 63) {ys : List RegField}
    (hy : ∀ y ∈ ys, x.Apart y) (a : AnchorState) (vs : List Nat) :
    Leads (fun t => t.has a ys vs) (wr x v) fun _ t => t.has a (x :: ys) (v % 2 ^ (x.hi - x.lo + 1) :: vs) := by
  rintro s l ⟨store, rfl⟩
  refine ⟨?_, List.cons_eq_cons.2 ⟨fld_wr_same x v hx s l, List.map_congr_left fun y hm => fld_wr_apart v (hy y hm) s l⟩⟩
  rw [runAll_wr]
  exact store

theorem leads_anchor_has (a b : AnchorState) (ys : List RegField) (vs : List Nat) :
    Leads (fun t => t.has a ys vs) (prim (.anchor b)) fun _ t => t.has b ys vs := by
  refine leads_prim fun t h => ⟨?_, ?_⟩
  · rw [Prim.run_anchor]
  · rw [← h.2]
    exact List.map_congr_left fun y _ => fld_anchor b t y

/-! ### What the scan finds -/

/-- The slots as the port answered, those that are verified, and the live records among them. -/
def scanSlots (store : List (Nat × Bytes)) : List (Nat × Bytes) := (List.range 64).map fun n => (n, padTo 64 (mget (fun _ => []) store n))
def scanGood (store : List (Nat × Bytes)) (key : Bytes) : List (Nat × Bytes) := (scanSlots store).filter fun p => recordVerified (some key) p.1 p.2
def scanLive (store : List (Nat × Bytes)) (key : Bytes) : List (Nat × LiveRec) := foldLive (scanGood store key) []

/-- The BALLAST record's payload, and the slots that hold a record of any kind. -/
def scanBallast (store : List (Nat × Bytes)) (key : Bytes) : Option Bytes :=
  ((scanLive store key).find? fun l => l.2.key = 0x10).map (·.2.payload)
def scanMagic (store : List (Nat × Bytes)) : List (Nat × Bytes) := (scanSlots store).filter fun p => beAt p.2 0 2 = 0xB411

/-- The exponent, brought into its range. -/
def State.scanExp (s : State) (ballast : Option Bytes) : Nat :=
  max s.expMin (min s.expMax (match ballast with | some b => beAt b 12 1 | none => s.fld R.FRESH_STAT.EXP))

/-- The store after the scan. -/
def State.scanStore (s : State) (store : List (Nat × Bytes)) (key : Bytes) : AnchorState :=
  let top := (scanGood store key).foldl (fun (a : Nat × Nat) p => if a.1 ≤ beAt p.2 8 8 then (beAt p.2 8 8, (p.1 + 1) % 64) else a) (0, 0)
  { s.anchor with scanned := true, live := (scanLive store key).map (·.2), nextSeq := BitVec.ofNat 64 (top.1 + 1), nextSlot := top.2 }

/-- A BALLAST record stands: its ceiling, and the next one asked for. -/
def scanFound (b : Bytes) (exp : Nat) : M Unit := do
  let f := beAt b 0 8
  let lost := decide (beAt b 13 1 % 2 = 1)
  wr R.ANCHOR_BAD.BAD (beAt b 16 8)
  wr R.ANCHOR_RESETS.COUNT (beAt b 8 4)
  wr R.FRESH_CEILING.C f
  wr R.FRESH_FLOOR.F f
  wr R.FRESH_STAT.LOST (b2n lost)
  setCond E.FRESH.LOST_MODE lost
  askAnchor (.ballast (BitVec.ofNat 64 (f + 2 ^ exp)) (BitVec.ofNat 32 (beAt b 8 4 + 1)) lost)
  anchorRefresh

/-- No record stands at all. -/
def scanNew (exp : Nat) : M Unit := do
  askAnchor (.ballast (BitVec.ofNat 64 (2 ^ exp)) 1 false)
  anchorRefresh

/-- Only broken records stand: Ballast-lost mode. -/
def scanLost (magic : List (Nat × Bytes)) (exp : Nat) : M Unit := do
  let best := (magic.filter fun p => beAt p.2 2 1 = 1).foldl (fun a p => max a (beAt p.2 24 4)) 0
  wr R.FRESH_STAT.LOST 1
  raise E.ANCHOR.LOST .immediate
  unitAlarm 0x25 2
  setCond E.FRESH.LOST_MODE true
  askAnchor (.ballast (BitVec.ofNat 64 (2 ^ exp)) (BitVec.ofNat 32 (best + 1)) true)
  anchorRefresh

/-- No BALLAST record stands. -/
def scanNone (magic : List (Nat × Bytes)) (exp : Nat) : M Unit := do
  wr R.FRESH_CEILING.C 0
  wr R.FRESH_FLOOR.F 0
  if magic.isEmpty then scanNew exp else scanLost magic exp

def scanBody (magic : List (Nat × Bytes)) (exp : Nat) : Option Bytes → M Unit
  | some b => scanFound b exp
  | none => scanNone magic exp

/-- The scan itself. -/
def scanRuns (s : State) (store : List (Nat × Bytes)) (key : Bytes) : M Unit := do
  let ballast := scanBallast store key
  let exp := s.scanExp ballast
  wr R.FRESH_STAT.EXP exp
  prim (.anchor (s.scanStore store key))
  scanBody (scanMagic store) exp ballast

def scanAny (s : State) (store : List (Nat × Bytes)) : Option Bytes → M Unit
  | none => pure ()
  | some key => if s.anchor.scanned then pure () else scanRuns s store key

theorem startUpScan_eq (store : List (Nat × Bytes)) : startUpScan store = getS >>= fun s => scanAny s store s.anchorKey := by
  unfold startUpScan
  refine congrArg (getS >>= ·) (funext fun s => ?_)
  generalize s.anchorKey = known
  cases known with
  | none => rfl
  | some key =>
    refine congrArg (ite _ _) ?_
    unfold scanRuns State.scanExp State.scanStore scanMagic scanBallast scanLive scanGood scanSlots
    dsimp only
    generalize Option.map _ _ = ballast
    cases ballast <;> rfl

/-! ### What the scan leads to -/

/-- The store once a record is asked for. -/
def AnchorState.ask (a : AnchorState) (u : AnchorUse) : AnchorState := { a with reqs := a.reqs ++ [(u, 0)] }

theorem askAnchor_has (u : AnchorUse) (a : AnchorState) (ys : List RegField) (vs : List Nat) :
    Leads (fun t => t.has a ys vs) (askAnchor u) fun _ t => t.has (a.ask u) ys vs := by
  refine leads_getS fun s l k hs => ?_
  obtain ⟨rfl, h⟩ := hs
  exact h.1 ▸ leads_anchor_has _ _ ys vs l k h

theorem keeps_has_anchorRefresh {ys : List RegField} (hy : ∀ y ∈ ys, y.Clear anchorWords) (a : AnchorState) (vs : List Nat) :
    Keeps (fun t => t.has a ys vs) anchorRefresh := within_anchorRefresh.keeps_has (by decide) hy a vs

theorem keeps_has_lostMode {ys : List RegField} (hy : ∀ y ∈ ys, y.Clear (eventWord [0x24])) (b : Bool) (a : AnchorState) (vs : List Nat) :
    Keeps (fun t => t.has a ys vs) (setCond E.FRESH.LOST_MODE b) := (within_setCond _ (by decide) b .other).keeps_has (by decide) hy a vs

/-- The next record is asked for, and the store's status kept. -/
theorem askNext_has (u : AnchorUse) {ys : List RegField} (hy : ∀ y ∈ ys, y.Clear anchorWords) (a : AnchorState) (vs : List Nat) :
    Leads (fun t => t.has a ys vs) (do askAnchor u; anchorRefresh) fun _ t => t.has (a.ask u) ys vs :=
  leads_bind (askAnchor_has u a ys vs) fun _ => keeps_has_anchorRefresh hy _ vs

/-- A standing record's ceiling is both ceiling and floor, and its mode goes on. -/
theorem scanFound_has (b : Bytes) (exp e : Nat) (a : AnchorState) :
    let f := beAt b 0 8
    let lost := decide (beAt b 13 1 % 2 = 1)
    Leads (fun t => t.has a [R.FRESH_STAT.EXP] [e]) (scanFound b exp) fun _ t =>
      t.has (a.ask (.ballast (BitVec.ofNat 64 (f + 2 ^ exp)) (BitVec.ofNat 32 (beAt b 8 4 + 1)) lost))
        [R.FRESH_STAT.LOST, R.FRESH_FLOOR.F, R.FRESH_CEILING.C, R.ANCHOR_RESETS.COUNT, R.ANCHOR_BAD.BAD, R.FRESH_STAT.EXP]
        [b2n lost % 2 ^ 1, f % 2 ^ 64, f % 2 ^ 64, beAt b 8 4 % 2 ^ 32, beAt b 16 8 % 2 ^ 64, e] := by
  dsimp only
  refine leads_bind (leads_wr_has _ (by decide) (by decide) _ _) fun _ => leads_bind (leads_wr_has _ (by decide) (by decide) _ _) fun _ =>
    leads_bind (leads_wr_has _ (by decide) (by decide) _ _) fun _ => leads_bind (leads_wr_has _ (by decide) (by decide) _ _) fun _ =>
    leads_bind (leads_wr_has _ (by decide) (by decide) _ _) fun _ => leads_bind (keeps_has_lostMode (by decide) _ _ _) fun _ =>
    askNext_has _ (by decide) _ _

theorem scanNew_has (exp e : Nat) (a : AnchorState) :
    Leads (fun t => t.has a [R.FRESH_FLOOR.F, R.FRESH_CEILING.C, R.FRESH_STAT.EXP] [0, 0, e]) (scanNew exp) fun _ t =>
      t.has (a.ask (.ballast (BitVec.ofNat 64 (2 ^ exp)) 1 false)) [R.FRESH_FLOOR.F, R.FRESH_CEILING.C, R.FRESH_STAT.EXP] [0, 0, e] :=
  askNext_has _ (by decide) _ _

/-- What shows of Ballast-lost mode: both events, and the alarm. -/
def State.lostShows (t : State) : Prop :=
  t.shows E.ANCHOR.LOST ∧ t.shows E.FRESH.LOST_MODE ∧ recorded 0x25 0x0020 (alarmPayload 0 2 0 false 0x25) t

theorem keeps_lostShows_ask (u : AnchorUse) : Keeps State.lostShows (askAnchor u) := by
  refine keeps_bind keeps_getS fun _ => keeps_prim fun t h => ?_
  obtain ⟨broken, lost, noted⟩ := h
  refine ⟨?_, ?_, noted⟩
  · rw [State.shows, fld_anchor]
    exact broken
  · rw [State.shows, fld_anchor]
    exact lost

theorem keeps_lostShows_anchorRefresh : Keeps State.lostShows anchorRefresh := by
  rintro s l ⟨broken, lost, noted⟩
  exact ⟨(anchorRefresh_shows (d := E.ANCHOR.LOST) (by decide) s l).2 broken, (within_anchorRefresh.shows_clear (by decide) s l).2 lost,
    keeps_recorded_anchorRefresh s l noted⟩

theorem scanLost_shows (magic : List (Nat × Bytes)) (exp : Nat) : Leads (fun _ => True) (scanLost magic exp) fun _ => State.lostShows := by
  let noted : State → Prop := recorded 0x25 0x0020 (alarmPayload 0 2 0 false 0x25)
  have mode : Within recordParts (eventWord [0x24]) (setCond E.FRESH.LOST_MODE true) := within_setCond _ (by decide) _ _
  refine leads_bind (R := fun _ _ => True) (fun _ _ _ => trivial) fun _ => ?_
  refine leads_bind (R := fun _ t => t.shows E.ANCHOR.LOST) (fun s l _ => raise_shows _ (by decide) (by decide) (by decide) _ s l) fun _ => ?_
  refine leads_bind (R := fun _ t => t.shows E.ANCHOR.LOST ∧ noted t) (fun s l h => ⟨?_, unitAlarm_records _ _ s l trivial⟩) fun _ => ?_
  · exact ((within_unitAlarm _ _).shows_clear (by decide) s l).2 h
  refine leads_bind (R := fun _ => State.lostShows) (fun s l h => ⟨?_, ?_, ?_⟩) fun _ => keeps_bind (keeps_lostShows_ask _) fun _ =>
    keeps_lostShows_anchorRefresh
  · exact (mode.shows_clear (by decide) s l).2 h.1
  · exact setCond_shows (by decide) (by decide) (by decide) .other s l
  · exact keeps_setCond (fun _ _ k => k.recorded) _ _ _ s l h.2

/-- Ballast-lost mode's next record, the first after what the broken records name. -/
theorem scanLost_has (magic : List (Nat × Bytes)) (exp e : Nat) (a : AnchorState) :
    ∃ r, Leads (fun t => t.has a [R.FRESH_FLOOR.F, R.FRESH_CEILING.C, R.FRESH_STAT.EXP] [0, 0, e]) (scanLost magic exp) fun _ t =>
      t.has (a.ask (.ballast (BitVec.ofNat 64 (2 ^ exp)) r true)) (R.FRESH_STAT.LOST :: [R.FRESH_FLOOR.F, R.FRESH_CEILING.C, R.FRESH_STAT.EXP])
        (1 :: [0, 0, e]) := by
  have event : Within recordParts (eventWord [0x25]) (raise E.ANCHOR.LOST .immediate) := within_raise _ (by decide) _
  have alarm : Within wakeParts (ownPages [0x05, 0x3C] [0x05, 0x3C]) (unitAlarm 0x25 2) := within_unitAlarm _ _
  refine ⟨_, leads_bind (leads_wr_has 1 (by decide) (by decide) _ _) fun _ => leads_bind (event.keeps_has (by decide) (by decide) _ _) fun _ =>
    leads_bind (alarm.keeps_has (by decide) (by decide) _ _) fun _ => leads_bind (keeps_has_lostMode (by decide) _ _ _) fun _ =>
    askNext_has _ (by decide) _ _⟩

/-- With no BALLAST record, ceiling and floor are 0. -/
theorem scanNone_stores (magic : List (Nat × Bytes)) (exp e : Nat) (a : AnchorState) {Q : Unit → State → Prop}
    (after : Leads (fun t => t.has a [R.FRESH_FLOOR.F, R.FRESH_CEILING.C, R.FRESH_STAT.EXP] [0, 0, e])
      (if magic.isEmpty then scanNew exp else scanLost magic exp) Q) :
    Leads (fun t => t.has a [R.FRESH_STAT.EXP] [e]) (scanNone magic exp) Q :=
  leads_bind (leads_wr_has 0 (by decide) (by decide) _ _) fun _ => leads_bind (leads_wr_has 0 (by decide) (by decide) _ _) fun _ => after

/-- The exponent and the store, before what the BALLAST record leads to. -/
theorem scanRuns_stores (s : State) (store : List (Nat × Bytes)) (key : Bytes) {Q : Unit → State → Prop}
    (after : Leads (fun t => t.has (s.scanStore store key) [R.FRESH_STAT.EXP] [s.scanExp (scanBallast store key) % 2 ^ 5])
      (scanBody (scanMagic store) (s.scanExp (scanBallast store key)) (scanBallast store key)) Q) :
    Leads (fun t => t.has s.anchor [] []) (scanRuns s store key) Q :=
  leads_bind (leads_wr_has _ (by decide) (by decide) _ _) fun _ => leads_bind (leads_anchor_has _ _ _ _) fun _ => after

/-! ### The exponent -/

theorem expMax_lt (s : State) : s.expMax < 2 ^ 5 := by
  simp only [State.expMax]
  omega

theorem scanExp_range (s : State) (b : Option Bytes) : s.expMin ≤ s.scanExp b ∧ s.scanExp b ≤ s.expMax := by
  have low : s.expMin ≤ s.expMax := Nat.min_le_left _ _
  exact ⟨Nat.le_max_left _ _, Nat.max_le.2 ⟨low, Nat.min_le_left _ _⟩⟩

theorem scanExp_mod (s : State) (b : Option Bytes) : s.scanExp b % 2 ^ 5 = s.scanExp b :=
  Nat.mod_eq_of_lt (Nat.lt_of_le_of_lt (scanExp_range s b).2 (expMax_lt s))

/-! ### The footprint of the scan -/

abbrev scanParts : List Piece := [.anchor, .power] ++ recordParts
abbrev scanWords : Nat → Bool := ownPages [0x05, 0x24, 0x25, 0x3C] [0x05, 0x24, 0x25, 0x3C]

theorem within_askNext (u : AnchorUse) : Within scanParts scanWords (do askAnchor u; anchorRefresh) := by
  refine within_bind (within_bind within_getS fun _ => within_prim (by simp [Prim.pieces]) (by simp [Prim.pieces])) fun _ => ?_
  refine within_anchorRefresh.mono (by decide) fun a h => ?_
  rcases Bool.or_eq_true_iff.1 h with h | h
  · simp only [List.contains_eq_mem, decide_eq_true_eq, List.mem_singleton] at h
    subst h
    decide
  · exact eventWord_ownPages _ _ a (eventWord_mono (by decide) a h)

theorem within_startUpScan (store : List (Nat × Bytes)) : Within scanParts scanWords (startUpScan store) := by
  have regs : Piece.regs ∈ scanParts := by decide
  have wide {x : RegField} (v : Nat) (h : x.addr / 0x1000 ∈ [0x05, 0x24, 0x25, 0x3C] ∧ 0x40 ≤ x.addr % 0x1000
      ∧ (x.hi < 32 ∨ x.hi < 64 ∧ x.addr % 0x1000 + 4 < 0x1000)) : Within scanParts scanWords (wr x v) := within_wr_page x v regs h.1 h.2.1 h.2.2
  have mode (b : Bool) : Within scanParts scanWords (setCond E.FRESH.LOST_MODE b) :=
    (within_setCond _ (by decide) _ _).mono (by decide) fun a h => eventWord_ownPages _ _ a (eventWord_mono (by decide) a h)
  have event : Within scanParts scanWords (raise E.ANCHOR.LOST .immediate) :=
    (within_raise _ (by decide) _).mono (by decide) fun a h => eventWord_ownPages _ _ a (eventWord_mono (by decide) a h)
  have alarm : Within scanParts scanWords (unitAlarm 0x25 2) := (within_unitAlarm _ _).mono (by decide) (ownPages_mono (by decide) (by decide))
  have found (b : Bytes) (exp : Nat) : Within scanParts scanWords (scanFound b exp) :=
    within_bind (wide _ (by decide)) fun _ => within_bind (wide _ (by decide)) fun _ => within_bind (wide _ (by decide)) fun _ =>
      within_bind (wide _ (by decide)) fun _ => within_bind (wide _ (by decide)) fun _ => within_bind (mode _) fun _ => within_askNext _
  have lost (magic : List (Nat × Bytes)) (exp : Nat) : Within scanParts scanWords (scanLost magic exp) :=
    within_bind (wide _ (by decide)) fun _ => within_bind event fun _ => within_bind alarm fun _ => within_bind (mode _) fun _ => within_askNext _
  rw [startUpScan_eq]
  refine within_bind within_getS fun s => ?_
  cases s.anchorKey with
  | none => exact within_pure _
  | some key =>
    refine within_ite (within_pure _) (within_bind (wide _ (by decide)) fun _ =>
      within_bind (within_prim (by simp [Prim.pieces]) (by simp [Prim.pieces])) fun _ => ?_)
    cases scanBallast store key with
    | some b => exact found b _
    | none =>
      exact within_bind (wide _ (by decide)) fun _ => within_bind (wide _ (by decide)) fun _ => within_ite (within_askNext _) (lost _ _)

end Sys2Proof.Machine
end

section
/-! ANCHOR_CMD READ, and the statement of the anchor store. -/
namespace Sys2Proof.Machine
open Sys2Proof

variable {α : Type}

/-! ### A write to a register that holds nothing -/

/-- A word outside a footprint keeps its value. -/
theorem Within.keeps_word {ps : List Piece} {f : Nat → Bool} {m : M α} (h : Within ps f m) {a : Nat} (ha : f a = false) (x : Word) :
    Keeps (fun t => regWord t.regs a = x) m :=
  Foot.keeps h fun p t hp ht => by rw [hp.regWord _ ha, ht]

/-- A word of which a write changes no bit. -/
abbrev stillWord (a : Nat) : Prop := a % 0x1000 ≠ 0x10 ∧ a % 0x1000 ≠ 0x14 ∧ a % 0x1000 ≠ 0x1C ∧ ∀ old v, appliedWord a old v = old

theorem keeps_word_applyWord {a : Nat} (still : stillWord a) (loose : a / 0x1000 ≠ 0x38) (v x : Word) :
    Keeps (fun t => regWord t.regs a = x) (applyWord a v) := by
  obtain ⟨raw, en, sticky, same⟩ := still
  unfold applyWord
  refine leads_getS fun u => leads_ite (fun h => absurd h raw) fun _ => leads_ite (fun h => absurd h en) fun _ =>
    leads_ite (fun h => absurd h sticky) fun _ => leads_ite (fun _ => leads_pure fun t h => h.2) fun _ => leads_getS fun y => ?_
  have free : y.looseHeld a = none := by
    unfold State.looseHeld
    exact if_neg fun h => loose h.1
  rw [free]
  refine leads_prim fun t h => ?_
  obtain ⟨-, rfl, rfl⟩ := h
  rw [same]
  exact mget_mset_same _ _ _ _

/-- What an accepted write does keeps such a word. -/
theorem keeps_word_acceptRecord {w : HostWr} {a : Nat} (ha : w.at = a) (hp : w.page = a / 0x1000) (h : plainWord a) (still : stillWord a)
    (clear : wrWords (a / 0x1000) [] [] a = false) (old x : Word) : Keeps (fun t => regWord t.regs a = x) (acceptRecord w old) := by
  obtain ⟨-, -, loose, lt⟩ := h
  have page : w.page % 64 = a / 0x1000 := by rw [hp, Nat.mod_eq_of_lt lt]
  have mem : Piece.regs ∈ recordParts := by decide
  have off (o : Nat) (ho : o = 0x20 ∨ o = 0x28 ∨ o = 0x2C) : wrWords (a / 0x1000) [] [] (0x1000 * (w.page % 64) + o) = true := by
    have h1 : (0x1000 * (w.page % 64) + o) / 0x1000 = a / 0x1000 := by omega
    have h2 : (0x1000 * (w.page % 64) + o) % 0x1000 = o := by omega
    simp only [wrWords, acceptWord, h1, h2, Bool.or_eq_true, Bool.and_eq_true, decide_eq_true_eq]
    exact .inl ⟨trivial, by tauto⟩
  have tail (st : Stamp) : Within recordParts (wrWords (a / 0x1000) [] []) (do
      bumpMod (R.PG_WRCOUNT.COUNT w.page)
      wr (R.PG_LASTWR_TS.TS w.page) st.ts.toNat
      recordWrite st w old 0) := by
    refine within_bind (within_bumpMod _ mem (off 0x20 (by simp)) (by simp [R.PG_WRCOUNT.COUNT]) (by simp [R.PG_WRCOUNT.COUNT])) fun _ =>
      within_bind (within_wr _ _ mem (off 0x28 (by simp)) (fun _ => off 0x2C (by simp)) (by simp [R.PG_LASTWR_TS.TS])) fun _ => ?_
    refine (within_recordWrite _ _ _ _).mono (fun _ h => h) fun b hb => ?_
    simp [wrWords, ownWords, eventWord_mono (k := [a / 0x1000]) (by simp) b hb]
  have first : Within recordParts (wrWords (a / 0x1000) [] []) stamp := within_stamp (by decide)
  refine keeps_bind (first.keeps_word clear x) fun st => keeps_bind ?_ fun _ => (tail st).keeps_word clear x
  rw [ha]
  exact keeps_word_applyWord still loose _ x

/-- An accepted write to such a word: its register's own effect starts in a state in which the word is as it was. -/
theorem hostWrite_still {a : Nat} (ha : a < 2 ^ 18 ∧ a % 4 = 0) (h : plainWord a) (still : stillWord a) (clear : wrWords (a / 0x1000) [] [] a = false)
    (effect : M Unit) {s : State} {rid : BitVec 12} {v : Nat} (ok : s.accepts rid a v) :
    ∃ l, exec1 (hostWrite (fullWrite rid a (BitVec.ofNat 32 v)) effect) s = .next (runAll (effect s l).2 s)
      ∧ SameBut recordParts s (runAll l s) ∧ WordsBut (wrWords (a / 0x1000) [] []) s (runAll l s) := by
  have at' := fullWrite_at rid (BitVec.ofNat 32 v) ha
  have page := fullWrite_page rid (BitVec.ofNat 32 v) ha.1
  let old := s.view (fullWrite rid a (BitVec.ofNat 32 v)).at
  obtain ⟨same, words⟩ := (within_acceptRecord at' page h old).leaves s
  refine ⟨(acceptRecord (fullWrite rid a (BitVec.ofNat 32 v)) old s []).2, ?_, same, fun b hb => ?_⟩
  · rw [hostWrite_accepted _ _ _ ok, exec1_eq, acceptWrite_plain at' h]
  · by_cases at_a : b = a
    · subst at_a
      exact keeps_word_acceptRecord at' page h still clear old (regWord s.regs b) s [] rfl
    · refine words b ?_
      rw [page]
      simp only [wrWords, ownWords, List.contains_eq_mem, Bool.or_eq_false_iff, decide_eq_false_iff_not, List.mem_singleton] at hb ⊢
      exact ⟨hb.1, at_a, hb.2.2⟩

/-! ### ANCHOR_CMD READ -/

/-- ANCHOR_CMD holds nothing that is written to it. -/
theorem anchorCmd_still : stillWord R.ANCHOR_CMD.OP.addr := by
  have rw0 : wordMask (fun f => f.ty = .rw ∨ f.ty = .rws) R.ANCHOR_CMD.OP.addr = 0#32 := by decide +kernel
  have w1c : wordMask (fun f => f.ty = .w1c) R.ANCHOR_CMD.OP.addr = 0#32 := by decide +kernel
  have w1s : wordMask (fun f => f.ty = .w1s) R.ANCHOR_CMD.OP.addr = 0#32 := by decide +kernel
  refine ⟨by decide, by decide, by decide, fun old v => ?_⟩
  have ones : ~~~0#32 = BitVec.allOnes 32 := BitVec.not_zero
  simp only [appliedWord, rw0, w1c, w1s, BitVec.and_zero, BitVec.or_zero, ones, BitVec.and_allOnes]

/-- The slot's record shown, and whether it is verified and live. -/
def showSlot (s : State) (slot : Nat) (words : Bytes) : M Unit := do
  let r := padTo 64 words
  forM (List.range 16) fun w => wr (R.ANCHOR_REC.WORD w) (beAt r (4 * w) 4)
  wr R.ANCHOR_CMD_STAT.SLOT slot
  wr R.ANCHOR_CMD_STAT.VERIFIED (b2n (recordVerified s.anchorKey slot r))
  wr R.ANCHOR_CMD_STAT.LIVE (b2n (s.anchor.live.any fun l => l.slot = slot))

theorem fxAnchorCmd_eq (slot : Nat) (words : Bytes) : fxAnchorCmd 1 slot words
    = getS >>= fun s => if s.active 0x25 ∧ 1 = 1 ∧ s.fld R.ANCHOR_CMD_STAT.BUSY = 0 then showSlot s slot words else pure () := rfl

theorem within_showSlot (s : State) (slot : Nat) (words : Bytes) : Within [.regs] (ownPages [0x25] []) (showSlot s slot words) := by
  have store {x : RegField} (v : Nat) (h : x.addr / 0x1000 ∈ [0x25] ∧ 0x40 ≤ x.addr % 0x1000 ∧ x.hi < 32) :
      Within [.regs] (ownPages [0x25] []) (wr x v) := within_wr_page x v (by decide) h.1 h.2.1 (.inl h.2.2)
  refine within_bind (within_forM _ fun w => store _ ⟨?_, ?_, ?_⟩) fun _ => within_bind (store _ (by decide)) fun _ =>
    within_bind (store _ (by decide)) fun _ => store _ (by decide)
  · simp [R.ANCHOR_REC.WORD]
    omega
  · simp [R.ANCHOR_REC.WORD]
    omega
  · simp [R.ANCHOR_REC.WORD]

theorem within_fxAnchorCmd (slot : Nat) (words : Bytes) : Within [.regs] (ownPages [0x25] []) (fxAnchorCmd 1 slot words) := by
  rw [fxAnchorCmd_eq]
  exact within_bind within_getS fun _ => within_ite (within_showSlot _ _ _) (within_pure _)

/-- A field apart from all that a loop stores. -/
theorem fld_forM_wr {field : Nat → RegField} {val : Nat → Nat} {y : RegField} {xs : List Nat} (h : ∀ i ∈ xs, (field i).Apart y) (s : State)
    (l : List Prim) : (runAll (forM xs (fun i => wr (field i) (val i)) s l).2 s).fld y = (runAll l s).fld y := by
  induction xs generalizing l with
  | nil => rfl
  | cons i xs ih =>
    rw [forM, M.bind_apply, ih (fun j hj => h j (List.mem_cons_of_mem _ hj)), fld_wr_apart _ (h i List.mem_cons_self)]

/-- A loop over fields that lie apart stores each one's value. -/
theorem forM_wr_fld {field : Nat → RegField} {val : Nat → Nat} {xs : List Nat} {j : Nat} (hj : j ∈ xs)
    (apart : ∀ i ∈ xs, i ≠ j → (field i).Apart (field j)) (hx : (field j).lo ≤ (field j).hi ∧ (field j).hi < 32) (s : State) (l : List Prim) :
    (runAll (forM xs (fun i => wr (field i) (val i)) s l).2 s).fld (field j) = val j % 2 ^ ((field j).hi - (field j).lo + 1) := by
  induction xs generalizing l with
  | nil => exact absurd hj List.not_mem_nil
  | cons i xs ih =>
    have later : ∀ k ∈ xs, k ≠ j → (field k).Apart (field j) := fun k hk => apart k (List.mem_cons_of_mem _ hk)
    rw [forM, M.bind_apply]
    by_cases hm : j ∈ xs
    · exact ih hm later _
    · have here : j = i := (List.mem_cons.1 hj).resolve_right hm
      subst here
      rw [fld_forM_wr (fun k hk => later k hk fun heq => hm (heq ▸ hk)), fld_wr_same _ _ (.inl hx)]

/-- What a READ shows. -/
theorem showSlot_shows (u : State) (slot : Nat) (words : Bytes) (s : State) (l : List Prim) :
    let t := runAll (showSlot u slot words s l).2 s
    t.fld R.ANCHOR_CMD_STAT.SLOT = slot % 2 ^ 6 ∧ t.fld R.ANCHOR_CMD_STAT.VERIFIED = b2n (recordVerified u.anchorKey slot (padTo 64 words)) % 2
      ∧ t.fld R.ANCHOR_CMD_STAT.LIVE = b2n (u.anchor.live.any fun l => l.slot = slot) % 2
      ∧ ∀ w < 16, t.fld (R.ANCHOR_REC.WORD w) = beAt (padTo 64 words) (4 * w) 4 % 2 ^ 32 := by
  have beside (x : RegField) (hx : x.addr = R.ANCHOR_CMD_STAT.SLOT.addr ∧ x.hi < 32) (w : Nat) : x.Apart (R.ANCHOR_REC.WORD w) := by
    obtain ⟨ha, hh⟩ := hx
    simp only [RegField.Apart, ha, R.ANCHOR_CMD_STAT.SLOT, R.ANCHOR_REC.WORD]
    omega
  generalize hv : b2n (recordVerified u.anchorKey slot (padTo 64 words)) = verified
  generalize hl : b2n (u.anchor.live.any fun l => l.slot = slot) = live
  rw [showSlot, hv, hl, M.bind_apply, M.bind_apply, M.bind_apply]
  refine ⟨?_, ?_, ?_, fun w hw => ?_⟩
  · rw [fld_wr_apart _ (by decide), fld_wr_apart _ (by decide), fld_wr_same _ _ (by decide)]
    rfl
  · rw [fld_wr_apart _ (by decide), fld_wr_same _ _ (by decide)]
    rfl
  · rw [fld_wr_same _ _ (by decide)]
    rfl
  · rw [fld_wr_apart _ (beside _ (by decide) w), fld_wr_apart _ (beside _ (by decide) w), fld_wr_apart _ (beside _ (by decide) w)]
    refine (forM_wr_fld (field := R.ANCHOR_REC.WORD) (val := fun i => beAt (padTo 64 words) (4 * i) 4) (List.mem_range.2 hw)
      (fun i hi ne => ?_) (by simp [R.ANCHOR_REC.WORD]) s l)
    have := List.mem_range.1 hi
    simp only [RegField.Apart, R.ANCHOR_REC.WORD]
    omega

/-! ### The statement -/

theorem runM_getS (k : State → M Unit) (s : State) : runM (getS >>= k) s = runM (k s) s := rfl

/-- A first request that may be written. -/
theorem anchorWriteStart_takes {s : State} {u : AnchorUse} {fails : Nat} {rest : List (AnchorUse × Nat)} {key : Bytes}
    (reqs : s.anchor.reqs = (u, fails) :: rest) (writing : s.anchor.writing = none) (known : s.anchorKey = some key) (free : s.grounded = false)
    (up : s.pageState 0x25 ≠ pgFault) (scanned : s.anchor.scanned = true) :
    let t := runM anchorWriteStart s
    (s.budgetOk u = false → t.anchor = s.anchor ∧ t.shows E.ANCHOR.BUDGET ∧ t.out = s.out)
      ∧ (s.budgetOk u = true → s.nextAnchorSlot = none → t.anchor = s.anchor ∧ t.storeFails)
      ∧ ∀ n, s.budgetOk u = true → s.nextAnchorSlot = some n →
          t.writing (s.out ++ [.anchorWrite n (s.recordOf u key n)]) (s.anchorBegun u fails rest n (s.recordOf u key n)) s.anchor.nextSeq.toNat := by
  dsimp only
  rw [anchorWriteStart_eq, runM_getS, startWrite_free reqs writing known free up scanned]
  refine ⟨fun spent => ?_, fun ok none => ?_, fun n ok slot => ?_⟩
  · have full : Within recordParts (eventWord [0x25]) (setCond E.ANCHOR.BUDGET true) := within_setCond _ (by decide) _ _
    rw [spent, if_pos (by decide)]
    refine ⟨?_, setCond_shows (by decide) (by decide) (by decide) .other s [], ?_⟩
    · exact (full.same .anchor (by decide) s []).symm
    · exact (full.same .out (by decide) s []).symm
  · rw [ok, if_neg (by decide), none]
    exact ⟨(within_storeFault.same .anchor (by decide) s []).symm, storeFault_fails s []⟩
  · rw [ok, if_neg (by decide), slot]
    exact beginWrite_begins s u fails rest n _ s [] ⟨rfl, rfl⟩

/-- What an answered write leads to. -/
theorem anchorReadback_answers {s : State} {w : AnchorWrite} (writing : s.anchor.writing = some w) (slot : w.slot < 64) (err : Bool) (read : Bytes)
    (us : Nat) (m : Dram) :
    let t := runM (anchorReadback err read us m) s
    (err = true ∨ read ≠ w.record → t.retired (min (s.fld R.ANCHOR_FAILS.COUNT + 1) (2 ^ 32 - 1)) w.slot (s.anchor.askAgain w) ∧ (3 ≤ w.fails → t.storeFails))
      ∧ (err = false → read = w.record →
          t.anchor.live = (s.anchor.goLive w).live ∧ t.anchor.writing = none
          ∧ (∀ c r lost, w.use = .ballast c r lost → t.ceilingAt c.toNat r.toNat (s.anchor.goLive w).lease)
          ∧ (∀ n p, w.use = .root n p → recClosed p = false → t.fld (R.MEMRGN_CTL.INIT n) = 0 ∧ t.fld (R.MEMRGN_CTL.RESTING n) = 0)
          ∧ (∀ n p, w.use = .root n p → recClosed p = true → t.shows E.MEM.CKPT_DONE)) := by
  dsimp only
  rw [anchorReadback_eq, runM_getS, writing, answerAny]
  have start : (runAll [] s).fld R.ANCHOR_FAILS.COUNT = s.fld R.ANCHOR_FAILS.COUNT ∧ (runAll [] s).anchor = s.anchor := ⟨rfl, rfl⟩
  refine ⟨fun bad => answerWrite_failed slot bad _ _ s [] start, fun ok same => ?_⟩
  have live {Q : Unit → State → Prop} (after : Leads (fun t => t.anchor = s.anchor.goLive w) (recordDone w.use m) Q) :
      Q () (runM (answerWrite err read us m w) s) := answerWrite_live ok same _ _ after s [] start
  have store := live (recordDone_store w.use m _)
  refine ⟨store.1, store.2, fun c r lost use => ?_, fun n p use opens => ?_, fun n p use closed => ?_⟩
  · exact live (use ▸ recordDone_ballast c r lost m _)
  · exact live (Q := fun _ t => t.fld (R.MEMRGN_CTL.INIT n) = 0 ∧ t.fld (R.MEMRGN_CTL.RESTING n) = 0)
      (use ▸ fun s l _ => rootWritten_open opens s l)
  · exact live (Q := fun _ t => t.shows E.MEM.CKPT_DONE) (use ▸ fun s l _ => rootWritten_closed closed s l)

/-- The scan's program, where it runs. -/
theorem startUpScan_runs {s : State} {store : List (Nat × Bytes)} {key : Bytes} (known : s.anchorKey = some key) (fresh : s.anchor.scanned = false) :
    runM (startUpScan store) s = runM (scanRuns s store key) s := by
  rw [startUpScan_eq, runM_getS, known, scanAny, fresh, if_neg (by decide)]

/-- With a BALLAST record that stands. -/
theorem scan_found {s : State} {store : List (Nat × Bytes)} {key b : Bytes} (hb : scanBallast store key = some b) :
    Leads (fun t => t.has s.anchor [] []) (scanRuns s store key) fun _ t =>
      t.has ((s.scanStore store key).ask (.ballast (BitVec.ofNat 64 (beAt b 0 8 + 2 ^ s.scanExp (some b))) (BitVec.ofNat 32 (beAt b 8 4 + 1))
          (decide (beAt b 13 1 % 2 = 1))))
        [R.FRESH_STAT.LOST, R.FRESH_FLOOR.F, R.FRESH_CEILING.C, R.ANCHOR_RESETS.COUNT, R.ANCHOR_BAD.BAD, R.FRESH_STAT.EXP]
        [b2n (decide (beAt b 13 1 % 2 = 1)) % 2 ^ 1, beAt b 0 8 % 2 ^ 64, beAt b 0 8 % 2 ^ 64, beAt b 8 4 % 2 ^ 32, beAt b 16 8 % 2 ^ 64,
          s.scanExp (some b) % 2 ^ 5] := by
  refine scanRuns_stores s store key ?_
  rw [hb]
  exact scanFound_has b _ _ _

/-- With none, and no record of any kind. -/
theorem scan_new {s : State} {store : List (Nat × Bytes)} {key : Bytes} (hb : scanBallast store key = none) (empty : scanMagic store = []) :
    Leads (fun t => t.has s.anchor [] []) (scanRuns s store key) fun _ t =>
      t.has ((s.scanStore store key).ask (.ballast (BitVec.ofNat 64 (2 ^ s.scanExp none)) 1 false))
        [R.FRESH_FLOOR.F, R.FRESH_CEILING.C, R.FRESH_STAT.EXP] [0, 0, s.scanExp none % 2 ^ 5] := by
  refine scanRuns_stores s store key ?_
  rw [hb]
  refine scanNone_stores _ _ _ _ ?_
  rw [empty, if_pos (by decide)]
  exact scanNew_has _ _ _

/-- With none, where broken records stand. -/
theorem scan_lost {s : State} {store : List (Nat × Bytes)} {key : Bytes} (hb : scanBallast store key = none) (broken : scanMagic store ≠ []) :
    ∃ r, Leads (fun t => t.has s.anchor [] []) (scanRuns s store key) fun _ t =>
      t.has ((s.scanStore store key).ask (.ballast (BitVec.ofNat 64 (2 ^ s.scanExp none)) r true))
        [R.FRESH_STAT.LOST, R.FRESH_FLOOR.F, R.FRESH_CEILING.C, R.FRESH_STAT.EXP] [1, 0, 0, s.scanExp none % 2 ^ 5] ∧ t.lostShows := by
  have some' : ¬ (scanMagic store).isEmpty = true := by simpa using broken
  obtain ⟨r, has⟩ := scanLost_has (scanMagic store) (s.scanExp none) (s.scanExp none % 2 ^ 5) (s.scanStore store key)
  refine ⟨r, scanRuns_stores s store key ?_⟩
  rw [hb]
  refine scanNone_stores _ _ _ _ ?_
  rw [if_neg some']
  exact has.and ((scanLost_shows _ _).mono (fun _ _ => trivial) fun _ _ h => h)

/-- What a begun write leaves in the store. -/
theorem State.writing.store {s t : State} {u : AnchorUse} {fails : Nat} {rest : List (AnchorUse × Nat)} {n : Nat} {r : Bytes} {out : List Out}
    {seq : Nat} (h : t.writing out (s.anchorBegun u fails rest n r) seq) :
    t.anchor.writing = some ⟨n, u, r, fails⟩ ∧ t.anchor.reqs = rest ∧ t.anchor.nextSeq = s.anchor.nextSeq + 1
      ∧ t.anchor.nextSlot = (n + 1) % 64 ∧ t.anchor.live = s.anchor.live := by
  obtain ⟨-, store, -, -⟩ := h
  rw [store]
  exact ⟨rfl, rfl, rfl, rfl, rfl⟩

/-- A record by its use's key and payload. -/
theorem recordOf_eq (s : State) (u : AnchorUse) (key : Bytes) (n : Nat) {k : Nat} {payload : Bytes}
    (h : u.key (s.fld R.FRESH_STAT.EXP) (s.fld R.ANCHOR_BAD.BAD) = (k, payload)) :
    s.recordOf u key n = anchorRecord key n (k / 16) (k % 16) s.anchor.nextSeq.toNat payload := by
  unfold State.recordOf
  rw [h]

/-- The key of the records stands on the root and on GROUNDED. -/
theorem anchorKey_congr {s t : State} (keys : s.keys = t.keys) (grounded : t.fld R.TAMPER_STAT.GROUNDED = s.fld R.TAMPER_STAT.GROUNDED) :
    t.anchorKey = s.anchorKey := by
  unfold State.anchorKey State.rootUsable State.rootOk State.vbatPresent State.grounded State.root
  rw [keys, grounded]

section Scanned
variable {s : State} {store : List (Nat × Bytes)} {key : Bytes}

/-- What the scan sets with a BALLAST record that stands. -/
theorem scanned_found {b : Bytes} (hb : scanBallast store key = some b) :
    let t := runM (scanRuns s store key) s
    t.anchor = (s.scanStore store key).ask (.ballast (BitVec.ofNat 64 (beAt b 0 8 + 2 ^ s.scanExp (some b))) (BitVec.ofNat 32 (beAt b 8 4 + 1))
        (decide (beAt b 13 1 % 2 = 1)))
      ∧ t.fld R.FRESH_STAT.EXP = s.scanExp (some b) ∧ t.fld R.FRESH_CEILING.C = beAt b 0 8 % 2 ^ 64 ∧ t.fld R.FRESH_FLOOR.F = beAt b 0 8 % 2 ^ 64
      ∧ t.fld R.ANCHOR_RESETS.COUNT = beAt b 8 4 % 2 ^ 32 ∧ t.fld R.FRESH_STAT.LOST = beAt b 13 1 % 2 := by
  obtain ⟨anchor, fields⟩ := scan_found hb s [] ⟨rfl, rfl⟩
  simp only [List.map_cons, List.map_nil, List.cons.injEq] at fields
  obtain ⟨lost, floor, ceiling, resets, -, exp, -⟩ := fields
  have bit : b2n (decide (beAt b 13 1 % 2 = 1)) % 2 ^ 1 = beAt b 13 1 % 2 := by
    rcases Nat.mod_two_eq_zero_or_one (beAt b 13 1) with h | h <;> simp [h, b2n]
  exact ⟨anchor, exp.trans (scanExp_mod s _), ceiling, floor, resets, lost.trans bit⟩

/-- With none, and no record of any kind. -/
theorem scanned_new (hb : scanBallast store key = none) (empty : scanMagic store = []) :
    let t := runM (scanRuns s store key) s
    t.anchor = (s.scanStore store key).ask (.ballast (BitVec.ofNat 64 (2 ^ s.scanExp none)) 1 false) ∧ t.fld R.FRESH_STAT.EXP = s.scanExp none
      ∧ t.fld R.FRESH_CEILING.C = 0 ∧ t.fld R.FRESH_FLOOR.F = 0 := by
  obtain ⟨anchor, fields⟩ := scan_new hb empty s [] ⟨rfl, rfl⟩
  simp only [List.map_cons, List.map_nil, List.cons.injEq] at fields
  obtain ⟨floor, ceiling, exp, -⟩ := fields
  exact ⟨anchor, exp.trans (scanExp_mod s _), ceiling, floor⟩

/-- With none, where broken records stand. -/
theorem scanned_lost (hb : scanBallast store key = none) (broken : scanMagic store ≠ []) :
    let t := runM (scanRuns s store key) s
    ∃ r, t.anchor = (s.scanStore store key).ask (.ballast (BitVec.ofNat 64 (2 ^ s.scanExp none)) r true) ∧ t.fld R.FRESH_STAT.EXP = s.scanExp none
      ∧ t.fld R.FRESH_CEILING.C = 0 ∧ t.fld R.FRESH_FLOOR.F = 0 ∧ t.fld R.FRESH_STAT.LOST = 1 ∧ t.lostShows := by
  obtain ⟨r, leads⟩ := scan_lost (s := s) hb broken
  obtain ⟨⟨anchor, fields⟩, shows⟩ := leads s [] ⟨rfl, rfl⟩
  simp only [List.map_cons, List.map_nil, List.cons.injEq] at fields
  obtain ⟨lost, floor, ceiling, exp, -⟩ := fields
  exact ⟨r, anchor, exp.trans (scanExp_mod s _), ceiling, floor, lost, shows⟩

/-- In every case the store is that of the scan, with one record asked for, and the exponent is the one it chose. -/
theorem scanned_any :
    let t := runM (scanRuns s store key) s
    (∃ u, t.anchor = (s.scanStore store key).ask u) ∧ t.fld R.FRESH_STAT.EXP = s.scanExp (scanBallast store key) := by
  cases hb : scanBallast store key with
  | some b =>
    obtain ⟨anchor, exp, -⟩ := scanned_found (s := s) hb
    exact ⟨⟨_, anchor⟩, exp⟩
  | none =>
    by_cases empty : scanMagic store = []
    · obtain ⟨anchor, exp, -⟩ := scanned_new (s := s) hb empty
      exact ⟨⟨_, anchor⟩, exp⟩
    · obtain ⟨r, anchor, exp, -⟩ := scanned_lost (s := s) hb empty
      exact ⟨⟨_, anchor⟩, exp⟩

theorem scanBallast_some {l : Nat × LiveRec} (h : (scanLive store key).find? (fun l => decide (l.2.key = 0x10)) = some l) :
    scanBallast store key = some l.2.payload := by rw [scanBallast, h, Option.map_some]

theorem scanBallast_none (h : (scanLive store key).find? (fun l => decide (l.2.key = 0x10)) = none) : scanBallast store key = none := by
  rw [scanBallast, h, Option.map_none]

end Scanned

/-- Settles O42: one lemma for each of the four commands, over the fields, the events and the store that the command sets; the read of a
slot by the rule of a write to a register that holds nothing. -/
theorem anchorCommands : Obligations.AnchorCommands := by
  unfold Obligations.AnchorCommands
  intro s rid wf
  dsimp only
  refine ⟨fun heeds => ?_, fun err read us dram => ?_, fun store key known fresh => ?_, fun slot words ok => ?_⟩
  · obtain ⟨same, rest⟩ := within_anchorWriteStart.leaves s
    refine ⟨runM anchorWriteStart s, waitable_heeds _ _ _ heeds, same, rest, fun held => ?_, fun u fails rest key reqs writing known free up scanned => ?_⟩
    · rw [anchorWriteStart_eq, runM_getS, startWrite_held held]
      exact fun q _ => q.same_refl s
    · obtain ⟨spent, full, begun⟩ := anchorWriteStart_takes reqs writing known free up scanned
      refine ⟨spent, full, fun n ok slot => ?_⟩
      have taken := begun n ok slot
      obtain ⟨writes, reqs', next, slot', live⟩ := taken.store
      obtain ⟨out, -, seq, silent⟩ := taken
      rcases hk : u.key (s.fld R.FRESH_STAT.EXP) (s.fld R.ANCHOR_BAD.BAD) with ⟨k, payload⟩
      rw [recordOf_eq s u key n hk] at out writes
      exact ⟨out, writes, reqs', next, slot', live, seq, silent⟩
  · obtain ⟨same, rest⟩ := (within_anchorReadback (err := err) (read := read) (us := us.toNat) (m := dram)).leaves s
    refine ⟨runM (anchorReadback err read us.toNat dram) s, rfl, same, rest, fun idle => ?_, fun w writing slot => ?_⟩
    · rw [anchorReadback_eq, runM_getS, idle]
      exact fun q _ => q.same_refl s
    · obtain ⟨bad, good⟩ := anchorReadback_answers writing slot err read us.toNat dram
      refine ⟨?_, fun fails => ?_, fun ok same => ?_⟩
      · by_cases h : err = true ∨ read ≠ w.record
        · obtain ⟨⟨-, -, -, -, anchor⟩, -⟩ := bad h
          rw [anchor]
          rfl
        · rw [not_or, not_not, Bool.not_eq_true] at h
          exact (good h.1 h.2).2.1
      · obtain ⟨⟨count, retired, wrote, gone, anchor⟩, fourth⟩ := bad fails
        exact ⟨count, retired, wrote, gone, anchor, fourth⟩
      · obtain ⟨live, -, ballast, opens, closed⟩ := good ok same
        refine ⟨live, fun c r lost use => ?_, fun n p use _ => opens n p use, closed⟩
        obtain ⟨anchor, ceiling, resets, wait, silent⟩ := ballast c r lost use
        exact ⟨by rw [anchor]; rfl, ceiling, resets, wait, silent⟩
  · obtain ⟨same, rest⟩ := (within_startUpScan store).leaves s
    refine ⟨runM (startUpScan store) s, rfl, same, rest, ?_⟩
    rw [startUpScan_runs known fresh]
    obtain ⟨⟨u, anchor⟩, exp⟩ := scanned_any (s := s) (store := store) (key := key)
    obtain ⟨low, high⟩ := scanExp_range s (scanBallast store key)
    refine ⟨?_, ?_, exp ▸ low, exp ▸ high, fun l hl => ?_, fun hl => ?_⟩
    · rw [anchor]
      rfl
    · rw [anchor]
      rfl
    · obtain ⟨anchor, exp, ceiling, floor, resets, lost⟩ := scanned_found (s := s) (scanBallast_some hl)
      refine ⟨ceiling, floor, resets, lost, BitVec.ofNat 32 (beAt l.2.payload 8 4 + 1), ?_⟩
      rw [anchor, exp]
      rfl
    · have hb := scanBallast_none hl
      by_cases empty : scanMagic store = []
      · obtain ⟨anchor, exp, ceiling, floor⟩ := scanned_new (s := s) hb empty
        refine ⟨ceiling, floor, fun _ => ⟨1, ?_⟩, fun broken => absurd empty broken⟩
        rw [anchor, exp]
        rfl
      · obtain ⟨r, anchor, exp, ceiling, floor, lost, broken, mode, noted⟩ := scanned_lost (s := s) hb empty
        refine ⟨ceiling, floor, fun none => absurd none empty, fun _ => ⟨lost, broken, mode, noted, r, ?_⟩⟩
        rw [anchor, exp]
        rfl
  · have plain : plainWord R.ANCHOR_CMD.OP.addr := by decide +kernel
    obtain ⟨l, run, same, words'⟩ := hostWrite_still (by decide) plain anchorCmd_still (by decide) (fxAnchorCmd 1 slot.toNat words) ok
    obtain ⟨same', shown⟩ := (within_fxAnchorCmd slot.toNat words).leaves_from s l
    have active : (runAll l s).active 0x25 = s.active 0x25 := by rw [State.active, State.active, words'.fld (by decide)]
    have busy : (runAll l s).fld R.ANCHOR_CMD_STAT.BUSY = s.fld R.ANCHOR_CMD_STAT.BUSY := words'.fld (by decide)
    have key : (runAll l s).anchorKey = s.anchorKey := anchorKey_congr (same .keys (by decide)) (words'.fld (by decide))
    refine ⟨_, run, same.trans (same'.mono (by decide)), ?_, fun off => ?_, fun on idle => ?_⟩
    · exact (words'.mono (wrWords_wrPages (by decide))).trans (shown.mono fun a h => Bool.or_eq_true_iff.2 (.inr (ownPages_mono (by decide) (by decide) a h)))
    · have idle : (fxAnchorCmd 1 slot.toNat words s l).2 = l := by
        rw [fxAnchorCmd_eq, getS_bind, if_neg (by simp [active, off])]
        rfl
      rw [idle]
      exact words'
    · have shows : (fxAnchorCmd 1 slot.toNat words s l).2 = (showSlot (runAll l s) slot.toNat words s l).2 := by
        rw [fxAnchorCmd_eq, getS_bind, if_pos ⟨active.trans on, rfl, busy.trans idle⟩]
      have one (b : Bool) : b2n b % 2 = b2n b := by cases b <;> rfl
      obtain ⟨shown, verified, live, record⟩ := showSlot_shows (runAll l s) slot.toNat words s l
      rw [shows]
      refine ⟨shown.trans (Nat.mod_eq_of_lt slot.isLt), ?_, ?_, record⟩
      · rw [verified, one, key]
      · rw [live, one, ← show s.anchor = (runAll l s).anchor from same .anchor (by decide)]

end Sys2Proof.Machine
end

section
/-! What becomes of an entry on its way to its sink (R590, R597), and of a write that is rejected (R73, R78, R81). -/
namespace Sys2Proof.Machine
open Sys2Proof

/-! ### Entries on their way -/

/-- The entry has a stamp, a page, a requester, a code and a payload. -/
def Entry.Tells (e : Entry) (st : Stamp) (page : Nat) (req code : BitVec 16) (x : BitVec 96) : Prop :=
  e.ts = st.ts ∧ e.seq = st.seq ∧ e.page = BitVec.ofNat 8 page ∧ e.req = req ∧ e.code = code ∧ e.payload = x

/-- Such an entry stands among those on their way to a sink. -/
def State.tells (t : State) (st : Stamp) (page : Nat) (req code : BitVec 16) (x : BitVec 96) : Prop :=
  ∃ w ∈ t.chron.writer ++ t.chron.hold, w.entry.Tells st page req code x

/-- Events of a code have been counted (R597). -/
def State.counts (t : State) (code : BitVec 16) : Prop := (mget (fun _ => none) t.counted code.toNat).isSome = true

variable {st : Stamp} {page : Nat} {req code : BitVec 16} {x : BitVec 96} {t u : State}

theorem State.tells.recorded (h : t.tells st page req code x) : recorded page code x t := by
  obtain ⟨w, hw, -, -, hp, -, hc, hx⟩ := h
  exact .inl ⟨w, hw, hc, hp, hx⟩

/-- Recording lets no entry go that is on its way. -/
theorem Records.tells (h : Records t u) (k : t.tells st page req code x) : u.tells st page req code x := by
  obtain ⟨v, hv, k⟩ := k
  cases h with
  | reg | stamp | count => exact ⟨v, hv, k⟩
  | hold => exact ⟨v, by simpa [or_assoc] using Or.inl (List.mem_append.1 hv), k⟩
  | write => exact ⟨v, by rcases List.mem_append.1 hv with hv | hv <;> simp [hv], k⟩

theorem Records.counts (h : Records t u) (k : t.counts code) : u.counts code := by
  cases h with
  | reg | stamp | hold | write => exact k
  | count n c =>
    by_cases hn : code.toNat = n
    · simp [State.counts, hn]
    · simpa [State.counts, mget_mset_other _ _ _ _ _ hn] using k

/-- An entry that is placed is on its way; or, unless its class is `other`, its event is counted. -/
theorem placeEntry_tells (w : WriterEntry) (h : w.entry.Tells st page req code x) (cont : w.entry.cont = false) :
    Leads (fun _ => True) (placeEntry w) fun b t =>
      (b = false ∧ t.tells st page req code x) ∨ (b = true ∧ w.cls ≠ .other ∧ t.counts code) := by
  have here {v : WriterEntry} (hv : v.entry.Tells st page req code x) {l k : List WriterEntry} (m : v ∈ l ++ k) :
      ∃ w ∈ l ++ k, w.entry.Tells st page req code x := ⟨v, m, hv⟩
  have held : Leads (fun _ => True) (placeHeld w) fun b t =>
      (b = false ∧ t.tells st page req code x) ∨ (b = true ∧ w.cls ≠ .other ∧ t.counts code) := by
    refine leads_getS fun u => leads_ite (fun _ => ?_) fun _ => leads_ite (fun _ => ?_) fun other =>
      leads_ite (fun hc => absurd hc (by simp [cont])) fun _ => ?_
    · refine leads_bind (R := fun _ t => t.tells st page req code x) (leads_prim fun t _ => ?_) fun _ => leads_pure fun t ht => .inl ⟨rfl, ht⟩
      exact here (v := { w with entry := { w.entry with held := true } }) h (by simp)
    · refine leads_bind (R := fun _ t => t.tells st page req code x) (leads_prim fun t _ => ?_) fun _ => leads_pure fun t ht => .inl ⟨rfl, ht⟩
      exact here h (by simp)
    · have code' : w.entry.code = code := h.2.2.2.2.1
      refine leads_bind (R := fun _ t => t.counts code) (leads_prim fun t _ => by simp [State.counts, code']) fun _ => ?_
      exact leads_bind (R := fun _ t => t.counts code) (keeps_bump (fun _ _ => Records.counts) _) fun _ =>
        leads_pure fun t ht => .inr ⟨rfl, other, ht⟩
  refine leads_getS fun s => leads_ite (fun _ => held.mono (fun _ _ => trivial) fun _ _ h => h) fun _ => ?_
  refine leads_bind (R := fun _ t => t.tells st page req code x) (leads_prim fun t _ => ?_) fun _ => leads_pure fun t ht => .inl ⟨rfl, ht⟩
  exact here h (by simp)

/-- An entry of class `other` is placed by one change, of the chronicle. -/
theorem within_placeEntry_other {w : WriterEntry} (h : w.cls = .other) : Within [.chron] (fun _ => false) (placeEntry w) := by
  have place (c : ChronState) : Within [.chron] (fun _ => false) (do prim (.chron c); return false) :=
    within_bind (within_prim (by simp [Prim.pieces]) (by simp [Prim.pieces])) fun _ => within_pure _
  refine within_bind within_getS fun s => within_ite (within_bind within_getS fun u => within_ite (place _) ?_) (place _)
  rw [if_pos h]
  exact place _

/-- The one entry of an item. -/
def oneEntry (st : Stamp) (page : Nat) (req code : BitVec 16) (x : BitVec 96) (cls : EntryClass) (audit late : Bool) : WriterEntry :=
  ⟨⟨st.ts, st.seq, BitVec.ofNat 8 page, false, false, late, code, req, x, 0, 1⟩, cls, audit⟩

theorem itemEntries_one (st : Stamp) (page : Nat) (req code : BitVec 16) (x : BitVec 96) (cls : EntryClass) (audit late : Bool) :
    itemEntries st page req code [x] cls audit late = [oneEntry st page req code x cls audit late] := rfl

theorem placeAll_one (w : WriterEntry) (s : State) (l : List Prim) : placeAll [w] s l = placeEntry w s l := by
  simp [placeAll]

/-- An item of one entry is on its way; or, unless its class is `other`, counted. -/
theorem raiseItem_tells (cls : EntryClass) (audit : Bool) (s : State) (l : List Prim) :
    let t := runAll (raiseItem st page req code [x] cls audit s l).2 s
    t.tells st page req code x ∨ (cls ≠ .other ∧ t.counts code) := by
  have leads : Leads (fun _ => True) (raiseItem st page req code [x] cls audit) fun _ t =>
      t.tells st page req code x ∨ (cls ≠ .other ∧ t.counts code) := by
    refine leads_getS fun u => leads_bind (R := fun _ t => t.tells st page req code x ∨ (cls ≠ .other ∧ t.counts code)) ?_ fun _ =>
      keeps_ite (keeps_raiseDeferred fun _ _ h => Or.imp h.tells (And.imp_right h.counts)) (keeps_pure _)
    intro s l _
    rw [itemEntries_one, placeAll_one]
    have := placeEntry_tells (st := st) (page := page) (req := req) (code := code) (x := x)
      (oneEntry st page req code x cls audit (u.chron.late && audit)) ⟨rfl, rfl, rfl, rfl, rfl, rfl⟩ rfl s l trivial
    exact this.imp And.right And.right
  exact leads s l trivial

/-- An item of one entry of class `other`: nothing but the entry's place. -/
theorem raiseItem_other (audit : Bool) (s : State) (l : List Prim) :
    (raiseItem st page req code [x] .other audit s l).2
      = (placeEntry (oneEntry st page req code x .other audit ((runAll l s).chron.late && audit)) s l).2 := by
  have placed := placeEntry_tells (st := st) (page := page) (req := req) (code := code) (x := x)
    (oneEntry st page req code x .other audit ((runAll l s).chron.late && audit)) ⟨rfl, rfl, rfl, rfl, rfl, rfl⟩ rfl s l trivial
  have uncounted : (placeEntry (oneEntry st page req code x .other audit ((runAll l s).chron.late && audit)) s l).1 = false := by
    rcases placed with ⟨h, -⟩ | ⟨-, h, -⟩
    · exact h
    · exact absurd rfl h
  rw [raiseItem, getS_bind, itemEntries_one, M.bind_apply, placeAll_one, M.ite_apply, uncounted]
  rfl

/-! ### A write rejected (R73, R78, R81) -/

/-- Setting an event lets no event go that shows. -/
theorem setEvent_keeps_shows {e d : PageEvent} (hd : d.bit < 32) (s : State) (l : List Prim) (h : (runAll l s).shows d) :
    (runAll (setEvent e s l).2 s).shows d := by
  by_cases page : d.page % 64 = e.page % 64
  · have raw : R.PG_EVT_RAW.EVT d.page = R.PG_EVT_RAW.EVT e.page := by rw [R.PG_EVT_RAW.EVT, page, R.PG_EVT_RAW.EVT]
    rw [State.shows, raw] at h ⊢
    rw [setEvent, rd_bind, M.ite_apply]
    split
    · exact h
    · rw [M.bind_apply, M.bind_apply, M.pure_apply, fld_wrBit_apart _ _ (by simp only [RegField.Apart, R.PG_EVT_STICKY.EVT, R.PG_EVT_RAW.EVT]; omega),
        fld_wr_same _ _ (by simp [R.PG_EVT_RAW.EVT]), Nat.testBit_mod_two_pow, Nat.testBit_or, h]
      simp [R.PG_EVT_RAW.EVT, hd]
  · have apart (x : RegField) (hx : x = R.PG_EVT_RAW.EVT e.page ∨ x = R.PG_EVT_STICKY.EVT e.page) : x.Apart (R.PG_EVT_RAW.EVT d.page) := by
      rcases hx with rfl | rfl <;> simp only [RegField.Apart, R.PG_EVT_STICKY.EVT, R.PG_EVT_RAW.EVT] <;> omega
    rw [State.shows, setEvent, rd_bind, M.ite_apply]
    split
    · exact h
    · rw [M.bind_apply, M.bind_apply, M.pure_apply, fld_wrBit_apart _ _ (apart _ (.inr rfl)), fld_wr_apart _ (apart _ (.inl rfl))]
      exact h

/-- An entry on its way leaves every PG_EVT_RAW alone. -/
theorem within_placeEntry_count (w : WriterEntry) : Within recordParts (fun a => a == 0x3058) (placeEntry w) := by
  have chron (c : ChronState) : Within recordParts (fun a => a == 0x3058) (prim (.chron c)) :=
    within_prim (by simp [Prim.pieces, recordParts]) (by simp [Prim.pieces])
  refine within_bind within_getS fun s => within_ite ?_ (within_bind (chron _) fun _ => within_pure _)
  refine within_bind within_getS fun s => within_ite (within_bind (chron _) fun _ => within_pure _)
    (within_ite (within_bind (chron _) fun _ => within_pure _) (within_ite (within_pure _) ?_))
  refine within_bind (within_prim (by simp [Prim.pieces, recordParts]) (by simp [Prim.pieces])) fun _ => ?_
  exact within_bind (within_bump _ (by simp [recordParts]) (by decide) (by decide) (by decide)) fun _ => within_pure _

theorem keeps_shows_placeAll {d : PageEvent} (ws : List WriterEntry) : Keeps (fun t => t.shows d) (placeAll ws) := by
  induction ws with
  | nil => exact keeps_pure _
  | cons w ws ih =>
    refine keeps_bind (fun s l h => ((within_placeEntry_count w).shows_clear ⟨?_, ?_, ?_⟩ s l).2 h) fun _ => keeps_bind ih fun _ => keeps_pure _
    all_goals simp [R.PG_EVT_RAW.EVT]
    omega

/-- Recording an item lets no event go that shows. -/
theorem keeps_shows_raiseItem {d : PageEvent} (hd : d.bit < 32) (cls : EntryClass) (audit : Bool) (xs : List (BitVec 96)) :
    Keeps (fun t => t.shows d) (raiseItem st page req code xs cls audit) :=
  keeps_bind keeps_getS fun _ => keeps_bind (keeps_shows_placeAll _) fun _ => keeps_ite
    (keeps_bind (setEvent_keeps_shows hd) fun _ => keeps_bind
      (keeps_bind keeps_getS fun _ => keeps_bind (keeps_prim fun _ h => h) fun _ => keeps_pure _) fun _ =>
      keeps_bind (keeps_rd _) fun _ => keeps_bind (keeps_shows_placeAll _) fun _ => keeps_pure _) (keeps_pure _)

/-- The count that a rejected write moves. -/
def rejectCount (p outcome : Nat) : RegField := if outcome = 0x8 then R.GLOBAL_RSVD_WR.COUNT else R.PG_WRREJ.COUNT p

/-- The count and the event of a rejected write. -/
def countReject (p outcome : Nat) : M Unit :=
  if outcome = 0x8 then bump R.GLOBAL_RSVD_WR.COUNT else do
    bump (R.PG_WRREJ.COUNT p)
    raiseQuiet (E.PG.WRREJ p)

/-- The record of a rejected write, or the count that stands for it where the AUDIT sink takes none. -/
def noteReject (st : Stamp) (w : HostWr) (old : Word) (outcome : Nat) : M Unit :=
  if outcome = 0x9 then getS >>= fun s => prim (.chron { s.chron with rejected := some (countUp s.chron.rejected st.ts) })
  else recordWrite st w old outcome

theorem rejectWrite_eq (w : HostWr) (old : Word) (outcome : Nat) :
    rejectWrite w old outcome = stamp >>= fun st => countReject w.page outcome >>= fun _ => noteReject st w old outcome := by
  simp only [rejectWrite, countReject, noteReject]
  split <;> rfl

variable {p outcome : Nat}

theorem rejectCount_one : (rejectCount p outcome).lo = 0 ∧ (rejectCount p outcome).hi = 31 := by
  rw [rejectCount]
  split <;> exact ⟨rfl, rfl⟩

theorem rejectCount_clear (evts : List Nat) : (rejectCount p outcome).Clear (eventWord evts) := by
  refine ⟨?_, by rw [rejectCount_one.2]; omega, by rw [rejectCount_one.2]; omega⟩
  have off : (rejectCount p outcome).addr % 0x1000 ≠ 0x10 ∧ (rejectCount p outcome).addr % 0x1000 ≠ 0x1C ∧ (rejectCount p outcome).addr ≠ 0x3058 := by
    rw [rejectCount]
    split
    · decide
    · simp only [R.PG_WRREJ.COUNT]
      omega
  simp [eventWord, off]

theorem within_countReject (hp : p < 64) :
    Within recordParts (ownWords [(rejectCount p outcome).addr] [p]) (countReject p outcome) := by
  have count (x : RegField) (hx : x = rejectCount p outcome) : Within recordParts (ownWords [(rejectCount p outcome).addr] [p]) (bump x) := by
    have hi : x.hi = 31 := hx ▸ rejectCount_one.2
    exact within_bump _ (by decide) (by simp [ownWords, hx]) (by omega) (by omega)
  refine dite (outcome = 0x8) (fun h => ?_) fun h => ?_
  · rw [countReject, if_pos h]
    exact count _ (by rw [rejectCount, if_pos h])
  · rw [countReject, if_neg h]
    refine within_bind (count _ (by rw [rejectCount, if_neg h])) fun _ => ?_
    refine (within_raiseQuiet (E.PG.WRREJ p) (Nat.mod_lt _ (by decide))).mono (by decide) fun a ha => ?_
    rw [E.PG.WRREJ, Nat.mod_eq_of_lt hp] at ha
    simp [ownWords, ha]

theorem within_noteReject (st : Stamp) (w : HostWr) (old : Word) : Within recordParts (eventWord []) (noteReject st w old outcome) :=
  within_ite (within_bind within_getS fun _ => within_prim (by simp [Prim.pieces, recordParts]) (by simp [Prim.pieces])) (within_recordWrite _ _ _ _)

/-- A rejected write changes its count and what recording changes. -/
theorem within_rejectWrite {w : HostWr} (hw : w.page = p) (hp : p < 64) (old : Word) :
    Within recordParts (ownWords [(rejectCount p outcome).addr] [p]) (rejectWrite w old outcome) := by
  rw [rejectWrite_eq, hw]
  refine within_bind (within_stamp (by decide)) fun st => within_bind (within_countReject hp) fun _ => (within_noteReject st w old).mono (fun _ h => h) fun a h => ?_
  simp [ownWords, eventWord_mono (k := [p]) (by simp) a h]

theorem countReject_counts (s : State) (l : List Prim) :
    (runAll (countReject p outcome s l).2 s).fld (rejectCount p outcome) = min ((runAll l s).fld (rejectCount p outcome) + 1) (2 ^ 32 - 1) := by
  have full (x : RegField) (hl : x.lo = 0) (hh : x.hi = 31) (l : List Prim) :
      (runAll (bump x s l).2 s).fld x = min ((runAll l s).fld x + 1) (2 ^ 32 - 1) := by
    rw [fld_bump x (by omega) (by omega), hl, hh]
  rw [countReject, rejectCount]
  split
  · exact full _ rfl rfl l
  · have clear := rejectCount_clear (p := p) (outcome := outcome) [(E.PG.WRREJ p).page]
    rw [rejectCount, if_neg ‹_›] at clear
    rw [M.bind_apply, (within_raiseQuiet (E.PG.WRREJ p) (Nat.mod_lt _ (by decide))).fld_clear clear, full _ rfl rfl]

/-- A rejected write is counted (R73, R81). -/
theorem rejectWrite_counts {w : HostWr} (hw : w.page = p) (old : Word) (s : State) :
    (runAll (rejectWrite w old outcome s []).2 s).fld (rejectCount p outcome) = min (s.fld (rejectCount p outcome) + 1) (2 ^ 32 - 1) := by
  rw [rejectWrite_eq, hw, M.bind_apply, M.bind_apply, (within_noteReject _ w old).fld_clear (rejectCount_clear _), countReject_counts]
  rfl

/-- A write rejected outside the reserved pages raises WRREJ. -/
theorem rejectWrite_shows {w : HostWr} (hw : w.page = p) (carried : outcome ≠ 0x8) (old : Word) (s : State) (l : List Prim) :
    (runAll (rejectWrite w old outcome s l).2 s).shows (E.PG.WRREJ p) := by
  rw [rejectWrite_eq, hw, M.bind_apply, M.bind_apply, countReject, if_neg carried, M.bind_apply]
  have note (st : Stamp) : Keeps (fun t => t.shows (E.PG.WRREJ p)) (noteReject st w old outcome) :=
    keeps_ite (keeps_bind keeps_getS fun _ => keeps_prim fun _ h => h) (keeps_shows_raiseItem (show 1 < 32 by decide) _ _ _)
  exact note _ s _ (raiseQuiet_shows (show 1 < 32 by decide) s _)

/-- The record of a rejected write is on its way; on the CHRON page it can be counted instead (R80, R597). -/
theorem rejectWrite_tells (w : HostWr) (h0 : outcome ≠ 0x0) (h9 : outcome ≠ 0x9) (old : Word) (s : State) :
    let t := runAll (rejectWrite w old outcome s []).2 s
    t.tells ⟨s.now, s.time.seq⟩ w.page (w.rid.setWidth 16) 0x0002 (writePayload w.value old w.addr.toNat outcome)
      ∨ (w.page = 0x03 ∧ t.counts 0x0002) := by
  rw [rejectWrite_eq, M.bind_apply, M.bind_apply, noteReject, if_neg h9, recordWrite, if_neg h0]
  refine (raiseItem_tells _ _ s _).imp_right (And.imp_left fun h => ?_)
  by_contra other
  exact h (if_neg other)

/-- A write that finds the AUDIT sink full is counted towards one SUMMARY entry (R78). -/
theorem rejectWrite_summary (w : HostWr) (old : Word) (s : State) :
    (runAll (rejectWrite w old 0x9 s []).2 s).chron.rejected = some (countUp s.chron.rejected s.now) := by
  have counted : Keeps (fun t => t.chron = s.chron) (countReject w.page 0x9) := by
    have store (x : RegField) (v : Nat) : Keeps (fun t => t.chron = s.chron) (wr x v) := keeps_wr v fun _ _ _ h => h
    exact keeps_bind (keeps_bind (keeps_rd _) fun _ => keeps_ite (store _ _) (keeps_pure _)) fun _ => keeps_bind (keeps_bind (keeps_rd _) fun _ => keeps_ite (keeps_pure _)
      (keeps_bind (store _ _) fun _ => keeps_bind (keeps_bind (keeps_rd _) fun _ => store _ _) fun _ => keeps_pure _)) fun _ => keeps_pure _
  rw [rejectWrite_eq, M.bind_apply, M.bind_apply]
  have same := counted s (stamp s []).2 rfl
  simp only [noteReject, if_pos, getS_bind, prim_apply, runAll_cons]
  rw [same]
  rfl

end Sys2Proof.Machine
end

section
/-! O14: a soft reset of a page that is in use is refused (R99). -/
namespace Sys2Proof.Machine
open Sys2Proof

/-- A soft reset written to a page that is ACTIVE or DRAINING meets 0x6 in the table of R78, and before it only 0x7. -/
theorem softReset_outcome (s : State) (rid : BitVec 12) (page : BitVec 6) (v : Word) (on : carried page.toNat = true) (beyond : 1 < page.toNat)
    (used : s.pageState page.toNat = pgActive ∨ s.pageState page.toNat = pgDraining) (soft : v.getLsbD 2 = true) :
    s.writeOutcome (fullWrite rid (0x1000 * page.toNat + 8) v) = if s.srstBusy page.toNat = true then 7 else 6 := by
  have lt : page.toNat < 64 := page.isLt
  have pg : (0x1000 * page.toNat + 8) / 0x1000 = page.toNat := by omega
  have off : (0x1000 * page.toNat + 8) % 0x1000 = 8 := by omega
  have page' := fullWrite_page rid (a := 0x1000 * page.toNat + 8) v (by omega)
  have at' := fullWrite_at rid (a := 0x1000 * page.toNat + 8) v (by omega)
  have aligned : (fullWrite rid (0x1000 * page.toNat + 8) v).addr.toNat % 4 = 0 := by
    simp only [fullWrite, BitVec.toNat_ofNat]
    omega
  have defined : definedAt (0x1000 * page.toNat + 8) = true := by simp [definedAt, off]
  have writable : s.readOnlyAt (0x1000 * page.toNat + 8) = false := by
    have field : 0x1000 * page.toNat + 8 ≠ R.TIME_EPOCH_PTP_S.SECONDS.addr := by simp only [R.TIME_EPOCH_PTP_S.SECONDS]; omega
    have types : typesAt (0x1000 * page.toNat + 8) = [.rws, .w1s, .wo] := by simp [typesAt, off]
    have id : page.toNat ≠ 0 := by omega
    simp [State.readOnlyAt, types, pg, field, id]
  have blocked : s.offBlocked (0x1000 * page.toNat + 8) v = true := by
    simpa [State.offBlocked, off, pg, soft] using used
  have no1 : ¬ page.toNat ≤ 1 := by omega
  simp only [State.writeOutcome, page', at', pg, off, on, aligned, defined, writable, no1]
  simp [fullWrite, blocked]

/-- Settles O14: R78's table gives 0x6 or before it 0x7, and such a write is rejected. -/
theorem softResetRefused : Obligations.SoftResetRefused := by
  unfold Obligations.SoftResetRefused
  intro s rid page en sealing mem _ p on beyond used value outcome
  have soft : value.getLsbD 2 = true := by
    have bit : ∀ a b : Bool, (BitVec.ofNat 32 (4 + (if a then 2 else 0) + b2n b)).getLsbD 2 = true := by decide
    exact bit sealing en
  let w := fullWrite rid (0x1000 * p + 8) value
  have refused : s.writeOutcome w = outcome := softReset_outcome s rid page value on beyond used soft
  have no8 : outcome = 7 ∨ outcome = 6 := by simp only [outcome]; split <;> simp
  have lt : p < 64 := page.isLt
  have pg : w.page = p := (fullWrite_page rid value (by omega)).trans (by omega)
  have at' : w.at = 0x1000 * p + 8 := fullWrite_at rid value (by omega)
  have count : rejectCount p outcome = R.PG_WRREJ.COUNT p := if_neg (by omega)
  have run : exec (if sealing then .seal rid page true en mem else .softReset rid page en) s
      = exec1 (rejectWrite w (s.view (0x1000 * p + 8)) outcome) s := by
    rw [← refused, ← at', ← hostWrite_rejected w (fxPgCtl p value (if sealing then mem else {})) s (by omega)]
    cases sealing <;> rfl
  obtain ⟨same, words⟩ := (within_rejectWrite (outcome := outcome) pg lt (s.view (0x1000 * p + 8))).leaves s
  refine ⟨_, run, same, count ▸ words, count ▸ rejectWrite_counts pg _ s, ?_⟩
  have offset : w.addr.toNat % 0x1000 = 8 := by
    simp only [w, fullWrite, BitVec.toNat_ofNat]
    omega
  have told := rejectWrite_tells (outcome := outcome) w (by omega) (by omega) (s.view (0x1000 * p + 8)) s
  have payload : writePayload w.value (s.view (0x1000 * p + 8)) w.addr.toNat outcome = writePayload value (s.view (0x1000 * p + 8)) 8 outcome := by
    rw [writePayload, offset]
    rfl
  rw [payload, pg] at told
  rcases told with told | ⟨h3, counts⟩
  · exact told.recorded
  · exact .inr counts
end Sys2Proof.Machine
end

section
/-! What an accepted write leaves before its register's own effect: its record, and the word written (R7, R79). -/
namespace Sys2Proof.Machine
open Sys2Proof

variable {st : Stamp} {page : Nat} {req code : BitVec 16} {x : BitVec 96}

/-! ### The record -/

/-- An item of one entry of class `other` is on its way, and nothing but the chronicle changed. -/
theorem raiseItem_other_tells (audit : Bool) : Leads (fun _ => True) (raiseItem st page req code [x] .other audit) fun _ t => t.tells st page req code x :=
  fun s l _ => (raiseItem_tells .other audit s l).resolve_right fun h => h.1 rfl

theorem keeps_raiseItem_other {I : State → Prop} (hI : ∀ c t, I t → I ((Prim.chron c).run t)) (audit : Bool) :
    Keeps I (raiseItem st page req code [x] .other audit) := by
  intro s l h
  rw [raiseItem_other]
  have place (c : ChronState) (w : M Bool) (hw : Keeps I w) : Keeps I (prim (.chron c) >>= fun _ => w) := keeps_bind (keeps_prim (hI c)) fun _ => hw
  have placed (w : WriterEntry) (hw : w.cls = .other) : Keeps I (placeEntry w) := by
    refine keeps_bind keeps_getS fun u => keeps_ite (keeps_bind keeps_getS fun u => keeps_ite (place _ _ (keeps_pure _)) ?_) (place _ _ (keeps_pure _))
    rw [if_pos hw]
    exact place _ _ (keeps_pure _)
  exact placed _ rfl s l h

/-- The stamp of a write, and the time base after it. -/
theorem stamp_draws (s : State) (l : List Prim) : (stamp s l).1 = ⟨(runAll l s).now, (runAll l s).time.seq⟩
    ∧ runAll (stamp s l).2 s = (Prim.time { (runAll l s).time with seq := (runAll l s).time.seq + 1 }).run (runAll l s) := ⟨rfl, rfl⟩

/-- Applying a write to a word leaves all but the word and a Loose context alone. -/
theorem keeps_applyWord {I : State → Prop} (reg : ∀ b u t, I t → I ((Prim.reg b u).run t)) (loose : ∀ c y t, I t → I ((Prim.loose c y).run t))
    (a : Nat) (v : Word) : Keeps I (applyWord a v) := by
  have word (b : Nat) (u : Word) : Keeps I (wrWord b u) := keeps_prim (reg b u)
  refine keeps_bind keeps_getS fun _ => keeps_ite (word _ _) (keeps_ite (word _ _) (keeps_ite (word _ _) (keeps_ite (keeps_pure _) ?_)))
  refine keeps_bind keeps_getS fun _ => ?_
  split
  · exact keeps_bind keeps_getS fun _ => keeps_prim (loose _ _)
  · exact word _ _

/-- What an accepted write does before it is recorded. -/
def acceptCount (w : HostWr) (st : Stamp) : M Unit := do
  applyWord w.at w.value
  bumpMod (R.PG_WRCOUNT.COUNT w.page)
  wr (R.PG_LASTWR_TS.TS w.page) st.ts.toNat

theorem acceptRecord_eq (w : HostWr) (old : Word) :
    acceptRecord w old = stamp >>= fun st => acceptCount w st >>= fun _ => recordWrite st w old 0 := by
  funext s l
  simp only [acceptRecord, acceptCount, M.bind_apply]

theorem keeps_acceptCount {I : State → Prop} (reg : ∀ b u t, I t → I ((Prim.reg b u).run t)) (loose : ∀ c y t, I t → I ((Prim.loose c y).run t))
    (w : HostWr) (st : Stamp) : Keeps I (acceptCount w st) :=
  keeps_bind (keeps_applyWord reg loose _ _) fun _ => keeps_bind (keeps_bind (keeps_rd _) fun _ => keeps_wr _ reg) fun _ => keeps_wr _ reg

/-- The record of an accepted write is on its way, except that on the CHRON page it can be counted (R80, R597). -/
theorem acceptRecord_tells (w : HostWr) (old : Word) (s : State) :
    let t := runAll (acceptRecord w old s []).2 s
    t.tells ⟨s.now, s.time.seq⟩ w.page (w.rid.setWidth 16) 0x0001 (writePayload w.value old w.addr.toNat 0) ∨ (w.page = 0x03 ∧ t.counts 0x0001) := by
  rw [acceptRecord_eq, M.bind_apply, M.bind_apply, recordWrite, if_pos rfl]
  refine (raiseItem_tells _ _ s _).imp_right (And.imp_left fun h => ?_)
  by_contra other
  exact h (if_neg other)

/-- It draws one sequence number. -/
theorem acceptRecord_time (w : HostWr) (h3 : w.page ≠ 0x03) (old : Word) (s : State) :
    (runAll (acceptRecord w old s []).2 s).time = { s.time with seq := s.time.seq + 1 } := by
  rw [acceptRecord_eq, M.bind_apply, M.bind_apply, recordWrite, if_pos rfl, if_neg h3]
  refine keeps_raiseItem_other (I := fun t => t.time = { s.time with seq := s.time.seq + 1 }) (fun _ _ h => h) _ s _ ?_
  exact keeps_acceptCount (I := fun t => t.time = { s.time with seq := s.time.seq + 1 }) (fun _ _ _ h => h) (fun _ _ _ h => h) w _ s _ rfl

/-! ### The word -/

/-- A word that a write changes by the types of its fields alone. -/
abbrev typedWord (a : Nat) : Prop := a % 0x1000 ≠ 0x10 ∧ a % 0x1000 ≠ 0x14 ∧ a % 0x1000 ≠ 0x1C ∧ ownRule a = false ∧ fixedSource a = false ∧ a / 0x1000 ≠ 0x38

theorem applyWord_typed {a : Nat} (h : typedWord a) (v : Word) (s : State) (l : List Prim) :
    (applyWord a v s l).2 = .reg a (appliedWord a (regWord (runAll l s).regs a) v) :: l := by
  obtain ⟨raw, en, sticky, own, fixed, loose⟩ := h
  have free : (runAll l s).looseHeld a = none := by
    unfold State.looseHeld
    exact if_neg fun h => loose h.1
  rw [applyWord, getS_bind]
  simp only [raw, en, sticky, own, fixed, if_false, M.ite_apply, getS_bind, free]
  simp [wrWord]

/-- The count, the time and the record of an accepted write change no word of registers. -/
theorem within_acceptTail {w : HostWr} {p : Nat} (hp : w.page = p) (lt : p < 64) (st : Stamp) (old : Word) :
    Within recordParts (wrWords p [] []) (do
      bumpMod (R.PG_WRCOUNT.COUNT w.page)
      wr (R.PG_LASTWR_TS.TS w.page) st.ts.toNat
      recordWrite st w old 0) := by
  have mem : Piece.regs ∈ recordParts := by decide
  have off (o : Nat) (ho : o = 0x20 ∨ o = 0x28 ∨ o = 0x2C) : wrWords p [] [] (0x1000 * (w.page % 64) + o) = true := by
    have h1 : (0x1000 * (w.page % 64) + o) / 0x1000 = p := by omega
    have h2 : (0x1000 * (w.page % 64) + o) % 0x1000 = o := by omega
    simp only [wrWords, acceptWord, h1, h2, Bool.or_eq_true, Bool.and_eq_true, decide_eq_true_eq]
    exact .inl ⟨trivial, by tauto⟩
  refine within_bind (within_bumpMod _ mem (off 0x20 (by simp)) (by simp [R.PG_WRCOUNT.COUNT]) (by simp [R.PG_WRCOUNT.COUNT])) fun _ =>
    within_bind (within_wr _ _ mem (off 0x28 (by simp)) (fun _ => off 0x2C (by simp)) (by simp [R.PG_LASTWR_TS.TS])) fun _ => ?_
  refine (within_recordWrite _ _ _ _).mono (fun _ h => h) fun b hb => ?_
  simp [wrWords, ownWords, eventWord_mono (k := [p]) (by simp) b hb]

/-- What applying the write makes of its word is what stands there afterwards. -/
theorem acceptRecord_leads {w : HostWr} {a : Nat} (ha : w.at = a) (hp : w.page = a / 0x1000) (lt : a / 0x1000 < 64)
    (clear : wrWords (a / 0x1000) [] [] a = false) (old : Word) {s : State} {x : Word}
    (h : Leads (fun t => regWord t.regs a = regWord s.regs a) (applyWord a w.value) fun _ t => regWord t.regs a = x) :
    regWord (runAll (acceptRecord w old s []).2 s).regs a = x := by
  rw [acceptRecord, M.bind_apply, M.bind_apply, ha]
  exact (within_acceptTail hp lt _ old).keeps_word clear _ s _ (h s _ rfl)

/-- An accepted write stores its word by the types of its fields. -/
theorem acceptRecord_word {w : HostWr} {a : Nat} (ha : w.at = a) (hp : w.page = a / 0x1000) (lt : a / 0x1000 < 64) (h : typedWord a)
    (clear : wrWords (a / 0x1000) [] [] a = false) (old : Word) (s : State) :
    regWord (runAll (acceptRecord w old s []).2 s).regs a = appliedWord a (regWord s.regs a) w.value := by
  refine acceptRecord_leads ha hp lt clear old fun s l same => ?_
  rw [applyWord_typed h, same]
  exact mget_mset_same _ _ _ _

/-- A word that its own rule changes stays as it is until that rule acts. -/
theorem acceptRecord_own {w : HostWr} {a : Nat} (ha : w.at = a) (hp : w.page = a / 0x1000) (lt : a / 0x1000 < 64) (own : ownRule a = true)
    (hdr : 0x40 ≤ a % 0x1000) (clear : wrWords (a / 0x1000) [] [] a = false) (old : Word) (s : State) :
    regWord (runAll (acceptRecord w old s []).2 s).regs a = regWord s.regs a := by
  refine acceptRecord_leads ha hp lt clear old ?_
  exact leads_getS fun u => leads_ite (fun h => absurd h (by omega)) fun _ => leads_ite (fun h => absurd h (by omega)) fun _ =>
    leads_ite (fun h => absurd h (by omega)) fun _ => leads_ite (fun _ => leads_pure fun t h => h.2) fun no => absurd (.inl own) no

/-! ### The state in which a register's own effect starts -/

/-- What an accepted write of a full word does before its register's own effect. -/
def State.acceptRun (s : State) (rid : BitVec 12) (a : Nat) (v : Word) : List Prim := (acceptRecord (fullWrite rid a v) (s.view a) s []).2

section Run
variable {a : Nat} {rid : BitVec 12} {v : Nat} {s : State}

theorem hostWrite_takes (ha : a < 2 ^ 18 ∧ a % 4 = 0) (h : plainWord a) (effect : M Unit) (ok : s.accepts rid a v) :
    exec1 (hostWrite (fullWrite rid a (BitVec.ofNat 32 v)) effect) s = .next (runAll (effect s (s.acceptRun rid a (BitVec.ofNat 32 v))).2 s) := by
  have at' := fullWrite_at rid (BitVec.ofNat 32 v) ha
  rw [hostWrite_accepted _ _ _ ok, exec1_eq, acceptWrite_plain at' h, at', State.acceptRun]

theorem acceptRun_frame (ha : a < 2 ^ 18 ∧ a % 4 = 0) (h : plainWord a) (w : Word) :
    SameBut recordParts s (runAll (s.acceptRun rid a w) s) ∧ WordsBut (wrWords (a / 0x1000) [a] []) s (runAll (s.acceptRun rid a w) s)
      ∧ (runAll (s.acceptRun rid a w) s).now = s.now := by
  have page := fullWrite_page rid w ha.1
  obtain ⟨same, words⟩ := (within_acceptRecord (fullWrite_at rid w ha) page h (s.view a)).leaves s
  exact ⟨same, page ▸ words, keeps_now_acceptRecord _ s [] rfl⟩

theorem acceptRun_word (ha : a < 2 ^ 18 ∧ a % 4 = 0) (h : plainWord a) (typed : typedWord a) (clear : wrWords (a / 0x1000) [] [] a = false) (w : Word) :
    regWord (runAll (s.acceptRun rid a w) s).regs a = appliedWord a (regWord s.regs a) w :=
  acceptRecord_word (fullWrite_at rid w ha) (fullWrite_page rid w ha.1) h.2.2.2 typed clear _ s

theorem acceptRun_tells (ha : a < 2 ^ 18) (w : Word) :
    let t := runAll (s.acceptRun rid a w) s
    t.tells ⟨s.now, s.time.seq⟩ (a / 0x1000) (rid.setWidth 16) 0x0001 (writePayload w (s.view a) a 0) ∨ (a / 0x1000 = 0x03 ∧ t.counts 0x0001) := by
  have told := acceptRecord_tells (fullWrite rid a w) (s.view a) s
  have addr : (fullWrite rid a w).addr.toNat = a := Nat.mod_eq_of_lt ha
  rwa [fullWrite_page rid w ha, addr] at told

theorem acceptRun_time (ha : a < 2 ^ 18) (h3 : a / 0x1000 ≠ 0x03) (w : Word) :
    (runAll (s.acceptRun rid a w) s).time = { s.time with seq := s.time.seq + 1 } :=
  acceptRecord_time _ (by rwa [fullWrite_page rid w ha]) _ s

end Run

end Sys2Proof.Machine
end

section
/-! O13: GLOBAL_SEAL_ALL (R85). -/
namespace Sys2Proof.Machine
open Sys2Proof

/-! ### Seals -/

/-- The fields of a page's seal and of its state as they are to stand. -/
def State.sealedAs (t : State) (q en st : Nat) : Prop :=
  t.fld (R.PG_STAT.SEALED q) = 1 ∧ t.fld (R.PG_CTL.SEAL q) = 1 ∧ t.fld (R.PG_CTL.ENABLE q) = en ∧ t.pageState q = st

/-- A page's ENABLE and STATE as they are to stand. -/
def State.runsAs (t : State) (q en st : Nat) : Prop := t.fld (R.PG_CTL.ENABLE q) = en ∧ t.pageState q = st

theorem seal_apart (p q : Nat) : (R.PG_CTL.SEAL p).Apart (R.PG_CTL.ENABLE q) ∧ (R.PG_CTL.SEAL p).Apart (R.PG_STAT.STATE q)
    ∧ (R.PG_STAT.SEALED p).Apart (R.PG_CTL.ENABLE q) ∧ (R.PG_STAT.SEALED p).Apart (R.PG_STAT.STATE q)
    ∧ (R.PG_CTL.SEAL p).Apart (R.PG_STAT.SEALED q) ∧ (R.PG_STAT.SEALED p).Apart (R.PG_CTL.SEAL q) := by
  simp only [RegField.Apart, R.PG_CTL.SEAL, R.PG_CTL.ENABLE, R.PG_STAT.STATE, R.PG_STAT.SEALED]
  omega

theorem keeps_runsAs_sealPage (p q en st : Nat) : Keeps (fun t => t.runsAs q en st) (sealPage p) := by
  obtain ⟨ce, cs, se, ss, -⟩ := seal_apart p q
  exact keeps_bind (fun s l ⟨h1, h2⟩ => ⟨(fld_wr_apart _ ce s l).trans h1, (fld_wr_apart _ cs s l).trans h2⟩) fun _ s l ⟨h1, h2⟩ =>
    ⟨(fld_wr_apart _ se s l).trans h1, (fld_wr_apart _ ss s l).trans h2⟩

/-- A field into which 1 has been stored goes on holding 1 when 1 is stored into the same field of any page. -/
theorem fld_wr_one {x y : RegField} (h : x = y ∨ x.Apart y) (hy : y.lo = y.hi ∧ y.hi < 32) (s : State) (l : List Prim) (h1 : (runAll l s).fld y = 1) :
    (runAll (wr x 1 s l).2 s).fld y = 1 := by
  rcases h with rfl | h
  · rw [fld_wr_same _ _ (.inl ⟨hy.1.le, hy.2⟩), hy.1]
    simp
  · rw [fld_wr_apart _ h, h1]

theorem keeps_seals_sealPage (p q : Nat) : Keeps (fun t => t.fld (R.PG_STAT.SEALED q) = 1 ∧ t.fld (R.PG_CTL.SEAL q) = 1) (sealPage p) := by
  obtain ⟨-, -, -, -, cd, dc⟩ := seal_apart p q
  have ctl : R.PG_CTL.SEAL p = R.PG_CTL.SEAL q ∨ (R.PG_CTL.SEAL p).Apart (R.PG_CTL.SEAL q) := by
    by_cases h : p % 64 = q % 64
    · exact .inl (by rw [R.PG_CTL.SEAL, h, R.PG_CTL.SEAL])
    · exact .inr (by simp only [RegField.Apart, R.PG_CTL.SEAL]; omega)
  have stat : R.PG_STAT.SEALED p = R.PG_STAT.SEALED q ∨ (R.PG_STAT.SEALED p).Apart (R.PG_STAT.SEALED q) := by
    by_cases h : p % 64 = q % 64
    · exact .inl (by rw [R.PG_STAT.SEALED, h, R.PG_STAT.SEALED])
    · exact .inr (by simp only [RegField.Apart, R.PG_STAT.SEALED]; omega)
  exact keeps_bind (fun s l ⟨h1, h2⟩ => ⟨(fld_wr_apart _ cd s l).trans h1, fld_wr_one ctl ⟨rfl, show 1 < 32 by decide⟩ s l h2⟩) fun _ s l ⟨h1, h2⟩ =>
    ⟨fld_wr_one stat ⟨rfl, show 3 < 32 by decide⟩ s l h1, (fld_wr_apart _ dc s l).trans h2⟩

/-- Sealing a page is two words stored. -/
theorem keeps_sealPage {I : State → Prop} (reg : ∀ a w t, I t → I ((Prim.reg a w).run t)) (p : Nat) : Keeps I (sealPage p) :=
  keeps_bind (keeps_wr _ reg) fun _ => keeps_wr _ reg

theorem sealPage_seals (p : Nat) : Leads (fun _ => True) (sealPage p) fun _ t => t.fld (R.PG_STAT.SEALED p) = 1 ∧ t.fld (R.PG_CTL.SEAL p) = 1 := by
  obtain ⟨-, -, -, -, -, dc⟩ := seal_apart p p
  refine leads_bind (R := fun _ t => t.fld (R.PG_CTL.SEAL p) = 1) (fun s l _ => ?_) fun _ s l h => ⟨?_, (fld_wr_apart _ dc s l).trans h⟩
  · exact fld_wr_same _ _ (.inl ⟨by simp [R.PG_CTL.SEAL], by simp [R.PG_CTL.SEAL]⟩) s l
  · exact fld_wr_same _ _ (.inl ⟨by simp [R.PG_STAT.SEALED], by simp [R.PG_STAT.SEALED]⟩) s l

/-- What one turn of a loop brings about and every other keeps holds at the end. -/
theorem leads_forM_mem {γ : Type} {I : State → Prop} {xs : List γ} {x : γ} (hx : x ∈ xs) {k : γ → M Unit} (gets : Leads (fun _ => True) (k x) fun _ => I)
    (keeps : ∀ y, Keeps I (k y)) : Leads (fun _ => True) (forM xs k) fun _ => I := by
  induction xs with
  | nil => exact absurd hx List.not_mem_nil
  | cons y ys ih =>
    rcases List.mem_cons.1 hx with rfl | hm
    · exact leads_bind gets fun _ => keeps_forM ys keeps
    · exact leads_bind (R := fun _ _ => True) (fun _ _ _ => trivial) fun _ => ih hm

/-- Sealing a page changes its PG_CTL and PG_STAT. -/
theorem within_sealPage (p : Nat) : Within [.regs] (fun a => decide (a % 0x1000 = 0x08) || decide (a % 0x1000 = 0x0C)) (sealPage p) := by
  have ctl : (R.PG_CTL.SEAL p).addr % 0x1000 = 8 := by simp only [R.PG_CTL.SEAL]; omega
  have stat : (R.PG_STAT.SEALED p).addr % 0x1000 = 12 := by simp only [R.PG_STAT.SEALED]; omega
  exact within_bind (within_wr_one _ _ (by simp [R.PG_CTL.SEAL]) (by simp) (by simp [ctl])) fun _ =>
    within_wr_one _ _ (by simp [R.PG_STAT.SEALED]) (by simp) (by simp [stat])

/-! ### Notices -/

/-- The SEAL notice of a page. -/
def sealNotice (rid : BitVec 12) (p : Nat) : M Unit := do
  raiseItem (← stamp) p (rid.setWidth 16) 0x0004 [BitVec.ofNat 96 p] .other (auditPage p)

theorem keeps_tells_sealNotice {st : Stamp} {page : Nat} {req code : BitVec 16} {x : BitVec 96} (rid : BitVec 12) (p : Nat) :
    Keeps (fun t => t.tells st page req code x) (sealNotice rid p) :=
  keeps_bind (keeps_stamp fun _ _ h r => h.tells r) fun _ => keeps_raiseItem (fun _ _ h r => h.tells r) _ _ _ _ _ _ _

/-- The notices of a list of pages are on their way, with sequence numbers that follow on from one another. -/
theorem sealNotices_tell (rid : BitVec 12) (n : BitVec 64) (ps : List Nat) : ∀ k : BitVec 16,
    Leads (fun t => t.now = n ∧ t.time.seq = k) (forM ps (sealNotice rid)) fun _ t => ∀ (i p : Nat), ps[i]? = some p →
      t.tells ⟨n, k + BitVec.ofNat 16 i⟩ p (rid.setWidth 16) 0x0004 (BitVec.ofNat 96 p) := by
  induction ps with
  | nil => exact fun k s l _ i p hi => by simp at hi
  | cons q qs ih =>
    intro k
    have first : Leads (fun t => t.now = n ∧ t.time.seq = k) (sealNotice rid q) fun _ t => (t.now = n ∧ t.time.seq = k + 1)
        ∧ t.tells ⟨n, k⟩ q (rid.setWidth 16) 0x0004 (BitVec.ofNat 96 q) := by
      refine leads_bind (R := fun st t => st = ⟨n, k⟩ ∧ t.now = n ∧ t.time.seq = k + 1) ?_ fun st => ?_
      · rintro s l ⟨rfl, rfl⟩
        exact ⟨rfl, rfl, rfl⟩
      · rintro s l ⟨rfl, hn, hk⟩
        exact ⟨keeps_raiseItem_other (I := fun t => t.now = n ∧ t.time.seq = k + 1) (fun _ _ h => h) _ s l ⟨hn, hk⟩,
          raiseItem_other_tells _ s l trivial⟩
    have record : Keeps (fun t => t.tells ⟨n, k⟩ q (rid.setWidth 16) 0x0004 (BitVec.ofNat 96 q)) (forM qs (sealNotice rid)) :=
      keeps_forM _ fun _ => keeps_tells_sealNotice rid _
    refine leads_bind first fun _ => ((ih (k + 1)).mono (fun _ h => h.1) fun _ _ h => h).and (record.mono (fun _ h => h.2) fun _ _ h => h) |>.mono (fun _ h => h) ?_
    rintro - t ⟨rest, here⟩ i p hi
    cases i with
    | zero =>
      obtain rfl : q = p := by simpa using hi
      simpa using here
    | succ i =>
      have next := rest i p (by simpa using hi)
      rwa [show k + BitVec.ofNat 16 (i + 1) = k + 1 + BitVec.ofNat 16 i by rw [Nat.add_comm, BitVec.ofNat_add, BitVec.add_assoc]; rfl]

theorem within_sealNotice (rid : BitVec 12) (p : Nat) : Within recordParts (eventWord []) (sealNotice rid p) :=
  within_bind (within_stamp (by decide)) fun _ => within_raiseItem _ _ _ _ _ _ _

/-! ### GLOBAL_SEAL_ALL -/

/-- The pages of the map. -/
def carriedPages : List Nat := (List.range 64).filter carried

theorem fxSealAll_eq (rid : BitVec 12) : fxSealAll rid 1 = forM carriedPages sealPage >>= fun _ => forM carriedPages (sealNotice rid) := rfl

/-- The words that sealing every page changes. -/
abbrev sealWords (a : Nat) : Bool := decide (a % 0x1000 = 0x08) || decide (a % 0x1000 = 0x0C) || wrWords 0x01 [] [] a

theorem within_sealAll (rid : BitVec 12) : Within recordParts sealWords (fxSealAll rid 1) := by
  rw [fxSealAll_eq]
  exact within_bind (within_forM _ fun p => (within_sealPage p).mono (by decide) fun a h => by simp [h]) fun _ =>
    within_forM _ fun p => (within_sealNotice rid p).mono (fun _ h => h) fun a h => by simp [wrWords, ownWords, eventWord_mono (k := [1]) (by simp) a h]

/-- Where a carried page stands among them. -/
theorem carriedPages_getElem : ∀ p < 64, carried p = true → carriedPages[((List.range p).filter carried).length]? = some p := by decide +kernel

/-- GLOBAL_SEAL_ALL holds nothing that is written to it. -/
theorem sealAll_applied (old v : Word) : appliedWord R.GLOBAL_SEAL_ALL.SEAL.addr old v = old := by
  have rw0 : wordMask (fun f => f.ty = .rw ∨ f.ty = .rws) R.GLOBAL_SEAL_ALL.SEAL.addr = 0#32 := by decide +kernel
  have w1c : wordMask (fun f => f.ty = .w1c) R.GLOBAL_SEAL_ALL.SEAL.addr = 0#32 := by decide +kernel
  have w1s : wordMask (fun f => f.ty = .w1s) R.GLOBAL_SEAL_ALL.SEAL.addr = 0#32 := by decide +kernel
  have ones : ~~~0#32 = BitVec.allOnes 32 := BitVec.not_zero
  simp only [appliedWord, rw0, w1c, w1s, BitVec.and_zero, BitVec.or_zero, ones, BitVec.and_allOnes]

/-- What the notices leave of a page's header. -/
theorem notices_clear (rid : BitVec 12) (y : RegField) (hy : y.addr % 0x1000 = 0x08 ∨ y.addr % 0x1000 = 0x0C) (one : y.hi < 32) (s : State) (l : List Prim) :
    (runAll (forM carriedPages (sealNotice rid) s l).2 s).fld y = (runAll l s).fld y := by
  refine (within_forM carriedPages (within_sealNotice rid)).fld_clear ⟨?_, by omega, by omega⟩ s l
  have off : y.addr % 0x1000 ≠ 0x10 ∧ y.addr % 0x1000 ≠ 0x1C ∧ y.addr ≠ 0x3058 := by omega
  simp [eventWord, off]

/-- What the record of the write leaves of a page's header. -/
theorem sealRecord_clear (y : RegField) (hy : y.addr % 0x1000 = 0x08 ∨ y.addr % 0x1000 = 0x0C) (one : y.hi < 32) :
    y.Clear (wrWords 0x01 [R.GLOBAL_SEAL_ALL.SEAL.addr] []) := by
  refine ⟨?_, by omega, by omega⟩
  have off : y.addr % 0x1000 ≠ 0x10 ∧ y.addr % 0x1000 ≠ 0x1C ∧ y.addr ≠ 0x3058 ∧ y.addr % 0x1000 ≠ 0x20 ∧ y.addr % 0x1000 ≠ 0x28
    ∧ y.addr % 0x1000 ≠ 0x2C ∧ y.addr ≠ 0x1070 := by omega
  simp [wrWords, ownWords, acceptWord, eventWord, R.GLOBAL_SEAL_ALL.SEAL, off]

/-- The frame of the write's record: GLOBAL_SEAL_ALL itself holds nothing. -/
theorem sealRecord_frame (s : State) (rid : BitVec 12) : WordsBut sealWords s (runAll (s.acceptRun rid R.GLOBAL_SEAL_ALL.SEAL.addr 1) s) := by
  intro b hb
  by_cases here : b = R.GLOBAL_SEAL_ALL.SEAL.addr
  · rw [here]
    exact (acceptRun_word (by decide) (by decide +kernel) (by decide +kernel) (by decide) 1).trans (sealAll_applied _ _)
  · refine (acceptRun_frame (a := R.GLOBAL_SEAL_ALL.SEAL.addr) (by decide) (by decide +kernel) 1).2.1 b ?_
    have out : wrWords 0x01 [] [] b = false := (Bool.or_eq_false_iff.1 hb).2
    rw [show R.GLOBAL_SEAL_ALL.SEAL.addr / 0x1000 = 0x01 by decide]
    simpa [wrWords, ownWords, here] using out

theorem sealRecord_stays (s : State) (rid : BitVec 12) (y : RegField) (hy : y.addr % 0x1000 = 0x08 ∨ y.addr % 0x1000 = 0x0C) (one : y.hi < 32) :
    (runAll (s.acceptRun rid R.GLOBAL_SEAL_ALL.SEAL.addr 1) s).fld y = s.fld y := by
  refine (acceptRun_frame (a := R.GLOBAL_SEAL_ALL.SEAL.addr) (by decide) (by decide +kernel) 1).2.1.fld ?_
  exact sealRecord_clear y hy one

/-- An accepted write of GLOBAL_SEAL_ALL: the seals, then the notices. -/
theorem exec_globalSealAll {s : State} {rid : BitVec 12} (ok : s.accepts rid R.GLOBAL_SEAL_ALL.SEAL.addr 1) :
    exec (.globalSealAll rid) s = .next (runAll (forM carriedPages (sealNotice rid) s
      (forM carriedPages sealPage s (s.acceptRun rid R.GLOBAL_SEAL_ALL.SEAL.addr 1)).2).2 s) := by
  have run := hostWrite_takes (a := R.GLOBAL_SEAL_ALL.SEAL.addr) (by decide) (by decide +kernel) (fxSealAll rid 1) ok
  rw [fxSealAll_eq, M.bind_apply] at run
  exact run

/-- Settles O13: the write is recorded, each page of the map is sealed by its turn of the first loop, and its notice is written by its
turn of the second. -/
theorem sealAll : Obligations.SealAll := by
  unfold Obligations.SealAll
  intro s rid _ ok
  generalize hl : s.acceptRun rid R.GLOBAL_SEAL_ALL.SEAL.addr 1 = l
  have run := exec_globalSealAll ok
  obtain ⟨same, -, now⟩ := acceptRun_frame (a := R.GLOBAL_SEAL_ALL.SEAL.addr) (rid := rid) (s := s) (by decide) (by decide +kernel) 1
  have time := acceptRun_time (a := R.GLOBAL_SEAL_ALL.SEAL.addr) (rid := rid) (s := s) (by decide) (by decide) 1
  have told := (acceptRun_tells (a := R.GLOBAL_SEAL_ALL.SEAL.addr) (rid := rid) (s := s) (by decide) 1).resolve_right fun h => absurd h.1 (by decide)
  have stays := sealRecord_stays s rid
  have frame := sealRecord_frame s rid
  rw [hl] at run same now time told stays frame
  generalize hl' : (forM carriedPages sealPage s l).2 = l' at run
  obtain ⟨same', words'⟩ := (within_sealAll rid).leaves_from s l
  rw [fxSealAll_eq, M.bind_apply, hl'] at same' words'
  have after : (runAll l' s).now = s.now ∧ (runAll l' s).time.seq = s.time.seq + 1 := hl' ▸
    keeps_forM (I := fun t => t.now = s.now ∧ t.time.seq = s.time.seq + 1) carriedPages (keeps_sealPage fun _ _ _ h => h) s l
      ⟨now, congrArg TimeState.seq time⟩
  have recorded := keeps_forM carriedPages (keeps_sealPage (I := fun t => t.tells _ _ _ _ _) fun _ _ _ h => h) s l told
  rw [hl'] at recorded
  have noted := keeps_forM carriedPages (keeps_tells_sealNotice rid) s l' recorded
  have notices := sealNotices_tell rid s.now carriedPages (s.time.seq + 1) s l' after
  refine ⟨_, run, same.trans same', frame.trans words', fun p lt on => ?_, ?_, fun p lt on => ?_⟩
  · have mem : p ∈ carriedPages := by simp [carriedPages, lt, on]
    have seals := leads_forM_mem mem (sealPage_seals p) (fun q => keeps_seals_sealPage q p) s l trivial
    rw [hl'] at seals
    have ctl (x : RegField) (h : x = R.PG_CTL.SEAL p ∨ x = R.PG_CTL.ENABLE p) : x.addr % 0x1000 = 0x08 ∧ x.hi < 32 := by
      rcases h with rfl | rfl <;> simp only [R.PG_CTL.SEAL, R.PG_CTL.ENABLE] <;> omega
    have stat (x : RegField) (h : x = R.PG_STAT.SEALED p ∨ x = R.PG_STAT.STATE p) : x.addr % 0x1000 = 0x0C ∧ x.hi < 32 := by
      rcases h with rfl | rfl <;> simp only [R.PG_STAT.SEALED, R.PG_STAT.STATE] <;> omega
    have runs := keeps_forM carriedPages (fun q => keeps_runsAs_sealPage q p (s.fld (R.PG_CTL.ENABLE p)) (s.pageState p)) s l
      ⟨stays _ (.inl (ctl _ (.inr rfl)).1) (ctl _ (.inr rfl)).2, stays _ (.inr (stat _ (.inr rfl)).1) (stat _ (.inr rfl)).2⟩
    rw [hl'] at runs
    obtain ⟨⟨sealed, bit⟩, en, st⟩ := And.intro seals runs
    exact ⟨(notices_clear rid _ (.inr (stat _ (.inl rfl)).1) (stat _ (.inl rfl)).2 s l').trans sealed,
      (notices_clear rid _ (.inl (ctl _ (.inl rfl)).1) (ctl _ (.inl rfl)).2 s l').trans bit,
      (notices_clear rid _ (.inl (ctl _ (.inr rfl)).1) (ctl _ (.inr rfl)).2 s l').trans en,
      (notices_clear rid _ (.inr (stat _ (.inr rfl)).1) (stat _ (.inr rfl)).2 s l').trans st⟩
  · obtain ⟨w, hw, ts, seq, page, req, code, -⟩ := noted
    exact ⟨w, hw, code, page, seq⟩
  · obtain ⟨w, hw, ts, seq, page, req, code, payload⟩ := notices _ p (carriedPages_getElem p lt on)
    exact ⟨w, hw, code, page, payload, ts, seq⟩

end Sys2Proof.Machine
end

section
/-! What an accepted write leaves in its word's fields (R7), the frame of the command that it starts, and the blocks that follow the
state table of R86. -/
namespace Sys2Proof.Machine
open Sys2Proof

/-! ### Fields of the word written -/

/-- The bits of a word that are RW or RWS, that a 1 clears, and that a 1 sets. -/
abbrev storedBits (a : Nat) : Word := wordMask (fun f => f.ty = .rw ∨ f.ty = .rws) a
abbrev clearedBits (a : Nat) : Word := wordMask (fun f => f.ty = .w1c) a
abbrev raisedBits (a : Nat) : Word := wordMask (fun f => f.ty = .w1s) a

theorem getLsbD_appliedWord (a : Nat) (old v : Word) (i : Nat) (hi : i < 32) : (appliedWord a old v).getLsbD i =
    ((((old.getLsbD i && !(storedBits a).getLsbD i) || (v.getLsbD i && (storedBits a).getLsbD i)) && !(v.getLsbD i && (clearedBits a).getLsbD i))
      || (v.getLsbD i && (raisedBits a).getLsbD i)) := by
  simp only [appliedWord, BitVec.getLsbD_or, BitVec.getLsbD_and, BitVec.getLsbD_not, hi, decide_true, Bool.true_and]

/-- The field takes the value written. -/
def RegField.takes (y : RegField) : Bool := decide (y.hi < 32) && (List.range 32).all fun i => decide (i < y.lo) || decide (y.hi < i)
  || ((storedBits y.addr).getLsbD i && !(clearedBits y.addr).getLsbD i && !(raisedBits y.addr).getLsbD i)

/-- The field is left alone by a write. -/
def RegField.keeps (y : RegField) : Bool := decide (y.hi < 32) && (List.range 32).all fun i => decide (i < y.lo) || decide (y.hi < i)
  || (!(storedBits y.addr).getLsbD i && !(clearedBits y.addr).getLsbD i && !(raisedBits y.addr).getLsbD i)

/-- A field of one word by its bits. -/
theorem fieldVal_eq_bits {r : RegFile} {y : RegField} (hi : y.hi < 32) (le : y.lo ≤ y.hi) {w : Word}
    (h : ∀ i, y.lo ≤ i → i ≤ y.hi → (regWord r y.addr).getLsbD i = w.getLsbD i) : fieldVal r y = bits w.toNat y.hi y.lo := by
  simp only [fieldVal, if_pos hi, bits]
  refine Nat.eq_of_testBit_eq fun i => ?_
  simp only [Nat.testBit_mod_two_pow, Nat.testBit_div_two_pow]
  by_cases hw : i < y.hi - y.lo + 1
  · have := h (y.lo + i) (by omega) (by omega)
    simpa [hw, BitVec.getLsbD, Nat.add_comm] using this
  · simp [hw]

section Run
variable {a : Nat} {rid : BitVec 12} {s : State} {w : Word}

theorem acceptRun_takes (ha : a < 2 ^ 18 ∧ a % 4 = 0) (h : plainWord a) (typed : typedWord a) (clear : wrWords (a / 0x1000) [] [] a = false)
    {y : RegField} (hy : y.addr = a) (le : y.lo ≤ y.hi) (takes : y.takes = true) :
    (runAll (s.acceptRun rid a w) s).fld y = bits w.toNat y.hi y.lo := by
  simp only [RegField.takes, Bool.and_eq_true, decide_eq_true_eq, List.all_eq_true, List.mem_range] at takes
  obtain ⟨hi, all⟩ := takes
  refine fieldVal_eq_bits hi le fun i lo up => ?_
  have bit := all i (by omega)
  simp only [Bool.or_eq_true, Bool.and_eq_true, decide_eq_true_eq, Nat.not_lt.2 lo, Nat.not_lt.2 up, false_or, Bool.not_eq_true'] at bit
  obtain ⟨⟨stored, cleared⟩, set⟩ := bit
  rw [hy] at stored cleared set ⊢
  rw [acceptRun_word ha h typed clear, getLsbD_appliedWord _ _ _ _ (by omega), stored, cleared, set]
  simp

theorem acceptRun_keeps (ha : a < 2 ^ 18 ∧ a % 4 = 0) (h : plainWord a) (typed : typedWord a) (clear : wrWords (a / 0x1000) [] [] a = false)
    {y : RegField} (hy : y.addr = a) (le : y.lo ≤ y.hi) (keeps : y.keeps = true) :
    (runAll (s.acceptRun rid a w) s).fld y = s.fld y := by
  simp only [RegField.keeps, Bool.and_eq_true, decide_eq_true_eq, List.all_eq_true, List.mem_range] at keeps
  obtain ⟨hi, all⟩ := keeps
  have old : s.fld y = bits (regWord s.regs y.addr).toNat y.hi y.lo := fieldVal_eq_bits hi le fun _ _ _ => rfl
  rw [old]
  refine fieldVal_eq_bits hi le fun i lo up => ?_
  have bit := all i (by omega)
  simp only [Bool.or_eq_true, Bool.and_eq_true, decide_eq_true_eq, Nat.not_lt.2 lo, Nat.not_lt.2 up, false_or, Bool.not_eq_true'] at bit
  obtain ⟨⟨stored, cleared⟩, set⟩ := bit
  rw [hy] at stored cleared set ⊢
  rw [acceptRun_word ha h typed clear, getLsbD_appliedWord _ _ _ _ (by omega), stored, cleared, set]
  simp

/-! ### A word with a rule of its own -/

/-- A word that its own rule changes stays as it is until that rule acts. -/
theorem acceptRun_own (ha : a < 2 ^ 18 ∧ a % 4 = 0) (h : plainWord a) (own : ownRule a = true) (hdr : 0x40 ≤ a % 0x1000) :
    WordsBut (wrWords (a / 0x1000) [] []) s (runAll (s.acceptRun rid a w) s) := by
  intro b hb
  by_cases here : b = a
  · subst here
    exact acceptRecord_own (fullWrite_at rid w ha) (fullWrite_page rid w ha.1) h.2.2.2 own hdr hb _ s
  · refine (acceptRun_frame ha h w).2.1 b ?_
    simpa [wrWords, ownWords, here] using hb

/-! ### Frames -/

variable {qs : List Piece} {m : M Unit}

/-- An accepted write, and a command that stays on some pages. -/
theorem accepted_pages (ha : a < 2 ^ 18 ∧ a % 4 = 0) (h : plainWord a) (hdr : 0x40 ≤ a % 0x1000) {ps evts : List Nat} (hp : a / 0x1000 ∈ ps)
    (hq : ∀ q ∈ recordParts, q ∈ qs) (hm : Within qs (ownPages ps evts) m) :
    SameBut qs s (runAll (m s (s.acceptRun rid a w)).2 s)
      ∧ WordsBut (wrPages (a / 0x1000) ps evts) s (runAll (m s (s.acceptRun rid a w)).2 s) := by
  obtain ⟨same, words, -⟩ := acceptRun_frame (rid := rid) (s := s) ha h w
  obtain ⟨same', words'⟩ := hm.leaves_from s (s.acceptRun rid a w)
  refine ⟨(same.mono hq).trans same', (words.mono fun b hb => ?_).trans (words'.mono fun b hb => ?_)⟩
  · exact wrWords_wrPages (by simpa using ⟨hp, hdr⟩) b hb
  · exact Bool.or_eq_true_iff.2 (.inr (ownPages_mono (fun _ h => h) (by simp +contextual) b hb))

/-- An accepted write, and a command that changes some words. -/
theorem accepted_words (ha : a < 2 ^ 18 ∧ a % 4 = 0) (h : plainWord a) {own evts : List Nat}
    (hq : ∀ q ∈ recordParts, q ∈ qs) (hm : Within qs (ownWords own (a / 0x1000 :: evts)) m) :
    SameBut qs s (runAll (m s (s.acceptRun rid a w)).2 s)
      ∧ WordsBut (wrWords (a / 0x1000) (a :: own) evts) s (runAll (m s (s.acceptRun rid a w)).2 s) := by
  obtain ⟨same, words, -⟩ := acceptRun_frame (rid := rid) (s := s) ha h w
  obtain ⟨same', words'⟩ := hm.leaves_from s (s.acceptRun rid a w)
  refine ⟨(same.mono hq).trans same', (words.mono fun b hb => ?_).trans (words'.mono fun b hb => ?_)⟩
  · simp only [wrWords, ownWords, Bool.or_eq_true, List.contains_eq_mem, decide_eq_true_eq, List.mem_cons, List.not_mem_nil, or_false] at hb ⊢
    exact hb.imp_right (Or.imp .inl (eventWord_mono (by simp) b))
  · simp only [wrWords, ownWords, Bool.or_eq_true, List.contains_eq_mem, decide_eq_true_eq, List.mem_cons] at hb ⊢
    exact .inr (hb.imp_left .inr)

end Run

/-! ### Blocks (R86) -/

section Blocks
variable {b : Block}

theorem within_setBlock (st : Nat) (hs : b.state.hi < 32) (he : b.event.page < 64) :
    Within recordParts (ownWords [b.state.addr] [b.event.page]) (setBlock b st) :=
  within_bind (within_wr_one _ _ hs (by decide) (by simp [ownWords])) fun _ => within_bind within_getS fun _ =>
    (within_raiseNamed _ he _ _ _).mono (fun _ h => h) fun a h => by simp [ownWords, h]

/-- A field apart from a block's STATE and from what recording its event changes. -/
theorem fld_setBlock {y : RegField} (st : Nat) (he : b.event.page < 64) (apart : b.state.Apart y) (clear : y.Clear (eventWord [b.event.page]))
    (s : State) (l : List Prim) : (runAll (setBlock b st s l).2 s).fld y = (runAll l s).fld y := by
  rw [setBlock, M.bind_apply, getS_bind, (within_raiseNamed _ he _ _ _).fld_clear clear, fld_wr_apart _ apart]

theorem setBlock_state (st : Nat) (he : b.event.page < 64) (hs : b.state.lo ≤ b.state.hi ∧ b.state.hi < 32)
    (clear : b.state.Clear (eventWord [b.event.page])) (s : State) (l : List Prim) :
    (runAll (setBlock b st s l).2 s).fld b.state = st % 2 ^ (b.state.hi - b.state.lo + 1) := by
  rw [setBlock, M.bind_apply, getS_bind, (within_raiseNamed _ he _ _ _).fld_clear clear, fld_wr_same _ _ (.inl hs)]

variable {old en mayEnter : Bool} {drain on : M Unit} {s : State} {l : List Prim}

theorem blockEnable_enter (off : (runAll l s).fld b.state = pgOff) :
    (blockEnable b false true true drain on s l).2 = (on s (setBlock b pgActive s l).2).2 := by
  rw [blockEnable, rd_bind, off]
  rfl

theorem blockEnable_leave (active : (runAll l s).fld b.state = pgActive) :
    (blockEnable b old false mayEnter drain on s l).2 = (drain s (setBlock b pgDraining s l).2).2 := by
  rw [blockEnable, rd_bind, active]
  rfl

/-- EN written 1 where it is 1 does nothing. -/
theorem blockEnable_still : (blockEnable b true true mayEnter drain on s l).2 = l := by
  rw [blockEnable, rd_bind]
  simp [M.ite_apply]

theorem within_blockEnable {ps : List Piece} {f : Nat → Bool} (set : ∀ st, Within ps f (setBlock b st)) (rearm : ∀ v, Within ps f (wr b.rearm v))
    (hd : Within ps f drain) (ho : Within ps f on) : Within ps f (blockEnable b old en mayEnter drain on) :=
  within_bind (within_rd _) fun _ => within_ite (within_ite (within_bind (set _) fun _ => ho) (within_pure _))
    (within_ite (within_ite (within_bind (set _) fun _ => hd) (within_pure _)) (within_ite (within_ite (rearm _) (within_pure _)) (within_pure _)))

end Blocks

end Sys2Proof.Machine
end

section
/-! O44: index writes, queue pairs and RESUME (R138 to R140, R152, R167). -/
namespace Sys2Proof.Machine
open Sys2Proof

/-! ### Fields above the header -/

/-- What recording an event leaves of a field above the header. -/
theorem clear_events {y : RegField} (h : 0x40 ≤ y.addr % 0x1000 ∧ y.addr ≠ 0x3058 ∧ y.hi < 32) (evts : List Nat) : y.Clear (eventWord evts) := by
  refine ⟨?_, by omega, by omega⟩
  have off : y.addr % 0x1000 ≠ 0x10 ∧ y.addr % 0x1000 ≠ 0x1C := by omega
  simp [eventWord, off, h.2.1]

/-- What the record of a write leaves of such a field. -/
theorem clear_wrWords {y : RegField} (h : 0x40 ≤ y.addr % 0x1000 ∧ y.addr ≠ 0x3058 ∧ y.hi < 32) {own : List Nat} (ho : y.addr ∉ own) (p : Nat)
    (evts : List Nat) : y.Clear (wrWords p own evts) := by
  refine ⟨?_, by omega, by omega⟩
  have off : y.addr % 0x1000 ≠ 0x20 ∧ y.addr % 0x1000 ≠ 0x28 ∧ y.addr % 0x1000 ≠ 0x2C := by omega
  simp [wrWords, acceptWord, ownWords, off, ho, (clear_events h _).1]

/-! ### The registers of a pair -/

/-- A register of a queue pair: its address is `o` above that of QUEUE_Q_CFG. -/
def RegField.OfPair (n o : Nat) (y : RegField) : Prop := y.addr = 0x10080 + 0x1000 * (n % 32 / 4) + 0x40 * (n % 4) + o ∧ y.lo ≤ y.hi ∧ y.hi < 32

variable {n : Nat}

theorem RegField.OfPair.high {y : RegField} {o : Nat} (h : y.OfPair n o) (ho : o < 0x40) : 0x40 ≤ y.addr % 0x1000 ∧ y.addr ≠ 0x3058 ∧ y.hi < 32 := by
  obtain ⟨ha, -, hh⟩ := h
  omega

theorem RegField.OfPair.page {y : RegField} {o : Nat} (h : y.OfPair n o) (ho : o < 0x40) (hn : n < 32) : y.addr / 0x1000 = queuePage n := by
  obtain ⟨ha, -⟩ := h
  simp only [queuePage]
  omega

/-- Registers at different places of a pair are different words. -/
theorem RegField.OfPair.apart {x y : RegField} {o r : Nat} (hx : x.OfPair n o) (hy : y.OfPair n r) (h : o + 4 ≤ r ∨ r + 4 ≤ o) : x.Apart y := by
  obtain ⟨hx, -, hxh⟩ := hx
  obtain ⟨hy, -, hyh⟩ := hy
  simp only [RegField.Apart]
  omega

theorem ofPair_cfg (n : Nat) : (R.QUEUE_Q_CFG.CLOG n).OfPair n 0 ∧ (R.QUEUE_Q_CFG.RID n).OfPair n 0 ∧ (R.QUEUE_Q_VER.PROPOSE n).OfPair n 4
    ∧ (R.QUEUE_Q_VER.GRANT n).OfPair n 4 := by
  simp [RegField.OfPair, R.QUEUE_Q_CFG.CLOG, R.QUEUE_Q_CFG.RID, R.QUEUE_Q_VER.PROPOSE, R.QUEUE_Q_VER.GRANT]
  omega

theorem ofPair_index (n : Nat) : (R.QUEUE_Q_CTAIL.INDEX n).OfPair n 0x18 ∧ (R.QUEUE_Q_CHEAD.INDEX n).OfPair n 0x1C
    ∧ (R.QUEUE_Q_RHEAD.INDEX n).OfPair n 0x20 ∧ (R.QUEUE_Q_RTAIL.INDEX n).OfPair n 0x24 := by
  simp [RegField.OfPair, R.QUEUE_Q_CTAIL.INDEX, R.QUEUE_Q_CHEAD.INDEX, R.QUEUE_Q_RHEAD.INDEX, R.QUEUE_Q_RTAIL.INDEX]
  omega

theorem ofPair_stat (n : Nat) : (R.QUEUE_Q_CTL.EN n).OfPair n 0x28 ∧ (R.QUEUE_Q_STAT.STATE n).OfPair n 0x2C ∧ (R.QUEUE_Q_STAT.NO_VER n).OfPair n 0x2C
    ∧ (R.QUEUE_Q_STAT.REARM n).OfPair n 0x2C ∧ (R.QUEUE_Q_STAT.HALT_FETCH n).OfPair n 0x2C ∧ (R.QUEUE_Q_STAT.HALT_CMPL n).OfPair n 0x2C
    ∧ (R.QUEUE_Q_ERR.DB_BAD n).OfPair n 0x30 := by
  simp [RegField.OfPair, R.QUEUE_Q_CTL.EN, R.QUEUE_Q_STAT.STATE, R.QUEUE_Q_STAT.NO_VER, R.QUEUE_Q_STAT.REARM, R.QUEUE_Q_STAT.HALT_FETCH,
    R.QUEUE_Q_STAT.HALT_CMPL, R.QUEUE_Q_ERR.DB_BAD]
  omega

/-- The words that the commands write. -/
theorem queueRegs_plain : ∀ n < 32, (plainWord (R.QUEUE_Q_CTAIL.INDEX n).addr ∧ ownRule (R.QUEUE_Q_CTAIL.INDEX n).addr = true)
    ∧ (plainWord (R.QUEUE_Q_RHEAD.INDEX n).addr ∧ ownRule (R.QUEUE_Q_RHEAD.INDEX n).addr = true)
    ∧ plainWord (R.QUEUE_Q_CTL.EN n).addr ∧ typedWord (R.QUEUE_Q_CTL.EN n).addr ∧ (R.QUEUE_Q_CTL.EN n).takes = true := by decide +kernel

theorem RegField.OfPair.align {y : RegField} {o : Nat} (h : y.OfPair n o) (ho : o < 0x40) (h4 : o % 4 = 0) : y.addr < 2 ^ 18 ∧ y.addr % 4 = 0 := by
  obtain ⟨ha, -⟩ := h
  omega

/-- The event of a pair's errors is of the pair's page. -/
theorem qerr_queuePage (hn : n < 32) : (E.QUEUE.QERR n).page = queuePage n := by
  simp only [E.QUEUE.QERR, queuePage]
  omega

/-! ### Index writes -/

/-- A program on the pair's page. -/
abbrev pairWords (n : Nat) : Nat → Bool := ownPages [queuePage n] [queuePage n]

theorem within_wr_pair {y : RegField} {o : Nat} (h : y.OfPair n o) (ho : o < 0x40) (hn : n < 32) (v : Nat) : Within recordParts (pairWords n) (wr y v) :=
  within_wr_page y v (by decide) (by simp [h.page ho hn]) (h.high ho).1 (.inl h.2.2)

theorem within_pairEvent {m : M α} {p : Nat} (h : Within recordParts (eventWord [p]) m) (hp : p = queuePage n) : Within recordParts (pairWords n) m :=
  h.mono (fun _ h => h) fun a ha => eventWord_ownPages _ _ a (hp ▸ ha)

theorem within_badIndex (hn : n < 32) : Within recordParts (pairWords n) (badIndex n) :=
  within_bind (within_bind (within_rd _) fun _ => within_ite (within_wr_pair (ofPair_stat n).2.2.2.2.2.2 (by decide) hn _) (within_pure _)) fun _ =>
    within_pairEvent (within_raise _ (qerr_page n).2.1 _) (qerr_queuePage hn)

/-- A refused index write is counted and raises QERR; the index stays. -/
theorem badIndex_runs {f : RegField} {o : Nat} (hf : f.OfPair n o) (ho : o + 4 ≤ 0x30) (s : State) (l : List Prim) :
    let t := runAll (badIndex n s l).2 s
    t.fld f = (runAll l s).fld f ∧ t.shows (E.QUEUE.QERR n) ∧ t.fld (R.QUEUE_Q_ERR.DB_BAD n) = min ((runAll l s).fld (R.QUEUE_Q_ERR.DB_BAD n) + 1) (2 ^ 8 - 1) := by
  obtain ⟨-, -, -, -, -, -, bad⟩ := ofPair_stat n
  obtain ⟨-, lt, h3, hb⟩ := qerr_page n
  have apart : (R.QUEUE_Q_ERR.DB_BAD n).Apart f := bad.apart hf (.inr ho)
  refine ⟨?_, raise_shows _ lt h3 hb _ s _, ?_⟩
  · rw [badIndex, M.bind_apply, fld_raise lt (clear_events (hf.high (by omega)) _), fld_bump_apart apart]
  · rw [badIndex, M.bind_apply, fld_raise lt (clear_events (bad.high (by decide)) _), fld_bump _ bad.2.1 bad.2.2]
    rfl

/-- An index write takes effect where it breaks no rule. -/
def putIndex (n : Nat) (f : RegField) (new : Nat) (ok : State → Prop) [DecidablePred ok] : M Unit := do
  let s ← getS
  if ok s then wr f new else badIndex n

/-- The rule of CTAIL, and of RHEAD (R138, R139). -/
abbrev State.tailOk (n new : Nat) (s : State) : Prop :=
  idxSub new (s.fld (R.QUEUE_Q_CHEAD.INDEX n)) ≤ 2 ^ s.clog n ∧ idxSub new (s.fld (R.QUEUE_Q_CTAIL.INDEX n)) ≤ 2 ^ s.clog n
abbrev State.headOk (n new : Nat) (s : State) : Prop :=
  idxSub (s.fld (R.QUEUE_Q_RTAIL.INDEX n)) new ≤ idxSub (s.fld (R.QUEUE_Q_RTAIL.INDEX n)) (s.fld (R.QUEUE_Q_RHEAD.INDEX n))

theorem fxCtail_eq (n new : Nat) : fxCtail n new = putIndex n (R.QUEUE_Q_CTAIL.INDEX n) new (State.tailOk n new) := rfl
theorem fxRhead_eq (n new : Nat) : fxRhead n new = putIndex n (R.QUEUE_Q_RHEAD.INDEX n) new (State.headOk n new) := rfl

section Index
variable {f : RegField} {o : Nat} {s : State} {rid : BitVec 12} {v : Word} {ok : State → Prop} [DecidablePred ok]

/-- The registers of a pair after an index write has been accepted. -/
theorem index_stays (hf : f.OfPair n o) (ho : o < 0x40) (h4 : o % 4 = 0) (plain : plainWord f.addr) (own : ownRule f.addr = true) {y : RegField} {r : Nat}
    (hy : y.OfPair n r) (hr : r < 0x40) : (runAll (s.acceptRun rid f.addr v) s).fld y = s.fld y :=
  (acceptRun_own (hf.align ho h4) plain own (hf.high ho).1).fld (clear_wrWords (hy.high hr) (by simp) _ _)

/-- An accepted index write: the index is set, or counted as bad. -/
theorem putIndex_accepted (hn : n < 32) (hf : f.OfPair n o) (ho : o + 4 ≤ 0x30) (h4 : o % 4 = 0) (half : f.lo = 0 ∧ f.hi = 15)
    (plain : plainWord f.addr) (own : ownRule f.addr = true) (acc : s.accepts rid f.addr v.toNat)
    (same : ∀ u : State, (∀ (y : RegField) (r : Nat), y.OfPair n r → r < 0x40 → u.fld y = s.fld y) → (ok u ↔ ok s)) :
    ∃ t, exec1 (hostWrite (fullWrite rid f.addr v) (putIndex n f (v.toNat % 2 ^ 16) ok)) s = .next t
      ∧ (SameBut recordParts s t ∧ WordsBut (wrPages (queuePage n) [queuePage n] [queuePage n]) s t)
      ∧ (ok s → t.fld f = v.toNat % 2 ^ 16)
      ∧ (¬ ok s → t.fld f = s.fld f ∧ t.shows (E.QUEUE.QERR n)
          ∧ t.fld (R.QUEUE_Q_ERR.DB_BAD n) = min (s.fld (R.QUEUE_Q_ERR.DB_BAD n) + 1) (2 ^ 8 - 1)) := by
  have align := hf.align (by omega) h4
  have stays {y : RegField} {r : Nat} (hy : y.OfPair n r) (hr : r < 0x40) : (runAll (s.acceptRun rid f.addr v) s).fld y = s.fld y :=
    index_stays hf (by omega) h4 plain own hy hr
  have run := hostWrite_takes align plain (putIndex n f (v.toNat % 2 ^ 16) ok) acc
  rw [BitVec.ofNat_toNat, BitVec.setWidth_eq] at run
  have foot : Within recordParts (pairWords n) (putIndex n f (v.toNat % 2 ^ 16) ok) :=
    within_bind within_getS fun _ => within_ite (within_wr_pair hf (by omega) hn _) (within_badIndex hn)
  have frame := accepted_pages (rid := rid) (s := s) (w := v) align plain (hf.high (by omega)).1 (by simp [hf.page (by omega) hn]) (fun _ h => h) foot
  rw [hf.page (by omega) hn] at frame
  have ok' := same _ fun y r hy hr => stays hy hr
  refine ⟨_, run, frame, fun yes => ?_, fun no => ?_⟩
  · rw [putIndex, getS_bind, M.ite_apply, if_pos (ok'.2 yes), fld_wr_same _ _ (.inl hf.2), half.1, half.2]
    omega
  · rw [putIndex, getS_bind, M.ite_apply, if_neg (ok'.not.2 no)]
    obtain ⟨kept, shows, count⟩ := badIndex_runs hf ho s (s.acceptRun rid f.addr v)
    exact ⟨kept.trans (stays hf (by omega)), shows, by rw [count, stays (ofPair_stat n).2.2.2.2.2.2 (by decide)]⟩

end Index

/-! ### Queue pairs -/

theorem queueBlock_fits (hn : n < 32) : (queueBlock n).event.page = queuePage n ∧ queuePage n < 64 := by
  simp only [queueBlock, E.QUEUE.QSTATE, queuePage]
  omega

theorem within_queueBlock (hn : n < 32) (st : Nat) : Within recordParts (pairWords n) (setBlock (queueBlock n) st) := by
  obtain ⟨page, lt⟩ := queueBlock_fits hn
  obtain ⟨-, state, -⟩ := ofPair_stat n
  refine (within_setBlock st state.2.2 (by omega)).mono (fun _ h => h) fun a ha => ?_
  simp only [ownWords, Bool.or_eq_true, List.contains_eq_mem, decide_eq_true_eq, List.mem_singleton] at ha
  rcases ha with rfl | ha
  · simp only [pairWords, ownPages, Bool.or_eq_true, Bool.and_eq_true, List.contains_eq_mem, decide_eq_true_eq, List.mem_singleton]
    exact .inl ⟨state.page (by decide) hn, (state.high (by decide)).1⟩
  · exact eventWord_ownPages _ _ a (page ▸ ha)

theorem within_queueEnter (hn : n < 32) : Within recordParts (pairWords n) (queueEnter n) := by
  obtain ⟨-, -, -, grant⟩ := ofPair_cfg n
  obtain ⟨-, -, ver, -⟩ := ofPair_stat n
  exact within_bind (within_rd _) fun _ => within_bind (within_wr_pair grant (by decide) hn _) fun _ => within_bind (within_wr_pair ver (by decide) hn _) fun _ =>
    within_ite (within_pairEvent (within_raise _ (qerr_page n).2.1 _) (qerr_queuePage hn)) (within_pure _)

theorem within_queueEnable (hn : n < 32) (old en may : Bool) :
    Within recordParts (pairWords n) (blockEnable (queueBlock n) old en may (pure ()) (queueEnter n)) :=
  within_blockEnable (within_queueBlock hn) (fun _ => within_wr_pair (ofPair_stat n).2.2.2.1 (by decide) hn _) (within_pure _) (within_queueEnter hn)

/-- A field of the pair beside STATE. -/
theorem fld_queueBlock (hn : n < 32) {y : RegField} {o : Nat} (hy : y.OfPair n o) (ho : o < 0x40) (st : Nat) (apart : (R.QUEUE_Q_STAT.STATE n).Apart y)
    (s : State) (l : List Prim) : (runAll (setBlock (queueBlock n) st s l).2 s).fld y = (runAll l s).fld y :=
  fld_setBlock st (by have := queueBlock_fits hn; omega) apart (clear_events (hy.high ho) _) s l

theorem queueBlock_state (hn : n < 32) {st : Nat} (h : st < 4) (s : State) (l : List Prim) :
    (runAll (setBlock (queueBlock n) st s l).2 s).fld (R.QUEUE_Q_STAT.STATE n) = st := by
  obtain ⟨-, state, -⟩ := ofPair_stat n
  have := setBlock_state (b := queueBlock n) st (by have := queueBlock_fits hn; omega) state.2 (clear_events (state.high (by decide)) _) s l
  exact this.trans (Nat.mod_eq_of_lt h)

/-- A pair enters ACTIVE with the highest version that is proposed. -/
theorem queueEnter_runs (s : State) (l : List Prim) :
    let t := runAll (queueEnter n s l).2 s
    let g := grantOf ((runAll l s).fld (R.QUEUE_Q_VER.PROPOSE n))
    t.fld (R.QUEUE_Q_VER.GRANT n) = g ∧ t.fld (R.QUEUE_Q_STAT.NO_VER n) = b2n (g = 0)
      ∧ t.fld (R.QUEUE_Q_STAT.STATE n) = (runAll l s).fld (R.QUEUE_Q_STAT.STATE n) ∧ t.fld (R.QUEUE_Q_CTL.EN n) = (runAll l s).fld (R.QUEUE_Q_CTL.EN n) := by
  obtain ⟨-, -, -, grant⟩ := ofPair_cfg n
  obtain ⟨en, state, ver, -⟩ := ofPair_stat n
  intro t g
  have lt : g < 8 := by
    simp only [g, grantOf]
    split_ifs <;> decide
  have tail {y : RegField} {o : Nat} (hy : y.OfPair n o) (ho : o < 0x40) (l : List Prim) :
      (runAll ((if g = 0 then raise (E.QUEUE.QERR n) else pure () : M Unit) s l).2 s).fld y = (runAll l s).fld y := by
    split
    · exact fld_raise (qerr_page n).2.1 (clear_events (hy.high ho) _) _ s l
    · rfl
  have eq : (queueEnter n s l).2 = ((if g = 0 then raise (E.QUEUE.QERR n) else pure () : M Unit) s
      (wr (R.QUEUE_Q_STAT.NO_VER n) (b2n (g = 0)) s (wr (R.QUEUE_Q_VER.GRANT n) g s l).2).2).2 := by
    rw [queueEnter, rd_bind, M.bind_apply, M.bind_apply]
  simp only [t, eq]
  refine ⟨?_, ?_, ?_, ?_⟩
  · rw [tail grant (by decide), fld_wr_apart _ (ver.apart grant (by decide)), fld_wr_same _ _ (.inl grant.2)]
    exact Nat.mod_eq_of_lt lt
  · rw [tail ver (by decide), fld_wr_same _ _ (.inl ver.2)]
    exact Nat.mod_eq_of_lt (by simp only [b2n, R.QUEUE_Q_STAT.NO_VER]; split <;> decide)
  · rw [tail state (by decide), fld_wr_apart _ (by simp [RegField.Apart, R.QUEUE_Q_STAT.NO_VER, R.QUEUE_Q_STAT.STATE]),
      fld_wr_apart _ (grant.apart state (by decide))]
  · rw [tail en (by decide), fld_wr_apart _ (ver.apart en (by decide)), fld_wr_apart _ (grant.apart en (by decide))]

/-! ### RESUME -/

/-- The words of the tenants' use. -/
abbrev useWord (a : Nat) : Bool := decide (0x10000 ≤ a ∧ a < 0x18000 ∧ 0x40 ≤ a % 0x1000 ∧ a % 0x1000 < 0x80)

theorem within_tenantRefresh (t : Nat) : Within recordParts (fun a => useWord a || eventWord [0x10 + t % 8] a) (tenantRefresh t) := by
  have store (x : RegField) (v : Nat) (h : useWord x.addr = true ∧ x.hi < 32) :
      Within recordParts (fun a => useWord a || eventWord [0x10 + t % 8] a) (wr x v) := within_wr_one x v h.2 (by decide) (by simp [h.1])
  refine within_bind within_getS fun s => ?_
  dsimp only
  refine within_bind (store _ _ ?_) fun _ => within_bind (store _ _ ?_) fun _ => within_bind (store _ _ ?_) fun _ => within_bind (store _ _ ?_) fun _ =>
    within_bind (store _ _ ?_) fun _ => within_bind (store _ _ ?_) fun _ => within_bind (store _ _ ?_) fun _ => within_bind (store _ _ ?_) fun _ =>
    within_bind (store _ _ ?_) fun _ => (within_setCond _ (show 0x10 + t % 8 < 64 by omega) _ _).mono (fun _ h => h) fun a h => by simp [E.QUEUE.QUOTA_OVER] at h ⊢; simp [h]
  all_goals
    simp only [useWord, decide_eq_true_eq]
    simp only [R.QUEUE_TNT_USE_A.CELLAR, R.QUEUE_TNT_USE_A.EXEC, R.QUEUE_TNT_USE_B.SLOTS, R.QUEUE_TNT_USE_B.ASSOC,
      R.QUEUE_TNT_STAT.EXEC_OVER, R.QUEUE_TNT_STAT.CELLAR_OVER, R.QUEUE_TNT_STAT.SLOTS_OVER, R.QUEUE_TNT_STAT.ASSOC_OVER,
      R.QUEUE_TNT_STAT.CHRON_PAUSED]
    omega

/-- A field of a pair that shows no use of it. -/
abbrev RegField.BesideUse (n : Nat) (y : RegField) : Prop :=
  (∃ o < 0x40, y.OfPair n o) ∧ (R.QUEUE_Q_STAT.EXEC n).Apart y ∧ (R.QUEUE_Q_STAT.HELD n).Apart y

theorem fld_pairRefresh {y : RegField} (h : y.BesideUse n) (s : State) (l : List Prim) :
    (runAll (pairRefresh n s l).2 s).fld y = (runAll l s).fld y := by
  obtain ⟨⟨o, ho, hy⟩, exec, held⟩ := h
  have clear (t : Nat) : y.Clear (fun a => useWord a || eventWord [0x10 + t % 8] a) := by
    obtain ⟨ev, -, -⟩ := clear_events (hy.high ho) [0x10 + t % 8]
    obtain ⟨ha, -, hh⟩ := hy
    refine ⟨?_, by omega, by omega⟩
    simp only [ev, Bool.or_false, decide_eq_false_iff_not]
    omega
  rw [pairRefresh, getS_bind, M.bind_apply, M.bind_apply, (within_tenantRefresh _).fld_clear (clear _), fld_wr_apart _ held, fld_wr_apart _ exec]

theorem fld_setDescs {y : RegField} (h : y.BesideUse n) (ds : List QDesc) (s : State) (l : List Prim) :
    (runAll (setDescs n ds s l).2 s).fld y = (runAll l s).fld y := by
  rw [setDescs, M.bind_apply, fld_pairRefresh h]
  rfl

theorem fld_modDesc {y : RegField} (h : y.BesideUse n) (seq : BitVec 32) (f : QDesc → QDesc) (s : State) (l : List Prim) :
    (runAll (modDesc n seq f s l).2 s).fld y = (runAll l s).fld y := by
  rw [modDesc, getS_bind, fld_setDescs h]

theorem halt_besideUse (n : Nat) : (R.QUEUE_Q_STAT.HALT_FETCH n).BesideUse n ∧ (R.QUEUE_Q_STAT.HALT_CMPL n).BesideUse n := by
  obtain ⟨-, -, -, -, fetch, cmpl, -⟩ := ofPair_stat n
  refine ⟨⟨⟨_, by decide, fetch⟩, ?_, ?_⟩, ⟨_, by decide, cmpl⟩, ?_, ?_⟩ <;>
    simp [RegField.Apart, R.QUEUE_Q_STAT.HALT_FETCH, R.QUEUE_Q_STAT.HALT_CMPL, R.QUEUE_Q_STAT.EXEC, R.QUEUE_Q_STAT.HELD]

/-- A held ACCEPTED record is written, unless completions halt. -/
def sendAccepted (n : Nat) (d : QDesc) (m : Dram) : M Unit := match d.accHeld, d.entry with
  | some (a, rcd), some e => do
    if (← getS).fld (R.QUEUE_Q_STAT.HALT_CMPL n) = 0 then writeAccepted n d e a rcd m
  | _, _ => pure ()

/-- A held DONE record is written, unless completions halt. -/
def sendDone (n : Nat) (rid : BitVec 12) (d : QDesc) : M Unit := do
  if d.doneHeld ∧ (← getS).fld (R.QUEUE_Q_STAT.HALT_CMPL n) = 0 then
    modDesc n d.seq fun x => { x with doneHeld := false }
    emit (.initWrite rid d.doneRec.1 d.doneRec.2)

/-- The held records of a pair's descriptors, in their order. -/
def sendHeld (n : Nat) (m : Dram) (s : State) : M Unit :=
  forM (s.descs n) fun d => do
    sendAccepted n d m
    sendDone n (s.queueRid n) d

theorem resumePair_eq (n : Nat) (m : Dram) : resumePair n m = wr (R.QUEUE_Q_STAT.HALT_FETCH n) 0 >>= fun _ =>
    wr (R.QUEUE_Q_STAT.HALT_CMPL n) 0 >>= fun _ => getS >>= fun s => sendHeld n m s := by
  rw [resumePair]
  congr 1; funext _; congr 1; funext _; congr 1; funext t
  rw [sendHeld]
  congr 1; funext d; funext s l
  rw [M.bind_apply, sendAccepted]
  cases d.accHeld with
  | none => rfl
  | some x =>
    cases d.entry with
    | none => rfl
    | some e =>
      dsimp only
      rw [getS_bind, getS_bind, M.ite_apply, M.ite_apply]
      split <;> rfl

theorem within_writeAccepted (d : QDesc) (e a : Nat) (rcd : Bytes) (m : Dram) : Within queueParts engineWords (writeAccepted n d e a rcd m) := by
  have acc : (E.QUEUE.ACC n).page ∈ queueWords ∧ (E.QUEUE.ACC n).page < 64 := by
    refine ⟨queuePage_mem _ ?_ ?_, ?_⟩ <;> simp only [E.QUEUE.ACC] <;> omega
  exact within_bind within_getS fun _ => within_bind (within_dramWrite _ _ _ _ (by decide)) fun _ => within_ite
    (within_bind (within_modDesc _ _ _) fun _ => within_bind (within_modEntry _ _ (by decide)) fun _ => within_raiseTenant_engine _ acc.1 acc.2 _ _)
    (within_bind (within_modDesc _ _ _) fun _ => within_haltCmpl _)

theorem within_sendHeld (m : Dram) (s : State) : Within queueParts engineWords (sendHeld n m s) := by
  refine within_forM _ fun d => within_bind ?_ fun _ => within_bind within_getS fun _ => within_ite
    (within_bind (within_modDesc _ _ _) fun _ => within_emit _ (by decide)) (within_pure _)
  rw [sendAccepted]
  split
  · exact within_bind within_getS fun _ => within_ite (within_writeAccepted _ _ _ _ _) (within_pure _)
  · exact within_pure _

theorem within_resumePair (m : Dram) : Within queueParts engineWords (resumePair n m) := by
  rw [resumePair_eq]
  exact within_bind (within_wr_queue _ (halt_clear n (.inl rfl)).2.1).ofEngine fun _ =>
    within_bind (within_wr_queue _ (halt_clear n (.inr rfl)).2.1).ofEngine fun _ => within_bind within_getS fun _ => within_sendHeld m _

theorem halt_apart (n : Nat) : (R.QUEUE_Q_STAT.HALT_CMPL n).Apart (R.QUEUE_Q_STAT.HALT_FETCH n) := by
  simp [RegField.Apart, R.QUEUE_Q_STAT.HALT_FETCH, R.QUEUE_Q_STAT.HALT_CMPL]

/-- HALT_FETCH stays clear while held records are sent. -/
theorem keeps_fetch_sendHeld (m : Dram) (s : State) : Keeps (fun t => t.fld (R.QUEUE_Q_STAT.HALT_FETCH n) = 0) (sendHeld n m s) := by
  have mod (seq : BitVec 32) (f : QDesc → QDesc) : Keeps (fun t => t.fld (R.QUEUE_Q_STAT.HALT_FETCH n) = 0) (modDesc n seq f) :=
    fun s l h => (fld_modDesc (halt_besideUse n).1 seq f s l).trans h
  have still {m : M Unit} {ps : List Piece} (hm : Within ps (fun _ => false) m) : Keeps (fun t => t.fld (R.QUEUE_Q_STAT.HALT_FETCH n) = 0) m :=
    fun s l h => (hm.fld_clear ⟨rfl, fun _ => rfl, fun _ => rfl⟩ s l).trans h
  have sent (o : Out) : Keeps (fun t => t.fld (R.QUEUE_Q_STAT.HALT_FETCH n) = 0) (emit o) := keeps_prim fun _ h => h
  have told (e : PageEvent) (he : e.page < 64) (q t : Nat) (hy : (R.QUEUE_Q_STAT.HALT_FETCH n).Clear (fun a => tokenWord a || eventWord [e.page] a)) :
      Keeps (fun t => t.fld (R.QUEUE_Q_STAT.HALT_FETCH n) = 0) (raiseTenant e q t) :=
    fun s l h => ((within_raiseTenant e he q t).fld_clear hy s l).trans h
  have halts := (halt_clear n (.inl rfl)).1
  refine keeps_forM _ fun d => keeps_bind ?_ fun _ => keeps_bind keeps_getS fun _ => keeps_ite (keeps_bind (mod _ _) fun _ => sent _) (keeps_pure _)
  rw [sendAccepted]
  split
  · refine keeps_bind keeps_getS fun _ => keeps_ite ?_ (keeps_pure _)
    refine keeps_bind keeps_getS fun _ => keeps_bind (keeps_bind (keeps_forM _ sent) fun _ => keeps_pure _) fun _ => keeps_ite ?_ ?_
    · exact keeps_bind (mod _ _) fun _ => keeps_bind (still (within_modEntry (ps := [.cellar]) _ _ (by decide))) fun _ =>
        told (E.QUEUE.ACC n) (qerr_page n).2.1 n _ halts
    · exact keeps_bind (mod _ _) fun _ => keeps_bind (fun s l h => (fld_wr_apart _ (halt_apart n) s l).trans h) fun _ => keeps_bind keeps_getS fun _ =>
        told (E.QUEUE.QERR n) (qerr_page n).2.1 n _ halts
  · exact keeps_pure _

/-- What is sent of the held DONE records of descriptors. -/
def doneWrites (rid : BitVec 12) (ds : List QDesc) : List Out := (ds.filter fun d => d.doneHeld).map fun d => .initWrite rid d.doneRec.1 d.doneRec.2

theorem keeps_out_modDesc (seq : BitVec 32) (f : QDesc → QDesc) (o : List Out) : Keeps (fun t => t.out = o) (modDesc n seq f) :=
  keeps_bind keeps_getS fun _ => keeps_bind (keeps_prim fun _ h => h) fun _ => fun s l h => ((within_pairRefresh n).same .out (by decide) s l).symm.trans h

/-- With no ACCEPTED record held and completions not halted, every held DONE record is sent. -/
theorem sendHeld_sends (m : Dram) (rid : BitVec 12) (ds : List QDesc) (none : ∀ d ∈ ds, d.accHeld = none) (o : List Out) :
    Leads (fun t => t.fld (R.QUEUE_Q_STAT.HALT_CMPL n) = 0 ∧ t.out = o) (forM ds fun d => do sendAccepted n d m; sendDone n rid d)
      fun _ t => t.fld (R.QUEUE_Q_STAT.HALT_CMPL n) = 0 ∧ t.out = o ++ doneWrites rid ds := by
  induction ds generalizing o with
  | nil => exact leads_pure fun t h => by simpa [doneWrites] using h
  | cons d ds ih =>
    have silent : sendAccepted n d m = pure () := by rw [sendAccepted, none d List.mem_cons_self]
    have first : Leads (fun t => t.fld (R.QUEUE_Q_STAT.HALT_CMPL n) = 0 ∧ t.out = o) (sendDone n rid d)
        fun _ t => t.fld (R.QUEUE_Q_STAT.HALT_CMPL n) = 0 ∧ t.out = o ++ doneWrites rid [d] := by
      refine leads_getS fun u => leads_ite (fun c => ?_) fun c => leads_pure ?_
      · refine leads_bind (R := fun _ t => t.fld (R.QUEUE_Q_STAT.HALT_CMPL n) = 0 ∧ t.out = o) (fun s l h => ⟨?_, ?_⟩) fun _ => leads_prim fun t h => ⟨h.1, ?_⟩
        · exact (fld_modDesc (halt_besideUse n).2 _ _ s l).trans h.2.1
        · exact keeps_out_modDesc _ _ o s l h.2.2
        · show t.out ++ _ = _
          simp [h.2, doneWrites, c.1]
      · rintro t ⟨rfl, run, out⟩
        have no : d.doneHeld = false := by simpa [run] using c
        exact ⟨run, by simp [out, doneWrites, no]⟩
    refine leads_bind (leads_bind (R := fun _ t => t.fld (R.QUEUE_Q_STAT.HALT_CMPL n) = 0 ∧ t.out = o) (silent ▸ leads_pure fun _ h => h) fun _ => first) fun _ => ?_
    refine (ih (fun x hx => none x (List.mem_cons_of_mem _ hx)) (o ++ doneWrites rid [d])).mono (fun _ h => h) fun _ t h => ⟨h.1, h.2.trans ?_⟩
    simp [doneWrites, List.filter_cons]
    split <;> simp

/-- RESUME clears HALT_FETCH; where no ACCEPTED record is held, it clears HALT_CMPL and sends the held DONE records. -/
theorem resumePair_runs (m : Dram) (s : State) (l : List Prim) :
    let t := runAll (resumePair n m s l).2 s
    t.fld (R.QUEUE_Q_STAT.HALT_FETCH n) = 0
      ∧ ((∀ d ∈ (runAll l s).descs n, d.accHeld = none) → t.fld (R.QUEUE_Q_STAT.HALT_CMPL n) = 0
          ∧ t.out = (runAll l s).out ++ doneWrites ((runAll l s).queueRid n) ((runAll l s).descs n)) := by
  obtain ⟨-, -, -, -, fetch, cmpl, -⟩ := ofPair_stat n
  obtain ⟨-, rid, -⟩ := ofPair_cfg n
  have rid' {x : RegField} (hx : x.OfPair n 0x2C) (v : Nat) (l : List Prim) : (runAll (wr x v s l).2 s).queueRid n = (runAll l s).queueRid n := by
    rw [State.queueRid, fld_wr_apart _ (hx.apart rid (by decide)), State.queueRid]
  have descs {x : RegField} (v : Nat) (l : List Prim) : (runAll (wr x v s l).2 s).descs n = (runAll l s).descs n :=
    (within_wr (ps := [.regs]) (f := fun _ => true) x v (by simp) rfl (fun _ => rfl) fun _ => rfl).descs (by decide) n s l
  have out {x : RegField} (v : Nat) (l : List Prim) : (runAll (wr x v s l).2 s).out = (runAll l s).out :=
    ((within_wr (ps := [.regs]) (f := fun _ => true) x v (by simp) rfl (fun _ => rfl) fun _ => rfl).same .out (by decide) s l).symm
  dsimp only
  rw [resumePair_eq, M.bind_apply, M.bind_apply, getS_bind]
  refine ⟨keeps_fetch_sendHeld m _ s _ ((fld_wr_apart _ (halt_apart n) s _).trans ?_), fun none => ?_⟩
  · rw [fld_wr_same _ _ (.inl fetch.2)]
    simp
  · rw [sendHeld, rid' cmpl, rid' fetch, descs, descs]
    refine sendHeld_sends m _ _ none _ s _ ⟨?_, (out _ _).trans (out _ _)⟩
    rw [fld_wr_same _ _ (.inl cmpl.2)]
    simp

theorem queueWords_page (hn : n < 32) : queuePage n ∈ queueWords := queuePage_mem _ (by simp only [queuePage]; omega) (by simp only [queuePage]; omega)

section Control
variable {s : State} {rid : BitVec 12} {v : Nat}

/-- An accepted write of QUEUE_Q_CTL: what it does starts where the pair's registers but EN stand as they did. -/
theorem queueCtl_runs (hn : n < 32) (m : Dram) (acc : s.accepts rid (R.QUEUE_Q_CTL.EN n).addr v) :
    ∃ l, exec1 (queueCtlWrite rid n v m) s = .next (runAll (fxQueueCtl n (decide (s.fld (R.QUEUE_Q_CTL.EN n) = 1)) v m s l).2 s)
      ∧ (∀ {qs : List Piece} {ps evts : List Nat} {c : M Unit}, queuePage n ∈ ps → (∀ q ∈ recordParts, q ∈ qs) → Within qs (ownPages ps evts) c →
          SameBut qs s (runAll (c s l).2 s) ∧ WordsBut (wrPages (queuePage n) ps evts) s (runAll (c s l).2 s))
      ∧ (∀ (y : RegField) (o : Nat), y.OfPair n o → o < 0x40 → o ≠ 0x28 → (runAll l s).fld y = s.fld y)
      ∧ (runAll l s).fld (R.QUEUE_Q_CTL.EN n) = bits (BitVec.ofNat 32 v).toNat 0 0 ∧ (runAll l s).active (queuePage n) = s.active (queuePage n)
      ∧ SameBut recordParts s (runAll l s) := by
  obtain ⟨-, -, plain, typed, takes⟩ := queueRegs_plain n hn
  obtain ⟨en, -⟩ := ofPair_stat n
  have align := en.align (by decide) (by decide)
  obtain ⟨same, words, -⟩ := acceptRun_frame (rid := rid) (s := s) align plain (BitVec.ofNat 32 v)
  have start : exec1 (queueCtlWrite rid n v m) s = exec1 (hostWrite (fullWrite rid (R.QUEUE_Q_CTL.EN n).addr (BitVec.ofNat 32 v))
      (fxQueueCtl n (decide (s.fld (R.QUEUE_Q_CTL.EN n) = 1)) v m)) s := by
    rw [exec1_eq, exec1_eq, queueCtlWrite, getS_bind, runAll_nil]
  refine ⟨_, start.trans (hostWrite_takes align plain _ acc), fun hp hq hc => ?_, fun y o hy ho ne => words.fld (clear_wrWords (hy.high ho) ?_ _ _),
    acceptRun_takes align plain typed (clear_wrWords (en.high (by decide)) (by simp) _ _).1 rfl en.2.1 takes, ?_, same⟩
  · rw [← en.page (by decide) hn] at hp ⊢
    exact accepted_pages align plain (en.high (by decide)).1 hp hq hc
  · have := hy.1
    have := en.1
    rw [List.mem_singleton]
    omega
  · have stat : (R.PG_STAT.STATE (queuePage n)).Clear (wrWords ((R.QUEUE_Q_CTL.EN n).addr / 0x1000) [(R.QUEUE_Q_CTL.EN n).addr] []) := by
      have h1 : (R.PG_STAT.STATE (queuePage n)).addr % 0x1000 = 0x0C := by simp only [R.PG_STAT.STATE]; omega
      have h2 : (R.PG_STAT.STATE (queuePage n)).addr ≠ (R.QUEUE_Q_CTL.EN n).addr := by
        have := (en.high (by decide)).1
        intro h
        omega
      have h3 : (R.PG_STAT.STATE (queuePage n)).addr ≠ 0x3058 := by intro h; omega
      exact ⟨by simp [wrWords, acceptWord, ownWords, eventWord, h1, h2, h3], by simp [R.PG_STAT.STATE], by simp [R.PG_STAT.STATE]⟩
    rw [State.active, words.fld stat, State.active]

end Control

theorem fxQueueCtl_apply (old : Bool) (v : Nat) (m : Dram) (s : State) (l : List Prim) : (fxQueueCtl n old v m s l).2 =
    ((if v.testBit 2 then resumePair n m else pure () : M Unit) s
      (blockEnable (queueBlock n) old (v.testBit 0) ((runAll l s).active (queuePage n)) (pure ()) (queueEnter n) s l).2).2 := by
  rw [fxQueueCtl, getS_bind, M.bind_apply]
  rfl

/-- Without RESUME a write of QUEUE_Q_CTL stays on the pair's page. -/
theorem within_queueCtl (hn : n < 32) (old : Bool) {v : Nat} (hv : v.testBit 2 = false) (m : Dram) :
    Within recordParts (pairWords n) (fxQueueCtl n old v m) :=
  within_bind within_getS fun _ => within_bind (within_queueEnable hn _ _ _) fun _ => by
    rw [hv]
    exact within_pure _

theorem within_queueResume (hn : n < 32) (old : Bool) (v : Nat) (m : Dram) : Within queueParts engineWords (fxQueueCtl n old v m) := by
  have page : ∀ p ∈ [queuePage n], p ∈ queueWords := by simpa using queueWords_page hn
  exact within_bind within_getS fun _ => within_bind ((within_queueEnable hn _ _ _).mono (by decide) fun a h => ownPages_mono page page a h) fun _ =>
    within_ite (within_resumePair m) (within_pure _)

/-- QUEUE_Q_CFG stays as it is. -/
theorem keeps_cfg_queueEnable (hn : n < 32) (old en may : Bool) {x : Nat} :
    Keeps (fun t => t.fld (R.QUEUE_Q_CFG.RID n) = x) (blockEnable (queueBlock n) old en may (pure ()) (queueEnter n)) := by
  obtain ⟨-, rid, -, grant⟩ := ofPair_cfg n
  obtain ⟨-, state, ver, rearm, -⟩ := ofPair_stat n
  have set (st : Nat) : Keeps (fun t => t.fld (R.QUEUE_Q_CFG.RID n) = x) (setBlock (queueBlock n) st) :=
    fun s l h => (fld_queueBlock hn rid (by decide) st (state.apart rid (by decide)) s l).trans h
  have store {y : RegField} {o : Nat} (hy : y.OfPair n o) (ho : 4 ≤ o) (v : Nat) : Keeps (fun t => t.fld (R.QUEUE_Q_CFG.RID n) = x) (wr y v) :=
    fun s l h => (fld_wr_apart v (hy.apart rid (.inr (by omega))) s l).trans h
  have enter : Keeps (fun t => t.fld (R.QUEUE_Q_CFG.RID n) = x) (queueEnter n) :=
    keeps_bind (keeps_rd _) fun _ => keeps_bind (store grant (by decide) _) fun _ => keeps_bind (store ver (by decide) _) fun _ =>
      keeps_ite (fun s l h => (fld_raise (qerr_page n).2.1 (clear_events (rid.high (by decide)) _) _ s l).trans h) (keeps_pure _)
  exact keeps_bind (keeps_rd _) fun _ => keeps_ite (keeps_ite (keeps_bind (set _) fun _ => enter) (keeps_pure _))
    (keeps_ite (keeps_ite (keeps_bind (set _) fun _ => keeps_pure _) (keeps_pure _)) (keeps_ite (keeps_ite (store rearm (by decide) _) (keeps_pure _)) (keeps_pure _)))

theorem exec_queuePairEn (rid : BitVec 12) (q : Fin 32) (en : Bool) (s : State) :
    exec (.queuePairEn rid q en) s = exec1 (queueCtlWrite rid q (b2n en) {}) s := rfl

theorem exec_resume (rid : BitVec 12) (q : Fin 32) (m : Dram) (s : State) :
    exec (.resume rid q m) s = exec1 (queueCtlWrite rid q (4 + s.fld (R.QUEUE_Q_CTL.EN q)) m) s := by
  change execResume rid q m s = _
  rw [execResume, exec1_eq, getS_bind, runAll_nil, exec1_eq]

/-- Settles O44, command by command: the accepted write leaves the pair's other registers as they are, and the command then acts on them. -/
theorem queueRegisters : Obligations.QueueRegisters := by
  unfold Obligations.QueueRegisters
  rintro s rid ⟨n, hn⟩ -
  dsimp only
  obtain ⟨⟨tailPlain, tailOwn⟩, ⟨headPlain, headOwn⟩, plain, -⟩ := queueRegs_plain n hn
  obtain ⟨ctail, chead, rhead, rtail⟩ := ofPair_index n
  obtain ⟨clog, ridf, propose, grant⟩ := ofPair_cfg n
  obtain ⟨en, state, ver, rearm, fetch, cmpl, -⟩ := ofPair_stat n
  have page : (R.QUEUE_Q_CTL.EN n).addr / 0x1000 = queuePage n := en.page (by decide) hn
  have align := en.align (by decide) (by decide)
  refine ⟨fun v acc => ?_, fun v acc => ?_, fun acc old off act => ?_, fun acc old act => ?_, fun m acc => ?_⟩
  · exact putIndex_accepted hn ctail (by decide) (by decide) ⟨rfl, rfl⟩ tailPlain tailOwn acc fun u same => by
      simp only [State.clog, same _ _ chead (by decide), same _ _ ctail (by decide), same _ _ clog (by decide)]
  · exact putIndex_accepted hn rhead (by decide) (by decide) ⟨rfl, rfl⟩ headPlain headOwn acc fun u same => by
      simp only [same _ _ rtail (by decide), same _ _ rhead (by decide)]
  · obtain ⟨l, run, framed, stays, took, active, -⟩ := queueCtl_runs hn {} acc
    have frame := framed (List.mem_singleton_self _) (fun _ h => h)
      (within_queueCtl hn (decide (s.fld (R.QUEUE_Q_CTL.EN n) = 1)) (v := 1) (by decide) {})
    have eq : (fxQueueCtl n (decide (s.fld (R.QUEUE_Q_CTL.EN n) = 1)) 1 {} s l).2
        = (queueEnter n s (setBlock (queueBlock n) pgActive s l).2).2 := by
      rw [fxQueueCtl_apply, old, active, act]
      exact blockEnable_enter ((stays _ _ state (by decide) (by decide)).trans off)
    obtain ⟨g, nv, st, e⟩ := queueEnter_runs (n := n) s (setBlock (queueBlock n) pgActive s l).2
    rw [fld_queueBlock hn propose (by decide) _ (state.apart propose (by decide)), stays _ _ propose (by decide) (by decide)] at g nv
    rw [eq] at run frame
    refine ⟨_, (exec_queuePairEn rid ⟨n, hn⟩ true s).trans run, frame, st.trans (queueBlock_state hn (by decide) s l), e.trans ?_, g, nv⟩
    rw [fld_queueBlock hn en (by decide) _ (state.apart en (by decide)), took]
    rfl
  · obtain ⟨l, run, framed, stays, took, active, -⟩ := queueCtl_runs hn {} acc
    have frame := framed (List.mem_singleton_self _) (fun _ h => h)
      (within_queueCtl hn (decide (s.fld (R.QUEUE_Q_CTL.EN n) = 1)) (v := 0) (by decide) {})
    have eq : (fxQueueCtl n (decide (s.fld (R.QUEUE_Q_CTL.EN n) = 1)) 0 {} s l).2 = (setBlock (queueBlock n) pgDraining s l).2 := by
      rw [fxQueueCtl_apply]
      exact blockEnable_leave ((stays _ _ state (by decide) (by decide)).trans act)
    rw [eq] at run frame
    refine ⟨_, (exec_queuePairEn rid ⟨n, hn⟩ false s).trans run, frame, queueBlock_state hn (by decide) s l, ?_⟩
    rw [fld_queueBlock hn en (by decide) _ (state.apart en (by decide)), took]
    rfl
  · obtain ⟨l, run, framed, stays, -, -, same⟩ := queueCtl_runs hn m acc
    have frame := framed (queueWords_page hn) (by decide) (within_queueResume hn (decide (s.fld (R.QUEUE_Q_CTL.EN n) = 1)) (4 + s.fld (R.QUEUE_Q_CTL.EN n)) m)
    have bit : s.fld (R.QUEUE_Q_CTL.EN n) < 2 := Nat.mod_lt _ (show 0 < 2 ^ 1 by decide)
    have resumes : (4 + s.fld (R.QUEUE_Q_CTL.EN n)).testBit 2 = true := by
      have all : ∀ k < 2, (4 + k).testBit 2 = true := by decide
      exact all _ bit
    rw [fxQueueCtl_apply, resumes, if_pos rfl] at run frame
    generalize hl' : (blockEnable _ _ _ _ _ _ s l).2 = l' at run frame
    have kept (q : Piece) (hq : q ∉ recordParts) : q.same (runAll l s) (runAll l' s) := hl' ▸ (within_queueEnable hn _ _ _).same q hq s l
    have rid' : (runAll l' s).queueRid n = s.queueRid n := by
      rw [State.queueRid, State.queueRid, ← stays _ _ ridf (by decide) (by decide), ← hl']
      exact congrArg _ (keeps_cfg_queueEnable hn _ _ _ s l rfl)
    have descs : (runAll l' s).descs n = s.descs n := State.descs_congr ((kept .queues (by decide)).symm.trans (same .queues (by decide)).symm) n
    have out : (runAll l' s).out = s.out := (kept .out (by decide)).symm.trans (same .out (by decide)).symm
    obtain ⟨clear, sends⟩ := resumePair_runs (n := n) m s l'
    rw [rid', descs, out] at sends
    exact ⟨_, (exec_resume rid ⟨n, hn⟩ m s).trans run, frame.1, frame.2, clear, sends⟩

end Sys2Proof.Machine
end

section
/-! O12: a region that rearms (R304, R354) can run into a held write. -/
namespace Sys2Proof.Machine
open Sys2Proof

/-- The registers of region 0, a TREE region of one unit that drains with REARM set and comes up by RESTORE, during a start-up in which an
integrity failure has grade 1. -/
def rearmingFields : List (RegField × Nat) :=
  [(R.PG_STAT.STATE 0x03, pgActive), (R.PG_STAT.STATE 0x28, pgActive), (R.MEMRGN_BASE.ADDR 0, 0x100), (R.MEMRGN_SIZE.UNITS 0, 1),
    (R.MEMRGN_META.ADDR 0, 0x200), (R.MEMRGN_KEY.MSLOT 0, 1), (R.MEMRGN_CFG.MODE 0, mdTree), (R.MEMRGN_CFG.SRC 0, 2),
    (R.MEMRGN_CTL.STATE 0, pgDraining), (R.MEMRGN_CTL.REARM 0, 1), (R.TAMPER_STAT.STARTUP, 1), (R.TAMPER_SRC_CFG.EVENT_GRADE srcInteg, 1)]

/-- A LIVE key of the type that a TREE region needs. -/
def treeKey : Slot := { st := .live, type := 1, active := some ⟨zeros 16, 0, 1, 0xFEF10F80, .imported, [], none, 0⟩ }

/-- The region's ROOT record is CLOSED, and its check is not that of any block while there is no anchor key. The write held back is of
MEMRGN_CTL, with REARM 1. -/
def rearming : State :=
  { State.reset with
    regs := rearmingFields.foldl (fun r x => setFieldVal r x.1 x.2) []
    slots := [(0, treeKey), (1, treeKey)]
    anchor := { live := [⟨0, 0x20, beBytes 4 0x100 ++ beBytes 4 1 ++ beBytes 1 0x80 ++ zeros 19 ++ List.replicate 12 1⟩] }
    loose := heldBack (R.MEMRGN_CTL.REARM 0).addr (BitVec.ofNat 32 (2 ^ (R.MEMRGN_CTL.REARM 0).lo)) }

/-- Refutes O12 in its clause that DRAIN_COMPLETE of a region leaves REARM 0: the region comes up again at once, its root block fails its
check (cause 5), the integrity failure enters GROUNDED, and the operation's end writes the word that holds REARM. -/
theorem not_pageStates : ¬ Obligations.PageStates := by
  intro h
  have wf : rearming.wf := by decide +kernel
  have heeds : rearming.heeds := by decide +kernel
  have drains : rearming.rgnState 0 = pgDraining ∧ rearming.regionDone 0 = true := by decide +kernel
  have rearmed : (rearming.after (.drainComplete (.region 0) {})).fld (R.MEMRGN_CTL.REARM 0) = 1 := by decide +kernel
  obtain ⟨-, -, -, -, -, -, -, -, region, -⟩ := h rearming 0 0 {} wf
  obtain ⟨t, ht, -, clear, -⟩ := region 0 heeds drains.1 drains.2
  rw [← eq_after ht] at rearmed
  exact absurd (rearmed.symm.trans clear) (by decide)

end Sys2Proof.Machine
end

section
/-! O28: what FLUSH_NOW does in a state that lists a port twice (R194, R227). -/
namespace Sys2Proof.Machine
open Sys2Proof

/-- An open receive item of number 5, accepted for pair 0 under Cellar entry 9. -/
def openAccepted : SItem := { id := 5, tx := false, bankB := false, units := [0], maxItem := 4, bytes := [], entry := some 9, pair := some 0, single := true }

/-- A frame of the same pair that runs on two lanes still. -/
def otherAccepted : SItem := { openAccepted with id := 6, entry := some 10, single := false }

/-- Port 0 is enabled, one lane is in service, and entry 9 is the last to replay. The map of the ports is not in form: it lists port 0 a
second time, with another item. -/
def twicePort : State :=
  { State.reset with
    regs := setFieldVal (setFieldVal (setFieldVal [] (R.PG_STAT.STATE 0x19) pgActive) (R.PG_STAT.STATE 0x08) pgActive) (R.STRM_P_CTL.EN 0) 1
    lanes := [(0, { powered := true, tested := true })]
    cellar := { replay := [9] }
    streams := { nextId := 7 }
    ports := [(0, { items := [openAccepted] }), (0, { items := [otherAccepted] })] }

/-- Refutes O28 in its clause that FLUSH_NOW_RX leaves the open item discarded. The statement asks for no state in form, and this one
lists a port twice: freeing the entry completes the replay, the note of R227 about the second listing's frame stores that listing's
items as the port's, and the open item is gone before it can be marked. -/
theorem not_portEnableAndFlush : ¬ Obligations.PortEnableAndFlush := by
  intro h
  have accepted : twicePort.accepts 0 (R.STRM_P_CTL.EN 0).addr 9 := by decide +kernel
  have enabled : twicePort.fld (R.STRM_P_CTL.EN 0) = 1 := by decide +kernel
  have stands : twicePort.openOf 0 false = some openAccepted ∧ twicePort.onlyItem 0 openAccepted := by decide +kernel
  have gone : (((twicePort.after (.flushNowRx 0 0)).port 0).items.any fun j => j.id == 5 && j.skip) = false := by decide +kernel
  obtain ⟨-, -, -, -, now, -⟩ := h twicePort 0 0
  obtain ⟨t, ht, -, -, -, voids⟩ := now accepted enabled
  obtain ⟨j, hj, hid, hskip⟩ := voids openAccepted stands.1 rfl stands.2 (by decide)
  rw [← eq_after ht] at gone
  have here : ((t.port 0).items.any fun j => j.id == 5 && j.skip) = true := List.any_eq_true.2 ⟨j, hj, by simp [hid, hskip, openAccepted]⟩
  exact absurd (here.symm.trans gone) (by decide)

end Sys2Proof.Machine
end

section
/-! Stream items and the status of their port (R180, R188 to R192, R233, R235). -/
namespace Sys2Proof.Machine
open Sys2Proof

/-! ### What a port shows of its items -/

/-- What a change of a port's items writes: the port's registers and events, and what BRIDLE_STAT counts of the frames held. -/
abbrev itemParts : List Piece := .ports :: recordParts
def itemWords (a : Nat) : Bool := ownPages portPages (0x1D :: portPages) a || decide (a = R.BRIDLE_STAT.HELD.addr)

/-- A one-word register of a port's page, above the common header. -/
abbrev RegField.OfPort (x : RegField) : Prop := x.addr / 0x1000 ∈ portPages ∧ 0x40 ≤ x.addr % 0x1000 ∧ x.hi < 32

theorem itemWords_page {a : Nat} (h : ownPages portPages portPages a = true) : itemWords a = true :=
  Bool.or_eq_true_iff.2 (.inl (ownPages_mono (fun _ h => h) (fun _ h => List.mem_cons_of_mem _ h) a h))

theorem within_wr_port {x : RegField} (v : Nat) (h : x.OfPort) : Within recordParts itemWords (wr x v) :=
  (within_wr_page x v (by decide) h.1 h.2.1 (.inl h.2.2)).mono (fun _ h => h) fun _ => itemWords_page

theorem within_raise_port {e : PageEvent} (h : e.page ∈ portPages) (c : EntryClass) : Within recordParts itemWords (raise e c) :=
  (within_raise e (by simp only [portPages, List.mem_cons, List.not_mem_nil, or_false] at h; omega) c).mono (fun _ h => h) fun a ha =>
    itemWords_page (eventWord_ownPages _ _ a (eventWord_mono (by simpa using h) a ha))

theorem within_heldRefresh : Within recordParts itemWords heldRefresh := by
  refine within_bind within_getS fun s => ?_
  dsimp only
  refine within_bind (within_wr_one _ _ (by decide) (by decide) (by decide)) fun _ => ?_
  refine (within_setCond E.BRIDLE.OUT_HELD (by decide) _ .other).mono (fun _ h => h) fun a ha => ?_
  exact Bool.or_eq_true_iff.2 (.inl (eventWord_ownPages _ _ a (eventWord_mono (by simp [E.BRIDLE.OUT_HELD]) a ha)))

/-- The registers of the loops and pairs are none of them. -/
theorem clear_itemWords_bridle {y : RegField} (low : 0x1D100 ≤ y.addr) (high : y.addr < 0x1E000) (one : y.hi < 32) (hdr : 0x40 ≤ y.addr % 0x1000) :
    y.Clear itemWords := by
  have page : y.addr / 0x1000 = 0x1D := by omega
  have off : y.addr % 0x1000 ≠ 0x10 ∧ y.addr % 0x1000 ≠ 0x1C ∧ y.addr ≠ 0x3058 ∧ y.addr ≠ 0x1D044 := by omega
  refine ⟨?_, fun hi => absurd hi (by omega), fun hi => absurd hi (by omega)⟩
  simp [itemWords, ownPages, eventWord, portPages, R.BRIDLE_STAT.HELD, page, off]

/-! ### The status of a port -/

/-- The port's registers and events follow its items, once its bank and XOFF are decided. -/
def showPort (s : State) (n : Nat) (p : Port) (rises falls xoff : Bool) : M Unit := do
  wr (R.STRM_P_LEVEL.LEVEL n) p.level
  wrMax (R.STRM_P_LEVEL.MAX n) p.level
  if rises then raise (E.STRMP.HIGH n)
  if falls then raise (E.STRMP.LOW n)
  wr (R.STRM_P_STAT.XOFF n) (b2n (xoff && (s.loopPeer n).isNone && !s.grounded))
  wr (R.STRM_P_STAT.FILL_BANK n) (b2n p.fillB)
  wr (R.STRM_P_STAT.OPEN_TX n) (b2n (p.items.any fun i => i.tx && i.isOpen && !i.skip))
  wr (R.STRM_P_STAT.OPEN_RX n) (b2n (p.items.any fun i => !i.tx && i.isOpen && !i.skip))
  heldRefresh

/-- PORTREFRESH as a change of the port that keeps its items, and what the port then shows. -/
theorem portRefresh_eq (n : Nat) : ∃ (p : State → Port) (rises falls xoff : State → Bool), (∀ s, (p s).items = (s.port n).items)
    ∧ portRefresh n = getS >>= fun s => prim (.port n { p s with xoff := xoff s }) >>= fun _ => showPort s n (p s) (rises s) (falls s) (xoff s) := by
  refine ⟨_, _, _, _, fun s => ?_, rfl⟩
  split <;> rfl

/-- What a program of the steps that show a port's status is. -/
structure StatusSteps (C : M Unit → Prop) : Prop where
  done : C (pure ())
  seq : ∀ {m k : M Unit}, C m → C k → C (m >>= fun _ => k)
  read : ∀ {x : RegField} {k : Nat → M Unit}, (∀ v, C (k v)) → C (rd x >>= k)
  store : ∀ {x : RegField} (v : Nat), x.OfPort → C (wr x v)
  event : ∀ {e : PageEvent}, e.page ∈ portPages → C (raise e)
  held : C heldRefresh

theorem ofPort_level (n : Nat) : (R.STRM_P_LEVEL.LEVEL n).OfPort ∧ (R.STRM_P_LEVEL.MAX n).OfPort := by
  simp only [RegField.OfPort, portPages, R.STRM_P_LEVEL.LEVEL, R.STRM_P_LEVEL.MAX, List.mem_cons, List.not_mem_nil, or_false]
  omega

theorem ofPort_stat (n : Nat) : (R.STRM_P_STAT.XOFF n).OfPort ∧ (R.STRM_P_STAT.FILL_BANK n).OfPort ∧ (R.STRM_P_STAT.OPEN_TX n).OfPort
    ∧ (R.STRM_P_STAT.OPEN_RX n).OfPort := by
  simp only [RegField.OfPort, portPages, R.STRM_P_STAT.XOFF, R.STRM_P_STAT.FILL_BANK, R.STRM_P_STAT.OPEN_TX, R.STRM_P_STAT.OPEN_RX,
    List.mem_cons, List.not_mem_nil, or_false]
  omega

theorem ofPort_count (n : Nat) : (R.STRM_P_TRUNCATED.COUNT n).OfPort ∧ (R.STRM_P_EVT.TRUNC n).OfPort := by
  simp only [RegField.OfPort, portPages, R.STRM_P_TRUNCATED.COUNT, R.STRM_P_EVT.TRUNC, List.mem_cons, List.not_mem_nil, or_false]
  omega

theorem event_page (n : Nat) : (E.STRMP.PORT n).page ∈ portPages ∧ (E.STRMP.HIGH n).page ∈ portPages ∧ (E.STRMP.LOW n).page ∈ portPages := by
  simp only [portPages, E.STRMP.PORT, E.STRMP.HIGH, E.STRMP.LOW, List.mem_cons, List.not_mem_nil, or_false]
  omega

namespace StatusSteps
variable {C : M Unit → Prop} (hC : StatusSteps C)
include hC

theorem cond {c : Prop} [Decidable c] {m : M Unit} (h : C m) : C (if c then m else pure ()) := by
  split
  · exact h
  · exact hC.done

theorem showPort (s : State) (n : Nat) (p : Port) (rises falls xoff : Bool) : C (showPort s n p rises falls xoff) := by
  obtain ⟨level, max⟩ := ofPort_level n
  obtain ⟨xoff', fill, openTx, openRx⟩ := ofPort_stat n
  obtain ⟨-, high, low⟩ := event_page n
  have rest : C (do
      wr (R.STRM_P_STAT.XOFF n) (b2n (xoff && (s.loopPeer n).isNone && !s.grounded))
      wr (R.STRM_P_STAT.FILL_BANK n) (b2n p.fillB)
      wr (R.STRM_P_STAT.OPEN_TX n) (b2n (p.items.any fun i => i.tx && i.isOpen && !i.skip))
      wr (R.STRM_P_STAT.OPEN_RX n) (b2n (p.items.any fun i => !i.tx && i.isOpen && !i.skip))
      heldRefresh) :=
    hC.seq (hC.store _ xoff') (hC.seq (hC.store _ fill) (hC.seq (hC.store _ openTx) (hC.seq (hC.store _ openRx) hC.held)))
  refine hC.seq (hC.store _ level) (hC.seq (hC.read fun _ => hC.cond (hC.store _ max)) ?_)
  cases rises <;> cases falls
  · exact rest
  · exact hC.seq (hC.event low) rest
  · exact hC.seq (hC.event high) rest
  · exact hC.seq (hC.event high) (hC.seq (hC.event low) rest)

end StatusSteps

theorem statusSteps_within : StatusSteps (Within recordParts itemWords) where
  done := within_pure _
  seq hm hk := within_bind hm fun _ => hk
  read h := within_bind (within_rd _) h
  store v h := within_wr_port v h
  event h := within_raise_port h _
  held := within_heldRefresh

/-- An event that stands beside OUT_HELD on the page of Bridle keeps its bit. -/
theorem statusSteps_shows {d : PageEvent} (h : E.BRIDLE.OUT_HELD.Beside d) : StatusSteps (Keeps fun t => t.shows d) where
  done := keeps_pure _
  seq hm hk := keeps_bind hm fun _ => hk
  read h := keeps_bind (keeps_rd _) h
  store {x} v hx s l k := by
    refine (shows_wr v ?_ s l).2 k
    obtain ⟨page, -⟩ := h
    obtain ⟨hp, -, hi⟩ := hx
    simp only [portPages, List.mem_cons, List.not_mem_nil, or_false] at hp
    simp only [RegField.Apart, R.PG_EVT_RAW.EVT, page, E.BRIDLE.OUT_HELD]
    omega
  event {e} he s l k := by
    refine ((within_raise e ?_ .other).shows_clear ?_ s l).2 k
    all_goals simp only [portPages, List.mem_cons, List.not_mem_nil, or_false] at he
    · omega
    · rw [h.1]
      rcases he with he | he | he | he | he <;> rw [he] <;> decide
  held := by
    refine keeps_bind keeps_getS fun s => ?_
    dsimp only
    refine keeps_bind (fun s l k => (shows_wr _ ?_ s l).2 k) fun _ s l k => (setCond_shows_beside h s l _ _).2 k
    rw [h.1]
    decide

/-! ### Changes of items -/

/-- An item of a port has `Q`. -/
def State.hasItem (n : Nat) (Q : SItem → Prop) (t : State) : Prop := ∃ j ∈ (t.port n).items, Q j

/-- The item of a number. -/
def SItem.Numbered (id : Nat) (x : SItem) : Prop := x.id = id

theorem Within.keeps_hasItem {α : Type} {ps : List Piece} {f : Nat → Bool} {m : M α} (h : Within ps f m) (hp : .ports ∉ ps) (n : Nat) (Q : SItem → Prop) :
    Keeps (State.hasItem n Q) m := fun s l k => by
  have same : (runAll l s).ports = (runAll (m s l).2 s).ports := h.same .ports hp s l
  have port : (runAll (m s l).2 s).port n = (runAll l s).port n := by rw [State.port, State.port, same]
  show ∃ j ∈ ((runAll (m s l).2 s).port n).items, Q j
  rw [port]
  exact k

theorem port_run (m n : Nat) (p : Port) (t : State) : ((Prim.port m p).run t).port n = if n = m then p else t.port n := by
  simp only [State.port, Prim.run_ports]
  split
  · rename_i h
    rw [h, mget_mset_same]
  · exact mget_mset_other _ _ _ _ _ ‹_›

/-- A port stored with its items changed one by one. -/
theorem hasItem_port {n m : Nat} {p : Port} {t : State} {g : SItem → SItem} {Q R : SItem → Prop} (items : p.items = (t.port m).items.map g)
    (hg : ∀ x, Q x → R (g x)) (hr : ∀ x, Q x → R x) (h : t.hasItem n Q) : ((Prim.port m p).run t).hasItem n R := by
  obtain ⟨j, hj, q⟩ := h
  rw [State.hasItem, port_run]
  split
  · rename_i here
    rw [here] at hj
    exact ⟨g j, items ▸ List.mem_map_of_mem hj, hg j q⟩
  · exact ⟨j, hj, hr j q⟩

theorem keeps_portRefresh {I : State → Prop} (port : ∀ n p t, p.items = (t.port n).items → I t → I ((Prim.port n p).run t))
    (steps : ∀ s n p rises falls xoff, Keeps I (showPort s n p rises falls xoff)) (n : Nat) : Keeps I (portRefresh n) := by
  obtain ⟨p, rises, falls, xoff, items, eq⟩ := portRefresh_eq n
  rw [eq]
  refine leads_getS fun s => leads_bind (R := fun _ => I) (leads_prim ?_) fun _ => steps _ _ _ _ _ _
  rintro t ⟨rfl, ht⟩
  exact port _ _ _ (items t) ht

theorem within_portRefresh (n : Nat) : Within itemParts itemWords (portRefresh n) := by
  obtain ⟨p, rises, falls, xoff, -, eq⟩ := portRefresh_eq n
  rw [eq]
  refine within_bind within_getS fun s => within_bind (within_prim (by simp [Prim.pieces]) (by simp [Prim.pieces])) fun _ => ?_
  exact (statusSteps_within.showPort _ _ _ _ _ _).mono (fun _ h => List.mem_cons_of_mem _ h) fun _ h => h

theorem keeps_hasItem_portRefresh (n m : Nat) (Q : SItem → Prop) : Keeps (State.hasItem n Q) (portRefresh m) :=
  keeps_portRefresh (fun _ _ _ items => hasItem_port (g := id) (by simpa using items) (fun _ h => h) fun _ h => h)
    (fun _ _ _ _ _ _ => (statusSteps_within.showPort _ _ _ _ _ _).keeps_hasItem (by decide) n Q) m

/-- The store of a port changes no register. -/
theorem shows_port {d : PageEvent} {n : Nat} {p : Port} {t : State} (h : t.shows d) : ((Prim.port n p).run t).shows d := h

theorem keeps_shows_portRefresh {d : PageEvent} (h : E.BRIDLE.OUT_HELD.Beside d) (n : Nat) : Keeps (fun t => t.shows d) (portRefresh n) :=
  keeps_portRefresh (I := fun t => t.shows d) (fun _ _ _ _ k => shows_port k) (fun _ _ _ _ _ _ => (statusSteps_shows h).showPort _ _ _ _ _ _) n

theorem within_setItems (n : Nat) (l : List SItem) : Within itemParts itemWords (setItems n l) :=
  within_bind within_getS fun _ => within_bind (within_prim (by simp [Prim.pieces]) (by simp [Prim.pieces])) fun _ => within_portRefresh n

theorem within_modItem (n id : Nat) (f : SItem → SItem) : Within itemParts itemWords (modItem n id f) :=
  within_bind within_getS fun _ => within_setItems n _

theorem keeps_shows_modItem {d : PageEvent} (h : E.BRIDLE.OUT_HELD.Beside d) (n id : Nat) (f : SItem → SItem) :
    Keeps (fun t => t.shows d) (modItem n id f) :=
  keeps_bind keeps_getS fun _ => keeps_bind keeps_getS fun _ => keeps_bind (keeps_prim fun _ => shows_port) fun _ => keeps_shows_portRefresh h n

/-- What is known of an item, after a change of the items of one number. -/
theorem modItem_leads {n m id : Nat} {f : SItem → SItem} {Q R : SItem → Prop} (hf : ∀ x, Q x → R (if x.id = id then f x else x))
    (hr : ∀ x, Q x → R x) : Leads (State.hasItem n Q) (modItem m id f) fun _ => State.hasItem n R := by
  refine leads_getS fun s => leads_getS fun t => leads_bind (R := fun _ => State.hasItem n R) (leads_prim ?_) fun _ =>
    keeps_hasItem_portRefresh n m R
  rintro u ⟨rfl, rfl, h⟩
  exact hasItem_port rfl hf hr h

/-- The same of the port whose item it is, when the change is what makes it known. -/
theorem modItem_makes {n id : Nat} {f : SItem → SItem} {Q R : SItem → Prop} (hf : ∀ x, Q x → R (if x.id = id then f x else x)) :
    Leads (State.hasItem n Q) (modItem n id f) fun _ => State.hasItem n R := by
  refine leads_getS fun s => leads_getS fun t => leads_bind (R := fun _ => State.hasItem n R) (leads_prim ?_) fun _ =>
    keeps_hasItem_portRefresh n n R
  rintro u ⟨rfl, rfl, j, hj, q⟩
  rw [State.hasItem, port_run, if_pos rfl]
  exact ⟨_, List.mem_map_of_mem hj, hf j q⟩

/-- A change that keeps what is known of every item. -/
theorem keeps_hasItem_modItem {n m id : Nat} {f : SItem → SItem} {Q : SItem → Prop} (hf : ∀ x, Q x → Q (f x)) :
    Keeps (State.hasItem n Q) (modItem m id f) :=
  modItem_leads (fun x q => by split; exacts [hf x q, q]) fun _ h => h

/-! ### The length word, counts and TXO -/

theorem within_writeLength {f : Nat → Bool} (n : Nat) (i : SItem) (b : Nat) : Within [.ports] f (writeLength n i b) :=
  within_bind within_getS fun _ => within_prim (by simp [Prim.pieces]) (by simp [Prim.pieces])

theorem keeps_hasItem_writeLength {n m : Nat} {i : SItem} {b : Nat} {Q : SItem → Prop} (hw : ∀ x w, Q x → Q { x with word := w }) :
    Keeps (State.hasItem n Q) (writeLength m i b) := by
  refine leads_getS fun s => leads_prim ?_
  rintro t ⟨rfl, h⟩
  exact hasItem_port rfl (fun x q => by split; exacts [hw x _ q, q]) (fun _ h => h) h

theorem within_rewriteLength {f : Nat → Bool} (n id : Nat) : Within [.ports] f (rewriteLength n id) := by
  refine within_bind within_getS fun _ => ?_
  split
  · exact within_ite (within_writeLength _ _ _) (within_pure _)
  · exact within_pure _

theorem keeps_hasItem_rewriteLength {n m id : Nat} {Q : SItem → Prop} (hw : ∀ x w, Q x → Q { x with word := w }) :
    Keeps (State.hasItem n Q) (rewriteLength m id) := by
  refine keeps_bind keeps_getS fun _ => ?_
  split
  · exact keeps_ite (keeps_hasItem_writeLength hw) (keeps_pure _)
  · exact keeps_pure _

theorem noteTrunc_steps {C : M Unit → Prop} (hC : StatusSteps C) (n : Nat) : C (noteTrunc n) :=
  hC.seq (hC.read fun _ => hC.store _ (ofPort_count n).1) (hC.seq (hC.store _ (ofPort_count n).2) (hC.event (event_page n).1))

/-- What startNext keeps: what marking an item as begun keeps, and the store of a port with its items. -/
theorem keeps_startNext {I : State → Prop} (port : ∀ n p t, p.items = (t.port n).items → I t → I ((Prim.port n p).run t))
    (mod : ∀ n id, Keeps I (modItem n id fun x => { x with started := true })) (o : Nat) : Keeps I (startNext o) := by
  refine leads_getS fun s => leads_ite (fun _ => ?_) fun _ => leads_pure fun _ h => h.2
  dsimp only
  split
  · refine leads_ite (fun _ => leads_prim ?_) fun _ => ?_
    · rintro t ⟨rfl, h⟩
      exact port _ _ _ rfl h
    · refine leads_bind (R := fun _ => I) ((mod _ _).mono (fun _ h => h.2) fun _ _ h => h) fun _ => leads_getS fun q => leads_prim ?_
      rintro t ⟨rfl, h⟩
      exact port _ _ _ rfl h
  · exact leads_pure fun _ h => h.2

theorem within_startNext (o : Nat) : Within itemParts itemWords (startNext o) := by
  have store (p : Port) : Within itemParts itemWords (prim (.port o p)) := within_prim (by simp [Prim.pieces]) (by simp [Prim.pieces])
  refine within_bind within_getS fun s => within_ite ?_ (within_pure _)
  dsimp only
  split
  · exact within_ite (store _) (within_bind (within_modItem _ _ _) fun _ => within_bind within_getS fun _ => store _)
  · exact within_pure _

theorem keeps_hasItem_startNext {n : Nat} {Q : SItem → Prop} (hs : ∀ x, Q x → Q { x with started := true }) (o : Nat) :
    Keeps (State.hasItem n Q) (startNext o) :=
  keeps_startNext (fun _ _ _ items => hasItem_port (g := id) (by simpa using items) (fun _ h => h) fun _ h => h)
    (fun _ _ => keeps_hasItem_modItem hs) o

theorem keeps_shows_startNext {d : PageEvent} (h : E.BRIDLE.OUT_HELD.Beside d) (o : Nat) : Keeps (fun t => t.shows d) (startNext o) :=
  keeps_startNext (I := fun t => t.shows d) (fun _ _ _ _ k => shows_port k) (fun _ _ => keeps_shows_modItem h _ _ _) o

end Sys2Proof.Machine
end

section
/-! O29: a CUT frame whose egress outruns its ingress (R232). -/
namespace Sys2Proof.Machine
open Sys2Proof

/-- A Bridle frame that its pair could not complete is counted. -/
def countFailed : Option Nat → M Unit
  | some k => bump (R.BRIDLE_PAIR_CTL.FAILED k)
  | none => pure ()

/-- What follows ERR on the final TXO beat of a CUT frame on port `o`. -/
def endCut (n : Nat) (i : SItem) (o : Nat) : M Unit := do
  noteTrunc o
  countFailed i.pair
  bump R.BRIDLE_UNDERRUNS.COUNT
  raise E.BRIDLE.UNDERRUN
  modItem n i.id fun x => { x with cutEnded := true, out := [] }
  startNext o

theorem loopPeer_congr {s t : State} (h : s.regs = t.regs) (o : Nat) : t.loopPeer o = s.loopPeer o := by
  simp only [State.loopPeer, State.fld, h]
  rfl

/-- The program, by what it finds. -/
def underrunOf (s : State) (n : Nat) : Option SItem → M Unit
  | none => pure ()
  | some i => do
    writeLength n i lwTruncated
    cutTxo (s.egressPort n i) i.out
    endCut n i (s.egressPort n i)

theorem bridleUnderrun_eq (n : Nat) : bridleUnderrun n = getS >>= fun s =>
    underrunOf s n ((s.port n).items.find? fun i => i.cut && i.started && i.isOpen && !i.skip && !i.cutEnded) := by
  rw [bridleUnderrun]
  refine congrArg (getS >>= ·) (funext fun s => ?_)
  cases (s.port n).items.find? fun i => i.cut && i.started && i.isOpen && !i.skip && !i.cutEnded with
  | none => rfl
  | some i => rfl

/-- Without a loop the frame ends on its own TXO. -/
theorem bridleUnderrun_runs {s : State} {n : Nat} {i : SItem}
    (found : (s.port n).items.find? (fun i => i.cut && i.started && i.isOpen && !i.skip && !i.cutEnded) = some i)
    (own : s.loopPeer (s.egressPort n i) = none) :
    exec1 (bridleUnderrun n) s = exec1 (do
      writeLength n i lwTruncated
      emit (.txo (s.egressPort n i) i.out true)
      endCut n i (s.egressPort n i)) s := by
  have loop : (runAll (writeLength n i lwTruncated s []).2 s).loopPeer (s.egressPort n i) = none :=
    (loopPeer_congr ((within_writeLength (f := fun _ => false) n i lwTruncated).same .regs (by decide) s []) _).trans own
  have cut : cutTxo (s.egressPort n i) i.out s (writeLength n i lwTruncated s []).2
      = emit (.txo (s.egressPort n i) i.out true) s (writeLength n i lwTruncated s []).2 := by
    rw [cutTxo, getS_bind, loop]
  rw [exec1_eq, exec1_eq, bridleUnderrun_eq, getS_bind, runAll_nil, found, underrunOf, M.bind_apply, M.bind_apply (cutTxo _ _), cut,
    M.bind_apply (writeLength _ _ _), M.bind_apply (emit _)]

/-! ### What it leaves -/

/-- The pages of the ports and of Bridle. -/
abbrev bridleWords : Nat → Bool := ownPages (portPages ++ [0x1D]) (portPages ++ [0x1D])

theorem itemWords_bridle (a : Nat) (h : itemWords a = true) : bridleWords a = true := by
  rcases Bool.or_eq_true_iff.1 h with h | h
  · exact ownPages_mono (by simp +contextual) (by simp [or_comm]) a h
  · rw [of_decide_eq_true h]
    decide

theorem Within.ofItems {α : Type} {m : M α} (h : Within itemParts itemWords m) : Within itemParts bridleWords m := h.mono (fun _ h => h) itemWords_bridle

theorem failed_page (k : Nat) : (R.BRIDLE_PAIR_CTL.FAILED k).addr / 0x1000 ∈ portPages ++ [0x1D] ∧ 0x40 ≤ (R.BRIDLE_PAIR_CTL.FAILED k).addr % 0x1000
    ∧ ((R.BRIDLE_PAIR_CTL.FAILED k).hi < 32 ∨ (R.BRIDLE_PAIR_CTL.FAILED k).hi < 64 ∧ (R.BRIDLE_PAIR_CTL.FAILED k).addr % 0x1000 + 4 < 0x1000) := by
  simp only [R.BRIDLE_PAIR_CTL.FAILED, portPages, List.mem_append, List.mem_cons, List.not_mem_nil, or_false]
  omega

theorem within_noteTrunc (n : Nat) : Within recordParts itemWords (noteTrunc n) := noteTrunc_steps statusSteps_within n

theorem within_countFailed (p : Option Nat) : Within recordParts bridleWords (countFailed p) := by
  cases p with
  | none => exact within_pure _
  | some k => exact within_bump_page _ (by decide) (failed_page k).1 (failed_page k).2.1 (failed_page k).2.2

theorem within_raiseUnderrun : Within recordParts bridleWords (raise E.BRIDLE.UNDERRUN) :=
  (within_raise E.BRIDLE.UNDERRUN (by decide) .other).mono (fun _ h => h) fun a h => eventWord_ownPages _ _ a (eventWord_mono (by decide) a h)

theorem within_endCut (n : Nat) (i : SItem) (o : Nat) : Within itemParts bridleWords (endCut n i o) := by
  have own {m : M Unit} (h : Within recordParts bridleWords m) : Within itemParts bridleWords m := h.mono (fun _ h => List.mem_cons_of_mem _ h) fun _ h => h
  refine within_bind (own ((within_noteTrunc o).mono (fun _ h => h) itemWords_bridle)) fun _ => within_bind (own (within_countFailed _)) fun _ => ?_
  refine within_bind (own (within_bump_page _ (by decide) (by decide) (by decide) (by decide))) fun _ => within_bind (own within_raiseUnderrun) fun _ => ?_
  exact within_bind (within_modItem _ _ _).ofItems fun _ => (within_startNext _).ofItems

/-- UNDERRUN stands beside the only event of the page that changing an item writes. -/
theorem endCut_shows (n : Nat) (i : SItem) (o : Nat) : Leads (fun _ => True) (endCut n i o) fun _ t => t.shows E.BRIDLE.UNDERRUN := by
  have beside : E.BRIDLE.OUT_HELD.Beside E.BRIDLE.UNDERRUN := by decide
  have any {β : Type} (m : M β) : Leads (fun _ => True) m fun _ _ => True := fun _ _ _ => trivial
  refine leads_bind (any _) fun _ => leads_bind (any _) fun _ => leads_bind (any _) fun _ => ?_
  refine leads_bind (R := fun _ t => t.shows E.BRIDLE.UNDERRUN) (fun s l _ => raise_shows _ (by decide) (by decide) (by decide) _ s l) fun _ => ?_
  exact keeps_bind (keeps_shows_modItem beside _ _ _) fun _ => keeps_shows_startNext beside _

theorem endCut_counts (n : Nat) (i : SItem) (o c : Nat) : Leads (fun t => t.fld R.BRIDLE_UNDERRUNS.COUNT = c) (endCut n i o) fun _ t =>
    t.fld R.BRIDLE_UNDERRUNS.COUNT = min (c + 1) (2 ^ 32 - 1) := by
  have clear : R.BRIDLE_UNDERRUNS.COUNT.Clear itemWords := by decide
  refine leads_bind (R := fun _ t => t.fld R.BRIDLE_UNDERRUNS.COUNT = c) (fun s l h => ((within_noteTrunc o).fld_clear clear s l).trans h) fun _ => ?_
  refine leads_bind (R := fun _ t => t.fld R.BRIDLE_UNDERRUNS.COUNT = c) (fun s l h => Eq.trans ?_ h) fun _ => ?_
  · cases i.pair with
    | none => rfl
    | some k => exact fld_bump_apart (by simp only [RegField.Apart, R.BRIDLE_PAIR_CTL.FAILED, R.BRIDLE_UNDERRUNS.COUNT]; omega) s l
  refine leads_bind (R := fun _ t => t.fld R.BRIDLE_UNDERRUNS.COUNT = min (c + 1) (2 ^ 32 - 1)) (fun s l h => ?_) fun _ => ?_
  · exact (fld_bump R.BRIDLE_UNDERRUNS.COUNT (by decide) (by decide) s l).trans (by rw [h]; rfl)
  refine keeps_bind (fun s l h => (fld_raise (by decide) (by decide) _ s l).trans h) fun _ => ?_
  exact keeps_bind (fun s l h => ((within_modItem _ _ _).fld_clear clear s l).trans h) fun _ s l h => ((within_startNext _).fld_clear clear s l).trans h

/-- The item of a number, its egress ended under R232. -/
def SItem.Ended (id : Nat) (x : SItem) : Prop := x.id = id ∧ x.cutEnded = true

theorem endCut_ends (n : Nat) (i : SItem) (o : Nat) :
    Leads (State.hasItem n (SItem.Numbered i.id)) (endCut n i o) fun _ => State.hasItem n (SItem.Ended i.id) := by
  refine leads_bind ((within_noteTrunc o).keeps_hasItem (by decide) _ _) fun _ => leads_bind ((within_countFailed _).keeps_hasItem (by decide) _ _) fun _ => ?_
  refine leads_bind ((within_bump_page (ps := recordParts) (qs := [0x1D]) (evts := []) _ (by decide) (by decide) (by decide) (by decide)).keeps_hasItem (by decide) _ _) fun _ => ?_
  refine leads_bind (within_raiseUnderrun.keeps_hasItem (by decide) _ _) fun _ => ?_
  refine leads_bind (R := fun _ => State.hasItem n (SItem.Ended i.id)) (modItem_makes fun x hx => ?_) fun _ => keeps_hasItem_startNext (fun _ h => h) _
  rw [if_pos (show x.id = i.id from hx)]
  exact ⟨hx, rfl⟩

theorem bridleUnderrun_ends {s : State} {n : Nat} {i : SItem}
    (found : (s.port n).items.find? (fun i => i.cut && i.started && i.isOpen && !i.skip && !i.cutEnded) = some i)
    (own : s.loopPeer (s.egressPort n i) = none) : ∃ t, exec1 (bridleUnderrun n) s = .next t ∧ SameBut ([.ports, .out] ++ recordParts) s t
      ∧ WordsBut bridleWords s t ∧ t.out = s.out ++ [.txo (s.egressPort n i) i.out true] ∧ t.shows E.BRIDLE.UNDERRUN
      ∧ t.fld R.BRIDLE_UNDERRUNS.COUNT = min (s.fld R.BRIDLE_UNDERRUNS.COUNT + 1) (2 ^ 32 - 1)
      ∧ ∃ j ∈ (t.port n).items, j.id = i.id ∧ j.cutEnded = true := by
  have head (b : Nat) : Within ([.ports, .out] ++ recordParts) bridleWords (writeLength n i b) := (within_writeLength n i b).mono (by simp) fun _ h => h
  have run := bridleUnderrun_runs found own
  generalize s.egressPort n i = o at run ⊢
  obtain ⟨same, words⟩ := Within.leaves (s := s) (within_bind (head lwTruncated) fun _ =>
    within_bind (within_emit (.txo o i.out true) (by simp)) fun _ => (within_endCut n i o).mono (by simp +contextual [itemParts]) fun _ h => h)
  refine ⟨_, run, same, words, ?_, ?_, ?_, ?_⟩
  · refine Leads.runM (P := fun t => t.out = s.out) (Q := fun _ t => t.out = s.out ++ [.txo o i.out true]) ?_ rfl
    refine leads_bind (R := fun _ t => t.out = s.out) (fun u l h => ((within_writeLength (f := bridleWords) n i _).same .out (by decide) u l).symm.trans h) fun _ => ?_
    refine leads_bind (R := fun _ t => t.out = s.out ++ [.txo o i.out true]) (leads_prim fun t h => ?_) fun _ => ?_
    · exact congrArg (· ++ [Out.txo o i.out true]) h
    exact fun u l h => ((within_endCut n i o).same .out (by decide) u l).symm.trans h
  · exact Leads.runM (P := fun _ => True) (leads_bind (R := fun _ _ => True) (fun _ _ _ => trivial) fun _ =>
      leads_bind (R := fun _ _ => True) (fun _ _ _ => trivial) fun _ => endCut_shows n i o) trivial
  · refine Leads.runM (P := fun t => t.fld R.BRIDLE_UNDERRUNS.COUNT = s.fld R.BRIDLE_UNDERRUNS.COUNT)
      (Q := fun _ t => t.fld R.BRIDLE_UNDERRUNS.COUNT = min (s.fld R.BRIDLE_UNDERRUNS.COUNT + 1) (2 ^ 32 - 1)) ?_ rfl
    have keep {m : M Unit} (h : Within [.ports, .out] (fun _ => false) m) : Keeps (fun t => t.fld R.BRIDLE_UNDERRUNS.COUNT = s.fld R.BRIDLE_UNDERRUNS.COUNT) m :=
      fun u l k => (h.fld_clear (by decide) u l).trans k
    exact leads_bind (keep ((within_writeLength n i _).mono (by simp) fun _ h => h)) fun _ =>
      leads_bind (keep (within_emit _ (by simp))) fun _ => endCut_counts n i o _
  · have here : s.hasItem n (SItem.Numbered i.id) := ⟨i, List.mem_of_find?_eq_some found, rfl⟩
    refine Leads.runM (Q := fun _ => State.hasItem n (SItem.Ended i.id)) ?_ here
    exact leads_bind (keeps_hasItem_writeLength fun _ _ h => h) fun _ =>
      leads_bind ((within_emit (ps := [.out]) (f := bridleWords) _ (by decide)).keeps_hasItem (by decide) _ _) fun _ => endCut_ends n i o

end Sys2Proof.Machine
end

section
/-! O29: loopback tunnels (R239, R240). -/
namespace Sys2Proof.Machine
open Sys2Proof

/-- The request of a loop is checked. -/
def loopCheck (s : State) (j : Nat) : M Unit := do
  wr (R.BRIDLE_LOOP.ACTIVE j) 0
  if s.fld (R.BRIDLE_LOOP.EN j) = 1 ∧ s.pageState 0x1D ≠ pgOff then
    if (← getS).loopBad j then raise E.BRIDLE.LOOP_BAD else wr (R.BRIDLE_LOOP.ACTIVE j) 1

theorem loopEval_eq (j : Nat) : loopEval j = getS >>= fun s => loopCheck s j >>= fun _ =>
    portRefresh (s.fld (R.BRIDLE_LOOP.PORT_A j)) >>= fun _ => portRefresh (s.fld (R.BRIDLE_LOOP.PORT_B j)) := by
  rw [loopEval]
  refine congrArg (getS >>= ·) (funext fun s => funext fun t => funext fun l => ?_)
  rw [loopCheck, M.bind_apply (wr _ _ >>= _), M.bind_apply (wr _ _), M.bind_apply (wr _ _)]
  generalize (portRefresh (s.fld (R.BRIDLE_LOOP.PORT_A j)) >>= fun _ => portRefresh (s.fld (R.BRIDLE_LOOP.PORT_B j))) = k
  split
  · rw [getS_bind, getS_bind]
    split <;> rw [M.bind_apply]
  · rw [M.pure_apply]

/-! ### The fields of the loops -/

/-- A field of BRIDLE_LOOP. -/
abbrev RegField.OfLoop (y : RegField) : Prop := 0x1D100 ≤ y.addr ∧ y.addr < 0x1D110 ∧ y.lo ≤ y.hi ∧ y.hi < 32

/-- Nothing that R240 reads of a loop's request is the loop's own ACTIVE. -/
theorem loopBad_congr {s t : State} {j : Nat} (hj : j < 4)
    (same : ∀ y : RegField, y.OfLoop → (R.BRIDLE_LOOP.ACTIVE j).Apart y → t.fld y = s.fld y) : t.loopBad j = s.loopBad j := by
  have port (k : Nat) : t.fld (R.BRIDLE_LOOP.PORT_A k) = s.fld (R.BRIDLE_LOOP.PORT_A k) ∧ t.fld (R.BRIDLE_LOOP.PORT_B k) = s.fld (R.BRIDLE_LOOP.PORT_B k) := by
    constructor <;> refine same _ ?_ ?_
    all_goals simp only [RegField.OfLoop, RegField.Apart, R.BRIDLE_LOOP.PORT_A, R.BRIDLE_LOOP.PORT_B, R.BRIDLE_LOOP.ACTIVE]; omega
  have active (k : Nat) (hk : k < 4) (ne : k ≠ j) : t.fld (R.BRIDLE_LOOP.ACTIVE k) = s.fld (R.BRIDLE_LOOP.ACTIVE k) := by
    refine same _ ?_ ?_ <;> simp only [RegField.OfLoop, RegField.Apart, R.BRIDLE_LOOP.ACTIVE] <;> omega
  simp only [State.loopBad, port]
  refine congrArg₂ or rfl ?_
  rw [Bool.eq_iff_iff, List.any_eq_true, List.any_eq_true]
  refine exists_congr fun k => and_congr_right fun hk => ?_
  by_cases ne : k = j
  · simp [ne]
  · rw [active k (List.mem_range.1 hk) ne]

/-- Changing items leaves the loops alone. -/
theorem OfLoop.clear {y : RegField} (h : y.OfLoop) : y.Clear itemWords := clear_itemWords_bridle h.1 (by omega) h.2.2.2 (by omega)

theorem fld_portRefresh_loop {y : RegField} (h : y.OfLoop) (n : Nat) (s : State) (l : List Prim) :
    (runAll (portRefresh n s l).2 s).fld y = (runAll l s).fld y := (within_portRefresh n).fld_clear (OfLoop.clear h) s l

theorem fld_loopBad_raise {y : RegField} (h : y.OfLoop) (s : State) (l : List Prim) :
    (runAll (raise E.BRIDLE.LOOP_BAD .other s l).2 s).fld y = (runAll l s).fld y := by
  obtain ⟨low, high, -, one⟩ := h
  refine fld_raise (by decide) ⟨?_, fun hi => absurd hi (by omega), fun hi => absurd hi (by omega)⟩ _ s l
  have off : y.addr % 0x1000 ≠ 0x10 ∧ y.addr % 0x1000 ≠ 0x1C ∧ y.addr ≠ 0x3058 := by omega
  simp [eventWord, off]

theorem active_ofLoop (j : Nat) : (R.BRIDLE_LOOP.ACTIVE j).OfLoop := by
  simp only [RegField.OfLoop, R.BRIDLE_LOOP.ACTIVE]
  omega

/-- A checked loop leaves all other fields alone, and is active exactly where it is requested and not refused. -/
theorem loopCheck_active {j : Nat} (hj : j < 4) (u s : State) (l : List Prim) :
    let v := runAll (loopCheck u j s l).2 s
    (∀ y : RegField, y.OfLoop → (R.BRIDLE_LOOP.ACTIVE j).Apart y → v.fld y = (runAll l s).fld y)
      ∧ v.fld (R.BRIDLE_LOOP.ACTIVE j)
        = if u.fld (R.BRIDLE_LOOP.EN j) = 1 ∧ u.pageState 0x1D ≠ pgOff ∧ v.loopBad j = false then 1 else 0 := by
  have store (v : Nat) (l : List Prim) : (runAll (wr (R.BRIDLE_LOOP.ACTIVE j) v s l).2 s).fld (R.BRIDLE_LOOP.ACTIVE j) = v % 2 := by
    have ok : (R.BRIDLE_LOOP.ACTIVE j).lo ≤ (R.BRIDLE_LOOP.ACTIVE j).hi ∧ (R.BRIDLE_LOOP.ACTIVE j).hi < 32 := by simp [R.BRIDLE_LOOP.ACTIVE]
    exact fld_wr_same _ v (.inl ok) s l
  have off := store 0 l
  have kept {y : RegField} (apart : (R.BRIDLE_LOOP.ACTIVE j).Apart y) := fld_wr_apart 0 apart s l
  dsimp only
  rw [loopCheck, M.bind_apply]
  generalize (wr (R.BRIDLE_LOOP.ACTIVE j) 0 s l).2 = k at off kept ⊢
  split
  · rename_i asked
    obtain ⟨en, on⟩ := asked
    rw [getS_bind]
    split
    · rename_i bad
      have same {y : RegField} (hy : y.OfLoop) := fld_loopBad_raise hy s k
      have still := loopBad_congr hj (s := runAll k s) fun y hy _ => same hy
      refine ⟨fun y hy apart => (same hy).trans (kept apart), ?_⟩
      rw [same (active_ofLoop j), off, still, bad]
      simp
    · rename_i good
      have same {y : RegField} (apart : (R.BRIDLE_LOOP.ACTIVE j).Apart y) := fld_wr_apart 1 apart s k
      have still := loopBad_congr hj (s := runAll k s) fun y _ apart => same apart
      refine ⟨fun y hy apart => (same apart).trans (kept apart), ?_⟩
      rw [store 1 k, still]
      simp [en, on, good]
  · rename_i idle
    refine ⟨fun y hy apart => kept apart, ?_⟩
    rw [if_neg fun h => idle ⟨h.1, h.2.1⟩]
    exact off

theorem loopEval_active {j : Nat} (hj : j < 4) (s : State) (l : List Prim) :
    let v := runAll (loopEval j s l).2 s
    (∀ y : RegField, y.OfLoop → (R.BRIDLE_LOOP.ACTIVE j).Apart y → v.fld y = (runAll l s).fld y)
      ∧ v.fld (R.BRIDLE_LOOP.ACTIVE j)
        = if (runAll l s).fld (R.BRIDLE_LOOP.EN j) = 1 ∧ (runAll l s).pageState 0x1D ≠ pgOff ∧ v.loopBad j = false then 1 else 0 := by
  obtain ⟨others, active⟩ := loopCheck_active hj (runAll l s) s l
  dsimp only
  rw [loopEval_eq, getS_bind, M.bind_apply, M.bind_apply]
  generalize (runAll l s).fld (R.BRIDLE_LOOP.PORT_A j) = a
  generalize (runAll l s).fld (R.BRIDLE_LOOP.PORT_B j) = b
  generalize (loopCheck (runAll l s) j s l).2 = k at others active ⊢
  have same {y : RegField} (hy : y.OfLoop) : (runAll (portRefresh b s (portRefresh a s k).2).2 s).fld y = (runAll k s).fld y :=
    (fld_portRefresh_loop hy b s _).trans (fld_portRefresh_loop hy a s k)
  refine ⟨fun y hy apart => (same hy).trans (others y hy apart), ?_⟩
  rw [same (active_ofLoop j), active, loopBad_congr hj (s := runAll k s) fun y hy _ => same hy]

theorem within_loopEval (j : Nat) : Within itemParts (ownPages (portPages ++ [0x1D]) (0x1D :: portPages)) (loopEval j) := by
  have items {m : M Unit} (h : Within itemParts itemWords m) : Within itemParts (ownPages (portPages ++ [0x1D]) (0x1D :: portPages)) m :=
    h.mono (fun _ h => h) fun a ha => (Bool.or_eq_true_iff.1 ha).elim (ownPages_mono (by simp +contextual) (fun _ h => h) a) fun e => by
      rw [of_decide_eq_true e]
      decide
  have store (v : Nat) : Within itemParts (ownPages (portPages ++ [0x1D]) (0x1D :: portPages)) (wr (R.BRIDLE_LOOP.ACTIVE j) v) := by
    obtain ⟨low, high, -, one⟩ := active_ofLoop j
    refine within_wr_page _ _ (by decide) ?_ (by omega) (.inl one)
    rw [show (R.BRIDLE_LOOP.ACTIVE j).addr / 0x1000 = 0x1D by omega]
    decide
  have event : Within itemParts (ownPages (portPages ++ [0x1D]) (0x1D :: portPages)) (raise E.BRIDLE.LOOP_BAD) :=
    (within_raise E.BRIDLE.LOOP_BAD (by decide) .other).mono (fun _ h => List.mem_cons_of_mem _ h) fun a h =>
      eventWord_ownPages _ _ a (eventWord_mono (by decide) a h)
  rw [loopEval_eq]
  refine within_bind within_getS fun s => within_bind (within_bind (store 0) fun _ => within_ite ?_ (within_pure _)) fun _ => ?_
  · exact within_bind within_getS fun _ => within_ite event (store 1)
  · exact within_bind (items (within_portRefresh _)) fun _ => items (within_portRefresh _)

/-! ### The command -/

theorem loopWord (j : Fin 4) : ((R.BRIDLE_LOOP.EN j).addr < 2 ^ 18 ∧ (R.BRIDLE_LOOP.EN j).addr % 4 = 0) ∧ plainWord (R.BRIDLE_LOOP.EN j).addr
    ∧ typedWord (R.BRIDLE_LOOP.EN j).addr ∧ (R.BRIDLE_LOOP.EN j).takes = true ∧ (R.BRIDLE_LOOP.PORT_A j).takes = true
    ∧ (R.BRIDLE_LOOP.PORT_B j).takes = true ∧ wrWords ((R.BRIDLE_LOOP.EN j).addr / 0x1000) [] [] (R.BRIDLE_LOOP.EN j).addr = false
    ∧ (R.BRIDLE_LOOP.EN j).addr / 0x1000 = 0x1D ∧ 0x40 ≤ (R.BRIDLE_LOOP.EN j).addr % 0x1000 := by
  revert j
  decide +kernel

theorem exec_bridleLoop (s : State) (rid : BitVec 12) (j : Fin 4) (v : Word) :
    exec (.bridleLoop rid j v) s = exec1 (hostWrite (fullWrite rid (R.BRIDLE_LOOP.EN j).addr v) (loopEval j)) s := rfl

theorem bridleLoop_acts (s : State) (rid : BitVec 12) (j : Fin 4) (v : Word) (ok : s.accepts rid (R.BRIDLE_LOOP.EN j).addr v.toNat) :
    ∃ t, exec (.bridleLoop rid j v) s = .next t ∧ SameBut (.ports :: recordParts) s t
      ∧ WordsBut (wrPages 0x1D (portPages ++ [0x1D]) portPages) s t
      ∧ t.fld (R.BRIDLE_LOOP.EN j) = bits v.toNat 15 15 ∧ t.fld (R.BRIDLE_LOOP.PORT_A j) = bits v.toNat 4 0
      ∧ t.fld (R.BRIDLE_LOOP.PORT_B j) = bits v.toNat 12 8
      ∧ t.fld (R.BRIDLE_LOOP.ACTIVE j)
        = (if v.getLsbD 15 && decide (s.pageState 0x1D ≠ pgOff) && !t.loopBad j then 1 else 0) := by
  obtain ⟨align, plain, typed, takesEn, takesA, takesB, clear, page, hdr⟩ := loopWord j
  have run := hostWrite_takes align plain (loopEval j) ok
  rw [BitVec.ofNat_toNat, BitVec.setWidth_eq] at run
  have taken {y : RegField} (hy : y.addr = (R.BRIDLE_LOOP.EN j).addr) (le : y.lo ≤ y.hi) (takes : y.takes = true) :=
    acceptRun_takes (rid := rid) (s := s) (w := v) align plain typed clear hy le takes
  have en := taken rfl (by simp [R.BRIDLE_LOOP.EN]) takesEn
  have portA := taken (y := R.BRIDLE_LOOP.PORT_A j) rfl (by simp [R.BRIDLE_LOOP.PORT_A]) takesA
  have portB := taken (y := R.BRIDLE_LOOP.PORT_B j) rfl (by simp [R.BRIDLE_LOOP.PORT_B]) takesB
  obtain ⟨-, words, -⟩ := acceptRun_frame (rid := rid) (s := s) align plain v
  have on : (runAll (s.acceptRun rid (R.BRIDLE_LOOP.EN j).addr v) s).pageState 0x1D = s.pageState 0x1D := by
    refine words.fld (y := R.PG_STAT.STATE 0x1D) ⟨?_, fun h => absurd h (by decide), fun h => absurd h (by decide)⟩
    rw [page]
    have other : (R.PG_STAT.STATE 0x1D).addr ≠ (R.BRIDLE_LOOP.EN j).addr := by
      simp only [R.PG_STAT.STATE, R.BRIDLE_LOOP.EN]
      omega
    simpa [wrWords, ownWords, other] using (by decide : acceptWord 0x1D (R.PG_STAT.STATE 0x1D).addr = false ∧ eventWord [0x1D] (R.PG_STAT.STATE 0x1D).addr = false)
  obtain ⟨same, but⟩ := accepted_pages (rid := rid) (s := s) (w := v) align plain hdr (by rw [page]; decide)
    (fun _ h => List.mem_cons_of_mem _ h) (within_loopEval j)
  obtain ⟨others, active⟩ := loopEval_active j.isLt s (s.acceptRun rid (R.BRIDLE_LOOP.EN j).addr v)
  refine ⟨_, (exec_bridleLoop s rid j v).trans run, same, but.mono fun a ha => ?_, ?_, ?_, ?_, ?_⟩
  · rw [page] at ha
    simp only [wrPages, Bool.or_eq_true] at ha ⊢
    exact ha.imp_right (ownPages_mono (fun _ h => h) (by simp) a)
  · rw [others (R.BRIDLE_LOOP.EN j) (by simp only [RegField.OfLoop, R.BRIDLE_LOOP.EN]; omega) (by simp [RegField.Apart, R.BRIDLE_LOOP.EN, R.BRIDLE_LOOP.ACTIVE])]
    exact en
  · rw [others (R.BRIDLE_LOOP.PORT_A j) (by simp only [RegField.OfLoop, R.BRIDLE_LOOP.PORT_A]; omega)
      (by simp [RegField.Apart, R.BRIDLE_LOOP.PORT_A, R.BRIDLE_LOOP.ACTIVE])]
    exact portA
  · rw [others (R.BRIDLE_LOOP.PORT_B j) (by simp only [RegField.OfLoop, R.BRIDLE_LOOP.PORT_B]; omega)
      (by simp [RegField.Apart, R.BRIDLE_LOOP.PORT_B, R.BRIDLE_LOOP.ACTIVE])]
    exact portB
  · rw [active, en, on]
    have bit : bits v.toNat 15 15 = 1 ↔ v.getLsbD 15 = true := by
      simp [bits, BitVec.getLsbD, Nat.testBit_eq_decide_div_mod_eq]
    simp [bit, R.BRIDLE_LOOP.EN, and_assoc]

end Sys2Proof.Machine
end

section
/-! O29: Bridle pairs (R217, R218, R220). -/
namespace Sys2Proof.Machine
open Sys2Proof

/-! ### The words of a pair -/

/-- The word of a pair's control and status. -/
abbrev pairWord (k : Nat) : Nat := 0x1D808 + 16 * (k % 128)

theorem pair_word (k : Fin 128) : ((R.BRIDLE_PAIR_CTL.EN k).addr < 2 ^ 18 ∧ (R.BRIDLE_PAIR_CTL.EN k).addr % 4 = 0) ∧ plainWord (R.BRIDLE_PAIR_CTL.EN k).addr
    ∧ typedWord (R.BRIDLE_PAIR_CTL.EN k).addr ∧ (R.BRIDLE_PAIR_CTL.STATE k).keeps = true
    ∧ wrWords ((R.BRIDLE_PAIR_CTL.EN k).addr / 0x1000) [] [] (R.BRIDLE_PAIR_CTL.EN k).addr = false := by
  revert k
  decide +kernel

theorem pair_page (k : Nat) : pairWord k / 0x1000 = 0x1D := by
  simp only [pairWord]
  omega

/-- R218 reads the pair's configuration, and the states of the other pairs. -/
theorem pairBad_congr {s t : State} {k : Nat} (hk : k < 128) (same : ∀ y : RegField, y.addr ≠ pairWord k → 0x1D800 ≤ y.addr → y.addr < 0x1E000 →
    y.hi < 32 → t.fld y = s.fld y) : t.pairBad k = s.pairBad k := by
  have format : t.fld (R.BRIDLE_PAIR_CFG.FORMAT k) = s.fld (R.BRIDLE_PAIR_CFG.FORMAT k) := by
    refine same _ ?_ ?_ ?_ ?_ <;> simp only [pairWord, R.BRIDLE_PAIR_CFG.FORMAT] <;> omega
  have out : t.fld (R.BRIDLE_PAIR_CFG.OUT_PORT k) = s.fld (R.BRIDLE_PAIR_CFG.OUT_PORT k) := by
    refine same _ ?_ ?_ ?_ ?_ <;> simp only [pairWord, R.BRIDLE_PAIR_CFG.OUT_PORT] <;> omega
  have inSa (j : Nat) : t.fld (R.BRIDLE_PAIR_SA.IN_SA j) = s.fld (R.BRIDLE_PAIR_SA.IN_SA j) := by
    refine same _ ?_ ?_ ?_ ?_ <;> simp only [pairWord, R.BRIDLE_PAIR_SA.IN_SA] <;> omega
  have state (j : Nat) (hj : j < 128) (ne : j ≠ k) : t.fld (R.BRIDLE_PAIR_CTL.STATE j) = s.fld (R.BRIDLE_PAIR_CTL.STATE j) := by
    refine same _ ?_ ?_ ?_ ?_ <;> simp only [pairWord, R.BRIDLE_PAIR_CTL.STATE] <;> omega
  have others : ((List.range 128).any fun j => j ≠ k && t.fld (R.BRIDLE_PAIR_CTL.STATE j) ≠ pgOff
        && t.fld (R.BRIDLE_PAIR_SA.IN_SA j) = t.fld (R.BRIDLE_PAIR_SA.IN_SA k))
      = (List.range 128).any fun j => j ≠ k && s.fld (R.BRIDLE_PAIR_CTL.STATE j) ≠ pgOff
        && s.fld (R.BRIDLE_PAIR_SA.IN_SA j) = s.fld (R.BRIDLE_PAIR_SA.IN_SA k) := by
    rw [Bool.eq_iff_iff, List.any_eq_true, List.any_eq_true]
    refine exists_congr fun j => and_congr_right fun hj => ?_
    by_cases ne : j = k
    · simp [ne]
    · rw [state j (List.mem_range.1 hj) ne, inSa, inSa]
  simp only [State.pairBad, others, format, out]

/-! ### BRIDLE_STAT -/

/-- BRIDLE_STAT and the events of its page. -/
abbrev pairStat : Nat → Bool := ownWords [R.BRIDLE_STAT.ACTIVE.addr] [0x1D]

theorem within_heldRefresh_stat : Within recordParts pairStat heldRefresh := by
  refine within_bind within_getS fun s => ?_
  dsimp only
  refine within_bind (within_wr_one _ _ (by decide) (by decide) (by decide)) fun _ => ?_
  exact (within_setCond E.BRIDLE.OUT_HELD (by decide) _ .other).mono (fun _ h => h) fun a ha => Bool.or_eq_true_iff.2 (.inr ha)

theorem within_pairsRefresh : Within recordParts pairStat pairsRefresh :=
  within_bind within_getS fun _ => within_bind (within_wr_one _ _ (by decide) (by decide) (by decide)) fun _ => within_heldRefresh_stat

theorem pairsRefresh_shows {d : PageEvent} (h : E.BRIDLE.OUT_HELD.Beside d) : Keeps (fun t => t.shows d) pairsRefresh := by
  refine keeps_bind keeps_getS fun _ => keeps_bind (fun s l k => (shows_wr _ ?_ s l).2 k) fun _ => (statusSteps_shows h).held
  rw [h.1]
  decide

/-! ### The commands -/

/-- A pair's control word, BRIDLE_STAT and the events of their page. -/
abbrev pairOwn (k : Nat) : Nat → Bool := ownWords [pairWord k, R.BRIDLE_STAT.ACTIVE.addr] [0x1D]

theorem pairStat_own (k a : Nat) (h : pairStat a = true) : pairOwn k a = true := by
  simp only [pairStat, pairOwn, ownWords, Bool.or_eq_true, List.contains_eq_mem, decide_eq_true_eq, List.mem_cons, List.not_mem_nil, or_false] at h ⊢
  exact h.imp_left .inr

theorem within_wr_bridlePair {x : RegField} {k : Nat} (v : Nat) (h : x.addr = pairWord k) (hh : x.hi < 32) : Within recordParts (pairOwn k) (wr x v) :=
  within_wr_one _ _ hh (by decide) (by simp [pairOwn, ownWords, h])

theorem within_pairsRefresh_own (k : Nat) : Within recordParts (pairOwn k) pairsRefresh := within_pairsRefresh.mono (fun _ h => h) (pairStat_own k)

theorem within_pairBadEvent (k : Nat) : Within recordParts (pairOwn k) (raise E.BRIDLE.PAIR_BAD) :=
  (within_raise E.BRIDLE.PAIR_BAD (by decide) .other).mono (fun _ h => h) fun a h => Bool.or_eq_true_iff.2 (.inr h)

theorem within_pairEnter (k : Nat) : Within recordParts (pairOwn k) (pairEnter k) := by
  refine within_bind within_getS fun s => ?_
  dsimp only
  refine within_bind (within_wr_bridlePair _ rfl (by simp [R.BRIDLE_PAIR_CTL.BAD])) fun _ => ?_
  split
  · exact within_bind (within_pairBadEvent k) fun _ => within_pairsRefresh_own k
  · exact within_pairsRefresh_own k

theorem within_pairBlock (k st : Nat) : Within recordParts (pairOwn k) (setBlock (pairBlock k) st) := by
  refine (within_setBlock st (by simp [pairBlock, R.BRIDLE_PAIR_CTL.STATE]) (by simp [pairBlock, E.BRIDLE.PAIR_CHG])).mono (fun _ h => h) fun a h => ?_
  simp only [pairBlock, R.BRIDLE_PAIR_CTL.STATE, E.BRIDLE.PAIR_CHG, ownWords, Bool.or_eq_true, List.contains_eq_mem, decide_eq_true_eq,
    List.mem_cons, List.not_mem_nil, or_false] at h ⊢
  exact h.imp_left .inl

theorem within_fxPairEn (k : Nat) (old en : Bool) : Within recordParts (pairOwn k) (fxPairEn k old en) :=
  within_bind within_getS fun _ => within_bind
    (within_blockEnable (within_pairBlock k) (fun v => within_wr_bridlePair v rfl (by simp [pairBlock, R.BRIDLE_PAIR_CTL.REARM])) (within_pure _) (within_pairEnter k))
    fun _ => within_pairsRefresh_own k

/-- A field of a pair's control word, and what leaves it alone. -/
theorem pairField {y : RegField} {k : Nat} (h : y.addr = pairWord k) (hh : y.hi < 32) : y.Clear pairStat ∧ y.Clear (eventWord [0x1D]) := by
  have off : y.addr % 0x1000 ≠ 0x10 ∧ y.addr % 0x1000 ≠ 0x1C ∧ y.addr ≠ 0x3058 ∧ y.addr ≠ R.BRIDLE_STAT.ACTIVE.addr := by
    simp only [h, pairWord, R.BRIDLE_STAT.ACTIVE]
    omega
  exact ⟨⟨by simp [ownWords, eventWord, off], by omega, by omega⟩, ⟨by simp [eventWord, off], by omega, by omega⟩⟩

theorem fld_pairsRefresh {y : RegField} {k : Nat} (h : y.addr = pairWord k) (hh : y.hi < 32) (s : State) (l : List Prim) :
    (runAll (pairsRefresh s l).2 s).fld y = (runAll l s).fld y := within_pairsRefresh.fld_clear (pairField h hh).1 s l

/-- A pair that has its new state and BAD by the check, with PAIR_BAD shown where it fails. -/
def State.paired (k st : Nat) (bad : Bool) (t : State) : Prop :=
  t.fld (R.BRIDLE_PAIR_CTL.STATE k) = st ∧ t.fld (R.BRIDLE_PAIR_CTL.BAD k) = b2n bad ∧ (bad = true → t.shows E.BRIDLE.PAIR_BAD)

theorem keeps_paired_pairsRefresh (k st : Nat) (bad : Bool) : Keeps (State.paired k st bad) pairsRefresh := by
  rintro s l ⟨state, isBad, shows⟩
  refine ⟨(fld_pairsRefresh rfl (by simp [R.BRIDLE_PAIR_CTL.STATE]) s l).trans state, (fld_pairsRefresh rfl (by simp [R.BRIDLE_PAIR_CTL.BAD]) s l).trans isBad,
    fun h => pairsRefresh_shows (by decide) s l (shows h)⟩

theorem pairEnter_pairs (k st : Nat) (bad : Bool) :
    Leads (fun t => t.fld (R.BRIDLE_PAIR_CTL.STATE k) = st ∧ t.pairBad k = bad) (pairEnter k) fun _ => State.paired k st bad := by
  have apart : (R.BRIDLE_PAIR_CTL.BAD k).Apart (R.BRIDLE_PAIR_CTL.STATE k) := by simp [RegField.Apart, R.BRIDLE_PAIR_CTL.BAD, R.BRIDLE_PAIR_CTL.STATE]
  refine leads_getS fun s => ?_
  dsimp only
  refine leads_bind (R := fun _ t => s.pairBad k = bad ∧ t.fld (R.BRIDLE_PAIR_CTL.STATE k) = st ∧ t.fld (R.BRIDLE_PAIR_CTL.BAD k) = b2n bad) ?_ fun _ => ?_
  · rintro u l ⟨rfl, state, rfl⟩
    refine ⟨rfl, (fld_wr_apart _ apart u l).trans state, (fld_wr_same _ _ (.inl (by simp [R.BRIDLE_PAIR_CTL.BAD])) u l).trans ?_⟩
    cases (runAll l u).pairBad k <;> rfl
  · split
    · refine leads_bind (R := fun _ => State.paired k st bad) ?_ fun _ => keeps_paired_pairsRefresh k st bad
      rintro u l ⟨-, state, isBad⟩
      have same {y : RegField} (h : y.addr = pairWord k) (hh : y.hi < 32) := fld_raise (e := E.BRIDLE.PAIR_BAD) (by decide) (pairField h hh).2 .other u l
      exact ⟨(same rfl (by simp [R.BRIDLE_PAIR_CTL.STATE])).trans state, (same rfl (by simp [R.BRIDLE_PAIR_CTL.BAD])).trans isBad,
        fun _ => raise_shows _ (by decide) (by decide) (by decide) _ u l⟩
    · rename_i good
      refine (keeps_paired_pairsRefresh k st bad).mono ?_ fun _ _ h => h
      rintro t ⟨rfl, state, isBad⟩
      exact ⟨state, isBad, fun h => absurd h good⟩

theorem exec_pairEn (s : State) (rid : BitVec 12) (k : Fin 128) (en : Bool) : exec (.pairEn rid k en) s
    = exec1 (hostWrite (fullWrite rid (R.BRIDLE_PAIR_CTL.EN k).addr (BitVec.ofNat 32 (b2n en))) (fxPairEn k (s.fld (R.BRIDLE_PAIR_CTL.EN k) = 1) en)) s := by
  have run : exec (.pairEn rid k en) s = exec1 (pairEnWrite rid k en) s := rfl
  rw [run, exec1_eq, exec1_eq, pairEnWrite, getS_bind, runAll_nil]

variable {s : State} {rid : BitVec 12} {k : Fin 128}

/-- What an accepted write of EN starts from, and what it changes in all. -/
theorem pairEn_runs {en : Bool} (ok : s.accepts rid (R.BRIDLE_PAIR_CTL.EN k).addr (b2n en)) :
    let l := s.acceptRun rid (R.BRIDLE_PAIR_CTL.EN k).addr (BitVec.ofNat 32 (b2n en))
    let t := runAll (fxPairEn k (s.fld (R.BRIDLE_PAIR_CTL.EN k) = 1) en s l).2 s
    exec (.pairEn rid k en) s = .next t ∧ SameBut recordParts s t
      ∧ WordsBut (wrWords 0x1D [(R.BRIDLE_PAIR_CTL.EN k).addr, R.BRIDLE_STAT.ACTIVE.addr] []) s t
      ∧ (runAll l s).fld (R.BRIDLE_PAIR_CTL.STATE k) = s.fld (R.BRIDLE_PAIR_CTL.STATE k)
      ∧ WordsBut (wrWords 0x1D [pairWord k] []) s (runAll l s) := by
  obtain ⟨align, plain, typed, keeps, clear⟩ := pair_word k
  have page : (R.BRIDLE_PAIR_CTL.EN k).addr / 0x1000 = 0x1D := pair_page k
  obtain ⟨-, words, -⟩ := acceptRun_frame (rid := rid) (s := s) align plain (BitVec.ofNat 32 (b2n en))
  have frame : Within recordParts (ownWords [pairWord k, R.BRIDLE_STAT.ACTIVE.addr] ((R.BRIDLE_PAIR_CTL.EN k).addr / 0x1000 :: []))
      (fxPairEn k (s.fld (R.BRIDLE_PAIR_CTL.EN k) = 1) en) := by
    rw [page]
    exact within_fxPairEn k _ en
  obtain ⟨same, but⟩ := accepted_words (rid := rid) (s := s) (w := BitVec.ofNat 32 (b2n en)) (qs := recordParts) align plain (fun _ h => h) frame
  refine ⟨(exec_pairEn s rid k en).trans (hostWrite_takes align plain _ ok), same, but.mono fun a ha => ?_,
    acceptRun_keeps align plain typed clear rfl (by simp [R.BRIDLE_PAIR_CTL.STATE]) keeps, page ▸ words⟩
  rw [page] at ha
  simpa [wrWords, ownWords, R.BRIDLE_PAIR_CTL.EN, pairWord] using ha

theorem pairBlock_set (st : Nat) (h : st < 4) (l : List Prim) : (runAll (setBlock (pairBlock k) st s l).2 s).fld (R.BRIDLE_PAIR_CTL.STATE k) = st :=
  (setBlock_state (b := pairBlock k) st (by simp [pairBlock, E.BRIDLE.PAIR_CHG]) (by simp [pairBlock, R.BRIDLE_PAIR_CTL.STATE])
    (pairField (y := R.BRIDLE_PAIR_CTL.STATE k) rfl (by simp [R.BRIDLE_PAIR_CTL.STATE])).2 s l).trans
      (Nat.mod_eq_of_lt h)

theorem pairEn_enters (ok : s.accepts rid (R.BRIDLE_PAIR_CTL.EN k).addr 1) (en : s.fld (R.BRIDLE_PAIR_CTL.EN k) = 0)
    (off : s.fld (R.BRIDLE_PAIR_CTL.STATE k) = pgOff) (on : s.active 0x1D = true) :
    ∃ t, exec (.pairEn rid k true) s = .next t ∧ t.paired k pgActive (s.pairBad k) ∧ SameBut recordParts s t
      ∧ WordsBut (wrWords 0x1D [(R.BRIDLE_PAIR_CTL.EN k).addr, R.BRIDLE_STAT.ACTIVE.addr] []) s t := by
  obtain ⟨run, same, but, state, words⟩ := pairEn_runs (en := true) ok
  refine ⟨_, run, ?_, same, but⟩
  generalize s.acceptRun rid (R.BRIDLE_PAIR_CTL.EN k).addr (BitVec.ofNat 32 (b2n true)) = l at state words ⊢
  have stays : (runAll l s).active 0x1D = true := by
    have stat : (R.PG_STAT.STATE 0x1D).Clear (wrWords 0x1D [pairWord k] []) := by
      have other : (R.PG_STAT.STATE 0x1D).addr ≠ pairWord k := by
        simp only [R.PG_STAT.STATE, pairWord]
        omega
      refine ⟨?_, fun h => absurd h (by decide), fun h => absurd h (by decide)⟩
      simpa [wrWords, ownWords, other] using (by decide : acceptWord 0x1D (R.PG_STAT.STATE 0x1D).addr = false ∧ eventWord [0x1D] (R.PG_STAT.STATE 0x1D).addr = false)
    rw [State.active, words.fld stat]
    exact on
  have old : decide (s.fld (R.BRIDLE_PAIR_CTL.EN k) = 1) = false := by rw [en]; rfl
  have bad : (runAll (setBlock (pairBlock k) pgActive s l).2 s).pairBad k = s.pairBad k := by
    refine pairBad_congr k.isLt fun y ne low high hh => ?_
    have hdr : 0x40 ≤ y.addr % 0x1000 ∧ y.addr ≠ 0x3058 ∧ y.hi < 32 := by omega
    rw [fld_setBlock _ (by simp [pairBlock, E.BRIDLE.PAIR_CHG]) ?_ (clear_events hdr _)]
    · exact words.fld (clear_wrWords hdr (by simpa using ne) _ _)
    · simp only [RegField.Apart, pairBlock, R.BRIDLE_PAIR_CTL.STATE]
      simp only [pairWord] at ne
      omega
  rw [old, fxPairEn, getS_bind, stays, M.bind_apply, blockEnable_enter (state.trans off)]
  exact keeps_paired_pairsRefresh _ _ _ s _ (pairEnter_pairs _ _ _ s _ ⟨pairBlock_set _ (by decide) l, bad⟩)

theorem pairEn_leaves (ok : s.accepts rid (R.BRIDLE_PAIR_CTL.EN k).addr 0) (active : s.fld (R.BRIDLE_PAIR_CTL.STATE k) = pgActive) :
    ∃ t, exec (.pairEn rid k false) s = .next t ∧ t.fld (R.BRIDLE_PAIR_CTL.STATE k) = pgDraining ∧ SameBut recordParts s t
      ∧ WordsBut (wrWords 0x1D [(R.BRIDLE_PAIR_CTL.EN k).addr, R.BRIDLE_STAT.ACTIVE.addr] []) s t := by
  obtain ⟨run, same, but, state, -⟩ := pairEn_runs (en := false) ok
  refine ⟨_, run, ?_, same, but⟩
  generalize s.acceptRun rid (R.BRIDLE_PAIR_CTL.EN k).addr (BitVec.ofNat 32 (b2n false)) = l at state ⊢
  rw [fxPairEn, getS_bind, M.bind_apply, blockEnable_leave (state.trans active), fld_pairsRefresh rfl (by simp [R.BRIDLE_PAIR_CTL.STATE])]
  exact pairBlock_set _ (by decide) _

end Sys2Proof.Machine
end

section
/-! Values that an association issues at once (R288 to R290). -/
namespace Sys2Proof.Machine
open Sys2Proof

/-! ### Frames of states -/

/-- Between the two states only pieces `ps` and words that `f` picks have changed. -/
def State.framed (ps : List Piece) (f : Nat → Bool) (s t : State) : Prop := SameBut ps s t ∧ WordsBut f s t

theorem State.framed.refl {ps : List Piece} {f : Nat → Bool} {s : State} : s.framed ps f s := ⟨fun q _ => q.same_refl s, fun _ _ => rfl⟩

theorem State.framed.trans {ps : List Piece} {f : Nat → Bool} {s t u : State} (h : s.framed ps f t) (k : t.framed ps f u) : s.framed ps f u :=
  ⟨h.1.trans k.1, h.2.trans k.2⟩

theorem State.framed.mono {ps qs : List Piece} {f g : Nat → Bool} {s t : State} (h : s.framed ps f t) (hp : ∀ q ∈ ps, q ∈ qs)
    (hf : ∀ a, f a = true → g a = true) : s.framed qs g t := ⟨h.1.mono hp, h.2.mono hf⟩

theorem Within.framed {α : Type} {ps : List Piece} {f : Nat → Bool} {m : M α} (h : Within ps f m) (s : State) (l : List Prim) :
    (runAll l s).framed ps f (runAll (m s l).2 s) := by
  refine foot_keeps h (I := fun t => (runAll l s).framed ps f t) ?_ s l State.framed.refl
  intro p t hp ht
  refine ht.trans ⟨fun q hq => p.same q (fun hm => hq (hp.1 q hm)) t, fun a ha => hp.regWord a ha t⟩

theorem Within.keeps_framed {α : Type} {ps qs : List Piece} {f g : Nat → Bool} {m : M α} (h : Within ps f m) (hp : ∀ q ∈ ps, q ∈ qs)
    (hf : ∀ a, f a = true → g a = true) (s : State) : Keeps (s.framed qs g) m :=
  fun u l k => k.trans ((h.framed u l).mono hp hf)

/-- A read of the state that the program starts from. -/
theorem leads_getS_at {α : Type} {u : State} {k : State → M α} {Q : α → State → Prop} (h : Leads (fun t => t = u) (k u) Q) :
    Leads (fun t => t = u) (getS >>= k) Q := by
  rintro s l rfl
  exact h s l rfl

/-! ### The association's entry with its next value issued -/

/-- The entry once a value has been issued: FRESH is the next one, and LEASE_END the ceiling. -/
def State.issued (s : State) (ws : List Word) : List Word :=
  setLease (setFresh ws ((s.nextValue ws + 1) % 2 ^ 64)) (if ctr32 ws then 2 ^ 32 else s.ceiling)

theorem wordAt_setWordAt_other (ws : List Word) {i j : Nat} (v : Nat) (h : i ≠ j) : wordAt (setWordAt ws i v) j = wordAt ws j := by
  rw [wordAt, wordAt, setWordAt, List.getD_eq_getElem?_getD, List.getD_eq_getElem?_getD, List.getElem?_set_ne h]

/-- FRESH and LEASE_END stand in words of their own. -/
theorem wordAt_issued (s : State) (ws : List Word) (j : Nat) (h : j < 6) : wordAt (s.issued ws) j = wordAt ws j := by
  rw [State.issued, setLease, setFresh, wordAt_setWordAt_other _ _ (by omega), wordAt_setWordAt_other _ _ (by omega),
    wordAt_setWordAt_other _ _ (by omega), wordAt_setWordAt_other _ _ (by omega)]

theorem eKind_issued (s : State) (ws : List Word) : eKind (s.issued ws) = eKind ws := by rw [eKind, eKind, wordAt_issued s ws 0 (by decide)]
theorem eHandle_issued (s : State) (ws : List Word) : eHandle (s.issued ws) = eHandle ws := by rw [eHandle, eHandle, wordAt_issued s ws 5 (by decide)]

/-! ### Issuing -/

abbrev issueParts : List Piece := [.anchor, .assoc, .counters, .slots]

theorem within_issuePrim {f : Nat → Bool} {p : Prim} (h : ∀ q ∈ p.pieces, q ∈ issueParts) (hr : .regs ∉ p.pieces) : Within issueParts f (prim p) :=
  within_prim h hr

theorem within_leaseFor {f : Nat → Bool} (next : Nat) : Within [.anchor] f (leaseFor next) :=
  within_bind within_getS fun _ => within_ite (within_bind within_getS fun _ => within_prim (by simp [Prim.pieces]) (by simp [Prim.pieces])) (within_pure _)

/-- What remains of an issue once its value is sure. -/
def issueTail (narrow : Bool) (v : Nat) : M Reserved := do
  if !narrow then leaseFor (v + 1)
  return .value v

theorem within_issueTail {f : Nat → Bool} (narrow : Bool) (v : Nat) : Within [.anchor] f (issueTail narrow v) := by
  cases narrow
  · exact within_bind (within_leaseFor _) fun _ => within_pure _
  · exact within_pure _

variable {u : State} {eng : Engine} {loc : Nat} {ws : List Word}

/-- An association that issues at once: the value, and its entry. -/
def State.issuedAt (u : State) (loc : Nat) (ws : List Word) (r : Reserved) (t : State) : Prop :=
  r = .value (u.nextValue ws) ∧ u.framed issueParts (fun _ => false) t ∧ t.assoc = mset (fun _ => none) u.assoc loc (some (u.issued ws))

theorem issue_issues (now : u.issuesNow eng ws) : Leads (fun t => t = u) (issue loc ws) (u.issuedAt loc ws) := by
  obtain ⟨leased, started, fresh, -, -, -, left, ceiling⟩ := now
  have may : ¬ (!u.anchor.leased ∨ (!ctr32 ws ∧ u.ceiling ≤ u.nextValue ws)) := by
    rcases ceiling with narrow | below
    · simp [leased, narrow]
    · simp [leased, Nat.not_le.2 below]
  refine leads_getS_at ?_
  dsimp only
  rw [if_neg (by simp [left]), if_neg (by simpa using may)]
  simp only [fresh, started, ne_eq, not_true, if_false, Bool.not_true, Bool.false_eq_true, false_and]
  have step {p : Prim} (h : ∀ q ∈ p.pieces, q ∈ issueParts) (hr : .regs ∉ p.pieces) : Keeps (u.framed issueParts fun _ => false) (prim p) :=
    (within_issuePrim (f := fun _ => false) h hr).keeps_framed (fun _ h => h) (fun _ h => h) u
  refine leads_bind (R := fun _ t => u.framed issueParts (fun _ => false) t ∧ t.assoc = u.assoc) ?_ fun _ => ?_
  · rintro s l rfl
    exact ⟨step (by simp [Prim.pieces]) (by simp [Prim.pieces]) s l .refl, rfl⟩
  refine leads_bind (R := fun _ t => u.framed issueParts (fun _ => false) t ∧ t.assoc = mset (fun _ => none) u.assoc loc (some (u.issued ws))) ?_ fun _ => ?_
  · rintro s l ⟨frame, same⟩
    refine ⟨step (by simp [Prim.pieces]) (by simp [Prim.pieces]) s l frame, ?_⟩
    rw [← same]
    rfl
  refine leads_bind (R := fun _ t => u.framed issueParts (fun _ => false) t ∧ t.assoc = mset (fun _ => none) u.assoc loc (some (u.issued ws))) ?_ fun _ => ?_
  · rintro s l ⟨frame, same⟩
    exact ⟨step (by simp [Prim.pieces]) (by simp [Prim.pieces]) s l frame, same⟩
  have tail := within_issueTail (f := fun _ => false) (ctr32 ws) (u.nextValue ws)
  have eq : issueTail (ctr32 ws) (u.nextValue ws) = if (!ctr32 ws) = true then do leaseFor (u.nextValue ws + 1); pure (.value (u.nextValue ws))
      else pure (.value (u.nextValue ws)) := by
    cases ctr32 ws <;> rfl
  rw [← eq]
  rintro s l ⟨frame, same⟩
  refine ⟨?_, tail.keeps_framed (by decide) (fun _ h => h) u s l frame, (tail.same .assoc (by decide) s l).symm.trans same⟩
  cases ctr32 ws <;> rfl

theorem reserveAt_issues (now : u.issuesNow eng ws) : Leads (fun t => t = u) (reserveAt eng loc ws) (u.issuedAt loc ws) := by
  have all := now
  obtain ⟨-, started, fresh, keys, active, -, -, -⟩ := now
  obtain ⟨b, bank⟩ := Option.isSome_iff_exists.1 active
  refine leads_getS_at ?_
  simp only [fresh, started, keys, bank, ne_eq, not_true, if_true, if_false, Bool.not_true, Bool.false_eq_true, false_and]
  exact issue_issues all

/-- A handle whose association issues at once. -/
theorem reserveAssoc_issues {h : Nat} (found : u.byHandle h = some (loc, ws)) (now : u.issuesNow eng ws) :
    Leads (fun t => t = u) (reserveAssoc eng h) (u.issuedAt loc ws) := by
  have all := now
  obtain ⟨-, -, -, -, -, still, -, -⟩ := now
  refine leads_getS_at ?_
  rw [found]
  dsimp only
  rw [still]
  exact reserveAt_issues all

/-! ### What changing items leaves of it -/

/-- A register on another page than those of the ports and of Bridle, above the common header. -/
theorem clear_itemWords {y : RegField} (h : y.addr / 0x1000 ∉ 0x1D :: portPages) (hdr : 0x40 ≤ y.addr % 0x1000) (fit : y.addr % 0x1000 + 4 < 0x1000)
    (chron : 4 ≤ y.addr / 0x1000) (hh : y.hi < 64) : y.Clear itemWords := by
  simp only [portPages, List.mem_cons, List.not_mem_nil, or_false] at h
  have word (a : Nat) (page : a / 0x1000 = y.addr / 0x1000) (off : 0x40 ≤ a % 0x1000) : itemWords a = false := by
    have other : a / 0x1000 ∉ portPages ∧ a % 0x1000 ≠ 0x10 ∧ a % 0x1000 ≠ 0x1C ∧ a ≠ 0x3058 ∧ a ≠ 0x1D044 := by
      simp only [portPages, List.mem_cons, List.not_mem_nil, or_false]
      omega
    simp [itemWords, ownPages, eventWord, R.BRIDLE_STAT.HELD, other]
  exact ⟨word _ rfl hdr, fun _ => word _ (by omega) (by omega), by omega⟩

section Congr
variable {s t : State} (h : s.framed itemParts itemWords t)
include h

theorem slot_congr (n : Nat) : t.slot n = s.slot n := by
  have slots : s.slots = t.slots := h.1 .slots (by decide)
  rw [State.slot, State.slot, slots]

theorem counter_congr (n : Nat) : t.counter n = s.counter n := by
  have counters : s.counters = t.counters := h.1 .counters (by decide)
  rw [State.counter, State.counter, counters]

theorem byHandle_congr (n : Nat) : t.byHandle n = s.byHandle n := by
  have assoc : s.assoc = t.assoc := h.1 .assoc (by decide)
  have parked : s.parked = t.parked := h.1 .parked (by decide)
  simp only [State.byHandle, State.anyHandle, State.assocs, State.parkedAt, assoc, parked]

theorem keysOk_congr (ws : List Word) (eng : Option Engine) (enc : Bool) : t.keysOk ws eng enc = s.keysOk ws eng enc := by
  have nodes : s.nodes = t.nodes := h.1 .nodes (by decide)
  have lc : t.fld R.KEYS_LC.STATE = s.fld R.KEYS_LC.STATE := h.2.fld (by decide)
  have use (n : Nat) (d : KeyNeed) : t.useKey n d = s.useKey n d := by
    simp only [State.useKey, slot_congr h, State.admits, State.lcAllows, lc, State.usedUp, State.usesOf, State.node, nodes] <;> rfl
  simp only [State.keysOk, State.inlineKey, use]

theorem ceiling_congr : t.ceiling = s.ceiling := h.2.fld (by decide)

theorem nextValue_congr (ws : List Word) : t.nextValue ws = s.nextValue ws := by
  have lost : t.lostMode = s.lostMode := by
    rw [State.lostMode, State.lostMode, h.2.fld (y := R.FRESH_STAT.LOST) (by decide)]
  have floor : t.floor = s.floor := h.2.fld (by decide)
  simp only [State.nextValue, State.firstValue, counter_congr h, slot_congr h, lost, floor]

theorem spent_congr (ws : List Word) : t.spent ws = s.spent ws := by
  simp only [State.spent, nextValue_congr h, counter_congr h]

theorem fld_freshSwitch (i : Nat) : t.fld (R.FRESH_SW_CTL.STATE i) = s.fld (R.FRESH_SW_CTL.STATE i) ∧ t.fld (R.FRESH_SW_CTL.DIR i) = s.fld (R.FRESH_SW_CTL.DIR i)
    ∧ t.fld (R.FRESH_SW_CTL.HANDLE i) = s.fld (R.FRESH_SW_CTL.HANDLE i) ∧ t.fld (R.FRESH_SW_CTL.MODE i) = s.fld (R.FRESH_SW_CTL.MODE i)
    ∧ t.fld (R.FRESH_SW_AT.AT i) = s.fld (R.FRESH_SW_AT.AT i) := by
  refine ⟨h.2.fld ?_, h.2.fld ?_, h.2.fld ?_, h.2.fld ?_, h.2.fld ?_⟩
  all_goals
    refine clear_itemWords ?_ ?_ ?_ ?_ ?_ <;>
      simp only [portPages, List.mem_cons, List.not_mem_nil, or_false, R.FRESH_SW_CTL.STATE, R.FRESH_SW_CTL.DIR, R.FRESH_SW_CTL.HANDLE, R.FRESH_SW_CTL.MODE,
        R.FRESH_SW_AT.AT] <;> omega

theorem switchDue_congr (ws : List Word) : t.switchDue ws = s.switchDue ws := by
  have active : t.active 0x24 = s.active 0x24 := by
    rw [State.active, State.active, h.2.fld (y := R.PG_STAT.STATE 0x24) (by decide)]
  have record (i : Nat) := fld_freshSwitch h i
  simp only [State.switchDue, State.txSwitch, active, spent_congr h, nextValue_congr h, record]

theorem issuesNow_congr {eng : Engine} {ws : List Word} (now : s.issuesNow eng ws) : t.issuesNow eng ws := by
  have anchor : s.anchor = t.anchor := h.1 .anchor (by decide)
  simpa only [State.issuesNow, ← anchor, counter_congr h, slot_congr h, keysOk_congr h, switchDue_congr h, spent_congr h, nextValue_congr h,
    ceiling_congr h] using now

end Congr

/-! ### The entry of a handle after an issue -/

/-- A key that a map holds has its value replaced in place. -/
theorem mins_of_mem {α : Type} {k : Nat} {old : α} (v : α) : ∀ {m : SMap α} {b : Option Nat}, msorted b m = true → (k, old) ∈ m →
    mins k v m = m.map fun p => if p.1 = k then (k, v) else p
  | [], _, _, hm => absurd hm List.not_mem_nil
  | (a, x) :: r, b, hs, hm => by
    have rest : msorted (some a) r = true := by
      cases b with
      | none => exact hs
      | some b => exact (Bool.and_eq_true_iff.1 hs).2
    obtain ⟨above, -⟩ := (msorted_some a r).1 rest
    rcases List.mem_cons.1 hm with e | hr
    · obtain ⟨rfl, rfl⟩ := Prod.mk.inj e
      have same : (r.map fun p => if p.1 = k then (k, v) else p) = r := by
        refine (List.map_congr_left fun p hp => ?_).trans (List.map_id r)
        rw [if_neg (Nat.ne_of_gt (above p hp))]
        rfl
      rw [mins, if_neg (Nat.lt_irrefl _), if_pos rfl, List.map_cons, if_pos rfl, same]
    · have lt := above _ hr
      rw [mins, if_neg (Nat.lt_asymm lt), if_neg (Nat.ne_of_gt lt), mins_of_mem v rest hr, List.map_cons, if_neg (Nat.ne_of_lt lt)]

/-- The installed entries once one is replaced in place. -/
theorem assocs_mset {s t : State} {loc : Nat} {ws w : List Word} (sorted : msorted none s.assoc = true) (here : (loc, ws) ∈ s.assocs)
    (set : t.assoc = mset (fun _ => none) s.assoc loc (some w)) : t.assocs = s.assocs.map fun p => if p.1 = loc then (loc, w) else p := by
  have mem : (loc, some ws) ∈ s.assoc := by
    obtain ⟨⟨l, o⟩, hp, e⟩ := List.mem_filterMap.1 here
    cases o with
    | none => simp at e
    | some x =>
      simp only [Option.map_some, Option.some.injEq, Prod.mk.injEq] at e
      rwa [← e.1, ← e.2]
  rw [State.assocs, set, mset, if_neg (by simp), mins_of_mem _ sorted mem, List.filterMap_map, State.assocs, List.map_filterMap]
  refine List.filterMap_congr fun p hp => ?_
  by_cases at' : p.1 = loc
  · have value : p.2 = some ws := by
      rw [← mget_of_mem (d := fun _ => none) sorted hp, at', mget_of_mem sorted mem]
    simp [at', value]
  · cases hv : p.2 <;> simp [at', hv]

/-- A handle's entry, replaced by one of its kind and handle, is what the handle names. -/
theorem byHandle_mset {s t : State} {h loc : Nat} {ws w : List Word} (sorted : msorted none s.assoc = true) (found : s.byHandle h = some (loc, ws))
    (set : t.assoc = mset (fun _ => none) s.assoc loc (some w)) (parked : s.parked = t.parked) (kind : eKind w = eKind ws) (handle : eHandle w = eHandle ws) :
    t.byHandle h = some (loc, w) := by
  obtain ⟨any, free⟩ := (Option.filter_eq_some_iff).1 found
  have here := List.mem_of_find?_eq_some any
  have unique (p : Nat × List Word) (hp : p ∈ s.assocs) (e : p.1 = loc) : p.2 = ws := by
    have value {q : Nat × List Word} (hq : q ∈ s.assocs) : mget (fun _ => none) s.assoc q.1 = some q.2 := by
      obtain ⟨⟨l, o⟩, hp, e⟩ := List.mem_filterMap.1 hq
      obtain ⟨x, rfl, rfl⟩ := Option.map_eq_some_iff.1 e
      exact mget_of_mem sorted hp
    have := (value hp).symm.trans (e ▸ value here)
    exact Option.some.inj this
  have any' : t.anyHandle h = some (loc, w) := by
    rw [State.anyHandle, assocs_mset sorted here set, List.find?_map, List.find?_congr fun p hp => ?_, ← State.anyHandle, any]
    · simp
    · dsimp only [Function.comp]
      split
      · rename_i e
        rw [kind, handle, unique p hp e]
      · rfl
  rw [State.byHandle, any', Option.filter_some, if_pos]
  rwa [State.parkedAt, ← parked]

end Sys2Proof.Machine
end

section
/-! Stream items that take a Cellar entry (R568, R571, R573). -/
namespace Sys2Proof.Machine
open Sys2Proof

/-! ### Entries of the Cellar -/

/-- The entry is in use and holds the two values. -/
def State.journaled (e : Nat) (va vb : BitVec 64) (t : State) : Prop := ∃ x, t.entry e = some x ∧ x.valueA = va ∧ x.valueB = vb

theorem entry_congr {s t : State} (h : s.cellar = t.cellar) (e : Nat) : t.entry e = s.entry e := by rw [State.entry, State.entry, h]

/-- What a program that leaves the Cellar alone, or an update of the Cellar beside its entries, keeps of an entry. -/
theorem Within.keeps_entry {α : Type} {ps : List Piece} {f : Nat → Bool} {m : M α} (h : Within ps f m) (hp : .cellar ∉ ps) (e : Nat) (I : Option CEntry → Prop) :
    Keeps (fun t => I (t.entry e)) m := fun s l k => by
  have same : (runAll l s).cellar = (runAll (m s l).2 s).cellar := h.same .cellar hp s l
  show I ((runAll (m s l).2 s).entry e)
  rwa [entry_congr same]

theorem entry_centry (n e : Nat) (x : CEntry) (t : State) : ((Prim.centry n (some x)).run t).entry e = if e = n then some x else t.entry e := by
  simp only [State.entry, Prim.run_cellar]
  split
  · rename_i h
    rw [h, mget_mset_same]
  · exact mget_mset_other _ _ _ _ _ ‹_›

theorem keeps_entry_cellar (c : CellarState) (e : Nat) (I : Option CEntry → Prop) : Keeps (fun t => I (t.entry e)) (prim (.cellar c)) :=
  keeps_prim fun _ h => h

theorem keeps_entry_occupancy (e : Nat) (I : Option CEntry → Prop) : Keeps (fun t => I (t.entry e)) cellarOccupancy := by
  have store (x : RegField) (v : Nat) (h : x.hi < 32) : Keeps (fun t => I (t.entry e)) (wr x v) :=
    (within_wr_one (ps := [.regs]) (f := fun _ => true) x v h (by decide) rfl).keeps_entry (by decide) e I
  refine keeps_bind keeps_getS fun s => ?_
  dsimp only
  have rest := keeps_bind (store R.CELLAR_OCC.MEM (s.usedOf .memory) (by decide)) fun _ =>
    keeps_bind (store R.CELLAR_OCC.STREAM (if s.streamWaits then 96 else s.usedOf .stream) (by decide)) fun _ =>
    keeps_bind (store R.CELLAR_OCC.STOR (s.usedOf .storage) (by decide)) fun _ =>
    keeps_bind (store R.CELLAR_OCC.QUEUE (s.usedOf .queue) (by decide)) fun _ =>
    keeps_entry_cellar { s.cellar with vbatOpen := s.inUse.length } e I
  split
  · exact keeps_bind (store _ _ (by decide)) fun _ => rest
  · exact rest

/-- An item whose reserve has room takes an entry, filled as asked. -/
theorem journal_fills {k : CKind} {fill : Nat → Stamp → CEntry} : Leads (fun t => (t.freeEntry k.reserve).isSome = true) (journal k fill)
    fun r t => ∃ e o st, r = some e ∧ t.entry e = some (fill o st) := by
  refine leads_getS fun s => ?_
  split
  · rename_i none'
    rintro u l ⟨rfl, some'⟩
    rw [none'] at some'
    exact absurd some' (by decide)
  · rename_i e _
    refine leads_bind (R := fun _ _ => True) (fun _ _ _ => trivial) fun st => ?_
    refine leads_bind (R := fun _ t => t.entry e = some (fill s.cellar.nextOrder st)) (leads_prim fun t _ => ?_) fun _ => ?_
    · rw [entry_centry, if_pos rfl]
    refine leads_bind (keeps_entry_cellar _ e (· = some (fill s.cellar.nextOrder st))) fun _ => ?_
    refine leads_bind (keeps_entry_occupancy e (· = some (fill s.cellar.nextOrder st))) fun _ => leads_pure fun t h => ⟨e, _, st, rfl, h⟩

/-- Folding input into an entry leaves the values that entries hold alone. -/
theorem keeps_journaled_foldEntry (e n : Nat) (va vb : BitVec 64) (b : Bytes) (done : Bool) : Keeps (State.journaled e va vb) (foldEntry n b done) := by
  have hd : Keeps (State.journaled e va vb) takeHd := by
    refine keeps_bind keeps_getS fun s => ?_
    split
    · exact keeps_pure _
    · exact keeps_bind (keeps_entry_cellar _ e fun o => ∃ x, o = some x ∧ x.valueA = va ∧ x.valueB = vb) fun _ => keeps_pure _
    · exact keeps_pure _
  refine keeps_bind hd fun hd => leads_getS fun s => ?_
  split
  · rename_i x hx
    refine leads_prim ?_
    rintro t ⟨rfl, y, hy, values⟩
    rw [State.journaled, entry_centry]
    split
    · rename_i here
      obtain rfl := Option.some.inj (hx.symm.trans (here ▸ hy))
      exact ⟨_, rfl, values⟩
    · exact ⟨y, hy, values⟩
  · exact leads_pure fun t h => h.2

/-! ### Items accepted -/

/-- What accepting an item changes. -/
abbrev acceptParts : List Piece := streamParts ++ [.anchor, .assoc, .counters, .slots]
abbrev acceptWords : Nat → Bool := ownPages (streamPages ++ [0x24]) (streamPages ++ [0x24])

theorem itemWords_accept (a : Nat) (h : itemWords a = true) : acceptWords a = true := by
  rcases Bool.or_eq_true_iff.1 h with h | h
  · exact ownPages_mono (by simp +contextual [streamPages]) (by simp +contextual [streamPages, freePages]) a h
  · rw [of_decide_eq_true h]
    decide

/-- Room in the reserve of the streams does not depend on what an item or an association shows. -/
theorem freeEntry_congr {s t : State} (h : s.framed (itemParts ++ issueParts) itemWords t) : t.freeEntry .stream = s.freeEntry .stream := by
  have cellar : s.cellar = t.cellar := h.1 .cellar (by decide)
  have fault : t.fld R.CELLAR_STAT.FAULT = s.fld R.CELLAR_STAT.FAULT := h.2.fld (by decide)
  have fenced : t.fld R.CELLAR_FENCED.MACROS = s.fld R.CELLAR_FENCED.MACROS := h.2.fld (by decide)
  simp only [State.freeEntry, State.reserveSize, State.usedOf, State.inUse, State.cellarFault, State.withdrawn, cellar, fault, fenced]

/-- An item accepted since `s` with two values under an entry. -/
def State.taken (s : State) (n e : Nat) (va vb : BitVec 64) (Q : SItem → Prop) (t : State) : Prop :=
  s.framed acceptParts acceptWords t ∧ t.journaled e va vb ∧ t.hasItem n Q

/-- A change of items. -/
theorem taken_items {α : Type} {s : State} {n e : Nat} {va vb : BitVec 64} {Q R : SItem → Prop} {m : M α} (within : Within itemParts itemWords m)
    (leads : Leads (State.hasItem n Q) m fun _ => State.hasItem n R) : Leads (s.taken n e va vb Q) m fun _ => s.taken n e va vb R := by
  rintro u l ⟨frame, entry, item⟩
  exact ⟨within.keeps_framed (by decide) itemWords_accept s u l frame,
    within.keeps_entry (by decide) e (fun o => ∃ x, o = some x ∧ x.valueA = va ∧ x.valueB = vb) u l entry, leads u l item⟩

theorem taken_foldEntry {s : State} {n e : Nat} {va vb : BitVec 64} {Q : SItem → Prop} (m : Nat) (b : Bytes) (done : Bool) :
    Keeps (s.taken n e va vb Q) (foldEntry m b done) := by
  have within : Within [.cellar] itemWords (foldEntry m b done) := within_foldEntry m b done (by decide)
  rintro u l ⟨frame, entry, item⟩
  exact ⟨within.keeps_framed (by decide) itemWords_accept s u l frame, keeps_journaled_foldEntry e m va vb b done u l entry,
    within.keeps_hasItem (by decide) n Q u l item⟩

/-- An item's entry is taken where its reserve has room. -/
theorem journal_takes {s : State} {n : Nat} {k : CKind} {fill : Nat → Stamp → CEntry} {va vb : BitVec 64} {Q : SItem → Prop} (stream : k.reserve = .stream)
    (room : (s.freeEntry .stream).isSome = true) (holds : ∀ o st, (fill o st).valueA = va ∧ (fill o st).valueB = vb) :
    Leads (fun t => s.framed (itemParts ++ issueParts) itemWords t ∧ t.hasItem n Q) (journal k fill) fun r t => ∃ e, r = some e ∧ s.taken n e va vb Q t := by
  rintro v l ⟨frame, item⟩
  have free : ((runAll l v).freeEntry k.reserve).isSome = true := by rw [stream, freeEntry_congr frame, room]
  obtain ⟨e, o, st, he, entry⟩ := journal_fills v l free
  have within := within_journal k fill []
  exact ⟨e, he, within.keeps_framed (by decide) (ownPages_mono (by decide) (by decide)) s v l (frame.mono (by decide) itemWords_accept),
    ⟨_, entry, holds o st⟩, within.keeps_hasItem (by decide) n Q v l item⟩

/-- An item that its reserve has room for is accepted. -/
theorem journalItem_takes {s : State} {n : Nat} {i : SItem} {kind : CKind} {c out : Option AssocCopy} {va vb : Nat} {Q : SItem → Prop}
    {R : Nat → SItem → Prop} (stream : kind.reserve = .stream) (room : (s.freeEntry .stream).isSome = true)
    (takes : ∀ e x, Q x → R e (if x.id = i.id then { x with entry := some e, asked := none, held := false } else x))
    (word : ∀ e x w, R e x → R e { x with word := w }) :
    Leads (fun t => s.framed (itemParts ++ issueParts) itemWords t ∧ t.hasItem n Q) (journalItem n i kind c out va vb)
      fun r t => ∃ e, r = some e ∧ s.taken n e (BitVec.ofNat 64 va) (BitVec.ofNat 64 vb) (R e) t := by
  refine leads_getS fun u => ?_
  dsimp only
  refine leads_bind (R := fun r t => ∃ e, r = some e ∧ s.taken n e (BitVec.ofNat 64 va) (BitVec.ofNat 64 vb) Q t) ?_ fun r => ?_
  · refine Leads.mono (journal_takes stream room ?_) (fun t h => h.2) fun _ _ h => h
    exact fun _ _ => ⟨rfl, rfl⟩
  · cases r with
    | none => rintro v l ⟨e, he, -⟩; exact absurd he (by simp)
    | some e =>
      refine Leads.mono (P := s.taken n e (BitVec.ofNat 64 va) (BitVec.ofNat 64 vb) Q) (Q := fun r t => r = some e ∧
        s.taken n e (BitVec.ofNat 64 va) (BitVec.ofNat 64 vb) (R e) t) ?_ ?_ fun r t h => ⟨e, h⟩
      · refine leads_bind (taken_foldEntry _ _ _) fun _ => leads_bind (taken_items (R := R e) (within_modItem _ _ _) (modItem_makes (takes e))) fun _ => ?_
        refine leads_bind (taken_items (R := R e) ((within_rewriteLength _ _).mono (by decide) fun _ h => h) (keeps_hasItem_rewriteLength (word e))) fun _ => ?_
        exact leads_pure fun t h => ⟨rfl, h⟩
      · rintro t ⟨e', he, h⟩
        obtain rfl := Option.some.inj he
        exact h

end Sys2Proof.Machine
end

section
/-! O29: Bridle frames accepted (R228, R229, R233). -/
namespace Sys2Proof.Machine
open Sys2Proof

/-- An item of a pair, and one accepted for it. -/
def SItem.Paired (id k : Nat) (cut : Bool) (x : SItem) : Prop := x.id = id ∧ x.pair = some k ∧ x.cut = cut
def SItem.Accepted (id k : Nat) (cut : Bool) (e : Nat) (x : SItem) : Prop := x.Paired id k cut ∧ x.entry = some e

variable {s : State} {n k loc v : Nat} {i : SItem} {c : AssocCopy} {ws : List Word} {Q : SItem → Prop}

/-! ### Its turn, its value -/

/-- With an entry free and no item asking, it is the item's turn. -/
theorem entryTurn_takes (free : s.entryFree) (here : i ∈ (s.port n).items) : Leads (fun t => t = s) (entryTurn n i) fun b t =>
    b = true ∧ s.framed itemParts itemWords t ∧ t.hasItem n (SItem.Numbered i.id) := by
  obtain ⟨room, none'⟩ := free
  refine leads_getS_at ?_
  dsimp only
  refine leads_ite (fun _ => ?_) fun wait => absurd ⟨room, ?_⟩ wait
  · refine leads_bind (R := fun _ t => s.framed itemParts itemWords t ∧ t.hasItem n (SItem.Numbered i.id)) ?_ fun _ => leads_pure fun t h => ⟨rfl, h⟩
    rintro u l rfl
    refine ⟨(within_modItem _ _ _).framed u l, ?_⟩
    have keep : Keeps (State.hasItem n (SItem.Numbered i.id)) (modItem n i.id fun x => { x with asked := none }) := keeps_hasItem_modItem fun _ h => h
    exact keep u l ⟨i, here, rfl⟩
  · rw [Bool.not_eq_true']
    refine List.any_eq_false.2 fun p hp => Bool.not_eq_true _ ▸ List.any_eq_false.2 fun x hx => ?_
    rw [none' p hp x hx]
    simp

theorem fld_outSide {t : State} (h : WordsBut itemWords s t) (k : Nat) : t.fld (R.BRIDLE_PAIR_CFG.OUT_PORT k) = s.fld (R.BRIDLE_PAIR_CFG.OUT_PORT k)
    ∧ t.fld (R.BRIDLE_PAIR_SA.OUT_SA k) = s.fld (R.BRIDLE_PAIR_SA.OUT_SA k) := by
  refine ⟨h.fld (clear_itemWords_bridle ?_ ?_ ?_ ?_), h.fld (clear_itemWords_bridle ?_ ?_ ?_ ?_)⟩ <;>
    simp only [R.BRIDLE_PAIR_CFG.OUT_PORT, R.BRIDLE_PAIR_SA.OUT_SA] <;> omega

/-- OUT_SA issues its value at once, and stands with it where it stood. -/
theorem reserve_takes (sorted : msorted none s.assoc = true) (out : s.outEntry k = some (loc, ws)) (now : s.issuesNow .bridle ws) :
    Leads (fun t => s.framed itemParts itemWords t ∧ t.hasItem n Q) (reserveAssoc .bridle (s.fld (R.BRIDLE_PAIR_SA.OUT_SA k))) fun r t =>
      r = .value (s.nextValue ws) ∧ s.framed (itemParts ++ issueParts) itemWords t ∧ t.hasItem n Q ∧ (t.outEntry k).isSome = true := by
  obtain ⟨found, kind⟩ := (Option.filter_eq_some_iff).1 out
  rintro u l ⟨frame, item⟩
  have assoc : s.assoc = (runAll l u).assoc := frame.1 .assoc (by decide)
  have found' := (byHandle_congr frame _).trans found
  obtain ⟨value, issued, set⟩ := reserveAssoc_issues found' (issuesNow_congr frame now) u l rfl
  generalize runAll (reserveAssoc .bridle (s.fld (R.BRIDLE_PAIR_SA.OUT_SA k)) u l).2 u = t at issued set ⊢
  have parked : (runAll l u).parked = t.parked := issued.1 .parked (by decide)
  have ports : (runAll l u).ports = t.ports := issued.1 .ports (by decide)
  have all : s.framed (itemParts ++ issueParts) itemWords t := (frame.mono (by decide) fun _ h => h).trans (issued.mono (by decide) (by simp))
  have at' := byHandle_mset (assoc ▸ sorted) found' set parked (eKind_issued _ ws) (eHandle_issued _ ws)
  obtain ⟨port, sa⟩ := fld_outSide all.2 k
  refine ⟨value.trans (by rw [nextValue_congr frame]), all, ?_, ?_⟩
  · rwa [State.hasItem, State.port, ← ports]
  · rw [State.outEntry, port, sa, at', Option.filter_some, eKind_issued, if_pos kind]
    rfl

/-! ### What it has produced -/

theorem within_produceCut (n id : Nat) : Within itemParts itemWords (produceCut n id) := by
  refine within_bind within_getS fun s => ?_
  split
  · split
    · dsimp only
      refine within_ite (within_pure _) ?_
      split
      · exact within_modItem _ _ _
      · exact within_pure _
    · exact within_pure _
  · exact within_pure _

theorem keeps_hasItem_produceCut (m id : Nat) (out : ∀ x b, Q x → Q { x with out := b }) : Keeps (State.hasItem n Q) (produceCut m id) := by
  refine keeps_bind keeps_getS fun s => ?_
  split
  · split
    · dsimp only
      refine keeps_ite (keeps_pure _) ?_
      split
      · exact keeps_hasItem_modItem fun x h => out x _ h
      · exact keeps_pure _
    · exact keeps_pure _
  · exact keeps_pure _

/-! ### Acceptance -/

/-- What is known of an answer, whatever the state. -/
theorem leads_fact {α : Type} {a : Prop} {P : State → Prop} {m : M α} {R : α → State → Prop} (h : a → Leads P m R) : Leads (fun t => a ∧ P t) m R :=
  fun u l p => h p.1 u l p.2

/-- The next Bridle frame of a port, ready on both sides. -/
abbrev State.bridleReady (s : State) (n : Nat) (i : SItem) (c : AssocCopy) (k loc v : Nat) (ws : List Word) : Prop :=
  s.bridleNext n = some (i, c, k) ∧ s.noLane = false ∧ 2 ≤ s.laneCount ∧ s.shut = false ∧ s.profileBad n k = false
    ∧ s.keysOk c.words (some .bridle) false = true ∧ s.outEntry k = some (loc, ws)
    ∧ s.keyRefused ws (some .bridle) true = false ∧ (s.counter c.handle).rewrite = none
    ∧ (if i.isOpen then .ok i.value else s.rxCheck n i c) = Except.ok v ∧ s.outReady k = true ∧ s.entryFree
    ∧ s.issuesNow .bridle ws

/-- The next Bridle frame of a port stands there. -/
theorem bridleNext_mem (next : s.bridleNext n = some (i, c, k)) : i ∈ (s.port n).items := by
  obtain ⟨j, hj, found⟩ := List.exists_of_findSome?_eq_some next
  split at found
  · split at found
    · simp only [Option.some.injEq, Prod.mk.injEq] at found
      exact found.1 ▸ hj
    · exact absurd found (by simp)
  · exact absurd found (by simp)

theorem bridleAccept_takes (sorted : msorted none s.assoc = true) (ready : s.bridleReady n i c k loc v ws) :
    Leads (fun t => t = s) (bridleAccept n i c k) fun _ t =>
      ∃ e, s.taken n e (BitVec.ofNat 64 v) (BitVec.ofNat 64 (s.nextValue ws)) (SItem.Accepted i.id k (s.cutPair k) e) t := by
  obtain ⟨next, lanes, two, awake, profile, keys, out, may, settled, check, egress, free, now⟩ := ready
  have here := bridleNext_mem next
  refine leads_getS_at ?_
  dsimp only
  rw [out, check]
  dsimp only
  rw [if_neg (by simp [lanes, awake, settled]; omega), if_neg (by simp [profile, keys, may]), if_neg (by simp [egress])]
  refine leads_bind (entryTurn_takes free here) fun b => ?_
  refine leads_ite (fun no => ?_) fun _ => ?_
  · rintro u l ⟨rfl, -⟩
    simp at no
  refine leads_bind ((reserve_takes sorted out now).mono (fun t h => h.2) fun _ _ h => h) fun r => ?_
  refine leads_fact fun value => ?_
  subst value
  dsimp only
  refine leads_getS fun u => ?_
  split
  · rename_i gone
    rintro w l ⟨rfl, -, -, known⟩
    rw [gone] at known
    exact absurd known (by decide)
  · rename_i w at'
    refine leads_bind (R := fun _ t => s.framed (itemParts ++ issueParts) itemWords t ∧ t.hasItem n (SItem.Paired i.id k (s.cutPair k))) ?_ fun _ => ?_
    · rintro x l ⟨rfl, frame, item, -⟩
      refine ⟨(within_modItem _ _ _).keeps_framed (by decide) (fun _ h => h) s x l frame, ?_⟩
      refine modItem_makes (fun y hy => ?_) x l item
      rw [if_pos (show y.id = i.id from hy)]
      exact ⟨hy, rfl, rfl⟩
    refine leads_bind (journalItem_takes (R := SItem.Accepted i.id k (s.cutPair k)) rfl free.1 (fun e y hy => ?_) fun e y x hy => hy) fun r => ?_
    · rw [if_pos (show y.id = i.id from hy.1)]
      exact ⟨hy, rfl⟩
    · rintro x l ⟨e, -, taken⟩
      refine ⟨e, Leads.mono (P := s.taken n e (BitVec.ofNat 64 v) (BitVec.ofNat 64 (s.nextValue ws)) (SItem.Accepted i.id k (s.cutPair k) e))
        (keeps_ite (keeps_bind ?_ fun _ => ?_) (keeps_pure _)) (fun _ h => h) (fun _ _ h => h) x l taken⟩
      · exact taken_items (within_produceCut _ _) (keeps_hasItem_produceCut _ _ fun _ _ h => h)
      · exact taken_items (within_startNext _) (keeps_hasItem_startNext (fun _ h => h) _)

/-! ### The commands -/

theorem bridleHoldAccept_eq (next : s.bridleNext n = some (i, c, k)) (first : i.held = false) (whole : s.cutPair k = false) :
    exec1 (bridleHoldAccept n) s = exec1 (bridleAccept n i c k) s := by
  rw [exec1_eq, exec1_eq, bridleHoldAccept, getS_bind, runAll_nil, next]
  dsimp only
  rw [if_pos (by simp [first, whole])]

theorem bridleCutAccept_eq (next : s.bridleNext n = some (i, c, k)) (first : i.held = false) (cut : s.cutPair k = true)
    (lead : i.isOpen = false ∨ s.cutLead n k ≤ i.units.length) : exec1 (bridleCutAccept n) s = exec1 (bridleAccept n i c k) s := by
  rw [exec1_eq, exec1_eq, bridleCutAccept, getS_bind, runAll_nil, next]
  dsimp only
  rw [if_pos (by simpa [first, cut] using lead)]

theorem outHeldRelease_eq (next : s.bridleNext n = some (i, c, k)) (held : i.held = true) :
    exec1 (outHeldRelease n) s = exec1 (bridleAccept n i c k) s := by
  rw [exec1_eq, exec1_eq, outHeldRelease, getS_bind, runAll_nil, next]
  dsimp only
  rw [if_pos held]

/-- A command that accepts a ready frame. -/
theorem bridleReady_accepts (sorted : msorted none s.assoc = true) (ready : s.bridleReady n i c k loc v ws) {m : M Unit}
    (run : exec1 m s = exec1 (bridleAccept n i c k) s) : ∃ t, exec1 m s = .next t ∧ SameBut acceptParts s t ∧ WordsBut acceptWords s t
      ∧ ∃ e, ∃ j ∈ (t.port n).items, j.id = i.id ∧ j.pair = some k ∧ j.cut = s.cutPair k ∧ j.entry = some e
        ∧ ∃ x, t.entry e = some x ∧ x.valueA = BitVec.ofNat 64 v ∧ x.valueB = BitVec.ofNat 64 (s.nextValue ws) := by
  obtain ⟨e, ⟨same, words⟩, entry, j, hj, ⟨hid, hpair, hcut⟩, he⟩ := (bridleAccept_takes sorted ready).runM rfl
  exact ⟨_, run, same, words, e, j, hj, hid, hpair, hcut, he, entry⟩

end Sys2Proof.Machine
end

section
/-! O29: the commands of Bridle pairs, frames and loops. -/
namespace Sys2Proof.Machine
open Sys2Proof

/-- Settles O29. Pairs and loops are read off the accepted write and what their rule stores; a frame's acceptance goes along the one path that
a ready frame takes, each step keeping what the frame, its item and its entry hold; an underrun is what follows ERR on the final beat. -/
theorem bridleCommands : Obligations.BridleCommands := by
  refine ⟨fun s rid k => ⟨fun ok en off on => ?_, fun ok _ active => pairEn_leaves ok active⟩, fun s rid j v ok => bridleLoop_acts s rid j v ok,
    ?_, fun s port i found own => bridleUnderrun_ends found own⟩
  · obtain ⟨t, run, ⟨state, bad, shows⟩, same, words⟩ := pairEn_enters ok en off on
    exact ⟨t, run, state, bad, shows, same, words⟩
  · intro s port i c k loc v ws wf
    dsimp only
    have sorted : msorted none s.assoc = true := by
      obtain ⟨-, -, -, -, -, -, -, -, -, -, -, -, -, assoc, -⟩ := wf
      exact (Bool.and_eq_true_iff.1 assoc).1
    refine ⟨fun ready held whole => ?_, fun ready held cut lead => ?_, fun ready held => ?_⟩
    · exact whole ▸ bridleReady_accepts sorted ready (bridleHoldAccept_eq ready.1 held whole)
    · exact cut ▸ bridleReady_accepts sorted ready (bridleCutAccept_eq ready.1 held cut lead)
    · exact bridleReady_accepts sorted ready (outHeldRelease_eq ready.1 held)

end Sys2Proof.Machine
end

section
/-! What no effect of a host write undoes: the entries on their way to a sink and the counts of events (R590, R597). -/
namespace Sys2Proof.Machine
open Sys2Proof

/-- Nothing on its way to a sink in `t` is lost in `u`, and no event counted in `t` is forgotten. -/
structure Onward (t u : State) : Prop where
  entries : ∀ w ∈ t.chron.writer ++ t.chron.hold, w ∈ u.chron.writer ++ u.chron.hold
  counts : ∀ code, t.counts code → u.counts code

theorem Onward.refl (t : State) : Onward t t := ⟨fun _ h => h, fun _ h => h⟩

theorem Onward.trans {t u v : State} (h : Onward t u) (k : Onward u v) : Onward t v :=
  ⟨fun w hw => k.entries w (h.entries w hw), fun c hc => k.counts c (h.counts c hc)⟩

theorem Onward.of_eq {t u : State} (hw : u.chron.writer = t.chron.writer) (hh : u.chron.hold = t.chron.hold) (hc : u.counted = t.counted) :
    Onward t u :=
  ⟨fun w h => by rwa [hw, hh], fun c h => by rwa [State.counts, hc]⟩

theorem Records.onward {t u : State} (h : Records t u) : Onward t u := by
  refine ⟨fun v hv => ?_, fun c hc => h.counts hc⟩
  cases h with
  | reg | stamp | count => exact hv
  | hold => simpa [or_assoc] using Or.inl (List.mem_append.1 hv)
  | write => rcases List.mem_append.1 hv with hv | hv <;> simp [hv]

variable {α β γ : Type}

/-- A program that lets go of nothing on its way and of no count. -/
def Lasts (m : M α) : Prop := ∀ t, Keeps (Onward t) m

theorem records_onward (o : State) : ∀ t u, Records t u → Onward o t → Onward o u := fun _ _ h k => k.trans h.onward

/-! ### The rules by which a program is followed -/

theorem lasts_pure (a : α) : Lasts (pure a : M α) := fun _ => keeps_pure a

theorem lasts_getS : Lasts getS := fun _ => keeps_getS

theorem lasts_rd (x : RegField) : Lasts (rd x) := fun _ => keeps_rd x

theorem Lasts.then {m : M β} {k : β → M α} (hm : Lasts m) (hk : ∀ b, Lasts (k b)) : Lasts (m >>= k) :=
  fun t => keeps_bind (hm t) fun b => hk b t

theorem lasts_get {k : State → M α} (h : ∀ s, Lasts (k s)) : Lasts (getS >>= k) := lasts_getS.then h

theorem lasts_forM (xs : List γ) {k : γ → M Unit} (h : ∀ x, Lasts (k x)) : Lasts (forM xs k) := fun t => keeps_forM xs fun x => h x t

section Branches
variable {c : Prop} [Decidable c]

theorem lasts_ite {m n : M α} (hm : c → Lasts m) (hn : ¬ c → Lasts n) : Lasts (if c then m else n) := by
  split
  · exact hm ‹_›
  · exact hn ‹_›

theorem lasts_if {m n : M α} (hm : Lasts m) (hn : Lasts n) : Lasts (if c then m else n) := lasts_ite (fun _ => hm) fun _ => hn

/-- One action under a condition, then the rest. -/
theorem lasts_when {m : M Unit} {k : Unit → M α} (hm : Lasts m) (hk : ∀ b, Lasts (k b)) : Lasts (if c then m >>= k else k ()) :=
  lasts_if (hm.then hk) (hk ())

/-- Two actions under a condition, then the rest. -/
theorem lasts_when_do {m : M β} {n : β → M Unit} {k : Unit → M α} (hm : Lasts m) (hn : ∀ b, Lasts (n b)) (hk : ∀ b, Lasts (k b)) :
    Lasts (if c then m >>= fun b => n b >>= k else k ()) :=
  lasts_if (hm.then fun b => (hn b).then hk) (hk ())

/-- One action under a condition, its answer dropped, then the rest. -/
theorem lasts_when_drop {m : M β} {n : M α} (hm : Lasts m) (hn : Lasts n) : Lasts (if c then m >>= fun _ => n else n) :=
  lasts_if (hm.then fun _ => hn) hn

/-- One of two actions, then the rest. -/
theorem lasts_either {m n : M β} {k : β → M α} (hm : Lasts m) (hn : Lasts n) (hk : ∀ b, Lasts (k b)) :
    Lasts (if c then m >>= k else n >>= k) :=
  lasts_if (hm.then hk) (hn.then hk)

end Branches

/-- A change of neither the chronicle nor the counts. -/
def Prim.apart : Prim → Bool
  | .chron _ | .counted _ _ => false
  | _ => true

theorem Prim.apart.onward {p : Prim} (h : p.apart = true) (t : State) : Onward t (p.run t) := by
  cases p with
  | chron | counted => cases h
  | _ => exact .of_eq rfl rfl rfl

theorem lasts_prim {p : Prim} (h : p.apart = true) : Lasts (prim p) := fun _ => keeps_prim fun t k => k.trans (Prim.apart.onward h t)

/-! ### The recorder -/

theorem lasts_wr (x : RegField) (v : Nat) : Lasts (wr x v) := fun t => keeps_recorder_wr (records_onward t) x v

theorem lasts_bump (x : RegField) : Lasts (bump x) := fun t => keeps_bump (records_onward t) x

theorem lasts_wrBit (x : RegField) (i : Nat) (b : Bool) : Lasts (wrBit x i b) := fun t => keeps_wrBit (records_onward t) x i b

theorem lasts_stamp : Lasts stamp := fun t => keeps_stamp (records_onward t)

theorem lasts_setEvent (e : PageEvent) : Lasts (setEvent e) := fun t => keeps_setEvent (records_onward t) e

theorem lasts_raiseItem (st : Stamp) (page : Nat) (req code : BitVec 16) (l : List (BitVec 96)) (c : EntryClass) (audit : Bool) :
    Lasts (raiseItem st page req code l c audit) := fun t => keeps_raiseItem (records_onward t) st page req code l c audit

theorem lasts_pageEntry (page : Nat) (code : BitVec 16) (l : List (BitVec 96)) (c : EntryClass) : Lasts (pageEntry page code l c) :=
  fun t => keeps_pageEntry (records_onward t) page code l c

theorem lasts_auditEntry (page : Nat) (code : BitVec 16) (l : List (BitVec 96)) (c : EntryClass) : Lasts (auditEntry page code l c) :=
  fun t => keeps_auditEntry (records_onward t) page code l c

theorem lasts_raise (e : PageEvent) (c : EntryClass) : Lasts (raise e c) := fun t => keeps_raise (records_onward t) e c

theorem lasts_setCond (e : PageEvent) (b : Bool) (c : EntryClass) : Lasts (setCond e b c) := fun t => keeps_setCond (records_onward t) e b c

/-! ### Changes of the chronicle -/

/-- From a state with this chronicle the program lets go of nothing on its way and of no count. -/
def LastsFrom (c : ChronState) (m : M α) : Prop := ∀ o, Leads (fun t => t.chron = c ∧ Onward o t) m fun _ => Onward o

section LastsFrom
variable {c d : ChronState}

theorem Lasts.from {m : M α} (h : Lasts m) : LastsFrom c m := fun o => (h o).mono (fun _ k => k.2) fun _ _ k => k

theorem lastsFrom_chron (hw : d.writer = c.writer) (hh : d.hold = c.hold) : LastsFrom c (prim (.chron d)) := by
  refine fun o => leads_prim ?_
  rintro t ⟨rfl, ht⟩
  exact ht.trans (.of_eq hw hh rfl)

theorem LastsFrom.then {m : M β} {k : β → M α} (hm : LastsFrom c m) (hk : ∀ b, Lasts (k b)) : LastsFrom c (m >>= k) :=
  fun o => leads_bind (hm o) fun b => hk b o

theorem Lasts.thenFrom {m : M β} {k : β → M α} (hm : Lasts m) (still : Keeps (fun t => t.chron = c) m) (hk : ∀ b, LastsFrom c (k b)) :
    LastsFrom c (m >>= k) := fun o => leads_bind (fun s l h => ⟨still s l h.1, hm o s l h.2⟩) fun b => hk b o

theorem lastsFrom_if {q : Prop} [Decidable q] {m n : M α} (hm : LastsFrom c m) (hn : LastsFrom c n) : LastsFrom c (if q then m else n) :=
  fun o => leads_ite (fun _ => hm o) fun _ => hn o

/-- A read gives the chronicle that is changed next. -/
theorem lasts_getChron {k : State → M α} (h : ∀ s, LastsFrom s.chron (k s)) : Lasts (getS >>= k) := by
  refine fun o => leads_getS fun s => (h s o).mono ?_ fun _ _ k => k
  rintro t ⟨rfl, ht⟩
  exact ⟨rfl, ht⟩

end LastsFrom

theorem withBanks_writer (c : ChronState) (b : Bool) (f d : TraceBank) : (c.withBanks b f d).writer = c.writer := by
  unfold ChronState.withBanks
  split <;> rfl

theorem withBanks_hold (c : ChronState) (b : Bool) (f d : TraceBank) : (c.withBanks b f d).hold = c.hold := by
  unfold ChronState.withBanks
  split <;> rfl
end Sys2Proof.Machine
end

section
/-! No entry on its way is lost: the operations of the state, the command units and the trace. -/
namespace Sys2Proof.Machine
open Sys2Proof

theorem lasts_wrWord (a : Nat) (w : Word) : Lasts (wrWord a w) := lasts_prim rfl

theorem lasts_bumpBy (f : RegField) (n : Nat) : Lasts (bumpBy f n) := (lasts_rd _).then fun _ => lasts_wr _ _

theorem lasts_bumpMod (f : RegField) : Lasts (bumpMod f) := (lasts_rd _).then fun _ => lasts_wr _ _

theorem lasts_wrMax (f : RegField) (v : Nat) : Lasts (wrMax f v) := (lasts_rd _).then fun _ => lasts_if (lasts_wr _ _) (lasts_pure _)

theorem lasts_emit (o : Out) : Lasts (emit o) := lasts_prim rfl

theorem lasts_fresh : Lasts fresh := lasts_get fun _ => (lasts_prim rfl).then fun _ => lasts_pure _

theorem lasts_freshPayload : Lasts freshPayload := lasts_fresh.then fun _ => lasts_fresh.then fun _ => lasts_pure _

theorem lasts_setDomain (d : Nat) (b : Bool) : Lasts (setDomain d b) := lasts_wrBit _ _ _

theorem lasts_raiseNamed (e : PageEvent) (code : BitVec 16) (payloads : List (BitVec 96)) (cls : EntryClass) :
    Lasts (raiseNamed e code payloads cls) :=
  (lasts_setEvent _).then fun _ => lasts_pageEntry _ _ _ _

theorem lasts_raiseQuiet (e : PageEvent) : Lasts (raiseQuiet e) := (lasts_setEvent _).then fun _ => lasts_pure _

theorem lasts_setCondQuiet (e : PageEvent) (level : Bool) : Lasts (setCondQuiet e level) :=
  lasts_if ((lasts_setEvent _).then fun _ => lasts_pure _) (lasts_wrBit _ _ _)

theorem lasts_countGust (unit limit ms : Nat) : Lasts (countGust unit limit ms) := lasts_get fun _ => (lasts_prim rfl).then fun _ => lasts_pure _

theorem lasts_setPageState (p : Nat) (st : Nat) (forced : Bool) : Lasts (setPageState p st forced) :=
  (lasts_wr _ _).then fun _ => (lasts_raiseQuiet _).then fun _ => lasts_get fun _ => lasts_pageEntry _ _ _ _

theorem lasts_cmdEnd (u : CmdUnit) (code : Nat) : Lasts (cmdEnd u code) := by
  refine lasts_get fun _ => (lasts_wr _ _).then fun _ => (lasts_prim rfl).then fun _ => (lasts_wr _ _).then fun _ => ?_
  split
  · exact lasts_raise _ _
  · exact lasts_pure _

theorem lasts_cmdStop (u : CmdUnit) (code : Nat) : Lasts (cmdStop u code) := (lasts_rd _).then fun _ => lasts_if (lasts_cmdEnd _ _) (lasts_pure _)

theorem lasts_cmdStart (u : CmdUnit) {body : M Unit} (hbody : Lasts body) : Lasts (cmdStart u body) :=
  (lasts_rd _).then fun _ => lasts_if (lasts_prim rfl) ((lasts_wr _ _).then fun _ => hbody)

theorem lasts_cmdActive (u : CmdUnit) {body : M Unit} (hbody : Lasts body) : Lasts (cmdActive u body) :=
  lasts_cmdStart _ (lasts_get fun _ => lasts_if hbody (lasts_cmdEnd _ _))

theorem lasts_askRandom (cls : RandClass) (user : RandUser) (bytes : Nat) : Lasts (askRandom cls user bytes) :=
  lasts_get fun _ => (lasts_prim rfl).then fun _ => lasts_if (lasts_wr _ _) (lasts_pure _)

theorem lasts_readDram (d : Dram) (a n : Nat) (rid : BitVec 12) : Lasts (readDram d a n rid) :=
  (lasts_forM _ fun _ => lasts_emit _).then fun _ => lasts_pure _

theorem lasts_dramWrite (d : Dram) (a : Nat) (b : Bytes) (rid : BitVec 12) : Lasts (dramWrite d a b rid) :=
  (lasts_forM _ fun _ => lasts_emit _).then fun _ => lasts_pure _

theorem lasts_auditLevel : Lasts auditLevel := lasts_get fun _ => lasts_setCond _ _ _

theorem lasts_raiseSeal : Lasts raiseSeal := lasts_stamp.then fun _ => lasts_raiseItem _ _ _ _ _ _ _

theorem lasts_traceLevel : Lasts traceLevel := by
  have still (c : ChronState) (x : RegField) (v : Nat) : Keeps (fun t => t.chron = c) (wrMax x v) :=
    keeps_bind (keeps_rd _) fun _ => keeps_ite (keeps_wr _ fun _ _ _ h => h) (keeps_pure _)
  exact lasts_getChron fun s => (lasts_wrMax _ _).thenFrom (still s.chron _ _) fun _ =>
    lastsFrom_if ((lastsFrom_chron (by rfl) (by rfl)).then fun _ => lasts_raise _ _)
      (lastsFrom_if ((lastsFrom_chron (by rfl) (by rfl)).then fun _ => lasts_raise _ _) (lasts_pure _).from)

theorem lasts_traceSwitch : Lasts traceSwitch := by
  refine lasts_getChron fun _ => ?_
  extract_lets
  split
  have counted (n : Nat) : Lasts (if n ≠ 0 then bumpBy R.CHRON_TRACE_LOST.COUNT n >>= fun _ => raise E.CHRON.TRACE_LOST else pure ()) :=
    lasts_if ((lasts_bumpBy _ _).then fun _ => lasts_raise _ _) (lasts_pure _)
  refine (lastsFrom_chron (by exact withBanks_writer _ _ _ _) (by exact withBanks_hold _ _ _ _)).then fun _ => ?_
  exact lasts_if ((lasts_wr _ _).then fun _ => counted _) (counted _)

theorem lasts_tracePut (ws : List Word) : Lasts (tracePut ws) :=
  lasts_getChron fun _ => lastsFrom_chron (withBanks_writer _ _ _ _) (withBanks_hold _ _ _ _)

theorem lasts_traceOpen (continued : Bool) : Lasts (traceOpen continued) :=
  lasts_getChron fun _ => (lastsFrom_chron (by rfl) (by rfl)).then fun _ => lasts_tracePut _

theorem lasts_traceClose (truncated : Bool) : Lasts (traceClose truncated) := by
  refine lasts_getChron fun _ => ?_
  extract_lets
  split
  · exact (lasts_pure _).from
  · exact lastsFrom_chron (withBanks_writer _ _ _ _) (withBanks_hold _ _ _ _)

theorem lasts_traceSplit : Lasts traceSplit :=
  (lasts_traceClose _).then fun _ => lasts_traceSwitch.then fun _ => (lasts_bump _).then fun _ => lasts_traceOpen _

end Sys2Proof.Machine
end

section
/-! No entry on its way is lost: key slots and nodes, alarms and wakes, Cellar entries, and the registers that show use. -/
namespace Sys2Proof.Machine
open Sys2Proof

theorem lasts_countUse (n : Nat) : Lasts (countUse n) := by
  refine lasts_get fun _ => ?_
  split
  · exact lasts_pure _
  · split
    · exact lasts_prim rfl
    · exact lasts_prim rfl

theorem lasts_keyOccupancy : Lasts keyOccupancy :=
  lasts_get fun _ => (lasts_wr _ _).then fun _ => (lasts_wr _ _).then fun _ => (lasts_wr _ _).then fun _ => lasts_wr _ _

theorem lasts_setSlot (n : Nat) (l : Slot) : Lasts (setSlot n l) := (lasts_prim rfl).then fun _ => lasts_keyOccupancy

theorem lasts_setNode (n : Nat) (k : Node) : Lasts (setNode n k) := (lasts_prim rfl).then fun _ => lasts_keyOccupancy

theorem lasts_loadSlot (n : Nat) (type : Nat) (tenant : BitVec 3) (m : Bytes) (policy : Word) (prov : Prov) (node : Option Nat)
    (entry : Option Nat) : Lasts (loadSlot n type tenant m policy prov node entry) := by
  refine lasts_get fun _ => ?_
  extract_lets -underBinder l b wasEmpty j
  have hj : Lasts j := by
    unfold j
    split
    · exact lasts_get fun _ => lasts_setNode _ _
    · exact lasts_pure _
  exact lasts_if ((lasts_setSlot _ _).then fun _ => lasts_if ((lasts_setSlot _ _).then fun _ => hj.then fun _ =>
    lasts_pure _) (hj.then fun _ => lasts_pure _)) (lasts_if ((lasts_setSlot _ _).then fun _ =>
    lasts_pure _) ((lasts_setSlot _ _).then fun _ => lasts_if ((lasts_setSlot _ _).then fun _ => hj.then fun _ =>
    lasts_pure _) (hj.then fun _ => lasts_pure _)))

theorem lasts_raiseClk (c : Clk) : Lasts (raiseClk c) := lasts_get fun _ => lasts_if (lasts_prim rfl) (lasts_pure _)

theorem lasts_writeWakes : Lasts writeWakes := lasts_get fun _ => (lasts_prim rfl).then fun _ => lasts_forM _ fun _ => lasts_auditEntry _ _ _ _

theorem lasts_startAscent : Lasts startAscent :=
  (lasts_wr _ _).then fun _ => (lasts_wr _ _).then fun _ => lasts_get fun _ => (lasts_prim rfl).then fun _ =>
    (lasts_raiseClk _).then fun _ => (lasts_raiseClk _).then fun _ => (lasts_setDomain _ _).then fun _ => lasts_writeWakes

theorem lasts_abortDescent : Lasts abortDescent :=
  (lasts_wr _ _).then fun _ => (lasts_wr _ _).then fun _ => (lasts_bump _).then fun _ => lasts_raise _ _

theorem lasts_logWake (code chan detail : Nat) (late abort : Bool) : Lasts (logWake code chan detail late abort) :=
  lasts_stamp.then fun _ => (lasts_rd _).then fun _ => (lasts_rd _).then fun _ => (lasts_wr _ _).then fun _ => (lasts_wr _ _).then fun _ =>
    (lasts_wr _ _).then fun _ => (lasts_wr _ _).then fun _ => (lasts_wr _ _).then fun _ => (lasts_wr _ _).then fun _ =>
    (lasts_wr _ _).then fun _ => (lasts_wr _ _).then fun _ => lasts_if ((lasts_wr _ _).then fun _ => lasts_get fun _ =>
    (lasts_prim rfl).then fun _ => lasts_raiseQuiet _) ((lasts_bump _).then fun _ => lasts_get fun _ => (lasts_prim rfl).then fun _ =>
    lasts_raiseQuiet _)

theorem lasts_wakeBy (code chan detail : Nat) : Lasts (wakeBy code chan detail) :=
  lasts_get fun _ => lasts_if (lasts_pure _) ((lasts_logWake _ _ _ _ _).then fun _ =>
    lasts_if lasts_startAscent (lasts_if (lasts_if lasts_abortDescent (lasts_wr _ _)) (lasts_pure _)))

theorem lasts_unitAlarm (page grade : Nat) : Lasts (unitAlarm page grade) :=
  (lasts_auditEntry _ _ _ _).then fun _ => lasts_if (lasts_wakeBy _ _ _) (lasts_pure _)

theorem lasts_pageToFault (p : Nat) : Lasts (pageToFault p) :=
  lasts_get fun _ => lasts_if ((lasts_wr _ _).then fun _ => (lasts_raiseQuiet _).then fun _ => lasts_setPageState _ _ _) (lasts_pure _)

theorem lasts_singleLane : Lasts singleLane :=
  lasts_get fun _ => lasts_if (lasts_get fun _ => lasts_forM _ fun _ => (lasts_forM _ fun _ => (lasts_bump _).then fun _ =>
    lasts_raise _ _).then fun _ => lasts_if (lasts_prim rfl) (lasts_pure _)) (lasts_pure _)

theorem lasts_laneRefresh : Lasts laneRefresh :=
  lasts_get fun _ => (lasts_wr _ _).then fun _ => (lasts_wr _ _).then fun _ => (lasts_wr _ _).then fun _ => (lasts_wr _ _).then fun _ =>
    (lasts_wr _ _).then fun _ => (lasts_wr _ _).then fun _ => (lasts_setCond _ _ _).then fun _ => (lasts_setCond _ _ _).then fun _ =>
    lasts_if ((lasts_unitAlarm _ _).then fun _ => lasts_singleLane) lasts_singleLane

theorem lasts_cellarOccupancy : Lasts cellarOccupancy :=
  lasts_get fun _ => lasts_when (lasts_wr _ _) fun _ => (lasts_wr _ _).then fun _ => (lasts_wr _ _).then fun _ =>
    (lasts_wr _ _).then fun _ => (lasts_wr _ _).then fun _ => lasts_prim rfl

theorem lasts_setEntry (n : Nat) (e : CEntry) : Lasts (setEntry n e) := lasts_prim rfl

theorem lasts_modEntry (n : Nat) (f : CEntry → CEntry) : Lasts (modEntry n f) := by
  refine lasts_get fun _ => ?_
  split
  · exact lasts_setEntry _ _
  · exact lasts_pure _

theorem lasts_freeEntry (n : Nat) : Lasts (freeEntry n) :=
  (lasts_prim rfl).then fun _ => lasts_get fun _ => lasts_if ((lasts_prim rfl).then fun _ => lasts_if ((lasts_raise _ _).then fun _ =>
    lasts_laneRefresh.then fun _ => lasts_cellarOccupancy) lasts_cellarOccupancy) lasts_cellarOccupancy

theorem lasts_abortEntry (e : CEntry) : Lasts (abortEntry e) := lasts_if (lasts_auditEntry _ _ _ _) (lasts_pure _)

theorem lasts_setTokens (t : Nat) (v : Int) : Lasts (setTokens t v) := (lasts_wr _ _).then fun _ => lasts_get fun _ => lasts_wr _ _

theorem lasts_takeToken (t : Nat) : Lasts (takeToken t) := lasts_get fun _ => lasts_setTokens _ _

theorem lasts_raiseTenant (e : PageEvent) (q t : Nat) (named : Option (BitVec 16 × BitVec 96)) : Lasts (raiseTenant e q t named) := by
  refine (lasts_setEvent _).then fun _ => lasts_get fun _ => ?_
  split
  exact lasts_stamp.then fun _ => (lasts_raiseItem _ _ _ _ _ _ _).then fun _ => lasts_takeToken _

theorem lasts_tenantRefresh (t : Nat) : Lasts (tenantRefresh t) :=
  lasts_get fun _ => (lasts_wr _ _).then fun _ => (lasts_wr _ _).then fun _ => (lasts_wr _ _).then fun _ => (lasts_wr _ _).then fun _ =>
    (lasts_wr _ _).then fun _ => (lasts_wr _ _).then fun _ => (lasts_wr _ _).then fun _ => (lasts_wr _ _).then fun _ =>
    (lasts_wr _ _).then fun _ => lasts_setCond _ _ _

theorem lasts_tenantsRefresh : Lasts tenantsRefresh := lasts_forM _ fun _ => lasts_tenantRefresh _

theorem lasts_pairRefresh (q : Nat) : Lasts (pairRefresh q) :=
  lasts_get fun _ => (lasts_wr _ _).then fun _ => (lasts_wr _ _).then fun _ => lasts_tenantRefresh _

theorem lasts_setDescs (q : Nat) (ds : List QDesc) : Lasts (setDescs q ds) := (lasts_prim rfl).then fun _ => lasts_pairRefresh _

theorem lasts_cacheRefresh : Lasts cacheRefresh :=
  lasts_get fun _ => (lasts_wr _ _).then fun _ => (lasts_wr _ _).then fun _ => (lasts_setCond _ _ _).then fun _ => lasts_prim rfl

theorem lasts_dropLines (tag : Bool) (f : CacheLine → Bool) : Lasts (dropLines tag f) :=
  lasts_get fun _ => (lasts_prim rfl).then fun _ => lasts_cacheRefresh

theorem lasts_overflowRefresh : Lasts overflowRefresh := lasts_get fun _ => (lasts_wrMax _ _).then fun _ => lasts_setCond _ _ _

theorem lasts_kilnRefresh : Lasts kilnRefresh := by
  refine lasts_get fun _ => (lasts_wr _ _).then fun _ => (lasts_setCond _ _ _).then fun _ => (lasts_setCond _ _ _).then fun _ => ?_
  split
  · exact lasts_pure _
  · exact (lasts_wr _ _).then fun _ => (lasts_wr _ _).then fun _ => (lasts_wr _ _).then fun _ => (lasts_wr _ _).then fun _ => lasts_wr _ _

theorem lasts_setPasses (l : List Pass) : Lasts (setPasses l) := (lasts_prim rfl).then fun _ => lasts_kilnRefresh

end Sys2Proof.Machine
end

section
/-! No entry on its way is lost: ports and their items, and what is aborted. -/
namespace Sys2Proof.Machine
open Sys2Proof

theorem lasts_heldRefresh : Lasts heldRefresh := lasts_get fun _ => (lasts_wr _ _).then fun _ => lasts_setCond _ _ _

theorem lasts_portRefresh (n : Nat) : Lasts (portRefresh n) :=
  lasts_get fun _ => (lasts_prim rfl).then fun _ => (lasts_wr _ _).then fun _ => (lasts_wrMax _ _).then fun _ =>
    lasts_when (lasts_raise _ _) fun _ => lasts_when (lasts_raise _ _) fun _ => (lasts_wr _ _).then fun _ => (lasts_wr _ _).then fun _ =>
    (lasts_wr _ _).then fun _ => (lasts_wr _ _).then fun _ => lasts_heldRefresh

theorem lasts_setItems (n : Nat) (l : List SItem) : Lasts (setItems n l) := lasts_get fun _ => (lasts_prim rfl).then fun _ => lasts_portRefresh _

theorem lasts_modItem (n id : Nat) (f : SItem → SItem) : Lasts (modItem n id f) := lasts_get fun _ => lasts_setItems _ _

theorem lasts_growItem (n : Nat) (i : SItem) (bytes : Bytes) : Lasts (growItem n i bytes) := lasts_get fun _ => lasts_modItem _ _ _

theorem lasts_dropItem (n id : Nat) : Lasts (dropItem n id) := lasts_get fun _ => lasts_setItems _ _

theorem lasts_dropOrSkip (n : Nat) (i : SItem) : Lasts (dropOrSkip n i) := lasts_if (lasts_modItem _ _ _) (lasts_dropItem _ _)

theorem lasts_writeLength (n : Nat) (i : SItem) (bits : Nat) : Lasts (writeLength n i bits) := lasts_get fun _ => lasts_prim rfl

theorem lasts_noteVoid (n : Nat) : Lasts (noteVoid n) := (lasts_bumpMod _).then fun _ => (lasts_wr _ _).then fun _ => lasts_raise _ _

theorem lasts_noteTrunc (n : Nat) : Lasts (noteTrunc n) := (lasts_bumpMod _).then fun _ => (lasts_wr _ _).then fun _ => lasts_raise _ _

theorem lasts_startNext (o : Nat) : Lasts (startNext o) := by
  refine lasts_get fun _ => lasts_if ?_ (lasts_pure _)
  extract_lets
  split
  · exact lasts_if (lasts_prim rfl) ((lasts_modItem _ _ _).then fun _ => lasts_get fun _ => lasts_prim rfl)
  · exact lasts_pure _

theorem lasts_newItem (n : Nat) (tx : Bool) : Lasts (newItem n tx) :=
  lasts_get fun _ => (lasts_prim rfl).then fun _ => (lasts_setItems _ _).then fun _ => lasts_pure _

theorem lasts_setBlock (b : Block) (st : Nat) : Lasts (setBlock b st) := (lasts_wr _ _).then fun _ => lasts_get fun _ => lasts_raiseNamed _ _ _ _

theorem lasts_blockEnable (b : Block) (old en mayEnter : Bool) {drain on : M Unit} (hdrain : Lasts drain) (hon : Lasts on) :
    Lasts (blockEnable b old en mayEnter drain on) :=
  (lasts_rd _).then fun _ => lasts_if (lasts_if ((lasts_setBlock _ _).then fun _ =>
    hon) (lasts_pure _)) (lasts_if (lasts_if ((lasts_setBlock _ _).then fun _ =>
    hdrain) (lasts_pure _)) (lasts_if (lasts_if (lasts_wr _ _) (lasts_pure _)) (lasts_pure _)))

theorem lasts_putBlock (f : Nat → Nat → RegField) (c k : Nat) (b : Bytes) : Lasts (putBlock f c k b) := lasts_forM _ fun _ => lasts_wr _ _

theorem lasts_looseLate (c : Nat) : Lasts (looseLate c) := lasts_get fun _ => (lasts_prim rfl).then fun _ => lasts_forM _ fun _ => lasts_wrWord _ _

theorem lasts_looseBind (c : Nat) : Lasts (looseBind c) := by
  refine lasts_get fun _ => ?_
  split
  · exact (lasts_wr _ _).then fun _ => lasts_wr _ _
  · exact (lasts_wr _ _).then fun _ => lasts_wr _ _

theorem lasts_looseEnd (c status : Nat) (isOp : Bool) : Lasts (looseEnd c status isOp) := by
  refine lasts_get fun _ => (lasts_wr _ _).then fun _ => (lasts_wr _ _).then fun _ => (lasts_prim rfl).then fun _ => ?_
  extract_lets -underBinder j
  have hj : ∀ r, Lasts (j r) := by
    intro r
    unfold j
    exact lasts_if (lasts_if ((lasts_bumpMod _).then fun _ => lasts_raise _ _) (lasts_raise _ _)) ((lasts_bump _).then fun _ =>
      (lasts_raise _ _).then fun _ => lasts_raise _ _)
  exact lasts_if ((lasts_looseLate _).then fun _ => lasts_if ((lasts_looseBind _).then hj) (hj ())) (hj ())

theorem lasts_unitCount (u : StorUnit) (st : Nat) : Lasts (unitCount u st) :=
  lasts_if (lasts_bumpMod _) (lasts_if ((lasts_bump _).then fun _ => lasts_raise _ _) (lasts_if ((lasts_bump _).then fun _ =>
    (lasts_bump _).then fun _ => lasts_raise _ _) ((lasts_bump _).then fun _ => (lasts_bump _).then fun _ => lasts_raise _ _)))

theorem lasts_releaseList : ∀ l : List StorUnit, Lasts (releaseList l)
  | [] => lasts_prim rfl
  | _ :: r => by
    unfold releaseList
    split
    · exact lasts_prim rfl
    · refine (lasts_emit _).then fun _ => (lasts_unitCount _ _).then fun _ => ?_
      split
      · exact (lasts_freeEntry _).then fun _ => lasts_releaseList r
      · exact lasts_releaseList r

theorem lasts_storRelease : Lasts storRelease := lasts_get fun _ => lasts_releaseList _

theorem lasts_refuseUnits (f : StorUnit → Bool) : Lasts (refuseUnits f) := lasts_get fun _ => (lasts_prim rfl).then fun _ => lasts_storRelease

theorem lasts_partCmdEnd (p code : Nat) : Lasts (partCmdEnd p code) := lasts_get fun _ => lasts_if (lasts_cmdEnd _ _) (lasts_pure _)

theorem lasts_dropPart (p outcome : Nat) : Lasts (dropPart p outcome) :=
  lasts_get fun _ => lasts_if ((lasts_wr _ _).then fun _ => (lasts_wr _ _).then fun _ => (lasts_prim rfl).then fun _ =>
    (lasts_raise _ _).then fun _ => lasts_partCmdEnd _ _) (lasts_pure _)

theorem lasts_dropTables (n : Nat) : Lasts (dropTables n) := lasts_get fun _ => lasts_forM _ fun _ => lasts_if (lasts_dropPart _ _) (lasts_pure _)

theorem lasts_dropHeld (n : Nat) (newOnly : Bool) : Lasts (dropHeld n newOnly) :=
  (lasts_dropLines _ _).then fun _ => (lasts_dropLines _ _).then fun _ => lasts_get fun _ => (lasts_prim rfl).then fun _ => lasts_overflowRefresh

theorem lasts_endPasses (n : Nat) : Lasts (endPasses n) :=
  lasts_get fun _ => lasts_if ((lasts_dropHeld _ _).then fun _ => (lasts_setPasses _).then fun _ => lasts_raise _ _) (lasts_pure _)

theorem lasts_poisonRegion (n : Nat) : Lasts (poisonRegion n) :=
  (lasts_wr _ _).then fun _ => (lasts_endPasses _).then fun _ => (lasts_dropHeld _ _).then fun _ => lasts_get fun _ =>
    lasts_if ((lasts_prim rfl).then fun _ => (lasts_cmdEnd _ _).then fun _ => lasts_dropTables _) (lasts_dropTables _)

theorem lasts_answerTxn (t : MemTxn) (r : MemResp) : Lasts (answerTxn t r) := lasts_if (lasts_emit _) (lasts_emit _)

theorem lasts_abortEntries : Lasts abortEntries :=
  lasts_get fun _ => (lasts_forM _ fun _ => (lasts_abortEntry _).then fun _ => lasts_prim rfl).then fun _ => lasts_get fun _ =>
    (lasts_prim rfl).then fun _ => lasts_cellarOccupancy

theorem lasts_abortAll : Lasts abortAll := by
  refine lasts_abortEntries.then fun _ => lasts_get fun _ => (lasts_forM _ fun _ => lasts_answerTxn _ _).then fun _ =>
    (lasts_prim rfl).then fun _ => (lasts_refuseUnits _).then fun _ => (lasts_forM _ fun _ => lasts_forM _ fun _ =>
    lasts_if (lasts_dropOrSkip _ _) (lasts_pure _)).then fun _ => (lasts_forM _ fun _ => lasts_setDescs _ _).then fun _ =>
    (lasts_forM _ fun _ => ?_).then fun _ => (lasts_prim rfl).then fun _ => (lasts_prim rfl).then fun _ => (lasts_forM _ fun _ =>
    lasts_if (lasts_poisonRegion _) (lasts_pure _)).then fun _ => (lasts_forM _ fun _ => lasts_dropPart _ _).then fun _ =>
    lasts_get fun _ => lasts_get fun _ => (lasts_prim rfl).then fun _ => lasts_if ((lasts_cmdStop _ _).then fun _ => lasts_forM _ fun _ =>
    lasts_cmdStop _ _) (lasts_forM _ fun _ => lasts_cmdStop _ _)
  split
  · exact lasts_looseEnd _ _ _
  · exact lasts_pure _

end Sys2Proof.Machine
end

section
/-! No entry on its way is lost: counters, ceilings and bindings. -/
namespace Sys2Proof.Machine
open Sys2Proof

theorem lasts_clampLease : Lasts clampLease := lasts_get fun _ => lasts_wr _ _

theorem lasts_askAnchor (u : AnchorUse) : Lasts (askAnchor u) := lasts_get fun _ => lasts_prim rfl

theorem lasts_leaseFor (next : Nat) : Lasts (leaseFor next) := lasts_get fun _ => lasts_if (lasts_askAnchor _) (lasts_pure _)

theorem lasts_ceilWait (next : Nat) : Lasts (ceilWait next) := (lasts_leaseFor _).then fun _ => (lasts_wr _ _).then fun _ => lasts_setCond _ _ _

theorem lasts_countCeilWait (counted : Bool) : Lasts (countCeilWait counted) := lasts_if (lasts_bump _) (lasts_pure _)

theorem lasts_exhCount : Lasts exhCount := lasts_get fun _ => (lasts_wr _ _).then fun _ => lasts_setCond _ _ _

theorem lasts_noteExhausted (src index cause : Nat) : Lasts (noteExhausted src index cause) :=
  (lasts_wr _ _).then fun _ => (lasts_wr _ _).then fun _ => (lasts_wr _ _).then fun _ => lasts_raise _ _

theorem lasts_setAssoc (loc : Nat) (ws : List Word) : Lasts (setAssoc loc ws) := lasts_prim rfl

theorem lasts_unexhaust (h : Nat) : Lasts (unexhaust h) := by
  refine lasts_get fun _ => lasts_if ((lasts_prim rfl).then fun _ => ?_) (lasts_pure _)
  extract_lets -underBinder j
  have hj : ∀ r, Lasts (j r) := fun _ => lasts_exhCount
  split
  · exact (lasts_setAssoc _ _).then hj
  · exact hj ()

theorem lasts_retryExhausted (h : Nat) : Lasts (retryExhausted h) := lasts_get fun _ => lasts_if (lasts_prim rfl) (lasts_pure _)

theorem lasts_slotFilled (n : Nat) : Lasts (slotFilled n) := by
  refine lasts_get fun _ => lasts_forM _ fun _ => lasts_get fun _ => ?_
  split
  · exact lasts_if (lasts_unexhaust _) (lasts_pure _)
  · exact lasts_pure _

theorem lasts_raiseFloor (v : Nat) : Lasts (raiseFloor v) := lasts_wrMax _ _

theorem lasts_counterMoves (h : Nat) : Lasts (counterMoves h) := by
  refine lasts_get fun _ => ?_
  extract_lets
  split
  · exact lasts_if ((lasts_raiseFloor _).then fun _ => lasts_prim rfl) (lasts_prim rfl)
  · exact lasts_pure _

theorem lasts_releaseBinding (l : Slot) : Lasts (releaseBinding l) := by
  unfold releaseBinding
  split
  · exact lasts_pure _
  · exact lasts_raiseFloor _
  · exact lasts_counterMoves _

theorem lasts_releaseSlot (n : Nat) : Lasts (releaseSlot n) :=
  lasts_get fun _ => lasts_if ((lasts_releaseBinding _).then fun _ => lasts_prim rfl) (lasts_pure _)

theorem lasts_releaseAssoc (h : Nat) : Lasts (releaseAssoc h) :=
  lasts_get fun _ => (lasts_counterMoves _).then fun _ => lasts_forM _ fun _ => lasts_if (lasts_prim rfl) (lasts_pure _)

theorem lasts_switchBad (i : Nat) : Lasts (switchBad i) := (lasts_wr _ _).then fun _ => (lasts_wr _ _).then fun _ => lasts_raise _ _

theorem lasts_switchStamp (i : Nat) : Lasts (switchStamp i) := lasts_stamp.then fun _ => (lasts_wr _ _).then fun _ => lasts_wr _ _

theorem lasts_switchTx (i : Nat) (loc : Nat) (ws : List Word) : Lasts (switchTx i loc ws) :=
  lasts_get fun _ => lasts_if ((lasts_releaseAssoc _).then fun _ => (lasts_setAssoc _ _).then fun _ => (lasts_unexhaust _).then fun _ =>
    lasts_get fun _ => (lasts_prim rfl).then fun _ => (lasts_wr _ _).then fun _ => (lasts_wr _ _).then fun _ =>
    (lasts_switchStamp _).then fun _ => lasts_raise _ _) (lasts_switchBad _)

theorem lasts_reserveInv (n : Nat) : Lasts (reserveInv n) := by
  refine lasts_get fun _ => ?_
  extract_lets
  split
  · exact (lasts_noteExhausted _ _ _).then fun _ => lasts_pure _
  · exact lasts_if ((lasts_noteExhausted _ _ _).then fun _ => lasts_pure _) (lasts_if ((lasts_noteExhausted _ _ _).then fun _ =>
      lasts_pure _) (lasts_if ((lasts_ceilWait _).then fun _ => lasts_pure _) ((lasts_prim rfl).then fun _ =>
      (lasts_leaseFor _).then fun _ => lasts_pure _)))

theorem lasts_putRxState (p : RxPlace) (r : RxState) : Lasts (putRxState p r) := by
  refine lasts_get fun _ => ?_
  split
  · split
    · exact lasts_pure _
    · refine lasts_if (lasts_setAssoc _ _) ((lasts_setAssoc _ _).then fun _ => ?_)
      extract_lets -underBinder j
      have hj : ∀ r, Lasts (j r) := by
        intro r
        unfold j
        refine lasts_if ?_ (lasts_pure _)
        split
        · exact lasts_prim rfl
        · exact lasts_pure _
      split
      · exact (lasts_prim rfl).then hj
      · exact hj ()
  · split
    · exact lasts_prim rfl
    · exact lasts_pure _

end Sys2Proof.Machine
end

section
/-! No entry on its way is lost: what the loss of a key ends. -/
namespace Sys2Proof.Machine
open Sys2Proof

theorem lasts_voidItem (n : Nat) (i : SItem) (cause : Nat) : Lasts (voidItem n i cause) := by
  refine (lasts_writeLength _ _ _).then fun _ => ?_
  extract_lets -underBinder j
  have hj : ∀ r, Lasts (j r) := by
    intro r
    unfold j
    exact (lasts_dropOrSkip _ _).then fun _ => lasts_if ((lasts_noteTrunc _).then fun _ =>
      lasts_cellarOccupancy) ((lasts_noteVoid _).then fun _ => lasts_cellarOccupancy)
  split
  · exact (lasts_freeEntry _).then hj
  · exact hj ()

theorem lasts_loopCut (q : Nat) (out : Bytes) : Lasts (loopCut q out) := by
  refine lasts_get fun _ => lasts_if ((lasts_newItem _ _).then fun _ => lasts_get fun _ => ?_) (lasts_pure _)
  extract_lets item
  clear_value item
  split
  · refine (lasts_growItem _ _ _).then fun _ => lasts_get fun _ => ?_
    split
    · exact lasts_voidItem _ _ _
    · exact lasts_pure _
  · exact lasts_pure _

theorem lasts_cutTxo (o : Nat) (out : Bytes) : Lasts (cutTxo o out) := by
  refine lasts_get fun _ => ?_
  split
  · exact lasts_emit _
  · exact lasts_loopCut _ _

theorem lasts_truncItem (n : Nat) (i : SItem) (more : Nat) : Lasts (truncItem n i more) := by
  refine lasts_get fun _ => (lasts_writeLength _ _ _).then fun _ => lasts_when (lasts_cutTxo _ _) fun _ => ?_
  beta_reduce
  extract_lets -underBinder j
  have hj : ∀ r, Lasts (j r) := by
    intro r
    refine (lasts_dropOrSkip _ _).then fun _ => lasts_if ((lasts_noteTrunc _).then fun _ => ?_) (lasts_startNext _)
    split
    · exact (lasts_bump _).then fun _ => lasts_startNext _
    · exact lasts_startNext _
  split
  · exact (lasts_freeEntry _).then hj
  · exact hj ()

theorem lasts_wipeDst (rid : BitVec 12) (d : QDesc) : Lasts (wipeDst rid d) := lasts_forM _ fun _ => lasts_forM _ fun _ => lasts_emit _

theorem lasts_swapFail (n : Nat) : Lasts (swapFail n) :=
  lasts_get fun _ => lasts_get fun _ => lasts_if ((lasts_prim rfl).then fun _ => (lasts_setCond _ _ _).then fun _ =>
    lasts_cmdStop _ _) (lasts_pure _)

theorem lasts_dropQueuedOf (e : Nat) : Lasts (dropQueuedOf e) :=
  lasts_get fun _ => lasts_forM _ fun _ => lasts_if ((lasts_prim rfl).then fun _ => lasts_swapFail _) (lasts_pure _)

theorem lasts_endDesc (q : Nat) (seq : BitVec 32) (status : Nat) (wipe : Bool) (result : Bytes) : Lasts (endDesc q seq status wipe result) := by
  refine lasts_get fun _ => ?_
  split
  · exact lasts_pure _
  · refine lasts_when (lasts_wipeDst _ _) fun _ => ?_
    beta_reduce
    extract_lets -underBinder j
    have hj : ∀ r, Lasts (j r) := fun _ => (lasts_setDescs _ _).then fun _ => lasts_when_do (lasts_wr _ _) (fun _ => lasts_wr _ _) fun _ =>
      lasts_if ((lasts_bump _).then fun _ => lasts_raiseTenant _ _ _ _) (lasts_pure _)
    split
    · exact (lasts_modEntry _ _).then fun _ => (lasts_prim rfl).then fun _ => (lasts_prim rfl).then fun _ =>
        (lasts_dropQueuedOf _).then fun _ => lasts_get fun _ => (lasts_prim rfl).then hj
    · exact hj ()

theorem lasts_endEntry (e : Nat) (status : Nat) (wipe : Bool) (result : Bytes) : Lasts (endEntry e status wipe result) :=
  lasts_get fun _ => lasts_forM _ fun _ => lasts_forM _ fun _ => lasts_if (lasts_endDesc _ _ _ _ _) (lasts_pure _)

theorem lasts_endQueued (q : QueuedLoad) (status result : Nat) (bytes : Bytes) : Lasts (endQueued q status result bytes) := by
  unfold endQueued
  split
  · exact lasts_endEntry _ _ _ _
  · exact lasts_cmdStop _ _

theorem lasts_dropQueued (n status : Nat) (f : QueuedLoad → Bool) : Lasts (dropQueued n status f) :=
  lasts_get fun _ => lasts_if ((lasts_prim rfl).then fun _ => (lasts_forM _ fun _ =>
    lasts_if (lasts_endQueued _ _ _ _) (lasts_pure _)).then fun _ => lasts_swapFail _) (lasts_pure _)

theorem lasts_loadQueued (n : Nat) : Lasts (loadQueued n) := by
  refine lasts_get fun _ => ?_
  split
  · exact lasts_pure _
  · exact (lasts_prim rfl).then fun _ => (lasts_loadSlot _ _ _ _ _ _ _ _).then fun _ => (lasts_endQueued _ _ _ _).then fun _ =>
      lasts_tenantsRefresh

theorem lasts_loadAllQueued (n : Nat) : Lasts (loadAllQueued n) :=
  lasts_get fun _ => lasts_forM _ fun _ => lasts_get fun _ => lasts_if (lasts_loadQueued _) (lasts_pure _)

theorem lasts_abortHolder (e : Nat) (c : CEntry) : Lasts (abortHolder e c) := by
  refine lasts_get fun _ => ?_
  split
  · exact lasts_forM _ fun _ => lasts_forM _ fun _ => lasts_if (lasts_endDesc _ _ _ _ _) (lasts_pure _)
  · exact lasts_forM _ fun _ => lasts_forM _ fun _ => lasts_if (lasts_if (lasts_truncItem _ _ _) (lasts_voidItem _ _ _)) (lasts_pure _)
  · exact lasts_forM _ fun _ => lasts_forM _ fun _ => lasts_if (lasts_if (lasts_truncItem _ _ _) (lasts_voidItem _ _ _)) (lasts_pure _)
  · exact lasts_forM _ fun _ => lasts_forM _ fun _ => lasts_if (lasts_if (lasts_truncItem _ _ _) (lasts_voidItem _ _ _)) (lasts_pure _)
  · exact lasts_refuseUnits _
  · split
    · exact (lasts_answerTxn _ _).then fun _ => (lasts_prim rfl).then fun _ => (lasts_forM _ fun _ => lasts_freeEntry _).then fun _ =>
        lasts_freeEntry _
    · exact lasts_pure _
  · split
    · exact (lasts_answerTxn _ _).then fun _ => (lasts_prim rfl).then fun _ => (lasts_forM _ fun _ => lasts_freeEntry _).then fun _ =>
        lasts_freeEntry _
    · exact lasts_pure _
  · exact lasts_pure _

theorem lasts_abortHolders (n : Nat) (looseStatus : Nat) (journalled : Bool) : Lasts (abortHolders n looseStatus journalled) := by
  refine lasts_get fun _ => lasts_when (lasts_forM _ fun _ => lasts_if (lasts_abortHolder _ _) (lasts_pure _)) fun _ => lasts_forM _ fun _ => ?_
  split
  · exact lasts_if (lasts_looseEnd _ _ _) (lasts_pure _)
  · exact lasts_pure _

theorem lasts_orphanNodes (ks : List Nat) : Lasts (orphanNodes ks) :=
  (lasts_forM _ fun _ => lasts_get fun _ => (lasts_forM _ fun _ => lasts_get fun _ => (lasts_dropQueued _ _ _).then fun _ =>
    lasts_if (lasts_get fun _ => (lasts_setSlot _ _).then fun _ => lasts_abortHolders _ _ _) (lasts_abortHolders _ _ _)).then fun _ =>
    lasts_setNode _ _).then fun _ => lasts_get fun _ => (lasts_forM _ fun _ => lasts_dropQueued _ _ _).then fun _ =>
    lasts_if ((lasts_raise _ _).then fun _ => lasts_tenantsRefresh) (lasts_pure _)

theorem lasts_emptySlot (n : Nat) : Lasts (emptySlot n) := by
  refine (lasts_releaseSlot _).then fun _ => lasts_get fun _ => (lasts_setSlot _ _).then fun _ => (lasts_forM _ fun _ => ?_).then fun _ =>
    lasts_if ((lasts_setSlot _ _).then fun _ => lasts_if (lasts_raise _ _) (lasts_pure _)) (lasts_if (lasts_raise _ _) (lasts_pure _))
  split
  · exact lasts_get fun _ => lasts_get fun _ => lasts_if (lasts_if (lasts_setNode _ _) (lasts_setNode _ _)) (lasts_pure _)
  · exact lasts_pure _

theorem lasts_eraseSlot (n : Nat) : Lasts (eraseSlot n) :=
  (lasts_abortHolders _ _ _).then fun _ => lasts_get fun _ => (lasts_emptySlot _).then fun _ => (lasts_orphanNodes _).then fun _ =>
    (lasts_loadAllQueued _).then fun _ => (lasts_swapFail _).then fun _ => lasts_tenantsRefresh

theorem lasts_pkeStop : Lasts pkeStop := lasts_get fun _ => (lasts_prim rfl).then fun _ => (lasts_prim rfl).then fun _ => lasts_cmdStop _ _

theorem lasts_advanceEpoch : Lasts advanceEpoch := (lasts_rd _).then fun _ => lasts_if (lasts_wr _ _) (lasts_pure _)

theorem lasts_eraseAll : Lasts eraseAll :=
  lasts_get fun _ => (lasts_forM _ fun _ => lasts_releaseSlot _).then fun _ => (lasts_forM _ fun _ => lasts_dropQueued _ _ _).then fun _ =>
    lasts_get fun _ => (lasts_forM _ fun _ => lasts_if ((lasts_raise _ _).then fun _ => lasts_prim rfl) (lasts_prim rfl)).then fun _ =>
    (lasts_prim rfl).then fun _ => lasts_pkeStop.then fun _ => lasts_keyOccupancy.then fun _ => lasts_tenantsRefresh

theorem lasts_forceUsers (n : Nat) : Lasts (forceUsers n) :=
  lasts_get fun _ => (lasts_forM _ fun _ => lasts_if (lasts_poisonRegion _) (lasts_pure _)).then fun _ => lasts_forM _ fun _ =>
    lasts_if (lasts_dropPart _ _) (lasts_pure _)

theorem lasts_suspendModule (i : Nat) : Lasts (suspendModule i) :=
  lasts_get fun _ => (lasts_forM _ fun _ => lasts_get fun _ => lasts_setSlot _ _).then fun _ => lasts_if (lasts_raise _ _) (lasts_pure _)

end Sys2Proof.Machine
end

section
/-! No entry on its way is lost: lanes, tamper events and the anchor. -/
namespace Sys2Proof.Machine
open Sys2Proof

theorem lasts_modLane (l : Nat) (f : LaneState → LaneState) : Lasts (modLane l f) := lasts_get fun _ => lasts_prim rfl

theorem lasts_modItems (f : List LaneItem → List LaneItem) : Lasts (modItems f) := lasts_get fun _ => lasts_prim rfl

theorem lasts_dropWork (o : LaneOwner) : Lasts (dropWork o) := lasts_get fun _ => lasts_if (lasts_modItems _) (lasts_pure _)

theorem lasts_assignAll : Lasts assignAll :=
  lasts_get fun _ => lasts_if ((lasts_prim rfl).then fun _ => lasts_forM _ fun _ => lasts_forM _ fun _ =>
    lasts_if ((lasts_bumpBy _ _).then fun _ => lasts_raiseNamed _ _ _ _) (lasts_pure _)) (lasts_pure _)

theorem lasts_voidLane (l : Nat) (all : Bool) : Lasts (voidLane l all) := by
  refine lasts_get fun _ => (lasts_modLane _ _).then fun _ => (lasts_forM _ fun _ => lasts_modItems _).then fun _ =>
    lasts_when (lasts_modItems _) fun _ => lasts_forM _ fun _ => lasts_get fun _ => ?_
  extract_lets
  split
  · split
    · exact lasts_if ((lasts_modItems _).then fun _ => lasts_forM _ fun _ => lasts_modLane _ _) (lasts_pure _)
    · exact lasts_pure _
  · exact lasts_forM _ fun _ => lasts_modLane _ _
  · exact lasts_pure _

theorem lasts_sweepLanes : Lasts sweepLanes :=
  (lasts_forM _ fun _ => lasts_get fun _ => lasts_if (lasts_voidLane _ _) (lasts_pure _)).then fun _ => lasts_assignAll

theorem lasts_laneOff (l : Nat) : Lasts (laneOff l) := (lasts_voidLane _ _).then fun _ => (lasts_modLane _ _).then fun _ => lasts_setDomain _ _

theorem lasts_fenceLane (l cause : Nat) : Lasts (fenceLane l cause) :=
  lasts_get fun _ => (lasts_wr _ _).then fun _ => (lasts_bump _).then fun _ => (lasts_laneOff _).then fun _ =>
    (lasts_modLane _ _).then fun _ => (lasts_setCondQuiet _ _).then fun _ => (lasts_pageEntry _ _ _ _).then fun _ =>
    (lasts_unitAlarm _ _).then fun _ => lasts_if ((lasts_pageToFault _).then fun _ => lasts_assignAll.then fun _ =>
    lasts_laneRefresh) (lasts_assignAll.then fun _ => lasts_laneRefresh)

theorem lasts_katBegin (l : Nat) (r : KatReason) : Lasts (katBegin l r) := lasts_modLane _ _

theorem lasts_countSlots (c n : Nat) : Lasts (countSlots c n) :=
  lasts_if (lasts_get fun _ => (lasts_prim rfl).then fun _ => (lasts_rd _).then fun _ => lasts_wr _ _) (lasts_pure _)

theorem lasts_countBlocks (l n : Nat) : Lasts (countBlocks l n) := lasts_if ((lasts_rd _).then fun _ => lasts_wr _ _) (lasts_pure _)

theorem lasts_laneWork (c n : Nat) : Lasts (laneWork c n) := by
  refine lasts_get fun _ => ?_
  split
  · exact (lasts_countSlots _ _).then fun _ => lasts_countBlocks _ _
  · exact lasts_pure _

theorem lasts_logFull : Lasts logFull := lasts_get fun _ => lasts_setCond _ _ _

theorem lasts_vbatLog (src grade : Nat) (ts seq : Nat) (vbatOnly startup : Bool) : Lasts (vbatLog src grade ts seq vbatOnly startup) := by
  refine lasts_get fun _ => ?_
  extract_lets -underBinder j
  have hj : ∀ r, Lasts (j r) := fun _ => lasts_logFull
  split
  · exact (lasts_bump _).then hj
  · exact (lasts_wr _ _).then fun _ => (lasts_wr _ _).then fun _ => (lasts_wr _ _).then fun _ => (lasts_wr _ _).then fun _ =>
      (lasts_wr _ _).then fun _ => (lasts_wr _ _).then fun _ => (lasts_wr _ _).then fun _ => (lasts_wr _ _).then fun _ =>
      (lasts_wr _ _).then fun _ => (lasts_prim rfl).then fun _ => lasts_get fun _ => (lasts_wr _ _).then fun _ =>
      lasts_if ((lasts_wr _ _).then hj) (hj ())

theorem lasts_rootCond : Lasts rootCond := lasts_get fun _ => lasts_setCond _ _ _

theorem lasts_enterGrounded (cause : Nat) : Lasts (enterGrounded cause) :=
  lasts_get fun _ => lasts_if ((lasts_wr _ _).then fun _ => (lasts_wr _ _).then fun _ => lasts_abortAll.then fun _ =>
    lasts_eraseAll.then fun _ => lasts_get fun _ => (lasts_prim rfl).then fun _ => lasts_get fun _ => (lasts_forM _ fun _ =>
    lasts_portRefresh _).then fun _ => lasts_setCond _ _ _) (lasts_pure _)

theorem lasts_wipeVbat : Lasts wipeVbat := lasts_get fun _ => lasts_prim rfl

theorem lasts_ripcord (cause : Nat) : Lasts (ripcord cause) :=
  lasts_get fun _ => lasts_when (lasts_prim rfl) fun _ => (lasts_prim rfl).then fun _ => (lasts_prim rfl).then fun _ =>
    lasts_advanceEpoch.then fun _ => (lasts_prim rfl).then fun _ => lasts_get fun _ => (lasts_prim rfl).then fun _ => lasts_get fun _ =>
    (lasts_prim rfl).then fun _ => (lasts_wr _ _).then fun _ => (lasts_wr _ _).then fun _ => lasts_if (lasts_eraseAll.then fun _ =>
    lasts_rootCond.then fun _ => (lasts_raise _ _).then fun _ => lasts_enterGrounded _) (lasts_rootCond.then fun _ =>
    (lasts_raise _ _).then fun _ => lasts_enterGrounded _)

theorem lasts_redraw (e : Nat) : Lasts (redraw e) :=
  lasts_get fun _ => (lasts_prim rfl).then fun _ => (lasts_prim rfl).then fun _ => lasts_if ((lasts_askRandom _ _ _).then fun _ =>
    lasts_if (lasts_askRandom _ _ _) (lasts_pure _)) (lasts_if (lasts_askRandom _ _ _) (lasts_pure _))

theorem lasts_sweep : Lasts sweep := by
  refine lasts_sweepLanes.then fun _ => lasts_get fun _ => lasts_forM _ fun _ => (lasts_forM _ fun _ =>
    lasts_if ?_ (lasts_pure _)).then fun _ => lasts_prim rfl
  split
  · exact lasts_redraw _
  · exact lasts_pure _

theorem lasts_actOn (src g win : Nat) (st : Stamp) : Lasts (actOn src g win st) :=
  have woken : Lasts (if 1 ≤ g then wakeBy 0x3 0 src else pure ()) := lasts_if (lasts_wakeBy _ _ _) (lasts_pure _)
  lasts_get fun _ => (lasts_wr _ _).then fun _ => (lasts_wr _ _).then fun _ => (lasts_wr _ _).then fun _ =>
    (lasts_raiseItem _ _ _ _ _ _ _).then fun _ => lasts_when_drop (lasts_setEvent _) (lasts_when_drop (lasts_setEvent _)
    (lasts_when lasts_sweep fun _ => lasts_when_do (lasts_wr _ _) (fun _ => lasts_setCondQuiet _ _) fun _ =>
    lasts_when (lasts_vbatLog _ _ _ _ _ _) fun _ => lasts_if ((lasts_ripcord _).then fun _ => woken) (lasts_get fun _ =>
    lasts_if (lasts_stamp.then fun _ => (lasts_vbatLog _ _ _ _ _ _).then fun _ => (lasts_enterGrounded _).then fun _ => woken) woken)))

theorem lasts_tamperEvent (src : Nat) : Lasts (tamperEvent src) := by
  refine lasts_get fun _ => lasts_stamp.then fun _ => (lasts_countGust _ _ _).then fun _ => ?_
  split
  exact (lasts_bump _).then fun _ => lasts_actOn _ _ _ _

theorem lasts_fxAnchorCmd (op slot : Nat) (words : Bytes) : Lasts (fxAnchorCmd op slot words) :=
  lasts_get fun _ => lasts_if ((lasts_forM _ fun _ => lasts_wr _ _).then fun _ => (lasts_wr _ _).then fun _ => (lasts_wr _ _).then fun _ =>
    lasts_wr _ _) (lasts_pure _)

end Sys2Proof.Machine
end

section
/-! No entry on its way is lost: random bits, roots, derivation and slots. -/
namespace Sys2Proof.Machine
open Sys2Proof

theorem lasts_defineNode (p : Parent) (depth : Nat) (label : Bytes) (policy : Word) (tenant : BitVec 3) :
    Lasts (defineNode p depth label policy tenant) := by
  refine lasts_get fun _ => ?_
  split
  · exact lasts_pure _
  · split
    · exact lasts_pure _
    · exact (lasts_setNode _ _).then fun _ => lasts_pure _

theorem lasts_countParent (p : Parent) : Lasts (countParent p) := by
  refine lasts_get fun _ => ?_
  split
  · exact lasts_pure _
  · exact lasts_prim rfl
  · exact lasts_countUse _

theorem lasts_rngRefresh : Lasts rngRefresh :=
  lasts_get fun _ => (lasts_wr _ _).then fun _ => (lasts_wr _ _).then fun _ => (lasts_wr _ _).then fun _ => (lasts_wr _ _).then fun _ =>
    (lasts_wr _ _).then fun _ => lasts_setCond _ _ _

theorem lasts_fifoRefill : Lasts fifoRefill := lasts_get fun _ => lasts_if (lasts_askRandom _ _ _) (lasts_pure _)

theorem lasts_endRequest (r : RandReq) : Lasts (endRequest r) := by
  refine lasts_get fun _ => ?_
  extract_lets
  split
  · exact (lasts_prim rfl).then fun _ => lasts_endEntry _ _ _ _
  · exact (lasts_prim rfl).then fun _ => lasts_endEntry _ _ _ _
  · exact (lasts_prim rfl).then fun _ => lasts_cmdStop _ _
  · exact lasts_pkeStop
  · exact lasts_pkeStop
  · exact lasts_pkeStop
  · exact lasts_pkeStop
  · exact (lasts_prim rfl).then fun _ => lasts_cmdStop _ _
  · exact (lasts_prim rfl).then fun _ => lasts_cmdStop _ _
  · exact lasts_pure _

theorem lasts_sourceStart : Lasts sourceStart :=
  lasts_get fun _ => (lasts_prim rfl).then fun _ => (lasts_wr _ _).then fun _ => (lasts_wr _ _).then fun _ => (lasts_wr _ _).then fun _ =>
    (lasts_wr _ _).then fun _ => (lasts_wr _ _).then fun _ => (lasts_setCond _ _ _).then fun _ => lasts_if ((lasts_forM _ fun _ =>
    lasts_if (lasts_endRequest _) (lasts_pure _)).then fun _ => lasts_rngRefresh) lasts_rngRefresh

theorem lasts_sourceAgain : Lasts sourceAgain := lasts_get fun _ => lasts_if lasts_sourceStart (lasts_pure _)

theorem lasts_sourceFault : Lasts sourceFault :=
  lasts_get fun _ => (lasts_prim rfl).then fun _ => (lasts_wr _ _).then fun _ => (lasts_setCond _ _ _).then fun _ =>
    (lasts_unitAlarm _ _).then fun _ => lasts_if ((lasts_pageToFault _).then fun _ => (lasts_forM _ fun _ =>
    lasts_endRequest _).then fun _ => lasts_rngRefresh) ((lasts_forM _ fun _ => lasts_endRequest _).then fun _ => lasts_rngRefresh)

theorem lasts_katFail : Lasts katFail := (lasts_wr _ _).then fun _ => (lasts_bump _).then fun _ => lasts_sourceFault

theorem lasts_sourcePowerUp (katOk : Bool) : Lasts (sourcePowerUp katOk) :=
  (lasts_setDomain _ _).then fun _ => (lasts_raiseClk _).then fun _ => (lasts_setCond _ _ _).then fun _ => lasts_sourceStart.then fun _ =>
    lasts_if lasts_katFail (lasts_pure _)

theorem lasts_keyService (u : CmdUnit) {body : M Unit} (hbody : Lasts body) : Lasts (keyService u body) :=
  lasts_get fun _ => lasts_if (lasts_cmdEnd _ _) hbody

theorem lasts_rootGen : Lasts rootGen := lasts_get fun _ => lasts_if (lasts_cmdEnd _ _) (lasts_askRandom _ _ _)

theorem lasts_lcStart (code : Nat) : Lasts (lcStart code) :=
  (lasts_forM _ fun _ => lasts_get fun _ => lasts_if (lasts_abortHolders _ _ _) (lasts_pure _)).then fun _ => lasts_eraseAll.then fun _ =>
    lasts_advanceEpoch.then fun _ => lasts_if (lasts_wipeVbat.then fun _ => lasts_rootCond.then fun _ => lasts_get fun _ =>
    (lasts_prim rfl).then fun _ => (lasts_wr _ _).then fun _ => lasts_emit _) (lasts_get fun _ => (lasts_prim rfl).then fun _ =>
    (lasts_wr _ _).then fun _ => lasts_emit _)

theorem lasts_lcTransition (code : Nat) : Lasts (lcTransition code) :=
  lasts_get fun _ => lasts_if (lasts_cmdEnd _ _) (lasts_if (lasts_cmdEnd _ _) (lasts_if (lasts_cmdEnd _ _) (lasts_lcStart _)))

theorem lasts_fxKeysCmd (op target : Nat) : Lasts (fxKeysCmd op target) :=
  lasts_cmdActive _ (lasts_if lasts_rootGen (lasts_if (lasts_lcTransition _) (lasts_cmdEnd _ _)))

theorem lasts_derDefine (tenant : Nat) : Lasts (derDefine tenant) := by
  refine lasts_get fun _ => lasts_if (lasts_cmdEnd _ _) ?_
  split
  · exact lasts_cmdEnd _ _
  · refine lasts_if (lasts_cmdEnd _ _) ((lasts_defineNode _ _ _ _ _).then fun _ => ?_)
    split
    · exact lasts_cmdEnd _ _
    · exact (lasts_wr _ _).then fun _ => lasts_cmdEnd _ _

theorem lasts_derMaterialise (k n tenant : Nat) : Lasts (derMaterialise k n tenant) := by
  refine lasts_get fun _ => ?_
  extract_lets
  split
  · exact lasts_cmdEnd _ _
  · exact lasts_cmdEnd _ _
  · split
    · exact lasts_cmdEnd _ _
    · refine lasts_if (lasts_cmdEnd _ _) (lasts_if (lasts_cmdEnd _ _) ?_)
      split
      · exact lasts_cmdEnd _ _
      · refine (lasts_countParent _).then fun _ => (lasts_loadSlot _ _ _ _ _ _ _ _).then fun _ => lasts_tenantsRefresh.then fun _ => ?_
        split
        · exact (lasts_slotFilled _).then fun _ => lasts_cmdEnd _ _
        · exact lasts_pure _

theorem lasts_liveCheck (ns : List Nat) (force : Bool) (e : PageEvent) : Lasts (liveCheck ns force e) :=
  lasts_get fun _ => lasts_if (lasts_pure _) (lasts_if (lasts_pure _) ((lasts_forM _ fun _ => lasts_forceUsers _).then fun _ =>
    (lasts_raise _ _).then fun _ => lasts_pure _))

theorem lasts_derInvalidate (k : Nat) (force : Bool) : Lasts (derInvalidate k force) := by
  refine lasts_get fun _ => ?_
  split
  · exact lasts_cmdEnd _ _
  · exact lasts_cmdEnd _ _
  · exact (lasts_liveCheck _ _ _).then fun _ => lasts_if ((lasts_orphanNodes _).then fun _ => lasts_cmdEnd _ _) (lasts_cmdEnd _ _)

theorem lasts_derRead (k : Nat) : Lasts (derRead k) := by
  refine lasts_get fun _ => ?_
  extract_lets
  split
  exact (lasts_wr _ _).then fun _ => (lasts_wr _ _).then fun _ => (lasts_wr _ _).then fun _ => (lasts_forM _ fun _ =>
    lasts_wr _ _).then fun _ => (lasts_wr _ _).then fun _ => (lasts_wr _ _).then fun _ => (lasts_wr _ _).then fun _ =>
    (lasts_wr _ _).then fun _ => (lasts_wr _ _).then fun _ => lasts_cmdEnd _ _

theorem lasts_fxDeriveCmd (op : Nat) (force : Bool) (tenant slot node : Nat) : Lasts (fxDeriveCmd op force tenant slot node) :=
  lasts_cmdActive _ (lasts_if (lasts_keyService _ (lasts_derDefine _)) (lasts_if (lasts_keyService _ (lasts_derMaterialise _ _ _))
    (lasts_if (lasts_keyService _ (lasts_derInvalidate _ _)) (lasts_if (lasts_derRead _) (lasts_cmdEnd _ _)))))

theorem lasts_slotRead (n : Nat) : Lasts (slotRead n) :=
  lasts_get fun _ => (lasts_wr _ _).then fun _ => (lasts_wr _ _).then fun _ => (lasts_wr _ _).then fun _ => (lasts_wr _ _).then fun _ =>
    (lasts_wr _ _).then fun _ => (lasts_wr _ _).then fun _ => (lasts_wr _ _).then fun _ => (lasts_wr _ _).then fun _ =>
    (lasts_wr _ _).then fun _ => (lasts_wr _ _).then fun _ => (lasts_wr _ _).then fun _ => (lasts_wr _ _).then fun _ =>
    (lasts_wr _ _).then fun _ => (lasts_wr _ _).then fun _ => (lasts_wr _ _).then fun _ => lasts_cmdEnd _ _

theorem lasts_detachBank (n : Nat) (b : Bank) : Lasts (detachBank n b) := by
  unfold detachBank
  split
  · exact lasts_get fun _ => lasts_if (lasts_if (lasts_setNode _ _) (lasts_setNode _ _)) (lasts_pure _)
  · exact lasts_pure _

theorem lasts_swapNow (n : Nat) : Lasts (swapNow n) := by
  refine (lasts_releaseSlot _).then fun _ => lasts_get fun _ => (lasts_setSlot _ _).then fun _ => (lasts_raise _ _).then fun _ => ?_
  split
  · exact lasts_if (lasts_if (lasts_orphanNodes _) (lasts_pure _)) (lasts_pure _)
  · exact lasts_pure _

theorem lasts_swapCompare (n : Nat) (force : Bool) : Lasts (swapCompare n force) := by
  refine lasts_get fun _ => ?_
  extract_lets
  split
  · exact lasts_if (lasts_cmdEnd _ _) ((lasts_liveCheck _ _ _).then fun _ => lasts_if ((lasts_swapNow _).then fun _ =>
      lasts_cmdEnd _ _) (lasts_cmdEnd _ _))
  · exact lasts_cmdEnd _ _

theorem lasts_slotSwap (n : Nat) (force : Bool) : Lasts (slotSwap n force) :=
  lasts_get fun _ => lasts_if (lasts_cmdEnd _ _) (lasts_if ((lasts_prim rfl).then fun _ => lasts_setCond _ _ _) (lasts_swapCompare _ _))

theorem lasts_slotErase (n : Nat) (force : Bool) : Lasts (slotErase n force) := by
  refine lasts_get fun _ => lasts_if (lasts_cmdEnd _ _) ?_
  split
  · exact lasts_cmdEnd _ _
  · exact lasts_cmdEnd _ _
  · exact lasts_cmdEnd _ _
  · exact lasts_cmdEnd _ _
  · exact (lasts_liveCheck _ _ _).then fun _ => lasts_if ((lasts_eraseSlot _).then fun _ => lasts_cmdEnd _ _) (lasts_cmdEnd _ _)
  · exact (lasts_liveCheck _ _ _).then fun _ => lasts_if ((lasts_eraseSlot _).then fun _ => lasts_cmdEnd _ _) (lasts_cmdEnd _ _)

theorem lasts_slotDrop (n : Nat) : Lasts (slotDrop n) := by
  refine lasts_get fun _ => lasts_if (lasts_cmdEnd _ _) ?_
  split
  · exact (lasts_setSlot _ _).then fun _ => (lasts_detachBank _ _).then fun _ => lasts_cmdEnd _ _
  · exact lasts_cmdEnd _ _

theorem lasts_fxSlotsCmd (op : Nat) (force : Bool) (slot : Nat) : Lasts (fxSlotsCmd op force slot) :=
  lasts_cmdActive _ (lasts_if (lasts_slotRead _) (lasts_if (lasts_keyService _ (lasts_slotSwap _ _)) (lasts_if (lasts_keyService _
    (lasts_slotErase _ _)) (lasts_if (lasts_keyService _ (lasts_slotDrop _)) (lasts_cmdEnd _ _)))))

theorem lasts_pkeFail (code : Nat) : Lasts (pkeFail code) := (lasts_raise _ _).then fun _ => lasts_cmdEnd _ _

theorem lasts_loadAttest (m : Bytes) : Lasts (loadAttest m) := lasts_get fun _ => lasts_setSlot _ _

theorem lasts_attestGen : Lasts attestGen := lasts_get fun _ => lasts_if (lasts_cmdEnd _ _) (lasts_askRandom _ _ _)

theorem lasts_attestLoad (d : Dram) : Lasts (attestLoad d) := by
  refine lasts_get fun _ => ?_
  extract_lets
  split
  · exact lasts_cmdEnd _ _
  · refine lasts_if (lasts_cmdEnd _ _) ((lasts_readDram _ _ _ _).then fun _ => ?_)
    split
    · exact lasts_pkeFail _
    · split
      · exact lasts_pkeFail _
      · exact lasts_if (lasts_pkeFail _) ((lasts_loadAttest _).then fun _ => lasts_cmdEnd _ _)

theorem lasts_attest (n : Nat) : Lasts (attest n) :=
  lasts_get fun _ => lasts_if (lasts_cmdEnd _ _) (lasts_get fun _ => (lasts_prim rfl).then fun _ => lasts_askRandom _ _ _)

theorem lasts_fxPkeCmd (op slot : Nat) (d : Dram) : Lasts (fxPkeCmd op slot d) :=
  lasts_cmdActive _ (lasts_if (lasts_keyService _ lasts_attestGen) (lasts_if (lasts_keyService _ (lasts_attestLoad _)) (lasts_if
    (lasts_keyService _ (lasts_attest _)) (lasts_cmdEnd _ _))))

theorem lasts_fxRngCmd (restart reseed katOk : Bool) : Lasts (fxRngCmd restart reseed katOk) :=
  lasts_if (lasts_get fun _ => (lasts_prim rfl).then fun _ => lasts_get fun _ => lasts_if ((lasts_prim rfl).then fun _ =>
    lasts_sourcePowerUp _) (lasts_pure _)) (lasts_get fun _ => lasts_if ((lasts_prim rfl).then fun _ => lasts_sourcePowerUp _) (lasts_pure _))

theorem lasts_fxTestCtl : Lasts fxTestCtl :=
  lasts_get fun _ => lasts_if (lasts_if ((lasts_raise _ _).then fun _ =>
    lasts_unitAlarm _ _) (lasts_pure _)) (lasts_if ((lasts_wr _ _).then fun _ => lasts_sourceAgain) (lasts_pure _))

end Sys2Proof.Machine
end

section
/-! No entry on its way is lost: memory regions and storage partitions. -/
namespace Sys2Proof.Machine
open Sys2Proof

theorem lasts_putLine (a : Nat) (b : Bytes) : Lasts (putLine a b) := lasts_emit _

theorem lasts_setRoot (n : Nat) (nt : Bool) (b : Bytes) : Lasts (setRoot n nt b) := by
  refine lasts_get fun _ => lasts_if ?_ (lasts_prim rfl)
  split
  · exact lasts_setPasses _
  · exact lasts_pure _

theorem lasts_memFail (w : Who) (kind level : Nat) (block : Bool) : Lasts (memFail w kind level block) :=
  (lasts_wr _ _).then fun _ => (lasts_wr _ _).then fun _ => (lasts_wr _ _).then fun _ => (lasts_wr _ _).then fun _ =>
    (lasts_wr _ _).then fun _ => (lasts_wr _ _).then fun _ => (lasts_wr _ _).then fun _ => (lasts_wr _ _).then fun _ => lasts_wr _ _

theorem lasts_integFail (w : Who) (level : Option Nat) (late : Bool) : Lasts (integFail w level late) := by
  refine (lasts_raise _ _).then fun _ => (lasts_bump _).then fun _ => (lasts_bump _).then fun _ => ?_
  extract_lets -underBinder j
  have hj : ∀ r, Lasts (j r) := fun _ => lasts_tamperEvent _
  refine lasts_if ?_ (hj ())
  split
  · exact (lasts_memFail _ _ _ _).then hj
  · exact (lasts_memFail _ _ _ _).then hj

theorem lasts_setQuar (l : List (Option Quar)) : Lasts (setQuar l) := lasts_get fun _ => lasts_prim rfl

theorem lasts_writeShadow (d : Side) (b : Bytes) : Lasts (writeShadow d b) :=
  (lasts_putLine _ _).then fun _ => lasts_if (lasts_putLine _ _) (lasts_pure _)

theorem lasts_ckptAdvance : Lasts ckptAdvance := by
  refine lasts_get fun _ => ?_
  split
  · refine lasts_if ?_ (lasts_pure _)
    split
    · exact lasts_pure _
    · exact (lasts_setRoot _ _ _).then fun _ => (lasts_writeShadow _ _).then fun _ => (lasts_askAnchor _).then fun _ => lasts_get fun _ =>
        lasts_prim rfl
  · exact lasts_pure _

theorem lasts_fxMemCmd (op n : Nat) : Lasts (fxMemCmd op n) :=
  (lasts_rd _).then fun _ => lasts_when (lasts_wr _ _) fun _ => lasts_cmdActive _ (lasts_get fun _ =>
    lasts_if (lasts_if (lasts_cmdEnd _ _) ((lasts_wr _ _).then fun _ => (lasts_dropTables _).then fun _ => lasts_get fun _ =>
    (lasts_prim rfl).then fun _ => lasts_ckptAdvance)) (lasts_if (lasts_if (lasts_cmdEnd _ _) ((lasts_prim rfl).then fun _ =>
    lasts_askAnchor _)) (lasts_cmdEnd _ _)))

theorem lasts_freeQuar (n : Nat) : Lasts (freeQuar n) := lasts_get fun _ => lasts_setQuar _

theorem lasts_formatPass (n : Nat) : Lasts (formatPass n) := lasts_get fun _ => (lasts_freeQuar _).then fun _ => lasts_setPasses _

theorem lasts_setBad (n : Nat) : Lasts (setBad n) := (lasts_wr _ _).then fun _ => lasts_raise _ _

theorem lasts_regionEnter (n : Nat) (v : MemView) : Lasts (regionEnter n v) := by
  refine lasts_get fun _ => (lasts_wr _ _).then fun _ => (lasts_wr _ _).then fun _ => (lasts_wr _ _).then fun _ =>
    (lasts_dropLines _ _).then fun _ => (lasts_dropLines _ _).then fun _ => ?_
  extract_lets -underBinder c j j1
  have hj : ∀ r, Lasts (j r) := fun _ => lasts_kilnRefresh
  have hj1 : ∀ r, Lasts (j1 r) := by
    intro r
    unfold j1
    split
    · exact lasts_if ((lasts_wr _ _).then fun _ => (lasts_askAnchor _).then hj) (hj ())
    · exact hj ()
  refine lasts_if ((lasts_setBad _).then hj) (lasts_if ((lasts_setBad _).then hj) (lasts_if ?_ (lasts_if ((lasts_setBad _).then hj)
    (lasts_if ((lasts_formatPass _).then hj1) (hj1 ())))))
  split
  exact (lasts_wr _ _).then fun _ => lasts_if ((lasts_setRoot _ _ _).then fun _ => (lasts_freeQuar _).then fun _ => (lasts_wr _ _).then hj)
    ((lasts_setBad _).then fun _ => (lasts_raise _ _).then fun _ => lasts_if ((lasts_integFail _ _ _).then hj) (hj ()))

theorem lasts_fxRegionCtl (n : Nat) (old : Bool) (value : Word) (v : MemView) : Lasts (fxRegionCtl n old value v) :=
  lasts_when (lasts_wr _ _) fun _ => lasts_get fun _ => (lasts_blockEnable _ _ _ _ (lasts_dropTables _) (lasts_regionEnter _ _)).then fun _
    => lasts_kilnRefresh

theorem lasts_fxCacheCmd (value : Word) : Lasts (fxCacheCmd value) :=
  lasts_get fun _ => lasts_if ((lasts_prim rfl).then fun _ => lasts_cacheRefresh) (lasts_pure _)

theorem lasts_clearMap (c : PartCfg) (m : Dram) : Lasts (clearMap c m) := lasts_dramWrite _ _ _ _

theorem lasts_partFail (p outcome : Nat) : Lasts (partFail p outcome) :=
  (lasts_wr _ _).then fun _ => (lasts_wr _ _).then fun _ => lasts_if ((lasts_raise _ _).then fun _ => lasts_partCmdEnd _ _) (lasts_partCmdEnd _ _)

theorem lasts_askRecord (p : Nat) (r : StorRec) (w : PartWait) : Lasts (askRecord p r w) :=
  lasts_get fun _ => (lasts_prim rfl).then fun _ => lasts_askAnchor _

theorem lasts_openTus (c : PartCfg) (p e : Nat) (kt dir : Bytes) (m : Dram) : ∀ l : List Nat, Lasts (openTus c p e kt dir m l)
  | [] => lasts_pure _
  | _ :: r => by
    unfold openTus
    refine (lasts_readDram _ _ _ _).then fun _ => ?_
    split
    · exact lasts_pure _
    · exact (lasts_laneWork _ _).then fun _ => lasts_if (lasts_pure _) ((lasts_dramWrite _ _ _ _).then fun _ =>
        lasts_if (lasts_openTus c p e kt dir m r) (lasts_pure _))

theorem lasts_mountImage (p : Nat) (c : PartCfg) (r : StorRec) (m : Dram) : Lasts (mountImage p c r m) := by
  refine lasts_get fun _ => (lasts_readDram _ _ _ _).then fun _ => (lasts_if (lasts_readDram _ _ _ _) (lasts_pure _)).then fun _ => ?_
  split
  · refine lasts_if (lasts_partFail _ _) (lasts_if ((lasts_tamperEvent _).then fun _ =>
      lasts_partFail _ _) (lasts_if ((lasts_tamperEvent _).then fun _ => lasts_partFail _ _) ((lasts_openTus _ _ _ _ _ _ _).then fun _ => ?_)))
    split
    · exact lasts_partFail _ _
    · exact (lasts_clearMap _ _).then fun _ => lasts_if (lasts_partFail _ _) (lasts_if (lasts_get fun _ => (lasts_prim rfl).then fun _ =>
        lasts_askRecord _ _ _) (lasts_if (lasts_askRecord _ _ _) ((lasts_wr _ _).then fun _ => (lasts_wr _ _).then fun _ =>
        lasts_partCmdEnd _ _)))
  · exact lasts_partFail _ _

theorem lasts_storMount (p : Nat) (m : Dram) : Lasts (storMount p m) := by
  refine lasts_get fun _ => ?_
  extract_lets
  split
  · exact lasts_partFail _ _
  · refine (lasts_wr _ _).then fun _ => (lasts_prim rfl).then fun _ => ?_
    split
    · exact lasts_partFail _ _
    · exact lasts_if (lasts_partFail _ _) (lasts_mountImage _ _ _ _)

theorem lasts_storFormat (p : Nat) : Lasts (storFormat p) := by
  refine lasts_get fun _ => ?_
  extract_lets
  split
  · exact lasts_partFail _ _
  · exact lasts_if (lasts_partFail _ _) ((lasts_wr _ _).then fun _ => (lasts_prim rfl).then fun _ =>
      (lasts_pageEntry _ _ _ _).then fun _ => lasts_askRecord _ _ _)

theorem lasts_partAdvance (p : Nat) : Lasts (partAdvance p) := by
  refine lasts_get fun _ => lasts_if ?_ (lasts_if ((lasts_prim rfl).then fun _ => (lasts_wr _ _).then fun _ =>
    lasts_partCmdEnd _ _) (lasts_pure _))
  split
  · exact lasts_askRecord _ _ _
  · exact lasts_pure _

theorem lasts_fxStorCmd (op p : Nat) (m : Dram) : Lasts (fxStorCmd op p m) := by
  refine (lasts_rd _).then fun _ => lasts_when (lasts_wr _ _) fun _ => lasts_cmdActive _ (lasts_get fun _ => ?_)
  extract_lets -underBinder st j
  have hj : ∀ r, Lasts (j r) := fun _ => (lasts_prim rfl).then fun _ => lasts_partAdvance _
  refine lasts_if (lasts_cmdEnd _ _) (lasts_if (lasts_storMount _ _) (lasts_if (lasts_storFormat _) (lasts_if ((lasts_wr _ _).then fun _ =>
    (hj _)) (lasts_if ?_ (lasts_if (hj _) (lasts_cmdEnd _ _))))))
  split
  · exact lasts_askRecord _ _ _
  · exact lasts_cmdEnd _ _

theorem lasts_partCheckDrop (p : Nat) : Lasts (partCheckDrop p) :=
  lasts_get fun _ => lasts_if (lasts_if (lasts_dropPart _ _) (lasts_if (lasts_dropPart _ _) (lasts_pure _))) (lasts_pure _)

end Sys2Proof.Machine
end

section
/-! No entry on its way is lost: associations, learning and the lookup rules. -/
namespace Sys2Proof.Machine
open Sys2Proof

theorem lasts_assocRefresh : Lasts assocRefresh :=
  lasts_get fun _ => (lasts_wr _ _).then fun _ => (lasts_wr _ _).then fun _ => (lasts_setCond _ _ _).then fun _ =>
    (lasts_wr _ _).then fun _ => (lasts_wr _ _).then fun _ => lasts_tenantsRefresh

theorem lasts_noteLoc (loc : Nat) (ws : List Word) : Lasts (noteLoc loc ws) :=
  (lasts_wr _ _).then fun _ => lasts_if ((lasts_wr _ _).then fun _ => (lasts_wr _ _).then fun _ => (lasts_wr _ _).then fun _ =>
    lasts_wr _ _) ((lasts_wr _ _).then fun _ => (lasts_wr _ _).then fun _ => (lasts_wr _ _).then fun _ => lasts_wr _ _)

theorem lasts_moveEntry (src dst : Nat) : Lasts (moveEntry src dst) := by
  refine lasts_get fun _ => ?_
  split
  · exact lasts_pure _
  · exact (lasts_prim rfl).then fun _ => lasts_prim rfl

theorem lasts_runPath : ∀ l : List Nat, Lasts (runPath l)
  | _ :: b :: r => (lasts_runPath (b :: r)).then fun _ => lasts_moveEntry _ _
  | [_] | [] => lasts_pure _

theorem lasts_clearPath (p : List Nat) : Lasts (clearPath p) := (lasts_runPath _).then fun _ => (lasts_wr _ _).then fun _ => lasts_wrMax _ _

theorem lasts_placeAssoc (ws : List Word) : Lasts (placeAssoc ws) := by
  refine lasts_get fun _ => ?_
  split
  · exact (lasts_clearPath _).then fun _ => (lasts_prim rfl).then fun _ => lasts_pure _
  · refine (lasts_wr _ _).then fun _ => ?_
    extract_lets
    split
    · exact lasts_if ((lasts_prim rfl).then fun _ => lasts_pure _) (lasts_pure _)
    · exact lasts_pure _

theorem lasts_stashRetry : Lasts stashRetry := by
  refine lasts_get fun _ => (lasts_forM _ fun _ => lasts_get fun _ => lasts_if (lasts_pure _) ?_).then fun _ => lasts_assocRefresh
  split
  · exact (lasts_clearPath _).then fun _ => lasts_moveEntry _ _
  · exact lasts_pure _

theorem lasts_removePeer (n : Nat) (aged : Bool) : Lasts (removePeer n aged) := by
  refine lasts_get fun _ => ?_
  extract_lets -underBinder port j
  have hj : ∀ r, Lasts (j r) := by
    intro r
    unfold j
    exact (lasts_prim rfl).then fun _ => lasts_if (lasts_raiseNamed _ _ _ _) (lasts_pageEntry _ _ _ _)
  split
  · exact (lasts_prim rfl).then fun _ => (lasts_prim rfl).then hj
  · exact hj ()

theorem lasts_dropSwitches (h : Nat) : Lasts (dropSwitches h) :=
  lasts_get fun _ => lasts_forM _ fun _ => lasts_if ((lasts_wr _ _).then fun _ => lasts_raise _ _) (lasts_pure _)

theorem lasts_removeEntry (loc : Nat) (lost : Bool) : Lasts (removeEntry loc lost) := by
  refine lasts_get fun _ => ?_
  split
  · exact lasts_pure _
  · refine lasts_if (lasts_removePeer _ _) ((lasts_dropSwitches _).then fun _ => lasts_when (lasts_raiseFloor _) fun _ =>
      (lasts_releaseAssoc _).then fun _ => (lasts_forM _ fun _ => ?_).then fun _ => (lasts_prim rfl).then fun _ =>
      (lasts_prim rfl).then fun _ => (lasts_prim rfl).then fun _ => lasts_exhCount)
    split
    · exact lasts_if (lasts_prim rfl) (lasts_pure _)
    · exact lasts_pure _

theorem lasts_setCtx (n : Nat) (c : List Word) : Lasts (setCtx n c) := lasts_prim rfl

theorem lasts_putBlocks (h : Nat) (bs : List Nat) (win : Nat) : Lasts (putBlocks h bs win) := by
  refine lasts_forM _ fun _ => ?_
  split
  exact lasts_prim rfl

theorem lasts_insertFull : Lasts insertFull := (lasts_bump _).then fun _ => (lasts_raise _ _).then fun _ => lasts_cmdEnd _ _

theorem lasts_insertNew (ws : List Word) : Lasts (insertNew ws) := by
  refine lasts_get fun _ => lasts_if lasts_insertFull ((lasts_placeAssoc _).then fun _ => ?_)
  split
  · exact lasts_insertFull
  · exact (lasts_putBlocks _ _ _).then fun _ => (lasts_prim rfl).then fun _ => (lasts_noteLoc _ _).then fun _ =>
      lasts_assocRefresh.then fun _ => lasts_cmdEnd _ _

theorem lasts_replaceEntry (loc : Nat) (old ws : List Word) : Lasts (replaceEntry loc old ws) := by
  refine lasts_get fun _ => lasts_if lasts_insertFull ?_
  extract_lets -underBinder r e0 e j
  have hj : ∀ r, Lasts (j r) := by
    intro r
    refine (lasts_setAssoc _ _).then fun _ => ?_
    extract_lets -underBinder j
    have hj : ∀ r, Lasts (j r) := fun _ => (lasts_noteLoc _ _).then fun _ => lasts_assocRefresh.then fun _ => lasts_cmdEnd _ _
    exact lasts_if ((lasts_forM _ fun _ => lasts_prim rfl).then fun _ => (lasts_putBlocks _ _ _).then hj) (hj ())
  exact lasts_if ((lasts_releaseAssoc _).then fun _ => (lasts_retryExhausted _).then hj) (hj ())

theorem lasts_assocInsert (opt : Bool) : Lasts (assocInsert opt) := by
  refine lasts_get fun _ => lasts_if (lasts_cmdEnd _ _) ?_
  split
  · exact lasts_if (lasts_cmdEnd _ _) (lasts_if (lasts_cmdEnd _ _) (lasts_replaceEntry _ _ _))
  · exact lasts_if (lasts_cmdEnd _ _) (lasts_if (lasts_cmdEnd _ _) (lasts_insertNew _))

theorem lasts_showEntry (loc : Nat) (ws : List Word) : Lasts (showEntry loc ws) :=
  (lasts_forM _ fun _ => lasts_wr _ _).then fun _ => lasts_noteLoc _ _

theorem lasts_assocSearch : Lasts assocSearch := by
  refine lasts_get fun _ => ?_
  split
  · exact (lasts_showEntry _ _).then fun _ => lasts_cmdEnd _ _
  · exact lasts_cmdEnd _ _

theorem lasts_assocNext (h : Nat) : Lasts (assocNext h) := by
  refine lasts_get fun _ => ?_
  split
  · exact (lasts_showEntry _ _).then fun _ => lasts_cmdEnd _ _
  · exact lasts_cmdEnd _ _

theorem lasts_removedEnd (before code : Nat) : Lasts (removedEnd before code) :=
  lasts_get fun _ => (lasts_wr _ _).then fun _ => lasts_assocRefresh.then fun _ => lasts_cmdEnd _ _

theorem lasts_assocDelete (h : Nat) : Lasts (assocDelete h) := by
  refine lasts_get fun _ => ?_
  extract_lets
  split
  · exact lasts_removedEnd _ _
  · exact lasts_when (lasts_forM _ fun _ => lasts_removePeer _ _) fun _ => (lasts_removeEntry _ _).then fun _ => lasts_get fun _ =>
      (lasts_wr _ _).then fun _ => lasts_stashRetry.then fun _ => lasts_cmdEnd _ _

theorem lasts_assocFlush (port : Nat) (learned : Bool) : Lasts (assocFlush port learned) :=
  lasts_get fun _ => (lasts_forM _ fun _ => lasts_removeEntry _ _).then fun _ => lasts_removedEnd _ _

theorem lasts_agingPass : Lasts agingPass :=
  lasts_get fun _ => lasts_if ((lasts_forM _ fun _ => lasts_if (lasts_removePeer _ _) (lasts_pure _)).then fun _ => lasts_get fun _ =>
    (lasts_wr _ _).then fun _ => lasts_stashRetry) (lasts_get fun _ => (lasts_wr _ _).then fun _ => lasts_stashRetry)

theorem lasts_assocProbing (op : Nat) (opt : Bool) : Lasts (assocProbing op opt) :=
  lasts_get fun _ => lasts_if (lasts_prim rfl) (lasts_if lasts_assocSearch (lasts_assocInsert _))

theorem lasts_fxAssocCmd (op : Nat) (opt : Bool) (port h : Nat) : Lasts (fxAssocCmd op opt port h) :=
  lasts_cmdActive _ (lasts_if (lasts_assocProbing _ _) (lasts_if (lasts_assocNext _) (lasts_if (lasts_assocDelete _) (lasts_if
    (lasts_assocFlush _ _) (lasts_if (lasts_agingPass.then fun _ => lasts_cmdEnd _ _) (lasts_cmdEnd _ _))))))

theorem lasts_fxLearnCmd (op n : Nat) : Lasts (fxLearnCmd op n) := by
  refine lasts_cmdActive _ (lasts_get fun _ => lasts_if (lasts_cmdEnd _ _) ?_)
  split
  · exact lasts_cmdEnd _ _
  · exact lasts_if ((lasts_forM _ fun _ => lasts_wr _ _).then fun _ => lasts_cmdEnd _ _) (lasts_if ((lasts_setCtx _ _).then fun _ =>
      lasts_cmdEnd _ _) ((lasts_removePeer _ _).then fun _ => lasts_stashRetry.then fun _ => lasts_cmdEnd _ _))

theorem lasts_trieRefresh : Lasts trieRefresh := lasts_get fun _ => (lasts_wr _ _).then fun _ => lasts_wr _ _

theorem lasts_setRule (i : Nat) (r : TrieRule) : Lasts (setRule i r) :=
  (lasts_prim rfl).then fun _ => lasts_get fun _ => (lasts_prim rfl).then fun _ => lasts_trieRefresh.then fun _ => lasts_cmdEnd _ _

theorem lasts_ruleSet (i : Nat) : Lasts (ruleSet i) :=
  lasts_get fun _ => lasts_if (lasts_cmdEnd _ _) (lasts_if (lasts_cmdEnd _ _) (lasts_setRule _ _))

theorem lasts_ruleDel (i : Nat) : Lasts (ruleDel i) := by
  refine lasts_get fun _ => ?_
  extract_lets
  split
  · exact lasts_setRule _ _
  · exact lasts_setRule _ _
  · exact lasts_cmdEnd _ _

theorem lasts_ruleRead (i : Nat) : Lasts (ruleRead i) :=
  lasts_get fun _ => (lasts_wr _ _).then fun _ => (lasts_wr _ _).then fun _ => (lasts_wr _ _).then fun _ => (lasts_wr _ _).then fun _ =>
    (lasts_wr _ _).then fun _ => lasts_cmdEnd _ _

theorem lasts_trieBuild : Lasts trieBuild :=
  lasts_get fun _ => (lasts_wr _ _).then fun _ => lasts_if ((lasts_raise _ _).then fun _ =>
    lasts_cmdEnd _ _) ((lasts_prim rfl).then fun _ => (lasts_raise _ _).then fun _ => lasts_cmdEnd _ _)

theorem lasts_trieSwap : Lasts trieSwap := by
  refine lasts_get fun _ => lasts_if (lasts_cmdEnd _ _) ((lasts_prim rfl).then fun _ => (lasts_forM _ fun _ => ?_).then fun _ =>
    lasts_trieRefresh.then fun _ => (lasts_raise _ _).then fun _ => lasts_cmdEnd _ _)
  split
  · exact lasts_prim rfl
  · exact lasts_prim rfl
  · exact lasts_pure _

theorem lasts_fxTrieCmd (op i : Nat) : Lasts (fxTrieCmd op i) :=
  lasts_cmdActive _ (lasts_if (lasts_ruleSet _) (lasts_if (lasts_ruleDel _) (lasts_if (lasts_ruleRead _) (lasts_if lasts_trieBuild
    (lasts_if lasts_trieSwap (lasts_cmdEnd _ _))))))

end Sys2Proof.Machine
end

section
/-! No entry on its way is lost: streams, Bridle pairs and queues. -/
namespace Sys2Proof.Machine
open Sys2Proof

theorem lasts_badFrame (n : Nat) (i : SItem) (cause : Nat) : Lasts (badFrame n i cause) := lasts_if (lasts_truncItem _ _ _) (lasts_voidItem _ _ _)

theorem lasts_flushNowRx (n : Nat) : Lasts (flushNowRx n) := by
  refine lasts_get fun _ => ?_
  split
  · exact lasts_if (lasts_badFrame _ _ _) (lasts_pure _)
  · exact lasts_pure _

theorem lasts_flushNowTx (n : Nat) : Lasts (flushNowTx n) := by
  refine lasts_get fun _ => (lasts_forM _ fun _ => lasts_if (lasts_badFrame _ _ _) (lasts_pure _)).then fun _ => lasts_get fun _ => ?_
  split
  · exact lasts_if (lasts_truncItem _ _ _) (lasts_pure _)
  · exact lasts_pure _

theorem lasts_flush (n : Nat) (tx now : Bool) : Lasts (flush n tx now) :=
  lasts_get fun _ => (lasts_wr _ _).then fun _ => lasts_if ((lasts_prim rfl).then fun _ =>
    lasts_if (lasts_flushNowTx _) (lasts_flushNowRx _)) (lasts_pure _)

theorem lasts_portDrain (n : Nat) : Lasts (portDrain n) := (lasts_flush _ _ _).then fun _ => lasts_flush _ _ _

theorem lasts_fxPortCtl (n : Nat) (old : Bool) (v : Word) : Lasts (fxPortCtl n old v) :=
  lasts_get fun _ => (lasts_blockEnable _ _ _ _ (lasts_portDrain _) (lasts_pure _)).then fun _ => lasts_when (lasts_flush _ _ _) fun _ =>
    lasts_when (lasts_flush _ _ _) fun _ => lasts_if ((lasts_flush _ _ _).then fun _ =>
    lasts_if (lasts_flush _ _ _) (lasts_pure _)) (lasts_if (lasts_flush _ _ _) (lasts_pure _))

theorem lasts_fxPortWm (n : Nat) : Lasts (fxPortWm n) := lasts_get fun _ => lasts_if ((lasts_prim rfl).then fun _ => lasts_wr _ _) (lasts_pure _)

theorem lasts_pairsRefresh : Lasts pairsRefresh := lasts_get fun _ => (lasts_wr _ _).then fun _ => lasts_heldRefresh

theorem lasts_pairEnter (k : Nat) : Lasts (pairEnter k) :=
  lasts_get fun _ => (lasts_wr _ _).then fun _ => lasts_if ((lasts_raise _ _).then fun _ => lasts_pairsRefresh) lasts_pairsRefresh

theorem lasts_fxPairEn (k : Nat) (old en : Bool) : Lasts (fxPairEn k old en) :=
  lasts_get fun _ => (lasts_blockEnable _ _ _ _ (lasts_pure _) (lasts_pairEnter _)).then fun _ => lasts_pairsRefresh

theorem lasts_loopEval (j : Nat) : Lasts (loopEval j) := by
  refine lasts_get fun _ => (lasts_wr _ _).then fun _ => ?_
  extract_lets -underBinder j
  have hj : ∀ r, Lasts (j r) := fun _ => (lasts_portRefresh _).then fun _ => lasts_portRefresh _
  exact lasts_if (lasts_get fun _ => lasts_if ((lasts_raise _ _).then hj) ((lasts_wr _ _).then hj)) (hj ())

theorem lasts_haltCmpl (q : Nat) : Lasts (haltCmpl q) := (lasts_wr _ _).then fun _ => lasts_get fun _ => lasts_raiseTenant _ _ _ _

theorem lasts_modDesc (q : Nat) (seq : BitVec 32) (f : QDesc → QDesc) : Lasts (modDesc q seq f) := lasts_get fun _ => lasts_setDescs _ _

theorem lasts_writeAccepted (q : Nat) (d : QDesc) (e : Nat) (at' : Nat) (rcd : Bytes) (m : Dram) : Lasts (writeAccepted q d e at' rcd m) :=
  lasts_get fun _ => (lasts_dramWrite _ _ _ _).then fun _ => lasts_if ((lasts_modDesc _ _ _).then fun _ =>
    (lasts_modEntry _ _).then fun _ => lasts_raiseTenant _ _ _ _) ((lasts_modDesc _ _ _).then fun _ => lasts_haltCmpl _)

theorem lasts_resumePair (q : Nat) (m : Dram) : Lasts (resumePair q m) := by
  refine (lasts_wr _ _).then fun _ => (lasts_wr _ _).then fun _ => lasts_get fun _ => lasts_forM _ fun _ => ?_
  extract_lets -underBinder j
  have hj : ∀ r, Lasts (j r) := by
    intro r
    unfold j
    exact lasts_get fun _ => lasts_if ((lasts_modDesc _ _ _).then fun _ => lasts_emit _) (lasts_pure _)
  split
  · exact lasts_get fun _ => lasts_if ((lasts_writeAccepted _ _ _ _ _ _).then hj) (hj ())
  · exact hj ()

theorem lasts_queueEnter (q : Nat) : Lasts (queueEnter q) :=
  (lasts_rd _).then fun _ => (lasts_wr _ _).then fun _ => (lasts_wr _ _).then fun _ => lasts_if (lasts_raise _ _) (lasts_pure _)

theorem lasts_badIndex (q : Nat) : Lasts (badIndex q) := (lasts_bump _).then fun _ => lasts_raise _ _

theorem lasts_fxCtail (q new : Nat) : Lasts (fxCtail q new) := lasts_get fun _ => lasts_if (lasts_wr _ _) (lasts_badIndex _)

theorem lasts_fxRhead (q new : Nat) : Lasts (fxRhead q new) := lasts_get fun _ => lasts_if (lasts_wr _ _) (lasts_badIndex _)

theorem lasts_fxQueueCtl (q : Nat) (old : Bool) (v : Nat) (m : Dram) : Lasts (fxQueueCtl q old v m) :=
  lasts_get fun _ => (lasts_blockEnable _ _ _ _ (lasts_pure _) (lasts_queueEnter _)).then fun _ => lasts_if (lasts_resumePair _ _) (lasts_pure _)

theorem lasts_fxCellarCmd (op e : Nat) : Lasts (fxCellarCmd op e) :=
  lasts_cmdActive _ (lasts_if (lasts_get fun _ => (lasts_forM _ fun _ => lasts_wr _ _).then fun _ => lasts_cmdEnd _ _) (lasts_cmdEnd _ _))

end Sys2Proof.Machine
end

section
/-! No entry on its way is lost: the commands of CHRON, MODID, TIME, TAMPER, lanes, power and FACTORY. -/
namespace Sys2Proof.Machine
open Sys2Proof

theorem lasts_chronCheck : Lasts chronCheck := by
  refine lasts_get fun _ => ?_
  split
  · exact lasts_cmdEnd _ _
  · exact lasts_cmdEnd _ _

theorem lasts_chronSign : Lasts chronSign := by
  refine lasts_get fun _ => ?_
  split
  · exact lasts_askRandom _ _ _
  · exact lasts_cmdEnd _ _

theorem lasts_fxChronCmd (op : Nat) : Lasts (fxChronCmd op) :=
  lasts_cmdActive _ (lasts_if (lasts_raiseSeal.then fun _ => lasts_cmdEnd _ _) (lasts_if lasts_chronCheck (lasts_if lasts_chronSign
    (lasts_cmdEnd _ _))))

theorem lasts_traceFlush : Lasts traceFlush :=
  lasts_getChron fun _ => lastsFrom_if (lastsFrom_chron (by rfl) (by rfl)) (lasts_when lasts_traceSwitch fun _ => lasts_raise _ _).from

theorem lasts_traceFlushNow : Lasts traceFlushNow :=
  lasts_get fun _ => lasts_if (lasts_traceSplit.then fun _ => lasts_raise _ _) (lasts_if (lasts_traceSwitch.then fun _ =>
    lasts_raise _ _) (lasts_raise _ _))

theorem lasts_fxTraceCtl (flushNow flush : Bool) : Lasts (fxTraceCtl flushNow flush) :=
  lasts_if (lasts_traceFlushNow.then fun _ => lasts_if (lasts_traceFlush.then fun _ =>
    lasts_traceLevel) lasts_traceLevel) (lasts_if (lasts_traceFlush.then fun _ => lasts_traceLevel) lasts_traceLevel)

theorem lasts_modModule (i : Nat) (f : ModInput → ModInput) : Lasts (modModule i f) := lasts_get fun _ => lasts_prim rfl

theorem lasts_startRead (i : Nat) : Lasts (startRead i) := lasts_get fun _ => (lasts_wr _ _).then fun _ => lasts_modModule _ _

theorem lasts_moduleIdle (i : Nat) : Lasts (moduleIdle i) :=
  lasts_get fun _ => lasts_if ((lasts_wr _ _).then fun _ => (lasts_modModule _ _).then fun _ => (lasts_suspendModule _).then fun _ =>
    lasts_raise _ _) (lasts_pure _)

theorem lasts_modidLeave : Lasts modidLeave := lasts_forM _ fun _ => lasts_moduleIdle _

theorem lasts_loadRec (i : Nat) : Lasts (loadRec i) :=
  lasts_get fun _ => (lasts_forM _ fun _ => lasts_wr _ _).then fun _ => (lasts_forM _ fun _ => lasts_wr _ _).then fun _ =>
    lasts_forM _ fun _ => lasts_wr _ _

theorem lasts_fxModidCmd (op i : Nat) : Lasts (fxModidCmd op i) :=
  lasts_cmdActive _ (lasts_if (lasts_cmdEnd _ _) (lasts_if (lasts_cmdEnd _ _) (lasts_if ((lasts_loadRec _).then fun _ =>
    lasts_cmdEnd _ _) (lasts_get fun _ => lasts_if ((lasts_startRead _).then fun _ => lasts_cmdEnd _ _) (lasts_cmdEnd _ _)))))

theorem lasts_stepRefused (code : Nat) : Lasts (stepRefused code) := lasts_get fun _ => (lasts_raiseNamed _ _ _ _).then fun _ => lasts_cmdEnd _ _

theorem lasts_adjust (kind value : Nat) : Lasts (adjust kind value) :=
  lasts_get fun _ => lasts_either (lasts_prim rfl) (lasts_prim rfl) fun _ => lasts_get fun _ => (lasts_wr _ _).then fun _ =>
    (lasts_setCond _ _ _).then fun _ => (lasts_bump _).then fun _ => (lasts_raiseNamed _ _ _ _).then fun _ => lasts_cmdEnd _ _

theorem lasts_timeSet : Lasts timeSet := lasts_get fun _ => lasts_if (lasts_stepRefused _) (lasts_adjust _ _)

theorem lasts_timeStep : Lasts timeStep := lasts_get fun _ => lasts_if (lasts_stepRefused _) (lasts_adjust _ _)

theorem lasts_timeChallenge : Lasts timeChallenge := lasts_get fun _ => (lasts_prim rfl).then fun _ => lasts_askRandom _ _ _

theorem lasts_timeAuth (d : Dram) : Lasts (timeAuth d) := by
  refine lasts_get fun _ => (lasts_prim rfl).then fun _ => (lasts_readDram _ _ _ _).then fun _ => ?_
  split
  · exact lasts_stepRefused _
  · refine lasts_if (lasts_stepRefused _) ?_
    split
    · exact lasts_stepRefused _
    · refine lasts_if (lasts_stepRefused _) ((lasts_readDram _ _ _ _).then fun _ => ?_)
      split
      · exact lasts_stepRefused _
      · exact (lasts_countUse _).then fun _ => (lasts_bumpMod _).then fun _ =>
          lasts_if (lasts_if (lasts_adjust _ _) (lasts_adjust _ _)) ((lasts_bump _).then fun _ => lasts_stepRefused _)

theorem lasts_fxTimeCmd (op : Nat) (d : Dram) : Lasts (fxTimeCmd op d) :=
  lasts_cmdActive _ (lasts_if lasts_timeSet (lasts_if lasts_timeStep (lasts_if lasts_timeChallenge (lasts_if (lasts_timeAuth _)
    (lasts_cmdEnd _ _)))))

theorem lasts_selfCheck (fails : BitVec 16) : Lasts (selfCheck fails) :=
  (lasts_wr _ _).then fun _ => lasts_if ((lasts_raise _ _).then fun _ => lasts_forM _ fun _ => lasts_get fun _ =>
    lasts_if (lasts_tamperEvent _) (lasts_pure _)) (lasts_forM _ fun _ => lasts_get fun _ => lasts_if (lasts_tamperEvent _) (lasts_pure _))

theorem lasts_fxTamperCmd (op src : Nat) (fails : BitVec 16) : Lasts (fxTamperCmd op src fails) :=
  lasts_cmdActive _ (lasts_if (lasts_if ((lasts_wr _ _).then fun _ => lasts_get fun _ => (lasts_setCondQuiet _ _).then fun _ =>
    lasts_cmdEnd _ _) (lasts_get fun _ => (lasts_setCondQuiet _ _).then fun _ => lasts_cmdEnd _ _)) (lasts_if (lasts_get fun _ =>
    lasts_if (lasts_cmdEnd _ _) ((lasts_forM _ fun _ => lasts_wrWord _ _).then fun _ => (lasts_wr _ _).then fun _ =>
    (lasts_wr _ _).then fun _ => lasts_get fun _ => (lasts_prim rfl).then fun _ => lasts_logFull.then fun _ =>
    lasts_cmdEnd _ _)) (lasts_if ((lasts_selfCheck _).then fun _ => lasts_cmdEnd _ _) (lasts_if ((lasts_tamperEvent _).then fun _ =>
    lasts_cmdEnd _ _) (lasts_cmdEnd _ _)))))

theorem lasts_katStart (l : Nat) (r : KatReason) : Lasts (katStart l r) := lasts_get fun _ => lasts_if (lasts_katBegin _ _) (lasts_pure _)

theorem lasts_fxLaneCmd (l : Nat) (inject fence kat : Bool) : Lasts (fxLaneCmd l inject fence kat) := by
  refine lasts_get fun _ => ?_
  extract_lets -underBinder j
  have hj : ∀ r, Lasts (j r) := by
    intro r
    unfold j
    exact lasts_if (lasts_fenceLane _ _) (lasts_if (lasts_katStart _ _) (lasts_pure _))
  exact lasts_if (lasts_if ((lasts_unitAlarm _ _).then hj) ((lasts_modLane _ _).then hj)) (hj ())

theorem lasts_fxSchedCommit (commit : Bool) : Lasts (fxSchedCommit commit) :=
  lasts_if (lasts_get fun _ => lasts_if (lasts_prim rfl) (lasts_raise _ _)) (lasts_pure _)

theorem lasts_loadGuard : Lasts loadGuard := lasts_get fun _ => lasts_if ((lasts_prim rfl).then fun _ => lasts_setCond _ _ _) (lasts_setCond _ _ _)

theorem lasts_guardRefresh : Lasts guardRefresh :=
  lasts_get fun _ => lasts_if (lasts_if ((lasts_setDomain _ _).then fun _ =>
    lasts_loadGuard) (lasts_pure _)) ((lasts_setDomain _ _).then fun _ => (lasts_prim rfl).then fun _ => lasts_setCond _ _ _)

theorem lasts_fxWakeClear (clear : Bool) : Lasts (fxWakeClear clear) := lasts_if (lasts_get fun _ => lasts_prim rfl) (lasts_pure _)

theorem lasts_fxWakeWctr (f v : Nat) : Lasts (fxWakeWctr f v) := lasts_wrMax _ _

theorem lasts_startDescent : Lasts startDescent :=
  lasts_get fun _ => (lasts_wr _ _).then fun _ => (lasts_wr _ _).then fun _ => (lasts_wr _ _).then fun _ => lasts_prim rfl

theorem lasts_fxPowerCmd (op : Nat) : Lasts (fxPowerCmd op) :=
  lasts_get fun _ => lasts_if (lasts_if (lasts_if lasts_startDescent (lasts_if (lasts_wr _ _) (lasts_pure _))) (lasts_if (lasts_wakeBy _ _
    _) (lasts_pure _))) (lasts_pure _)

theorem lasts_setSeg (g st : Nat) : Lasts (setSeg g st) := (lasts_rd _).then fun _ => (lasts_wr _ _).then fun _ => lasts_wrBit _ _ _

theorem lasts_wakeSegment (g : Nat) (frame : Bool) : Lasts (wakeSegment g frame) :=
  lasts_get fun _ => lasts_if (lasts_prim rfl) (lasts_if ((lasts_prim rfl).then fun _ =>
    lasts_setSeg _ _) (lasts_if (lasts_prim rfl) (lasts_pure _)))

theorem lasts_fxSegCtl (park : Nat) : Lasts (fxSegCtl park) :=
  lasts_get fun _ => lasts_if (lasts_forM _ fun _ => lasts_get fun _ =>
    lasts_if (lasts_if (lasts_if (lasts_setSeg _ _) (lasts_raise _ _)) (lasts_pure _)) (lasts_wakeSegment _ _)) (lasts_pure _)

theorem lasts_mbistClear (g : Nat) : Lasts (mbistClear g) :=
  lasts_if (lasts_dropLines _ _) (lasts_if ((lasts_prim rfl).then fun _ => lasts_get fun _ => lasts_prim rfl)
    (lasts_if (lasts_getChron fun _ => lastsFrom_chron (by rfl) (by rfl))
      (lasts_if ((lasts_prim rfl).then fun _ => lasts_keyOccupancy) (lasts_pure _))))

theorem lasts_mbist (fails : BitVec 9) : Lasts (mbist fails) :=
  lasts_get fun _ => (lasts_forM _ fun _ => lasts_mbistClear _).then fun _ => (lasts_wr _ _).then fun _ => (lasts_wr _ _).then fun _ =>
    lasts_if ((lasts_raise _ _).then fun _ => lasts_cmdEnd _ _) (lasts_cmdEnd _ _)

theorem lasts_loopScan (differs : BitVec 64) : Lasts (loopScan differs) :=
  (lasts_forM _ fun _ => (lasts_wr _ _).then fun _ => (lasts_wr _ _).then fun _ => lasts_wr _ _).then fun _ => lasts_cmdEnd _ _

theorem lasts_sensorTrip (arg : Nat) (reported : Bool) : Lasts (sensorTrip arg reported) :=
  lasts_if ((lasts_wr _ _).then fun _ => (lasts_wr _ _).then fun _ => lasts_cmdEnd _ _) (lasts_cmdEnd _ _)

theorem lasts_fuseKcv : Lasts fuseKcv := lasts_get fun _ => (lasts_wr _ _).then fun _ => lasts_cmdEnd _ _

theorem lasts_fxFactoryCmd (op arg : Nat) (fails : BitVec 9) (differs : BitVec 64) (reported : Bool) :
    Lasts (fxFactoryCmd op arg fails differs reported) :=
  lasts_cmdActive _ (lasts_get fun _ => lasts_if ((lasts_raise _ _).then fun _ => (lasts_unitAlarm _ _).then fun _ =>
    lasts_cmdEnd _ _) (lasts_if (lasts_mbist _) (lasts_if (lasts_loopScan _) (lasts_if (lasts_sensorTrip _ _) (lasts_if lasts_fuseKcv
    (lasts_cmdEnd _ _))))))

end Sys2Proof.Machine
end

section
/-! No entry on its way is lost: freshness, Loose contexts and Kiln passes. -/
namespace Sys2Proof.Machine
open Sys2Proof

theorem lasts_switchNow (i : Nat) : Lasts (switchNow i) := by
  refine lasts_get fun _ => lasts_if (lasts_cmdEnd _ _) ?_
  split
  · exact lasts_cmdEnd _ _
  · exact (lasts_switchTx _ _ _).then fun _ => lasts_cmdEnd _ _

theorem lasts_resync (h v : Nat) : Lasts (resync h v) := by
  refine lasts_get fun _ => ?_
  split
  · exact lasts_cmdEnd _ _
  · exact lasts_if (lasts_cmdEnd _ _) ((lasts_putRxState _ _).then fun _ => lasts_cmdEnd _ _)

theorem lasts_fxFreshCmd (op sw h : Nat) : Lasts (fxFreshCmd op sw h) :=
  lasts_cmdActive _ (lasts_if (lasts_switchNow _) (lasts_if (lasts_get fun _ => lasts_resync _ _) (lasts_cmdEnd _ _)))

theorem lasts_fxSwitchCtl (i : Nat) : Lasts (fxSwitchCtl i) :=
  lasts_get fun _ => lasts_if (lasts_if (lasts_if ((lasts_wr _ _).then fun _ =>
    lasts_wr _ _) (lasts_switchBad _)) (lasts_pure _)) (lasts_if (lasts_wr _ _) (lasts_pure _))

theorem lasts_looseOverrun (c : Nat) : Lasts (looseOverrun c) := (lasts_wr _ _).then fun _ => lasts_raise _ _

theorem lasts_fxLooseGo (c : Nat) : Lasts (fxLooseGo c) := by
  refine lasts_get fun _ => lasts_if (lasts_pure _) (lasts_if (lasts_looseOverrun _) ((lasts_wr _ _).then fun _ => ?_))
  split
  · exact lasts_looseEnd _ _ _
  · exact (lasts_dropWork _).then fun _ => (lasts_prim rfl).then fun _ => lasts_countUse _

theorem lasts_looseSave (c : Nat) (d : Dram) (rec : Bytes) : Lasts (looseSave c d rec) :=
  lasts_get fun _ => (lasts_dramWrite _ _ _ _).then fun _ => lasts_looseEnd _ _ _

theorem lasts_looseSaveClear (c : Nat) (d : Dram) : Lasts (looseSaveClear c d) :=
  lasts_get fun _ => lasts_if (lasts_looseEnd _ _ _) (lasts_looseSave _ _ _)

theorem lasts_looseSaveWrap (c : Nat) (d : Dram) : Lasts (looseSaveWrap c d) := by
  refine lasts_get fun _ => ?_
  extract_lets
  split
  · exact lasts_looseEnd _ _ _
  · refine (lasts_reserveInv _).then fun _ => ?_
    split
    · exact lasts_looseEnd _ _ _
    · exact (lasts_countCeilWait _).then fun _ => lasts_prim rfl
    · refine (lasts_countUse _).then fun _ => (lasts_laneWork _ _).then fun _ => ?_
      extract_lets
      split
      exact lasts_looseSave _ _ _

theorem lasts_looseLoad (c : Nat) (rec st : Bytes) : Lasts (looseLoad c rec st) :=
  (lasts_wr _ _).then fun _ => (lasts_wr _ _).then fun _ => (lasts_wr _ _).then fun _ => (lasts_wr _ _).then fun _ =>
    (lasts_forM _ fun _ => lasts_putBlock _ _ _ _).then fun _ => (lasts_putBlock _ _ _ _).then fun _ =>
    (lasts_putBlock _ _ _ _).then fun _ => lasts_looseEnd _ _ _

theorem lasts_looseAuthFail (c : Nat) : Lasts (looseAuthFail c) := by
  refine lasts_get fun _ => ?_
  extract_lets -underBinder j
  have hj : ∀ r, Lasts (j r) := fun _ => (lasts_raise _ _).then fun _ => lasts_looseEnd _ _ _
  exact lasts_if ((lasts_forM _ fun _ => lasts_putBlock _ _ _ _).then fun _ => (lasts_putBlock _ _ _ _).then fun _ =>
    (lasts_putBlock _ _ _ _).then fun _ => (lasts_wr _ _).then fun _ => (lasts_wr _ _).then fun _ => (lasts_wr _ _).then hj) (hj ())

theorem lasts_looseRestore (c : Nat) (d : Dram) : Lasts (looseRestore c d) := by
  refine lasts_get fun _ => (lasts_readDram _ _ _ _).then fun _ => ?_
  split
  · exact lasts_looseEnd _ _ _
  · refine (lasts_readDram _ _ _ _).then fun _ => ?_
    split
    · exact lasts_looseEnd _ _ _
    · refine lasts_if (lasts_looseEnd _ _ _) (lasts_if (lasts_if (lasts_looseLoad _ _ _) (lasts_looseEnd _ _ _)) ?_)
      extract_lets
      split
      · exact lasts_looseEnd _ _ _
      · exact (lasts_countUse _).then fun _ => (lasts_laneWork _ _).then fun _ =>
          lasts_if (lasts_looseEnd _ _ _) (lasts_if (lasts_looseAuthFail _) (lasts_if (lasts_looseEnd _ _ _) (lasts_looseLoad _ _ _)))

theorem lasts_looseRun (c op : Nat) (d : Dram) : Lasts (looseRun c op d) :=
  lasts_get fun _ => lasts_if (lasts_looseSaveClear _ _) (lasts_if (lasts_prim rfl) (lasts_if (lasts_looseSaveWrap _ _) (lasts_if
    (lasts_looseRestore _ _) (lasts_looseEnd _ _ _))))

theorem lasts_fxLooseCmd (c op : Nat) (d : Dram) : Lasts (fxLooseCmd c op d) := by
  refine lasts_get fun _ => lasts_if (lasts_pure _) ?_
  split
  · exact (lasts_wr _ _).then fun _ => lasts_looseRun _ _ _
  · exact lasts_if (lasts_looseOverrun _) (lasts_prim rfl)
  · exact lasts_looseOverrun _

theorem lasts_fxLooseKey (c : Nat) : Lasts (fxLooseKey c) := by
  refine lasts_get fun _ => ?_
  split
  · exact lasts_pure _
  · exact lasts_looseBind _

theorem lasts_kilnStart : Lasts kilnStart := by
  refine lasts_get fun _ => ?_
  extract_lets -underBinder n old new j
  have hj : ∀ r, Lasts (j r) := fun _ => (lasts_raise _ _).then fun _ => lasts_cmdEnd _ _
  exact lasts_if (hj _) (lasts_if (hj _) (lasts_if (hj _) ((lasts_setPasses _).then fun _ => lasts_freshPayload.then fun _ =>
    lasts_freshPayload.then fun _ => (lasts_pageEntry _ _ _ _).then fun _ => lasts_cmdEnd _ _)))

theorem lasts_withPass {f : Pass → M Unit} (hf : ∀ a, Lasts (f a)) : Lasts (withPass f) := by
  refine lasts_get fun _ => ?_
  split
  · exact lasts_cmdEnd _ _
  · exact (hf _)

theorem lasts_kilnPause (b : Bool) : Lasts (kilnPause b) :=
  lasts_withPass fun _ => lasts_get fun _ => (lasts_setPasses _).then fun _ => lasts_cmdEnd _ _

theorem lasts_kilnDiscard : Lasts kilnDiscard :=
  lasts_withPass fun _ => lasts_get fun _ => lasts_if (lasts_cmdEnd _ _) ((lasts_dropHeld _ _).then fun _ => lasts_get fun _ =>
    (lasts_setPasses _).then fun _ => (lasts_raise _ _).then fun _ => lasts_cmdEnd _ _)

theorem lasts_fxKilnCmd (op : Nat) : Lasts (fxKilnCmd op) :=
  lasts_if (lasts_cmdStart _ lasts_kilnStart) (lasts_cmdActive _ (lasts_if (lasts_kilnPause _) (lasts_if (lasts_kilnPause _) (lasts_if
    lasts_kilnDiscard (lasts_cmdEnd _ _)))))

theorem lasts_fxTreeCmd (op i : Nat) : Lasts (fxTreeCmd op i) :=
  lasts_cmdActive _ (lasts_if (lasts_cmdEnd _ _) (lasts_get fun _ => (lasts_wr _ _).then fun _ => (lasts_wr _ _).then fun _ =>
    (lasts_wr _ _).then fun _ => (lasts_wr _ _).then fun _ => (lasts_wr _ _).then fun _ => lasts_cmdEnd _ _))

end Sys2Proof.Machine
end

section
/-! No entry on its way is lost: pages, and every write. -/
namespace Sys2Proof.Machine
open Sys2Proof

theorem lasts_blockEnter (p n : Nat) (m : MemView) : Lasts (blockEnter p n m) :=
  lasts_if (lasts_queueEnter _) (lasts_if (lasts_pure _) (lasts_if (lasts_pairEnter _) (lasts_regionEnter _ _)))

theorem lasts_blockDrains (p n : Nat) : Lasts (blockDrains p n) :=
  lasts_if (lasts_pure _) (lasts_if (lasts_portDrain _) (lasts_if (lasts_pure _) (lasts_dropTables _)))

theorem lasts_pageEnterOne (p : Nat) (m : MemView) : Lasts (pageEnterOne p m) := by
  refine (lasts_forM _ fun _ => lasts_get fun _ => lasts_if ((lasts_setBlock _ _).then fun _ =>
    lasts_blockEnter _ _ _) (lasts_pure _)).then fun _ => ?_
  extract_lets -underBinder j
  have hj : ∀ r, Lasts (j r) := by
    intro r
    unfold j
    exact lasts_when lasts_laneRefresh fun _ => lasts_when lasts_kilnRefresh fun _ => lasts_when (lasts_forM _ fun _ =>
      lasts_partCheckDrop _) fun _ => lasts_if (lasts_fifoRefill.then fun _ => lasts_rngRefresh.then fun _ =>
      lasts_if lasts_guardRefresh (lasts_pure _)) (lasts_if lasts_guardRefresh (lasts_pure _))
  exact lasts_if (lasts_pairsRefresh.then fun _ => (lasts_forM _ fun _ => lasts_loopEval _).then hj) (hj ())

theorem lasts_pageEnter (p : Nat) (m : MemView) : Lasts (pageEnter p m) :=
  (lasts_pageEnterOne _ _).then fun _ => lasts_forM _ fun _ => lasts_get fun _ => lasts_if ((lasts_setPageState _ _ _).then fun _ =>
    lasts_pageEnterOne _ _) (lasts_pure _)

theorem lasts_pageDrainOne (p : Nat) : Lasts (pageDrainOne p) :=
  (lasts_forM _ fun _ => lasts_get fun _ => lasts_if ((lasts_setBlock _ _).then fun _ =>
    lasts_blockDrains _ _) (lasts_pure _)).then fun _ => lasts_when lasts_pairsRefresh fun _ => lasts_when lasts_laneRefresh fun _ =>
    lasts_when lasts_kilnRefresh fun _ => lasts_if (lasts_guardRefresh.then fun _ =>
    lasts_if lasts_modidLeave (lasts_pure _)) (lasts_if lasts_modidLeave (lasts_pure _))

theorem lasts_pageDrain (p : Nat) : Lasts (pageDrain p) :=
  (lasts_pageDrainOne _).then fun _ => lasts_forM _ fun _ => lasts_get fun _ => lasts_if ((lasts_prim rfl).then fun _ =>
    (lasts_setPageState _ _ _).then fun _ => lasts_pageDrainOne _) (lasts_pure _)

theorem lasts_pageEnable (p : Nat) (en : Bool) (m : MemView) : Lasts (pageEnable p en m) :=
  lasts_get fun _ => (lasts_wr _ _).then fun _ => lasts_if (lasts_if ((lasts_setPageState _ _ _).then fun _ =>
    lasts_pageEnter _ _) (lasts_pure _)) (lasts_if (lasts_if ((lasts_prim rfl).then fun _ => (lasts_setPageState _ _ _).then fun _ =>
    lasts_pageDrain _) (lasts_pure _)) (lasts_if (lasts_if (lasts_wr _ _) (lasts_pure _)) (lasts_pure _)))

theorem lasts_softResetUnit (p : Nat) : Lasts (softResetUnit p) := by
  refine lasts_when (lasts_forM _ fun _ => (lasts_wr _ _).then fun _ => (lasts_wr _ _).then fun _ => lasts_wr _ _) fun _ =>
    (lasts_forM _ fun _ => lasts_get fun _ => lasts_if (lasts_setBlock _ _) (lasts_pure _)).then fun _ => ?_
  extract_lets -underBinder j
  have hj : ∀ r, Lasts (j r) := by
    intro r
    unfold j
    extract_lets -underBinder j
    have hj : ∀ r, Lasts (j r) := by
      intro r
      unfold j
      extract_lets -underBinder j
      have hj : ∀ r, Lasts (j r) := by
        intro r
        unfold j
        extract_lets -underBinder j
        have hj : ∀ r, Lasts (j r) := by
          intro r
          unfold j
          extract_lets -underBinder j
          have hj : ∀ r, Lasts (j r) := by
            intro r
            unfold j
            exact lasts_if ((lasts_prim rfl).then fun _ => lasts_get fun _ => lasts_forM _ fun _ => lasts_wrWord _ _) (lasts_pure _)
          exact lasts_if ((lasts_prim rfl).then fun _ => lasts_get fun _ => (lasts_prim rfl).then fun _ => lasts_trieRefresh.then hj) (hj ())
        exact lasts_if (lasts_get fun _ => (lasts_forM _ fun _ => lasts_removePeer _ _).then hj) (hj ())
      exact lasts_if (lasts_get fun _ => (lasts_forM _ fun _ => lasts_removeEntry _ _).then fun _ => lasts_get fun _ =>
        (lasts_prim rfl).then fun _ => (lasts_prim rfl).then fun _ => (lasts_prim rfl).then fun _ => (lasts_prim rfl).then hj) (hj ())
    exact lasts_if (lasts_get fun _ => (lasts_prim rfl).then hj) (hj ())
  exact lasts_if ((lasts_modLane _ _).then fun _ => (lasts_setCondQuiet _ _).then hj) (hj ())

theorem lasts_pageRefresh (p : Nat) : Lasts (pageRefresh p) :=
  lasts_when lasts_auditLevel fun _ => lasts_when lasts_cellarOccupancy fun _ => lasts_when lasts_laneRefresh fun _ =>
    lasts_when_do (lasts_forM _ fun _ => lasts_pairRefresh _) (fun _ => lasts_tenantRefresh _) fun _ =>
    lasts_when (lasts_forM _ fun _ => lasts_portRefresh _) fun _ =>
    lasts_when_do (lasts_forM _ fun _ => lasts_loopEval _) (fun _ => lasts_pairsRefresh) fun _ =>
    lasts_when lasts_assocRefresh fun _ => lasts_when lasts_cacheRefresh fun _ => lasts_when lasts_kilnRefresh fun _ =>
    lasts_when lasts_rngRefresh fun _ => lasts_if lasts_guardRefresh (lasts_pure _)

theorem lasts_softReset (p : Nat) : Lasts (softReset p) :=
  lasts_get fun _ => (lasts_softResetUnit _).then fun _ => lasts_get fun _ => (lasts_forM _ fun _ => lasts_wrWord _ _).then fun _ =>
    (lasts_wr _ _).then fun _ => (lasts_rd _).then fun _ => (lasts_wr _ _).then fun _ => (lasts_wr _ _).then fun _ =>
    lasts_if ((lasts_setPageState _ _ _).then fun _ => (lasts_prim rfl).then fun _ => lasts_pageRefresh _) ((lasts_prim rfl).then fun _ =>
    lasts_pageRefresh _)

theorem lasts_sealPage (p : Nat) : Lasts (sealPage p) := (lasts_wr _ _).then fun _ => lasts_wr _ _

theorem lasts_fxPgCtl (p : Nat) (v : Word) (m : MemView) : Lasts (fxPgCtl p v m) :=
  lasts_if (lasts_if ((lasts_softReset _).then fun _ => lasts_if (lasts_sealPage _) (lasts_pure _)) ((lasts_pageEnable _ _ _).then fun _ =>
    lasts_if (lasts_sealPage _) (lasts_pure _))) (lasts_if (lasts_sealPage _) (lasts_pure _))

theorem lasts_fxSealAll (rid : BitVec 12) (v : Word) : Lasts (fxSealAll rid v) :=
  lasts_if ((lasts_forM _ fun _ => lasts_sealPage _).then fun _ => lasts_forM _ fun _ => lasts_stamp.then fun _ =>
    lasts_raiseItem _ _ _ _ _ _ _) (lasts_pure _)

theorem lasts_fxLow (rid : BitVec 12) {a : Nat} (ha : a ≠ R.CHRON_AUDIT_HEAD.INDEX.addr) (v : Word) (x : WriteAnswers) : Lasts (fxLow rid a v x) :=
  lasts_if (lasts_fxSealAll _ _) (lasts_if (lasts_fxTimeCmd _ _) (lasts_ite (fun h => absurd h ha) fun _ => lasts_if lasts_auditLevel (lasts_if
    (lasts_fxChronCmd _) (lasts_if (lasts_fxTraceCtl _ _) (lasts_if lasts_traceLevel (lasts_if (lasts_fxCellarCmd _ _) (lasts_if
    (lasts_fxPowerCmd _) (lasts_if (lasts_fxSegCtl _) (lasts_if (lasts_fxTamperCmd _ _ _) (lasts_if (lasts_fxLaneCmd _ _ _ _) (lasts_if
    (lasts_fxSchedCommit _) (lasts_pure _))))))))))))

theorem lasts_fxStreams (s0 : State) (a : Nat) (v : Word) (x : WriteAnswers) : Lasts (fxStreams s0 a v x) :=
  lasts_if (lasts_if (lasts_tenantRefresh _) (lasts_if (lasts_if (lasts_fxCtail _ _) (lasts_if (lasts_fxRhead _ _) (lasts_if
    (lasts_fxQueueCtl _ _ _ _) (lasts_pure _)))) (lasts_pure _))) (lasts_if (lasts_if (lasts_if (lasts_fxPortWm _) (lasts_if
    (lasts_fxPortCtl _ _ _) (lasts_pure _))) (lasts_pure _)) (lasts_if (lasts_if (lasts_loopEval _) (lasts_if (lasts_fxPairEn _ _ _)
    (lasts_pure _))) (lasts_pure _)))

theorem lasts_fxMiddle (s0 : State) (a : Nat) (v : Word) (x : WriteAnswers) : Lasts (fxMiddle s0 a v x) :=
  lasts_if (lasts_fxAssocCmd _ _ _ _) (lasts_if lasts_assocRefresh (lasts_if (lasts_fxLearnCmd _ _) (lasts_if (lasts_fxTrieCmd _ _)
    (lasts_if lasts_clampLease (lasts_if (lasts_fxFreshCmd _ _ _) (lasts_if (lasts_fxSwitchCtl _) (lasts_if (lasts_fxAnchorCmd _ _ _)
    (lasts_if (lasts_fxMemCmd _ _) (lasts_if (lasts_fxRegionCtl _ _ _ _) (lasts_if (lasts_fxCacheCmd _) (lasts_if lasts_cacheRefresh
    (lasts_if (lasts_fxKilnCmd _) (lasts_if lasts_kilnRefresh (lasts_if (lasts_fxTreeCmd _ _) (lasts_if (lasts_fxStorCmd _ _ _) (lasts_pure
    _))))))))))))))))

theorem lasts_fxHigh (a : Nat) (v : Word) (x : WriteAnswers) : Lasts (fxHigh a v x) :=
  lasts_if (lasts_fxKeysCmd _ _) (lasts_if (lasts_fxDeriveCmd _ _ _ _ _) (lasts_if (lasts_fxSlotsCmd _ _ _) (lasts_if (lasts_fxPkeCmd _ _
    _) (lasts_if (lasts_if (lasts_fxLooseKey _) (lasts_if (lasts_if (lasts_fxLooseGo _) (lasts_pure _)) (lasts_if (lasts_fxLooseCmd _ _ _)
    (lasts_pure _)))) (lasts_if (lasts_fxRngCmd _ _ _) (lasts_if lasts_fxTestCtl (lasts_if lasts_guardRefresh (lasts_if (lasts_fxWakeClear
    _) (lasts_if (lasts_fxWakeWctr _ _) (lasts_if (lasts_fxModidCmd _ _) (lasts_if (lasts_fxFactoryCmd _ _ _ _ _) (lasts_pure _))))))))))))

/-- No effect of a write lets go of an entry on its way but that of CHRON_AUDIT_HEAD, which lets the hold go to the ring. -/
theorem lasts_fxWrite (s : State) (rid : BitVec 12) {a : Nat} (ha : a ≠ R.CHRON_AUDIT_HEAD.INDEX.addr) (v : Word) (x : WriteAnswers) :
    Lasts (fxWrite s rid a v x) :=
  lasts_if (lasts_fxPgCtl _ _ _) (lasts_if (lasts_fxLow _ ha _ _) (lasts_if (lasts_fxStreams _ _ _ _) (lasts_if (lasts_fxMiddle _ _ _ _)
    (lasts_fxHigh _ _ _))))

end Sys2Proof.Machine
end

section
/-! O10: a write that a case of R78 meets is rejected, and any other is recorded as accepted (R73, R78, R79). -/
namespace Sys2Proof.Machine
open Sys2Proof

/-! ### The record of an accepted write -/

/-- The write is on record as accepted; on the CHRON page it can be counted instead (R80, R597). -/
def State.tellsAccepted (t : State) (st : Stamp) (w : HostWr) (old : Word) : Prop :=
  t.tells st w.page (w.rid.setWidth 16) 0x0001 (writePayload w.value old w.addr.toNat 0) ∨ (w.page = 0x03 ∧ t.counts 0x0001)

theorem leads_recordWrite (st : Stamp) (w : HostWr) (old : Word) :
    Leads (fun _ => True) (recordWrite st w old 0) fun _ t => t.tellsAccepted st w old := by
  intro s l _
  rw [recordWrite, if_pos rfl]
  refine (raiseItem_tells _ _ s l).imp_right (And.imp_left fun h => ?_)
  by_contra other
  exact h (if_neg other)

theorem Onward.tells {t u : State} (h : Onward t u) {st : Stamp} {page : Nat} {req code : BitVec 16} {x : BitVec 96}
    (k : t.tells st page req code x) : u.tells st page req code x := by
  obtain ⟨w, hw, k⟩ := k
  exact ⟨w, h.entries w hw, k⟩

theorem Lasts.keeps_tellsAccepted {m : M Unit} (h : Lasts m) (st : Stamp) (w : HostWr) (old : Word) :
    Keeps (fun t => t.tellsAccepted st w old) m := by
  intro s l k
  have onward := h (runAll l s) s l (.refl _)
  exact k.imp onward.tells (And.imp_right (onward.counts _))

/-- An accepted write is on record, if its effect lets go of nothing on its way. -/
theorem acceptWrite_tells (w : HostWr) (old : Word) {effect : M Unit} (lasts : Lasts effect) (s : State) :
    (runM (acceptWrite w old effect) s).tellsAccepted ⟨s.now, s.time.seq⟩ w old := by
  let st : Stamp := ⟨s.now, s.time.seq⟩
  have tail (b : Bool) : Leads (fun _ => True) (recordWrite st w old 0 >>= fun _ => if b = true then effect else pure ())
      fun _ t => t.tellsAccepted st w old :=
    leads_bind (leads_recordWrite st w old) fun _ => keeps_ite (lasts.keeps_tellsAccepted st w old) (keeps_pure _)
  exact tail _ s _ trivial

/-! ### The outcome -/

theorem not_definedAt (a : Nat) : (if a % 0x1000 < 0x40 then decide (0x30 ≤ a % 0x1000) else (findReg a).isNone) = !definedAt a := by
  unfold definedAt
  split
  · rw [← decide_not]
    simp only [Nat.not_lt]
  · cases findReg a <;> rfl

/-- The table of R78, over the register that a write addresses. -/
theorem writeOutcome_table (s : State) (w : HostWr) : s.writeOutcome w =
    let p := w.page
    let a := w.at
    if carried p = false then 0x8 else if w.strb ≠ 0xF then 0x2 else if w.addr.toNat % 4 ≠ 0 then 0x3 else if s.srstBusy p = true then 0x7
    else if (if a % 0x1000 < 0x40 then decide (0x30 ≤ a % 0x1000) else (findReg a).isNone) = true
      ∨ (s.domOff p && decide (0x40 ≤ a % 0x1000) && ((typesAt a).contains .wo || notHeld a)) = true then 0x4
    else if (decide (p ≤ 1) && decide (a % 0x1000 = 0x08) && (w.value.getLsbD 0 || w.value.getLsbD 2)) = true then 0xA
    else if s.readOnlyAt a = true then 0x5 else if s.offBlocked a w.value = true then 0x6
    else if s.sealed p = true ∧ .rws ∈ typesAt a then 0x1
    else if auditPage p = true ∧ p ≠ 0x03 ∧ s.auditTakes = false then 0x9 else 0x0 := by
  simp only [State.writeOutcome, not_definedAt, Bool.not_eq_eq_eq_not, Bool.not_true, Bool.or_eq_true, Bool.and_eq_true, decide_eq_true_eq,
    List.contains_iff_mem, and_assoc]

/-- What an entry tells, as a statement of its parts. -/
theorem State.tells.noted {t : State} {st : Stamp} {page : Nat} {rid : BitVec 12} {code : BitVec 16} {x : BitVec 96} (hp : page < 64)
    (h : t.tells st page (rid.setWidth 16) code x) : ∃ w ∈ t.chron.writer ++ t.chron.hold, w.entry.code = code ∧ w.entry.page.toNat = page
      ∧ w.entry.req.toNat = rid.toNat ∧ w.entry.ts = st.ts ∧ w.entry.payload = x := by
  obtain ⟨w, hw, ts, -, pg, rq, cd, pl⟩ := h
  refine ⟨w, hw, cd, ?_, ?_, ts, pl⟩
  · rw [pg, BitVec.toNat_ofNat]
    omega
  · rw [rq, BitVec.toNat_setWidth]
    omega

theorem view_reserved {s : State} {a : Nat} (h : carried (a / 0x1000) = false) : s.view a = 0 := by simp [State.view, h]

/-- Settles O10: R78's table gives the outcome, a rejected write changes its count and what recording changes, and no effect of an accepted write
lets go of its record. -/
theorem rejectedWrites : Obligations.RejectedWrites := by
  unfold Obligations.RejectedWrites
  intro s rid strb addr value dram mem tests record _ p a undefinedAt unheld fixedBits outcome count noted
  let w : HostWr := ⟨rid, strb, addr, value⟩
  let effect := fxWrite s rid a value ⟨dram, mem, tests, record⟩
  have lt : p < 64 := by
    have := addr.isLt
    simp only [p]
    omega
  have met : s.writeOutcome w = outcome := writeOutcome_table s w
  have run : exec (.registerWrite rid strb addr value dram mem tests record) s = exec1 (hostWrite w effect) s := by
    have read (k : State → M Unit) : exec1 (getS >>= k) s = exec1 (k s) s := rfl
    exact read fun u => hostWrite w (fxWrite u rid a value ⟨dram, mem, tests, record⟩)
  refine ⟨fun rejected => ?_, fun accepted => ?_, view_reserved⟩
  · obtain ⟨same, words⟩ := (within_rejectWrite (w := w) (outcome := outcome) rfl lt (s.view a)).leaves s
    have ran : exec (.registerWrite rid strb addr value dram mem tests record) s = .next (runM (rejectWrite w (s.view a) outcome) s) := by
      rw [run, hostWrite_rejected w effect s (met ▸ rejected), met]
      rfl
    refine ⟨_, ran, same, words, rejectWrite_counts rfl _ s, fun carried => ?_, fun h9 h3 => ?_, fun h9 _ => ?_, fun h9 => ?_⟩
    · exact rejectWrite_shows (w := w) rfl carried _ s []
    · exact ((rejectWrite_tells w rejected h9 _ s).resolve_right fun h => h3 h.1).noted lt
    · exact (rejectWrite_tells w rejected h9 _ s).imp (State.tells.noted lt) And.right
    · rw [h9]
      exact rejectWrite_summary w _ s
  · let t := runM (acceptWrite w (s.view a) effect) s
    have ran : exec (.registerWrite rid strb addr value dram mem tests record) s = .next t := by
      rw [run, hostWrite_accepted w effect s (met.trans accepted)]
      rfl
    have told (off : a ≠ R.CHRON_AUDIT_HEAD.INDEX.addr) : noted 0x0001 t ∨ (p = 0x03 ∧ t.counts 0x0001) := by
      have h := (acceptWrite_tells w (s.view a) (lasts_fxWrite s rid off value ⟨dram, mem, tests, record⟩) s).imp_left (State.tells.noted lt)
      rwa [← accepted] at h
    refine ⟨t, ran, fun h3 => ?_, fun _ off => (told off).imp_right And.right⟩
    have off : a ≠ R.CHRON_AUDIT_HEAD.INDEX.addr := by
      simp only [a, p, R.CHRON_AUDIT_HEAD.INDEX] at h3 ⊢
      omega
    exact (told off).resolve_right fun h => h3 h.1
end Sys2Proof.Machine
end

section
/-! O22: a lane fault that reaches the tamper supervisor can run into a held write (R121, R128, R471). -/
namespace Sys2Proof.Machine
open Sys2Proof

/-- A start-up in which a lane glitch has grade 1, with the write of TIME_RC held back (`startingUp`). Lane 0 is powered, and lane 1 has
had a fault at time 0, so a fault of lane 0 within 1000 ns raises MULTI_LANE, and the tamper supervisor is told of it (R128). -/
def glitching : State :=
  { startingUp srcLaneGlitch with lanes := [(0, { powered := true, tested := true }), (1, { faultAt := some 0 })] }

/-- Refutes O22 in its clause that LANE_FAULT changes no word outside PG_STAT of the lane and the pages listed: the copies of a context of
lane 0 differ in one bit while lane 1's fault is recent, the lane glitch during start-up enters GROUNDED, and the end of the Loose operation
writes the word of TIME_RC that it has held back, which `State.wf` does not forbid. -/
theorem not_laneCommands : ¬ Obligations.LaneCommands := by
  intro h
  have wf : glitching.wf := by decide +kernel
  have serves : (glitching.lane 0).powered = true ∧ (glitching.lane 0).fenced = false := by decide +kernel
  obtain ⟨-, fault, -⟩ := h glitching 0 0 wf
  obtain ⟨t, ht, -, -, words, -⟩ := fault 38 1 false serves.1 serves.2
  exact not_wordsBut R.TIME_RC.RATIO.addr ht (by decide +kernel) (by decide +kernel) words

end Sys2Proof.Machine
end

section
/-! O48 and O49: what two descriptors of one number, and a fill that finds the entropy source in FAULT, refute. -/
namespace Sys2Proof.Machine
open Sys2Proof

/-- The Cellar entry of a descriptor under the key of slot 0. -/
def fetchedEntry : CEntry := { kind := .queue, stamp := ⟨0, 0⟩, order := 0, keys := [some ⟨0, 1⟩] }

/-- A descriptor of 64 bytes that executes under an entry. -/
def executingDesc (opcode : Byte) (len entry : Nat) : QDesc :=
  { bytes := [opcode] ++ zeros 23 ++ leBytes 4 len ++ zeros 36, seq := 5, tenant := 0, version := 3, exec := 8, slots := 8, weight := 1,
    entry := some entry, phase := .executing }

/-! ### KEY_UNWRAP beside a descriptor of the same number -/

/-- A 128-bit key of generation 1. -/
def zeroKey : Bank := ⟨zeros 16, 0, 1, 0, .imported, [], none, 0⟩

/-- Queue pair 0 holds two descriptors with the number 5, which `State.wf` does not forbid. The load of the first one, under entry 8, waits
for the retiring bank of slot 1; the second one, under entry 9, unwraps an empty blob. -/
def twoOfOneNumber : State :=
  { State.reset with
    slots := [(0, { st := .live, active := some zeroKey }),
      (1, { st := .live, active := some zeroKey, otherSt := .retiring, other := some zeroKey, queued := [⟨zeroKey, 1, 0, some 8⟩] })]
    cellar := { entries := [(9, some fetchedEntry)] }
    queues := [(0, { descs := [executingDesc 0x13 0 8, executingDesc 0x13 0 9] })] }

theorem twoOfOneNumber_runs : twoOfOneNumber.runs 0x13 9 0 (executingDesc 0x13 0 9) fetchedEntry := by decide +kernel

/-- The end of the second gives up the load of the first, which is the one that its number finds. -/
theorem slots_twoOfOneNumber : (twoOfOneNumber.after (.keyUnwrap 9 {} {})).slots ≠ twoOfOneNumber.slots := by decide +kernel

/-- Refutes O48 in its clause of KEY_UNWRAP, that a blob which is refused leaves every slot as it is: a descriptor ends by its number, and
where another of the pair's has the same number, the load that waits for that one's entry is dropped from its slot. -/
theorem not_keyOperations : ¬ Obligations.KeyOperations := by
  intro h
  have wf : twoOfOneNumber.wf := by decide +kernel
  have key : twoOfOneNumber.entryKey fetchedEntry 0 = some zeroKey := by decide +kernel
  have refused : twoOfOneNumber.openBlob zeroKey.material [] = .error 0x10 := by decide +kernel
  obtain ⟨-, -, -, unwrap, -⟩ := h twoOfOneNumber 9 {} {} 0 (executingDesc 0x13 0 9) fetchedEntry wf
  obtain ⟨t, ht, -, fails, -⟩ := unwrap zeroKey [] twoOfOneNumber_runs key (by decide +kernel)
  obtain ⟨-, slots⟩ := fails 0x10 refused
  rw [eq_after ht] at slots
  exact slots_twoOfOneNumber slots

/-! ### RANDOM_FILL without entropy -/

/-- The entropy source is in FAULT (R490), and a RANDOM_FILL of 32 bytes to address 0 has drawn its first 16. -/
def fillWithoutEntropy : State :=
  { State.reset with
    regs := setFieldVal [] R.RNG_STAT.SRC 4
    drawn := [(9, zeros 16)]
    cellar := { entries := [(9, some fetchedEntry)] }
    queues := [(0, { descs := [executingDesc 0x30 32 9] })] }

theorem fillWithoutEntropy_runs : fillWithoutEntropy.runs 0x30 9 0 (executingDesc 0x30 32 9) fetchedEntry := by decide +kernel

/-- The piece is written, and written over with zeros as the descriptor ends with NO_ENTROPY (R166, R499). -/
theorem out_fillWithoutEntropy : (fillWithoutEntropy.after (.randomFill 9 {})).out.length = 2 := by decide +kernel

/-- Refutes O49 in its clause that RANDOM_FILL drives out the piece drawn and no more: the clause does not ask that the next piece can be
had, and where it cannot, DST is overwritten with zeros in the same step. -/
theorem not_hashAndRandomFill : ¬ Obligations.HashAndRandomFill := by
  intro h
  have wf : fillWithoutEntropy.wf := by decide +kernel
  obtain ⟨-, fill⟩ := h fillWithoutEntropy 9 {} {} 0 (executingDesc 0x30 32 9) fetchedEntry wf
  obtain ⟨t, ht, -, out, -⟩ := fill fillWithoutEntropy_runs (by decide +kernel) (by decide +kernel)
  have two := out_fillWithoutEntropy
  rw [← eq_after ht, out] at two
  exact absurd two (by decide +kernel)

end Sys2Proof.Machine
end

section
/-! What changes of descriptors, their entries and their end write (R147, R166 to R173). -/
namespace Sys2Proof.Machine
open Sys2Proof

variable {α : Type}

/-! ### Words -/

/-- The words that a change of descriptors writes: the tenants' use, QUEUE_Q_STAT, and the events of the queue pages. -/
def descWord (a : Nat) : Bool :=
  useWord a || decide (0x10000 ≤ a ∧ a < 0x18000 ∧ 0x80 ≤ a % 0x1000 ∧ a % 0x40 = 0x2C) || eventWord queuePages a

/-- With the end of a descriptor: QUEUE_Q_ERR, and what a waiting SWAP shows on the SLOTS page. -/
def endWord (a : Nat) : Bool :=
  descWord a || decide (0x10000 ≤ a ∧ a < 0x18000 ∧ 0x80 ≤ a % 0x1000 ∧ a % 0x40 = 0x30) || ownPages [0x36] [0x36] a

theorem mem_queuePages {p : Nat} : p ∈ queuePages ↔ 0x10 ≤ p ∧ p < 0x18 := by
  simp only [queuePages, List.mem_map, List.mem_range]
  exact ⟨by rintro ⟨i, hi, rfl⟩; omega, fun h => ⟨p - 0x10, by omega, by omega⟩⟩

theorem descWord_own {a : Nat} (h : descWord a = true) : ownPages queuePages queuePages a = true := by
  simp only [descWord, Bool.or_eq_true, decide_eq_true_eq] at h
  rcases h with (h | h) | h
  · exact Bool.or_eq_true_iff.2 (.inl (by simp only [List.contains_eq_mem, Bool.and_eq_true, decide_eq_true_eq, mem_queuePages]; omega))
  · exact Bool.or_eq_true_iff.2 (.inl (by simp only [List.contains_eq_mem, Bool.and_eq_true, decide_eq_true_eq, mem_queuePages]; omega))
  · exact eventWord_ownPages _ _ a h

theorem queuePages_engine : ∀ p ∈ queuePages, p ∈ queueWords := fun p h => queuePage_mem p (mem_queuePages.1 h).2 (mem_queuePages.1 h).1

theorem descWord_engine (a : Nat) (h : descWord a = true) : engineWords a = true :=
  ownPages_mono queuePages_engine queuePages_engine a (descWord_own h)

theorem descWord_end (a : Nat) (h : descWord a = true) : endWord a = true := by simp [endWord, h]

theorem endWord_engine (a : Nat) (h : endWord a = true) : engineWords a = true := by
  simp only [endWord, Bool.or_eq_true, decide_eq_true_eq] at h
  rcases h with (h | h) | h
  · exact descWord_engine a h
  · exact Bool.or_eq_true_iff.2 (.inl (by
      simp only [List.contains_eq_mem, Bool.and_eq_true, decide_eq_true_eq]
      exact ⟨queuePage_mem _ (by omega) (by omega), by omega⟩))
  · exact ownPages_mono (by decide) (by decide) a h

/-- A register of a pair but QUEUE_Q_STAT and QUEUE_Q_ERR is none of them. -/
theorem clear_endWord {n o : Nat} {y : RegField} (h : y.OfPair n o) (ho : o < 0x40) (stat : o + 4 ≤ 0x2C ∨ 0x30 ≤ o) (err : o + 4 ≤ 0x30 ∨ 0x34 ≤ o) :
    y.Clear endWord := by
  obtain ⟨events, -, -⟩ := clear_events (h.high ho) queuePages
  obtain ⟨events', -, -⟩ := clear_events (h.high ho) [0x36]
  obtain ⟨ha, -, hh⟩ := h
  have page : y.addr / 0x1000 ≠ 0x36 := by omega
  refine ⟨?_, by omega, by omega⟩
  simp only [endWord, descWord, ownPages, events, events', Bool.or_false, Bool.or_eq_false_iff, decide_eq_false_iff_not, Bool.and_eq_false_iff,
    List.contains_eq_mem, List.mem_singleton]
  omega

theorem clear_mono {f g : Nat → Bool} {y : RegField} (h : y.Clear g) (hf : ∀ a, f a = true → g a = true) : y.Clear f := by
  have down (a : Nat) (ha : g a = false) : f a = false := by
    cases hfa : f a with
    | false => rfl
    | true => rw [hf a hfa] at ha; exact absurd ha (by decide)
  exact ⟨down _ h.1, fun k => down _ (h.2.1 k), fun k => down _ (h.2.2 k)⟩

/-! ### Descriptors -/

theorem within_pairRefresh_desc (q : Nat) : Within recordParts descWord (pairRefresh q) := by
  have store (x : RegField) (v : Nat) (h : 0x10000 ≤ x.addr ∧ x.addr < 0x18000 ∧ 0x80 ≤ x.addr % 0x1000 ∧ x.addr % 0x40 = 0x2C) (hh : x.hi < 32) :
      Within recordParts descWord (wr x v) := within_wr_one x v hh (by decide) (by simp [descWord, h])
  refine within_bind within_getS fun s => within_bind (store _ _ ?_ (by simp [R.QUEUE_Q_STAT.EXEC])) fun _ =>
    within_bind (store _ _ ?_ (by simp [R.QUEUE_Q_STAT.HELD])) fun _ => (within_tenantRefresh _).mono (fun _ h => h) fun a h => ?_
  · simp only [R.QUEUE_Q_STAT.EXEC]
    omega
  · simp only [R.QUEUE_Q_STAT.HELD]
    omega
  · rcases Bool.or_eq_true_iff.1 h with h | h
    · simp [descWord, h]
    · have := eventWord_mono (k := queuePages) (fun p hp => mem_queuePages.2 (by rw [List.mem_singleton] at hp; omega)) a h
      simp [descWord, this]

/-- The pieces that a change of descriptors writes. -/
abbrev descParts : List Piece := .queues :: recordParts

theorem within_setDescs_desc (q : Nat) (ds : List QDesc) : Within descParts descWord (setDescs q ds) :=
  within_bind (within_prim (by simp [Prim.pieces]) (by simp [Prim.pieces])) fun _ => (within_pairRefresh_desc q).mono (by decide) fun _ h => h

theorem within_modDesc_desc (q : Nat) (seq : BitVec 32) (f : QDesc → QDesc) : Within descParts descWord (modDesc q seq f) :=
  within_bind within_getS fun _ => within_setDescs_desc q _

/-- An event of a queue page that a descriptor causes. -/
theorem within_raiseTenant_desc (e : PageEvent) (he : e.page ∈ queuePages) (q t : Nat) : Within recordParts descWord (raiseTenant e q t) := by
  obtain ⟨low, high⟩ := mem_queuePages.1 he
  refine (within_raiseTenant e (by omega) q t).mono (fun _ h => h) fun a h => ?_
  rcases Bool.or_eq_true_iff.1 h with h | h
  · simp only [tokenWord, decide_eq_true_eq] at h
    have use : useWord a = true := by simp only [useWord, decide_eq_true_eq]; omega
    simp [descWord, use]
  · have := eventWord_mono (k := queuePages) (by simpa using he) a h
    simp [descWord, this]

theorem queueEvent_pages (q : Nat) : (E.QUEUE.QERR q).page ∈ queuePages ∧ (E.QUEUE.ACC q).page ∈ queuePages ∧ (E.QUEUE.DONE q).page ∈ queuePages
    ∧ (E.QUEUE.QUOTA_REFUSED q).page ∈ queuePages := by
  simp only [mem_queuePages, E.QUEUE.QERR, E.QUEUE.ACC, E.QUEUE.DONE, E.QUEUE.QUOTA_REFUSED]
  omega

/-- A halt: its bit, and QERR. -/
theorem within_halt_desc (q : Nat) {y : RegField} (hy : y = R.QUEUE_Q_STAT.HALT_FETCH q ∨ y = R.QUEUE_Q_STAT.HALT_CMPL q) :
    Within recordParts descWord (wr y 1 >>= fun _ => getS >>= fun s => raiseTenant (E.QUEUE.QERR q) q (s.queueTenant q)) := by
  have stat : 0x10000 ≤ y.addr ∧ y.addr < 0x18000 ∧ 0x80 ≤ y.addr % 0x1000 ∧ y.addr % 0x40 = 0x2C ∧ y.hi < 32 := by
    rcases hy with rfl | rfl <;> simp only [R.QUEUE_Q_STAT.HALT_FETCH, R.QUEUE_Q_STAT.HALT_CMPL] <;> omega
  exact within_bind (within_wr_one _ _ (by omega) (by decide) (by simp [descWord, stat])) fun _ => within_bind within_getS fun _ =>
    within_raiseTenant_desc _ (queueEvent_pages q).1 q _

theorem within_haltCmpl_desc (q : Nat) : Within recordParts descWord (haltCmpl q) := within_halt_desc q (.inr rfl)

theorem within_haltFetch_desc (q : Nat) : Within recordParts descWord (haltFetch q) := within_halt_desc q (.inl rfl)

/-! ### What is known of a descriptor, and of an entry -/

/-- A descriptor of a pair has `Q`. -/
def State.holdsDesc (q : Nat) (Q : QDesc → Prop) (t : State) : Prop := ∃ x ∈ t.descs q, Q x

theorem State.holdsDesc.mono {q : Nat} {Q R : QDesc → Prop} {t : State} (h : t.holdsDesc q Q) (hq : ∀ x, Q x → R x) : t.holdsDesc q R :=
  let ⟨x, hx, k⟩ := h
  ⟨x, hx, hq x k⟩

theorem Within.keeps_holdsDesc {ps : List Piece} {f : Nat → Bool} {m : M α} (h : Within ps f m) (hp : .queues ∉ ps) (q : Nat) (Q : QDesc → Prop) :
    Keeps (State.holdsDesc q Q) m := fun s l k => by
  obtain ⟨x, hx, hq⟩ := k
  exact ⟨x, (h.descs hp q s l).symm ▸ hx, hq⟩

/-- A change of the descriptors of one number. -/
theorem modDesc_leads {q : Nat} {seq : BitVec 32} {f : QDesc → QDesc} {Q R : QDesc → Prop} (hf : ∀ x, Q x → R (if x.seq = seq then f x else x)) :
    Leads (State.holdsDesc q Q) (modDesc q seq f) fun _ => State.holdsDesc q R := by
  rintro s l ⟨x, hx, k⟩
  rw [State.holdsDesc, modDesc_descs, if_pos rfl]
  exact ⟨_, List.mem_map_of_mem hx, hf x k⟩

/-- An entry in use has `I`. -/
def State.holdsEntry (e : Nat) (I : CEntry → Prop) (t : State) : Prop := ∃ c, t.entry e = some c ∧ I c

theorem Within.keeps_holdsEntry {ps : List Piece} {f : Nat → Bool} {m : M α} (h : Within ps f m) (hp : .cellar ∉ ps) (e : Nat) (I : CEntry → Prop) :
    Keeps (State.holdsEntry e I) m := h.keeps_entry hp e fun o => ∃ c, o = some c ∧ I c

theorem keeps_holdsEntry_modEntry {e n : Nat} {f : CEntry → CEntry} {I : CEntry → Prop} (hf : ∀ c, I c → I (f c)) :
    Keeps (State.holdsEntry e I) (modEntry n f) := by
  refine leads_getS fun s => ?_
  split
  · rename_i x hx
    refine leads_prim ?_
    rintro t ⟨rfl, c, hc, k⟩
    rw [State.holdsEntry, entry_centry]
    split
    · rename_i here
      obtain rfl := Option.some.inj (hx.symm.trans (here ▸ hc))
      exact ⟨_, rfl, hf _ k⟩
    · exact ⟨c, hc, k⟩
  · exact leads_pure fun t h => h.2

/-! ### A descriptor's end -/

/-- The pieces that giving up an entry's work writes. -/
abbrev giveParts : List Piece := [.drawn, .cmdLate, .keys, .rng, .slots, .sched] ++ recordParts

/-- A command of the SLOTS page ended for want of its load: the words of that page. -/
theorem within_swapFail_slots (n : Nat) : Within giveParts (ownPages [0x36] [0x36]) (swapFail n) := by
  have stop : Within giveParts (ownPages [0x36] [0x36]) (cmdEnd U.slots rcState) := by
    refine within_cmdEnd U.slots rcState (by decide) (by decide) (by decide) (by decide) (by decide) fun e he => ?_
    cases he
    exact ⟨by decide, fun a h => eventWord_ownPages _ _ a (eventWord_mono (by decide) a h)⟩
  refine within_bind within_getS fun _ => within_bind within_getS fun _ => within_ite (within_bind ?_ fun _ => within_bind ?_ fun _ => ?_) (within_pure _)
  · exact within_prim (by simp [Prim.pieces]) (by simp [Prim.pieces])
  · exact (within_setCond _ (by decide) _ _).mono (by decide) fun a h => eventWord_ownPages _ _ a (eventWord_mono (by decide) a h)
  · exact within_cmdStop _ _ stop

theorem within_giveUp_slots (e : Nat) : Within giveParts (ownPages [0x36] [0x36]) (giveUp e) := by
  have one {p : Prim} (h : ∀ q ∈ p.pieces, q ∈ giveParts) (hr : .regs ∉ p.pieces) : Within giveParts (ownPages [0x36] [0x36]) (prim p) := within_prim h hr
  refine within_bind (one (by simp [Prim.pieces]) (by simp [Prim.pieces])) fun _ => within_bind (one (by simp [Prim.pieces]) (by simp [Prim.pieces])) fun _ =>
    within_bind ?_ fun _ => within_bind within_getS fun _ => one (by simp [Prim.pieces]) (by simp [Prim.pieces])
  exact within_bind within_getS fun _ => within_forM _ fun _ => within_ite
    (within_bind (one (by simp [Prim.pieces]) (by simp [Prim.pieces])) fun _ => within_swapFail_slots _) (within_pure _)

/-- What is zeroed of a descriptor that leaves no output. -/
def wipeEnd (wipe : Bool) (rid : BitVec 12) (d : QDesc) : M Unit := if wipe then wipeDst rid d else pure ()

/-- The end of an entry's item with a status. -/
def letGo (status : Nat) (o : Option Nat) : M Unit := match o with
  | some e => do
    modEntry e fun c => { c with st := .releasing, result := some status }
    giveUp e
  | none => pure ()

/-- A descriptor that has ended. -/
def QDesc.endedAs (status : Nat) (result : Bytes) (x : QDesc) : QDesc := { x with phase := .ended, status := status, result := result, written := [] }

/-- What a pair and a tenant show of a status. -/
def showStatus (q t status op : Nat) : M Unit := do
  if status ≠ 0 then
    wr (R.QUEUE_Q_ERR.LAST_OP q) op
    wr (R.QUEUE_Q_ERR.LAST_STATUS q) status
  if status = 0x0030 then
    bump (R.QUEUE_TNT_REFUSED.COUNT t)
    raiseTenant (E.QUEUE.QUOTA_REFUSED t) q t

theorem within_showStatus (q t status op : Nat) : Within recordParts endWord (showStatus q t status op) := by
  have error (x : RegField) (v : Nat) (h : 0x10000 ≤ x.addr ∧ x.addr < 0x18000 ∧ 0x80 ≤ x.addr % 0x1000 ∧ x.addr % 0x40 = 0x30) (hh : x.hi < 32) :
      Within recordParts endWord (wr x v) := within_wr_one x v hh (by decide) (by simp [endWord, h])
  have refused : Within recordParts endWord (bump (R.QUEUE_TNT_REFUSED.COUNT t)) := by
    refine within_bind (within_rd _) fun _ => within_ite (within_wr_one _ _ (by simp [R.QUEUE_TNT_REFUSED.COUNT]) (by decide) ?_) (within_pure _)
    have use : useWord (R.QUEUE_TNT_REFUSED.COUNT t).addr = true := by
      refine decide_eq_true ?_
      simp only [R.QUEUE_TNT_REFUSED.COUNT]
      omega
    simp [endWord, descWord, use]
  have quota : Within recordParts endWord (if status = 0x0030 then (do
      bump (R.QUEUE_TNT_REFUSED.COUNT t)
      raiseTenant (E.QUEUE.QUOTA_REFUSED t) q t) else pure ()) :=
    within_ite (within_bind refused fun _ => (within_raiseTenant_desc _ (queueEvent_pages t).2.2.2 q t).mono (fun _ h => h) descWord_end) (within_pure _)
  unfold showStatus
  refine within_ite (within_bind (error _ _ ?_ (by simp [R.QUEUE_Q_ERR.LAST_OP])) fun _ =>
    within_bind (error _ _ ?_ (by simp [R.QUEUE_Q_ERR.LAST_STATUS])) fun _ => quota) quota
  · simp only [R.QUEUE_Q_ERR.LAST_OP]
    omega
  · simp only [R.QUEUE_Q_ERR.LAST_STATUS]
    omega

/-- The descriptors that have a number end; the pair's error register and the tenant's refusals show it. -/
def markEnded (q : Nat) (seq : BitVec 32) (status : Nat) (result : Bytes) (d : QDesc) (ds : List QDesc) : M Unit := do
  setDescs q (ds.map fun x => if x.seq = seq then x.endedAs status result else x)
  showStatus q d.tenant status (d.bytes.getD 0 0).toNat

theorem endDesc_found {q : Nat} {seq : BitVec 32} {d : QDesc} {s : State} {l : List Prim}
    (found : ((runAll l s).descs q).find? (fun x => decide (x.seq = seq)) = some d) (st : Nat) (wipe : Bool) (result : Bytes) :
    (endDesc q seq st wipe result s l).2 = (markEnded q seq st result d ((runAll l s).descs q) s
      (letGo st d.entry s (wipeEnd wipe ((runAll l s).queueRid q) d s l).2).2).2 := by
  unfold endDesc
  rw [getS_bind]
  simp only [found]
  cases wipe <;> cases d.entry <;> rfl

theorem endDesc_missing {q : Nat} {seq : BitVec 32} {s : State} {l : List Prim}
    (missing : ((runAll l s).descs q).find? (fun x => decide (x.seq = seq)) = none) (st : Nat) (wipe : Bool) (result : Bytes) :
    (endDesc q seq st wipe result s l).2 = l := by
  unfold endDesc
  rw [getS_bind]
  simp only [missing, M.pure_apply]

/-- The pieces that a descriptor's end writes, what it drives out aside. -/
abbrev endParts : List Piece := [.drawn, .cellar, .cmdLate, .keys, .rng, .slots, .sched, .queues] ++ recordParts

theorem within_letGo (status : Nat) (o : Option Nat) : Within entryParts (ownPages [0x36] [0x36]) (letGo status o) := by
  cases o with
  | some e => exact within_bind (within_modEntry _ _ (by decide)) fun _ => (within_giveUp_slots e).mono (by decide) fun _ h => h
  | none => exact within_pure _

theorem within_markEnded (q : Nat) (seq : BitVec 32) (status : Nat) (result : Bytes) (d : QDesc) (ds : List QDesc) :
    Within descParts endWord (markEnded q seq status result d ds) :=
  within_bind ((within_setDescs_desc q _).mono (fun _ h => h) descWord_end) fun _ =>
    (within_showStatus q d.tenant status _).mono (by decide) fun _ h => h

/-- The end of a descriptor, whatever its status; it drives out nothing where it wipes nothing. -/
theorem within_endDesc_status {ps : List Piece} (hp : ∀ p ∈ endParts, p ∈ ps) {wipe : Bool} (ho : wipe = true → .out ∈ ps) (q : Nat) (seq : BitVec 32)
    (st : Nat) (result : Bytes) : Within ps endWord (endDesc q seq st wipe result) := by
  intro s l
  cases h : ((runAll l s).descs q).find? fun x => decide (x.seq = seq) with
  | none => exact ⟨[], by rw [endDesc_missing h, List.nil_append], by simp⟩
  | some d =>
    have wiped : Within ps endWord (wipeEnd wipe ((runAll l s).queueRid q) d) := by
      cases wipe with
      | false => exact within_pure _
      | true => exact within_forM _ fun _ => within_emits _ (ho rfl)
    have gone : Within ps endWord (letGo st d.entry) := (within_letGo st d.entry).mono (fun p h => hp p (by revert p; decide)) fun a h => by simp [endWord, h]
    have marked := (within_markEnded q seq st result d ((runAll l s).descs q)).mono (g := endWord) (fun p h => hp p (by revert p; decide)) fun _ h => h
    rw [endDesc_found h, ← M.bind_apply (letGo st d.entry) fun _ => markEnded q seq st result d ((runAll l s).descs q),
      ← M.bind_apply (wipeEnd wipe ((runAll l s).queueRid q) d) fun _ => letGo st d.entry >>= fun _ => markEnded q seq st result d ((runAll l s).descs q)]
    exact within_bind wiped (fun _ => within_bind gone fun _ => marked) s l

theorem within_endDesc_engine (q : Nat) (seq : BitVec 32) (st : Nat) (wipe : Bool) (result : Bytes) :
    Within queueParts engineWords (endDesc q seq st wipe result) :=
  (within_endDesc_status (by decide) (fun _ => by decide) q seq st result).mono (fun _ h => h) endWord_engine

/-- What a descriptor's end makes of every descriptor with its number. -/
theorem endDesc_descs {q : Nat} {d : QDesc} {s : State} {l : List Prim} (h : d ∈ (runAll l s).descs q) (st : Nat) (wipe : Bool) (result : Bytes) :
    (runAll (endDesc q d.seq st wipe result s l).2 s).descs q
      = ((runAll l s).descs q).map fun x => if x.seq = d.seq then x.endedAs st result else x := by
  have some : (((runAll l s).descs q).find? fun x => decide (x.seq = d.seq)).isSome = true := List.find?_isSome.2 ⟨d, h, by simp⟩
  obtain ⟨y, found⟩ := Option.isSome_iff_exists.1 some
  rw [endDesc_found found, markEnded, M.bind_apply, (within_showStatus q y.tenant st _).descs (by decide), setDescs_descs, if_pos rfl]

/-- A descriptor that has been there has ended. -/
theorem endDesc_leads {q : Nat} {seq : BitVec 32} {Q R : QDesc → Prop} (number : ∀ x, Q x → x.seq = seq) (st : Nat) (wipe : Bool) (result : Bytes)
    (hr : ∀ x, Q x → R (x.endedAs st result)) : Leads (State.holdsDesc q Q) (endDesc q seq st wipe result) fun _ => State.holdsDesc q R := by
  rintro s l ⟨x, hx, k⟩
  obtain rfl := number x k
  rw [State.holdsDesc, endDesc_descs hx]
  exact ⟨_, List.mem_map_of_mem hx, by simpa using hr x k⟩

theorem endDesc_endedWith {q : Nat} {d : QDesc} {s : State} {l : List Prim} (h : (runAll l s).holdsDesc q fun x => x.seq = d.seq) (st : Nat) (wipe : Bool)
    (result : Bytes) : endedWith q d st result (runAll (endDesc q d.seq st wipe result s l).2 s) :=
  endDesc_leads (fun _ h => h) st wipe result (fun _ h => ⟨h, rfl, rfl, rfl⟩) s l h

/-- An end changes no more of an entry than its state and its result. -/
theorem keeps_holdsEntry_endDesc {e : Nat} {I : CEntry → Prop} (hI : ∀ c st r, I c → I { c with st := st, result := r }) (q : Nat) (seq : BitVec 32)
    (st : Nat) (wipe : Bool) (result : Bytes) : Keeps (State.holdsEntry e I) (endDesc q seq st wipe result) := by
  intro s l k
  cases h : ((runAll l s).descs q).find? fun x => decide (x.seq = seq) with
  | none => rw [endDesc_missing h]; exact k
  | some d =>
    rw [endDesc_found h]
    have wiped : Within [.out] (fun _ => true) (wipeEnd wipe ((runAll l s).queueRid q) d) := by
      cases wipe with
      | false => exact within_pure _
      | true => exact within_forM _ fun _ => within_emits _ (by decide)
    refine (within_markEnded q seq st result d _).keeps_holdsEntry (by decide) e I s _ ?_
    have k := wiped.keeps_holdsEntry (by decide) e I s l k
    cases d.entry with
    | none => exact k
    | some n =>
      rw [letGo, M.bind_apply]
      exact (within_giveUp_slots n).keeps_holdsEntry (by decide) e I s _
        (keeps_holdsEntry_modEntry (f := fun c => { c with st := .releasing, result := some st }) (fun c => hI c _ _) s _ k)
end Sys2Proof.Machine
end

section
/-! O45: descriptors are fetched, accepted, dispatched and completed (R142 to R150, R155, R160, R170, R568). -/
namespace Sys2Proof.Machine
open Sys2Proof

variable {q : Nat}

/-! ### Requests -/

theorem emit_out (o : Out) (s : State) (l : List Prim) : (runAll (emit o s l).2 s).out = (runAll l s).out ++ [o] := rfl

theorem emits_out (os : List Out) (s : State) (l : List Prim) : (runAll (forM os emit s l).2 s).out = (runAll l s).out ++ os := by
  induction os generalizing l with
  | nil => simp [forM]
  | cons o os ih =>
    rw [forM, M.bind_apply, ih, emit_out, List.append_assoc, List.singleton_append]

theorem readDram_out (m : Dram) (a n : Nat) (rid : BitVec 12) (s : State) (l : List Prim) :
    (runAll (readDram m a n rid s l).2 s).out = (runAll l s).out ++ readReqs m a n rid := emits_out _ s l

theorem readDram_answer (m : Dram) (a n : Nat) (rid : BitVec 12) (s : State) (l : List Prim) : (readDram m a n rid s l).1 = dramRead m a n := by
  rw [readDram, M.bind_apply, M.pure_apply]

theorem dramWrite_out (m : Dram) (a : Nat) (b : Bytes) (rid : BitVec 12) (s : State) (l : List Prim) :
    (runAll (dramWrite m a b rid s l).2 s).out = (runAll l s).out ++ writeReqs m a b rid := emits_out _ s l

/-! ### The registers of a pair -/

theorem ofPair_next (n : Nat) : (R.QUEUE_Q_SEQ.NEXT n).OfPair n 0x34 := by
  simp [RegField.OfPair, R.QUEUE_Q_SEQ.NEXT]
  omega

theorem RegField.OfPair.besideUse {y : RegField} {o : Nat} (h : y.OfPair q o) (ho : o < 0x40) (stat : o + 4 ≤ 0x2C ∨ 0x30 ≤ o) : y.BesideUse q := by
  have fields : (R.QUEUE_Q_STAT.EXEC q).OfPair q 0x2C ∧ (R.QUEUE_Q_STAT.HELD q).OfPair q 0x2C := by
    simp [RegField.OfPair, R.QUEUE_Q_STAT.EXEC, R.QUEUE_Q_STAT.HELD]
    omega
  exact ⟨⟨o, ho, h⟩, fields.1.apart h (by omega), fields.2.apart h (by omega)⟩

theorem within_wr_own {y : RegField} {o : Nat} (h : y.OfPair q o) (ho : o < 0x40) (v : Nat) :
    Within recordParts (ownPages queuePages queuePages) (wr y v) :=
  within_wr_page y v (by decide) (mem_queuePages.2 (by have := h.1; omega)) (h.high ho).1 (.inl h.2.2)

/-! ### Fetch (R142, R143, R167) -/

/-- A descriptor as it is fetched. -/
def State.fetched (s : State) (q : Nat) (b : Bytes) : QDesc := {
  bytes := b, seq := BitVec.ofNat 32 (s.fld (R.QUEUE_Q_SEQ.NEXT q)), tenant := s.queueTenant q, version := s.fld (R.QUEUE_Q_VER.GRANT q),
  exec := 0, slots := 0, weight := 0 }

/-- The next descriptor enters its pair. -/
def takeFetched (s : State) (q : Nat) (b : Bytes) : M Unit := do
  wr (R.QUEUE_Q_CHEAD.INDEX q) ((s.fld (R.QUEUE_Q_CHEAD.INDEX q) + 1) % 2 ^ 16)
  wr (R.QUEUE_Q_SEQ.NEXT q) ((s.fld (R.QUEUE_Q_SEQ.NEXT q) + 1) % 2 ^ 32)
  setDescs q (s.descs q ++ [s.fetched q b])

/-- The read of the next descriptor of a pair, once the pair is chosen. -/
def askFetch (m : Dram) (s : State) (q : Nat) : M (Option Bytes) := do
  prim (.engine { lastTenant := s.queueTenant q, lastPair := s.engine.lastPair.set (s.queueTenant q) q })
  readDram m (s.descAddr q (s.fld (R.QUEUE_Q_CHEAD.INDEX q))) 64 (s.queueRid q)

/-- What follows the read. -/
def endFetch (s : State) (q : Nat) : Option Bytes → M Unit
  | some b => takeFetched s q b
  | none => haltFetch q

theorem fetchDesc_eq {m : Dram} {s : State} (h : s.fetchNext = some q) :
    (fetchDesc m s []).2 = (endFetch s q (dramRead m (s.descAddr q (s.fld (R.QUEUE_Q_CHEAD.INDEX q))) 64) s (askFetch m s q s []).2).2 := by
  unfold fetchDesc
  rw [getS_bind]
  simp only [runAll_nil, h]
  rw [M.bind_apply, M.bind_apply, readDram_answer, askFetch, M.bind_apply]
  cases dramRead m (s.descAddr q (s.fld (R.QUEUE_Q_CHEAD.INDEX q))) 64 with
  | none => rw [endFetch]
  | some b => rw [endFetch, takeFetched, State.fetched]

theorem within_askFetch (m : Dram) (s : State) (q : Nat) (f : Nat → Bool) : Within [.engine, .out] f (askFetch m s q) :=
  within_bind (within_prim (by simp [Prim.pieces]) (by simp [Prim.pieces])) fun _ => within_readDram _ _ _ _ (by decide)

theorem within_takeFetched (s : State) (q : Nat) (b : Bytes) : Within descParts (ownPages queuePages queuePages) (takeFetched s q b) :=
  have own {y : RegField} {o : Nat} (h : y.OfPair q o) (ho : o < 0x40) (v : Nat) : Within descParts (ownPages queuePages queuePages) (wr y v) :=
    (within_wr_own h ho v).mono (by decide) fun _ h => h
  within_bind (own (ofPair_index q).2.1 (by decide) _) fun _ => within_bind (own (ofPair_next q) (by decide) _) fun _ =>
    (within_setDescs_desc q _).mono (fun _ h => h) fun _ => descWord_own

theorem within_endFetch (s : State) (q : Nat) (o : Option Bytes) : Within descParts (ownPages queuePages queuePages) (endFetch s q o) := by
  cases o with
  | some b => exact within_takeFetched s q b
  | none => exact (within_haltFetch_desc q).mono (by decide) fun _ => descWord_own

theorem takeFetched_runs (s : State) (q : Nat) (b : Bytes) (l : List Prim) :
    let t := runAll (takeFetched s q b s l).2 s
    t.fld (R.QUEUE_Q_CHEAD.INDEX q) = (s.fld (R.QUEUE_Q_CHEAD.INDEX q) + 1) % 2 ^ 16
      ∧ t.fld (R.QUEUE_Q_SEQ.NEXT q) = (s.fld (R.QUEUE_Q_SEQ.NEXT q) + 1) % 2 ^ 32 ∧ t.descs q = s.descs q ++ [s.fetched q b] := by
  have head := (ofPair_index q).2.1
  have next := ofPair_next q
  dsimp only
  rw [takeFetched, M.bind_apply, M.bind_apply]
  refine ⟨?_, ?_, ?_⟩
  · rw [fld_setDescs (head.besideUse (by decide) (by decide)), fld_wr_apart _ (next.apart head (by decide)), fld_wr_same _ _ (.inl head.2)]
    exact Nat.mod_mod _ _
  · rw [fld_setDescs (next.besideUse (by decide) (by decide)), fld_wr_same _ _ (.inl next.2)]
    exact Nat.mod_mod _ _
  · rw [setDescs_descs, if_pos rfl]

theorem fetch_runs {s : State} (m : Dram) (h : s.fetchNext = some q) :
    ∃ t, exec (.descriptorFetch m) s = .next t ∧ SameBut ([.engine, .queues, .out] ++ recordParts) s t
      ∧ WordsBut (ownPages queuePages queuePages) s t
      ∧ (t.out = s.out ++ readReqs m (s.descAddr q (s.fld (R.QUEUE_Q_CHEAD.INDEX q))) 64 (s.queueRid q)
        ∧ (∀ b, dramRead m (s.descAddr q (s.fld (R.QUEUE_Q_CHEAD.INDEX q))) 64 = some b →
            t.fld (R.QUEUE_Q_CHEAD.INDEX q) = (s.fld (R.QUEUE_Q_CHEAD.INDEX q) + 1) % 2 ^ 16
            ∧ t.fld (R.QUEUE_Q_SEQ.NEXT q) = (s.fld (R.QUEUE_Q_SEQ.NEXT q) + 1) % 2 ^ 32
            ∧ t.descs q = s.descs q ++ [s.fetched q b])
        ∧ (dramRead m (s.descAddr q (s.fld (R.QUEUE_Q_CHEAD.INDEX q))) 64 = none → t.fld (R.QUEUE_Q_STAT.HALT_FETCH q) = 1
            ∧ t.shows (E.QUEUE.QERR q) ∧ t.queues = s.queues ∧ t.fld (R.QUEUE_Q_CHEAD.INDEX q) = s.fld (R.QUEUE_Q_CHEAD.INDEX q))) := by
  have asked := within_askFetch m s q (ownPages queuePages queuePages)
  have ended := within_endFetch s q (dramRead m (s.descAddr q (s.fld (R.QUEUE_Q_CHEAD.INDEX q))) 64)
  have frame : Within ([.engine, .queues, .out] ++ recordParts) (ownPages queuePages queuePages) (askFetch m s q >>= fun _ => endFetch s q _) :=
    within_bind (asked.mono (by decide) fun _ h => h) fun _ => ended.mono (by decide) fun _ h => h
  have framed := frame.leaves s
  rw [runM, M.bind_apply] at framed
  have run : runM (fetchDesc m) s = runAll (endFetch s q (dramRead m (s.descAddr q (s.fld (R.QUEUE_Q_CHEAD.INDEX q))) 64) s (askFetch m s q s []).2).2 s := by
    rw [runM, fetchDesc_eq h]
  refine ⟨runM (fetchDesc m) s, rfl, ?_⟩
  rw [run]
  refine ⟨framed.1, framed.2, ?_, fun b read => ?_, fun read => ?_⟩
  · rw [← show _ = _ from ended.same .out (by decide) s _]
    rw [askFetch, M.bind_apply, readDram_out]
    rfl
  · rw [read]
    exact takeFetched_runs s q b _
  · rw [read]
    obtain ⟨halt, shows⟩ := haltFetch_runs q s (askFetch m s q s []).2
    have stays := (ofPair_index q).2.1
    refine ⟨halt, shows, ?_, ?_⟩
    · exact ((within_haltFetch_desc q).same .queues (by decide) s _).symm.trans (asked.same .queues (by decide) s []).symm
    · refine ((within_haltFetch_desc q).fld_clear ?_ s _).trans ((within_askFetch m s q fun _ => false).fld_clear ⟨rfl, fun _ => rfl, fun _ => rfl⟩ s [])
      exact clear_mono (clear_endWord stays (by decide) (by decide) (by decide)) descWord_end

end Sys2Proof.Machine
end

section
/-! O45: acceptance (R144, R155, R158, R568). -/
namespace Sys2Proof.Machine
open Sys2Proof

variable {q : Nat}

/-! ### The completion ring of a pair -/

/-- A pair's completion ring stands in `t` as it does in `s`. -/
def State.ringAs (q : Nat) (s t : State) : Prop :=
  t.queueRid q = s.queueRid q ∧ t.rlog q = s.rlog q ∧ t.fld (R.QUEUE_Q_RBASE.ADDR q) = s.fld (R.QUEUE_Q_RBASE.ADDR q)
    ∧ t.fld (R.QUEUE_Q_RTAIL.INDEX q) = s.fld (R.QUEUE_Q_RTAIL.INDEX q) ∧ t.fld (R.QUEUE_Q_STAT.HALT_CMPL q) = s.fld (R.QUEUE_Q_STAT.HALT_CMPL q)

theorem State.ringAs.trans {s t u : State} (h : s.ringAs q t) (k : t.ringAs q u) : s.ringAs q u := by
  obtain ⟨h1, h2, h3, h4, h5⟩ := h
  obtain ⟨k1, k2, k3, k4, k5⟩ := k
  exact ⟨k1.trans h1, k2.trans h2, k3.trans h3, k4.trans h4, k5.trans h5⟩

theorem State.ringAs.recAddr {s t : State} (h : s.ringAs q t) (i : Nat) : t.recAddr q i = s.recAddr q i := by
  obtain ⟨-, log, base, -⟩ := h
  rw [State.recAddr, State.recAddr, log, base]

/-- The fields of a pair's ring. -/
theorem ofPair_ring (q : Nat) : (R.QUEUE_Q_CFG.RID q).OfPair q 0 ∧ (R.QUEUE_Q_CFG.RLOG q).OfPair q 0 ∧ (R.QUEUE_Q_RTAIL.INDEX q).OfPair q 0x24
    ∧ (R.QUEUE_Q_STAT.HALT_CMPL q).OfPair q 0x2C := by
  obtain ⟨-, rid, -⟩ := ofPair_cfg q
  obtain ⟨-, -, -, tail⟩ := ofPair_index q
  obtain ⟨-, -, -, -, -, cmpl, -⟩ := ofPair_stat q
  refine ⟨rid, ?_, tail, cmpl⟩
  simp [RegField.OfPair, R.QUEUE_Q_CFG.RLOG]

/-- What leaves the five fields alone leaves the ring as it is. -/
theorem ringAs_of_fld {s t : State} (h : ∀ y, y ∈ [R.QUEUE_Q_CFG.RID q, R.QUEUE_Q_CFG.RLOG q, R.QUEUE_Q_RBASE.ADDR q, R.QUEUE_Q_RTAIL.INDEX q,
    R.QUEUE_Q_STAT.HALT_CMPL q] → t.fld y = s.fld y) : s.ringAs q t := by
  have f (y) (hy) := h y hy
  refine ⟨?_, ?_, f _ (by simp), f _ (by simp), f _ (by simp)⟩
  · rw [State.queueRid, State.queueRid, f _ (by simp)]
  · rw [State.rlog, State.rlog, f _ (by simp)]

/-- RBASE spans two words, which no change of descriptors writes. -/
theorem rbase_clear (q : Nat) : (R.QUEUE_Q_RBASE.ADDR q).Clear endWord := by
  have word (a : Nat) (ha : a = 0x10090 + 0x1000 * (q % 32 / 4) + 0x40 * (q % 4) ∨ a = 0x10094 + 0x1000 * (q % 32 / 4) + 0x40 * (q % 4)) :
      endWord a = false := by
    have off : a % 0x1000 ≠ 0x10 ∧ a % 0x1000 ≠ 0x1C ∧ a ≠ 0x3058 := by omega
    have events (evts : List Nat) : eventWord evts a = false := by simp [eventWord, off]
    have page : ([0x36].contains (a / 0x1000)) = false := by
      simp only [List.contains_eq_mem, List.mem_singleton, decide_eq_false_iff_not]
      omega
    simp only [endWord, descWord, ownPages, events, page, Bool.or_false, Bool.false_and, Bool.or_eq_false_iff, decide_eq_false_iff_not]
    omega
  refine ⟨word _ (.inl rfl), fun _ => word _ (.inr ?_), by simp [R.QUEUE_Q_RBASE.ADDR]⟩
  simp only [R.QUEUE_Q_RBASE.ADDR]
  omega

/-- A change of the pair's descriptors leaves its ring as it is. -/
theorem ringAs_modDesc (q : Nat) (seq : BitVec 32) (f : QDesc → QDesc) (s : State) (l : List Prim) :
    (runAll l s).ringAs q (runAll (modDesc q seq f s l).2 s) := by
  obtain ⟨rid, log, tail, -⟩ := ofPair_ring q
  refine ringAs_of_fld fun y hy => ?_
  simp only [List.mem_cons, List.not_mem_nil, or_false] at hy
  rcases hy with rfl | rfl | rfl | rfl | rfl
  · exact fld_modDesc (rid.besideUse (by decide) (by decide)) _ _ s l
  · exact fld_modDesc (log.besideUse (by decide) (by decide)) _ _ s l
  · exact (within_modDesc_desc q seq f).fld_clear (clear_mono (rbase_clear q) descWord_end) s l
  · exact fld_modDesc (tail.besideUse (by decide) (by decide)) _ _ s l
  · exact fld_modDesc (halt_besideUse q).2 _ _ s l

/-- A program on the pages of the Cellar leaves it as well. -/
theorem ringAs_cellar {α : Type} {m : M α} {ps : List Piece} (h : Within ps (ownPages [0x04] []) m) (s : State) (l : List Prim) :
    (runAll l s).ringAs q (runAll (m s l).2 s) := by
  have word (a : Nat) (ha : 0x10000 ≤ a) (off : a % 0x1000 ≠ 0x10 ∧ a % 0x1000 ≠ 0x1C) : ownPages [0x04] [] a = false := by
    have page : ([0x04].contains (a / 0x1000)) = false := by
      simp only [List.contains_eq_mem, List.mem_singleton, decide_eq_false_iff_not]
      omega
    have event : eventWord [] a = false := by
      simp only [eventWord, Bool.or_eq_false_iff, Bool.and_eq_false_iff, decide_eq_false_iff_not]
      omega
    simp only [ownPages, page, event, Bool.false_and, Bool.or_false]
  refine ringAs_of_fld fun y hy => h.fld_clear ?_ s l
  simp only [List.mem_cons, List.not_mem_nil, or_false] at hy
  rcases hy with rfl | rfl | rfl | rfl | rfl <;> refine ⟨word _ ?_ ?_, fun _ => word _ ?_ ?_, ?_⟩ <;>
    simp only [R.QUEUE_Q_CFG.RID, R.QUEUE_Q_CFG.RLOG, R.QUEUE_Q_RBASE.ADDR, R.QUEUE_Q_RTAIL.INDEX, R.QUEUE_Q_STAT.HALT_CMPL] <;> omega

/-! ### The entry of a descriptor -/

/-- HD stands in the Cellar beside its entries. -/
theorem takeHd_freeEntry (r : Reserve) (o : Option Nat) : Keeps (fun t => t.freeEntry r = o) takeHd := by
  refine leads_getS fun s => ?_
  split
  · exact leads_pure fun _ h => h.2
  · refine leads_bind (R := fun _ t => t.freeEntry r = o) (leads_prim ?_) fun _ => keeps_pure _
    rintro t ⟨rfl, h⟩
    exact h
  · exact leads_pure fun _ h => h.2

/-- An item of a reserve with room takes the entry that is free, with the stamp of this clock (R568). -/
theorem journal_takesFree {k : CKind} {fill : Nat → Stamp → CEntry} {e : Nat} {now : BitVec 64} {n : BitVec 16} :
    Leads (fun t => t.freeEntry k.reserve = some e ∧ t.now = now ∧ t.time.seq = n) (journal k fill)
      fun r t => r = some e ∧ ∃ o, t.entry e = some (fill o ⟨now, n⟩) := by
  refine leads_getS fun s => ?_
  split
  · rintro u l ⟨rfl, free, -⟩
    rename_i none'
    rw [none'] at free
    exact absurd free (by simp)
  · rename_i x found
    refine leads_bind (R := fun st _ => x = e ∧ st = ⟨now, n⟩) ?_ fun st => ?_
    · rintro u l ⟨rfl, free, rfl, rfl⟩
      rw [found] at free
      exact ⟨Option.some.inj free, rfl⟩
    refine leads_bind (R := fun _ t => x = e ∧ t.entry e = some (fill s.cellar.nextOrder ⟨now, n⟩)) (leads_prim fun t h => ?_) fun _ => ?_
    · obtain ⟨rfl, rfl⟩ := h
      exact ⟨rfl, by rw [entry_centry, if_pos rfl]⟩
    refine leads_bind (R := fun _ t => x = e ∧ t.entry e = some (fill s.cellar.nextOrder ⟨now, n⟩)) (fun u l h => ⟨h.1, ?_⟩) fun _ => ?_
    · exact keeps_entry_cellar _ e (· = some (fill s.cellar.nextOrder ⟨now, n⟩)) u l h.2
    refine leads_bind (R := fun _ t => x = e ∧ t.entry e = some (fill s.cellar.nextOrder ⟨now, n⟩)) (fun u l h => ⟨h.1, ?_⟩) fun _ =>
      leads_pure fun t h => ⟨by rw [h.1], _, h.2⟩
    exact keeps_entry_occupancy e (· = some (fill s.cellar.nextOrder ⟨now, n⟩)) u l h.2

end Sys2Proof.Machine
end

section
/-! O45: acceptance, the stages after the entry is taken. -/
namespace Sys2Proof.Machine
open Sys2Proof

variable {q : Nat}

/-! ### The ACCEPTED record (R160) -/

theorem within_takeRecord_engine (q : Nat) : Within recordParts engineWords (takeRecord q) := by
  have tail := (ofPair_ring q).2.2.1
  have addr := tail.1
  exact within_bind within_getS fun _ => within_bind (within_wr_queue _ ⟨by omega, by omega, (tail.high (by decide)).1, tail.2.2⟩) fun _ => within_pure _

theorem within_acceptedRecord (q : Nat) (d : QDesc) (e : Nat) (iv : Bytes) (m : Dram) : Within queueParts engineWords (acceptedRecord q d e iv m) := by
  refine within_bind within_getS fun _ => ?_
  split
  · exact within_pure _
  · exact within_bind (within_takeRecord_engine q).ofEngine fun _ => within_bind within_getS fun _ =>
      within_ite (within_modDesc _ _ _) (within_writeAccepted _ _ _ _ _)

/-- What a held record does not change of a descriptor, the record of its acceptance leaves. -/
theorem keeps_holdsDesc_acceptedRecord {d : QDesc} {Q : QDesc → Prop} (hQ : ∀ x a, Q x → Q { x with accHeld := a }) (e : Nat) (iv : Bytes) (m : Dram) :
    Keeps (State.holdsDesc q Q) (acceptedRecord q d e iv m) := by
  have mod (a : Option (Nat × Bytes)) : Keeps (State.holdsDesc q Q) (modDesc q d.seq fun x => { x with accHeld := a }) :=
    modDesc_leads fun x h => by split; exacts [hQ x a h, h]
  have quiet {α : Type} {m : M α} {ps : List Piece} {f : Nat → Bool} (h : Within ps f m) (hp : .queues ∉ ps) : Keeps (State.holdsDesc q Q) m :=
    h.keeps_holdsDesc hp q Q
  refine keeps_bind keeps_getS fun _ => ?_
  split
  · exact keeps_pure _
  · refine keeps_bind (quiet (within_takeRecord_engine q) (by decide)) fun _ => keeps_bind keeps_getS fun _ => keeps_ite (mod _) ?_
    refine keeps_bind keeps_getS fun _ => keeps_bind (quiet (within_dramWrite (ps := [.out]) (f := engineWords) _ _ _ _ (by decide)) (by decide)) fun _ =>
      keeps_ite ?_ ?_
    · exact keeps_bind (mod _) fun _ => keeps_bind (quiet (within_modEntry (ps := [.cellar]) (f := engineWords) _ _ (by decide)) (by decide)) fun _ =>
        quiet (within_raiseTenant_desc _ (queueEvent_pages q).2.1 q _) (by decide)
    · exact keeps_bind (mod _) fun _ => quiet (within_haltCmpl_desc q) (by decide)

/-- The entry's acknowledgement changes ACK_DONE of it alone. -/
theorem keeps_holdsEntry_acceptedRecord {n : Nat} {I : CEntry → Prop} (hI : ∀ c, I c → I { c with ackDone := true }) (d : QDesc) (e : Nat) (iv : Bytes)
    (m : Dram) : Keeps (State.holdsEntry n I) (acceptedRecord q d e iv m) := by
  have quiet {α : Type} {m : M α} {ps : List Piece} {f : Nat → Bool} (h : Within ps f m) (hp : .cellar ∉ ps) : Keeps (State.holdsEntry n I) m :=
    h.keeps_holdsEntry hp n I
  have mod (a : Option (Nat × Bytes)) : Keeps (State.holdsEntry n I) (modDesc q d.seq fun x => { x with accHeld := a }) :=
    quiet (within_modDesc_desc q d.seq _) (by decide)
  refine keeps_bind keeps_getS fun _ => ?_
  split
  · exact keeps_pure _
  · refine keeps_bind (quiet (within_takeRecord_engine q) (by decide)) fun _ => keeps_bind keeps_getS fun _ => keeps_ite (mod _) ?_
    refine keeps_bind keeps_getS fun _ => keeps_bind (quiet (within_dramWrite (ps := [.out]) (f := engineWords) _ _ _ _ (by decide)) (by decide)) fun _ =>
      keeps_ite ?_ ?_
    · exact keeps_bind (mod _) fun _ => keeps_bind (keeps_holdsEntry_modEntry hI) fun _ =>
        quiet (within_raiseTenant_desc _ (queueEvent_pages q).2.1 q _) (by decide)
    · exact keeps_bind (mod _) fun _ => quiet (within_haltCmpl_desc q) (by decide)

/-- A pair's ring has taken its next place since `s`, and what is driven out is known. -/
def State.recorded (q : Nat) (s : State) (out : List Out) (t : State) : Prop :=
  t.fld (R.QUEUE_Q_RTAIL.INDEX q) = (s.fld (R.QUEUE_Q_RTAIL.INDEX q) + 1) % 2 ^ 16 ∧ t.out = out

/-- A change of the queue's words and pieces that drives nothing out. -/
theorem Within.keeps_recorded {α : Type} {ps : List Piece} {f : Nat → Bool} {m : M α} (h : Within ps f m) (hp : .out ∉ ps)
    (hf : ∀ a, f a = true → endWord a = true) (s : State) (out : List Out) : Keeps (s.recorded q out) m := fun u l k =>
  ⟨(h.fld_clear (clear_mono (clear_endWord (ofPair_ring q).2.2.1 (by decide) (by decide) (by decide)) hf) u l).trans k.1,
    (h.same .out hp u l).symm.trans k.2⟩

/-- What follows the write of an ACCEPTED record. -/
def answerAccepted (q : Nat) (d : QDesc) (e a : Nat) (rcd : Bytes) (stored : Bool) : M Unit :=
  if stored then do
    modDesc q d.seq fun x => { x with accHeld := none }
    modEntry e fun c => { c with ackDone := true }
    raiseTenant (E.QUEUE.ACC q) q d.tenant
  else do
    modDesc q d.seq fun x => { x with accHeld := some (a, rcd) }
    haltCmpl q

theorem writeAccepted_eq (q : Nat) (d : QDesc) (e a : Nat) (rcd : Bytes) (m : Dram) : writeAccepted q d e a rcd m
    = getS >>= fun s => dramWrite m a rcd (s.queueRid q) >>= answerAccepted q d e a rcd := rfl

theorem keeps_recorded_answerAccepted (d : QDesc) (e a : Nat) (rcd : Bytes) (stored : Bool) (s : State) (out : List Out) :
    Keeps (s.recorded q out) (answerAccepted q d e a rcd stored) :=
  have mod (f : QDesc → QDesc) : Keeps (s.recorded q out) (modDesc q d.seq f) := (within_modDesc_desc q d.seq f).keeps_recorded (by decide) descWord_end s out
  keeps_ite
    (keeps_bind (mod _) fun _ => keeps_bind
      ((within_modEntry (ps := [.cellar]) (f := endWord) _ _ (by decide)).keeps_recorded (by decide) (fun _ h => h) s out) fun _ =>
      (within_raiseTenant_desc _ (queueEvent_pages q).2.1 q _).keeps_recorded (by decide) descWord_end s out)
    (keeps_bind (mod _) fun _ => (within_haltCmpl_desc q).keeps_recorded (by decide) descWord_end s out)

/-- The place that a record takes: its address, and its PHASE. -/
theorem takeRecord_answer (q : Nat) (s : State) (l : List Prim) :
    (takeRecord q s l).1 = ((runAll l s).recAddr q ((runAll l s).fld (R.QUEUE_Q_RTAIL.INDEX q)),
      if ((runAll l s).fld (R.QUEUE_Q_RTAIL.INDEX q)).testBit ((runAll l s).rlog q) then 0 else 1) := by
  rw [takeRecord, getS_bind, M.bind_apply, M.pure_apply]

theorem takeRecord_eq (q : Nat) (s : State) (l : List Prim) : (takeRecord q s l).2
    = (wr (R.QUEUE_Q_RTAIL.INDEX q) (((runAll l s).fld (R.QUEUE_Q_RTAIL.INDEX q) + 1) % 2 ^ 16) s l).2 := by
  rw [takeRecord, getS_bind, M.bind_apply, M.pure_apply]

/-- RTAIL is taken; the halt and the requester stay. -/
theorem takeRecord_runs {s u : State} {l : List Prim} (h : s.ringAs q (runAll l u)) :
    let t := runAll (takeRecord q u l).2 u
    t.fld (R.QUEUE_Q_RTAIL.INDEX q) = (s.fld (R.QUEUE_Q_RTAIL.INDEX q) + 1) % 2 ^ 16 ∧ t.out = (runAll l u).out
      ∧ t.fld (R.QUEUE_Q_STAT.HALT_CMPL q) = s.fld (R.QUEUE_Q_STAT.HALT_CMPL q) ∧ t.queueRid q = s.queueRid q := by
  obtain ⟨rid, -, tail, cmpl⟩ := ofPair_ring q
  obtain ⟨hrid, -, -, htail, hcmpl⟩ := h
  dsimp only
  refine ⟨?_, ((within_takeRecord_engine q).same .out (by decide) u l).symm, ?_, ?_⟩
  · rw [takeRecord_eq, fld_wr_same _ _ (.inl tail.2), htail]
    exact Nat.mod_mod _ _
  · rw [takeRecord_eq, fld_wr_apart _ (tail.apart cmpl (by decide)), hcmpl]
  · rw [takeRecord_eq, State.queueRid, fld_wr_apart _ (tail.apart rid (by decide)), ← State.queueRid, hrid]

/-- With completions not halted, the ACCEPTED record is written at the ring's next place. -/
theorem acceptedRecord_runs {s u : State} {l : List Prim} (ring : s.ringAs q (runAll l u)) (run : s.fld (R.QUEUE_Q_STAT.HALT_CMPL q) = 0) {e : Nat}
    {c : CEntry} (entry : (runAll l u).entry e = some c) (d : QDesc) (iv : Bytes) (m : Dram) :
    s.recorded q ((runAll l u).out ++ writeReqs m (s.recAddr q (s.fld (R.QUEUE_Q_RTAIL.INDEX q))) (recordBytes c.stamp d.seq 0 q
      (if (s.fld (R.QUEUE_Q_RTAIL.INDEX q)).testBit (s.rlog q) then 0 else 1) (padTo 12 iv ++ leBytes 2 e)) (s.queueRid q))
      (runAll (acceptedRecord q d e iv m u l).2 u) := by
  obtain ⟨taken, out, halt, rid⟩ := takeRecord_runs ring
  have open' : ¬ (runAll (takeRecord q u l).2 u).fld (R.QUEUE_Q_STAT.HALT_CMPL q) = 1 := by
    rw [halt, run]
    decide
  have place := ring.recAddr
  obtain ⟨-, hlog, -, htail, -⟩ := ring
  rw [acceptedRecord, getS_bind, entry]
  dsimp only
  rw [M.bind_apply, getS_bind, M.ite_apply, if_neg open', takeRecord_answer, htail, hlog, place]
  generalize htaken : (takeRecord q u l).2 = l' at taken out halt rid ⊢
  rw [writeAccepted_eq, getS_bind, M.bind_apply, rid]
  refine keeps_recorded_answerAccepted d e _ _ _ s _ u _ ⟨?_, ?_⟩
  · exact ((within_dramWrite (ps := [.out]) (f := fun _ => false) _ _ _ _ (by decide)).fld_clear ⟨rfl, fun _ => rfl, fun _ => rfl⟩ u l').trans taken
  · rw [dramWrite_out, out]

end Sys2Proof.Machine
end

section
/-! O45: a descriptor accepted. -/
namespace Sys2Proof.Machine
open Sys2Proof

variable {q : Nat}

/-- The entry of a descriptor that carries no counter value. -/
def State.queueEntry (s : State) (q : Nat) (d : QDesc) (hd : Bytes) (order : Nat) (st : Stamp) : CEntry := {
  kind := .queue, stamp := st, order := order, source := BitVec.ofNat 16 (q + d.tenant * 2 ^ 8), ref := d.seq,
  keys := if d.refusal.isSome then [] else s.descKeys d, valueA := BitVec.ofNat 64 0, input := d.bytes, digest := digestFold hd d.bytes }

/-- A descriptor that has its entry. -/
def State.withEntry (s : State) (d : QDesc) (e : Nat) (x : QDesc) : QDesc := { x with
  entry := some e, exhausted := false, exec := min 64 (s.fld (R.QUEUE_TNT_QUOTA_A.EXEC d.tenant)), slots := s.slotsQuotaOf d.tenant,
  weight := max 1 (s.fld (R.QUEUE_TNT_QUOTA_C.LANE_WEIGHT d.tenant)) }

/-- The descriptor ends where R155 refuses it. -/
def refuse (q : Nat) (d : QDesc) : M Unit := match d.refusal with
  | some st => endDesc q d.seq st false
  | none => pure ()

/-- What follows the journalling of a descriptor. -/
def enterDesc (s : State) (q : Nat) (d : QDesc) (e : Nat) (m : Dram) : M Unit := do
  modDesc q d.seq (s.withEntry d e)
  if 2 ≤ d.version then acceptedRecord q d e [] m
  refuse q d

/-- The journalling of a descriptor. -/
def journalDesc (s : State) (q : Nat) (d : QDesc) : M (Option Nat) := do
  let hd ← takeHd
  journal .queue (s.queueEntry q d hd)

theorem acceptWith_eq (q : Nat) (d : QDesc) (m : Dram) {s : State} {e : Nat} (h : (journalDesc s q d s []).1 = some e) :
    (acceptWith q d d.refusal none m s []).2 = (enterDesc s q d e m s (journalDesc s q d s []).2).2 := by
  rw [journalDesc, M.bind_apply] at h ⊢
  rw [acceptWith.eq_def, getS_bind, M.bind_apply]
  dsimp only [Option.bind_none, Option.getD_none]
  rw [M.bind_apply]
  have hj : (journal .queue (s.queueEntry q d (takeHd s []).1) s (takeHd s []).2).1 = some e := h
  unfold State.queueEntry at hj
  simp only [runAll_nil, hj, ite_self]
  rfl

theorem within_journalDesc (s : State) (q : Nat) (d : QDesc) : Within (.cellar :: recordParts) (ownPages [0x04] []) (journalDesc s q d) :=
  within_bind (within_takeHd (by decide)) fun _ => within_journal _ _ _

/-- The descriptor's entry is the free one; its stamp is of this clock. -/
theorem journalDesc_takes {s : State} {e : Nat} (d : QDesc) (free : s.freeEntry .queue = some e) :
    (journalDesc s q d s []).1 = some e
      ∧ ∃ hd o, (runAll (journalDesc s q d s []).2 s).entry e = some (s.queueEntry q d hd o ⟨s.now, s.time.seq⟩) := by
  have hd : Leads (fun t => t = s) takeHd fun _ t => t.freeEntry .queue = some e ∧ t.now = s.now ∧ t.time.seq = s.time.seq := fun u l h => by
    have quiet : Within [.cellar] (fun _ => false) takeHd := within_takeHd (by decide)
    have time : (runAll (takeHd u l).2 u).time = s.time := (quiet.same .time (by decide) u l).symm.trans (congrArg State.time h)
    have power : (runAll (takeHd u l).2 u).power = s.power := (quiet.same .power (by decide) u l).symm.trans (congrArg State.power h)
    refine ⟨takeHd_freeEntry .queue (some e) u l (h ▸ free), ?_, by rw [time]⟩
    rw [State.now, State.increment, time, power, ← State.increment, ← State.now]
  exact leads_bind (Q := fun r t => r = some e ∧ ∃ hd o, t.entry e = some (s.queueEntry q d hd o ⟨s.now, s.time.seq⟩)) hd
    (fun hd => (journal_takesFree (k := .queue) (fill := s.queueEntry q d hd)).mono (fun _ h => h) fun _ _ h => ⟨h.1, hd, h.2⟩) s [] rfl

theorem within_enterDesc (s : State) (q : Nat) (d : QDesc) (e : Nat) (m : Dram) : Within queueParts engineWords (enterDesc s q d e m) := by
  have refused : Within queueParts engineWords (refuse q d) := by
    rw [refuse]
    split
    · exact within_endDesc_engine _ _ _ _ _
    · exact within_pure _
  exact within_bind (within_modDesc _ _ _) fun _ => within_ite (within_bind (within_acceptedRecord _ _ _ _ _) fun _ => refused) refused

/-- What is known of a descriptor that has its entry. -/
abbrev QDesc.entered (d : QDesc) (e : Nat) (x : QDesc) : Prop := x.seq = d.seq ∧ x.bytes = d.bytes ∧ x.entry = some e

/-- The descriptor has its entry, and has ended where it is refused. -/
theorem enterDesc_becomes (s : State) (q : Nat) (d : QDesc) (e : Nat) (m : Dram) : Leads (State.holdsDesc q (· = d)) (enterDesc s q d e m)
    fun _ => State.holdsDesc q fun x => d.entered e x ∧ ∀ st, d.refusal = some st → x.phase = .ended ∧ x.status = st ∧ x.result = [] := by
  have refused : Leads (State.holdsDesc q (d.entered e)) (refuse q d)
      fun _ => State.holdsDesc q fun x => d.entered e x ∧ ∀ st, d.refusal = some st → x.phase = .ended ∧ x.status = st ∧ x.result = [] := by
    rw [refuse]
    split
    · rename_i st found
      refine endDesc_leads (fun _ h => h.1) st false [] fun x h => ⟨h, fun st' h' => ?_⟩
      rw [found] at h'
      exact ⟨rfl, Option.some.inj h', rfl⟩
    · rename_i none'
      exact leads_pure fun t h => h.mono fun x h => ⟨h, fun st h' => by rw [none'] at h'; exact absurd h' (by simp)⟩
  refine leads_bind (R := fun _ => State.holdsDesc q (d.entered e)) (modDesc_leads ?_) fun _ => leads_ite (fun _ => leads_bind
    (keeps_holdsDesc_acceptedRecord (fun x a h => h) e [] m) fun _ => refused) fun _ => refused
  rintro x rfl
  rw [if_pos rfl]
  exact ⟨rfl, rfl, rfl⟩

/-- Of the entry it changes ACK_DONE, and with a refusal its state and its result. -/
theorem keeps_holdsEntry_enterDesc {n : Nat} {I : CEntry → Prop} (ack : ∀ c, I c → I { c with ackDone := true })
    (ends : ∀ c st r, I c → I { c with st := st, result := r }) (s : State) (q : Nat) (d : QDesc) (e : Nat) (m : Dram) :
    Keeps (State.holdsEntry n I) (enterDesc s q d e m) := by
  have refused : Keeps (State.holdsEntry n I) (refuse q d) := by
    rw [refuse]
    split
    · exact keeps_holdsEntry_endDesc ends _ _ _ _ _
    · exact keeps_pure _
  exact keeps_bind ((within_modDesc_desc _ _ _).keeps_holdsEntry (by decide) n I) fun _ =>
    keeps_ite (keeps_bind (keeps_holdsEntry_acceptedRecord ack _ _ _ _) fun _ => refused) refused

/-- The ACCEPTED record of a pair whose completions run. -/
theorem enterDesc_records {s u : State} {l : List Prim} (ring : s.ringAs q (runAll l u)) (run : s.fld (R.QUEUE_Q_STAT.HALT_CMPL q) = 0) {e : Nat}
    {st : Stamp} (entry : (runAll l u).holdsEntry e fun c => c.stamp = st) {d : QDesc} (version : 2 ≤ d.version) (m : Dram) :
    s.recorded q ((runAll l u).out ++ writeReqs m (s.recAddr q (s.fld (R.QUEUE_Q_RTAIL.INDEX q))) (recordBytes st d.seq 0 q
      (if (s.fld (R.QUEUE_Q_RTAIL.INDEX q)).testBit (s.rlog q) then 0 else 1) (zeros 12 ++ leBytes 2 e)) (s.queueRid q))
      (runAll (enterDesc s q d e m u l).2 u) := by
  have refused (out : List Out) : Keeps (s.recorded q out) (refuse q d) := by
    rw [refuse]
    split
    · exact (within_endDesc_status (ps := endParts) (fun _ h => h) (by simp) q _ _ _).keeps_recorded (by decide) (fun _ h => h) s out
    · exact keeps_pure _
  rw [enterDesc, M.bind_apply, M.ite_apply, if_pos version, M.bind_apply]
  refine refused _ u _ ?_
  have out : (runAll (modDesc q d.seq (s.withEntry d e) u l).2 u).out = (runAll l u).out := ((within_modDesc_desc q _ _).same .out (by decide) u l).symm
  obtain ⟨c, found, rfl⟩ := (within_modDesc_desc q d.seq (s.withEntry d e)).keeps_holdsEntry (by decide) e (fun c => c.stamp = st) u l entry
  have records := acceptedRecord_runs (ring.trans (ringAs_modDesc q d.seq (s.withEntry d e) u l)) run found d [] m
  rwa [out] at records

theorem accept_runs {s : State} {d : QDesc} {e : Nat} (m : Dram) (power : s.grounded = false) (free : s.freeEntry .queue = some e)
    (first : (s.descs q).find? (fun d => d.entry.isNone) = some d) (plain : d.refusal.isSome = true ∨ d.counterSlot = none) :
    ∃ t, exec1 (acceptDesc q m) s = .next t ∧ (SameBut queueParts s t ∧ WordsBut engineWords s t)
      ∧ (∃ x ∈ t.descs q, x.seq = d.seq ∧ x.bytes = d.bytes
          ∧ (x.entry = some e ∧ ∀ st, d.refusal = some st → x.phase = .ended ∧ x.status = st ∧ x.result = []))
      ∧ (∃ c, t.entry e = some c ∧ c.kind = .queue ∧ c.ref = d.seq ∧ c.stamp = ⟨s.now, s.time.seq⟩ ∧ c.input = d.bytes
          ∧ (d.refusal = none → c.keys = s.descKeys d))
      ∧ (2 ≤ d.version → s.fld (R.QUEUE_Q_STAT.HALT_CMPL q) = 0 →
          t.fld (R.QUEUE_Q_RTAIL.INDEX q) = (s.fld (R.QUEUE_Q_RTAIL.INDEX q) + 1) % 2 ^ 16
          ∧ t.out = s.out ++ writeReqs m (s.recAddr q (s.fld (R.QUEUE_Q_RTAIL.INDEX q))) (recordBytes ⟨s.now, s.time.seq⟩ d.seq 0 q
              (if (s.fld (R.QUEUE_Q_RTAIL.INDEX q)).testBit (s.rlog q) then 0 else 1) (zeros 12 ++ leBytes 2 e)) (s.queueRid q)) := by
  obtain ⟨answer, hd, order, entry⟩ := journalDesc_takes (q := q) d free
  have journalled := within_journalDesc s q d
  have run : runM (acceptDesc q m) s = runAll (enterDesc s q d e m s (journalDesc s q d s []).2).2 s := by
    have direct : (acceptDesc q m s []).2 = (acceptWith q d d.refusal none m s []).2 := by
      rw [acceptDesc, getS_bind, M.ite_apply, if_neg (by simp [runAll_nil, power, free])]
      simp only [runAll_nil, first]
      cases hr : d.refusal with
      | some st => rfl
      | none =>
        have none' : d.counterSlot = none := plain.resolve_left (by simp [hr])
        rw [none']
    rw [runM, direct, acceptWith_eq q d m answer]
  have framed : Within queueParts engineWords (journalDesc s q d >>= fun _ => enterDesc s q d e m) :=
    within_bind (journalled.mono (by decide) (ownPages_mono (by decide) (by simp))) fun _ => within_enterDesc s q d e m
  have frame := framed.leaves s
  rw [runM, M.bind_apply] at frame
  refine ⟨runM (acceptDesc q m) s, rfl, ?_⟩
  rw [run]
  refine ⟨frame, ?_, ?_, fun version open' => ?_⟩
  · have here : (runAll (journalDesc s q d s []).2 s).holdsDesc q (· = d) :=
      journalled.keeps_holdsDesc (by decide) q (· = d) s [] ⟨d, List.mem_of_find?_eq_some first, rfl⟩
    obtain ⟨x, hx, ⟨hseq, hbytes, hentry⟩, hend⟩ := enterDesc_becomes s q d e m s _ here
    exact ⟨x, hx, hseq, hbytes, hentry, hend⟩
  · refine keeps_holdsEntry_enterDesc (I := fun c => c.kind = .queue ∧ c.ref = d.seq ∧ c.stamp = ⟨s.now, s.time.seq⟩ ∧ c.input = d.bytes
      ∧ (d.refusal = none → c.keys = s.descKeys d)) (fun _ h => h) (fun _ _ _ h => h) s q d e m s _ ⟨_, entry, rfl, rfl, rfl, rfl, fun none' => ?_⟩
    simp [State.queueEntry, none']
  · have ring : s.ringAs q (runAll (journalDesc s q d s []).2 s) := ringAs_cellar journalled s []
    have records := enterDesc_records ring open' ⟨_, entry, rfl⟩ version m
    rwa [← show _ = _ from journalled.same .out (by decide) s []] at records

end Sys2Proof.Machine
end

section
/-! O45: dispatch, the DONE record and its response, and tokens (R145, R147, R149, R150, R170). -/
namespace Sys2Proof.Machine
open Sys2Proof

variable {q : Nat}

/-! ### Dispatch (R150, R172, R430) -/

/-- What follows a descriptor's start: its keys are held and counted, and its random bytes asked for. -/
def bindKeys (s : State) (d : QDesc) (c : CEntry) (e : Nat) : M Unit := do
  forM d.needs fun x => match s.descKey d c x.1 x.2.1 x.2.2 with
    | .ok b => do
      modEntry e fun y => { y with keys := y.keys.set x.1 (some ⟨x.2.1, gen16 b⟩) }
      if !d.counted then countBank x.2.1 b
    | .error _ => pure ()
  if d.opcode = 0x12 then
    match s.wrapped c d.slotB with
    | .ok b => modEntry e fun y => { y with keys := y.keys.set 1 (some ⟨d.slotB, gen16 b⟩) }
    | .error _ => pure ()
  askDraws { d with counted := true } c e

/-- A descriptor that an engine executes. -/
def QDesc.onEngine (g : Nat) (x : QDesc) : QDesc := { x with phase := .executing, engine := g, counted := true }

/-- A descriptor executes. -/
def startDesc (s : State) (q : Nat) (d : QDesc) (c : CEntry) (e g : Nat) : M Unit := do
  modDesc q d.seq (QDesc.onEngine g)
  bindKeys s d c e

/-- The target's slot is beyond its tenant's quota. -/
def State.overQuota (s : State) (d : QDesc) : Bool := match d.target with
  | some n => s.slotsQuota n d.tenant d.slots
  | none => false

/-- Dispatch ends a descriptor with a status, or starts it. -/
theorem dispatchNow_eq (q : Nat) (d : QDesc) (c : CEntry) (e g : Nat) : dispatchNow q d c e g = getS >>= fun s =>
    match (if d.exhausted then some stExhausted else s.keysRefuse d c) with
    | some st => endDesc q d.seq st false
    | none => if s.overQuota d then endDesc q d.seq stQuota false
      else if s.drawRefused d c then endDesc q d.seq stNoEntropy true else startDesc s q d c e g := rfl

theorem within_countBank (n : Nat) (b : Bank) (f : Nat → Bool) : Within [.nodes, .slots] f (countBank n b) := by
  refine within_bind within_getS fun s => ?_
  split <;> exact within_prim (by simp [Prim.pieces]) (by simp [Prim.pieces])

theorem within_askDraws (d : QDesc) (c : CEntry) (e : Nat) : Within [.rng, .regs] engineWords (askDraws d c e) := by
  have ask (cls : RandClass) (u : RandUser) (n : Nat) : Within [.rng, .regs] engineWords (askRandom cls u n) :=
    within_askRandom cls u n (by decide) (by decide) (by decide)
  refine within_bind within_getS fun s => ?_
  dsimp only
  split
  · refine within_bind (ask _ _ _) fun _ => ?_
    split
    · exact ask _ _ _
    · exact within_pure _
  · split
    · exact ask _ _ _
    · exact within_pure _

theorem within_bindKeys (s : State) (d : QDesc) (c : CEntry) (e : Nat) :
    Within [.cellar, .nodes, .regs, .rng, .slots] engineWords (bindKeys s d c e) := by
  have mod (f : CEntry → CEntry) : Within [.cellar, .nodes, .regs, .rng, .slots] engineWords (modEntry e f) := within_modEntry _ _ (by decide)
  have asked := (within_askDraws { d with counted := true } c e).mono (qs := [.cellar, .nodes, .regs, .rng, .slots]) (by decide) fun _ h => h
  refine within_bind (within_forM _ fun x => ?_) fun _ => within_ite ?_ asked
  · split
    · exact within_bind (mod _) fun _ => within_ite ((within_countBank _ _ _).mono (by decide) fun _ h => h) (within_pure _)
    · exact within_pure _
  · split
    · exact within_bind (mod _) fun _ => asked
    · exact asked

theorem within_startDesc (s : State) (q : Nat) (d : QDesc) (c : CEntry) (e g : Nat) : Within queueParts engineWords (startDesc s q d c e g) :=
  within_bind (within_modDesc _ _ _) fun _ => (within_bindKeys s d c e).mono (by decide) fun _ h => h

theorem within_dispatchNow (q : Nat) (d : QDesc) (c : CEntry) (e g : Nat) : Within queueParts engineWords (dispatchNow q d c e g) := by
  rw [dispatchNow_eq]
  refine within_bind within_getS fun s => ?_
  split
  · exact within_endDesc_engine _ _ _ _ _
  · exact within_ite (within_endDesc_engine _ _ _ _ _) (within_ite (within_endDesc_engine _ _ _ _ _) (within_startDesc _ _ _ _ _ _))

theorem startDesc_becomes (s : State) (q : Nat) (d : QDesc) (c : CEntry) (e g : Nat) : Leads (State.holdsDesc q (· = d)) (startDesc s q d c e g)
    fun _ => State.holdsDesc q fun x => x.seq = d.seq ∧ x.bytes = d.bytes ∧ x.phase = .executing ∧ x.engine = g := by
  refine leads_bind (R := fun _ => State.holdsDesc q fun x => x.seq = d.seq ∧ x.bytes = d.bytes ∧ x.phase = .executing ∧ x.engine = g)
    (modDesc_leads ?_) fun _ => (within_bindKeys s d c e).keeps_holdsDesc (by decide) q _
  rintro x rfl
  rw [if_pos rfl]
  exact ⟨rfl, rfl, rfl, rfl⟩

theorem dispatch_runs {s : State} (wf : s.wf) {e q g : Nat} {d : QDesc} {c : CEntry} (found : s.descOf e = some (q, d)) (entry : s.entry e = some c)
    (engine : s.engineFree = some g) (phase : d.phase = .accepted) (replay : s.replayHeld e = false) (may : s.mayDispatch q d = true) :
    ∃ t, exec1 (dispatchDesc e) s = .next t ∧ (SameBut queueParts s t ∧ WordsBut engineWords s t)
      ∧ (d.exhausted = true → endedWith q d stExhausted [] t)
      ∧ (∀ st, d.exhausted = false → s.keysRefuse d c = some st → endedWith q d st [] t)
      ∧ (s.keysRefuse d c = none → d.exhausted = false → (∀ n, d.target = some n → s.slotsQuota n d.tenant d.slots = false) →
          s.drawRefused d c = false → ∃ x ∈ t.descs q, x.seq = d.seq ∧ x.bytes = d.bytes ∧ x.phase = .executing ∧ x.engine = g) := by
  have here : s.holdsDesc q (· = d) := ⟨d, descOf_mem wf found, rfl⟩
  have run : runM (dispatchDesc e) s = runM (dispatchNow q d c e g) s := by
    rw [runM, dispatchDesc, getS_bind, runAll_nil]
    have goes : d.phase = .accepted ∧ (!s.replayHeld e) = true ∧ s.mayDispatch q d = true := ⟨phase, by rw [replay]; rfl, may⟩
    simp only [found, entry, engine]
    rw [if_pos goes, runM]
  have ended (st : Nat) (h : (if d.exhausted then some stExhausted else s.keysRefuse d c) = some st) :
      endedWith q d st [] (runM (dispatchNow q d c e g) s) := by
    rw [runM, dispatchNow_eq, getS_bind]
    simp only [runAll_nil, h]
    exact endDesc_endedWith (l := []) (here.mono fun _ h => by rw [h]) st false []
  refine ⟨runM (dispatchDesc e) s, rfl, ?_⟩
  rw [run]
  refine ⟨(within_dispatchNow q d c e g).leaves s, fun ex => ?_, fun st ex refused => ?_, fun keys ex quota draw => ?_⟩
  · exact ended _ (by rw [ex, if_pos rfl])
  · exact ended _ (by rw [ex, refused]; rfl)
  · have none' : s.overQuota d = false := by
      rw [State.overQuota]
      split
      · exact quota _ (by assumption)
      · rfl
    rw [runM, dispatchNow_eq, getS_bind]
    simp only [runAll_nil, ex, keys, Bool.false_eq_true, if_false, M.ite_apply, none', draw]
    exact startDesc_becomes s q d c e g s [] here

/-! ### DONE records (R145, R149) -/

/-- The record of a descriptor that has ended, with its place in the ring. -/
def State.doneRecord (s : State) (q : Nat) (d : QDesc) : Nat × Bytes :=
  let i := s.fld (R.QUEUE_Q_RTAIL.INDEX q)
  (s.recAddr q i, recordBytes ⟨s.now, s.time.seq⟩ d.seq d.status q ((if i.testBit (s.rlog q) then 0 else 1) + 2 + bitAt d.replayed 2) d.result)

/-- A DONE record is sent. -/
def sendRecord (s : State) (q : Nat) (d : QDesc) (r : Nat × Bytes) : M Unit := do
  modDesc q d.seq fun x => { x with phase := .done, doneRec := r }
  emit (.initWrite (s.queueRid q) r.1 r.2)
  raiseTenant (E.QUEUE.DONE q) q d.tenant

/-- A stamp and a place in the ring. -/
def placeRecord (q : Nat) : M (Stamp × Nat × Nat) := do
  let st ← stamp
  let r ← takeRecord q
  return (st, r)

theorem ringAs_stamp (s : State) (l : List Prim) : (runAll l s).ringAs q (runAll (stamp s l).2 s) :=
  ringAs_of_fld fun y _ => (within_stamp (ps := [.time]) (f := fun _ => false) (by decide)).fld_clear ⟨rfl, fun _ => rfl, fun _ => rfl⟩ s l

theorem within_placeRecord (q : Nat) : Within recordParts engineWords (placeRecord q) :=
  within_bind (within_stamp (by decide)) fun _ => within_bind (within_takeRecord_engine q) fun _ => within_pure _

theorem placeRecord_runs (q : Nat) (s : State) :
    (placeRecord q s []).1 = (⟨s.now, s.time.seq⟩, s.recAddr q (s.fld (R.QUEUE_Q_RTAIL.INDEX q)),
        if (s.fld (R.QUEUE_Q_RTAIL.INDEX q)).testBit (s.rlog q) then 0 else 1)
      ∧ s.recorded q s.out (runAll (placeRecord q s []).2 s) := by
  have ring := ringAs_stamp (q := q) s []
  obtain ⟨tail, out, -⟩ := takeRecord_runs ring
  have place := ring.recAddr
  obtain ⟨-, log, -, same, -⟩ := ring
  rw [runAll_nil] at log same place tail
  have out' : (runAll (stamp s []).2 s).out = s.out := ((within_stamp (ps := [.time]) (f := engineWords) (by decide)).same .out (by decide) s []).symm
  refine ⟨?_, ?_⟩
  · rw [placeRecord, M.bind_apply, M.bind_apply, M.pure_apply, takeRecord_answer, log, same, place]
    rfl
  · rw [placeRecord, M.bind_apply, M.bind_apply, M.pure_apply]
    exact ⟨tail, out.trans out'⟩

theorem doneRecord_eq {s : State} {d : QDesc} (first : (s.descs q).find? (fun d => decide (d.phase ≠ .done)) = some d) (ended : d.phase = .ended)
    (run : s.fld (R.QUEUE_Q_STAT.HALT_CMPL q) = 0) :
    (doneRecord q s []).2 = (sendRecord s q d (s.doneRecord q d) s (placeRecord q s []).2).2 := by
  have answer := (placeRecord_runs q s).1
  rw [placeRecord, M.bind_apply, M.bind_apply, M.pure_apply] at answer ⊢
  obtain ⟨st, place⟩ := Prod.mk.inj answer
  rw [doneRecord, getS_bind, runAll_nil]
  simp only [first]
  rw [if_pos ⟨ended, run⟩, M.bind_apply, M.bind_apply, place, st]
  rfl

theorem within_sendRecord (s : State) (q : Nat) (d : QDesc) (r : Nat × Bytes) : Within queueParts engineWords (sendRecord s q d r) :=
  within_bind (within_modDesc _ _ _) fun _ => within_bind (within_emit _ (by decide)) fun _ =>
    (within_raiseTenant_desc _ (queueEvent_pages q).2.2.1 q _).mono (by decide) descWord_engine

theorem sendRecord_becomes (s : State) (q : Nat) (d : QDesc) (r : Nat × Bytes) : Leads (State.holdsDesc q (· = d)) (sendRecord s q d r)
    fun _ => State.holdsDesc q fun x => x.seq = d.seq ∧ x.bytes = d.bytes ∧ x.phase = .done ∧ x.doneRec = r := by
  refine leads_bind (R := fun _ => State.holdsDesc q fun x => x.seq = d.seq ∧ x.bytes = d.bytes ∧ x.phase = .done ∧ x.doneRec = r)
    (modDesc_leads ?_) fun _ => keeps_bind ((within_emit (ps := [.out]) (f := engineWords) _ (by decide)).keeps_holdsDesc (by decide) q _) fun _ =>
      (within_raiseTenant_desc _ (queueEvent_pages q).2.2.1 q _).keeps_holdsDesc (by decide) q _
  rintro x rfl
  rw [if_pos rfl]
  exact ⟨rfl, rfl, rfl, rfl⟩

theorem sendRecord_records {s u : State} (d : QDesc) (r : Nat × Bytes) {out : List Out} {l : List Prim} (h : s.recorded q out (runAll l u)) :
    s.recorded q (out ++ [.initWrite (s.queueRid q) r.1 r.2]) (runAll (sendRecord s q d r u l).2 u) := by
  rw [sendRecord, M.bind_apply, M.bind_apply]
  refine (within_raiseTenant_desc _ (queueEvent_pages q).2.2.1 q _).keeps_recorded (by decide) descWord_end s _ u _ ?_
  obtain ⟨tail, sent⟩ := (within_modDesc_desc q d.seq fun x => { x with phase := .done, doneRec := r }).keeps_recorded (by decide) descWord_end s out u l h
  refine ⟨((within_emit (ps := [.out]) (f := fun _ => false) _ (by decide)).fld_clear ⟨rfl, fun _ => rfl, fun _ => rfl⟩ u _).trans tail, ?_⟩
  rw [emit_out, sent]

theorem doneRecord_runs {s : State} {d : QDesc} (first : (s.descs q).find? (fun d => decide (d.phase ≠ .done)) = some d) (ended : d.phase = .ended)
    (run : s.fld (R.QUEUE_Q_STAT.HALT_CMPL q) = 0) :
    ∃ t, exec1 (doneRecord q) s = .next t ∧ (SameBut queueParts s t ∧ WordsBut engineWords s t)
      ∧ t.fld (R.QUEUE_Q_RTAIL.INDEX q) = (s.fld (R.QUEUE_Q_RTAIL.INDEX q) + 1) % 2 ^ 16
      ∧ t.out = s.out ++ [.initWrite (s.queueRid q) (s.doneRecord q d).1 (s.doneRecord q d).2]
      ∧ ∃ x ∈ t.descs q, x.seq = d.seq ∧ x.bytes = d.bytes ∧ x.phase = .done ∧ x.doneRec = s.doneRecord q d := by
  have framed : Within queueParts engineWords (placeRecord q >>= fun _ => sendRecord s q d (s.doneRecord q d)) :=
    within_bind (within_placeRecord q).ofEngine fun _ => within_sendRecord s q d _
  have frame := framed.leaves s
  rw [runM, M.bind_apply] at frame
  obtain ⟨tail, out⟩ := sendRecord_records d (s.doneRecord q d) (placeRecord_runs q s).2
  refine ⟨runM (doneRecord q) s, rfl, ?_⟩
  rw [runM, doneRecord_eq first ended run]
  refine ⟨frame, tail, out, ?_⟩
  exact sendRecord_becomes s q d _ s _ ((within_placeRecord q).keeps_holdsDesc (by decide) q (· = d) s [] ⟨d, List.mem_of_find?_eq_some first, rfl⟩)

end Sys2Proof.Machine
end

section
/-! O45: the response to a DONE write, tokens, and the statement (R145, R147, R149, R170). -/
namespace Sys2Proof.Machine
open Sys2Proof

variable {q : Nat}

/-! ### The response to a DONE write (R147, R149) -/

/-- An entry that is freed is free. -/
theorem freeEntry_frees (n : Nat) (s : State) (l : List Prim) : (runAll (freeEntry n s l).2 s).entry n = none := by
  have quiet {α : Type} {ps : List Piece} {f : Nat → Bool} {m : M α} (h : Within ps f m) (hp : .cellar ∉ ps) : Keeps (fun t => t.entry n = none) m :=
    h.keeps_entry hp n (· = none)
  have occupancy : Keeps (fun t => t.entry n = none) cellarOccupancy := keeps_entry_occupancy n (· = none)
  have set (c : CellarState) : Keeps (fun t => t.entry n = none) (prim (.cellar c)) := keeps_entry_cellar c n (· = none)
  have raised : Keeps (fun t => t.entry n = none) (raise E.CELLAR.REPLAY_DONE) := quiet (within_raise _ (by decide) _) (by decide)
  have lanes : Keeps (fun t => t.entry n = none) laneRefresh := quiet within_laneRefresh (by decide)
  have leads : Leads (fun _ => True) (freeEntry n) fun _ t => t.entry n = none := by
    refine leads_bind (R := fun _ t => t.entry n = none) (leads_prim fun t _ => ?_) fun _ => keeps_bind keeps_getS fun s => ?_
    · rw [State.entry, Prim.run_cellar]
      exact mget_mset_same (fun _ => none) _ n none
    refine keeps_ite (keeps_bind (set _) fun _ => keeps_ite (keeps_bind raised fun _ => keeps_bind lanes fun _ => occupancy) occupancy) occupancy
  exact leads s l trivial

/-- The entry of a descriptor is freed. -/
def freeOf : Option Nat → M Unit
  | some e => freeEntry e
  | none => pure ()

/-- The descriptors of a number leave their pair. -/
def retireDesc (s : State) (q : Nat) (d : QDesc) : M Unit := do
  freeOf d.entry
  setDescs q ((s.descs q).filter fun x => x.seq ≠ d.seq)

theorem doneAck_eq {s : State} {d : QDesc} (oldest : (s.descs q).find? (fun d => decide (d.phase = .done) && !d.doneHeld) = some d) (ok : Bool) :
    (doneAck q ok s []).2 = ((if ok then retireDesc s q d else holdDone q d : M Unit) s []).2 := by
  rw [doneAck, getS_bind, runAll_nil]
  simp only [oldest]
  cases ok with
  | true =>
    rw [if_pos rfl, if_pos rfl, retireDesc]
    cases he : d.entry with
    | none => rw [freeOf, M.bind_apply, M.pure_apply]
    | some e => rw [freeOf]
  | false => rfl

theorem freePages_engine (p : Nat) (h : p ∈ freePages) : p ∈ queueWords :=
  List.mem_append_left _ (List.mem_append_right _ h)

theorem within_retireDesc (s : State) (q : Nat) (d : QDesc) : Within queueParts engineWords (retireDesc s q d) := by
  refine within_bind ?_ fun _ => within_setDescs _ _
  cases d.entry with
  | some e => exact (within_freeEntry e).mono (by decide) (ownPages_mono freePages_engine freePages_engine)
  | none => exact within_pure _

theorem doneAck_runs {s : State} {d : QDesc} (oldest : (s.descs q).find? (fun d => decide (d.phase = .done) && !d.doneHeld) = some d) (ok : Bool) :
    ∃ t, exec1 (doneAck q ok) s = .next t ∧ (SameBut queueParts s t ∧ WordsBut engineWords s t)
      ∧ (ok = true → (∀ x ∈ t.descs q, x.seq ≠ d.seq) ∧ ∀ e, d.entry = some e → t.entry e = none)
      ∧ (ok = false → t.fld (R.QUEUE_Q_STAT.HALT_CMPL q) = 1 ∧ t.shows (E.QUEUE.QERR q)
          ∧ ∃ x ∈ t.descs q, x.seq = d.seq ∧ x.bytes = d.bytes ∧ x.doneHeld = true) := by
  have frame : Within queueParts engineWords (if ok then retireDesc s q d else holdDone q d : M Unit) :=
    within_ite (within_retireDesc s q d) (within_holdDone q d)
  have run : runM (doneAck q ok) s = runM (if ok then retireDesc s q d else holdDone q d : M Unit) s := by
    rw [runM, doneAck_eq oldest, runM]
  refine ⟨runM (doneAck q ok) s, rfl, run ▸ frame.leaves s, fun yes => ?_, fun no => ?_⟩
  · rw [run, yes, if_pos rfl, runM, retireDesc, M.bind_apply]
    refine ⟨fun x hx => ?_, fun e he => ?_⟩
    · rw [setDescs_descs, if_pos rfl] at hx
      simpa using (List.mem_filter.1 hx).2
    · rw [he, freeOf]
      exact (within_setDescs_desc q _).keeps_entry (by decide) e (· = none) s _ (freeEntry_frees e s [])
  · rw [run, no, if_neg (by decide), runM, holdDone, M.bind_apply]
    obtain ⟨halt, shows⟩ := haltCmpl_runs q s (modDesc q d.seq (fun x => { x with doneHeld := true }) s []).2
    refine ⟨halt, shows, ?_⟩
    rw [haltCmpl_descs, modDesc_descs, if_pos rfl]
    exact ⟨{ d with doneHeld := true }, List.mem_map.2 ⟨d, List.mem_of_find?_eq_some oldest, by simp⟩, rfl, rfl, rfl⟩

/-! ### Tokens (R170) -/

/-- TOKENS holds a count between its bounds. -/
def clampTokens (v : Int) : Int := max (-(2 ^ 15)) (min (2 ^ 15 - 1) v)

/-- A 16-bit value in two's complement. -/
def signed16 (v : Nat) : Int := if v < 2 ^ 15 then (v : Int) else (v : Int) - 2 ^ 16

theorem tokens_eq (s : State) (t : Nat) : s.tokens t = signed16 (s.fld (R.QUEUE_TNT_STAT.TOKENS t)) := rfl

theorem signed16_clampTokens (v : Int) : signed16 ((clampTokens v % 2 ^ 16).toNat % 2 ^ 16) = clampTokens v := by
  have range : -(2 ^ 15) ≤ clampTokens v ∧ clampTokens v < 2 ^ 15 := by
    rw [clampTokens]
    omega
  rw [signed16]
  split <;> omega

theorem tokens_setTokens (t i : Nat) (ht : t < 8) (hi : i < 8) (v : Int) (s : State) (l : List Prim) :
    (runAll (setTokens t v s l).2 s).tokens i = if i = t then clampTokens v else (runAll l s).tokens i := by
  have paused : (R.QUEUE_TNT_STAT.CHRON_PAUSED t).Apart (R.QUEUE_TNT_STAT.TOKENS i) := by
    simp only [RegField.Apart, R.QUEUE_TNT_STAT.CHRON_PAUSED, R.QUEUE_TNT_STAT.TOKENS]
    omega
  rw [tokens_eq, tokens_eq, setTokens, M.bind_apply, getS_bind, fld_wr_apart _ paused]
  by_cases here : i = t
  · subst here
    rw [if_pos rfl, fld_wr_same _ _ (.inl ⟨by simp [R.QUEUE_TNT_STAT.TOKENS], by simp [R.QUEUE_TNT_STAT.TOKENS]⟩)]
    exact signed16_clampTokens v
  · have apart : (R.QUEUE_TNT_STAT.TOKENS t).Apart (R.QUEUE_TNT_STAT.TOKENS i) := by
      simp only [RegField.Apart, R.QUEUE_TNT_STAT.TOKENS]
      omega
    rw [if_neg here, fld_wr_apart _ apart]

theorem chronRate_setTokens (t i : Nat) (v : Int) (s : State) (l : List Prim) :
    (runAll (setTokens t v s l).2 s).chronRate i = (runAll l s).chronRate i := by
  have apart : (R.QUEUE_TNT_STAT.CHRON_PAUSED t).Apart (R.QUEUE_TNT_QUOTA_C.CHRON_RATE i)
      ∧ (R.QUEUE_TNT_STAT.TOKENS t).Apart (R.QUEUE_TNT_QUOTA_C.CHRON_RATE i) := by
    simp only [RegField.Apart, R.QUEUE_TNT_STAT.CHRON_PAUSED, R.QUEUE_TNT_STAT.TOKENS, R.QUEUE_TNT_QUOTA_C.CHRON_RATE]
    omega
  rw [State.chronRate, setTokens, M.bind_apply, getS_bind, fld_wr_apart _ apart.1, fld_wr_apart _ apart.2, State.chronRate]

/-- The refill of a tenant. -/
def refill (t : Nat) : M Unit := do
  let s ← getS
  setTokens t (min (4 * (s.chronRate t : Int)) (s.tokens t + s.chronRate t))

/-- What a refill makes of a tenant's tokens. -/
def State.refilled (s : State) (i : Nat) : Int := clampTokens (min (4 * (s.chronRate i : Int)) (s.tokens i + s.chronRate i))

/-- Each of the tenants listed has its refill, and no other. -/
theorem refills_run {ts : List Nat} (once : ts.Nodup) (small : ∀ t ∈ ts, t < 8) {i : Nat} (hi : i < 8) (s : State) (l : List Prim) :
    (runAll (forM ts refill s l).2 s).tokens i = if i ∈ ts then (runAll l s).refilled i else (runAll l s).tokens i := by
  induction ts generalizing l with
  | nil => simp [forM]
  | cons t ts ih =>
    obtain ⟨fresh, once⟩ := List.nodup_cons.1 once
    rw [forM, M.bind_apply, ih once fun x hx => small x (List.mem_cons_of_mem _ hx)]
    have first (v : Int) := tokens_setTokens t i (small t List.mem_cons_self) hi v s l
    rw [State.refilled, refill, getS_bind, chronRate_setTokens, first]
    by_cases here : i = t
    · subst here
      rw [if_neg fresh, if_pos rfl, if_pos List.mem_cons_self, State.refilled]
    · simp only [List.mem_cons, here, false_or, if_false, State.refilled]

theorem within_setTokens (t : Nat) (v : Int) : Within [.regs] (ownPages queuePages []) (setTokens t v) := by
  have store (x : RegField) (v : Nat) (h : x.addr = 0x10054 + 0x1000 * (t % 8) ∧ x.hi < 32) : Within [.regs] (ownPages queuePages []) (wr x v) :=
    within_wr_page x v (by decide) (mem_queuePages.2 (by omega)) (by omega) (.inl h.2)
  exact within_bind (store _ _ ⟨rfl, by simp [R.QUEUE_TNT_STAT.TOKENS]⟩) fun _ => within_bind within_getS fun _ =>
    store _ _ ⟨rfl, by simp [R.QUEUE_TNT_STAT.CHRON_PAUSED]⟩

theorem refill_runs (s : State) : ∃ t, exec1 tokenRefill s = .next t ∧ SameBut [.regs] s t ∧ WordsBut (ownPages queuePages []) s t
    ∧ ∀ i < 8, t.tokens i = max (-(2 ^ 15)) (min (2 ^ 15 - 1) (min (4 * (s.chronRate i : Int)) (s.tokens i + s.chronRate i))) := by
  have frame : Within [.regs] (ownPages queuePages []) tokenRefill := within_forM _ fun t => within_bind within_getS fun _ => within_setTokens t _
  obtain ⟨same, words⟩ := frame.leaves s
  refine ⟨runM tokenRefill s, rfl, same, words, fun i hi => ?_⟩
  have run := refills_run List.nodup_range (fun t ht => List.mem_range.1 ht) hi s []
  rw [if_pos (List.mem_range.2 hi)] at run
  exact run

/-- Settles O45, command by command: what the pair's descriptors, their entry and their ring become is followed through the stages of each. -/
theorem queueEngine : Obligations.QueueEngine := by
  unfold Obligations.QueueEngine
  intro s wf
  dsimp only
  refine ⟨fun m q next => fetch_runs m next, fun q m d e power free first plain => accept_runs m power free first plain,
    fun e q g d c found entry engine phase replay may => dispatch_runs wf found entry engine phase replay may,
    fun q d first ended run => doneRecord_runs first ended run, fun q ok d oldest => doneAck_runs oldest ok, refill_runs s⟩

end Sys2Proof.Machine
end

section
/-! Lane work that a command needs at once: what it leaves unchanged, and when its answer is yes (R113, R117, R224). -/
namespace Sys2Proof.Machine
open Sys2Proof

/-! ### What lane work changes -/

/-- The pieces and words of lane work; the lanes themselves change where blocks pass alone. -/
abbrev schedParts : List Piece := .sched :: recordParts
abbrev benchParts : List Piece := .lanes :: schedParts
abbrev benchWords : Nat → Bool := ownPages lanePages lanePages

theorem Within.ofSched {α : Type} {m : M α} (h : Within schedParts benchWords m) : Within benchParts benchWords m :=
  h.mono (fun _ => List.mem_cons_of_mem _) fun _ h => h

theorem within_sched (d : SchedState) : Within schedParts benchWords (prim (.sched d)) := within_prim (by simp [Prim.pieces]) (by simp [Prim.pieces])

theorem within_assignAll : Within schedParts benchWords assignAll := by
  refine within_bind within_getS fun s => within_ite (within_bind (within_sched _) fun _ => within_forM _ fun w => within_forM _ fun l => ?_) (within_pure _)
  refine within_ite (within_bind (within_bind (within_rd _) fun _ => within_wr_page _ _ (by decide) ?_ ?_ (.inl ?_)) fun _ => ?_) (within_pure _)
  · simp only [R.LANE_REPLAYS.COUNT, lanePages, List.mem_cons]
    omega
  · simp only [R.LANE_REPLAYS.COUNT]
    omega
  · simp [R.LANE_REPLAYS.COUNT]
  · refine (within_raiseNamed (E.LANE.REPLAY_OUT w) ?_ _ _ _).mono (by decide) fun a h => eventWord_ownPages _ _ a (eventWord_mono ?_ a h)
    · simp only [E.LANE.REPLAY_OUT]
      omega
    · simp only [E.LANE.REPLAY_OUT, lanePages, List.mem_cons, List.not_mem_nil, or_false]
      omega

theorem within_syncItems : Within schedParts benchWords syncItems :=
  within_bind within_getS fun _ => within_ite (within_bind (within_sched _) fun _ => within_assignAll) within_assignAll

theorem within_modLane (l : Nat) (f : LaneState → LaneState) : Within benchParts benchWords (modLane l f) :=
  within_bind within_getS fun _ => within_prim (by simp [Prim.pieces]) (by simp [Prim.pieces])

theorem within_modItems (f : List LaneItem → List LaneItem) : Within schedParts benchWords (modItems f) :=
  within_bind within_getS fun _ => within_sched _

theorem within_slotsCount (c v : Nat) : Within recordParts benchWords (wr (R.SCHED_SLOTS.COUNT c) v) := by
  have page : (0xc0a0 + 8 * (c % 8)) / 0x1000 = 0x0C := by omega
  refine within_wr_page _ _ (by decide) (by simp [R.SCHED_SLOTS.COUNT, lanePages, page]) ?_ (.inr ⟨by simp [R.SCHED_SLOTS.COUNT], ?_⟩)
  all_goals
    simp only [R.SCHED_SLOTS.COUNT]
    omega

theorem within_countSlots (c n : Nat) : Within schedParts benchWords (countSlots c n) :=
  within_ite (within_bind within_getS fun _ => within_bind (within_sched _) fun _ => within_bind (within_rd _) fun _ =>
    (within_slotsCount _ _).mono (fun _ => List.mem_cons_of_mem _) fun _ h => h) (within_pure _)

theorem within_countBlocks (l n : Nat) : Within recordParts benchWords (countBlocks l n) := by
  refine within_ite (within_bind (within_rd _) fun _ => within_wr_page _ _ (by decide) ?_ ?_ (.inr ⟨?_, ?_⟩)) (within_pure _)
  · simp only [R.LANE_BLOCKS.COUNT, lanePages, List.mem_cons]
    omega
  all_goals
    simp only [R.LANE_BLOCKS.COUNT]
    omega

/-- The subkey that an item's work has made is held in its lane. -/
def keepSubkey (l : Nat) : Option (KeyRef × Bytes) → M Unit
  | some q => modLane l fun z => { z with subkeys := (q :: z.subkeys.filter fun w => w.1 ≠ q.1).take 256 }
  | none => pure ()

/-- An item whose blocks have passed. -/
def LaneItem.passed (x : LaneItem) : LaneItem := { x with done := true, next := x.blocks, out := x.blocks, released := x.blocks }

/-- The blocks of an item that have not left O2 pass through its lane. -/
def passItem (s : State) (x : LaneItem) (l : Nat) : M Unit := do
  let y := x.skipped (s.lane l) s.laneJobs
  countSlots y.cls (y.blocks - y.next)
  countBlocks l ((y.blocks - y.next) + ((s.lane l).pipe.filter fun p => (p.2.of x).isSome).length)
  modLane l fun z => { z.without x 0 with folds := z.folds.filter fun f => !x.is f.owner f.order }
  keepSubkey l ((opAt s.laneJobs y y.next).bind fun p => if p.sub then p.k.ref.map fun q => (q, aesEnc p.k.key (zeros 16)) else none)
  modItems (putItem y.passed)
  assignAll

/-- The work of an owner's item, and whether it is done. -/
def passWork (s : State) : Option LaneItem → M Bool
  | none => pure true
  | some x => if x.done then pure true else match x.lane with
    | none => pure false
    | some l => if !s.inService l then pure false else passItem s x l >>= fun _ => pure true

theorem M.bind_assoc {α β γ : Type} (m : M α) (k : α → M β) (g : β → M γ) : m >>= k >>= g = m >>= fun a => k a >>= g := rfl

theorem M.pure_bind {α β : Type} (a : α) (k : α → M β) : pure a >>= k = k a := rfl

theorem finishWork_eq (o : LaneOwner) : finishWork o = syncItems >>= fun _ => getS >>= fun s => passWork s (s.sched.items.find? fun x => x.owner = o) := by
  unfold finishWork
  refine congrArg (fun k : Unit → M Bool => syncItems >>= k) (funext fun _ => congrArg (fun k : State → M Bool => getS >>= k) (funext fun s => ?_))
  cases s.sched.items.find? fun x => x.owner = o with
  | none => rfl
  | some x =>
    dsimp only
    rw [passWork]
    split
    · rfl
    · cases x.lane with
      | none => rfl
      | some l =>
        dsimp only
        split
        · rfl
        · unfold passItem
          dsimp only [LaneItem.passed]
          generalize ((opAt s.laneJobs _ _).bind _ : Option (KeyRef × Bytes)) = k
          cases k with
          | none => simp only [keepSubkey, M.bind_assoc, M.pure_bind]
          | some w => simp only [keepSubkey, M.bind_assoc]

theorem within_keepSubkey (l : Nat) (o : Option (KeyRef × Bytes)) : Within benchParts benchWords (keepSubkey l o) := by
  cases o with
  | some q => exact within_modLane _ _
  | none => exact within_pure _

theorem within_passItem (s : State) (x : LaneItem) (l : Nat) : Within benchParts benchWords (passItem s x l) :=
  within_bind (within_countSlots _ _).ofSched fun _ => within_bind ((within_countBlocks _ _).mono (by decide) fun _ h => h) fun _ =>
    within_bind (within_modLane _ _) fun _ => within_bind (within_keepSubkey _ _) fun _ => within_bind (within_modItems _).ofSched fun _ =>
    within_assignAll.ofSched

theorem within_passWork (s : State) (o : Option LaneItem) : Within benchParts benchWords (passWork s o) := by
  cases o with
  | none => exact within_pure _
  | some x =>
    rw [passWork]
    refine within_ite (within_pure _) ?_
    split
    · exact within_pure _
    · exact within_ite (within_pure _) (within_bind (within_passItem _ _ _) fun _ => within_pure _)

theorem within_finishWork (o : LaneOwner) : Within benchParts benchWords (finishWork o) := by
  rw [finishWork_eq]
  exact within_bind within_syncItems.ofSched fun _ => within_bind within_getS fun _ => within_passWork _ _

theorem within_itemWork (e : Nat) (pair : Bool) : Within benchParts benchWords (itemWork e pair) :=
  within_bind (within_finishWork _) fun _ => within_ite (within_finishWork _) (within_pure _)

/-! ### Lanes in service -/

/-- What of a lane says whether it may serve. -/
def LaneState.standing (a : LaneState) : Bool × Bool × Bool × Option KatReason × Bool := (a.powered, a.tested, a.fenced, a.kat, a.replaying)

/-- Every lane stands as `g` says. -/
def State.stands (g : Nat → Bool × Bool × Bool × Option KatReason × Bool) (t : State) : Prop := ∀ l, (t.lane l).standing = g l

/-- What touches no lane leaves each as it stands. -/
theorem Within.keeps_stands {α : Type} {ps : List Piece} {f : Nat → Bool} {m : M α} (h : Within ps f m) (hp : .lanes ∉ ps)
    (g : Nat → Bool × Bool × Bool × Option KatReason × Bool) : Keeps (State.stands g) m := fun s l k n => by
  rw [State.lane, ← show _ = _ from h.same .lanes hp s l]
  exact k n

theorem keeps_stands_modLane {l : Nat} {f : LaneState → LaneState} (hf : ∀ a, (f a).standing = a.standing)
    (g : Nat → Bool × Bool × Bool × Option KatReason × Bool) : Keeps (State.stands g) (modLane l f) := by
  refine leads_getS fun s => leads_prim ?_
  rintro t ⟨rfl, k⟩ n
  rw [State.lane, Prim.run_lanes]
  by_cases here : n = l
  · subst here
    rw [mget_mset_same, hf]
    exact k n
  · rw [mget_mset_other _ _ _ _ _ here]
    exact k n

theorem keeps_stands_passItem (s : State) (x : LaneItem) (l : Nat) (g : Nat → Bool × Bool × Bool × Option KatReason × Bool) :
    Keeps (State.stands g) (passItem s x l) := by
  have subkey (o : Option (KeyRef × Bytes)) : Keeps (State.stands g) (keepSubkey l o) := by
    cases o with
    | some q =>
      rw [keepSubkey]
      refine keeps_stands_modLane ?_ g
      exact fun _ => rfl
    | none => exact keeps_pure _
  have blocks : Keeps (State.stands g) (modLane l fun z => { z.without x 0 with folds := z.folds.filter fun f => !x.is f.owner f.order }) := by
    refine keeps_stands_modLane ?_ g
    exact fun _ => rfl
  exact keeps_bind ((within_countSlots _ _).keeps_stands (by decide) g) fun _ => keeps_bind ((within_countBlocks _ _).keeps_stands (by decide) g) fun _ =>
    keeps_bind blocks fun _ => keeps_bind (subkey _) fun _ =>
    keeps_bind ((within_modItems _).keeps_stands (by decide) g) fun _ => within_assignAll.keeps_stands (by decide) g

/-- Lane work has been done since `s`, and each lane stands as it did. -/
def State.bench (s t : State) : Prop := s.framed benchParts benchWords t ∧ t.stands fun l => (s.lane l).standing

theorem State.bench_refl (s : State) : s.bench s := ⟨State.framed.refl, fun _ => rfl⟩

theorem Within.keeps_bench {α : Type} {m : M α} (h : Within schedParts benchWords m) (s : State) : Keeps s.bench m := fun u l k =>
  ⟨h.ofSched.keeps_framed (fun _ h => h) (fun _ h => h) s u l k.1, h.keeps_stands (by decide) _ u l k.2⟩

theorem keeps_bench_passWork (s t : State) (o : Option LaneItem) : Keeps s.bench (passWork t o) := by
  cases o with
  | none => exact keeps_pure _
  | some x =>
    have pass (l : Nat) : Keeps s.bench (passItem t x l) := fun u l' k =>
      ⟨(within_passItem t x l).keeps_framed (fun _ h => h) (fun _ h => h) s u l' k.1, keeps_stands_passItem t x l _ u l' k.2⟩
    rw [passWork]
    refine keeps_ite (keeps_pure _) ?_
    split
    · exact keeps_pure _
    · exact keeps_ite (keeps_pure _) (keeps_bind (pass _) fun _ => keeps_pure _)

theorem keeps_bench_finishWork (s : State) (o : LaneOwner) : Keeps s.bench (finishWork o) := by
  rw [finishWork_eq]
  exact keeps_bind (within_syncItems.keeps_bench s) fun _ => keeps_bind keeps_getS fun t => keeps_bench_passWork s t _

/-- The state of a lane's page is no word of lane work. -/
theorem laneState_clear (l : Nat) : (R.PG_STAT.STATE (0x08 + l)).Clear benchWords := by
  refine ⟨?_, by simp [R.PG_STAT.STATE], by simp [R.PG_STAT.STATE]⟩
  have low : (0x1000 * ((0x08 + l) % 64) + 0xc) % 0x1000 = 0xc := by omega
  have trace : 0x1000 * ((0x08 + l) % 64) + 0xc ≠ 0x3058 := by omega
  simp [benchWords, ownPages, eventWord, R.PG_STAT.STATE, low, trace]

/-- The lanes in service stay so. -/
theorem State.bench.inService {s t : State} (h : s.bench t) : t.inService = s.inService := by
  obtain ⟨⟨same, words⟩, stands⟩ := h
  have cellar : s.cellar = t.cellar := same .cellar (by decide)
  funext l
  obtain ⟨powered, tested, fenced, kat, replaying⟩ : (t.lane l).powered = (s.lane l).powered ∧ (t.lane l).tested = (s.lane l).tested
      ∧ (t.lane l).fenced = (s.lane l).fenced ∧ (t.lane l).kat = (s.lane l).kat ∧ (t.lane l).replaying = (s.lane l).replaying := by
    simpa [LaneState.standing] using stands l
  unfold State.inService State.laneAvail State.laneReplays State.pageState
  dsimp only
  rw [powered, tested, fenced, kat, replaying, cellar, words.fld (laneState_clear l)]

end Sys2Proof.Machine
end

section
/-! Lane items of one owner, while the lanes work for others (R113, R224). -/
namespace Sys2Proof.Machine
open Sys2Proof

variable {o : LaneOwner} {srv : Nat → Bool} {jobs : List LaneJob}

/-! ### Items served, and jobs that have items -/

/-- Every item of an owner has its work done, or stands on a lane of those that serve. -/
def Served (o : LaneOwner) (srv : Nat → Bool) (items : List LaneItem) : Prop := ∀ x ∈ items, x.owner = o → x.done = true ∨ x.lane.any srv = true

/-- Every job of an owner that has blocks has an item. -/
def Covered (o : LaneOwner) (jobs : List LaneJob) (items : List LaneItem) : Prop :=
  ∀ j ∈ jobs, j.owner = o → segsLen j.segs ≠ 0 → ∃ x ∈ items, x.is j.owner j.order = true

/-- An item that is served needs no lane. -/
theorem Served.placed {items : List LaneItem} (h : Served o srv items) {x : LaneItem} (hx : x ∈ items) (owner : x.owner = o) :
    x.lane.isSome = true ∨ x.done = true := by
  rcases h x hx owner with done | lane
  · exact .inr done
  · cases hl : x.lane with
    | none => rw [hl] at lane; exact absurd lane (by simp)
    | some l => exact .inl rfl

/-- A change of items that keeps their owners, and of those served whether they are. -/
theorem Served.map {items : List LaneItem} (h : Served o srv items) {f : LaneItem → LaneItem}
    (hf : ∀ x ∈ items, (f x).owner = o → x.owner = o ∧ (f x).done = x.done ∧ (f x).lane = x.lane) : Served o srv (items.map f) := by
  intro y hy owner
  obtain ⟨x, hx, rfl⟩ := List.mem_map.1 hy
  obtain ⟨own, done, lane⟩ := hf x hx owner
  rw [done, lane]
  exact h x hx own

theorem Covered.map {items : List LaneItem} (h : Covered o jobs items) {f : LaneItem → LaneItem}
    (hf : ∀ x, (f x).owner = x.owner ∧ (f x).order = x.order) : Covered o jobs (items.map f) := by
  intro j hj owner blocks
  obtain ⟨x, hx, is⟩ := h j hj owner blocks
  exact ⟨f x, List.mem_map_of_mem hx, by rw [LaneItem.is, (hf x).1, (hf x).2, ← LaneItem.is, is]⟩

theorem is_iff {x : LaneItem} {o : LaneOwner} {n : Nat} : x.is o n = true ↔ x.owner = o ∧ x.order = n := by simp [LaneItem.is]

/-- Another owner's item is replaced. -/
theorem Served.put {items : List LaneItem} (h : Served o srv items) {y : LaneItem} (hy : y.owner ≠ o) : Served o srv (putItem y items) := by
  refine h.map fun x hx owner => ?_
  split at owner
  · exact absurd owner hy
  · rename_i other
    rw [if_neg other]
    exact ⟨owner, rfl, rfl⟩

theorem Covered.put {items : List LaneItem} (h : Covered o jobs items) (y : LaneItem) : Covered o jobs (putItem y items) := by
  refine h.map fun x => ?_
  split
  · rename_i here
    exact ⟨(is_iff.1 here).1.symm, (is_iff.1 here).2.symm⟩
  · exact ⟨rfl, rfl⟩

/-- The items that a list asks lanes for are others' items. -/
theorem assigned_keeps {s : State} {r : List LaneItem} (served : Served o srv s.sched.items) (covered : Covered o jobs s.sched.items)
    (placed : ∀ x ∈ r, x.owner = o → x.lane.isSome = true ∨ x.done = true) :
    Served o srv (s.assigned r).sched.items ∧ Covered o jobs (s.assigned r).sched.items := by
  induction r generalizing s with
  | nil => exact ⟨served, covered⟩
  | cons x r ih =>
    have rest : ∀ x ∈ r, x.owner = o → x.lane.isSome = true ∨ x.done = true := fun x hx => placed x (List.mem_cons_of_mem _ hx)
    rw [State.assigned]
    split
    · exact ih served covered rest
    · rename_i open'
      have other : x.owner ≠ o := fun owner => open' (placed x List.mem_cons_self owner)
      split
      · exact ih (served.put (y := { x with lane := some _ }) other) (covered.put _) rest
      · exact ih served covered rest

/-- Items fitted to jobs: each of an owner stands as it did, where each of its jobs had one. -/
theorem fit_served {d : SchedState} (served : Served o srv d.items) (covered : Covered o jobs d.items) {new : List LaneJob}
    (known : ∀ j ∈ new, j.owner = o → j ∈ jobs) : Served o srv (d.fit new).items := by
  intro y hy owner
  rcases List.mem_append.1 hy with old | fresh
  · obtain ⟨x, hx, found⟩ := List.mem_filterMap.1 old
    obtain ⟨j, -, rfl⟩ := Option.map_eq_some_iff.1 found
    exact served x hx owner
  · obtain ⟨j, hj, rfl⟩ := List.mem_map.1 fresh
    obtain ⟨hj, test⟩ := List.mem_filter.1 hj
    obtain ⟨blocks, unknown⟩ : segsLen j.segs ≠ 0 ∧ ∀ x ∈ d.items, ¬ x.is j.owner j.order = true := by simpa using test
    obtain ⟨x, hx, is⟩ := covered j (known j hj owner) owner blocks
    exact absurd is (unknown x hx)

/-- After the fit every job that has blocks has an item. -/
theorem fit_covered (d : SchedState) (jobs : List LaneJob) (o : LaneOwner) : Covered o jobs (d.fit jobs).items := by
  intro j hj owner blocks
  by_cases known : d.items.any (fun x => x.is j.owner j.order) = true
  · obtain ⟨x, hx, is⟩ := List.any_eq_true.1 known
    obtain ⟨xo, xn⟩ := is_iff.1 is
    have some : (jobs.find? fun j => x.is j.owner j.order).isSome = true := List.find?_isSome.2 ⟨j, hj, is⟩
    obtain ⟨k, found⟩ := Option.isSome_iff_exists.1 some
    exact ⟨{ x with blocks := max x.next (segsLen k.segs), link := k.link },
      List.mem_append_left _ (List.mem_filterMap.2 ⟨x, hx, by rw [found, Option.map_some]⟩), is_iff.2 ⟨xo, xn⟩⟩
  · refine ⟨_, List.mem_append_right _ (List.mem_map.2 ⟨j, List.mem_filter.2 ⟨hj, ?_⟩, rfl⟩), is_iff.2 ⟨rfl, rfl⟩⟩
    simpa [blocks] using known

/-- Nothing waits for a lane: none is assigned. -/
theorem assigned_idle {s : State} {r : List LaneItem} (h : ∀ x ∈ r, x.lane.isSome = true ∨ x.done = true) : s.assigned r = s := by
  induction r with
  | nil => rfl
  | cons x r ih =>
    rw [State.assigned, if_pos (h x List.mem_cons_self)]
    exact ih fun x hx => h x (List.mem_cons_of_mem _ hx)

/-! ### The programs -/

/-- What an owner has of the scheduler. -/
def State.holdsWork (o : LaneOwner) (srv : Nat → Bool) (jobs : List LaneJob) (t : State) : Prop :=
  Served o srv t.sched.items ∧ Covered o jobs t.sched.items

theorem Within.keeps_holdsWork {α : Type} {ps : List Piece} {f : Nat → Bool} {m : M α} (h : Within ps f m) (hp : .sched ∉ ps) (o : LaneOwner)
    (srv : Nat → Bool) (jobs : List LaneJob) : Keeps (State.holdsWork o srv jobs) m := fun s l k => by
  have same : (runAll l s).sched = (runAll (m s l).2 s).sched := h.same .sched hp s l
  exact ⟨same ▸ k.1, same ▸ k.2⟩

/-- The item has a lane, so it was moved from none. -/
def LaneItem.settle (x : LaneItem) : LaneItem := if x.lane.isSome then { x with was := none } else x

theorem settle_same (x : LaneItem) : x.settle.owner = x.owner ∧ x.settle.order = x.order ∧ x.settle.done = x.done ∧ x.settle.lane = x.lane := by
  rw [LaneItem.settle]
  split <;> exact ⟨rfl, rfl, rfl, rfl⟩

/-- The counts of the items moved. -/
def countMoves (items : List LaneItem) : M Unit := forM (List.range 4) fun w => forM (List.range 4) fun l => do
  let n := movedCount items w l
  if n ≠ 0 ∧ w ≠ l then
    bumpBy (R.LANE_REPLAYS.COUNT w) n
    raiseNamed (E.LANE.REPLAY_OUT w) 0x0024 [BitVec.ofNat 96 (w + l * 4 + min 255 n * 2 ^ 8)] .immediate

theorem assignAll_eq : assignAll = getS >>= fun s => if s.sched.items.any (fun x => x.lane.isNone && !x.done) then
    prim (.sched { (s.assigned s.sched.items).sched with items := (s.assigned s.sched.items).sched.items.map LaneItem.settle }) >>= fun _ =>
      countMoves (s.assigned s.sched.items).sched.items else pure () := rfl

theorem within_countMoves (items : List LaneItem) : Within recordParts (fun _ => true) (countMoves items) :=
  within_forM _ fun w => within_forM _ fun l => within_ite (within_bind (within_bind (within_rd _) fun _ =>
    within_wr _ _ (by decide) rfl (fun _ => rfl) fun _ => rfl) fun _ =>
      (within_raiseNamed (E.LANE.REPLAY_OUT w) (by simp only [E.LANE.REPLAY_OUT]; omega) _ _ _).mono (fun _ h => h) fun _ _ => rfl) (within_pure _)

/-- Assigning lanes to the waiting items: an owner whose items are served there, keeps them so. -/
theorem assignAll_leads {s : State} (served : Served o srv (s.assigned s.sched.items).sched.items)
    (covered : Covered o jobs (s.assigned s.sched.items).sched.items) : Leads (fun t => t = s) assignAll fun _ => State.holdsWork o srv jobs := by
  rw [assignAll_eq]
  refine leads_getS_at (leads_ite (fun _ => ?_) fun idle => leads_pure fun t h => ?_)
  · refine leads_bind (R := fun _ => State.holdsWork o srv jobs) (leads_prim fun t _ => ?_) fun _ =>
      (within_countMoves _).keeps_holdsWork (by decide) o srv jobs
    rw [State.holdsWork, Prim.run_sched]
    exact ⟨served.map fun x _ h => ⟨(settle_same x).1 ▸ h, (settle_same x).2.2⟩, covered.map fun x => ⟨(settle_same x).1, (settle_same x).2.1⟩⟩
  · have placed : ∀ x ∈ s.sched.items, x.lane.isSome = true ∨ x.done = true := by
      intro x hx
      have := fun waits => idle (List.any_eq_true.2 ⟨x, hx, waits⟩)
      cases hl : x.lane <;> simp_all
    rw [assigned_idle placed] at served covered
    exact h ▸ ⟨served, covered⟩

theorem keeps_holdsWork_assignAll (o : LaneOwner) (srv : Nat → Bool) (jobs : List LaneJob) : Keeps (State.holdsWork o srv jobs) assignAll := by
  intro s l h
  have keeps := assigned_keeps h.1 h.2 fun x hx owner => h.1.placed hx owner
  exact assignAll_leads keeps.1 keeps.2 s l rfl

/-- Another owner's blocks pass. -/
theorem keeps_holdsWork_passItem (s : State) {x : LaneItem} (hx : x.owner ≠ o) (l : Nat) : Keeps (State.holdsWork o srv jobs) (passItem s x l) := by
  have charge (c n : Nat) : Keeps (State.holdsWork o srv jobs) (countSlots c n) := by
    refine keeps_ite (leads_getS fun t => leads_bind (R := fun _ => State.holdsWork o srv jobs) (leads_prim ?_) fun _ => keeps_bind (keeps_rd _) fun _ =>
      (within_slotsCount _ _).keeps_holdsWork (by decide) o srv jobs) (keeps_pure _)
    rintro u ⟨rfl, h⟩
    rw [State.holdsWork, Prim.run_sched]
    exact h
  have lane (f : LaneState → LaneState) : Keeps (State.holdsWork o srv jobs) (modLane l f) :=
    keeps_bind keeps_getS fun _ => keeps_prim fun t h => by rw [State.holdsWork, Prim.run_sched]; exact h
  have subkey (k : Option (KeyRef × Bytes)) : Keeps (State.holdsWork o srv jobs) (keepSubkey l k) := by
    cases k with
    | some q => exact lane _
    | none => exact keeps_pure _
  have owner : (x.skipped (s.lane l) s.laneJobs).owner = x.owner := by
    rw [LaneItem.skipped]
    split
    · split <;> rfl
    · rfl
  have put : Keeps (State.holdsWork o srv jobs) (modItems (putItem (x.skipped (s.lane l) s.laneJobs).passed)) := by
    refine leads_getS fun t => leads_prim ?_
    rintro u ⟨rfl, h⟩
    rw [State.holdsWork, Prim.run_sched]
    exact ⟨h.1.put (by rw [LaneItem.passed, owner]; exact hx), h.2.put _⟩
  exact keeps_bind (charge _ _) fun _ => keeps_bind ((within_countBlocks _ _).keeps_holdsWork (by decide) o srv jobs) fun _ => keeps_bind (lane _) fun _ =>
    keeps_bind (subkey _) fun _ => keeps_bind put fun _ => keeps_holdsWork_assignAll o srv jobs

/-- The scheduler with the jobs of the state. -/
def State.fitted (s : State) : State := { s with sched := s.sched.fit s.laneJobs }

theorem schedNow_eq (s : State) : s.schedNow = (s.fitted.assigned s.fitted.sched.items).sched := rfl

theorem syncItems_eq {s : State} {Q : Unit → State → Prop} (h : Leads (fun t => t = s.fitted) assignAll Q) : Leads (fun t => t = s) syncItems Q := by
  refine leads_getS_at (leads_ite (fun _ => leads_bind (R := fun _ t => t = s.fitted) (leads_prim fun t k => k ▸ rfl) fun _ => h) fun same => ?_)
  have here : s.fitted = s := by
    rw [State.fitted, not_not.1 same]
  exact here ▸ h

/-- The jobs of an owner are served once the scheduler has assigned what waits. -/
theorem assigned_covered {s : State} {r : List LaneItem} (covered : Covered o jobs s.sched.items) : Covered o jobs (s.assigned r).sched.items := by
  induction r generalizing s with
  | nil => exact covered
  | cons x r ih =>
    rw [State.assigned]
    split
    · exact ih covered
    · split
      · exact ih (covered.put _)
      · exact ih covered

/-- Once the scheduler has taken what is accepted, an owner that can work is served, and its jobs have items. -/
theorem syncItems_serves {s : State} (h : s.canWork o) : Leads (fun t => t = s) syncItems fun _ => State.holdsWork o s.inService s.laneJobs :=
  syncItems_eq (assignAll_leads (schedNow_eq s ▸ h) (assigned_covered (fit_covered _ _ _)))

/-- An owner whose items are served can work, where its jobs are those that have items. -/
theorem canWork_of_holdsWork {s : State} (h : s.holdsWork o s.inService jobs) (known : ∀ j ∈ s.laneJobs, j.owner = o → j ∈ jobs) : s.canWork o := by
  have served : Served o s.inService s.fitted.sched.items := fit_served h.1 h.2 known
  have kept := assigned_keeps (jobs := []) (r := s.fitted.sched.items) served (fun j hj => absurd hj List.not_mem_nil) fun x hx owner => served.placed hx owner
  exact fun x hx => kept.1 x hx

/-- The work of an owner that can work is done at once. -/
theorem finishWork_true {s : State} (h : s.canWork o) : Leads (fun t => t = s) (finishWork o) fun r _ => r = true := by
  rw [finishWork_eq]
  refine leads_bind (R := fun _ t => s.bench t ∧ t.holdsWork o s.inService s.laneJobs) (fun u l k => ?_) fun _ => leads_getS fun t => ?_
  · exact ⟨within_syncItems.keeps_bench s u l (k ▸ s.bench_refl), syncItems_serves h u l k⟩
  rintro u l ⟨rfl, bench, served, -⟩
  cases found : (runAll l u).sched.items.find? fun x => decide (x.owner = o) with
  | none => rfl
  | some x =>
    have owner : x.owner = o := by simpa using List.find?_some found
    rw [passWork, M.ite_apply]
    split
    · rfl
    · rename_i open'
      have lane : x.lane.any s.inService = true := (served x (List.mem_of_find?_eq_some found) owner).resolve_left open'
      cases hl : x.lane with
      | none => rw [hl] at lane; exact absurd lane (by simp)
      | some n =>
        have serves : s.inService n = true := by simpa [hl] using lane
        simp only [bench.inService, serves]
        rfl

/-- It leaves what another owner can. -/
theorem finishWork_other {s : State} {p : LaneOwner} (other : o ≠ p) (h : s.canWork p)
    (known : ∀ t, s.bench t → ∀ j ∈ t.laneJobs, j.owner = p → j ∈ s.laneJobs) : Leads (fun t => t = s) (finishWork o) fun _ t => t.canWork p := by
  have pass (t : State) (x : Option LaneItem) (hx : ∀ y, x = some y → y.owner = o) : Keeps (State.holdsWork p s.inService s.laneJobs) (passWork t x) := by
    cases x with
    | none => exact keeps_pure _
    | some y =>
      rw [passWork]
      refine keeps_ite (keeps_pure _) ?_
      split
      · exact keeps_pure _
      · exact keeps_ite (keeps_pure _) (keeps_bind (keeps_holdsWork_passItem t (fun h => other ((hx y rfl).symm.trans h)) _) fun _ => keeps_pure _)
  have leads : Leads (fun t => t = s) (finishWork o) fun _ => State.holdsWork p s.inService s.laneJobs := by
    rw [finishWork_eq]
    refine leads_bind (syncItems_serves h) fun _ => keeps_bind keeps_getS fun t => pass t _ fun y hy => ?_
    simpa using List.find?_some hy
  intro u l k
  have bench := keeps_bench_finishWork s o u l (k ▸ s.bench_refl)
  refine canWork_of_holdsWork (jobs := s.laneJobs) ?_ (known _ bench)
  rw [bench.inService]
  exact leads u l k

end Sys2Proof.Machine
end

section
/-! The two halves of an item's lane work are done one after the other (R224). -/
namespace Sys2Proof.Machine
open Sys2Proof

/-! ### The jobs of encrypting halves -/

/-- A pair's registers are no words of lane work. -/
theorem pairCfg_clear (k : Nat) : (R.BRIDLE_PAIR_CFG.OUT_PORT k).Clear benchWords ∧ (R.BRIDLE_PAIR_CFG.FORMAT k).Clear benchWords := by
  have page : (0x1d800 + 16 * (k % 128)) / 0x1000 = 0x1D := by omega
  have off : (0x1d800 + 16 * (k % 128)) % 0x1000 ≠ 0x10 ∧ (0x1d800 + 16 * (k % 128)) % 0x1000 ≠ 0x1C ∧ 0x1d800 + 16 * (k % 128) ≠ 0x3058 := by omega
  simp [RegField.Clear, benchWords, ownPages, eventWord, lanePages, R.BRIDLE_PAIR_CFG.OUT_PORT, R.BRIDLE_PAIR_CFG.FORMAT, page, off]

/-- The half of an entry's work that encrypts does not depend on the lanes. -/
theorem halfJobs_bench {s t : State} (h : s.bench t) (e n : Nat) (c : CEntry) {j : LaneJob} (hj : j ∈ t.entryJobs n c) (owner : j.owner = .half e) :
    j ∈ s.entryJobs n c := by
  obtain ⟨⟨same, words⟩, -⟩ := h
  have slots : s.slots = t.slots := same .slots (by decide)
  have cellar : s.cellar = t.cellar := same .cellar (by decide)
  have ports : s.ports = t.ports := same .ports (by decide)
  have queues : s.queues = t.queues := same .queues (by decide)
  have bank : t.bankOf = s.bankOf := by
    funext k
    rw [State.bankOf, State.bankOf, State.slot, State.slot, slots]
  have key : t.laneKey = s.laneKey := by
    funext k
    rw [State.laneKey, State.laneKey, bank]
  have held : t.replayHeld n = s.replayHeld n := by rw [State.replayHeld, State.replayHeld, State.entry, State.entry, cellar]
  have item : t.itemOf n = s.itemOf n := by rw [State.itemOf, State.itemOf, ports]
  have desc : t.descOf n = s.descOf n := by rw [State.descOf, State.descOf, queues]
  have entry : t.entryKey = s.entryKey := by
    funext c i
    rw [State.entryKey, State.entryKey, bank]
  have port (k : Nat) := words.fld (pairCfg_clear k).1
  have format (k : Nat) := words.fld (pairCfg_clear k).2
  have mine (cls : Nat) (tagged : Bool) (segs : List LaneSeg) :
      j ∉ [({ owner := .entry n, order := c.order, cls := cls, tagged := tagged, segs := segs } : LaneJob)] := by
    intro h
    rw [List.mem_singleton.1 h] at owner
    exact absurd owner (by simp)
  cases kind : c.kind with
  | memRd | memWr =>
    simp only [State.entryJobs, kind] at hj
    split at hj
    · exact absurd hj List.not_mem_nil
    · split at hj
      · split at hj
        · exact absurd hj (mine _ _ _)
        · exact absurd hj List.not_mem_nil
      · exact absurd hj List.not_mem_nil
  | egress | ingress | storage | data =>
    simp only [State.entryJobs, State.egressSegs, State.ingressSegs, kind, held, item, key] at hj ⊢
    exact hj
  | bridle =>
    simp only [State.entryJobs, State.halfSegs, State.ingressSegs, State.linkPlain, State.cutPlain, kind, held, item, key, entry, port, format] at hj ⊢
    exact hj
  | queue =>
    simp only [State.entryJobs, State.descSegs, State.descHalf, kind, held, desc, key] at hj ⊢
    exact hj

theorem laneJobs_half {s t : State} (h : s.bench t) (e : Nat) : ∀ j ∈ t.laneJobs, j.owner = .half e → j ∈ s.laneJobs := by
  intro j hj owner
  have cellar : s.cellar = t.cellar := h.1.1 .cellar (by decide)
  rcases List.mem_append.1 hj with entry | loose
  · obtain ⟨p, hp, hj⟩ := List.mem_flatMap.1 entry
    refine List.mem_append_left _ (List.mem_flatMap.2 ⟨p, ?_, halfJobs_bench h e _ _ hj owner⟩)
    rwa [State.inUse, cellar]
  · obtain ⟨k, -, hk⟩ := List.mem_flatMap.1 loose
    rw [State.looseJobs] at hk
    split at hk
    · rw [List.mem_singleton.1 hk] at owner
      exact absurd owner (by simp)
    · exact absurd hk List.not_mem_nil

/-- The work of an entry that can work on the lanes it needs is done at once. -/
theorem itemWork_runs {s : State} {e : Nat} {pair : Bool} (work : s.canWork (.entry e)) (half : pair = true → s.canWork (.half e)) :
    (itemWork e pair s []).1 = true ∧ s.bench (runAll (itemWork e pair s []).2 s) := by
  have first := finishWork_true work s [] rfl
  have bench := keeps_bench_finishWork s (.entry e) s [] s.bench_refl
  rw [itemWork, M.bind_apply, first]
  cases pair with
  | false => exact ⟨rfl, bench⟩
  | true =>
    have can := finishWork_other (o := .entry e) (p := .half e) (by simp) (half rfl) (fun t h => laneJobs_half h e) s [] rfl
    rw [if_pos ⟨rfl, rfl⟩]
    exact ⟨finishWork_true can s _ rfl, keeps_bench_finishWork s (.half e) s _ bench⟩

/-! ### An operation of a descriptor -/

/-- The operation of a descriptor that executes it for the first time runs after its lane work. -/
theorem runOp_runs {s : State} {op e q : Nat} {d : QDesc} {c : CEntry} (h : s.runs op e q d c) (body : Nat → QDesc → CEntry → M Unit) :
    ∃ l, (runOp op e body s []).2 = (body q d c s l).2 ∧ s.bench (runAll l s) := by
  obtain ⟨found, entry, code, phase, load, work, -⟩ := h
  have goes : d.opcode = op ∧ d.phase = .executing ∧ (!s.loadWaits e) = true := ⟨code, phase, by rw [load]; rfl⟩
  rw [runOp, getS_bind, runAll_nil]
  simp only [found, entry]
  rw [if_pos goes]
  cases lanes : d.onLanes with
  | false => exact ⟨[], rfl, s.bench_refl⟩
  | true =>
    obtain ⟨one, half⟩ := work lanes
    obtain ⟨answer, bench⟩ := itemWork_runs (pair := decide (op = 0x07)) one (fun h => half (by simpa using h))
    refine ⟨_, ?_, bench⟩
    rw [if_neg (by simp), M.bind_apply, answer, if_pos rfl]

end Sys2Proof.Machine
end

section
/-! The stages of a descriptor's operation: keys, input, output, end (R161, R165, R583). -/
namespace Sys2Proof.Machine
open Sys2Proof

variable {s : State} {q e n out : Nat} {d : QDesc} {c : CEntry} {reads : List Out} {dram again : Dram} {Q : Unit → State → Prop}

/-! ### What a stage changes -/

theorem lanePages_engine (p : Nat) (h : p ∈ lanePages) : p ∈ queueWords := List.mem_append_left _ (List.mem_append_left _ (List.mem_append_right _ h))

/-- An event that names its code. -/
theorem within_raiseTenant_named (ev : PageEvent) (hp : ev.page ∈ queueWords) (he : ev.page < 64) (q t : Nat) (named : BitVec 16 × BitVec 96) :
    Within queueParts engineWords (raiseTenant ev q t (some named)) := by
  have event (p : Nat) (hp : p ∈ queueWords) (a : Nat) (h : eventWord [p] a = true) : engineWords a = true :=
    eventWord_ownPages _ _ a (eventWord_mono (by simpa using hp) a h)
  have tokens : Within queueParts engineWords (takeToken t) :=
    within_bind within_getS fun _ => (within_setTokens _ _).mono (by decide) (ownPages_mono queuePages_engine (by simp))
  refine within_bind ((within_setEvent ev he).mono (by decide) (event _ hp)) fun _ => within_bind within_getS fun _ =>
    within_bind (within_stamp (by decide)) fun _ => within_bind ((within_raiseItem _ _ _ _ _ _ _).mono (by decide) fun a h => ?_) fun _ => tokens
  exact eventWord_nil_ownPages _ _ a h

theorem within_inputChanged (q : Nat) (d : QDesc) (c : CEntry) (out : Nat) : Within queueParts engineWords (inputChanged q d c out) :=
  within_bind within_getS fun _ => within_bind (within_emits _ (by decide)) fun _ =>
    within_bind (within_bump_page _ (by decide) (freePages_engine _ (by decide)) (by decide) (by decide)) fun _ =>
    within_bind (within_raiseTenant_named _ (freePages_engine _ (by decide)) (by decide) _ _ _) fun _ => within_endDesc_engine _ _ _ _ _

theorem within_busFail_result (q : Nat) (d : QDesc) (result : Bytes) : Within queueParts engineWords (busFail q d result) :=
  within_bind (within_endDesc_engine _ _ _ _ _) fun _ => within_qerr _ _ _

theorem within_readInput (q : Nat) (m : Dram) (d : QDesc) (n k : Nat) : Within queueParts engineWords (readInput q m d n k) := by
  refine within_bind within_getS fun _ => within_bind (within_readDram _ _ _ _ (by decide)) fun a => ?_
  cases a with
  | none => exact within_pure _
  | some a => exact within_bind (within_readDram _ _ _ _ (by decide)) fun _ => within_pure _

/-- A second pass over SRC. -/
def readAgain (q : Nat) (d : QDesc) (n : Nat) (again : Dram) : M (Option Bytes) := do readDram again d.src n ((← getS).queueRid q)

theorem within_readAgain (q : Nat) (d : QDesc) (n : Nat) (again : Dram) : Within queueParts engineWords (readAgain q d n again) :=
  within_bind within_getS fun _ => within_readDram _ _ _ _ (by decide)

theorem within_withKey {go : Bank → M Unit} (h : ∀ b, Within queueParts engineWords (go b)) (q : Nat) (d : QDesc) (c : CEntry) (i : Nat) :
    Within queueParts engineWords (withKey q d c i go) := by
  refine within_bind within_getS fun _ => ?_
  split
  · exact h _
  · exact within_endDesc_engine _ _ _ _ _

theorem within_withInput {go : Bytes → Bytes → M (Option Bytes) → M Unit}
    (h : ∀ x y second, Within queueParts engineWords second → Within queueParts engineWords (go x y second))
    (q : Nat) (d : QDesc) (c : CEntry) (e n k out : Nat) (dram again : Dram) :
    Within queueParts engineWords (withInput q d c e n k out dram again go) := by
  refine within_bind (within_readInput _ _ _ _ _) fun r => ?_
  cases r with
  | none => exact within_busFail_result _ _ _
  | some r =>
    refine within_ite (within_bind (within_takeHd (by decide)) fun _ => within_ite (within_inputChanged _ _ _ _)
      (within_bind (within_readInput _ _ _ _ _) fun r => ?_)) ?_
    · cases r with
      | none => exact within_busFail_result _ _ _
      | some r => exact within_ite (within_inputChanged _ _ _ _) (h _ _ _ (within_pure _))
    · exact within_bind (within_foldEntry _ _ _ (by decide)) fun _ => within_bind (within_modEntry _ _ (by decide)) fun _ =>
        h _ _ _ (within_readAgain _ _ _ _)

theorem within_writeOut {go : M Unit} (h : Within queueParts engineWords go) (q : Nat) (d : QDesc) (b : Bytes) (dram : Dram) (result : Bytes) :
    Within queueParts engineWords (writeOut q d b dram result go) :=
  within_bind within_getS fun _ => within_ite h (within_bind (within_modDesc _ _ _) fun _ => within_bind (within_dramWrite _ _ _ _ (by decide)) fun _ =>
    within_ite h (within_busFail_result _ _ _))

theorem within_finish (q : Nat) (d : QDesc) (b : Bytes) (dram : Dram) (result : Bytes) : Within queueParts engineWords (finish q d b dram result) :=
  within_writeOut (within_endDesc_engine _ _ _ _ _) _ _ _ _ _

/-! ### The first execution -/

/-- The operation's lane work is done, and so much is read since `s`. -/
def State.readied (reads : List Out) (s t : State) : Prop := s.framed (.cellar :: .out :: benchParts) benchWords t ∧ t.out = s.out ++ reads

/-- A pair's registers are no words of lane work. -/
theorem ofPair_bench {y : RegField} {o : Nat} (h : y.OfPair q o) (ho : o < 0x40) : y.Clear benchWords := by
  obtain ⟨ha, -, hh⟩ := h
  refine ⟨?_, by omega, by omega⟩
  have page : lanePages.contains (y.addr / 0x1000) = false := by
    simp only [lanePages, List.contains_eq_mem, List.mem_cons, List.not_mem_nil, or_false, decide_eq_false_iff_not]
    omega
  have off : y.addr % 0x1000 ≠ 0x10 ∧ y.addr % 0x1000 ≠ 0x1C ∧ y.addr ≠ 0x3058 := by omega
  simp only [benchWords, ownPages, page, Bool.false_and, Bool.false_or]
  simp [eventWord, off]

theorem State.readied.queueRid {t : State} (h : s.readied reads t) (q : Nat) : t.queueRid q = s.queueRid q := by
  rw [State.queueRid, State.queueRid, h.1.2.fld (ofPair_bench (ofPair_ring q).1 (by decide))]

theorem State.readied.descs {t : State} (h : s.readied reads t) (q : Nat) : t.descs q = s.descs q :=
  State.descs_congr (show s.queues = t.queues from h.1.1 .queues (by decide)).symm q

theorem State.readied.entryKey {t : State} (h : s.readied reads t) (c : CEntry) (i : Nat) : t.entryKey c i = s.entryKey c i := by
  have slots : s.slots = t.slots := h.1.1 .slots (by decide)
  have bank : t.bankOf = s.bankOf := by
    funext k
    rw [State.bankOf, State.bankOf, State.slot, State.slot, slots]
  rw [State.entryKey, State.entryKey, bank]

theorem keeps_readied_cellar {m : M Unit} (h : Within [.cellar] benchWords m) : Keeps (s.readied reads) m := fun u l k =>
  ⟨h.keeps_framed (by decide) (fun _ h => h) s u l k.1, (h.same .out (by decide) u l).symm.trans k.2⟩

theorem readDram_readies {m : Dram} {a n : Nat} {rid : BitVec 12} :
    Leads (s.readied reads) (readDram m a n rid) fun r t => r = dramRead m a n ∧ s.readied (reads ++ readReqs m a n rid) t := fun u l k => by
  refine ⟨readDram_answer _ _ _ _ _ _, ?_, ?_⟩
  · exact (within_readDram (ps := [.out]) (f := benchWords) _ _ _ _ (by decide)).keeps_framed (by decide) (fun _ h => h) s u l k.1
  · rw [readDram_out, k.2, List.append_assoc]

/-- The key that an entry holds is used. -/
theorem withKey_leads {i : Nat} {b : Bank} (key : s.entryKey c i = some b) {go : Bank → M Unit} (h : Leads (s.readied reads) (go b) Q) :
    Leads (s.readied reads) (withKey q d c i go) Q := fun u l k => by
  rw [withKey, getS_bind, k.entryKey, key]
  exact h u l k

/-- The whole input is read: SRC, and nothing of AUX. -/
theorem readInput_leads {x : Bytes} (read : dramRead dram d.src n = some x) :
    Leads (s.readied reads) (readInput q dram d n 0) fun r t => r = some (x, []) ∧ s.readied (reads ++ readsOf s q d dram n 0) t := fun u l k => by
  obtain ⟨-, first⟩ := readDram_readies (m := dram) (a := d.src) (n := n) (rid := s.queueRid q) u l k
  obtain ⟨-, second⟩ := readDram_readies (m := dram) (a := d.aux) (n := 0) (rid := s.queueRid q) u _ first
  rw [readInput, getS_bind, k.queueRid, M.bind_apply, readDram_answer, read]
  dsimp only
  rw [M.bind_apply, M.pure_apply, readDram_answer, dramRead, Option.map_some]
  exact ⟨rfl, by rwa [List.append_assoc] at second⟩

theorem readAgain_leads : Leads (s.readied reads) (readAgain q d n again)
    fun r t => r = dramRead again d.src n ∧ s.readied (reads ++ readReqs again d.src n (s.queueRid q)) t := fun u l k => by
  rw [readAgain, getS_bind, k.queueRid]
  exact readDram_readies u l k

/-- An input read whole for the first time is held, and the operation goes on. -/
theorem withInput_leads {x : Bytes} (first : (c.replayed && c.digestDone) = false) (read : dramRead dram d.src n = some x)
    {go : Bytes → Bytes → M (Option Bytes) → M Unit} (h : Leads (s.readied (reads ++ readsOf s q d dram n 0)) (go x [] (readAgain q d n again)) Q) :
    Leads (s.readied reads) (withInput q d c e n 0 out dram again go) Q := by
  refine leads_bind (readInput_leads read) fun r => ?_
  rintro u l ⟨rfl, k⟩
  have fresh : ¬ (c.replayed = true ∧ c.digestDone = true) := by simpa using first
  dsimp only
  rw [M.ite_apply, if_neg fresh]
  exact leads_bind (keeps_readied_cellar (within_foldEntry _ _ _ (by decide))) (fun _ => leads_bind
    (keeps_readied_cellar (within_modEntry _ _ (by decide))) fun _ => h) u l k

/-! ### Output and end -/

/-- So much has been driven out, and the pair has the descriptor. -/
def State.sent (q : Nat) (seq : BitVec 32) (out : List Out) (t : State) : Prop := t.out = out ∧ t.holdsDesc q fun x => x.seq = seq

theorem State.readied.sent {t : State} (h : s.readied reads t) (hd : d ∈ s.descs q) : t.sent q d.seq (s.out ++ reads) :=
  ⟨h.2, d, h.descs q ▸ hd, rfl⟩

/-- Memory takes the output. -/
theorem writeOut_leads (hd : d ∈ s.descs q) {b result : Bytes} (takes : stores dram d.dst b.length) {go : M Unit}
    (h : Leads (State.sent q d.seq (s.out ++ reads ++ writeReqs dram d.dst b (s.queueRid q))) go Q) :
    Leads (s.readied reads) (writeOut q d b dram result go) Q := fun u l k => by
  have here := k.sent hd
  rw [writeOut, getS_bind, k.queueRid, M.ite_apply]
  split
  · rename_i empty
    obtain rfl := List.isEmpty_iff.1 empty
    refine h u l ⟨?_, here.2⟩
    rw [here.1]
    simp [writeReqs, linePieces, issued]
  · rw [M.bind_apply, M.bind_apply, M.ite_apply]
    have stored (l : List Prim) : (dramWrite dram d.dst b (s.queueRid q) u l).1 = true := by
      rw [dramWrite, M.bind_apply, M.pure_apply, dramStores, takes]
      rfl
    rw [if_pos (stored _)]
    refine h u _ ⟨?_, ?_⟩
    · rw [dramWrite_out, ← show _ = _ from (within_modDesc_desc q d.seq _).same .out (by decide) u l, here.1]
    · refine (within_dramWrite (ps := [.out]) (f := benchWords) _ _ _ _ (by decide)).keeps_holdsDesc (by decide) q _ u _ ?_
      exact modDesc_leads (R := fun x => x.seq = d.seq) (fun x hx => by rw [if_pos hx]; exact hx) u l here.2

/-- An end that wipes nothing drives nothing out. -/
theorem endDesc_sent (st : Nat) (result : Bytes) {out : List Out} : Leads (State.sent q d.seq out) (endDesc q d.seq st false result)
    fun _ t => t.out = out ∧ endedWith q d st result t := fun u l k =>
  ⟨((within_endDesc_status (ps := endParts) (fun _ h => h) (by simp) q d.seq st result).same .out (by decide) u l).symm.trans k.1,
    endDesc_endedWith k.2 st false result⟩

theorem finish_leads (hd : d ∈ s.descs q) {b result : Bytes} (takes : stores dram d.dst b.length) : Leads (s.readied reads)
    (finish q d b dram result) fun _ t => wrote s q d reads dram b t ∧ endedWith q d stOk result t :=
  writeOut_leads hd takes (endDesc_sent stOk result)

theorem endDesc_leads_readied (hd : d ∈ s.descs q) (st : Nat) (result : Bytes) : Leads (s.readied reads) (endDesc q d.seq st false result)
    fun _ t => t.out = s.out ++ reads ∧ endedWith q d st result t :=
  (endDesc_sent st result).mono (fun _ h => h.sent hd) fun _ _ h => h

/-- An operation, and what it leads to where it is executed for the first time. -/
theorem op_runs {op : Nat} {body : Nat → QDesc → CEntry → M Unit} (within : ∀ q d c, Within queueParts engineWords (body q d c))
    (h : s.runs op e q d c) (leads : Leads (s.readied []) (body q d c) Q) :
    ∃ t, exec1 (runOp op e body) s = .next t ∧ (SameBut queueParts s t ∧ WordsBut engineWords s t) ∧ Q () t := by
  have work := ((within_itemWork e (op = 0x07)).mono (qs := queueParts) (by decide) (ownPages_mono lanePages_engine lanePages_engine))
  have frame : Within queueParts engineWords (runOp op e body) := by
    refine within_bind within_getS fun s => ?_
    split
    · refine within_ite (within_ite (within _ _ _) (within_bind work fun _ => within_ite (within _ _ _) (within_pure _))) (within_pure _)
    · exact within_pure _
  obtain ⟨l, run, bench⟩ := runOp_runs h body
  refine ⟨runM (runOp op e body) s, rfl, frame.leaves s, ?_⟩
  rw [runM, run]
  have same : s.out = (runAll l s).out := bench.1.1 .out (by decide)
  exact leads s l ⟨bench.1.mono (by decide) fun _ h => h, by rw [List.append_nil, same]⟩

end Sys2Proof.Machine
end

section
/-! O47: lane operations of descriptors (R156, R158, R161, R162, R165, R444). -/
namespace Sys2Proof.Machine
open Sys2Proof

variable {s : State} {e q : Nat} {d : QDesc} {c : CEntry} {dram again : Dram} {b : Bank} {x : Bytes}

/-! ### What an operation changes -/

theorem within_aeadSeal (q : Nat) (d : QDesc) (c : CEntry) (e : Nat) (dram again : Dram) :
    Within queueParts engineWords (aeadSeal q d c e dram again) :=
  within_withKey (fun _ => within_withInput (fun _ _ _ _ => within_finish _ _ _ _ _) _ _ _ _ _ _ _ _ _) _ _ _ _

theorem within_aeadOpen (q : Nat) (d : QDesc) (c : CEntry) (e : Nat) (dram again : Dram) :
    Within queueParts engineWords (aeadOpen q d c e dram again) := by
  refine within_withKey (fun b => within_withInput (fun x y second hs => ?_) _ _ _ _ _ _ _ _ _) _ _ _ _
  refine within_ite (within_writeOut (within_ite (within_endDesc_engine _ _ _ _ _) (within_endDesc_engine _ _ _ _ _)) _ _ _ _ _)
    (within_ite (within_endDesc_engine _ _ _ _ _) (within_bind hs fun r => ?_))
  cases r with
  | none => exact within_busFail_result _ _ _
  | some y => exact within_writeOut (within_ite (within_endDesc_engine _ _ _ _ _) (within_inputChanged _ _ _ _)) _ _ _ _ _

theorem within_xtsOp (enc : Bool) (q : Nat) (d : QDesc) (c : CEntry) (e : Nat) (dram again : Dram) :
    Within queueParts engineWords (xtsOp enc q d c e dram again) :=
  within_withKey (fun _ => within_withInput (fun _ _ _ _ => within_finish _ _ _ _ _) _ _ _ _ _ _ _ _ _) _ _ _ _

theorem within_cmacGen (q : Nat) (d : QDesc) (c : CEntry) (e : Nat) (dram again : Dram) :
    Within queueParts engineWords (cmacGen q d c e dram again) :=
  within_withKey (fun _ => within_withInput (fun _ _ _ _ => within_finish _ _ _ _ _) _ _ _ _ _ _ _ _ _) _ _ _ _

theorem within_cmacVerify (q : Nat) (d : QDesc) (c : CEntry) (e : Nat) (dram again : Dram) :
    Within queueParts engineWords (cmacVerify q d c e dram again) :=
  within_withKey (fun _ => within_withInput (fun _ _ _ _ => within_ite (within_endDesc_engine _ _ _ _ _) (within_endDesc_engine _ _ _ _ _))
    _ _ _ _ _ _ _ _ _) _ _ _ _

theorem within_bridleOp (q : Nat) (d : QDesc) (c : CEntry) (e : Nat) (dram again : Dram) :
    Within queueParts engineWords (bridleOp q d c e dram again) := by
  refine within_withKey (fun b => within_withKey (fun b2 => within_withInput (fun x y second hs => ?_) _ _ _ _ _ _ _ _ _) _ _ _ _) _ _ _ _
  refine within_ite (within_endDesc_engine _ _ _ _ _) (within_bind hs fun r => ?_)
  cases r with
  | none => exact within_busFail_result _ _ _
  | some y => exact within_ite (within_finish _ _ _ _ _) (within_writeOut (within_inputChanged _ _ _ _) _ _ _ _ _)

/-! ### CMAC_VERIFY, AEAD_OPEN and BRIDLE: the tag decides -/

theorem cmacVerify_ends (hd : d ∈ s.descs q) (key : s.entryKey c 0 = some b) (first : (c.replayed && c.digestDone) = false)
    (read : dramRead dram d.src d.len = some x) : Leads (s.readied []) (cmacVerify q d c e dram again) fun _ t =>
      t.out = s.out ++ readsOf s q d dram d.len 0
        ∧ endedWith q d (if (cmac b.material x).take d.param = slice d.opdata 0 d.param then stOk else stAuthFail) [] t := by
  refine withKey_leads key (withInput_leads first read (leads_ite (fun same => ?_) fun other => ?_))
  · rw [if_pos same]
    exact endDesc_leads_readied hd stOk []
  · rw [if_neg other]
    exact endDesc_leads_readied hd stAuthFail []

section Opening
variable (hd : d ∈ s.descs q) (key : s.entryKey c 0 = some b) (first : (c.replayed && c.digestDone) = false)
  (read : dramRead dram d.src (d.auxLen + d.len + d.tagIn) = some x)
include hd key first read

/-- A right tag: the plaintext is written, from a second pass except under version 1.0. -/
theorem aeadOpen_good (good : tagOk b.material (slice d.opdata 0 12) d x = true)
    (reread : d.version ≠ 1 → dramRead again d.src (d.auxLen + d.len + d.tagIn) = some x)
    (takes : stores dram d.dst (gcmOpen b.material (slice d.opdata 0 12) (splitInput d x).2.1).length) :
    Leads (s.readied []) (aeadOpen q d c e dram again) fun _ t =>
      wrote s q d (readsOf s q d dram (d.auxLen + d.len + d.tagIn) 0
        ++ (if d.version = 1 then [] else readReqs again d.src (d.auxLen + d.len + d.tagIn) (s.queueRid q))) dram
        (gcmOpen b.material (slice d.opdata 0 12) (splitInput d x).2.1) t ∧ endedWith q d stOk [] t := by
  refine withKey_leads key (withInput_leads first read ?_)
  dsimp only
  rw [good]
  refine leads_ite (fun one => ?_) fun two => ?_
  · rw [if_pos one, List.append_nil]
    exact writeOut_leads hd takes (endDesc_sent stOk [])
  · rw [if_neg two]
    refine leads_bind readAgain_leads fun r => ?_
    rintro u l ⟨rfl, k⟩
    rw [reread two]
    dsimp only
    rw [good]
    exact writeOut_leads hd takes (endDesc_sent stOk []) u l k

/-- A wrong tag: the descriptor ends with AUTH_FAIL; nothing is written, except under version 1.0, which wipes it again. -/
theorem aeadOpen_bad (bad : tagOk b.material (slice d.opdata 0 12) d x = false)
    (takes : stores dram d.dst (gcmOpen b.material (slice d.opdata 0 12) (splitInput d x).2.1).length) :
    Leads (s.readied []) (aeadOpen q d c e dram again) fun _ t => endedWith q d stAuthFail [] t
      ∧ (d.version ≠ 1 → t.out = s.out ++ readsOf s q d dram (d.auxLen + d.len + d.tagIn) 0) := by
  refine withKey_leads key (withInput_leads first read ?_)
  dsimp only
  rw [bad]
  refine leads_ite (fun one => ?_) fun two => ?_
  · refine writeOut_leads hd takes fun u l k => ⟨endDesc_endedWith k.2 stAuthFail true [], fun two => absurd one two⟩
  · exact (endDesc_leads_readied hd stAuthFail []).mono (fun _ h => h) fun _ t h => ⟨h.2, fun _ => h.1⟩

/-- A right tag: the input is written sealed anew under the second key. -/
theorem bridleOp_good {b2 : Bank} (key2 : s.entryKey c 1 = some b2) (good : tagOk b.material (slice d.opdata 0 12) d x = true)
    (reread : dramRead again d.src (d.auxLen + d.len + d.tagIn) = some x) {r : Bytes × Bytes}
    (sealed : gcmSeal b2.material (d.sealIv c) (splitInput d x).1 (gcmOpen b.material (slice d.opdata 0 12) (splitInput d x).2.1) = r)
    (takes : stores dram d.dst (r.1 ++ r.2.take d.tagOut).length) : Leads (s.readied []) (bridleOp q d c e dram again) fun _ t =>
      wrote s q d (readsOf s q d dram (d.auxLen + d.len + d.tagIn) 0 ++ readReqs again d.src (d.auxLen + d.len + d.tagIn) (s.queueRid q)) dram
        (r.1 ++ r.2.take d.tagOut) t ∧ endedWith q d stOk (d.sealResult c) t := by
  refine withKey_leads key (withKey_leads key2 (withInput_leads first read ?_))
  dsimp only
  rw [good]
  refine leads_bind readAgain_leads fun y => ?_
  rintro u l ⟨rfl, k⟩
  rw [reread]
  dsimp only
  rw [good, if_pos rfl, sealed]
  exact finish_leads hd takes u l k

theorem bridleOp_bad {b2 : Bank} (key2 : s.entryKey c 1 = some b2) (bad : tagOk b.material (slice d.opdata 0 12) d x = false) :
    Leads (s.readied []) (bridleOp q d c e dram again) fun _ t => endedWith q d stAuthFail [] t
      ∧ t.out = s.out ++ readsOf s q d dram (d.auxLen + d.len + d.tagIn) 0 := by
  refine withKey_leads key (withKey_leads key2 (withInput_leads first read ?_))
  dsimp only
  rw [bad]
  exact (endDesc_leads_readied hd stAuthFail []).mono (fun _ h => h) fun _ t h => ⟨h.2, h.1⟩

end Opening

/-- Settles O47, operation by operation: its lane work done, its key is the entry's, its input what memory gives, and its end follows
from what memory takes. -/
theorem laneOperations : Obligations.LaneOperations := by
  unfold Obligations.LaneOperations
  intro s e dram again q d c b x wf
  dsimp only
  intro key
  have here {op : Nat} (h : s.runs op e.toNat q d c) : d ∈ s.descs q ∧ (c.replayed && c.digestDone) = false := by
    obtain ⟨found, -, -, -, -, -, first⟩ := h
    exact ⟨descOf_mem wf found, first⟩
  refine ⟨fun h read takes => ?_, fun h read reread takes => ?_, fun enc h read takes => ?_, fun h read takes => ?_, fun h read => ?_,
    fun b2 key2 h read reread takes => ?_⟩
  all_goals obtain ⟨hd, first⟩ := here h
  · exact op_runs (fun q d c => within_aeadSeal q d c _ dram again) h (withKey_leads key (withInput_leads first read (finish_leads hd takes)))
  · cases good : tagOk b.material (slice d.opdata 0 12) d x with
    | true =>
      obtain ⟨t, run, frame, wrote, ended⟩ := op_runs (fun q d c => within_aeadOpen q d c _ dram again) h
        (aeadOpen_good hd key first read good reread takes)
      exact ⟨t, run, frame, fun _ => ⟨frame, wrote, ended⟩, fun no => absurd no (by simp)⟩
    | false =>
      obtain ⟨t, run, frame, ended, out⟩ := op_runs (fun q d c => within_aeadOpen q d c _ dram again) h
        (aeadOpen_bad (again := again) hd key first read good takes)
      exact ⟨t, run, frame, fun no => absurd no (by simp), fun _ => ⟨ended, out⟩⟩
  · cases enc with
    | true => exact op_runs (fun q d c => within_xtsOp true q d c _ dram again) h (withKey_leads key (withInput_leads first read (finish_leads hd takes)))
    | false => exact op_runs (fun q d c => within_xtsOp false q d c _ dram again) h (withKey_leads key (withInput_leads first read (finish_leads hd takes)))
  · exact op_runs (fun q d c => within_cmacGen q d c _ dram again) h (withKey_leads key (withInput_leads first read (finish_leads hd takes)))
  · exact op_runs (fun q d c => within_cmacVerify q d c _ dram again) h (cmacVerify_ends hd key first read)
  · cases good : tagOk b.material (slice d.opdata 0 12) d x with
    | true =>
      obtain ⟨t, run, frame, wrote, ended⟩ := op_runs (fun q d c => within_bridleOp q d c _ dram again) h
        (bridleOp_good hd key first read key2 good (reread good) rfl takes)
      exact ⟨t, run, frame, fun _ => ⟨frame, wrote, ended⟩, fun no => absurd no (by simp)⟩
    | false =>
      obtain ⟨t, run, frame, ended, out⟩ := op_runs (fun q d c => within_bridleOp q d c _ dram again) h
        (bridleOp_bad (again := again) hd key first read key2 good)
      exact ⟨t, run, frame, fun no => absurd no (by simp), fun _ => ⟨ended, out⟩⟩

end Sys2Proof.Machine
end
